-- ==== Sys2Proof/Word.lean ====
section
/-! DEFINITION. The word types of the device (00_scope.md R4, R6): bytes, 32-bit registers,
64-bit counters and Jatrum words, 40-bit partition addresses, 48-bit sample times.
Byte order is little-endian everywhere (R4). -/

namespace Sys2Proof

/-- One byte. -/
abbrev Byte := BitVec 8
/-- A register word (R6). -/
abbrev Word := BitVec 32
/-- A Jatrum word or a 64-bit counter. -/
abbrev W64 := BitVec 64
/-- A partition address (R89) or an a-register (R133). -/
abbrev Addr := BitVec 40
/-- Sample time (R25). -/
abbrev Time := BitVec 48
/-- A string of bytes, lowest address first. -/
abbrev Bytes := List Byte

end Sys2Proof
end

