-- ==== Sys2Proof/Syntax.lean ====
section
/-! DEFINITION. The commands of the block: one constructor of `Instr` per row of
spec/opcode_table.json, with the operands the spec gives that row. What the environment
decides (an edge's instant, a self-test's outcome, drawn entropy) is an operand. -/

namespace Sys2Proof

/-- A scratchpad share of a core: core n.m by its global index 64n + m (R3), share j (R66). -/
structure Site where
  core : Fin 2048
  share : Fin 4
deriving DecidableEq, Repr, Inhabited

/-- The two halves of an engine word's life (R67, R68): the front end dispatches it into an
engine queue; later the engine starts it at the head of that queue. -/
inductive Act where
  | dispatch
  | start
deriving DecidableEq, Repr, Inhabited

/-- How a register access reaches the register (R6, R205, R370): an I3C private transfer, or a
register command of partition `part`; `device` tells a device-command source (R352). -/
inductive Via where
  | i3c
  | cmd (part : Fin 16) (device : Bool)
deriving DecidableEq, Repr, Inhabited

/-- Where a Nechesha command came from (R352, R354): I3C, the host on the own spur (SRC equal to
this device's id arriving on SIN), or another device id. -/
inductive Src where
  | i3c
  | spur
  | dev (id : BitVec 12)
deriving DecidableEq, Repr, Inhabited

/-- The sender-chosen fields of a command header (R348); OPCODE is the row's, LENGTH is the
length of the parameter bytes. -/
structure Hdr where
  form : Bool := false
  tag : BitVec 16 := 0
  part : Fin 16 := 0
  start : Time := 0
deriving DecidableEq, Repr, Inhabited

/-- What befell a DRAM line read (R99): a corrected bit, link retries, or an uncorrectable error with
the 128 bytes as they now read. -/
inductive LineErr where
  | corrected
  | retries (n : Nat)
  | uncorrectable (data : Bytes)
deriving DecidableEq, Repr, Inhabited

/-- An ECC outcome at a physical line (physical address div 128). -/
structure LineEvent where
  line : Nat
  err : LineErr
deriving DecidableEq, Repr, Inhabited

/-- A long packet as a receive port sees it (R303): the two link-level verdicts, data type,
virtual channel, word count, and the bytes of the payload (Lanlyn header first). -/
structure RawPkt where
  hdrBad : Bool := false
  crcBad : Bool := false
  dt : Nat
  vc : Nat
  wc : Nat
  bytes : Bytes
deriving DecidableEq, Repr, Inhabited

/-- How a start-up stage ended (R377, R378), with what stage 0 samples (R299, R434), what stage 4
marks (R378), and which ports stage 6 left UP (Table 19.2). -/
structure StageEnd where
  failed : Bool := false
  cause : Byte := 0
  kind : Byte := 0
  unit : BitVec 16 := 0
  endUs : Word := 0
  phyMode : BitVec 6 := 0
  i3cSa : BitVec 2 := 0
  badCores : List (Fin 2048) := []
  badMills : List (Fin 256) := []
  portsUp : BitVec 6 := 0
deriving DecidableEq, Repr, Inhabited

/-- A unit of the floor plan (R380, R385). -/
inductive UnitId where
  | core (g : Fin 2048)
  | mill (g : Fin 256)
  | narrow (n : Fin 32)
deriving DecidableEq, Repr, Inhabited

/-- Where an SRAM ECC error lies (R383). -/
inductive SramSpot where
  | corrected
  | cacheLine (phys : Nat)
  | unit (u : UnitId)
deriving DecidableEq, Repr, Inhabited

/-- The bytes of an I3C private write; `bad`: a parity or HDR-DDR CRC error ended it after them (R324, R327). -/
structure I3cData where
  bytes : Bytes
  bad : Bool := false
deriving DecidableEq, Repr, Inhabited

/-- The length of an I3C private read; `bad`: a parity or HDR-DDR CRC error spoilt its address (R324, R327). -/
structure I3cRead where
  count : Nat
  bad : Bool := false
deriving DecidableEq, Repr, Inhabited

/-- What a self-test found (R387): the units that failed, and whether a channel, a stream engine or a cache did. -/
structure TestFinding where
  units : List UnitId
  other : Bool := false
deriving DecidableEq, Repr, Inhabited

/-- How many lines a stream engine grants and how many of its slots land, the oldest first, in one step (R104). -/
structure SlotMoves where
  granted : Nat
  landed : Nat
deriving DecidableEq, Repr, Inhabited

/-- A thermal reading (R421): clusters, DRAM dies (16s + d is die d of stack s), Steward; each in °C, two's complement,
as the TEMP fields hold it. -/
structure Temps where
  cluster : List (Fin 32 × BitVec 8)
  die : List (Fin 64 × BitVec 8)
  steward : BitVec 8
deriving DecidableEq, Repr, Inhabited

/-- An output that drains a ring (R20, R287): an AES3 channel, or a slot of a CSI-2 group. -/
inductive OutTarget where
  | aes (c : Fin 16)
  | slot (g : Fin 16) (s : Fin 64)
deriving DecidableEq, Repr, Inhabited

/-- One decoded subframe of an AES3 input (R295-R297). -/
structure Subframe where
  word : BitVec 24 := 0
  parityBad : Bool := false
  cBit : Bool := false
deriving DecidableEq, Repr, Inhabited

/-- One received AES3 frame (R295): preamble and coding verdict, block start (Z preamble), the two
subframes, and the measured rate in 1/256 Hz. -/
structure InFrame where
  codingBad : Bool := false
  blockStart : Bool := false
  a : Subframe := {}
  b : Subframe := {}
  rate : Word := 0
deriving DecidableEq, Repr, Inhabited

/-- What a wake request is addressed to (R419). -/
inductive WakeTarget where
  | core (g : Fin 2048)
  | cluster (n : Fin 32)
deriving DecidableEq, Repr, Inhabited

/-- The commands: one constructor per row of spec/opcode_table.json. -/
inductive Instr where
  -- registers (R5 to R10, R40, R205, R300, R325)
  | registerWrite (via : Via) (addr : BitVec 24) (val : Word)
  | latchedPairRead (via : Via) (addr : BitVec 24)
  | readClear (via : Via) (addr : BitVec 24)
  | ldgSelWrite (via : Via) (val : Word)
  | txRateWrite (via : Via) (port : Fin 6) (val : Word)
  | cmdWinWrite (offset : BitVec 24) (data : I3cData)
  | pop (val : Word)
  -- I3C (R320 to R325)
  | i3cPrivateWrite (data : I3cData)
  | i3cPrivateRead (read : I3cRead)
  | enec (bits : Byte)
  | disec (bits : Byte)
  | rstdaa
  | entdaa (won : Bool) (da : BitVec 7)
  | setdasa (sa da : BitVec 7)
  | setnewda (da : BitVec 7)
  | setmwl (n : BitVec 16)
  | getmwl
  | setmrl (n : BitVec 16)
  | getmrl
  | getpid
  | getbcr
  | getdcr
  | getstatus
  | getmxds
  | rstact (action : Byte)
  | enthdr0
  | ibiRetry
  | hotJoin
  | ibi (code : Fin 3) (acked : Bool)
  -- start-up, pins and resets (R376 to R378, R392, R427, R431)
  | startUp
  | stageComplete (stage : Fin 8) (r : StageEnd)
  | stageTimeout (stage : Fin 8) (kind : Byte) (unit : BitVec 16) (us : Word)
  | resetNLow
  | pwrOkLow
  | wholeDeviceReset
  | railExcursion (rail : Fin 7)
  -- timebase (R25 to R39); instants are REFCLK time in 1/65536 cycle
  | referenceEdge (src : Fin 4) (t : Nat)
  | predictedInstant
  | windowClose
  | missingSpan
  | internalPeriod
  | remeasure
  | frameStart
  | fChange
  | delayedStart
  -- Nechesha commands (chapter 18): source, header, parameter bytes
  | identify (src : Src) (hdr : Hdr) (params : Bytes)
  | getStageReport (src : Src) (hdr : Hdr) (params : Bytes)
  | getFloorPlan (src : Src) (hdr : Hdr) (params : Bytes)
  | createPartition (src : Src) (hdr : Hdr) (params : Bytes)
  | destroyPartition (src : Src) (hdr : Hdr) (params : Bytes)
  | resetUnit (src : Src) (hdr : Hdr) (params : Bytes)
  | selfTest (src : Src) (hdr : Hdr) (params : Bytes)
  | testComplete (cmd : Nat) (found : TestFinding)
  | loadImage (src : Src) (hdr : Hdr) (params : Bytes)
  | admitContext (src : Src) (hdr : Hdr) (params : Bytes)
  | retireContext (src : Src) (hdr : Hdr) (params : Bytes)
  | quiescent (ctx : Fin 256)
  | retireLimitExpiry (ctx : Fin 256)
  | setShares (src : Src) (hdr : Hdr) (params : Bytes)
  | defineRopewalk (src : Src) (hdr : Hdr) (params : Bytes)
  | openStream (src : Src) (hdr : Hdr) (params : Bytes)
  | parkStream (src : Src) (hdr : Hdr) (params : Bytes)
  | parkComplete (stream : Fin 4096)
  | unparkStream (src : Src) (hdr : Hdr) (params : Bytes)
  | moveStream (src : Src) (hdr : Hdr) (params : Bytes)
  | moveReserve (src : Src) (hdr : Hdr) (params : Bytes)
  | moveOpen (src : Src) (hdr : Hdr) (params : Bytes)
  | moveRelease (src : Src) (hdr : Hdr) (params : Bytes)
  | reservationTimeout (stream : Fin 4096)
  | closeStream (src : Src) (hdr : Hdr) (params : Bytes)
  | drainCloseComplete (stream : Fin 4096)
  | drainingClose (stream : Fin 4096)
  | bindOutput (src : Src) (hdr : Hdr) (params : Bytes)
  | setSlotMask (src : Src) (hdr : Hdr) (params : Bytes)
  | setTimebase (src : Src) (hdr : Hdr) (params : Bytes)
  | configAesOut (src : Src) (hdr : Hdr) (params : Bytes)
  | aesDrainComplete (out : Fin 8)
  | configAesIn (src : Src) (hdr : Hdr) (params : Bytes)
  | writeMemory (src : Src) (hdr : Hdr) (params : Bytes) (ev : List LineEvent)
  | writeDataTimeout (cmd : Nat)
  | readMemory (src : Src) (hdr : Hdr) (params : Bytes) (ev : List LineEvent)
  | fillMemory (src : Src) (hdr : Hdr) (params : Bytes)
  | signalSync (src : Src) (hdr : Hdr) (params : Bytes)
  | waitSync (src : Src) (hdr : Hdr) (params : Bytes)
  | waitSyncTimeout (cmd : Nat)
  | fence (src : Src) (hdr : Hdr) (params : Bytes)
  | readRegister (src : Src) (hdr : Hdr) (params : Bytes)
  | writeRegister (src : Src) (hdr : Hdr) (params : Bytes)
  | getCounters (src : Src) (hdr : Hdr) (params : Bytes)
  | attest (src : Src) (hdr : Hdr) (params : Bytes)
  | verifyPackage (src : Src) (hdr : Hdr) (params : Bytes)
  | registerOwnerKey (src : Src) (hdr : Hdr) (params : Bytes)
  | installPatch (src : Src) (hdr : Hdr) (params : Bytes)
  | provenance (src : Src) (hdr : Hdr) (params : Bytes)
  | unlockDebug (src : Src) (hdr : Hdr) (params : Bytes)
  | discover (src : Src) (hdr : Hdr) (params : Bytes)
  | setFabricQuota (src : Src) (hdr : Hdr) (params : Bytes)
  | commandReceive
  -- Jatrum front-end words (R140): the share and the 64-bit word dispatched
  | nop (at_ : Site) (w : W64)
  | stop (at_ : Site) (w : W64)
  | br (at_ : Site) (w : W64)
  | lpBegin (at_ : Site) (w : W64)
  | tkWait (at_ : Site) (w : W64)
  | sysRd (at_ : Site) (w : W64)
  | sAdd (at_ : Site) (w : W64)
  | sSub (at_ : Site) (w : W64)
  | sMul (at_ : Site) (w : W64)
  | sAnd (at_ : Site) (w : W64)
  | sOr (at_ : Site) (w : W64)
  | sXor (at_ : Site) (w : W64)
  | sShl (at_ : Site) (w : W64)
  | sShr (at_ : Site) (w : W64)
  | sSra (at_ : Site) (w : W64)
  | sMin (at_ : Site) (w : W64)
  | sMax (at_ : Site) (w : W64)
  | sLi (at_ : Site) (w : W64)
  | aLi (at_ : Site) (w : W64)
  | aAddi (at_ : Site) (w : W64)
  | aAdds (at_ : Site) (w : W64)
  | sFra (at_ : Site) (w : W64)
  | pEq (at_ : Site) (w : W64)
  | pNe (at_ : Site) (w : W64)
  | pLt (at_ : Site) (w : W64)
  | pGe (at_ : Site) (w : W64)
  | pLtu (at_ : Site) (w : W64)
  | pGeu (at_ : Site) (w : W64)
  | pAnd (at_ : Site) (w : W64)
  | pOr (at_ : Site) (w : W64)
  | pXor (at_ : Site) (w : W64)
  | pAndn (at_ : Site) (w : W64)
  | pSet (at_ : Site) (w : W64)
  -- Jatrum engine words: the share, dispatch or start, the 64-bit word
  | sLd (at_ : Site) (act : Act) (w : W64)
  | sSt (at_ : Site) (act : Act) (w : W64)
  | syncSignal (at_ : Site) (act : Act) (w : W64)
  | syncAdd (at_ : Site) (act : Act) (w : W64)
  | syncWait (at_ : Site) (act : Act) (w : W64)
  | syncRd (at_ : Site) (act : Act) (w : W64)
  | dmaGet (at_ : Site) (act : Act) (w : W64)
  | dmaPut (at_ : Site) (act : Act) (w : W64)
  | haloSend (at_ : Site) (act : Act) (w : W64)
  | haloRecv (at_ : Site) (act : Act) (w : W64)
  | qSend (at_ : Site) (act : Act) (w : W64)
  | qRecv (at_ : Site) (act : Act) (w : W64)
  | qRel (at_ : Site) (act : Act) (w : W64)
  | narReq (at_ : Site) (act : Act) (w : W64)
  | millGemv (at_ : Site) (act : Act) (w : W64)
  | millGather (at_ : Site) (act : Act) (w : W64)
  | millScatterAdd (at_ : Site) (act : Act) (w : W64)
  | millReduce (at_ : Site) (act : Act) (w : W64)
  | millCopy (at_ : Site) (act : Act) (w : W64)
  | millFill (at_ : Site) (act : Act) (w : W64)
  | mxMul (at_ : Site) (act : Act) (w : W64)
  | mxLd (at_ : Site) (act : Act) (w : W64)
  | mxSt (at_ : Site) (act : Act) (w : W64)
  | mxZero (at_ : Site) (act : Act) (w : W64)
  | vAdd (at_ : Site) (act : Act) (w : W64)
  | vSub (at_ : Site) (act : Act) (w : W64)
  | vMul (at_ : Site) (act : Act) (w : W64)
  | vFma (at_ : Site) (act : Act) (w : W64)
  | vMin (at_ : Site) (act : Act) (w : W64)
  | vMax (at_ : Site) (act : Act) (w : W64)
  | vCmplt (at_ : Site) (act : Act) (w : W64)
  | vCmpeq (at_ : Site) (act : Act) (w : W64)
  | vSel (at_ : Site) (act : Act) (w : W64)
  | vShl (at_ : Site) (act : Act) (w : W64)
  | vShr (at_ : Site) (act : Act) (w : W64)
  | vSra (at_ : Site) (act : Act) (w : W64)
  | vGtan (at_ : Site) (act : Act) (w : W64)
  | vGlerp (at_ : Site) (act : Act) (w : W64)
  | vRed (at_ : Site) (act : Act) (w : W64)
  | vRq (at_ : Site) (act : Act) (w : W64)
  | vLd (at_ : Site) (act : Act) (w : W64)
  | vSt (at_ : Site) (act : Act) (w : W64)
  | vAct (at_ : Site) (act : Act) (w : W64)
  | vCvt (at_ : Site) (act : Act) (w : W64)
  | vCvts (at_ : Site) (act : Act) (w : W64)
  | vCvtl (at_ : Site) (act : Act) (w : W64)
  | scF1 (at_ : Site) (act : Act) (w : W64)
  | scF2 (at_ : Site) (act : Act) (w : W64)
  | scEma (at_ : Site) (act : Act) (w : W64)
  | convExpand (at_ : Site) (act : Act) (w : W64)
  | convTransposeExpand (at_ : Site) (act : Act) (w : W64)
  | dwConv (at_ : Site) (act : Act) (w : W64)
  | poolMax (at_ : Site) (act : Act) (w : W64)
  | poolAvg (at_ : Site) (act : Act) (w : W64)
  | gpoolAvg (at_ : Site) (act : Act) (w : W64)
  | segDecode (at_ : Site) (act : Act) (w : W64)
  | segSuppress (at_ : Site) (act : Act) (w : W64)
  | rngDraw (at_ : Site) (act : Act) (w : W64)
  | rngSeed (at_ : Site) (act : Act) (w : W64)
  | vsampleCat (at_ : Site) (act : Act) (w : W64)
  | vsampleMol (at_ : Site) (act : Act) (w : W64)
  | stLoad (at_ : Site) (act : Act) (w : W64)
  | stStore (at_ : Site) (act : Act) (w : W64)
  | ldgTake (at_ : Site) (act : Act) (w : W64)
  | ldgDone (at_ : Site) (act : Act) (w : W64)
  | fuseBegin (at_ : Site) (w : W64)
  | fuseEnd (at_ : Site) (w : W64)
  -- Ledger and stream events (chapters 9, 15, 16)
  | docketBuilderVisit (b : Fin 8)
  | entryCommit (rw : Fin 64) (seq : Word) (entry : Fin 128)
  | streamInputFragment (port : Fin 3) (part : Fin 16) (vc : Nat) (payload : Bytes)
  | streamCredit
  | outputDrain (target : OutTarget)
  -- narrow engine (R82 to R85)
  | synth (clu : Fin 32) (ev : List LineEvent)
  | analysis (clu : Fin 32) (ev : List LineEvent)
  | conv1d (clu : Fin 32) (ev : List LineEvent)
  | convert (clu : Fin 32) (ev : List LineEvent)
  -- stream engine (R103 to R108): which share's burst, and the slots that move in this step
  | descriptorFetch (at_ : Site) (moves : SlotMoves) (ev : List LineEvent)
  | descriptorCompletion (clu : Fin 32) (id : Nat) (ev : List LineEvent)
  -- Mill queue (R116 to R129)
  | millRoute (clu : Fin 32)
  | millGrant (clu : Fin 32) (ev : List LineEvent)
  | grantExpiry (clu : Fin 32) (rows : Nat)
  | millCompletion (clu : Fin 32)
  -- generators and Tally (chapters 13, 14)
  | reseed (core : Fin 2048)
  | reseedBufferRefill (core : Fin 2048)
  | windowBoundary (core : Fin 2048)
  | starved (at_ : Site)
  -- audio (chapter 15)
  | aes3OutputFrame (out : Fin 8)
  | aes3InputFrame (inp : Fin 2) (f : InFrame)
  -- links (chapter 16) and fabric (chapter 17)
  | portTraining (port : Fin 6) (up : Bool)
  | portDown (port : Fin 6)
  | longPacketReceive (port : Fin 3) (pkt : RawPkt)
  | frameStartReceive (port : Fin 3) (number : BitVec 16)
  | memoryWriteData (port : Fin 3) (src : BitVec 12) (vc : Nat) (payload : Bytes)
  | ack (port : Fin 3) (src : BitVec 12) (vc : Nat) (seq : BitVec 16)
  | nak (port : Fin 3) (src : BitVec 12) (vc : Nat) (seq : BitVec 16)
  | rxCredit (port : Fin 3) (src : BitVec 12) (vc : Nat) (count : BitVec 16)
  | ackTimer (src : BitVec 12) (spur : Bool) (vc : Nat)
  | nakRepeat (src : BitVec 12) (spur : Bool) (vc : Nat)
  | retransmitTimeout (dst : BitVec 12) (spur : Bool) (vc : Nat)
  | packetTransmit (port : Fin 6)
  | discovery
  | roll (port : Fin 2) (payload : Bytes)
  | call (port : Fin 2) (payload : Bytes)
  | callTimeout (ring : Fin 2)
  -- power, faults, security (chapters 19 to 21)
  | sensorRead (temps : Temps)
  | channelRecalibration (ch : Fin 256)
  | coreGate (core : Fin 2048)
  | clusterClockStop (clu : Fin 32)
  | clusterPowerGate (clu : Fin 32)
  | selfRefreshEntry (ch : Fin 256)
  | wake (target : WakeTarget)
  | selfRefreshExit (ch : Fin 256)
  | sramEccError (spot : SramSpot)
  | coreProbe (core : Fin 2048) (answered : Bool)
  | unitTimeout (u : UnitId)
  | entropyHealthFail
  | entropyRetest (pass : Bool)
  | provenanceHash (stream : Fin 4096)
  | undecodableWord (at_ : Site) (w : W64)
  | dispatchPastProgramEnd (at_ : Site)
  | audMclkInEdge (t : Nat)
  | channelRefresh (ch : Fin 256)
  | rxCreditReturn
  | railReturn (rail : Fin 7)
  | vddNetLoss
  | channelZeroingDone (part : Fin 16)
  | shakeLaneDone
  | admissionPrepared (ctx : Fin 256)
  | unitResetDone (cmd : Nat)
deriving DecidableEq, Repr, Inhabited

end Sys2Proof
end

