-- ==== Sys2Proof/Decode.lean ====
section
/-! DEFINITION. Decoding of table words. spec/opcode_table.json gives no row any bits (every row lists
its fields by name only), so no word spells a command. -/

namespace Sys2Proof

/-- The command a word of the table spells: none, for the table gives no row bits (log entry 2). -/
def decodeTableWord (_nbits _w : Nat) : Option Instr := none

end Sys2Proof
end

