-- ==== Sys2Proof/Machine/Tbl.lean ====
section
/-! DEFINITION. A finite table as plain data: a list of (key, value) pairs with rising keys and no
pair equal to what an unlisted key reads as, so that equal tables are equal lists. Memory
(`List Host.Cell`) is a table of bytes. -/

namespace Sys2Proof

/-- A sparse table keyed by Nat. -/
abbrev Tbl (α : Type) := List (Nat × α)

/-- The value at a key; `d` is what an unlisted key reads as. -/
def Tbl.get {α : Type} (d : α) : Tbl α → Nat → α
  | [], _ => d
  | (j, v) :: t, k => if j = k then v else Tbl.get d t k

/-- Remove a key. -/
def Tbl.erase {α : Type} : Tbl α → Nat → Tbl α
  | [], _ => []
  | (j, v) :: t, k => if j = k then Tbl.erase t k else (j, v) :: Tbl.erase t k

/-- Put a pair at its place in the rising order. -/
def Tbl.put {α : Type} : Tbl α → Nat → α → Tbl α
  | [], k, v => [(k, v)]
  | (j, w) :: t, k, v =>
    if k < j then (k, v) :: (j, w) :: t
    else if j = k then (k, v) :: t
    else (j, w) :: Tbl.put t k v

/-- Write a key, keeping the canonical form: the default value is never listed. -/
def Tbl.set {α : Type} [DecidableEq α] (d : α) (t : Tbl α) (k : Nat) (v : α) : Tbl α :=
  if v = d then Tbl.erase t k else Tbl.put t k v

/-- Every key of the table is above `b`. -/
def Tbl.above {α : Type} (b : Nat) : Tbl α → Bool
  | [] => true
  | (j, _) :: t => decide (b < j) && Tbl.above b t

/-- The canonical form: keys strictly rising, no entry equal to the default. -/
def Tbl.wf {α : Type} [DecidableEq α] (d : α) : Tbl α → Bool
  | [] => true
  | (j, v) :: t => decide (v ≠ d) && Tbl.above j t && Tbl.wf d t

end Sys2Proof
end

