-- ==== Sys2Proof/Machine/Bits.lean ====
section
/-! DEFINITION. Bit fields, little-endian byte strings, memory as a table of bytes, and the CRCs. -/

namespace Sys2Proof.Machine

/-- Bits [lo + n - 1 : lo] of `w`. -/
def fld (w lo n : Nat) : Nat := w / 2 ^ lo % 2 ^ n

/-- Bit `i` of `w`. -/
def bitOf (w i : Nat) : Bool := w / 2 ^ i % 2 == 1

/-- 1 for true. -/
def b2n (b : Bool) : Nat := if b then 1 else 0

/-- The two's complement value of the low `n` bits of `w`. -/
def signed (n w : Nat) : Int :=
  let v := w % 2 ^ n
  if 2 * v < 2 ^ n then (v : Int) else (v : Int) - (2 ^ n : Nat)

/-- The low `n` bits of an integer, two's complement. -/
def unsigned (n : Nat) (i : Int) : Nat := (i % ((2 ^ n : Nat) : Int)).toNat

/-- Saturation to a range (R43). -/
def clampInt (lo hi i : Int) : Int := if i < lo then lo else if hi < i then hi else i

/-- The smallest quotient that covers: ceil(a / b). -/
def ceilDiv (a b : Nat) : Nat := (a + b - 1) / b

/-- `n` bytes of a number, little-endian (R4). -/
def leBytes : Nat → Nat → Bytes
  | 0, _ => []
  | n + 1, v => BitVec.ofNat 8 v :: leBytes n (v / 256)

/-- The number that bytes spell, little-endian (R4). -/
def leNat : Bytes → Nat
  | [] => 0
  | b :: bs => b.toNat + 256 * leNat bs

/-- Bytes `off` to `off + n - 1`, zeros where the string has ended. -/
def slice (b : Bytes) (off n : Nat) : Bytes :=
  let t := (b.drop off).take n
  t ++ List.replicate (n - t.length) 0

/-- The little-endian field of `n` bytes at `off`. -/
def fieldAt (b : Bytes) (off n : Nat) : Nat := leNat ((b.drop off).take n)

/-- True when every byte is zero. -/
def allZero (b : Bytes) : Bool := b.all (· == 0)

/-- The numbers a bit mask of width `n` names, rising. -/
def maskList (n w : Nat) : List Nat := (List.range n).filter (bitOf w)

/-- The mask that names the given numbers. -/
def maskOf (l : List Nat) : Nat := l.foldl (fun a i => a ||| 2 ^ i) 0

/-- How many bits of the low `n` are set. -/
def popcount (n w : Nat) : Nat := (maskList n w).length

/-! ### Bytes at addresses -/

/-- The `n` bytes from key `a`. -/
def readBytes (m : List Host.Cell) (a n : Nat) : Bytes :=
  (List.range n).map fun i => Tbl.get 0 m (a + i)

/-- Store bytes from key `a` upward. -/
def writeBytes (m : List Host.Cell) (a : Nat) : Bytes → List Host.Cell
  | [] => m
  | b :: bs => writeBytes (Tbl.set 0 m a b) (a + 1) bs

/-! ### Checks -/

/-- One byte into a CRC-16 of polynomial 0x1021, most significant bit first (R440). -/
def crc16Byte (r : BitVec 16) (b : Byte) : BitVec 16 :=
  (List.range 8).foldl
    (fun c _ => if c.msb then (c <<< 1) ^^^ 0x1021#16 else c <<< 1)
    (r ^^^ (b.zeroExtend 16 <<< 8))

/-- The CRC-16 of R440, continued from `r`. -/
def crc16From (r : BitVec 16) (bs : Bytes) : BitVec 16 := bs.foldl crc16Byte r

/-- The CRC-16 of R440: initial value 0xFFFF, no final XOR. -/
def crc16 (bs : Bytes) : BitVec 16 := crc16From 0xFFFF bs

/-- n bytes of a number, most significant first, and the number. -/
def beBytes (n v : Nat) : Bytes := (leBytes n v).reverse
def beNat (b : Bytes) : Nat := leNat b.reverse

end Sys2Proof.Machine
end

