-- ==== Sys2Proof/Config.lean ====
section
/-! DEFINITION. What one device fixes (fuses, ROM) and the values the spec leaves open.
Every constant here is opaque: nothing in Lean can evaluate it, so a claim holds whatever it is. -/

namespace Sys2Proof.Config

/-- FREE VALUE (log entry 3): a fresh 128-bit draw of the entropy source or of any other value the
spec leaves open; applied to the state's counter `free`, which each use advances. -/
opaque freeBits : Nat → BitVec 128

/-- OTP device serial (R397). -/
opaque serial : BitVec 64
/-- OTP silicon revision (R397, R359). -/
opaque rev : BitVec 12
/-- OTP grade: true is BV-768-P (R397, Table 0.1). -/
opaque gradeP : Bool
/-- ROM firmware version: "This manual assigns it no value" (R359). -/
opaque romVersion : Word
/-- OTP absent-unit map (R380, R397): cores by global index. -/
opaque absentCore : Nat → Bool
/-- OTP absent-unit map (R380, R397): Mills by global index. -/
opaque absentMill : Nat → Bool
/-- OTP identity seed, 64 bytes, by byte index; nothing reads it but the derivation of the secret key (R397, R398). -/
opaque idSeed : Nat → Byte
/-- OTP identity public key (PK.seed, PK.root), 48 bytes, by byte index (R397). -/
opaque idPk : Nat → Byte
/-- OTP vendor chain digest, 64 bytes (R397). -/
opaque chainDigest : Nat → Byte
/-- OTP ROM digest, 64 bytes; also the ROM measurement once stage 1 has passed (R376, R397). -/
opaque romDigest : Nat → Byte
/-- FREE VALUE (log entries 46 and 104): cycles that the spec leaves to the machine's timing (an engine's stalls at
bank conflicts, the work and the draws of a word that faults), by the state's counter `free`. -/
opaque cycles : Nat → Nat

/-- The generator's step function: "not part of this specification" (R251). -/
opaque rngStep : BitVec 128 → BitVec 128
/-- The generator's output function (R251). -/
opaque rngOut : BitVec 128 → BitVec 64
/-- How a reseed mixes its buffer into the state (R253). -/
opaque rngMix : BitVec 128 → BitVec 128 → BitVec 128

/-- Raw transcendental results (R63), by function number of R169 and FP32 input: the spec states a
bound and the special values, not the bits. -/
opaque transc : Nat → BitVec 32 → BitVec 32
/-- The FP32 sample the ASRC forms for a ratio other than 1 (R287): the filter is not given.
Arguments: the last 96 ring samples the converter has taken since its history was cleared (newest first,
FP32), the ratio in 8.24, the phase between ring samples in 1/2^24. -/
opaque asrc : Bytes → BitVec 32 → Nat → BitVec 32
/-- The last-place bits of a scan (R173): the spec fixes the recurrence and says the bits "can differ
in the last places from a strictly serial FP32 evaluation". The FP32 value held at one position:
opcode, P, C, CL, channel, position, and every FP32 operand the position may depend on. -/
opaque scanValue : Nat → Nat → Nat → Nat → Nat → Nat → List (BitVec 32) → BitVec 32
/-- The cache set of a channel offset (R94: "Set and tag are taken from the channel offset"). -/
opaque cacheSet : Nat → Nat → Nat
/-- FREE VALUE (log entry 17): how far a counter of time or energy has gone since it was last read or stopped (cycles,
skipped clock edges, microseconds, microjoules), by register address and reading. -/
opaque measured : Nat → Nat → BitVec 64

end Sys2Proof.Config
end

