-- ==== Sys2Proof/Machine/State.lean ====
section
/-! DEFINITION. The state of the device as plain data. Every field's docstring gives its width, the
rule of spec/ that names it and its value at reset. A table's unlisted key reads as the default
structure. -/

namespace Sys2Proof.Machine

/-- Why a step stops with a fault. -/
inductive Fault where
  /-- Raised by SRAM_ECC_ERROR for a home-cache line whose physical address the spec calls unassigned
  (R88: offsets 0x4800_0000 to 0x7FFF_FFFF of a channel window). SAFE: the machine stops. -/
  | unassignedPhysical
deriving DecidableEq, Repr, Inhabited

/-- Why a command has no meaning. -/
inductive Refusal where
  /-- Raised by exec for a row that has no meaning yet, by its mnemonic. SAFE: the machine stops. -/
  | notModelled (mnemonic : String)
deriving DecidableEq, Repr, Inhabited

/-! ### Cores (chapters 4, 7, 8, 13, 14) -/

/-- Class of an accumulator tile (R156). -/
inductive TileClass where
  | none | int | float
deriving DecidableEq, Repr, Inhabited

/-- An accumulator tile, 32 x 32 x 32 bits (R65). -/
structure Tile where
  /-- class; R156; NONE -/
  cls : TileClass := .none
  /-- element (row, column) at key 32 row + column, 32 bits; R65; 0 -/
  elems : Tbl Word := []
deriving DecidableEq, Repr, Inhabited

/-- A level of the hardware loop nest (R142), also used by fuse.begin (R187). -/
structure Loop where
  first : Nat
  last : Nat
  left : Nat
  iter : Nat
  xs : Option Nat
  fused : Bool := false
deriving DecidableEq, Repr, Inhabited

/-- The fused command, stage and iteration that a word belongs to (R188, R189). -/
structure FuseTag where
  cmd : Nat
  stage : Nat
  iter : Nat
deriving DecidableEq, Repr, Inhabited

/-- A fused command with unfinished words (R187 to R189): the share's own number of it, the engine of each stage, how
many words the body holds of it, the iterations, and the words finished so far by iteration i and stage s at key
4 i + s. -/
structure Fused where
  id : Nat := 0
  engines : List Nat
  words : List Nat
  iters : Nat
  done : Tbl Nat := []
  /-- ticket wait of fuse.begin, ticket and target, which delays the first word (R187) -/
  wait : Option (Nat × BitVec 16) := none
  closed : Bool := false
  post : Option Nat := none
deriving DecidableEq, Repr, Inhabited

/-- A word in an engine queue with the registers it captured at dispatch (R68). -/
structure QEntry where
  word : W64
  /-- guarded off at dispatch (R136) -/
  off : Bool
  /-- word index in the share's program (R87) -/
  index : Nat
  /-- captured scalar registers (R68) -/
  s : Tbl Word
  /-- captured address registers (R68) -/
  a : Tbl Addr
  /-- stage and iteration of the fused command the word belongs to (R188, R189) -/
  stage : Option FuseTag := none
deriving DecidableEq, Repr, Inhabited

/-- One end of a declared halo link (R153, R157). -/
structure Halo where
  peer : Nat
  incoming : Bool
  peerLink : Nat
  buf : Nat
  size : Nat
  data : Nat
  free : Nat
  /-- messages sent (outgoing) or buffers released (incoming) since admission -/
  count : Nat := 0
deriving DecidableEq, Repr, Inhabited

/-- An ldg.done whose entries have not all resolved (R185): Docket, entries, what it then posts. -/
structure DoneWord where
  rope : Nat
  seq : Word
  entries : List Nat
  ticket : Option Nat
  stage : Option FuseTag
deriving DecidableEq, Repr, Inhabited

/-- One scratchpad share of a core: the resident context's register set, queues and accounts. -/
structure ShareSt where
  /-- resident context, none while free; R266; none -/
  ctx : Option Nat := none
  /-- dispatch has begun (all cores prepared); R132; false -/
  live : Bool := false
  /-- logical core index in the image's core map; R143; 0 -/
  logical : Nat := 0
  /-- scratchpad bytes by local address; R66; 0 -/
  scratch : List Host.Cell := []
  /-- the program's words; R132; empty -/
  program : List W64 := []
  /-- index of the next word to dispatch; R132; 0 -/
  pc : Nat := 0
  /-- dispatch ended by stop; R144; false -/
  stopped : Bool := false
  /-- s0 to s31, 32 bits; R65; 0 -/
  s : Tbl Word := []
  /-- a0 to a15, 40 bits; R65; 0 -/
  a : Tbl Addr := []
  /-- p0 to p7; R65; false -/
  p : Tbl Bool := []
  /-- v0 to v31, 256 bytes each, byte b of register r at key 256 r + b; R65; 0 -/
  v : List Host.Cell := []
  /-- t0 to t3; R65; zeros of class NONE -/
  t : Tbl Tile := []
  /-- tickets k0 to k15, 16 bits; R69; 0 -/
  k : Tbl (BitVec 16) := []
  /-- hardware loop nest, innermost first; R65; empty -/
  loops : List Loop := []
  /-- scalar registers pending a write from outside the front end; R134; none -/
  pendS : List Nat := []
  /-- address registers pending; R134; none -/
  pendA : List Nat := []
  /-- engine queues 0 matrix, 1 vector, 2 scan, 3 movement, oldest first; R67; empty -/
  queues : Tbl (List QEntry) := []
  /-- fused commands with unfinished words, oldest first; R187; none -/
  fused : List Fused := []
  /-- number of the next fused command (the model's own numbering); 0 -/
  fuseNext : Nat := 0
  /-- ldg.done words whose entries have not all resolved; R185; none -/
  doneWords : List DoneWord := []
  /-- declared halo links 0 to 3; R157; none -/
  halos : Tbl (Option Halo) := []
  /-- the Dockets that the share has named, as (ropewalk, seq), last named first; R197; none -/
  named : List (Nat × Word) := []
  /-- how many Dockets of its Ropewalk this share has taken; R185; 0 -/
  taken : Nat := 0
  /-- CLU.CORE_STAT.FAULTED bit; R87; false -/
  faulted : Bool := false
  /-- CLU.CORE_FAULT.CAUSE, 8 bits; R87; 0 -/
  cause : Byte := 0
  /-- CLU.CORE_FAULT.ENGINE, 3 bits; R87; 0 -/
  engine : BitVec 3 := 0
  /-- CLU.CORE_FAULT.INDEX, 12 bits; R87; 0 -/
  faultIndex : BitVec 12 := 0
  /-- Tally engine-cycle counters FE, MX, VX, SC, 64 bits; R283; 0 -/
  tallyFe : W64 := 0
  tallyMx : W64 := 0
  tallyVx : W64 := 0
  tallySc : W64 := 0
  /-- weight in effect this window; R268; 0 -/
  weight : Nat := 0
  /-- borrow limit in units of 64 in effect; R273; 0 -/
  borrow : Nat := 0
  /-- WEIGHT and BORROW of CLU.TALLY_CFG: 0 from admission to the next window boundary; R283; 0 -/
  cfgWeight : Nat := 0
  cfgBorrow : Nat := 0
  /-- starve limit in effect, milliseconds; R276, R277; 0 -/
  starve : Nat := 0
  /-- q_c granted at the last boundary; R268; 0 -/
  quota : Nat := 0
  /-- D_c, signed; R270; 0 -/
  deficit : Int := 0
  /-- B_c; R270; 0 -/
  borrowed : Nat := 0
  /-- DEBT_c, saturates at 0xFFFF_FFFF; R274; 0 -/
  debt : Nat := 0
  /-- STARVING bit: the current starvation has reached its limit; R276; false -/
  starving : Bool := false
deriving DecidableEq, Repr, Inhabited

/-- One core (R65). -/
structure CoreSt where
  /-- shares 0 to 3; R65 -/
  shares : Tbl ShareSt := []
  /-- generator state, 128 bits; R251; DESIGN CHOICE 0 (log entry 4): seeded before any use (R252) -/
  rng : BitVec 128 := 0
  /-- draw counter, 32 bits; R253; 0 -/
  draws : Word := 0
  /-- a reseed is due (the counter has wrapped); R253; false -/
  due : Bool := false
  /-- the reseed buffer, none when empty; R253; none -/
  reseedBuf : Option (BitVec 128) := none
  /-- the reseed is overdue (CLU.RNG_PEND); R253; false -/
  overdue : Bool := false
  /-- share last chosen in rotation, by unit (0 matrix, 1 vector, 2 scan and 4 front end: a background share;
  3 movement: any); R270; 3, so that the rotation begins at share 0 -/
  bgLast : Tbl Nat := []
  /-- queues of the shares, as (queue, share), in the order in which their heads became heads; R254; empty -/
  heads : List (Nat × Nat) := []
  /-- sample time at which the starvation of a background share began, by share; R276; none -/
  starveFrom : Tbl (Option Time) := []
  /-- under SELF_TEST; R388; false -/
  testing : Bool := false
  /-- under a level 0 or level 1 reset; R389; false -/
  resetting : Bool := false
  /-- clock gated; R418; false -/
  gated : Bool := false
deriving DecidableEq, Repr, Inhabited

/-! ### Clusters (chapters 4 to 6, 21) -/

/-- A line of a home cache (R94): channel k, line number of the channel offset. -/
structure CacheLine where
  chan : Nat
  line : Nat
  dirty : Bool
deriving DecidableEq, Repr, Inhabited

/-- A submitted descriptor list not yet wholly fetched (R102, R103). -/
structure DmaList where
  site : Site
  ctx : Nat
  id : Nat
  index : Nat
  get : Bool
  base : Nat
  count : Nat
  next : Nat := 0
  ticket : Option Nat := none
  stage : Option FuseTag := none
  /-- the descriptor fetched last had BOUNDARY = 1; R109 -/
  barrier : Bool := false
deriving DecidableEq, Repr, Inhabited

/-- A transfer descriptor held from fetch to completion (R103). -/
structure HeldDesc where
  id : Nat
  list : Nat
  site : Site
  ctx : Nat
  index : Nat
  raw : Bytes
  /-- the next line to issue: its run, its place in the run, and what the run's source lines have read (R104, R105) -/
  run : Nat := 0
  line : Nat := 0
  buf : Bytes := []
  bad : Nat := 0
  /-- streams that SERVES names, resolved at fetch (R108) -/
  serves : List Nat := []
deriving DecidableEq, Repr, Inhabited

/-- A transaction slot in use (R104): the descriptor, and for a read into a scratchpad where it delivers what it read. -/
structure Txn where
  id : Nat
  site : Site
  /-- the channel whose line the slot moves -/
  chan : Nat
  data : Option (Nat × Bytes) := none
deriving DecidableEq, Repr, Inhabited

/-- A Mill descriptor, from submission to completion (R116, R117); ids rise in submission order over all clusters. -/
structure MillDesc where
  id : Nat
  site : Site
  ctx : Nat
  index : Nat
  op : Nat
  raw : Bytes
  rows : Nat := 0
  bad : Nat := 0
  serves : List Nat := []
  started : Bool := false
  /-- the index list as the check read it; R121 -/
  idx : List Nat := []
  stage : Option FuseTag := none
deriving DecidableEq, Repr, Inhabited

/-- A narrow-engine request (R82). -/
structure NarReq where
  site : Site
  ctx : Nat
  index : Nat
  raw : Bytes
  stage : Option FuseTag := none
deriving DecidableEq, Repr, Inhabited

/-- A history slot of a narrow engine (R84): the stream and its committed history. -/
structure Slot where
  stream : Nat
  hist : Bytes
deriving DecidableEq, Repr, Inhabited

/-- One cluster. -/
structure CluSt where
  /-- share mode 0, 1, 2; R66, R87; 0 -/
  mode : Nat := 0
  /-- owning partition; R262; none -/
  part : Option Nat := none
  /-- rank among the partition's clusters; R112; 0 -/
  rank : Nat := 0
  /-- home-cache directory, most recently used first; R94; empty -/
  cache : List CacheLine := []
  /-- descriptor lists submitted, in order; R103; empty -/
  lists : List DmaList := []
  /-- descriptors held; R103; empty -/
  held : List HeldDesc := []
  /-- transaction slots in use, oldest first, at most 2,048; R104, R112; empty -/
  txns : List Txn := []
  /-- id of the descriptor last granted a slot; R104; none -/
  granted : Option Nat := none
  /-- share of the fetch burst last granted, as 4 core + share within the cluster, and descriptors left in it;
  R103; 255 and 0, so that the rotation begins at share 0 of core 0 -/
  burst : Nat × Nat := (255, 0)
  /-- next list or descriptor id (model's own numbering); 0 -/
  nextId : Nat := 0
  /-- Mill descriptors read by this cluster's cores, awaiting routing; R116; empty -/
  millSub : List MillDesc := []
  /-- Mill queue: descriptors routed here; R117; empty -/
  millQ : List MillDesc := []
  /-- context last granted; R119; none -/
  millLast : Option Nat := none
  /-- id of the descriptor in service; R118; none -/
  millCur : Option Nat := none
  /-- narrow-engine queue, arrival order; R82; empty -/
  narQ : List NarReq := []
  /-- history store, most recently used first; R84; empty -/
  slots : List Slot := []
  /-- cluster under a kind 2 SELF_TEST; R388; false -/
  testing : Bool := false
  /-- Mills under test: bit k; R388; 0 -/
  millTest : BitVec 8 := 0
  /-- channels under test: bit k; R388; 0 -/
  chanTest : BitVec 8 := 0
  /-- under a level 1 reset; R389; false -/
  resetting : Bool := false
  /-- PWR.CLU_STATE.STATE 0 running, 1 clock stopped, 2 power-gated, 3 tripped; R424; 0 -/
  power : Nat := 0
  /-- PWR.CLU_STATE.THROTTLE; R421; 0 -/
  throttle : Nat := 0
  /-- PWR.CLU_STATE.TEMP, °C, two's complement; R424; 0 -/
  temp : Byte := 0
deriving DecidableEq, Repr, Inhabited

/-- One DRAM channel (R101, R418, R420). -/
structure ChanSt where
  /-- CLU.CH_STAT.TEMP; R112; 0 -/
  temp : Byte := 0
  /-- refresh doubled; R101; false -/
  hot : Bool := false
  /-- issue halved; R101; false -/
  halved : Bool := false
  /-- in self-refresh; R112; true -/
  selfRefresh : Bool := true
  /-- recalibration fell due during self-refresh; R420; false -/
  recalDue : Bool := false
  /-- refreshes run, modulo 2^32 (R101; the model's own count); 0 -/
  refreshes : Word := 0
  /-- recalibrations run, modulo 2^32 (R101; the model's own count); 0 -/
  recals : Word := 0
deriving DecidableEq, Repr, Inhabited

/-! ### Synchronisation objects (chapter 7) -/

/-- Who waits on an object (R147, R149, R369). -/
inductive Waiter where
  /-- a sync.wait of a share; `ticket` posts when satisfied; `blocks` is B = 1 -/
  | word (obj : Nat) (target : Word) (site : Site) (blocks : Bool) (ticket : Option Nat)
      (stage : Option FuseTag)
  /-- a WAIT_SYNC command, by its number in `cmds` -/
  | steward (obj : Nat) (target : Word) (cmd : Nat)
deriving DecidableEq, Repr, Inhabited

/-! ### The Ledger, Ropewalks and Dockets (chapters 9, 10) -/

/-- STATUS[2:0] of a Ledger entry (R191). -/
inductive StStatus where
  | closed | opened | ready | waitingInput | waitingRoom | parked | draining | faulted
deriving DecidableEq, Repr, Inhabited

/-- One chain queue: frames held and read index (R191 CQ_STATE), and the reset mark of each held
frame, oldest first (R192). -/
structure ChainQ where
  fill : Nat := 0
  rd : Nat := 0
  marks : List Bool := []
deriving DecidableEq, Repr, Inhabited

/-- A pending narrow step (R84, R214): the samples in OR_FMT, how many, and the new history. -/
structure PendStep where
  samples : Bytes
  count : Nat
  hist : Option Bytes
  /-- cluster whose narrow engine holds it -/
  engine : Nat := 0
deriving DecidableEq, Repr, Inhabited

/-- The provenance chain of a stream (R409). -/
structure Prov where
  start : Bytes := []
  startTime : Time := 0
  startPos : Nat := 0
  chain : Bytes := []
  frames : Nat := 0
  endTime : Time := 0
  endPos : Nat := 0
  /-- committed frames lane 1 has not hashed: (POS before the commit, samples, time) -/
  waiting : List (Nat × Bytes × Time) := []
  /-- samples committed since the last frame commit -/
  frame : Bytes := []
deriving DecidableEq, Repr, Inhabited

/-- A reservation on the destination of a move (R345, R365): the tag and source of its MOVE_RESERVE, what of the
copy has arrived as (offset, length), and whether a line refused some of it. -/
structure Reserve where
  tag : BitVec 16
  src : BitVec 12
  got : List (Nat × Nat) := []
  bad : Bool := false
deriving DecidableEq, Repr, Inhabited

/-- A Ledger entry (Table 9.1) with what the other rules keep per stream. -/
structure Entry where
  /-- partition it belongs to; R442; none -/
  part : Option Nat := none
  /-- STATUS[2:0]; R191; CLOSED -/
  status : StStatus := .closed
  held : Bool := false
  seqend : Bool := false
  resetPend : Bool := false
  moving : Bool := false
  parking : Bool := false
  /-- context id, 8 bits; R191; 0 -/
  context : Nat := 0
  /-- Ropewalk ids of the links; R191; empty -/
  chain : List Nat := []
  /-- position, 22 bits; R17; 0 -/
  pos : Nat := 0
  /-- STEP, saturates at 0xFFFF; R191; 0 -/
  step : Nat := 0
  /-- fault field, 16 bits; R191; 0 -/
  fault : BitVec 16 := 0
  state : Addr := 0
  stateSize : Word := 0
  lowWater : Word := 0
  init : Addr := 0
  iqBase : Addr := 0
  iqSlot : BitVec 16 := 0
  iqDepth : Nat := 0
  iqRd : Nat := 0
  iqWr : Nat := 0
  /-- chunks present; the difference of IQ_WR and IQ_RD with full told from empty; 0 -/
  iqCount : Nat := 0
  cqFrame : BitVec 16 := 0
  cqBase : Addr := 0
  cq : Tbl ChainQ := []
  /-- output binding; R288, R313; 0xFFFF unbound -/
  bind : BitVec 16 := 0xFFFF
  orBase : Addr := 0
  orFmt : BitVec 3 := 0
  orSize : Word := 0
  /-- drain count; R441; 0 -/
  orRd : Word := 0
  /-- committed write count; R441; 0 -/
  orWr : Word := 0
  /-- last computed headroom; R191; 0xFFFF_FFFF -/
  headroom : Word := 0xFFFFFFFF
  ringRate : Word := 0
  underruns : Word := 0
  slip : Word := 0
  discards : Word := 0
  commits : W64 := 0
  /-- owner id, and whether it is this device's own, whatever that is; R354, R363; 0, false -/
  owner : BitVec 12 := 0
  ownerSelf : Bool := false
  /-- chunk number expected; R310; 0 -/
  chunk : Word := 0
  /-- unfinished chunk: VC, bytes received, reset mark; R310; none -/
  partialChunk : Option (Nat × Nat × Bool) := none
  /-- number of a discarded chunk whose later fragments are still to come; R310; none -/
  badChunk : Option Word := none
  /-- reset marks of the present chunks, oldest first; R192; empty -/
  marks : List Bool := []
  /-- no chunk has arrived since OPEN_STREAM; R192; false -/
  fresh : Bool := false
  /-- pending narrow step; R84; none -/
  pend : Option PendStep := none
  /-- provenance; R409 -/
  prov : Prov := {}
  /-- headroom is below LOW_WATER and the stream counts; R272; false -/
  urgent : Bool := false
  /-- stream credits owed to the owner; R311; 0 -/
  credits : Nat := 0
  /-- a reservation of MOVE_RESERVE; R365; none -/
  reserved : Option Reserve := none
deriving DecidableEq, Repr, Inhabited

/-- An edge of a Ropewalk (Table 10.3) with its rounds (R210). -/
structure Edge where
  pfirst : Nat
  pnum : Nat
  pport : Nat
  cfirst : Nat
  cnum : Nat
  cport : Nat
  slot : Nat
  unit : Nat
  rounds : Nat
  buf : Nat
  /-- messages sent so far, by producer -/
  sent : Tbl Nat := []
  /-- rounds delivered so far, by consumer -/
  recv : Tbl Nat := []
  /-- rounds released so far, by consumer -/
  rel : Tbl Nat := []
  /-- length of producer p's message of round k at key (k mod ROUNDS) x P + p -/
  lens : Tbl Nat := []
deriving DecidableEq, Repr, Inhabited

/-- A defined Ropewalk (R206, R207). -/
structure Rope where
  ctx : Nat
  /-- stages as (first logical core, number of cores) -/
  stages : List (Nat × Nat)
  edges : List Edge
  bmax : Nat
  inflight : Nat
  steps : Nat
  samples : Nat
  fb : Bool
  fbLen : Nat
  fbOff : Nat
  /-- SEQ of the next Docket; R196; 0 -/
  seq : Word := 0
  /-- ROT_r; R195; 0 -/
  rot : Nat := 0
deriving DecidableEq, Repr, Inhabited

/-- An entry of a Docket (Table 9.5) with its fate. -/
structure DEntry where
  stream : Nat
  reset : Bool
  first : Bool
  unbound : Bool
  link : Nat
  pos : Nat
  step : Nat
  headroom : Word
  inAddr : Addr
  outAddr : Addr
  state : Addr
  dropped : Bool := false
  /-- returned by ldg.done, with its FRAME bit; R185 -/
  returned : Option Bool := none
  /-- committed or resolved without commit; R185 -/
  resolved : Bool := false
  /-- pending stores of the step in arrival order: state offset, bytes; R186 -/
  stores : List (Nat × Bytes) := []
deriving DecidableEq, Repr, Inhabited

/-- An in-flight Docket (R196, R197). -/
structure Docket where
  rope : Nat
  seq : Word
  builder : Nat
  time : Time
  entries : List DEntry
  /-- logical indices of first-stage cores that have taken it -/
  taken : List Nat := []
deriving DecidableEq, Repr, Inhabited

/-! ### Partitions, images, contexts (chapters 7, 14, 20) -/

/-- A partition (R262). -/
structure Part where
  exists_ : Bool := false
  /-- owned clusters, ascending; R89 -/
  clusters : List Nat := []
  /-- L in units of 64 MiB; R89 -/
  local_ : Nat := 0
  salt : BitVec 16 := 0
  ledgerQuota : Nat := 0
  ctxQuota : Nat := 0
  /-- way mask by owned cluster; R95 -/
  ways : Tbl (BitVec 16) := []
  /-- source list: device ids; R352 -/
  sources : List (BitVec 12) := []
  /-- configuration measurement; R403 -/
  config : Bytes := []
  /-- owner key: PARAM and the 64 KEY bytes; R404 -/
  owner : Option (Nat × Bytes) := none
  signedOnly : Bool := false
  /-- recorded package digests, in order; R406 -/
  packages : List Bytes := []
  /-- Q_p set by SET_FABRIC_QUOTA; R333 -/
  quotaSet : Option Nat := none
  /-- insertion allowance; R333 -/
  allowance : Int := 0
  /-- under a level 2 reset; R391 -/
  resetting : Bool := false
  /-- DESTROY_PARTITION in progress (zeroing); R96 -/
  destroying : Bool := false
deriving DecidableEq, Repr, Inhabited

/-- A recorded image (R362). -/
structure Image where
  part : Nat
  addr : Nat
  bytes : Nat
  digest : Bytes
deriving DecidableEq, Repr, Inhabited

/-- A context from admission to retirement (R266, R279). -/
structure Ctx where
  part : Nat
  image : Nat
  digest : Bytes
  /-- (global core, share) by logical core index; R157, R266 -/
  cores : List (Nat × Nat)
  weight : Nat
  borrow : Nat
  starve : Nat
  resident : Bool := false
  faulted : Bool := false
  retiring : Bool := false
  /-- cores still preparing their shares; R132 -/
  preparing : Bool := true
  seDone : W64 := 0
  millDone : W64 := 0
  steps : W64 := 0
  starvedEvents : Word := 0
  /-- sample time of the last STARVED raised; R276 -/
  lastStarved : Option Time := none
  /-- sample time [47:32] latched by a sys.rd of SEL 6; R143; 0 -/
  timeHi : BitVec 16 := 0
deriving DecidableEq, Repr, Inhabited

/-! ### Commands in progress (chapter 18) -/

/-- What a command in progress waits for. -/
inductive Wait where
  | park (stream : Nat)
  | closeDrain (stream : Nat)
  /-- a retirement, its form, and its LIMIT in microseconds (R279) -/
  | retire (ctx : Nat) (drain : Bool) (limit : Nat)
  | zeroing (part : Nat)
  | reset (level : Nat) (unit : Nat)
  | test (kind : Nat) (unit : Nat)
  | admission (ctx : Nat)
  | lane (op : Nat) (params : Bytes)
  | aesDrain (out : Nat) (targetA targetB : Option (Nat × Word))
  /-- WRITE_MEMORY's packets: the range, what has arrived as (offset, length), the bytes by offset, DCRC, and
  whether a line refused them (R312, R367) -/
  | writeData (addr len : Nat) (got : List (Nat × Nat)) (data : List Host.Cell) (check : Option (BitVec 16)) (bad : Bool)
  /-- READ_MEMORY's packets are unacknowledged; how it then completes (R312) -/
  | readData (st : BitVec 16) (results : Bytes)
  /-- a WAIT_SYNC: the object, and the count at which it times out (R369) -/
  | sync (obj : Nat) (limit : Option Nat)
  | fence (others : List Nat)
  | discover
  /-- a MOVE_STREAM to another device: stream, parameters, phase (0 MOVE_RESERVE sent, 1 copying, 2 MOVE_OPEN
  sent), the tag awaited, the reserved entry, and one more than the chunks copied, 0 before any (R345, R365) -/
  | transfer (stream : Nat) (params : Bytes) (phase : Nat) (tag : BitVec 16) (remote : Nat) (copied : Nat)
deriving DecidableEq, Repr, Inhabited

/-- A command in progress (R353). -/
structure Cmd where
  id : Nat
  src : Src
  opcode : Nat
  form : Bool
  tag : BitVec 16
  part : Nat
  wait : Wait
deriving DecidableEq, Repr, Inhabited

/-- A delayed command (R38). -/
structure Delayed where
  id : Nat
  start : Time
  src : Src
  opcode : Nat
  hdr : Hdr
  params : Bytes
deriving DecidableEq, Repr, Inhabited

/-- A received command the Steward has not taken (R353): source, raw bytes. -/
structure RxCmd where
  src : Src
  part : Option Nat
  bytes : Bytes
deriving DecidableEq, Repr, Inhabited

/-! ### Timebase (chapter 2) -/

/-- Timebase states (Table 2.2). -/
inductive TbSt where
  | acquire | locked | relock | holdover
deriving DecidableEq, Repr, Inhabited

/-- The timebase. Instants are REFCLK time in 1/65536 cycle from the start of stage 1. -/
structure Tb where
  /-- sample-time counter, 48 bits; R25; 0 -/
  count : Time := 0
  /-- counting has begun (start of stage 1); R25; false -/
  running : Bool := false
  /-- selected source, 2 bits; R27, R40; 0 -/
  src : Fin 4 := 0
  /-- TB.CTRL.FRAME_SEL, 3 bits; R40; 2 -/
  frameSel : Fin 8 := 2
  /-- FRAME_SEL the frames run on; R37; 2 -/
  frameEff : Fin 8 := 2
  /-- instant of a pending change of F; R37; none -/
  fAt : Option Time := none
  /-- internal rate, 1/256 Hz; R40; 0x00BB_8000 -/
  intRate : Word := 0x00BB8000
  /-- state; R40; LOCKED -/
  st : TbSt := .locked
  /-- consecutive missing edges; R40; 0 -/
  miss : Nat := 0
  /-- consecutive rejected edges; R40; 0 -/
  rej : Nat := 0
  /-- accepted rate; R40; 0x00BB_8000 -/
  rate : Word := 0x00BB8000
  /-- REFCLK cycles per period, 16.16; R40; 0x0208_D555 -/
  ratio : Word := 0x0208D555
  /-- anchor of the prediction; R30; 0 -/
  anchor : Nat := 0
  /-- instant of the edge accepted in the current window; R30; none -/
  accepted : Option Nat := none
  /-- the counter has already incremented for the current prediction; R30; false -/
  counted : Bool := false
  /-- instant of the last edge of the selected source; R29; none -/
  lastEdge : Option Nat := none
  /-- the last up to 256 measured periods, newest first; R29; empty -/
  periods : List Nat := []
  /-- instant of the last increment; R29; 0 -/
  lastInc : Nat := 0
  /-- windows closed since the last re-measurement began, the anchor it began at, and the span of the
  last 256 until REMEASURE takes it; R33; 0, 0, none -/
  sinceMeasure : Nat := 0
  measureFrom : Nat := 0
  measured : Option Nat := none
  /-- sample time at which the last Lanlyn frame began; R36; none -/
  frameAt : Option Time := none
  /-- rising edges driven on WCLK_OUT, modulo 2^48; R29; 0 -/
  wclk : Time := 0
  /-- sample time of the last rate change; R40; 0 -/
  chgTime : Time := 0
  /-- rates before and after the last change; R40; 0 -/
  chgOld : Word := 0
  chgNew : Word := 0
deriving DecidableEq, Repr, Inhabited

/-! ### Audio (chapter 15) and audio groups (chapter 16) -/

/-- What the converter of an output or slot last supplied for the coming frame. -/
structure Word24 where
  word : BitVec 24 := 0
  v : Bool := true
  inserted : Bool := false
  muted : Bool := false
  /-- the channel has supplied the coming frame's word -/
  set : Bool := false
deriving DecidableEq, Repr, Inhabited

/-- The provenance record of a subframe's block (Table 15.5): bytes 0 to 21 as sent, and whether a frame
of the block so far carried an inserted zero or was muted. -/
structure ProvRec where
  bytes : Bytes := []
  under : Bool := false
  muted : Bool := false
deriving DecidableEq, Repr, Inhabited

/-- A bound drain (R287): the converter's phase (ring samples owed, in 8.24), and its history, newest first: FP32
samples, and which of them are zeros inserted under R20. -/
structure Conv where
  phase : Nat := 0
  hist : Bytes := []
  zeros : List Bool := []
deriving DecidableEq, Repr, Inhabited

/-- An AES3 output (Table 15.6). -/
structure AesOut where
  en : Bool := false
  consumer : Bool := false
  wlen : Fin 4 := 0
  clk : Fin 8 := 0
  draining : Bool := false
  part : Option Nat := none
  category : Byte := 0
  copyOk : Bool := false
  origin : Word := 0
  destn : Word := 0
  rangeA : Bool := false
  rangeB : Bool := false
  clkMute : Bool := false
  /-- frames sent since enable; R298; 0 -/
  frames : Word := 0
  /-- blocks sent since enable; R293; 0 -/
  block : Word := 0
  /-- frame of the current 192-frame block that is sent next; R284; 0 -/
  place : Nat := 0
  /-- counter value at which the last frame started, and frames started at it; R285; none, 0 -/
  sentAt : Option Time := none
  sent : Nat := 0
  /-- the current block's channel status, 24 bytes, of subframes A and B; R292 -/
  csA : Bytes := []
  csB : Bytes := []
  /-- the current block's provenance records of subframes A and B; R293 -/
  recA : ProvRec := {}
  recB : ProvRec := {}
  /-- words supplied for the coming frame; R291 -/
  a : Word24 := {}
  b : Word24 := {}
  /-- the last frame sent: subframe words with V, U, C, P, and whether preamble Z; empty: the line is at logic 0; R291,
  R294; empty -/
  last : List (BitVec 28) := []
  lastZ : Bool := false
deriving DecidableEq, Repr, Inhabited

/-- An AES3 channel's binding (R289, R290). -/
structure Chan where
  stream : Option Nat := none
  successor : Option Nat := none
  conv : Conv := {}
deriving DecidableEq, Repr, Inhabited

/-- An AES3 input (Table 15.6). -/
structure AesIn where
  capture : Bool := false
  part : Option Nat := none
  sync : Nat := 0
  ringFrames : Nat := 0
  ring : Nat := 0
  locked : Bool := false
  nonAudio : Bool := false
  pro : Bool := false
  rate : Word := 0
  /-- frames written in whole blocks; R298; 0 -/
  wr : Word := 0
  /-- ring frame at which the current block starts; R296; 0 -/
  place : Nat := 0
  time : Time := 0
  /-- consecutive good and bad frames; R295; 0 -/
  good : Nat := 0
  bad : Nat := 0
  /-- frames of the current block, its first frame's time, its C bits; R295, R296 -/
  frame : Nat := 0
  blockTime : Time := 0
  inBlock : Bool := false
  /-- the current block has been captured from its first frame; R296; false -/
  capBlock : Bool := false
  cbits : List Bool := []
  /-- latched channel status, 24 bytes; R298; 0 -/
  cs : Bytes := []
  /-- the previous 16-bit words of both subframes, and frames since a preamble pair; R297 -/
  prevA : BitVec 16 := 0
  prevB : BitVec 16 := 0
  /-- frames since the last preamble pair, at most 4096; R297; 4096 (none seen) -/
  sincePair : Nat := 4096
  statusBit : Bool := false
deriving DecidableEq, Repr, Inhabited

/-- A queued change of an output group (R290, R315), applied at a frame start. -/
inductive Change where
  | mask (group : Nat) (bits value : W64)
  | bind (stream : Nat) (target : BitVec 16)
  | unbind (stream : Nat)
deriving DecidableEq, Repr, Inhabited

/-- A CSI-2 audio group (Table 16.10). -/
structure Group where
  active : Bool := false
  part : Nat := 0
  clk : Fin 8 := 0
  fmt : Fin 4 := 0
  vc : Nat := 0
  dest : BitVec 12 := 0
  mask : W64 := 0
  /-- bound stream by slot -/
  slots : Tbl (Option Nat) := []
  succs : Tbl (Option Nat) := []
  convs : Tbl Conv := []
  /-- samples of the current frame by slot, UNDER and MUTE bits; R314 -/
  samples : Tbl Bytes := []
  under : W64 := 0
  mute : W64 := 0
  /-- slots whose ratio is out of range (R35) -/
  range : W64 := 0
deriving DecidableEq, Repr, Inhabited

/-! ### Links and fabric (chapters 16, 17) -/

/-- A Lanlyn packet (R306) with its data type and virtual channel. -/
structure Pkt where
  dt : Nat
  vc : Nat
  dst : BitVec 12
  part : Nat := 0
  src : BitVec 12
  kind : Nat := 0
  rel : Bool := false
  retx : Bool := false
  sync : Bool := false
  seq : BitVec 16 := 0
  time : Time := 0
  payload : Bytes
deriving DecidableEq, Repr, Inhabited

/-- A packet queued by this device, not yet sent: for the spur or the fabric; `relay` marks a relayed
host packet, `cmd` the READ_MEMORY or MOVE_STREAM it serves, `frame` the audio frame it belongs to, `charge` the
partition whose insertion quota it uses (R333), `rx` the receive buffer that a relayed packet fills until it enters the
sender's: source, spur, VC and bytes (R335). -/
structure OutPkt where
  pkt : Pkt
  spur : Bool
  relay : Bool := false
  cmd : Option Nat := none
  frame : Option (Nat × Nat) := none
  charge : Nat := 0
  rx : Option (BitVec 12 × Bool × Nat × Nat) := none
deriving DecidableEq, Repr, Inhabited

/-- A sender's sequence space (R317, R319, R335). -/
structure Snd where
  dst : BitVec 12
  spur : Bool
  vc : Nat
  rel : Bool
  next : BitVec 16 := 0
  /-- SYNC must open the space on the next packet -/
  fresh : Bool := true
  held : List OutPkt := []
  credits : Nat := 256
  timeouts : Nat := 0
deriving DecidableEq, Repr, Inhabited

/-- A receiver's sequence space (R317, R318, R335), to the own id or, with `bcast`, to 0xFFF. -/
structure Rcv where
  src : BitVec 12
  spur : Bool
  bcast : Bool := false
  vc : Nat
  rel : Bool
  expect : BitVec 16 := 0
  /-- accepted packets since the last ACK -/
  since : Nat := 0
  /-- NAK is being repeated: a gap persists -/
  gap : Bool := false
  /-- receive credits owed -/
  owed : Nat := 0
deriving DecidableEq, Repr, Inhabited

/-- A port (Table 16.10). -/
structure Port where
  /-- 0 DOWN, 1 TRAINING, 2 UP, 3 WAITING; R326; 0 -/
  state : Nat := 0
  /-- LNK.TX_RATE, 4 bits; R326; 8 on D-PHY (7 on C-PHY, set when the straps are sampled) -/
  rate : Nat := 8
  /-- a Frame Start has been sent since the port came UP; R304; false -/
  marked : Bool := false
  /-- last frame delimiters sent: Frame End and Frame Start numbers; R304; none -/
  fe : Option (BitVec 16) := none
  fs : Option (BitVec 16) := none
  /-- the last long packet sent; none -/
  last : Option Pkt := none
deriving DecidableEq, Repr, Inhabited

/-- A ring in a discovery round (R340): the own roll is out; a ROLL was forwarded and its CALL is awaited; the CALL
has come or the ring is broken; the CALL's 32-byte records, none of a broken ring. -/
structure RingDisc where
  mine : Bool := false
  wait : Bool := false
  done : Bool := false
  call : List Bytes := []
deriving DecidableEq, Repr, Inhabited

/-- The network layer: Lanlyn engine, fabric and Drover. -/
structure Net where
  ports : Tbl Port := []
  snd : List Snd := []
  rcv : List Rcv := []
  /-- packets queued, oldest first; R331 class 5 -/
  out : List OutPkt := []
  /-- own 0x36 and 0x37 packets: (ring port 0 X, 1 Y, 2 spur, none routed, packet); R331 class 3 -/
  ctl : List (Option Nat × Pkt) := []
  /-- retransmissions; R331 class 4 -/
  retx : List OutPkt := []
  /-- through buffers of XIN, YIN; R332 -/
  thru : Tbl (Option Pkt) := []
  /-- turn buffer: outgoing ring port and packet, oldest first; R332 -/
  turn : List (Nat × Pkt) := []
  /-- partition that each port served last in class 5's rotation; R331; 15, so that the rotation begins at 0 -/
  lastPart : Tbl Nat := []
  /-- bytes in the receive buffer; R335 -/
  rxFill : Nat := 0
  /-- packets owed to the own id while no id is held, at most 256; R354 -/
  ownHeld : List Pkt := []
  /-- peers lost and not heard from since; R344 -/
  lost : List (BitVec 12 × Bool) := []
  /-- FAB.ID; R347; kept -/
  id : BitVec 12 := 0
  idValid : Bool := false
  relay : Bool := false
  /-- FAB.SIZE; R347; 0 -/
  nx : Nat := 0
  ny : Nat := 0
  /-- FAB.STATUS; R347; 0 -/
  disc : Nat := 0
  xWhole : Bool := false
  yWhole : Bool := false
  fMismatch : Bool := false
  rounds : Nat := 0
  /-- device quota computed by R334, and the override of SET_FABRIC_QUOTA; R347; 0 -/
  quota : Nat := 0
  quotaSet : Option Nat := none
  /-- ring maps; R337; 0 -/
  xMap : W64 := 0
  yMap : W64 := 0
  /-- discovery: the round in progress, and both rings' part in it, 0 X and 1 Y; R340; 0, empty -/
  round : Nat := 0
  rings : Tbl RingDisc := []
  /-- lowest serial known; R339; own serial once discovery starts -/
  minSer : W64 := 0
  orgRow : Bool := false
  orgCol : Bool := false
deriving DecidableEq, Repr, Inhabited

/-! ### I3C (chapter 16) -/

/-- The I3C target. -/
structure I3c where
  /-- target live (stage 2 done); R320; false -/
  live : Bool := false
  da : BitVec 7 := 0
  daValid : Bool := false
  mwl : Nat := 8192
  mrl : Nat := 256
  enint : Bool := false
  enhj : Bool := true
  hdr : Bool := false
  /-- protocol error since the last GETSTATUS; R322; false -/
  protoErr : Bool := false
  /-- pending IBI codes 1 to 3; R323; 0 -/
  ibi : BitVec 3 := 0
  /-- an IBI was NACKed and waits for its retry; R323; none -/
  nacked : Option Nat := none
  /-- an IBI has been sent again / Hot-Join requests raised (the model's own counts) -/
  retries : Nat := 0
  hotJoins : Nat := 0
  /-- address pointer of private transfers; R324; 0 -/
  ptr : BitVec 24 := 0
  /-- completions waiting, oldest first; R325; empty -/
  cpl : List Bytes := []
  /-- commands submitted over I3C and not completed; R325; 0 -/
  outstanding : Nat := 0
  /-- what the target last answered on the bus; empty -/
  answer : Bytes := []
  /-- the last CCC was NACKed; false -/
  nack : Bool := false
deriving DecidableEq, Repr, Inhabited

/-! ### Start-up, floor plan, power, security (chapters 19 to 22) -/

/-- A stage report (Table 19.2). -/
structure Stage where
  result : Nat := 0
  cause : Byte := 0
  kind : Byte := 0
  unit : BitVec 16 := 0
  marked : Nat := 0
  startUs : Word := 0
  endUs : Word := 0
  time : Time := 0
  detail : Word := 0
deriving DecidableEq, Repr, Inhabited

/-- A snapshot of the Ledger window (R205). -/
structure Snap where
  sel : BitVec 12 := 0
  entry : Bytes := []
  time : Time := 0
deriving DecidableEq, Repr, Inhabited

/-- AUD_MCLK_IN measurement (R285). -/
structure Mclk where
  /-- instant of the last edge -/
  lastEdge : Option Nat := none
  periods : List Nat := []
  accepted : Bool := false
  /-- accepted AUD_MCLK_IN in Hz, so that f_out of CLK 5 in 1/256 Hz -/
  rate : Nat := 0
  miss : Nat := 0
deriving DecidableEq, Repr, Inhabited

/-- The whole device. -/
structure State where
  /-- commands waiting, first in first out (the model's queue); empty -/
  pending : List Instr := []
  /-- counter of free values (the model's own, log entry 3); DESIGN CHOICE 0 -/
  free : Nat := 0
  /-- id of the next Mill descriptor (the model's own numbering, in submission order); 0 -/
  millNext : Nat := 0
  /-- what a register read last returned (R8, R9); 0 -/
  rdata : Word := 0
  /-- stored registers by 24-bit address: RC and W1C fields (R9, R10); 0 -/
  regs : Tbl Word := []
  /-- 64-bit counters by the address of their _LO register (R112, R131, R261, R326, R424); 0 -/
  wide : Tbl W64 := []
  /-- latched upper words by the address of the _HI register (R40, R112); 0 -/
  latch : Tbl Word := []
  /-- 17 Ledger snapshots: key 0 to 15 partitions, 16 I3C (R205); 0 -/
  snaps : Tbl Snap := []
  /-- DRAM by physical address, one byte each (R88); 0 -/
  mem : List Host.Cell := []
  /-- lines with an uncorrectable error, by physical address div 128 (R99); none -/
  badLines : List Nat := []
  cores : Tbl CoreSt := []
  clusters : Tbl CluSt := []
  chans : Tbl ChanSt := []
  /-- synchronisation objects by 16-bit global id, 32 bits each (R146); 0 -/
  sync : Tbl Word := []
  waiters : List Waiter := []
  entries : Tbl Entry := []
  ropes : Tbl (Option Rope) := []
  /-- Dockets in flight, oldest first (R197); none -/
  dockets : List Docket := []
  /-- the Ropewalk each builder visits next, as k of 8k + b (R194); 0 -/
  builders : Tbl Nat := []
  parts : Tbl Part := []
  images : Tbl (Option Image) := []
  ctxs : Tbl (Option Ctx) := []
  /-- commands in progress, in start order (R353); none -/
  cmds : List Cmd := []
  /-- delayed commands in order of receipt (R38); none -/
  delayed : List Delayed := []
  /-- commands received and not yet taken (R353); none -/
  rx : List RxCmd := []
  /-- next command number (the model's own) -/
  nextCmd : Nat := 0
  /-- results of windowed commands: source, opcode, bytes (R350); none -/
  results : List (Src × Nat × Bytes) := []
  /-- moves that ended before their MOVE_RESERVE was answered: command number, partition, parameters (R345); none -/
  orphans : List (Nat × Nat × Bytes) := []
  /-- queues of lanes 0 and 1 of the SHAKE engine, command numbers, running first; lane 1 has the PROVENANCE commands
  alone (R402); empty -/
  lane0 : List Nat := []
  lane1 : List Nat := []
  tb : Tb := {}
  outs : Tbl AesOut := []
  ains : Tbl AesIn := []
  achans : Tbl Chan := []
  /-- group 0 mask in effect (R298); 0 -/
  slotMask : BitVec 16 := 0
  groups : Tbl Group := []
  /-- queued mask and binding changes in completion order (R290); none -/
  changes : List Change := []
  /-- changes past their frame start, of outputs not in CLK 0, for their next output frame (R290); none -/
  due : List Change := []
  mclk : Mclk := {}
  net : Net := {}
  i3c : I3c := {}
  /-- SYS.EVENT_SEQ, 16 bits (R394); 0 -/
  eventSeq : BitVec 16 := 0
  /-- the last event raised, 32 bytes with its header (R371); empty -/
  lastEvent : Bytes := []
  /-- the last completion sent, with its header (R349); empty -/
  lastCpl : Bytes := []
  /-- stage reports 0 to 7 (R377); zeros -/
  stages : Tbl Stage := []
  halted : Bool := false
  /-- READY pin (R376); low -/
  ready : Bool := false
  /-- a RESET_UNIT at LEVEL 3 has completed and its whole-device reset is to come (R361); false -/
  resetReq : Bool := false
  /-- start-up has begun since the last reset (R376); false -/
  started : Bool := false
  /-- SYS.RESET_CAUSE (R394); 0 -/
  resetCause : Nat := 0
  /-- SYS.RESETS (R394); 0 -/
  resets : Word := 0
  /-- straps sampled at stage 0 (R299, R321); 0 -/
  phyMode : BitVec 6 := 0
  i3cSa : BitVec 2 := 0
  /-- rails outside their operating range (R427); none -/
  badRails : List (Fin 7) := []
  /-- unit states of the floor plan, 0 present, 1 absent, 2 failed (R380, R381); 0 -/
  coreMap : Tbl Nat := []
  millMap : Tbl Nat := []
  narrowMap : Tbl Nat := []
  /-- the floor-plan record exists (end of stage 5; R395); false -/
  planned : Bool := false
  generation : Word := 0
  planTime : Time := 0
  /-- thermal trip in effect (R422); false -/
  tripped : Bool := false
  /-- the sensor at 100 °C or more with which stage 0 of this start-up fails (R422); none -/
  hotStart : Option (BitVec 16) := none
  /-- Steward sensor (R424); 0 -/
  stewardTemp : Byte := 0
  /-- sensors of the DRAM dies, °C, two's complement: die d of stack s at key 16 s + d (R421); 0 -/
  dies : Tbl Byte := []
  /-- JTAG unlocked (R411, R414); false -/
  debug : Bool := false
  entropyFail : Bool := false
  /-- the valid debug challenge, 32 bytes (R411); none -/
  challenge : Option Bytes := none
  /-- installed patch version and measurement (R375, R403); 0 -/
  patchVersion : Word := 0
  patchDigest : Bytes := []
deriving DecidableEq, Repr, Inhabited

/-- The device at power-up before start-up stage 0: every register at its reset value, memory with
nothing listed (R376, R392). -/
def State.reset : State := {}

end Sys2Proof.Machine
end

