-- ==== Sys2Proof/Machine/Flags.lean ====
section
/-! DEFINITION. Status codes (Table 0.6, Table 18.13), program fault causes (Tables 4.7, 7.15, 8.10)
and event codes (Table 18.12). -/

namespace Sys2Proof.Machine

def stOk : BitVec 16 := 0x0000
def stEmpty : BitVec 16 := 0x0001
def stDrained : BitVec 16 := 0x0002
def stAborted : BitVec 16 := 0x0003
def stBadOpcode : BitVec 16 := 0x0101
def stBadLength : BitVec 16 := 0x0102
def stBadField : BitVec 16 := 0x0103
def stBadAlignment : BitVec 16 := 0x0104
def stNoShare : BitVec 16 := 0x0201
def stNoStreamEntry : BitVec 16 := 0x0202
def stNoRopewalk : BitVec 16 := 0x0203
def stNoSyncObject : BitVec 16 := 0x0204
def stPartitionFull : BitVec 16 := 0x0205
def stStreamParked : BitVec 16 := 0x0301
def stStreamFaulted : BitVec 16 := 0x0302
def stStateBusy : BitVec 16 := 0x0303
def stSequenceEnd : BitVec 16 := 0x0304
def stWrongState : BitVec 16 := 0x0305
def stEccUncorrectable : BitVec 16 := 0x0401
def stOutOfBounds : BitVec 16 := 0x0402
def stLinkCrc : BitVec 16 := 0x0403
def stUnitAbsent : BitVec 16 := 0x0501
def stUnitFailed : BitVec 16 := 0x0502
def stUnitBusy : BitVec 16 := 0x0503
def stUnitResetting : BitVec 16 := 0x0504
def stShapeMismatch : BitVec 16 := 0x0601
def stProgramFault : BitVec 16 := 0x0602
def stFilterTooLarge : BitVec 16 := 0x0603
def stPadTooLarge : BitVec 16 := 0x0604
def stSignatureInvalid : BitVec 16 := 0x0701
def stNotPermitted : BitVec 16 := 0x0702
def stTimebaseLost : BitVec 16 := 0x0801
def stRateOutOfRange : BitVec 16 := 0x0802
def stNonAudio : BitVec 16 := 0x0803
def stNoRoute : BitVec 16 := 0x0901
def stPeerLost : BitVec 16 := 0x0902

/-- The codes of Table 0.6: the device returns no other (R13). -/
def listedStatus (st : BitVec 16) : Bool :=
  let low := st.toNat % 256
  match st.toNat / 256 with
  | 0 => decide (low ≤ 3)
  | 1 => decide (1 ≤ low) && decide (low ≤ 4)
  | 2 => decide (1 ≤ low) && decide (low ≤ 5)
  | 3 => decide (1 ≤ low) && decide (low ≤ 5)
  | 4 => decide (1 ≤ low) && decide (low ≤ 3)
  | 5 => decide (1 ≤ low) && decide (low ≤ 4)
  | 6 => decide (1 ≤ low) && decide (low ≤ 4)
  | 7 => decide (1 ≤ low) && decide (low ≤ 2)
  | 8 => decide (1 ≤ low) && decide (low ≤ 3)
  | 9 => decide (1 ≤ low) && decide (low ≤ 2)
  | _ => false

/-! Event codes (Table 18.12). -/
def evStarved : Nat := 1
def evTimebaseLost : Nat := 2
def evUnitFailed : Nat := 3
def evNonAudio : Nat := 4
def evPeerLost : Nat := 5
def evFloorPlan : Nat := 6
def evSequenceEnd : Nat := 7

/-! Engines of CLU.CORE_FAULT.ENGINE (R87). -/
def engFront : Nat := 0
def engMatrix : Nat := 1
def engVector : Nat := 2
def engScan : Nat := 3
def engMovement : Nat := 4

/-- STATUS[2:0] coding (R191). -/
def StStatus.code : StStatus → Nat
  | .closed => 0
  | .opened => 1
  | .ready => 2
  | .waitingInput => 3
  | .waitingRoom => 4
  | .parked => 5
  | .draining => 6
  | .faulted => 7

/-- The statuses from which steps are taken (Table 9.2). -/
def StStatus.active : StStatus → Bool
  | .opened => true
  | .ready => true
  | .waitingInput => true
  | .waitingRoom => true
  | _ => false

end Sys2Proof.Machine
end

