-- ==== Sys2Proof/Machine/Ops.lean ====
section
/-! DEFINITION. The named operations over State: reading and updating each table, register bits and
counters, free values, and the shape of every meaning. -/

namespace Sys2Proof.Machine

/-- What a meaning answers. -/
abbrev Outcome := Host.Outcome State Fault Refusal

/-! ### Tables of the state -/

def State.core (s : State) (g : Nat) : CoreSt := Tbl.get {} s.cores g
def State.setCore (s : State) (g : Nat) (c : CoreSt) : State := { s with cores := Tbl.set {} s.cores g c }
def State.modCore (s : State) (g : Nat) (f : CoreSt → CoreSt) : State := s.setCore g (f (s.core g))

/-- Share j of core g. -/
def State.share (s : State) (g j : Nat) : ShareSt := Tbl.get {} (s.core g).shares j
def State.setShare (s : State) (g j : Nat) (h : ShareSt) : State :=
  s.setCore g { s.core g with shares := Tbl.set {} (s.core g).shares j h }
def State.modShare (s : State) (g j : Nat) (f : ShareSt → ShareSt) : State :=
  s.setShare g j (f (s.share g j))

def State.clu (s : State) (n : Nat) : CluSt := Tbl.get {} s.clusters n
def State.setClu (s : State) (n : Nat) (c : CluSt) : State := { s with clusters := Tbl.set {} s.clusters n c }
def State.modClu (s : State) (n : Nat) (f : CluSt → CluSt) : State := s.setClu n (f (s.clu n))

def State.chan (s : State) (c : Nat) : ChanSt := Tbl.get {} s.chans c
def State.setChan (s : State) (c : Nat) (h : ChanSt) : State := { s with chans := Tbl.set {} s.chans c h }
def State.modChan (s : State) (c : Nat) (f : ChanSt → ChanSt) : State := s.setChan c (f (s.chan c))

def State.entry (s : State) (i : Nat) : Entry := Tbl.get {} s.entries i
def State.setEntry (s : State) (i : Nat) (e : Entry) : State := { s with entries := Tbl.set {} s.entries i e }
def State.modEntry (s : State) (i : Nat) (f : Entry → Entry) : State := s.setEntry i (f (s.entry i))

def State.part (s : State) (p : Nat) : Part := Tbl.get {} s.parts p
def State.setPart (s : State) (p : Nat) (x : Part) : State := { s with parts := Tbl.set {} s.parts p x }
def State.modPart (s : State) (p : Nat) (f : Part → Part) : State := s.setPart p (f (s.part p))

def State.ctx (s : State) (c : Nat) : Option Ctx := Tbl.get none s.ctxs c
def State.setCtx (s : State) (c : Nat) (x : Option Ctx) : State := { s with ctxs := Tbl.set none s.ctxs c x }
def State.modCtx (s : State) (c : Nat) (f : Ctx → Ctx) : State := s.setCtx c ((s.ctx c).map f)

def State.rope (s : State) (r : Nat) : Option Rope := Tbl.get none s.ropes r
def State.setRope (s : State) (r : Nat) (x : Option Rope) : State := { s with ropes := Tbl.set none s.ropes r x }
def State.modRope (s : State) (r : Nat) (f : Rope → Rope) : State := s.setRope r ((s.rope r).map f)

def State.image (s : State) (i : Nat) : Option Image := Tbl.get none s.images i
def State.setImage (s : State) (i : Nat) (x : Option Image) : State := { s with images := Tbl.set none s.images i x }

def State.out (s : State) (o : Nat) : AesOut := Tbl.get {} s.outs o
def State.setOut (s : State) (o : Nat) (x : AesOut) : State := { s with outs := Tbl.set {} s.outs o x }
def State.modOut (s : State) (o : Nat) (f : AesOut → AesOut) : State := s.setOut o (f (s.out o))

def State.achan (s : State) (c : Nat) : Chan := Tbl.get {} s.achans c
def State.setAchan (s : State) (c : Nat) (x : Chan) : State := { s with achans := Tbl.set {} s.achans c x }
def State.modAchan (s : State) (c : Nat) (f : Chan → Chan) : State := s.setAchan c (f (s.achan c))

def State.ain (s : State) (i : Nat) : AesIn := Tbl.get {} s.ains i
def State.setAin (s : State) (i : Nat) (x : AesIn) : State := { s with ains := Tbl.set {} s.ains i x }
def State.modAin (s : State) (i : Nat) (f : AesIn → AesIn) : State := s.setAin i (f (s.ain i))

def State.group (s : State) (g : Nat) : Group := Tbl.get {} s.groups g
def State.setGroup (s : State) (g : Nat) (x : Group) : State := { s with groups := Tbl.set {} s.groups g x }
def State.modGroup (s : State) (g : Nat) (f : Group → Group) : State := s.setGroup g (f (s.group g))

def State.port (s : State) (p : Nat) : Port := Tbl.get {} s.net.ports p
def State.modPort (s : State) (p : Nat) (f : Port → Port) : State :=
  { s with net := { s.net with ports := Tbl.set {} s.net.ports p (f (s.port p)) } }

def State.modNet (s : State) (f : Net → Net) : State := { s with net := f s.net }
def State.modTb (s : State) (f : Tb → Tb) : State := { s with tb := f s.tb }
def State.modI3c (s : State) (f : I3c → I3c) : State := { s with i3c := f s.i3c }

/-! ### Registers kept by address, and counters -/

/-- Base of cluster n's block (Table 0.4). -/
def cluBase (n : Nat) : Nat := 0x100000 + 0x10000 * n

/-- A stored register word. -/
def State.reg (s : State) (a : Nat) : Word := Tbl.get 0 s.regs a
def State.setReg (s : State) (a : Nat) (w : Word) : State := { s with regs := Tbl.set 0 s.regs a w }

/-- Set bits of a stored register: a W1C or RC bit set by hardware (R9). -/
def State.setBits (s : State) (a m : Nat) : State := s.setReg a (s.reg a ||| BitVec.ofNat 32 m)

/-- Add to the counter in bits [lo + n - 1 : lo] of a stored register, saturating. -/
def State.bump (s : State) (a lo n k : Nat) : State :=
  let w := (s.reg a).toNat
  let v := min (fld w lo n + k) (2 ^ n - 1)
  s.setReg a (BitVec.ofNat 32 (w - fld w lo n * 2 ^ lo + v * 2 ^ lo))

/-- A 64-bit counter by the address of its _LO register. -/
def State.wide64 (s : State) (a : Nat) : W64 := Tbl.get 0 s.wide a

/-- Add to a 64-bit counter, modulo 2^64 (R112). -/
def State.bumpWide (s : State) (a k : Nat) : State :=
  { s with wide := Tbl.set 0 s.wide a (s.wide64 a + BitVec.ofNat 64 k) }

/-- Add, saturating at 32 bits. -/
def satAdd32 (w : Word) (k : Nat) : Word := BitVec.ofNat 32 (min (w.toNat + k) 0xFFFFFFFF)

/-- A 32-bit saturating counter in a register gains an amount of time that no rule lets the model compute: a free value
(log entry 17). -/
def State.accrue (s : State) (a : Nat) : State :=
  { s.setReg a (satAdd32 (s.reg a) ((Config.measured a s.free).toNat % 2 ^ 32)) with free := s.free + 1 }

/-- PWR.CLU_THROTTLED and PWR.CLU_GATED of cluster n (Table 21.6). -/
def cluThrottled (n : Nat) : Nat := 0x060108 + 0x10 * n
def cluGated (n : Nat) : Nat := 0x06010C + 0x10 * n

/-! ### Free values (log entry 3) -/

/-- The next free 128-bit value, and the state with the counter advanced. -/
def State.draw (s : State) : BitVec 128 × State := (Config.freeBits s.free, { s with free := s.free + 1 })

/-! ### Share modes (R65, R66) -/

/-- Scratchpad bytes of a share. -/
def shareBytes (mode : Nat) : Nat := 262144 / 2 ^ mode
/-- Program words of a share. -/
def shareWords (mode : Nat) : Nat := 4096 / 2 ^ mode
/-- Shares of a core. -/
def shareCount (mode : Nat) : Nat := 2 ^ mode

/-- The share size of core g. -/
def State.shareSize (s : State) (g : Nat) : Nat := shareBytes (s.clu (g / 64)).mode

/-! ### Small helpers -/

/-- Fold an update over a list. -/
def State.each {α : Type} (s : State) (l : List α) (f : State → α → State) : State := l.foldl f s

/-- The lowest of `n` keys that satisfies a test. -/
def lowest (n : Nat) (p : Nat → Bool) : Option Nat := (List.range n).find? p

/-- Apply when the condition holds, else leave the state: an event whose condition does not hold does
not occur (log entry 5). -/
def State.when (s : State) (c : Bool) (f : State → State) : State := if c then f s else s

end Sys2Proof.Machine
end

