-- ==== Sys2Proof/Machine/Memory.lean ====
section
/-! DEFINITION. Chapter 5: partition addresses, the channel hash, the home caches, line errors, and the
scratchpads (R66, R88 to R100). DRAM bytes and home-cache bytes are one table keyed by physical
address (R94: the home cache is the single point of ordering for its lines); the cache directory
decides only what the counters and the error rules say. -/

namespace Sys2Proof.Machine

/-! ### Partition addresses (R89 to R91) -/

/-- Bytes per channel and per cluster (Table 5.1). -/
def chanBytes : Nat := 0x48000000
def cluBytes : Nat := 8 * chanBytes

/-- N, the partition's channels. -/
def Part.nch (p : Part) : Nat := 8 * p.clusters.length
/-- L in bytes. -/
def Part.localBytes (p : Part) : Nat := p.local_ * 0x4000000
/-- S_ch, the spread bytes of a channel (R89). -/
def Part.spreadCh (p : Part) : Nat := chanBytes - p.localBytes
/-- C × 9 GiB. -/
def Part.limit (p : Part) : Nat := p.clusters.length * cluBytes
/-- End of the spread region. -/
def Part.spreadEnd (p : Part) : Nat := p.nch * p.spreadCh

/-- fold16 of R91. -/
def fold16 (x : Nat) : Nat := x % 65536 ^^^ x / 65536 % 256

/-- h of R91 for row r. -/
def Part.hash (p : Part) (r : Nat) : Nat :=
  fold16 (r * (2 * p.salt.toNat + 1) % 2 ^ 24) ^^^ p.salt.toNat

/-- The i-th owned cluster. -/
def Part.cluster (p : Part) (i : Nat) : Nat := p.clusters.getD i 0

/-- Rank of the locality window that holds A, when A lies in one (Table 5.2). -/
def Part.windowOf (p : Part) (A : Nat) : Option Nat :=
  if A < p.spreadEnd ∨ p.limit ≤ A ∨ p.local_ = 0 then none
  else some ((A - p.spreadEnd) / (8 * p.localBytes))

/-- Start of the i-th locality window. -/
def Part.windowBase (p : Part) (i : Nat) : Nat := p.spreadEnd + i * (8 * p.localBytes)

/-- Global channel and channel offset of partition address A (R91). -/
def Part.place (p : Part) (A : Nat) : Nat × Nat :=
  if A < p.spreadEnd then
    let g := A / 256
    let c := g % p.nch
    let r := g / p.nch
    let ch := (c + p.hash r) % p.nch
    (8 * p.cluster (ch / 8) + ch % 8, r * 256 + A % 256)
  else
    let i := (A - p.spreadEnd) / (8 * p.localBytes)
    let g := (A - p.windowBase i) / 256
    let c := g % 8
    let r := g / 8
    let k := (c + p.hash r) % 8
    (8 * p.cluster i + k, p.spreadCh + r * 256 + A % 256)

/-- Physical address of partition address A (R88). -/
def Part.phys (p : Part) (A : Nat) : Nat := (p.place A).1 * 2 ^ 31 + (p.place A).2

/-- R90: does [A, A + n) lie inside the partition. -/
def Part.inside (p : Part) (A n : Nat) : Bool := decide (A + n ≤ p.limit)

/-- Do two byte ranges overlap. -/
def overlaps (a n b m : Nat) : Bool := decide (a < b + m) && decide (b < a + n) && decide (0 < n) && decide (0 < m)

/-- The partition of a core's cluster. -/
def State.partOf (s : State) (g : Nat) : Part :=
  match (s.clu (g / 64)).part with
  | some p => s.part p
  | none => {}

/-- A rank's cluster owns the object, channel or core of cluster n. -/
def Part.owns (p : Part) (n : Nat) : Bool := p.clusters.contains n

/-! ### Lines: home cache, counters, errors (R94 to R99) -/

/-- Channel register address: offset `off` + 0x20 k in the owning cluster's block (R112). -/
def chanReg (ch off : Nat) : Nat := cluBase (ch / 8) + off + 0x20 * (ch % 8)

/-- Line addresses (partition address div 128) that [A, A + n) touches. -/
def linesOf (A n : Nat) : List Nat :=
  if n = 0 then [] else (List.range ((A + n - 1) / 128 - A / 128 + 1)).map (A / 128 + ·)

/-- Ways a partition may allocate in cluster n (R95). -/
def State.waysOf (s : State) (n : Nat) : Nat :=
  match (s.clu n).part with
  | none => 0
  | some p => popcount 16 (Tbl.get 0 (s.part p).ways n).toNat

/-- Whether the home cache of the line's cluster holds it. -/
def State.cached (s : State) (ch line : Nat) : Bool :=
  (s.clu (ch / 8)).cache.any fun l => l.chan == ch && l.line == line

/-- Cluster n, its clock stopped or its power gated, runs again for work that reaches it; PWR.CLU_WAKES counts it, and
PWR.CLU_GATED the time (R419, R424). -/
def State.wakeCluster (s : State) (n : Nat) : State :=
  if (s.clu n).power = 1 ∨ (s.clu n).power = 2 then
    ((s.accrue (cluGated n)).modClu n fun k => { k with power := 0 }).bump (0x060104 + 0x10 * n) 0 32 1
  else s

/-- Channel ch leaves self-refresh: a recalibration that fell due meanwhile runs, and PWR.SR_EXITS counts
(R420, R424). -/
def State.exitRefresh (s : State) (ch : Nat) : State :=
  if (s.chan ch).selfRefresh && !s.tripped then
    (s.modChan ch fun h =>
      { h with selfRefresh := false, recalDue := false,
               recals := if h.recalDue then h.recals + 1 else h.recals }).bump 0x060300 0 32 1
  else s

/-- The set of a line, of the 4,096 (R94). -/
def cacheSet (ch line : Nat) : Nat := Config.cacheSet (ch % 8) line % 4096

/-- Allocate a line, evicting the least recently used of its set when the set's ways are full (R95);
`first` places it as most recently used, otherwise as least recently used (R97). -/
def State.allocLine (s : State) (ch line : Nat) (dirty first : Bool) : State :=
  let n := ch / 8
  let ways := s.waysOf n
  if ways = 0 then s
  else
    let mine := (s.clu n).cache.filter fun l => cacheSet l.chan l.line == cacheSet ch line
    let victim := if mine.length < ways then none else mine.getLast?
    let s := match victim with
      | none => s
      | some v =>
        let s := s.modClu n fun c => { c with cache := c.cache.erase v }
        if v.dirty then
          ((s.exitRefresh v.chan).bumpWide (cluBase n + 0x828) 1).bumpWide (chanReg v.chan 0x908) 1
        else s
    let l : CacheLine := { chan := ch, line := line, dirty := dirty }
    s.modClu n fun c => { c with cache := if first then l :: c.cache else c.cache ++ [l] }

/-- A hit: the line becomes most recently used, dirty when written (R95). -/
def State.hitLine (s : State) (ch line : Nat) (write : Bool) : State :=
  let n := ch / 8
  let s := s.bumpWide (cluBase n + 0x818) 1
  s.modClu n fun c =>
    let hit := c.cache.find? fun l => l.chan == ch && l.line == line
    let rest := c.cache.filter fun l => !(l.chan == ch && l.line == line)
    match hit with
    | none => c
    | some l => { c with cache := { l with dirty := l.dirty || write } :: rest }

/-- Log an uncorrectable read of a physical line (R99, Table 5.11). -/
def State.logBad (s : State) (phys : Nat) : State :=
  let ch := phys / 2 ^ 31
  let s := s.bump (chanReg ch 0x918) 16 8 1
  let hi := cluBase (ch / 8) + 0x844
  if bitOf (s.reg hi).toNat 31 then s
  else
    let s := { s with wide := Tbl.set 0 s.wide (cluBase (ch / 8) + 0x840) (BitVec.ofNat 64 phys) }
    s.setBits hi 0x80000000

/-- Cache hints of Table 5.4, with the Mill's own: a miss is not allocated (R113). -/
inductive Hint where
  | normal
  | noAllocate
  | evictFirst
deriving DecidableEq, Repr, Inhabited

/-- The hint that a CACHE field names. -/
def hintOf (n : Nat) : Hint :=
  match n with
  | 1 => .noAllocate
  | 2 => .evictFirst
  | _ => .normal

/-- Read one line through its home cache: the new state, and whether it read with an uncorrectable
error (R94, R97, R99). The access wakes the cluster (R419), and one that reaches DRAM makes its channel leave
self-refresh (R420). `A` is any partition address of the line. -/
def State.readLine (s : State) (p : Part) (h : Hint) (A : Nat) : State × Bool :=
  let ch := (p.place A).1
  let off := (p.place A).2
  let line := off / 128
  let phys := ch * 2 ^ 31 + line * 128
  let s := s.wakeCluster (ch / 8)
  if s.cached ch line then (s.hitLine ch line false, false)
  else
    let s := ((s.exitRefresh ch).bumpWide (cluBase (ch / 8) + 0x820) 1).bumpWide (chanReg ch 0x900) 1
    if s.badLines.contains (phys / 128) then (s.logBad phys, true)
    else match h with
      | .normal => (s.allocLine ch line false true, false)
      | .evictFirst => (s.allocLine ch line false false, false)
      | .noAllocate => (s, false)

/-- Read the lines of [A, A + n): the new state, and the partition addresses (div 128) of the lines
that failed, in ascending order. -/
def State.readLines (s : State) (p : Part) (h : Hint) (A n : Nat) : State × List Nat :=
  (linesOf A n).foldl (fun (acc : State × List Nat) l =>
    let r := acc.1.readLine p h (l * 128)
    (r.1, if r.2 then acc.2 ++ [l] else acc.2)) (s, [])

/-- The bytes of [A, A + n) as memory holds them. -/
def State.partBytes (s : State) (p : Part) (A n : Nat) : Bytes :=
  (List.range n).map fun i => Tbl.get 0 s.mem (p.phys (A + i))

/-- The bytes of one line's part of a write: from A, within one line. -/
def State.writeInLine (s : State) (p : Part) (h : Hint) (A : Nat) (bs : Bytes) : State × Bool :=
  let ch := (p.place A).1
  let off := (p.place A).2
  let line := off / 128
  let phys := ch * 2 ^ 31 + line * 128
  let full := bs.length == 128
  let bad := s.badLines.contains (phys / 128)
  let s := s.wakeCluster (ch / 8)
  if bad && !full then ((s.exitRefresh ch).logBad phys, true)
  else
    let s := { s with mem := writeBytes s.mem (ch * 2 ^ 31 + off) bs,
                      badLines := s.badLines.filter (· != phys / 128) }
    if s.cached ch line then (s.hitLine ch line true, false)
    else
      let s := s.bumpWide (cluBase (ch / 8) + 0x820) 1
      if h = .noAllocate ∨ s.waysOf (ch / 8) = 0 then
        ((s.exitRefresh ch).bumpWide (chanReg ch 0x908) 1, false)
      else
        let s := if full then s else (s.exitRefresh ch).bumpWide (chanReg ch 0x900) 1
        (s.allocLine ch line true (h = .normal), false)

/-- Write bytes from partition address A upward, line by line (R98, R99): the new state, and the lines
whose partial write was not performed. `fuel` is the number of lines at most. -/
def State.writeLines (s : State) (p : Part) (h : Hint) : Nat → Nat → Bytes → State × List Nat
  | 0, _, _ => (s, [])
  | fuel + 1, A, bs =>
    if bs.isEmpty then (s, [])
    else
      let n := 128 - A % 128
      let r := s.writeInLine p h A (bs.take n)
      let t := State.writeLines r.1 p h fuel (A + n) (bs.drop n)
      (t.1, if r.2 then (A / 128) :: t.2 else t.2)

/-- Write a byte string (R98, R99). -/
def State.writePart (s : State) (p : Part) (h : Hint) (A : Nat) (bs : Bytes) : State × List Nat :=
  s.writeLines p h (bs.length / 128 + 2) A bs

/-- Lines with an uncorrectable error that a write of [A, A + n) would fill in part only (R99). -/
def State.partlyBad (s : State) (p : Part) (A n : Nat) : List Nat :=
  (linesOf A n).filter fun l =>
    !(decide (A ≤ l * 128) && decide (l * 128 + 128 ≤ A + n)) && s.badLines.contains (p.phys (l * 128) / 128)

/-- A command's write of pieces (address, bytes), whole or not at all: where R99 refuses some line nothing is written
(R12, R99). The state, and whether it was refused. -/
def State.writeAll (s : State) (p : Part) (h : Hint) (l : List (Nat × Bytes)) : State × Bool :=
  let bad := l.flatMap fun x => s.partlyBad p x.1 x.2.length
  if bad.isEmpty then (s.each l fun s x => (s.writePart p h x.1 x.2).1, false)
  else (s.each bad fun s l => (s.readLine p h (l * 128)).1, true)

/-- The same for one piece. -/
def State.writeWholly (s : State) (p : Part) (h : Hint) (A : Nat) (bs : Bytes) : State × Bool :=
  s.writeAll p h [(A, bs)]

/-- Read a byte string through the home caches: state, bytes, failed lines. -/
def State.readPart (s : State) (p : Part) (h : Hint) (A n : Nat) : State × Bytes × List Nat :=
  let r := s.readLines p h A n
  (r.1, s.partBytes p A n, r.2)

/-- An ECC outcome at a physical line (R99): corrections and link retries are counted in CH_ECC.CORR;
an uncorrectable error leaves the line reading as given until a full-line write. A line held in its
home cache is not read from DRAM, and nothing befalls it. -/
def State.lineEvent (s : State) (e : LineEvent) : State :=
  let phys := e.line * 128
  let ch := phys / 2 ^ 31
  let off := phys % 2 ^ 31
  if s.cached ch (off / 128) ∨ chanBytes ≤ off ∨ 256 ≤ ch then s
  else match e.err with
    | .corrected => s.bump (chanReg ch 0x918) 0 16 1
    | .retries n => s.bump (chanReg ch 0x918) 0 16 (min n 4)
    | .uncorrectable d =>
      { s with mem := writeBytes s.mem phys (slice d 0 128),
               badLines := if s.badLines.contains e.line then s.badLines else e.line :: s.badLines }

/-- The ECC outcomes of a step, before its work (R99). -/
def State.lineEvents (s : State) (ev : List LineEvent) : State := ev.foldl State.lineEvent s

/-! ### Scratchpads (R66, R72) -/

/-- R72: does [a, a + n) lie inside the share of core g. -/
def State.inShare (s : State) (g a n : Nat) : Bool := decide (a + n ≤ s.shareSize g)

/-- Bytes of a share's scratchpad. -/
def ShareSt.read (h : ShareSt) (a n : Nat) : Bytes := readBytes h.scratch a n
/-- Write a share's scratchpad. -/
def ShareSt.write (h : ShareSt) (a : Nat) (bs : Bytes) : ShareSt :=
  { h with scratch := writeBytes h.scratch a bs }

/-- Write the scratchpad of share j of core g. -/
def State.writeShare (s : State) (g j a : Nat) (bs : Bytes) : State :=
  s.modShare g j fun h => h.write a bs

end Sys2Proof.Machine
end

