-- ==== Sys2Proof/Machine/Num.lean ====
section
/-! DEFINITION. Chapter 3: the number formats, exact values, and the one rounding that every
conversion and operation makes (R41 to R62). -/

namespace Sys2Proof.Machine

/-- An exact value: NaN, an infinity, or (-1)^neg x m x 2^e (R44). -/
inductive Num where
  | nan
  | inf (neg : Bool)
  | fin (neg : Bool) (m : Nat) (e : Int)
deriving DecidableEq, Repr, Inhabited

/-- What a format's top binade holds (R45). -/
inductive Top where
  | ieee
  | e4m3
  | plain
deriving DecidableEq, Repr, Inhabited

/-- A floating layout (Table 3.2). -/
structure Fmt where
  ebits : Nat
  mbits : Nat
  bias : Nat
  top : Top
deriving DecidableEq, Repr, Inhabited

def fp32 : Fmt := ⟨8, 23, 127, .ieee⟩
def bf16 : Fmt := ⟨8, 7, 127, .ieee⟩
def fp16 : Fmt := ⟨5, 10, 15, .ieee⟩
def e5m2 : Fmt := ⟨5, 2, 15, .ieee⟩
def e4m3 : Fmt := ⟨4, 3, 7, .e4m3⟩
def e3m2 : Fmt := ⟨3, 2, 3, .plain⟩
def e2m3 : Fmt := ⟨2, 3, 1, .plain⟩
def e2m1 : Fmt := ⟨2, 1, 1, .plain⟩

/-- Bits of an encoding. -/
def Fmt.width (f : Fmt) : Nat := 1 + f.ebits + f.mbits

/-- Magnitude bits of the largest finite value (Table 3.2, R45). -/
def Fmt.maxBits (f : Fmt) : Nat :=
  match f.top with
  | .ieee => (2 ^ f.ebits - 1) * 2 ^ f.mbits - 1
  | .e4m3 => 2 ^ (f.ebits + f.mbits) - 2
  | .plain => 2 ^ (f.ebits + f.mbits) - 1

/-- Magnitude bits of infinity; meaningful for the ieee formats. -/
def Fmt.infBits (f : Fmt) : Nat := (2 ^ f.ebits - 1) * 2 ^ f.mbits

/-- The positive canonical NaN (R46). -/
def Fmt.nanBits (f : Fmt) : Nat :=
  match f.top with
  | .e4m3 => 2 ^ (f.ebits + f.mbits) - 1
  | _ => f.infBits + 2 ^ (f.mbits - 1)

/-- The sign bit in place. -/
def Fmt.signBit (f : Fmt) (neg : Bool) : Nat := if neg then 2 ^ (f.ebits + f.mbits) else 0

/-- The exponent of the smallest quantum: 1 - bias - mbits. -/
def Fmt.qmin (f : Fmt) : Int := 1 - (f.bias : Int) - (f.mbits : Int)

/-- The value of an encoding (R44, R45). -/
def Fmt.value (f : Fmt) (w : Nat) : Num :=
  let neg := bitOf w (f.ebits + f.mbits)
  let e := fld w f.mbits f.ebits
  let m := fld w 0 f.mbits
  let mag := fld w 0 (f.ebits + f.mbits)
  if f.top = .ieee ∧ e = 2 ^ f.ebits - 1 then (if m = 0 then .inf neg else .nan)
  else if f.top = .e4m3 ∧ mag = f.nanBits then .nan
  else if e = 0 then .fin neg m f.qmin
  else .fin neg (2 ^ f.mbits + m) (f.qmin + (e : Int) - 1)

/-- Number of bits of a Nat: 0 has none. -/
def bitLen (m : Nat) : Nat := if m = 0 then 0 else m.log2 + 1

/-- Rounding modes (Table 3.4); the stochastic one carries its random field (R59). -/
inductive Rm where
  | rne
  | rtz
  | sr (r : Nat)
deriving DecidableEq, Repr, Inhabited

/-- Round m x 2^-k to an integer (R58, R59): the kept bits and whether to step away from zero. -/
def roundShift (rm : Rm) (m k : Nat) : Nat :=
  let lo := m / 2 ^ k
  let rem := m % 2 ^ k
  let up := match rm with
    | .rne => decide (2 ^ k < 2 * rem) || (decide (2 * rem = 2 ^ k) && lo % 2 == 1)
    | .rtz => false
    | .sr r => decide (65536 ≤ 65536 * rem / 2 ^ k + r)
  if up then lo + 1 else lo

/-- The quantum exponent at which a magnitude m x 2^e is rounded into `f` (R59). -/
def Fmt.quantum (f : Fmt) (m : Nat) (e : Int) : Int :=
  max f.qmin ((bitLen m : Int) - 1 + e - f.mbits)

/-- Magnitude bits after the rounding, before overflow is treated. -/
def Fmt.roundMag (f : Fmt) (rm : Rm) (m : Nat) (e : Int) : Nat :=
  if m = 0 then 0
  else
    let q := f.quantum m e
    let n := if q ≤ e then m * 2 ^ (e - q).toNat else roundShift rm m (q - e).toNat
    if n < 2 ^ f.mbits then n
    else (q - f.qmin + 1).toNat * 2 ^ f.mbits + (n - 2 ^ f.mbits)

/-- Round an exact value once into a format that overflows to infinity (R56, R60: FP32, BF16, FP16,
and E5M2 with OVF = 1) or, with `sat`, saturates (E5M2 OVF = 0, E4M3, MX elements). -/
def Fmt.round (f : Fmt) (rm : Rm) (sat : Bool) : Num → Nat
  | .nan => f.nanBits
  | .inf neg => f.signBit neg + (if sat then f.maxBits else f.infBits)
  | .fin neg m e =>
    let b := f.roundMag rm m e
    f.signBit neg +
      (if b ≤ f.maxBits then b
       else if sat then f.maxBits
       else match rm with
         | .rtz => f.maxBits
         | _ => f.infBits)

/-- The negative. -/
def Num.neg : Num → Num
  | .nan => .nan
  | .inf n => .inf (!n)
  | .fin n m e => .fin (!n) m e

/-- Signed mantissa at exponent `e0 ≤ e`. -/
def alignTo (e0 : Int) (neg : Bool) (m : Nat) (e : Int) : Int :=
  let v : Int := ((m * 2 ^ (e - e0).toNat : Nat) : Int)
  if neg then -v else v

/-- The exact sum; the sign of an exact zero follows IEEE 754 (R46). -/
def Num.add : Num → Num → Num
  | .nan, _ => .nan
  | _, .nan => .nan
  | .inf a, .inf b => if a = b then .inf a else .nan
  | .inf a, .fin _ _ _ => .inf a
  | .fin _ _ _, .inf b => .inf b
  | .fin a m e, .fin b n d =>
    if m = 0 ∧ n = 0 then .fin (a && b) 0 0
    else if m = 0 then .fin b n d
    else if n = 0 then .fin a m e
    else
      let q := min e d
      let s := alignTo q a m e + alignTo q b n d
      if s = 0 then .fin false 0 0 else .fin (decide (s < 0)) s.natAbs q

/-- The exact product (R53, R56): 0 times infinity is NaN. -/
def Num.mul : Num → Num → Num
  | .nan, _ => .nan
  | _, .nan => .nan
  | .inf a, .inf b => .inf (a != b)
  | .inf a, .fin b n _ => if n = 0 then .nan else .inf (a != b)
  | .fin a m _, .inf b => if m = 0 then .nan else .inf (a != b)
  | .fin a m e, .fin b n d => .fin (a != b) (m * n) (e + d)

/-- Multiply by a power of two. -/
def Num.scale (k : Int) : Num → Num
  | .fin a m e => .fin a m (e + k)
  | x => x

/-- Exact comparison of two finite values or infinities: `x < y`; false with a NaN. -/
def Num.lt : Num → Num → Bool
  | .nan, _ => false
  | _, .nan => false
  | .inf a, .inf b => a && !b
  | .inf a, .fin _ _ _ => a
  | .fin _ _ _, .inf b => !b
  | .fin a m e, .fin b n d => decide (alignTo (min e d) a m e < alignTo (min e d) b n d)

/-- Equality of value; zeros are equal; false with a NaN. -/
def Num.eqv (x y : Num) : Bool := x != .nan && y != .nan && !x.lt y && !y.lt x

/-- The larger of two magnitudes. -/
def Num.maxAbs (x y : Num) : Num :=
  let abs : Num → Num := fun v => match v with
    | .fin _ m e => .fin false m e
    | .inf _ => .inf false
    | .nan => .nan
  if (abs x).lt (abs y) then abs y else abs x

/-- The exact value of an integer. -/
def Num.ofInt (i : Int) : Num := .fin (decide (i < 0)) i.natAbs 0

/-- Is it NaN. -/
def Num.isNan : Num → Bool
  | .nan => true
  | _ => false

/-- Is it finite. -/
def Num.isFin : Num → Bool
  | .fin _ _ _ => true
  | _ => false

/-- Round to an integer by RM and saturate (R60, R61): NaN gives 0, infinities saturate. -/
def Num.toIntSat (rm : Rm) (lo hi : Int) : Num → Int
  | .nan => 0
  | .inf neg => if neg then lo else hi
  | .fin neg m e =>
    let n := if 0 ≤ e then m * 2 ^ e.toNat else roundShift rm m (-e).toNat
    clampInt lo hi (if neg then -(n : Int) else n)

/-- The sign bit of an encoding is set. -/
def Fmt.negative (f : Fmt) (w : Nat) : Bool := bitOf w (f.ebits + f.mbits)

/-- The smaller of two encodings of a floating format; any NaN gives the canonical NaN, and -0 lies below +0
(R46, by IEEE 754-2019's minimum; log entry 23). -/
def Fmt.minimum (f : Fmt) (a b : Nat) : Nat :=
  let x := f.value a
  let y := f.value b
  if x = .nan ∨ y = .nan then f.nanBits
  else if x.lt y then a else if y.lt x then b
  else if f.negative a then a else b

/-- The larger of two encodings of a floating format; any NaN gives the canonical NaN (R46). -/
def Fmt.maximum (f : Fmt) (a b : Nat) : Nat :=
  let x := f.value a
  let y := f.value b
  if x = .nan ∨ y = .nan then f.nanBits
  else if x.lt y then b else if y.lt x then a
  else if f.negative a then b else a

/-! ### FP32 shorthands -/

/-- The value of an FP32 word. -/
def f32 (w : Word) : Num := fp32.value w.toNat

/-- Round to FP32 by nearest even (R56). -/
def toF32 (x : Num) : Word := BitVec.ofNat 32 (fp32.round .rne false x)

/-- FP32 sum, product and fused multiply-add, rounded once to nearest even (R56). -/
def f32Add (a b : Word) : Word := toF32 ((f32 a).add (f32 b))
def f32Mul (a b : Word) : Word := toF32 ((f32 a).mul (f32 b))
def f32Fma (a b c : Word) : Word := toF32 (((f32 a).mul (f32 b)).add (f32 c))

/-! ### Format codes (Table 3.1) -/

/-- The floating layout of a format code, for FP8, MX elements, BF16, FP16 and FP32. -/
def fmtOf (code : Nat) : Option Fmt :=
  match code with
  | 0x3 => some e4m3
  | 0x4 => some e5m2
  | 0x5 => some e4m3
  | 0x6 => some e5m2
  | 0x7 => some e3m2
  | 0x8 => some e2m3
  | 0x9 => some e2m1
  | 0xB => some bf16
  | 0xC => some fp16
  | 0xD => some fp32
  | _ => none

/-- Bits of one element (Table 3.1). -/
def elemBits (code : Nat) : Nat :=
  match code with
  | 0x0 => 4
  | 0x7 => 6
  | 0x8 => 6
  | 0x9 => 4
  | 0xB => 16
  | 0xC => 16
  | 0xD => 32
  | 0xE => 32
  | _ => 8

/-- MX formats (Table 3.1). -/
def isMx (code : Nat) : Bool := 5 ≤ code && code ≤ 0xA

/-- Matrix operand formats of the integer class (Table 3.1, R52). -/
def isIntOperand (code : Nat) : Bool := code ≤ 2

/-- Is the code a matrix operand format (Table 3.1). -/
def isMatrixFmt (code : Nat) : Bool := code ≤ 0xC

/-- The range of an integer format. -/
def intRange (code : Nat) : Int × Int :=
  match code with
  | 0x0 => (-8, 7)
  | 0x1 => (-128, 127)
  | 0x2 => (0, 255)
  | _ => (-2147483648, 2147483647)

/-- The value of an element of any non-audio format, MX elements without their scale (R43, R44, R50). -/
def elemValue (code w : Nat) : Num :=
  match fmtOf code with
  | some f => f.value w
  | none =>
    if code = 0x2 then .fin false (w % 256) 0
    else if code = 0xA then (Num.ofInt (signed 8 w)).scale (-6)
    else Num.ofInt (signed (elemBits code) w)

/-- Element `i` of a packed string of elements (R42), little-endian at any width. -/
def packedAt (b : Bytes) (bits i : Nat) : Nat :=
  match bits with
  | 4 => fld (fieldAt b (i / 2) 1) (4 * (i % 2)) 4
  | 6 => fld (fieldAt b (3 * (i / 4)) 3) (6 * (i % 4)) 6
  | _ => fieldAt b (i * (bits / 8)) (bits / 8)

/-- Pack elements of 4, 6, 8, 16 or 32 bits into bytes (R42). -/
def packElems (bits : Nat) (es : List Nat) : Bytes :=
  let total := es.foldr (fun e acc => e % 2 ^ bits + 2 ^ bits * acc) 0
  leBytes (ceilDiv (es.length * bits) 8) total

/-- Convert an exact value into a non-MX, non-audio destination (R57 to R61, Table 3.5). -/
def convertTo (code : Nat) (rm : Rm) (ovf : Bool) (x : Num) : Nat :=
  match code with
  | 0x3 => e4m3.round rm true x
  | 0x4 => e5m2.round rm (!ovf) x
  | 0xB => bf16.round rm false x
  | 0xC => fp16.round rm false x
  | 0xD => fp32.round rm false x
  | c =>
    let r := intRange c
    unsigned (elemBits c) (x.toIntSat rm r.1 r.2)

/-! ### MX blocks (R48 to R51) -/

/-- The value of an element under its scale byte (R49, R50). -/
def mxValue (code scale w : Nat) : Num :=
  if scale = 255 then .nan else (elemValue code w).scale ((scale : Int) - 127)

/-- emax of R51. -/
def mxEmax (code : Nat) : Int :=
  match code with
  | 0x5 => 8
  | 0x6 => 15
  | 0x7 => 4
  | 0x8 => 2
  | 0x9 => 2
  | _ => 0

/-- floor(log2) of a non-zero magnitude. -/
def floorLog2 (m : Nat) (e : Int) : Int := (bitLen m : Int) - 1 + e

/-- The largest exponent floor(log2 amax) of a block, none when every value is zero (R51). -/
def mxAmaxLog (xs : List Num) : Option Int :=
  xs.foldl (fun acc x => match x with
    | .fin _ m e => if m = 0 then acc else
        some (match acc with | some a => max a (floorLog2 m e) | none => floorLog2 m e)
    | _ => acc) none

/-- One element of a block under exponent E, saturating; MXINT8 saturates to ±127 (R50, R51). -/
def mxElem (code : Nat) (rm : Rm) (E : Int) (x : Num) : Nat :=
  let y := x.scale (-E)
  match fmtOf code with
  | some f => f.round rm true y
  | none => unsigned 8 ((y.scale 6).toIntSat rm (-127) 127)

/-- A block of values as (scale byte, elements): `explicit` replaces step 2 of R51 by a given scale
byte; `rms` gives each element's rounding (the stochastic field differs along the block). -/
def mxBlock (code : Nat) (explicit : Option Nat) (xs : List (Num × Rm)) : Nat × List Nat :=
  if xs.any (fun x => !x.1.isFin) then (255, xs.map fun _ => 0)
  else match mxAmaxLog (xs.map Prod.fst) with
    | none => (0, xs.map fun x => mxElem code .rne 0 x.1)
    | some l =>
      let E := match explicit with
        | some X => clampInt (-127) 127 ((X : Int) - 127)
        | none => clampInt (-127) 127 (l - mxEmax code)
      ((E + 127).toNat, xs.map fun x => mxElem code x.2 E x.1)

/-! ### Audio formats (R62) -/

/-- PCM of `n` bits: multiply by 2^(n-1), round, saturate; NaN gives 0. -/
def toPcm (n : Nat) (rm : Rm) (x : Num) : Int :=
  (x.scale ((n : Int) - 1)).toIntSat rm (-(2 ^ (n - 1) : Nat)) ((2 ^ (n - 1) : Nat) - 1)

/-- PCM of `n` bits to its exact value: divide by 2^(n-1). -/
def ofPcm (n : Nat) (v : Int) : Num := (Num.ofInt v).scale (1 - (n : Int))

/-- Lower decision level of interval `n` of the µ-law table, scaled by 4 (G.711 Table 2a, R62). -/
def muLevel (n : Nat) : Nat := if n = 0 then 0 else 4 * ((16 + n % 16) * 2 ^ (n / 16 + 1) - 33)

/-- Lower decision level of interval `n` of the A-law table, scaled by 8 (G.711 Table 1a, R62). -/
def aLevel (n : Nat) : Nat :=
  8 * (if n < 16 then 2 * n else (16 + n % 16) * 2 ^ (n / 16))

/-- Output value of interval `n` of µ-law, scaled by 4. -/
def muOut (n : Nat) : Nat := 4 * (2 ^ (n / 16) * (33 + 2 * (n % 16)) - 33)

/-- Output value of interval `n` of A-law, scaled by 8. -/
def aOut (n : Nat) : Nat :=
  if n < 16 then 8 * (2 * n + 1) else 8 * ((16 + n % 16) * 2 ^ (n / 16)) + 4 * 2 ^ (n / 16)

/-- Whether the magnitude m x 2^e reaches the level L. -/
def reaches (m : Nat) (e : Int) (L : Nat) : Bool :=
  if 0 ≤ e then decide (L ≤ m * 2 ^ e.toNat) else decide (L * 2 ^ (-e).toNat ≤ m)

/-- The highest of 128 intervals whose lower level the magnitude reaches. -/
def topInterval (level : Nat → Nat) (m : Nat) (e : Int) : Nat :=
  ((List.range 128).filter fun n => reaches m e (level n)).length - 1

/-- G.711 encoding, µ-law or A-law (R62); NaN gives 0xFF or 0xD5. -/
def toG711 (mu : Bool) (x : Num) : Nat :=
  let level := if mu then muLevel else aLevel
  let code (neg : Bool) (n : Nat) : Nat :=
    if mu then ((if neg then 128 else 0) + n) ^^^ 0xFF else ((if neg then 0 else 128) + n) ^^^ 0x55
  match x with
  | .nan => code false 0
  | .inf neg => code neg 127
  | .fin neg m e => if m = 0 then code false 0 else code neg (topInterval level m (e + 15))

/-- G.711 decoding (R62): the standard's output value, divided by 2^15. Code 0x7F of µ-law, a zero with the sign bit set,
decodes to -0 (DESIGN CHOICE, log entry 98). -/
def ofG711 (mu : Bool) (w : Nat) : Num :=
  let c := if mu then w % 256 ^^^ 0xFF else w % 256 ^^^ 0x55
  let neg := if mu then decide (128 ≤ c) else decide (c < 128)
  .fin neg (if mu then muOut (c % 128) else aOut (c % 128)) (-15)

/-- The audio sub-formats that rings, narrow requests and conversions name (Table 4.5, R170):
0 FP32, 1 PCM16, 2 PCM24, 3 µ-law, 4 A-law. -/
def audioBytes (fmt : Nat) : Nat :=
  match fmt with
  | 0 => 4
  | 1 => 2
  | 2 => 3
  | _ => 1

/-- A value in an audio sub-format, as an unsigned number of `audioBytes` bytes. -/
def toAudio (fmt : Nat) (rm : Rm) (x : Num) : Nat :=
  match fmt with
  | 0 => fp32.round rm false x
  | 1 => unsigned 16 (toPcm 16 rm x)
  | 2 => unsigned 24 (toPcm 24 rm x)
  | 3 => toG711 true x
  | _ => toG711 false x

/-- The value of a sample of an audio sub-format. -/
def ofAudio (fmt w : Nat) : Num :=
  match fmt with
  | 0 => fp32.value w
  | 1 => ofPcm 16 (signed 16 w)
  | 2 => ofPcm 24 (signed 24 w)
  | 3 => ofG711 true w
  | _ => ofG711 false w

end Sys2Proof.Machine
end

