-- ==== Sys2Proof/Machine/Notify.lean ====
section
/-! DEFINITION. What the device sends: Lanlyn packets, completions (R349, R353), events (R371, R372),
in-band interrupts (R323). -/

namespace Sys2Proof.Machine

/-- A register of port p (Table 16.10). -/
def lnkReg (p off : Nat) : Nat := 0x030000 + 0x100 * p + off

/-- The counter as a number. -/
def State.now (s : State) : Nat := s.tb.count.toNat

/-- An IBI code 1 to 3 becomes pending (R323). -/
def State.raiseIbi (s : State) (code : Nat) : State :=
  s.modI3c fun i => { i with ibi := i.ibi ||| BitVec.ofNat 3 (2 ^ (code - 1)) }

/-- A packet of this device, stamped at the moment it is built (R307). -/
def State.buildPkt (s : State) (dt vc : Nat) (dst : BitVec 12) (part : Nat) (rel : Bool) (payload : Bytes) :
    Pkt :=
  { dt := dt, vc := vc, dst := dst, part := part, src := s.net.id, rel := rel, time := s.tb.count,
    payload := payload }

/-- A packet or chunk counted in LNK.DISCARDS of a port (Table 16.10). -/
def State.discardOn (s : State) (port : Nat) : State := s.bump (lnkReg port 0x1C) 0 32 1

/-- SOUT takes packets: it is UP, or it retrains, while what is bound for it waits (R300, R330; log entry 94). -/
def State.spurOpen (s : State) : Bool := (s.port 5).state == 2 || (s.port 5).state == 1

/-- Queue a packet: packets for the own id leave on SOUT (Table 17.1), and with no host there they are discarded (R330);
those that a command waits for are discarded as SOUT would send them. -/
def State.queuePkt (s : State) (p : Pkt) (cmd : Option Nat := none) (frame : Option (Nat × Nat) := none) :
    State :=
  if p.dst == s.net.id && cmd.isNone && !s.spurOpen then s.discardOn 5
  else s.modNet fun n =>
    { n with out := n.out ++ [{ pkt := p, spur := p.dst == n.id, cmd := cmd, frame := frame, charge := p.part }] }

/-- A packet owed to the own id while no id is held waits, up to 256; further ones are discarded and
counted in LNK.DISCARDS of port 5 (R354). -/
def State.queueOwn (s : State) (p : Pkt) : State :=
  if s.net.idValid then s.queuePkt p
  else if s.net.ownHeld.length < 256 then s.modNet fun n => { n with ownHeld := n.ownHeld ++ [p] }
  else s.discardOn 5

/-- A record of link control (Table 16.8). -/
def ctlRecord (type vc seq stream count : Nat) : Bytes :=
  leBytes 1 type ++ leBytes 1 vc ++ leBytes 2 seq ++ leBytes 2 stream ++ leBytes 2 count ++ leBytes 8 0

/-- Queue a 0x36 packet of records for `dst`, which leaves on SOUT when `spur` holds (R316, R331 class 3).
It travels on VC12, one of the two the spec allows (log entry 33). Without an id, packets for the own id
are held (R354). -/
def State.sendControl (s : State) (dst : BitVec 12) (spur : Bool) (records : List Bytes) : State :=
  let p := s.buildPkt 0x36 12 dst 0 false records.flatten
  if spur && !s.net.idValid then s.queueOwn p
  else if spur && !s.spurOpen then s.discardOn 5
  else s.modNet fun n => { n with ctl := n.ctl ++ [(if spur then some 2 else none, p)] }

/-- A completion or event string (Table 18.2). -/
def completionBytes (opcode : Nat) (flags : Nat) (tag : BitVec 16) (part : Nat) (status : BitVec 16)
    (time : Time) (results : Bytes) : Bytes :=
  leBytes 1 opcode ++ leBytes 1 flags ++ leBytes 2 tag.toNat ++ leBytes 1 part ++ [0] ++
    leBytes 2 results.length ++ leBytes 2 status.toNat ++ leBytes 6 time.toNat ++ results

/-- Send a completion to its source: the SRC on VC1, or the I3C completion queue (R308, R353). -/
def State.sendCompletion (s : State) (src : Src) (part : Nat) (bs : Bytes) : State :=
  let s := { s with lastCpl := bs }
  match src with
  | .i3c => (s.modI3c fun i => { i with cpl := i.cpl ++ [bs], outstanding := i.outstanding - 1 }).raiseIbi 3
  | .spur => s.queuePkt (s.buildPkt 0x31 1 s.net.id part true bs)
  | .dev d => s.queuePkt (s.buildPkt 0x31 1 d part true bs)

/-- Complete a command that is not, or no longer, held: OPCODE, TAG and PART echoed (R349). -/
def State.reply (s : State) (src : Src) (opcode : Nat) (tag : BitVec 16) (part : Nat)
    (status : BitVec 16) (results : Bytes := []) (trunc : Bool := false) : State :=
  s.sendCompletion src part
    (completionBytes opcode (if trunc then 2 else 0) tag part status s.tb.count results)

/-- Complete command number `id` if it is in progress (R353). -/
def State.endCmd (s : State) (id : Nat) (status : BitVec 16) (results : Bytes) : State :=
  match s.cmds.find? (·.id == id) with
  | none => s
  | some c =>
    { s with cmds := s.cmds.filter (·.id != id) }.reply c.src c.opcode c.tag c.part status results

/-- A FENCE in progress whose earlier commands have all completed (R369). -/
def State.fenceReady (s : State) (c : Cmd) : Bool :=
  match c.wait with
  | .fence ids => ids.all fun i => s.cmds.all (·.id != i) && s.delayed.all (·.id != i)
  | _ => false

/-- Complete the FENCEs whose condition holds, in order of receipt: one may wait for another (R369). -/
def State.settleFences (s : State) : State :=
  let fences := s.cmds.filter fun c => match c.wait with
    | .fence _ => true
    | _ => false
  let rec go (s : State) : Nat → State
    | 0 => s
    | n + 1 => match s.cmds.find? s.fenceReady with
      | none => s
      | some c => go (s.endCmd c.id stOk []) n
  go s fences.length

/-- Complete a command, and every FENCE that waited for it last. -/
def State.finishCmd (s : State) (id : Nat) (status : BitVec 16) (results : Bytes := []) : State :=
  (s.endCmd id status results).settleFences

/-- Complete every command in progress that satisfies a test, in start order (R355). -/
def State.finishWhere (s : State) (f : Cmd → Bool) (status : BitVec 16) : State :=
  s.each (s.cmds.filter f) fun s c => s.finishCmd c.id status

/-! ### Events -/

/-- The 16 result bytes of an event (Table 18.11). -/
def eventBytes (code : Nat) (part : Option Nat) (subject detail : Nat) (time : Time) (seq : BitVec 16) :
    Bytes :=
  leBytes 1 code ++ leBytes 1 (match part with | some p => p | none => 128) ++ leBytes 2 subject ++
    leBytes 4 detail ++ leBytes 6 time.toNat ++ leBytes 2 seq.toNat

/-- Raise an event (R371, R372): SYS.EVENTS and SYS.EVENT_SEQ, IBI code 2, and the packet to the own
id and once to every other recipient. -/
def State.raiseEvent (s : State) (code : Nat) (part : Option Nat) (status : BitVec 16)
    (subject detail : Nat) (owner : Option (BitVec 12) := none) : State :=
  let s := { s with eventSeq := s.eventSeq + 1 }
  let s := s.setBits 0x20 (2 ^ (code - 1))
  let pn := part.getD 0
  let bs := completionBytes 0 1 0 pn status s.tb.count (eventBytes code part subject detail s.tb.count s.eventSeq)
  let s := { s with lastEvent := bs }
  let s := (s.queueOwn (s.buildPkt 0x31 1 s.net.id pn true bs)).raiseIbi 2
  let named := (match part with | some p => (s.part p).sources | none => []) ++ owner.toList
  let others := (named.filter (· != s.net.id)).eraseDups
  s.each others fun s d => s.queuePkt (s.buildPkt 0x31 1 d pn true bs)

end Sys2Proof.Machine
end

