-- ==== Sys2Proof/Machine/Sync.lean ====
section
/-! DEFINITION. Tickets, fused stages and synchronisation objects (R69, R146 to R149, R189). -/

namespace Sys2Proof.Machine

/-- R69: (count − v) mod 2^16 < 2^15. -/
def ticketReady (count v : BitVec 16) : Bool := !(count - v).msb
/-- R147, R369: (value − target) mod 2^32 < 2^31. -/
def syncReady (value target : Word) : Bool := !(value - target).msb

/-- Post ticket k. -/
def ShareSt.post (h : ShareSt) (k : Nat) : ShareSt := { h with k := Tbl.set 0 h.k k (Tbl.get 0 h.k k + 1) }

/-- Words of a fused command still unfinished: none once every word of every iteration is (R187). -/
def Fused.complete (f : Fused) : Bool :=
  f.closed && decide ((f.done.map Prod.snd).foldl (· + ·) 0 = f.iters * f.words.foldl (· + ·) 0)

/-- A fused command of the share becomes f; when it has wholly finished, fuse.end's ticket posts and the command
ends (R187). -/
def ShareSt.setFused (h : ShareSt) (f : Fused) : ShareSt :=
  if f.complete then
    let h := { h with fused := h.fused.filter (·.id != f.id) }
    match f.post with
    | some k => h.post k
    | none => h
  else { h with fused := h.fused.map fun x => if x.id = f.id then f else x }

/-- Count a finished word of its stage and iteration of its fused command (R189). -/
def ShareSt.finishStage (h : ShareSt) (st : Option FuseTag) : ShareSt :=
  match st with
  | none => h
  | some t => match h.fused.find? (·.id == t.cmd) with
    | none => h
    | some f =>
      let key := 4 * t.iter + t.stage
      h.setFused { f with done := Tbl.set 0 f.done key (Tbl.get 0 f.done key + 1) }

/-- A word of share j of core g is done: its ticket posts and its stage counts it. -/
def State.wordDone (s : State) (g j : Nat) (ticket : Option Nat) (st : Option FuseTag) : State :=
  s.modShare g j fun h =>
    let h := match ticket with | some k => h.post k | none => h
    h.finishStage st

/-- Remove the head of an engine queue. -/
def ShareSt.popQueue (h : ShareSt) (q : Nat) : ShareSt :=
  { h with queues := Tbl.set [] h.queues q ((Tbl.get [] h.queues q).drop 1) }

/-- Queue q of a share, oldest first. -/
def ShareSt.queue (h : ShareSt) (q : Nat) : List QEntry := Tbl.get [] h.queues q

/-! ### Objects -/

/-- The value of an object. -/
def State.syncVal (s : State) (obj : Nat) : Word := Tbl.get 0 s.sync obj

def Waiter.obj : Waiter → Nat
  | .word o _ _ _ _ _ => o
  | .steward o _ _ => o

def Waiter.target : Waiter → Word
  | .word _ t _ _ _ _ => t
  | .steward _ t _ => t

/-- Clusters that a satisfied waiter wakes: the object's, and that of the share that waited (R419). -/
def Waiter.clusters : Waiter → List Nat
  | .word o _ site _ _ _ => [o / 2048, site.core.val / 64]
  | .steward o _ _ => [o / 2048]

/-- A waiter whose condition holds: its ticket posts, and a word that holds the head of its movement
queue leaves it (R147, R148); a WAIT_SYNC completes OK with the value (R369). -/
def State.satisfy (s : State) (value : Word) (w : Waiter) : State :=
  let s := s.each w.clusters fun s n => s.wakeCluster n
  match w with
  | .word _ _ site blocks ticket st =>
    let s := if blocks then s.modShare site.core site.share fun h => h.popQueue 3 else s
    s.wordDone site.core site.share ticket st
  | .steward _ _ cmd => s.finishCmd cmd stOk (leBytes 4 value.toNat)

/-- Test every waiter of an object after one update (R148). -/
def State.testWaiters (s : State) (obj : Nat) : State :=
  let v := s.syncVal obj
  let hit (w : Waiter) : Bool := w.obj == obj && syncReady v w.target
  let ready := s.waiters.filter hit
  { s with waiters := s.waiters.filter fun w => !hit w }.each ready fun s w => s.satisfy v w

/-- One update of an object (R148). -/
def State.syncSet (s : State) (obj : Nat) (v : Word) : State :=
  { s with sync := Tbl.set 0 s.sync obj v }.testWaiters obj

/-- Add to an object, modulo 2^32. -/
def State.syncAdd (s : State) (obj : Nat) (v : Word) : State := s.syncSet obj (s.syncVal obj + v)

end Sys2Proof.Machine
end

