-- ==== Sys2Proof/Machine/Ledger.lean ====
section
/-! DEFINITION. Chapter 9, the Ledger: rings, readiness, headroom, status, Dockets, fault fields, and
the output rates that headroom reads (R16 to R22, R34, R35, R191 to R199, R285, R286, R441, R442). -/

namespace Sys2Proof.Machine

/-! ### Rings and queues (R441, R191) -/

/-- Samples in the ring. -/
def Entry.fill (e : Entry) : Nat := (e.orWr - e.orRd).toNat
/-- Bytes of one sample of OR_FMT. -/
def Entry.sampleBytes (e : Entry) : Nat := audioBytes e.orFmt.toNat
/-- Partition address of sample k (R441). -/
def Entry.sampleAddr (e : Entry) (k : Nat) : Nat := e.orBase.toNat + (k % e.orSize.toNat) * e.sampleBytes
/-- Bytes of an input slot and of a chain-queue frame. -/
def Entry.slotBytes (e : Entry) : Nat := 64 * e.iqSlot.toNat
def Entry.frameBytes (e : Entry) : Nat := 64 * e.cqFrame.toNat
/-- Chain queue j. -/
def Entry.chainQ (e : Entry) (j : Nat) : ChainQ := Tbl.get {} e.cq j
def Entry.setChainQ (e : Entry) (j : Nat) (q : ChainQ) : Entry := { e with cq := Tbl.set {} e.cq j q }
/-- Partition address of slot i of chain queue j (R191 CQ_BASE). -/
def Entry.cqAddr (e : Entry) (j i : Nat) : Nat := e.cqBase.toNat + (j * 16 + i % 16) * e.frameBytes
/-- Number of links. -/
def Entry.links (e : Entry) : Nat := e.chain.length
/-- An entry that belongs to a partition (R442). -/
def Entry.belongs (e : Entry) (p : Nat) : Bool := e.part == some p
/-- Frames waiting for link j: present chunks for link 0, else chain queue j − 1. -/
def Entry.source (e : Entry) (j : Nat) : Nat := if j = 0 then e.iqCount else (e.chainQ (j - 1)).fill
/-- Saturating DISCARDS. -/
def Entry.discard (e : Entry) (n : Nat) : Entry := { e with discards := satAdd32 e.discards n }

/-- The Ropewalk of link j, when it is defined. -/
def State.linkRope (s : State) (e : Entry) (j : Nat) : Option Rope :=
  match e.chain[j]? with
  | none => none
  | some r => s.rope r

/-- SAMPLES of the last link (R21); 0 when it is not defined. -/
def State.lastSamples (s : State) (e : Entry) : Nat :=
  match s.linkRope e (e.links - 1) with
  | some r => r.samples
  | none => 0

/-- The output ring is full (R21). -/
def State.ringFull (s : State) (e : Entry) : Bool :=
  decide (e.orSize.toNat - e.fill < s.lastSamples e)

/-! ### Dockets in flight -/

/-- An undropped or dropped entry of stream i is in a Docket. -/
def Docket.carries (d : Docket) (i : Nat) : Bool := d.entries.any (·.stream == i)
/-- Some Docket in flight carries stream i (R192). -/
def State.carried (s : State) (i : Nat) : Bool := s.dockets.any (·.carries i)
/-- An entry of stream i in a Docket in flight may still commit: its step is in flight (R203). -/
def State.unfinished (s : State) (i : Nat) : Bool :=
  s.dockets.any fun d => d.entries.any fun x => x.stream == i && !x.dropped && !x.resolved
/-- Some Docket of Ropewalk r in flight carries stream i (Table 9.2). -/
def State.carriedBy (s : State) (r i : Nat) : Bool := s.dockets.any fun d => d.rope == r && d.carries i
/-- In-flight Dockets of Ropewalk r. -/
def State.inflight (s : State) (r : Nat) : Nat := (s.dockets.filter (·.rope == r)).length
/-- The Docket (r, seq) in flight. -/
def State.docket (s : State) (r : Nat) (seq : Word) : Option Docket :=
  s.dockets.find? fun d => d.rope == r && d.seq == seq
def State.modDocket (s : State) (r : Nat) (seq : Word) (f : Docket → Docket) : State :=
  { s with dockets := s.dockets.map fun d => if d.rope == r && d.seq == seq then f d else d }

/-! ### Readiness and status (R193, R21) -/

/-- The position limit (R204). -/
def posLimit : Nat := 4194304

/-- Is stream i ready for link j (Table 9.2). -/
def State.readyFor (s : State) (i j : Nat) : Bool :=
  let e := s.entry i
  match e.chain[j]?, s.linkRope e j with
  | some r, some _ =>
    e.status.active && e.fault == 0 && decide (0 < e.source j) && !s.carriedBy r i &&
      (if j + 1 = e.links then !s.ringFull e && !e.seqend
       else decide ((e.chainQ j).fill < 16) &&
         decide (e.pos + (((List.range (e.links - 1)).filter (j ≤ ·)).map fun q => (e.chainQ q).fill).foldl (· + ·) 0
           < posLimit))
  | _, _ => false

/-- Re-evaluate the status (R21, R192): OPEN lasts until the first chunk arrives, which the chunk's
arrival ends. -/
def State.reval (s : State) (i : Nat) : State :=
  let e := s.entry i
  match e.status with
  | .ready | .waitingInput | .waitingRoom =>
    let st : StStatus :=
      if (List.range e.links).any (s.readyFor i) then .ready
      else if s.ringFull e then .waitingRoom else .waitingInput
    s.setEntry i { e with status := st }
  | _ => s

/-! ### Output rates (R34, R35, R285, R286) -/

/-- f_out in 1/256 Hz of a clock mode (Table 15.2). -/
def State.fOut (s : State) (clk : Nat) : Nat :=
  let r := s.tb.rate.toNat
  match clk with
  | 0 => r
  | 1 => r * 2
  | 2 => r * 4
  | 3 => r / 2
  | 4 => r / 4
  | 5 => s.mclk.rate
  | _ => s.mclk.rate / 2

/-- ρ = f_out : f_ring as a fraction; within 0.1 % of 1:4, 1:2, 1, 2:1 or 4:1 it is that value (R286). -/
def ratioOf (fout fring : Nat) : Nat × Nat :=
  let near (ab : Nat × Nat) : Bool :=
    decide (1000 * ((fout * ab.2 : Int) - (ab.1 * fring : Int)).natAbs ≤ ab.1 * fring)
  match [(1, 4), (1, 2), (1, 1), (2, 1), (4, 1)].find? near with
  | some r => r
  | none => (fout, fring)

/-- 1:4 ≤ ρ ≤ 4:1 (R35). -/
def ratioInRange (r : Nat × Nat) : Bool := decide (r.2 ≤ 4 * r.1) && decide (r.1 ≤ 4 * r.2)

/-- An AES3 output's clock is out of range (R285). -/
def State.clockMuted (s : State) (clk : Nat) : Bool :=
  let f := s.fOut clk
  decide (f < 31000 * 256) || decide (198000 * 256 < f) ||
    (5 ≤ clk && (!s.mclk.accepted || 4 < s.mclk.miss))

/-- What an output binding names (R288, R313). -/
inductive BindTo where
  | none
  | aes (c : Nat)
  | slot (g k : Nat)
  | bad
deriving DecidableEq, Repr, Inhabited

/-- Decode BIND. -/
def bindTo (b : BitVec 16) : BindTo :=
  let w := b.toNat
  if w = 0xFFFF then .none
  else match w / 16384 with
    | 0 => if fld w 4 10 = 0 then .aes (w % 16) else .bad
    | 1 => if fld w 10 4 = 0 ∧ fld w 6 4 ≠ 0 then .slot (fld w 6 4) (w % 64) else .bad
    | _ => .bad

/-- f_out of the output that a binding names. -/
def State.bindRate (s : State) (b : BitVec 16) : Nat :=
  match bindTo b with
  | .aes c => s.fOut (s.out (c / 2)).clk.val
  | .slot g _ => s.fOut (s.group g).clk.val
  | _ => 0

/-- The stream counts as bound for Docket order (R22): bound, neither muted under R35 nor clock-muted,
its slot-mask bit set. -/
def State.countsBound (s : State) (e : Entry) : Bool :=
  let inRange := ratioInRange (ratioOf (s.bindRate e.bind) e.ringRate.toNat)
  match bindTo e.bind with
  | .aes c =>
    let o := s.out (c / 2)
    o.en && !s.clockMuted o.clk.val && bitOf s.slotMask.toNat c && inRange
  | .slot g k => (s.group g).active && bitOf (s.group g).mask.toNat k && inRange
  | _ => false

/-- Headroom in reference periods (R34); 0xFFFF_FFFF while the stream counts as unbound (R191). -/
def State.headroomOf (s : State) (e : Entry) : Word :=
  if s.countsBound e then
    let fout := s.bindRate e.bind
    let r := ratioOf fout e.ringRate.toNat
    BitVec.ofNat 32 (min (e.fill * r.1 * s.tb.rate.toNat / (r.2 * fout)) 0xFFFFFFFE)
  else 0xFFFFFFFF

/-! ### Urgency (R272) -/

/-- Stream e makes its context urgent. -/
def State.streamUrgent (s : State) (e : Entry) : Bool :=
  (e.status.active) && s.countsBound e && e.lowWater != 0 && decide (s.headroomOf e < e.lowWater)

/-- Headroom is compared with LOW_WATER at a commit to or a drain from stream i's ring (R272). -/
def State.urgency (s : State) (i : Nat) : State :=
  s.modEntry i fun e => { e with headroom := s.headroomOf e, urgent := s.streamUrgent e }

/-! ### Streams of a context and fault fields -/

/-- Ropewalks of context c. -/
def State.ropesOf (s : State) (c : Nat) : List Nat :=
  s.ropes.filterMap fun x => match x.2 with
    | some r => if r.ctx = c then some x.1 else none
    | none => none

/-- Streams, CLOSED ones apart, whose chain names a Ropewalk of context c: streams of c and of its partition, for ids
of Ropewalks and contexts are used again (R23, R160, R281). -/
def State.streamsOf (s : State) (c : Nat) : List Nat :=
  let rs := s.ropesOf c
  let part := (s.ctx c).map Ctx.part
  s.entries.filterMap fun x =>
    if x.2.status != .closed && x.2.context == c && x.2.part == part && x.2.chain.any rs.contains then some x.1 else none

/-- A waiting PARK_STREAM of stream i completes, and PARKING clears (R200). -/
def State.endPark (s : State) (i : Nat) (status : BitVec 16) : State :=
  let s := s.modEntry i fun e => { e with parking := false }
  s.finishWhere (fun c => c.wait == .park i) status

/-- Write a status to a stream's fault field: the first stays; when it is first written the stream becomes FAULTED, its
pending narrow step is discarded (R84), and a waiting PARK_STREAM completes with WRONG_STATE (R160, R199, R200, R203). -/
def State.faultStream (s : State) (i : Nat) (st : BitVec 16) : State :=
  let e := s.entry i
  if e.status = .closed ∨ e.fault ≠ 0 then s
  else (s.setEntry i { e with fault := st, status := .faulted, urgent := false, pend := none }).endPark i stWrongState

/-! ### Dropping and retiring Dockets (R197, R198) -/

/-- After a Docket of stream i has gone: a CLOSED entry no longer carried leaves its partition (R192,
R442); otherwise the status follows R21. -/
def State.released (s : State) (i : Nat) : State :=
  let e := s.entry i
  if e.status = .closed then
    if e.held && e.reserved.isNone && !s.carried i then
      s.setEntry i { e with held := false, part := none }
    else s
  else s.reval i

/-- Retire the Docket (r, seq) (R197). -/
def State.retireDocket (s : State) (r : Nat) (seq : Word) : State :=
  match s.docket r seq with
  | none => s
  | some d =>
    { s with dockets := s.dockets.filter fun x => !(x.rope == r && x.seq == seq) }.each
      (d.entries.map DEntry.stream) fun s i => s.released i

/-- Retire every Docket of Ropewalk r whose first stage has taken it and whose entries are all
returned and resolved (R197). -/
def State.retireDone (s : State) (r : Nat) : State :=
  match s.rope r with
  | none => s
  | some rp =>
    let n := match rp.stages.head? with | some st => st.2 | none => 0
    s.each (s.dockets.filter fun d => d.rope == r && n ≤ d.taken.length &&
        d.entries.all (fun e => e.returned.isSome && e.resolved)) fun s d => s.retireDocket r d.seq

/-- Discard stream i's pending narrow step: its samples and history (R84). -/
def State.dropPend (s : State) (i : Nat) : State := s.modEntry i fun e => { e with pend := none }

/-- Drop every in-flight Docket of Ropewalk r whole; each retires at once (R197), and its entries'
pending narrow steps are discarded (R84). -/
def State.dropDockets (s : State) (r : Nat) : State :=
  s.each (s.dockets.filter (·.rope == r)) fun s d =>
    let s := s.each d.entries fun s e =>
      if e.link + 1 = (s.entry e.stream).links then s.dropPend e.stream else s
    s.retireDocket d.rope d.seq

/-- A history write-back writes whole lines (R85): the bytes around the history keep their values. -/
def State.writeWhole (s : State) (p : Part) (A : Nat) (bs : Bytes) : State :=
  let lo := A / 128 * 128
  let hi := ceilDiv (A + bs.length) 128 * 128
  let s := s.each ((if lo < A then [lo] else []) ++ (if A + bs.length < hi then [hi - 128] else [])) fun s a =>
    (s.readLine p .normal a).1
  (s.writePart p .normal lo
    (s.partBytes p lo (A - lo) ++ bs ++ s.partBytes p (A + bs.length) (hi - (A + bs.length)))).1

/-- Partition address of stream e's synthesis history: SYNTH_OFF, read from the committed state (R94, R230). -/
def State.synthAddr (s : State) (e : Entry) : State × Nat :=
  let r := s.readPart (s.part (e.part.getD 0)) .normal (e.state.toNat + 12) 4
  (r.1, e.state.toNat + leNat r.2.1)

/-- Slot x's committed history goes back to its stream's state region, counted in NARROW_EVICTS of
cluster n (R84, R230). -/
def State.writeBack (s : State) (n : Nat) (x : Slot) : State :=
  let e := s.entry x.stream
  match e.part with
  | none => s
  | some p =>
    let r := s.synthAddr e
    (r.1.writeWhole (s.part p) r.2 x.hist).bump (cluBase n + 0x108) 0 32 1

/-- The narrow engine writes back stream i's slot, wherever it lies, and frees it (R84). -/
def State.flushSlot (s : State) (i : Nat) : State :=
  s.each (List.range 32) fun s n =>
    match (s.clu n).slots.find? (·.stream == i) with
    | none => s
    | some x => (s.writeBack n x).modClu n fun k => { k with slots := k.slots.filter (·.stream != i) }

/-- Resolve the ldg.done words of all shares whose entries have all resolved: each posts (R185). -/
def State.resolveWords (s : State) (r : Nat) (seq : Word) : State :=
  let resolved (e : Nat) : Bool := match s.docket r seq with
    | none => true
    | some d => match d.entries[e]? with
      | some x => x.resolved
      | none => true
  match s.rope r with
  | none => s
  | some rp =>
    match s.ctx rp.ctx with
    | none => s
    | some c =>
      s.each c.cores fun s gj =>
        let h := s.share gj.1 gj.2
        let mine (w : DoneWord) : Bool := w.rope == r && w.seq == seq && w.entries.all resolved
        let go := h.doneWords.filter mine
        (s.modShare gj.1 gj.2 fun h => { h with doneWords := h.doneWords.filter fun w => !mine w }).each go
          fun s w => s.wordDone gj.1 gj.2 w.ticket w.stage

end Sys2Proof.Machine
end

