-- ==== Sys2Proof/Machine/Stop.lean ====
section
/-! DEFINITION. How a context stops: program faults and their spread (R86, R160), cancellation (R110,
R127), and the failure of a unit (R129, R382 to R386, R443). -/

namespace Sys2Proof.Machine

/-- Cancel the transfers of context c in every stream engine: what their issued reads deliver is discarded; their issued
writes, and the lines that a WARM read, have reached the home caches (R110). -/
def State.cancelTransfers (s : State) (c : Nat) : State :=
  s.each (List.range 32) fun s n =>
    let k := s.clu n
    let gone := (k.held.filter (·.ctx == c)).length
    if gone = 0 ∧ k.lists.all (·.ctx != c) then s
    else
      let ids := (k.held.filter (·.ctx == c)).map HeldDesc.id
      (s.modClu n fun k =>
        { k with held := k.held.filter (·.ctx != c), lists := k.lists.filter (·.ctx != c),
                 txns := k.txns.filter fun t => !ids.contains t.id }).bump (cluBase n + 0x838) 0 32 gone

/-- Cancel the Mill descriptors of context c in every cluster (R127). -/
def State.cancelMill (s : State) (c : Nat) : State :=
  s.each (List.range 32) fun s n =>
    let k := s.clu n
    let gone := (k.millQ.filter (·.ctx == c)).length + (k.millSub.filter (·.ctx == c)).length
    if gone = 0 then s
    else
      let cur := match k.millCur with
        | none => none
        | some id => if k.millQ.any (fun d => d.id == id && d.ctx != c) then some id else none
      (s.modClu n fun k =>
        { k with millQ := k.millQ.filter (·.ctx != c), millSub := k.millSub.filter (·.ctx != c),
                 millCur := cur }).bump (cluBase n + 0xA08) 0 32 gone

/-- Drop the in-flight Dockets of every Ropewalk of context c (R160 step 3, R280 step 4). -/
def State.dropContext (s : State) (c : Nat) : State := s.each (s.ropesOf c) fun s r => s.dropDockets r

/-- R160, steps 1 to 5, for context c; one that has stopped already records nothing more. `spread` records cause 0x20 on shares without a cause of their
own; `st` is the status its streams' fault fields take. -/
def State.stopContext (s : State) (c : Nat) (spread : Bool) (st : BitVec 16) : State :=
  match s.ctx c with
  | none => s
  | some x =>
    if x.faulted then s else
    let s := s.each x.cores fun s gj => s.modShare gj.1 gj.2 fun h =>
      { h with faulted := true,
               cause := if spread ∧ h.cause = 0 then 0x20 else h.cause }
    let s := (s.cancelTransfers c).cancelMill c
    let streams := s.streamsOf c
    let s := s.dropContext c
    let s := s.each streams fun s i => s.faultStream i st
    s.modCtx c fun x => { x with faulted := true }

/-- A program fault of share j of core g (R86, R160): the first fault is recorded, and it spreads. -/
def State.progFault (s : State) (g j : Nat) (cause engine index : Nat) : State :=
  let h := s.share g j
  match h.ctx with
  | none => s
  | some c =>
    let s := if !h.faulted then s.modShare g j fun h =>
        { h with cause := BitVec.ofNat 8 cause, engine := BitVec.ofNat 3 engine,
                 faultIndex := BitVec.ofNat 12 index }
      else s
    s.stopContext c true stProgramFault

/-! ### The floor plan (R380 to R382) -/

/-- OTP marks the unit absent. -/
def absentUnit : UnitId → Bool
  | .core g => Config.absentCore g.val
  | .mill g => Config.absentMill g.val
  | .narrow _ => false

/-- Unit state 0 present, 1 absent, 2 failed, as the maps hold it. -/
def State.unitState (s : State) (u : UnitId) : Nat :=
  match u with
  | .core g => Tbl.get 0 s.coreMap g.val
  | .mill g => Tbl.get 0 s.millMap g.val
  | .narrow n => Tbl.get 0 s.narrowMap n.val

/-- Mark a unit failed in the maps. -/
def State.markFailed (s : State) (u : UnitId) : State :=
  match u with
  | .core g => { s with coreMap := Tbl.set 0 s.coreMap g.val 2 }
  | .mill g => { s with millMap := Tbl.set 0 s.millMap g.val 2 }
  | .narrow n => { s with narrowMap := Tbl.set 0 s.narrowMap n.val 2 }

/-- Kind and global index of a unit (Table 18.12). -/
def unitKind : UnitId → Nat
  | .core _ => 0
  | .mill _ => 1
  | .narrow _ => 2
def unitIndex : UnitId → Nat
  | .core g => g.val
  | .mill g => g.val
  | .narrow n => n.val

/-- Contexts that use a unit at the moment it fails (R385 step 2, R129). -/
def State.usersOf (s : State) (u : UnitId) : List Nat :=
  match u with
  | .core g => ((List.range 4).filterMap fun j => (s.share g.val j).ctx).eraseDups
  | .mill g => ((s.clu (g.val / 8)).millQ.map MillDesc.ctx).eraseDups
  | .narrow n =>
    let queued := (s.clu n.val).narQ.map NarReq.ctx
    let slots := (s.clu n.val).slots.map fun (x : Slot) => (s.entry x.stream).context
    let pend := s.entries.filterMap fun (x : Nat × Entry) => match x.2.pend with
      | some q => if q.engine = n.val then some x.2.context else none
      | none => none
    (queued ++ slots ++ pend).eraseDups

/-! ### Leaving (R280, R281) -/

/-- Free context c's shares, register sets and id (R281). The Tally counters keep their values. Narrow
requests still queued go with the shares that hold their operands (log entry 26). -/
def State.freeContext (s : State) (c : Nat) : State :=
  match s.ctx c with
  | none => s
  | some x =>
    let s := s.each x.cores fun s gj => s.modShare gj.1 gj.2 fun h =>
      { tallyFe := h.tallyFe, tallyMx := h.tallyMx, tallyVx := h.tallyVx, tallySc := h.tallySc,
        cause := h.cause, engine := h.engine, faultIndex := h.faultIndex,
        weight := h.weight, borrow := h.borrow, cfgWeight := h.cfgWeight, cfgBorrow := h.cfgBorrow, quota := h.quota, deficit := h.deficit,
        borrowed := h.borrowed, debt := h.debt }
    let s := s.each (List.range 32) fun s n =>
      if (s.clu n).narQ.any (·.ctx == c) then
        s.modClu n fun k => { k with narQ := k.narQ.filter (·.ctx != c) }
      else s
    s.setCtx c none

/-- Is a site one of a context's shares. -/
def Ctx.has (x : Ctx) (site : Site) : Bool := x.cores.contains (site.core.val, site.share.val)

/-- Remove the waiters that context c registered (R280 step 5). -/
def State.dropWaiters (s : State) (c : Nat) : State :=
  match s.ctx c with
  | none => s
  | some x =>
    { s with waiters := s.waiters.filter fun w => match w with
        | .word _ _ site _ _ _ => !x.has site
        | .steward _ _ _ => true }

/-- R281: a stream of a retiring context that is not CLOSED, DRAINING or FAULTED becomes PARKED, its
history written back first; a waiting PARK_STREAM completes with OK. -/
def State.parkRetired (s : State) (i : Nat) : State :=
  let e := s.entry i
  if e.status.active then
    let s := (s.flushSlot i).modEntry i fun e => { e with status := .parked, urgent := false }
    s.endPark i stOk
  else s

/-- A retirement completes (R281): streams park, Ropewalks cease, shares and id are freed, and every
RETIRE_CONTEXT waiting on the context completes with `st`. -/
def State.completeRetire (s : State) (c : Nat) (st : BitVec 16) : State :=
  let s := s.each (s.streamsOf c) fun s i => s.parkRetired i
  let s := s.each (s.ropesOf c) fun s r => s.setRope r none
  let s := (s.dropWaiters c).freeContext c
  s.finishWhere (fun k => match k.wait with | .retire x _ _ => x == c | _ => false) st

/-- R280, steps 2 to 5: dispatch stops, queued words go, transfers and Mill work are cancelled, every
Docket is dropped whole with its pending narrow steps, and waiters are removed. -/
def State.abortContext (s : State) (c : Nat) : State :=
  let cores := match s.ctx c with | some x => x.cores | none => []
  let s := s.each cores fun s gj => s.modShare gj.1 gj.2 fun h =>
    { h with queues := [], stopped := true, fused := [], doneWords := [] }
  ((s.cancelTransfers c).cancelMill c).dropContext c |>.dropWaiters c

/-- A context stopped by a unit failure (R385 step 2): UNIT_FAILED goes to its streams' fault fields
and no cause is recorded; an admission in progress completes with UNIT_FAILED and nothing is admitted
(R386); a retirement in progress completes at once with ABORTED (R282). -/
def State.unitStops (s : State) (c : Nat) : State :=
  match s.ctx c with
  | none => s
  | some x =>
    if x.preparing then
      (s.freeContext c).finishWhere (fun k => k.wait == .admission c) stUnitFailed
    else
      let s := s.stopContext c false stUnitFailed
      if x.retiring then s.completeRetire c stAborted else s

/-- The cluster of a unit. -/
def unitCluster : UnitId → Nat
  | .core g => g.val / 64
  | .mill g => g.val / 8
  | .narrow n => n.val

/-- A test or reset that a command waits for covers a unit (R388, R389). -/
def State.covers (s : State) (u : UnitId) (w : Wait) : Bool :=
  match w with
  | .test 0 n => unitKind u == 0 && n == unitIndex u
  | .test 1 n => unitKind u == 1 && n == unitIndex u
  | .test 2 n => n == unitCluster u
  | .reset 0 n => unitKind u == 0 && n == unitIndex u
  | .reset 1 n => n == unitCluster u
  | .reset 2 p => (s.part p).owns (unitCluster u)
  | _ => false

/-- A test or reset ends: its unit is no longer under it. -/
def State.clearWork (s : State) (w : Wait) : State :=
  match w with
  | .test 0 g => s.modCore g fun c => { c with testing := false }
  | .test 1 m => s.modClu (m / 8) fun k => { k with millTest := k.millTest &&& ~~~(BitVec.ofNat 8 (2 ^ (m % 8))) }
  | .test 2 n => s.modClu n fun k => { k with testing := false }
  | .test 3 c => s.modClu (c / 8) fun k => { k with chanTest := k.chanTest &&& ~~~(BitVec.ofNat 8 (2 ^ (c % 8))) }
  | .reset 0 g => s.modCore g fun c => { c with resetting := false }
  | .reset 1 n => s.modClu n fun k => { k with resetting := false }
  | .reset 2 p => s.modPart p fun x => { x with resetting := false }
  | _ => s

/-- A unit under SELF_TEST or RESET_UNIT fails: the command completes with UNIT_FAILED (R386). -/
def State.failTests (s : State) (u : UnitId) : State :=
  s.each (s.cmds.filter fun k => s.covers u k.wait) fun s k => (s.clearWork k.wait).finishCmd k.id stUnitFailed

/-- An ADMIT_CONTEXT in lane 0, its checks passed, maps core g: it carries its mapped cores (R386, R402). -/
def Cmd.maps (g : Nat) (c : Cmd) : Bool := match c.wait with
  | .lane 0x21 b => (List.range ((b.length - 24) / 2)).any fun i => fieldAt b (24 + 2 * i) 2 == g
  | _ => false

/-- A unit is marked failed (R385, R443): the maps, the generation after stage 5, the contexts that
use it, a test or reset of it (R386), and from ready onward the two events (R372). -/
def State.unitFailure (s : State) (u : UnitId) : State :=
  if s.unitState u ≠ 0 then s
  else
    let users := s.usersOf u
    let s := s.markFailed u
    let s := if s.planned then { s with generation := s.generation + 1, planTime := s.tb.count } else s
    let s := s.each users fun s c => s.unitStops c
    let s := match u with
      | .narrow n => s.modClu n.val fun k => { k with slots := [], narQ := [] }
      | _ => s
    let s := s.failTests u
    let s := match u with
      | .core g => s.finishWhere (Cmd.maps g.val) stUnitFailed
      | _ => s
    if s.ready then
      (s.raiseEvent evUnitFailed none stUnitFailed (unitKind u) (unitIndex u)).raiseEvent evFloorPlan none stOk 0
        s.generation.toNat
    else s

end Sys2Proof.Machine
end

