-- ==== Sys2Proof/Machine/Range.lean ====
section
/-! DEFINITION. Which outputs are muted for their ratio or their clock, and the events that a new mute
sets (R34, R35, R285 to R287, R298). -/

namespace Sys2Proof.Machine

/-- AUD block (Table 15.6). -/
def audBase : Nat := 0x020000

/-- TB and AUD registers (Tables 2.4 and 15.6). -/
def tbBase : Nat := 0x010000
def outReg (o off : Nat) : Nat := audBase + 0x20 * o + off
def inReg (i off : Nat) : Nat := audBase + 0x200 + 0x40 * i + off

/-- F of a code (R40). -/
def frameLen (sel : Fin 8) : Nat := [16, 32, 48, 64, 96, 128, 192, 256].getD sel.val 48
/-- F in effect, and the number of the current frame (R36, R37). -/
def State.frameF (s : State) : Nat := frameLen s.tb.frameEff
def State.frameNo (s : State) : Nat := s.tb.count.toNat / s.frameF

/-- ρ of stream i on an output of rate `fout` (R34, R286). -/
def State.rhoOf (s : State) (fout i : Nat) : Nat × Nat := ratioOf fout (s.entry i).ringRate.toNat

/-- AES3 channel c of an enabled output is muted under R35. -/
def State.chanRange (s : State) (c : Nat) : Bool :=
  let o := s.out (c / 2)
  match (s.achan c).stream with
  | some i => o.en && !ratioInRange (s.rhoOf (s.fOut o.clk.val) i)
  | none => false

/-- Slot k of group g is muted under R35. -/
def State.slotRange (s : State) (g k : Nat) : Bool :=
  let x := s.group g
  match Tbl.get none x.slots k with
  | some i => x.active && !ratioInRange (s.rhoOf (s.fOut x.clk.val) i)
  | none => false

/-- Clear the converter history of channel c when it is muted (R287). -/
def State.muteConv (s : State) (c : Nat) (m : Bool) : State := if m then s.modAchan c fun x => { x with conv := {} } else s

/-- Re-evaluate output o: RANGE_A, RANGE_B and CLK_MUTE, with their events at each onset. -/
def State.outCheck (s : State) (o : Nat) : State :=
  let x := s.out o
  let a := s.chanRange (2 * o)
  let b := s.chanRange (2 * o + 1)
  let clk := x.en && s.clockMuted x.clk.val
  if x.rangeA = a ∧ x.rangeB = b ∧ x.clkMute = clk then s
  else
    let range := (a && !x.rangeA) || (b && !x.rangeB)
    let s := s.setOut o { x with rangeA := a, rangeB := b, clkMute := clk }
    let s := s.setBits (outReg o 0x1C) (b2n range + 4 * b2n (clk && !x.clkMute))
    let s := s.setBits (tbBase + 0x14) (16 * b2n range)
    (s.muteConv (2 * o) (a || clk)).muteConv (2 * o + 1) (b || clk)

/-- Re-evaluate the slots of group g. -/
def State.groupCheck (s : State) (g : Nat) : State :=
  let x := s.group g
  let now := maskOf ((List.range 64).filter (s.slotRange g))
  if x.range = BitVec.ofNat 64 now then s
  else
    let new := (List.range 64).any fun k => bitOf now k && !bitOf x.range.toNat k
    let s := s.setGroup g { x with range := BitVec.ofNat 64 now,
                                   convs := x.convs.filter fun y => !bitOf now y.1 }
    s.setBits (tbBase + 0x14) (16 * b2n new)

/-- Re-evaluate every output. -/
def State.rangeCheck (s : State) : State :=
  (s.each (List.range 8) State.outCheck).each ((List.range 15).map (· + 1)) State.groupCheck

end Sys2Proof.Machine
end

