-- ==== Sys2Proof/Machine/Timebase.lean ====
section
/-! DEFINITION. The timebase (R25 to R35, R37): edges, predictions, acquisition, holdover, rate changes,
and the selection of a source. Instants and periods are in 1/65536 REFCLK cycle, the unit of TB.RATIO. -/

namespace Sys2Proof.Machine

/-! ### The counter -/

/-- One increment of the counter at an instant, with a rising edge on WCLK_OUT (R25, R29). -/
def Tb.tick (t : Tb) (instant : Nat) : Tb :=
  { t with count := t.count + 1, wclk := t.wclk + 1, lastInc := instant }

/-- The counter is driven by edges of an external source (R30). -/
def Tb.counting (t : Tb) : Bool := t.running && t.src != 0 && t.st == .locked
/-- The predicted instant of the next edge (R30). -/
def Tb.predicted (t : Tb) : Nat := t.anchor + t.ratio.toNat
/-- An instant lies in the window of the prediction, boundaries included (R30). -/
def Tb.inWindow (t : Tb) (at_ : Nat) : Bool :=
  decide (100 * ((at_ : Int) - (t.predicted : Int)).natAbs ≤ 6 * t.ratio.toNat)

/-! ### Rates (R27, R29, R33) -/

/-- The numerator that turns a span of 256 periods into a rate in 1/256 Hz: 25 MHz in 1/65536 cycle. -/
def rateNum : Nat := 25000000 * 65536 * 256

/-- Quotient rounded to nearest (log entry 29). -/
def roundDiv (a b : Nat) : Nat := if b = 0 then 0 else (2 * a + b) / (2 * b)

/-- A rate is accepted (R33): a change of more than 0.1 % is recorded; TB.RATE and TB.RATIO follow. -/
def State.acceptRate (s : State) (rate ratio : Word) : State :=
  let t := s.tb
  let changed := decide (t.rate.toNat < 1000 * ((rate.toNat : Int) - (t.rate.toNat : Int)).natAbs)
  let s := s.modTb fun t => { t with rate := rate, ratio := ratio }
  let s := if changed then
      (s.modTb fun x => { x with chgTime := t.count, chgOld := t.rate, chgNew := rate }).setBits (tbBase + 0x14) 4
    else s
  s.rangeCheck

/-- The mean of n periods that span `sum`: rate and ratio, when the rate lies from 31,000 to 198,000 Hz
(R29). -/
def meanRate (sum n : Nat) : Option (Word × Word) :=
  if 31000 * 256 * sum ≤ rateNum * n ∧ rateNum * n ≤ 198000 * 256 * sum then
    some (BitVec.ofNat 32 (roundDiv (rateNum * n) sum), BitVec.ofNat 32 (roundDiv sum n))
  else none

/-- 256 consecutive periods, each within 0.1 % of their mean (R29): their sum. -/
def acquired (l : List Nat) : Option Nat :=
  let sum : Nat := l.foldl (· + ·) 0
  if l.length = 256 ∧ l.all (fun (p : Nat) => decide (1000 * ((256 * p : Int) - (sum : Int)).natAbs ≤ sum)) then some sum
  else none

/-- Measurement starts afresh. -/
def Tb.clearMeasure (t : Tb) : Tb := { t with periods := [], lastEdge := none }

/-! ### States (Table 2.2) -/

/-- Enter HOLDOVER (R32): TIMEBASE_LOST once, LOST, and the count of entries. -/
def State.enterHoldover (s : State) : State :=
  let s := s.modTb fun t => { t.clearMeasure with st := .holdover }
  let s := (s.setBits (tbBase + 0x14) 1).bump (tbBase + 0x34) 0 16 1
  s.raiseEvent evTimebaseLost none stTimebaseLost s.tb.src.val s.tb.rate.toNat

/-- Leaving HOLDOVER sets RELOCKED (R32). -/
def State.leaveHoldover (s : State) : State := if s.tb.st = .holdover then s.setBits (tbBase + 0x14) 2 else s

/-- An edge while the source is only measured (R29, R30): of its last 256 periods, each must lie within 0.1 % of their
mean, so a long one holds back acquisition until it is no longer among them. TB.STATUS.MISS is the count of ACQUIRE and
RELOCK; in HOLDOVER it stays as it was (DESIGN CHOICE, log entry 92). -/
def State.measureEdge (s : State) (at_ : Nat) : State :=
  let t := s.tb
  let t := match t.lastEdge with
    | none => { t with periods := [] }
    | some e => { t with periods := ((at_ - e) :: t.periods).take 256 }
  let t := { t with lastEdge := some at_, miss := if t.st = .holdover then t.miss else 0 }
  let s := { s with tb := t }
  match acquired t.periods with
  | none => s
  | some sum => match meanRate sum 256 with
    | none => s
    | some (rate, ratio) =>
      let s := s.leaveHoldover
      -- the edge that completes acquisition is the first one counted (log entry 30)
      let tick := decide (ratio.toNat ≤ 2 * (at_ - t.lastInc))
      let s := s.modTb fun t =>
        let t := if tick then t.tick at_ else t
        { t.clearMeasure with st := .locked, miss := 0, rej := 0, anchor := at_, accepted := none, counted := false,
                              sinceMeasure := 0, measureFrom := at_, measured := none }
      s.acceptRate rate ratio

/-- An edge while the source is counted (R30, R31). -/
def State.countEdge (s : State) (at_ : Nat) : State :=
  let t := s.tb
  if t.accepted.isNone && t.inWindow at_ then
    s.modTb fun t =>
      let t := if t.counted then t else t.tick (min at_ t.predicted)
      { t with accepted := some at_, counted := true, rej := 0 }
  else
    let s := ((s.modTb fun t => { t with rej := min 3 (t.rej + 1) }).bump (tbBase + 0x30) 0 32 1).setBits (tbBase + 0x14) 8
    if s.tb.rej < 3 then s
    else s.modTb fun t => { t with st := .relock, miss := 0, periods := [], lastEdge := some at_ }

/-! ### Selecting a source (R28, R37) -/

/-- Ratio of the internal source at a programmed rate (Table 2.4). -/
def internalRatio (rate : Word) : Word := BitVec.ofNat 32 (roundDiv rateNum rate.toNat)

/-- The source and rate part of SET_TIMEBASE when it takes effect (R28). -/
def State.selectSource (s : State) (src : Fin 4) (rate : Word) : State :=
  if src = 0 then
    if s.tb.src = 0 ∧ s.tb.intRate = rate then s
    else
      let s := s.leaveHoldover.modTb fun t =>
        { t.clearMeasure with src := 0, intRate := rate, st := .locked, miss := 0, rej := 0 }
      s.acceptRate rate (internalRatio rate)
  else if s.tb.src = src then s
  else s.leaveHoldover.modTb fun t =>
    { t.clearMeasure with src := src, st := .acquire, miss := 0, rej := 0, accepted := none, counted := false }

/-- The F part of SET_TIMEBASE: the first multiple of 768 strictly above the counter (R37). TB.CTRL.FRAME_SEL shows the
commanded code at once, not from that multiple on (DESIGN CHOICE, log entry 93). -/
def State.selectFrame (s : State) (sel : Fin 8) : State :=
  s.modTb fun t =>
    { t with frameSel := sel,
             fAt := if sel = t.frameEff then none
                    else some (BitVec.ofNat 48 ((t.count.toNat / 768 + 1) * 768)) }

/-! ### AUD_MCLK_IN (R285) -/

/-- AUD_MCLK_IN has missed more than 4 expected edges at an instant: five of its periods have passed since its last. -/
def Mclk.stale (m : Mclk) (now : Nat) : Bool :=
  m.accepted && (match m.lastEdge with
    | some e => decide (5 * (25000000 * 65536) ≤ (now - e) * m.rate)
    | none => true)

/-- At each instant that the counter is driven, a stopped AUD_MCLK_IN loses its acceptance, and its outputs mute. -/
def State.mclkCheck (s : State) (now : Nat) : State :=
  if s.mclk.stale now then ({ s with mclk := { s.mclk with accepted := false, miss := 5, periods := [] } }).rangeCheck else s

/-! ### Meanings -/

/-- An edge of source `src` at an instant; only the selected external source matters (R27, R30). -/
def execReferenceEdge (src : Fin 4) (t : Nat) (s : State) : Outcome :=
  .next (s.when (s.tb.running && src != 0 && src == s.tb.src) fun s =>
    (if s.tb.counting then s.countEdge t else s.measureEdge t).mclkCheck t)

/-- The predicted instant passes with no edge accepted before it (R30). -/
def execPredictedInstant (s : State) : Outcome :=
  .next (s.when (s.tb.counting && !s.tb.counted) fun s =>
    (s.modTb fun t => { t.tick t.predicted with counted := true }).mclkCheck s.tb.predicted)

/-- The window closes (R30, R31): an accepted edge re-anchors; a missing one counts, and the fifth in a
row enters HOLDOVER. -/
def execWindowClose (s : State) : Outcome :=
  .next (s.when s.tb.counting fun s =>
    let s := s.modTb fun t =>
      let t := if t.counted then t else t.tick t.predicted
      let t := match t.accepted with
        | some e => { t with anchor := e, miss := 0 }
        | none => { t with anchor := t.predicted, miss := min 15 (t.miss + 1) }
      let n := t.sinceMeasure + 1
      let t := { t with accepted := none, counted := false, sinceMeasure := n }
      if n = 256 then { t with measured := some (t.anchor - t.measureFrom), sinceMeasure := 0, measureFrom := t.anchor }
      else t
    if s.tb.miss < 5 then s else s.enterHoldover)

/-- 807 REFCLK cycles without an edge, in ACQUIRE or RELOCK (R30): a missing edge. The period under way goes on. -/
def execMissingSpan (s : State) : Outcome :=
  .next (s.when (s.tb.running && s.tb.src != 0 && (s.tb.st == .acquire || s.tb.st == .relock)) fun s =>
    let s := s.modTb fun t => { t with miss := min 15 (t.miss + 1) }
    if s.tb.miss < 5 then s else s.enterHoldover)

/-- One period of the internal source, or of the flywheel on REFCLK at the last measured ratio (R27, R28,
Table 2.2). -/
def execInternalPeriod (s : State) : Outcome :=
  .next (s.when (s.tb.running && !s.tb.counting) fun s =>
    (s.modTb fun t => t.tick (t.lastInc + t.ratio.toNat)).mclkCheck (s.tb.lastInc + s.tb.ratio.toNat))

/-- The re-measurement of a LOCKED external source over its last 256 periods (R33). -/
def execRemeasure (s : State) : Outcome :=
  .next (s.when s.tb.counting fun s => match s.tb.measured with
    | none => s
    | some sum =>
      let s := s.modTb fun t => { t with measured := none }
      match meanRate sum 256 with
      | none => s
      | some (rate, ratio) => s.acceptRate rate ratio)

/-- The pending F takes effect once the counter has reached its multiple of 768 (R37). -/
def Tb.takeF (t : Tb) : Tb :=
  match t.fAt with
  | none => t
  | some T => if (t.count - T).toNat < 2 ^ 47 then { t with frameEff := t.frameSel, fAt := none } else t

def execFChange (s : State) : Outcome := .next (s.modTb Tb.takeF)

end Sys2Proof.Machine
end

