-- ==== Sys2Proof/Machine/AudioIn.lean ====
section
/-! DEFINITION. The AES3 inputs (R295 to R298) and the measurement of AUD_MCLK_IN (R285). -/

namespace Sys2Proof.Machine

/-! ### Lock (R295) -/

/-- A frame with valid preambles and coding, and a rate from 31,000 to 198,000 Hz. -/
def goodFrame (f : InFrame) : Bool :=
  !f.codingBad && decide (31000 * 256 ≤ f.rate.toNat) && decide (f.rate.toNat ≤ 198000 * 256)

/-- Count a frame's errors, and gain or lose lock. An unlock abandons the partial block (R296). -/
def State.lockFrame (s : State) (i : Nat) (f : InFrame) : State :=
  let x := s.ain i
  let s := (s.bump (inReg i 0x18) 0 16 (b2n f.a.parityBad + b2n f.b.parityBad)).bump (inReg i 0x18) 16 16 (b2n f.codingBad)
  if x.locked then
    let bad := if f.codingBad then x.bad + 1 else 0
    if bad < 4 then s.setAin i { x with bad := bad, rate := f.rate }
    else (s.setAin i { x with locked := false, bad := 0, good := 0, rate := 0, inBlock := false, capBlock := false,
                              frame := 0, cbits := [] }).setBits (inReg i 0x1C) 2
  else
    let good := if goodFrame f then x.good + 1 else 0
    if good < 8 then s.setAin i { x with good := good }
    else (s.setAin i { x with locked := true, good := 0, bad := 0, rate := f.rate }).setBits (inReg i 0x1C) 1

/-! ### Non-audio (R297) -/

/-- The onset or end of non-audio: its event bit, and at the onset NON_AUDIO (Table 18.12). -/
def State.setNonAudio (s : State) (i : Nat) (on : Bool) : State :=
  let x := s.ain i
  if x.nonAudio = on then s
  else
    let s := (s.setAin i { x with nonAudio := on }).setBits (inReg i 0x1C) (if on then 4 else 8)
    if on then s.raiseEvent evNonAudio (if x.capture then x.part else none) stNonAudio i 0 else s

/-- The top 16 bits of a subframe's word. -/
def topBits (x : Subframe) : BitVec 16 := (x.word >>> 8).truncate 16

/-- Look for the preamble pair Pa, Pb in successive frames of one subframe. -/
def State.preamble (s : State) (i : Nat) (f : InFrame) : State :=
  let x := s.ain i
  let pair := (x.prevA == 0xF872 && topBits f.a == 0x4E1F) || (x.prevB == 0xF872 && topBits f.b == 0x4E1F)
  let s := s.setAin i { x with prevA := topBits f.a, prevB := topBits f.b,
                               sincePair := if pair then 0 else min 4096 (x.sincePair + 1) }
  if pair then s.setNonAudio i true else s

/-! ### Blocks and capture (R295, R296) -/

/-- A subframe's captured word: zero on a parity error or while non-audio; else 24 bits sign-extended. -/
def capturedWord (x : Subframe) (nonAudio : Bool) : Bytes :=
  if nonAudio || x.parityBad then leBytes 4 0 else leBytes 4 (x.word.signExtend 32).toNat

/-- Bytes of a list of bits, bit f mod 8 of byte f div 8. -/
def bitBytes (l : List Bool) (n : Nat) : Bytes :=
  (List.range n).map fun k => BitVec.ofNat 8 (maskOf ((List.range 8).filter fun b => l.getD (8 * k + b) false))

/-- A block ends (R295 to R297): channel status is latched; a captured block advances IN_WR by 192,
latches IN_TIME and adds 1 to the object; non-audio follows. -/
def State.blockEnd (s : State) (i : Nat) : State :=
  let x := s.ain i
  let cs := bitBytes x.cbits 24
  let b0 := (cs.headD 0).toNat
  let cap := x.capture && x.capBlock
  let x := { x with cs := cs, pro := bitOf b0 0, statusBit := bitOf b0 1, inBlock := false, capBlock := false,
                    frame := 0, cbits := [] }
  let s := s.setAin i (if cap then
      { x with wr := x.wr + 192, place := (x.place + 192) % x.ringFrames, time := x.blockTime } else x)
  let s := if cap then s.syncAdd x.sync 1 else s
  s.setNonAudio i (bitOf b0 1 || (x.nonAudio && decide (x.sincePair < 4096)))

/-- One decoded frame of a locked input. -/
def State.decodeFrame (s : State) (i : Nat) (f : InFrame) : State :=
  let s := if f.blockStart then s.modAin i fun x =>
      { x with inBlock := true, capBlock := x.capture, frame := 0, blockTime := s.tb.count, cbits := [] }
    else s
  let s := s.preamble i f
  let x := s.ain i
  if !x.inBlock then s
  else
    let s := if x.capture && x.capBlock then
        (s.writePart (s.part (x.part.getD 0)) .normal (x.ring + (x.place + x.frame) % x.ringFrames * 8)
          (capturedWord f.a x.nonAudio ++ capturedWord f.b x.nonAudio)).1
      else s
    let s := s.setAin i { x with frame := x.frame + 1, cbits := x.cbits ++ [f.a.cBit] }
    if x.frame + 1 = 192 then s.blockEnd i else s

def execAes3InputFrame (inp : Fin 2) (f : InFrame) (s : State) : Outcome :=
  .next (s.when s.tb.running fun s =>
    let s := s.lockFrame inp.val f
    if (s.ain inp.val).locked then s.decodeFrame inp.val f else s)

/-! ### AUD_MCLK_IN (R285) -/

/-- Expected edges that a gap has missed, at the accepted rate in Hz. -/
def Mclk.missed (m : Mclk) (gap : Nat) : Nat := roundDiv (gap * m.rate) (25000000 * 65536) - 1

/-- One edge of AUD_MCLK_IN, measured against REFCLK: accepted after 256 consecutive periods within 0.1 % of
their mean (R29); more than 4 missed edges end the acceptance. -/
def Mclk.edge (m : Mclk) (t : Nat) : Mclk :=
  match m.lastEdge with
  | none => { m with lastEdge := some t }
  | some e =>
    let gap := t - e
    let miss := if m.accepted then m.missed gap else 0
    let m := { m with lastEdge := some t, miss := miss, periods := if miss = 0 then (gap :: m.periods).take 256 else [] }
    if 4 < miss then { m with accepted := false }
    else match acquired m.periods with
      | none => m
      | some sum => { m with accepted := true, periods := [], rate := roundDiv rateNum sum }

def execAudMclkInEdge (t : Nat) (s : State) : Outcome :=
  .next ({ s with mclk := s.mclk.edge t }).rangeCheck

end Sys2Proof.Machine
end

