-- ==== Sys2Proof/Machine/Shake.lean ====
section
/-! DEFINITION. SHAKE256 (R396): "FIPS 202 SHAKE256 with 64 bytes of output". The permutation is FIPS 202's,
which the spec names and does not repeat (log entry 35). -/

namespace Sys2Proof.Machine

/-- Lane (x, y) of a state of 25 lanes. -/
def lane (a : List W64) (x y : Nat) : W64 := a.getD (x % 5 + 5 * (y % 5)) 0

/-- A state given lane by lane. -/
def lanes (f : Nat → Nat → W64) : List W64 := (List.range 25).map fun i => f (i % 5) (i / 5)

/-- theta. -/
def keccakTheta (a : List W64) : List W64 :=
  let c := (List.range 5).map fun x => lane a x 0 ^^^ lane a x 1 ^^^ lane a x 2 ^^^ lane a x 3 ^^^ lane a x 4
  let d := (List.range 5).map fun x => c.getD ((x + 4) % 5) 0 ^^^ (c.getD ((x + 1) % 5) 0).rotateLeft 1
  lanes fun x y => lane a x y ^^^ d.getD x 0

/-- Rotation offsets of rho, lane by lane. -/
def rhoOffsets : List Nat :=
  [0, 1, 62, 28, 27, 36, 44, 6, 55, 20, 3, 10, 43, 25, 39, 41, 45, 15, 21, 8, 18, 2, 61, 56, 14]

/-- rho, then pi. -/
def keccakRhoPi (a : List W64) : List W64 :=
  lanes fun x y => (lane a (x + 3 * y) x).rotateLeft (rhoOffsets.getD ((x + 3 * y) % 5 + 5 * (x % 5)) 0)

/-- chi. -/
def keccakChi (a : List W64) : List W64 :=
  lanes fun x y => lane a x y ^^^ (~~~(lane a (x + 1) y) &&& lane a (x + 2) y)

/-- Round constants of iota. -/
def roundConstants : List W64 :=
  [0x0000000000000001, 0x0000000000008082, 0x800000000000808A, 0x8000000080008000, 0x000000000000808B,
   0x0000000080000001, 0x8000000080008081, 0x8000000000008009, 0x000000000000008A, 0x0000000000000088,
   0x0000000080008009, 0x000000008000000A] ++
  [0x000000008000808B, 0x800000000000008B, 0x8000000000008089, 0x8000000000008003, 0x8000000000008002,
   0x8000000000000080, 0x000000000000800A, 0x800000008000000A, 0x8000000080008081, 0x8000000000008080,
   0x0000000080000001, 0x8000000080008008]

/-- Keccak-f[1600]. -/
def keccakF (a : List W64) : List W64 :=
  roundConstants.foldl (fun a rc => match keccakChi (keccakRhoPi (keccakTheta a)) with
    | x :: xs => (x ^^^ rc) :: xs
    | [] => []) a

/-- Lanes of a byte string. -/
def keccakLanes : Nat → Bytes → List W64
  | 0, _ => []
  | n + 1, b => BitVec.ofNat 64 (leNat (b.take 8)) :: keccakLanes n (b.drop 8)

/-- Absorb one block of 136 bytes. -/
def absorb (a : List W64) (b : Bytes) : List W64 :=
  keccakF (List.zipWith (· ^^^ ·) a (keccakLanes 17 b ++ List.replicate 8 0))

/-- Absorb `n` blocks. -/
def absorbAll : Nat → List W64 → Bytes → List W64
  | 0, a, _ => a
  | n + 1, a, b => absorbAll n (absorb a (b.take 136)) (b.drop 136)

/-- The message padded to whole blocks: 0x1F, zeros, and bit 7 of the last byte. -/
def shakePad (m : Bytes) : Bytes :=
  let z := 135 - m.length % 136
  if z = 0 then m ++ [0x9F] else m ++ [0x1F] ++ List.replicate (z - 1) 0 ++ [0x80]

/-- SHAKE256 with n ≤ 136 bytes of output. -/
def shake256 (n : Nat) (m : Bytes) : Bytes :=
  let p := shakePad m
  ((absorbAll (p.length / 136) (List.replicate 25 0) p).flatMap fun w => leBytes 8 w.toNat).take n

/-- The 64-byte digest (R396). -/
def digest (m : Bytes) : Bytes := shake256 64 m

end Sys2Proof.Machine
end

