-- ==== Sys2Proof/Machine/Slh.lean ====
section
/-! DEFINITION. SLH-DSA over SHAKE256 (R396, R398): verification with the parameter sets of Table 20.1 and the device's
deterministic signature. The algorithm is that of FIPS 205, which the spec names and does not repeat (log entry 13);
functions carry the names it gives them. -/

namespace Sys2Proof.Machine

/-- A parameter set: n, d layers of trees of height hp, k FORS trees of height a, m bytes of message digest. -/
structure SlhSet where
  n : Nat
  d : Nat
  hp : Nat
  a : Nat
  k : Nat
  m : Nat
deriving DecidableEq, Repr, Inhabited

/-- The sets of Table 20.1. -/
def slhSet (param : Nat) : SlhSet :=
  match param with
  | 0 => { n := 16, d := 7, hp := 9, a := 12, k := 14, m := 30 }
  | 1 => { n := 24, d := 7, hp := 9, a := 14, k := 17, m := 39 }
  | 2 => { n := 32, d := 8, hp := 8, a := 14, k := 22, m := 47 }
  | _ => { n := 24, d := 22, hp := 3, a := 8, k := 33, m := 42 }

/-- Chains of a WOTS+ key. -/
def SlhSet.chains (x : SlhSet) : Nat := 2 * x.n + 3

/-- Bytes of a signature. -/
def SlhSet.sigBytes (x : SlhSet) : Nat := (1 + x.k * (1 + x.a) + x.d * (x.hp + x.chains)) * x.n

/-- An address: layer, tree, type, and the three words whose meaning the type gives. -/
structure Adrs where
  layer : Nat := 0
  tree : Nat := 0
  kind : Nat := 0
  pair : Nat := 0
  height : Nat := 0
  index : Nat := 0
deriving DecidableEq, Repr, Inhabited

def Adrs.toBytes (x : Adrs) : Bytes :=
  beBytes 4 x.layer ++ beBytes 12 x.tree ++ beBytes 4 x.kind ++ beBytes 4 x.pair ++ beBytes 4 x.height ++ beBytes 4 x.index

/-- The address with another type: key pair and the last two words as given. -/
def Adrs.as (x : Adrs) (kind pair height index : Nat) : Adrs :=
  { x with kind := kind, pair := pair, height := height, index := index }

/-- What one key works with: its set, PK.seed, and SK.seed, empty for verification. -/
structure SlhKey where
  set : SlhSet
  pkSeed : Bytes
  skSeed : Bytes := []
deriving DecidableEq, Repr, Inhabited

/-- F, H and T_l. -/
def SlhKey.hash (x : SlhKey) (a : Adrs) (m : Bytes) : Bytes := shake256 x.set.n (x.pkSeed ++ a.toBytes ++ m)
/-- PRF. -/
def SlhKey.prf (x : SlhKey) (a : Adrs) : Bytes := x.hash a x.skSeed

/-- The i-th group of w bits of a string, most significant first (base_2b). -/
def digitOf (w : Nat) (b : Bytes) (i : Nat) : Nat := beNat b / 2 ^ (8 * b.length - w * (i + 1)) % 2 ^ w

/-- The i-th string of n bytes. -/
def nth (n : Nat) (b : Bytes) (i : Nat) : Bytes := slice b (n * i) n

/-! ### WOTS+ -/

/-- s steps of the chain from position i. -/
def SlhKey.chain (x : SlhKey) (a : Adrs) (i : Nat) : Nat → Bytes → Bytes
  | 0, m => m
  | s + 1, m => SlhKey.chain x a (i + 1) s (x.hash { a with index := i } m)

/-- The digits of a message and of its checksum. -/
def SlhKey.digits (x : SlhKey) (m : Bytes) : List Nat :=
  let l := (List.range (2 * x.set.n)).map (digitOf 4 m)
  let c := beBytes 2 ((l.map (15 - ·)).sum * 16)
  l ++ (List.range 3).map (digitOf 4 c)

/-- The secret start of chain i of key pair `pair`. -/
def SlhKey.wotsSecret (x : SlhKey) (a : Adrs) (pair i : Nat) : Bytes := x.prf (a.as 5 pair i 0)

/-- A WOTS+ public key from the ends of its chains. -/
def SlhKey.wotsPk (x : SlhKey) (a : Adrs) (pair : Nat) (ends : List Bytes) : Bytes :=
  x.hash (a.as 1 pair 0 0) ends.flatten

def SlhKey.wotsPkGen (x : SlhKey) (a : Adrs) (pair : Nat) : Bytes :=
  x.wotsPk a pair ((List.range x.set.chains).map fun i => x.chain (a.as 0 pair i 0) 0 15 (x.wotsSecret a pair i))

def SlhKey.wotsSign (x : SlhKey) (a : Adrs) (pair : Nat) (m : Bytes) : Bytes :=
  (x.digits m).zipIdx.flatMap fun d => x.chain (a.as 0 pair d.2 0) 0 d.1 (x.wotsSecret a pair d.2)

def SlhKey.wotsPkFromSig (x : SlhKey) (a : Adrs) (pair : Nat) (sig m : Bytes) : Bytes :=
  x.wotsPk a pair ((x.digits m).zipIdx.map fun d => x.chain (a.as 0 pair d.2 0) d.1 (15 - d.1) (nth x.set.n sig d.2))

/-! ### Trees -/

/-- The root over a leaf's authentication path; `node` hashes a pair at (height, index). -/
def climb (node : Nat → Nat → Bytes → Bytes) (idx : Nat) : List Bytes → Nat → Bytes → Bytes
  | [], _, m => m
  | p :: l, z, m =>
    climb node (idx / 2) l (z + 1) (node (z + 1) (idx / 2) (if idx % 2 = 0 then m ++ p else p ++ m))

/-- The node at height z and index i of an XMSS tree. -/
def SlhKey.xmssNode (x : SlhKey) (a : Adrs) : Nat → Nat → Bytes
  | 0, i => x.wotsPkGen a i
  | z + 1, i => x.hash (a.as 2 0 (z + 1) i) (SlhKey.xmssNode x a z (2 * i) ++ SlhKey.xmssNode x a z (2 * i + 1))

/-- The sibling of index i. -/
def sibling (i : Nat) : Nat := if i % 2 = 0 then i + 1 else i - 1

/-- Bytes of one XMSS signature: a WOTS+ signature and an authentication path. -/
def SlhSet.xmssBytes (x : SlhSet) : Nat := (x.chains + x.hp) * x.n

def SlhKey.xmssSign (x : SlhKey) (a : Adrs) (idx : Nat) (m : Bytes) : Bytes :=
  x.wotsSign a idx m ++ (List.range x.set.hp).flatMap fun j => x.xmssNode a j (sibling (idx / 2 ^ j))

def SlhKey.xmssPkFromSig (x : SlhKey) (a : Adrs) (idx : Nat) (sig m : Bytes) : Bytes :=
  let path := (List.range x.set.hp).map fun j => nth x.set.n sig (x.set.chains + j)
  climb (fun z i b => x.hash (a.as 2 0 z i) b) idx path 0 (x.wotsPkFromSig a idx sig m)

/-- The hypertree's signature of m by the remaining layers, from layer `l` on. -/
def SlhKey.htSign (x : SlhKey) : Nat → Nat → Nat → Nat → Bytes → Bytes
  | 0, _, _, _, _ => []
  | f + 1, l, tree, leaf, m =>
    let a : Adrs := { layer := l, tree := tree }
    let sig := x.xmssSign a leaf m
    sig ++ SlhKey.htSign x f (l + 1) (tree / 2 ^ x.set.hp) (tree % 2 ^ x.set.hp) (x.xmssPkFromSig a leaf sig m)

/-- The hypertree's root from a signature. -/
def SlhKey.htRoot (x : SlhKey) : Nat → Nat → Nat → Nat → Bytes → Bytes → Bytes
  | 0, _, _, _, _, m => m
  | f + 1, l, tree, leaf, sig, m =>
    SlhKey.htRoot x f (l + 1) (tree / 2 ^ x.set.hp) (tree % 2 ^ x.set.hp) (sig.drop x.set.xmssBytes)
      (x.xmssPkFromSig { layer := l, tree := tree } leaf sig m)

/-! ### FORS -/

def SlhKey.forsSecret (x : SlhKey) (a : Adrs) (i : Nat) : Bytes := x.prf (a.as 6 a.pair 0 i)

/-- A node of a FORS tree at (height, index). -/
def SlhKey.forsHash (x : SlhKey) (a : Adrs) (z i : Nat) (m : Bytes) : Bytes := x.hash (a.as 3 a.pair z i) m

def SlhKey.forsNode (x : SlhKey) (a : Adrs) : Nat → Nat → Bytes
  | 0, i => x.forsHash a 0 i (x.forsSecret a i)
  | z + 1, i => x.forsHash a (z + 1) i (SlhKey.forsNode x a z (2 * i) ++ SlhKey.forsNode x a z (2 * i + 1))

/-- The leaf that tree t of the message digest selects, counted over all trees. -/
def SlhKey.forsLeaf (x : SlhKey) (md : Bytes) (t : Nat) : Nat := t * 2 ^ x.set.a + digitOf x.set.a md t

def SlhKey.forsSign (x : SlhKey) (a : Adrs) (md : Bytes) : Bytes :=
  (List.range x.set.k).flatMap fun t =>
    let i := x.forsLeaf md t
    x.forsSecret a i ++ (List.range x.set.a).flatMap fun j => x.forsNode a j (sibling (i / 2 ^ j))

def SlhKey.forsPkFromSig (x : SlhKey) (a : Adrs) (sig md : Bytes) : Bytes :=
  x.hash (a.as 4 a.pair 0 0) ((List.range x.set.k).flatMap fun t =>
    let i := x.forsLeaf md t
    let at_ (j : Nat) : Bytes := nth x.set.n sig (t * (x.set.a + 1) + j)
    climb (x.forsHash a) i ((List.range x.set.a).map fun j => at_ (j + 1)) 0 (x.forsHash a 0 i (at_ 0)))

/-! ### Signing and verifying (pure form, empty context) -/

/-- The message with the prefix of the pure form and of an empty context. -/
def slhPure (m : Bytes) : Bytes := 0 :: 0 :: m

/-- The FORS digest, tree and leaf that a message digest selects. -/
def SlhSet.select (x : SlhSet) (d : Bytes) : Bytes × Nat × Nat :=
  let n1 := ceilDiv (x.k * x.a) 8
  let n2 := ceilDiv (x.hp * (x.d - 1)) 8
  let n3 := ceilDiv x.hp 8
  (slice d 0 n1, beNat (slice d n1 n2) % 2 ^ (x.hp * (x.d - 1)), beNat (slice d (n1 + n2) n3) % 2 ^ x.hp)

/-- Verification with a public key (PK.seed, PK.root). -/
def slhVerify (param : Nat) (key msg sig : Bytes) : Bool :=
  let x := slhSet param
  let k : SlhKey := { set := x, pkSeed := slice key 0 x.n }
  let root := slice key x.n x.n
  let r := slice sig 0 x.n
  let s := x.select (shake256 x.m (r ++ k.pkSeed ++ root ++ slhPure msg))
  let a : Adrs := { tree := s.2.1, kind := 3, pair := s.2.2 }
  let pk := k.forsPkFromSig a (sig.drop x.n) s.1
  sig.length == x.sigBytes && k.htRoot x.d 0 s.2.1 s.2.2 (sig.drop (x.n * (1 + x.k * (1 + x.a)))) pk == root

/-- The device's deterministic signature with opt_rand = PK.seed, from its 64-byte identity seed and PK.root (R396,
R398). -/
def slhSign (seed root msg : Bytes) : Bytes :=
  let x := slhSet 3
  let sk := shake256 72 seed
  let k : SlhKey := { set := x, pkSeed := slice sk 48 24, skSeed := slice sk 0 24 }
  let m := slhPure msg
  let r := shake256 x.n (slice sk 24 24 ++ k.pkSeed ++ m)
  let s := x.select (shake256 x.m (r ++ k.pkSeed ++ root ++ m))
  let a : Adrs := { tree := s.2.1, kind := 3, pair := s.2.2 }
  let fors := k.forsSign a s.1
  r ++ fors ++ k.htSign x.d 0 s.2.1 s.2.2 (k.forsPkFromSig a fors s.1)

end Sys2Proof.Machine
end

