-- ==== Sys2Proof/Machine/Closing.lean ====
section
/-! DEFINITION. How a stream leaves its ring, its output and its entry (R192, R203, R204, R289, R290,
R313, R442), and the registers of the LDG and AUD blocks that count what is discarded. -/

namespace Sys2Proof.Machine

/-- LDG block (Table 9.7). -/
def ldgBase : Nat := 0x090000

/-- Every sample in the ring is discarded: OR_RD is set to OR_WR, and DISCARDS counts them (R203, R290). -/
def Entry.dropRing (e : Entry) : Entry := { (e.discard e.fill) with orRd := e.orWr }

/-- The queued chunks are discarded and counted in DISCARDS and LDG.DISCARDED (R203, R204, R205);
`owed` returns a stream credit for each (R311). -/
def State.dropChunks (s : State) (i : Nat) (owed : Bool) : State :=
  let e := s.entry i
  let n := e.iqCount
  let s := s.setEntry i { (e.discard n) with
    iqRd := e.iqWr, iqCount := 0, marks := [], credits := if owed then e.credits + n else e.credits }
  s.bump (ldgBase + 0x10) 0 32 n

/-- A queued change concerns group g. -/
def Change.ofGroup (g : Nat) (c : Change) : Bool :=
  match c with
  | .bind _ t => match bindTo t with
    | .slot h _ => h == g
    | _ => false
  | .mask h _ _ => h == g
  | .unbind _ => false

/-- A group with no bound slot and a zero mask, none of either queued, is free (R313). -/
def State.freeGroup (s : State) (g : Nat) : State :=
  let x := s.group g
  if x.mask = 0 ∧ x.slots.isEmpty ∧ x.succs.isEmpty ∧ s.changes.all (fun c => !c.ofGroup g) then s.setGroup g {} else s

/-- What output t then shows of its ratio (R35, R298). -/
def State.boundCheck (s : State) (t : BitVec 16) : State :=
  match bindTo t with
  | .aes c => s.outCheck (c / 2)
  | .slot g _ => s.groupCheck g
  | _ => s

/-- Stream i leaves its output at once; a successor takes its place (R204, R289). -/
def State.leaveOutput (s : State) (i : Nat) : State :=
  let other (c : Change) : Bool := match c with
    | .bind k _ => k != i
    | .unbind k => k != i
    | .mask _ _ _ => true
  let groups := s.changes.filterMap fun c => match c with
    | .bind k t => if k = i then (match bindTo t with | .slot g _ => some g | _ => none) else none
    | _ => none
  let s := { s with changes := s.changes.filter other, due := s.due.filter other }.each groups State.freeGroup
  let s := match bindTo (s.entry i).bind with
    | .aes c =>
      let x := s.achan c
      if x.stream = some i then
        s.setAchan c { stream := x.successor, conv := if x.successor.isSome then x.conv else {} }
      else if x.successor = some i then s.setAchan c { x with successor := none }
      else s
    | .slot g k =>
      let s := s.modGroup g fun x =>
        let succ := Tbl.get none x.succs k
        if Tbl.get none x.slots k = some i then
          { x with slots := Tbl.set none x.slots k succ, succs := Tbl.set none x.succs k none,
                   convs := if succ.isSome then x.convs else Tbl.set {} x.convs k {} }
        else if succ = some i then { x with succs := Tbl.set none x.succs k none }
        else x
      s.freeGroup g
    | _ => s
  let t := (s.entry i).bind
  (s.modEntry i fun e => { e with bind := 0xFFFF }).boundCheck t

/-- A PROVENANCE of stream i that waits for its lane. -/
def Cmd.provesOf (i : Nat) (c : Cmd) : Bool := match c.wait with
  | .lane 0x74 b => fieldAt b 4 2 == i
  | _ => false

/-- The entry becomes CLOSED, HELD while a Docket carries it, its history written back and its output
left; every pending DRAIN close of it completes with `st`, and a waiting PROVENANCE no longer applies (R84, R192,
R203, R355, R410, R442). -/
def State.closeEntry (s : State) (i : Nat) (st : BitVec 16) : State :=
  let s := (((s.flushSlot i).dropPend i).leaveOutput i)
  let held := s.carried i
  let s := s.modEntry i fun e =>
    { e with status := .closed, held := held, urgent := false, moving := false, parking := false,
             part := if held then e.part else none }
  (s.finishWhere (fun c => c.wait == .closeDrain i) st).finishWhere (Cmd.provesOf i) stWrongState

/-- A DRAINING stream has nothing more to commit: its in-flight steps finished (R203), or it is past the position limit,
where an empty or unbound ring closes it at once (R204). -/
def State.settled (s : State) (i : Nat) : Bool := !s.unfinished i || (s.entry i).seqend

/-- A DRAINING stream that no drain can serve (R203, R204). -/
def State.undrainable (s : State) (i : Nat) : Bool :=
  let e := s.entry i
  e.status == .draining && e.bind == 0xFFFF && s.settled i

/-- Discard the ring of a stream that has no drain, and close it (R203, R204). -/
def State.closeUndrained (s : State) (i : Nat) : State :=
  (s.modEntry i Entry.dropRing).closeEntry i stDrained

/-- A stream becomes DRAINING; a waiting PARK_STREAM completes with WRONG_STATE (R200, R203, R204). -/
def State.startDraining (s : State) (i : Nat) : State :=
  (s.modEntry i fun e => { e with status := .draining, urgent := false }).endPark i stWrongState

/-- The position limit is reached (R204): POS 0, SEQEND, DRAINING, the queued chunks discarded, the
event; without a drain the ring is discarded and the entry closes at once. -/
def State.sequenceEnd (s : State) (i : Nat) : State :=
  let s := s.modEntry i fun e => { e with pos := 0, seqend := true }
  let s := ((s.startDraining i).dropChunks i false).bump (ldgBase + 0x14) 0 16 1
  let e := s.entry i
  let s := s.raiseEvent evSequenceEnd e.part stSequenceEnd i 0 (if e.ownerSelf then none else some e.owner)
  if (s.entry i).bind = 0xFFFF then s.closeUndrained i else s

/-- n bytes the spec leaves open: free values (log entry 3). -/
def State.freeBytes : Nat → State → Bytes × State
  | 0, s => ([], s)
  | n + 1, s =>
    let r := State.freeBytes n s.draw.2
    (BitVec.truncate 8 s.draw.1 :: r.1, r.2)

end Sys2Proof.Machine
end

