-- ==== Sys2Proof/Machine/Operands.lean ====
section
/-! DEFINITION. The Jatrum word: its fields, what each opcode names, and the checks that the core makes
at dispatch (R135 to R139, R163, Tables 7.1 to 7.11, 8.2 to 8.8). -/

namespace Sys2Proof.Machine

/-! ### Common fields (Table 7.1) -/

def wOp (w : Nat) : Nat := fld w 56 8
def wGE (w : Nat) : Bool := bitOf w 55
def wGN (w : Nat) : Bool := bitOf w 54
def wGP (w : Nat) : Nat := fld w 51 3
def wWE (w : Nat) : Bool := bitOf w 50
def wWK (w : Nat) : Nat := fld w 46 4
def wWS (w : Nat) : Nat := fld w 41 5
def wPE (w : Nat) : Bool := bitOf w 40
def wPK (w : Nat) : Nat := fld w 36 4

/-- The ticket an engine word posts. -/
def wPost (w : Nat) : Option Nat := if wPE w then some (wPK w) else none

/-- OP[7:4] (Table 7.3). -/
def wClass (op : Nat) : Nat := op / 16

/-- Where a class runs: queue 0 matrix, 1 vector, 2 scan, 3 movement; none is the front end
(Tables 7.3 and 8.1). -/
def queueOf (op : Nat) : Option Nat :=
  match wClass op with
  | 0x3 => some 1
  | 0x4 => some 3
  | 0x5 => some 3
  | 0x6 => some 0
  | 0x7 => some 1
  | 0x8 => some 1
  | 0x9 => some 2
  | 0xA => some 1
  | 0xB => some 1
  | 0xC => some 3
  | _ => none

/-- ENGINE of CLU.CORE_FAULT for a queue (R87). -/
def engineOf (q : Nat) : Nat := q + 1

/-- Assigned opcodes (Table 7.5 and the tables of chapters 7 and 8). -/
def opAssigned (op : Nat) : Bool :=
  op ≤ 0x05 || (0x10 ≤ op && op ≤ 0x2A) || op == 0x30 || op == 0x31 || (0x40 ≤ op && op ≤ 0x43) ||
  (0x50 ≤ op && op ≤ 0x5D) || (0x60 ≤ op && op ≤ 0x63) || (0x70 ≤ op && op ≤ 0x85) ||
  (0x90 ≤ op && op ≤ 0x92) || (0xA0 ≤ op && op ≤ 0xA7) || (0xB0 ≤ op && op ≤ 0xB3) ||
  (0xC0 ≤ op && op ≤ 0xC3) || op == 0xD0 || op == 0xD1

/-! ### Vector formats (R163, R165, R168) -/

/-- Bits of a class 0x7 element format EF, 0 when it is not one (Table 8.2). -/
def efBits (ef : Nat) : Nat :=
  match ef with
  | 0 => 32
  | 1 => 16
  | 2 => 16
  | 3 => 32
  | 4 => 8
  | 5 => 8
  | _ => 0

/-- The format code of Table 3.1 of an EF. -/
def efCode (ef : Nat) : Nat :=
  match ef with
  | 0 => 0xD
  | 1 => 0xB
  | 2 => 0xC
  | 3 => 0xE
  | 4 => 0x1
  | _ => 0x2

/-- EF is floating. -/
def efFloat (ef : Nat) : Bool := ef ≤ 2

/-- Register bits of a v.cvt format with its AUD sub-field (R168, R170); 0 when not permitted. -/
def cvtBits (f aud : Nat) : Nat :=
  match f with
  | 0xD => 32
  | 0xE => 32
  | 0xB => 16
  | 0xC => 16
  | 0x1 => 8
  | 0x2 => 8
  | 0x3 => 8
  | 0x4 => 8
  | 0xF => match aud with
    | 0 => 16
    | 1 => 32
    | _ => 8
  | _ => 0

/-- Elements of one conversion repetition (R163). -/
def cvtLanes (a b : Nat) : Nat :=
  if a ≤ 8 ∨ b ≤ 8 then 256 else if a = 16 ∨ b = 16 then 128 else 64

/-- Registers of a group of n elements of b bits (R163). -/
def groupRegs (n b : Nat) : Nat := ceilDiv (n * b) 2048

/-- A group register is well placed for nr + 1 repetitions: a multiple of g, and not past v31. -/
def groupOk (r g nr : Nat) : Bool := g != 0 && r % g == 0 && decide (r + g * (nr + 1) ≤ 32)

/-- p of R169: parts of a register that one v.act repetition fills. -/
def actParts (df : Nat) : Nat := 32 / elemBits df

/-- DF permitted for v.act (R169). -/
def actFmt (df : Nat) : Bool := df == 0xD || df == 0xB || df == 0xC || (1 ≤ df && df ≤ 4)

/-- The output formats OF (R177): FP32, BF16, FP16, INT32. -/
def outFmt (f : Nat) : Bool := 0xB ≤ f && f ≤ 0xE

/-! ### The check at dispatch (R139): cause 0x0A -/

/-- Zero fields of an alu or pcmp word under its IM bit. -/
def immOk (im : Bool) (s2 imm : Nat) : Bool := if im then s2 == 0 else imm == 0

/-- Reserved fields are zero, and no register, selector or mode is named that the instruction does not
permit (R139), for an assigned opcode. -/
def operandsOk (op w : Nat) : Bool :=
  match op with
  | 0x00 => fld w 0 51 == 0
  | 0x01 => fld w 0 51 == 0
  | 0x02 => fld w 24 27 == 0
  | 0x03 => fld w 16 11 == 0 && fld w 27 12 != 0
  | 0x04 => fld w 0 42 == 0
  | 0x05 => fld w 0 40 == 0 && decide (fld w 40 6 ≤ 8)
  | 0x1B => fld w 32 14 == 0
  | 0x1C => fld w 40 7 == 0
  | 0x1D => fld w 32 11 == 0
  | 0x1E => fld w 0 33 == 0
  | 0x1F => fld w 0 42 == 0
  | 0x2A => fld w 0 47 == 0
  | 0x30 => fld w 20 7 == 0
  | 0x31 => fld w 20 7 == 0
  | 0x40 => fld w 0 15 == 0
  | 0x41 => fld w 0 15 == 0
  | 0x42 => fld w 0 14 == 0 && (bitOf w 14 || wPE w)
  | 0x43 => fld w 0 15 == 0
  | 0x50 => fld w 0 14 == 0
  | 0x51 => fld w 0 14 == 0
  | 0x52 => fld w 0 25 == 0
  | 0x53 => fld w 0 34 == 0
  | 0x54 => fld w 0 24 == 0
  | 0x55 => fld w 0 24 == 0
  | 0x56 => fld w 0 33 == 0
  | 0x60 =>
    let fa := fld w 11 4
    let fb := fld w 7 4
    fld w 0 2 == 0 && isMatrixFmt fa && isMatrixFmt fb &&
      (!isMx fa || fld w 29 4 % 2 == 0) && (!isMx fb || fld w 25 4 % 2 == 0)
  | 0x61 => fld w 0 16 == 0
  | 0x62 => fld w 0 13 == 0
  | 0x63 => fld w 0 34 == 0
  | 0x7F =>
    let nr := fld w 6 4
    bitOf w 10 && groupOk (fld w 31 5) 1 nr && groupOk (fld w 26 5) 4 nr
  | 0x80 => decide (fld w 31 5 + fld w 23 4 ≤ 31)
  | 0x81 => decide (fld w 31 5 + fld w 23 4 ≤ 31)
  | 0x82 =>
    let nr := fld w 9 4
    let df := fld w 18 4
    fld w 0 9 == 0 && decide (fld w 26 5 + nr ≤ 31) &&
      (!actFmt df || (fld w 31 5 % ceilDiv (nr + 1) (actParts df) == 0 &&
        decide (fld w 31 5 + nr / actParts df ≤ 31)))
  | 0x83 =>
    let nr := fld w 7 4
    let aud := fld w 11 2
    let sb := cvtBits (fld w 22 4) aud
    let db := cvtBits (fld w 18 4) aud
    let n := cvtLanes sb db
    fld w 0 7 == 0 &&
      (sb == 0 || db == 0 || (groupOk (fld w 26 5) (groupRegs n sb) nr && groupOk (fld w 31 5) (groupRegs n db) nr))
  | 0x84 =>
    let nr := fld w 4 4
    let sf := fld w 23 4
    let df := fld w 19 4
    fld w 0 4 == 0 && (isMx df || !bitOf w 13) && (!isMx df || fld w 27 4 % 2 == 0) &&
      groupOk (fld w 31 5) (groupRegs 256 (elemBits sf)) nr
  | 0x85 =>
    let nr := fld w 15 4
    let sf := fld w 23 4
    let df := fld w 19 4
    fld w 0 15 == 0 && (!isMx sf || fld w 27 4 != 15) && groupOk (fld w 31 5) (groupRegs 256 (elemBits df)) nr
  | 0xA0 => fld w 0 9 == 0
  | 0xA1 => fld w 0 9 == 0
  | 0xA2 =>
    fld w 0 4 == 0 && outFmt (fld w 6 4)
  | 0xA3 => fld w 0 8 == 0 && outFmt (fld w 10 4)
  | 0xA4 => fld w 0 8 == 0 && outFmt (fld w 10 4)
  | 0xA5 => fld w 0 18 == 0 && outFmt (fld w 20 4)
  | 0xA6 => fld w 0 18 == 0
  | 0xA7 => fld w 0 12 == 0
  | 0xB0 => fld w 0 27 == 0 && decide (fld w 31 5 + fld w 27 4 ≤ 31)
  | 0xB1 => fld w 0 31 == 0 && fld w 31 5 % 4 == 0
  | 0xB2 => fld w 0 8 == 0 && decide (fld w 15 3 ≤ 2)
  | 0xB3 => fld w 0 14 == 0 && decide (fld w 17 3 ≤ 2)
  | 0xC0 => fld w 0 12 == 0
  | 0xC1 => fld w 0 12 == 0
  | 0xC2 => fld w 0 27 == 0
  | 0xC3 => fld w 0 22 == 0
  | 0xD0 => fld w 0 2 == 0 && !wPE w
  | 0xD1 => fld w 0 36 == 0 && !wWE w
  | _ =>
    match wClass op with
    | 0x1 => fld w 32 3 == 0 && immOk (bitOf w 35) (fld w 36 5) (fld w 0 32)
    | 0x2 =>
      if op ≤ 0x25 then fld w 32 5 == 0 && immOk (bitOf w 37) (fld w 38 5) (fld w 0 32)
      else fld w 0 42 == 0
    | 0x5 => fld w 0 13 == 0
    | 0x7 =>
      let nr := fld w 6 4
      let two := op == 0x73 || op == 0x78 || op == 0x7D
      fld w 0 6 == 0 && groupOk (fld w 31 5) 1 nr && groupOk (fld w 26 5) 1 nr &&
        (bitOf w 10 || op == 0x7E || groupOk (fld w 21 5) 1 nr) && (!two || groupOk (fld w 16 5) 1 nr)
    | 0x9 => fld w 0 12 == 0 && fld w 32 4 % 4 == 0
    | _ => true

/-- R135: GN and GP are 0 without a guard, and the ticket fields are 0 without their enables. -/
def commonOk (op w : Nat) : Bool :=
  (wGE w || (!wGN w && wGP w == 0)) &&
    (wClass op ≤ 2 ||
      ((wWE w || (wWK w == 0 && wWS w == 0)) && (wPE w || wPK w == 0)))

/-- The word passes every check of R139. -/
def wordOk (w : Nat) : Bool :=
  let op := wOp w
  opAssigned op && commonOk op w && operandsOk op w

/-! ### Named registers (R68, R134) -/

/-- Scalar registers that the operands of a word name. -/
def sNames (w : Nat) : List Nat :=
  let op := wOp w
  let ws := if 3 ≤ wClass op && wWE w then [wWS w] else []
  let own := match op with
    | 0x03 => (if bitOf w 50 then [] else [fld w 45 5]) ++ (if bitOf w 39 then [fld w 40 5] else [])
    | 0x04 => [fld w 42 5]
    | 0x05 => [fld w 46 5]
    | 0x1B => [fld w 46 5]
    | 0x1C => []
    | 0x1D => []
    | 0x1E => [fld w 38 5]
    | 0x1F => [fld w 46 5]
    | 0x30 => [fld w 31 5]
    | 0x31 => [fld w 31 5]
    | 0x50 => if bitOf w 31 then [] else [fld w 26 5]
    | 0x51 => if bitOf w 31 then [] else [fld w 26 5]
    | 0x52 => [fld w 25 5]
    | 0x54 => [fld w 24 5]
    | 0x55 => [fld w 24 5]
    | 0x60 => [fld w 20 5, fld w 15 5, fld w 2 5]
    | 0x61 => [fld w 25 5, fld w 20 5]
    | 0x62 => [fld w 25 5, fld w 20 5]
    | 0x84 => if bitOf w 13 then [fld w 8 5] else []
    | 0xA0 => [fld w 19 5, fld w 14 5, fld w 9 5]
    | 0xA1 => [fld w 19 5, fld w 14 5, fld w 9 5]
    | 0xA2 => [fld w 15 5, fld w 10 5]
    | 0xA3 => [fld w 19 5, fld w 14 5]
    | 0xA4 => [fld w 19 5, fld w 14 5]
    | 0xA6 => [fld w 19 5]
    | 0xA7 => [fld w 23 5, fld w 18 5, fld w 13 5]
    | 0xB1 => [fld w 31 5, fld w 31 5 + 1, fld w 31 5 + 2, fld w 31 5 + 3]
    | 0xB2 => [fld w 23 5, fld w 18 5, fld w 8 5]
    | 0xB3 => [fld w 23 5]
    | 0xC0 => [fld w 27 5, fld w 22 5, fld w 17 5, fld w 12 5]
    | 0xC1 => [fld w 27 5, fld w 22 5, fld w 17 5, fld w 12 5]
    | 0xC2 => [fld w 27 5]
    | 0xC3 => [fld w 27 5, fld w 22 5]
    | 0xD0 => (if bitOf w 25 then [] else [fld w 20 5]) ++ (if bitOf w 2 then [fld w 3 5] else [])
    | _ =>
      match wClass op with
      | 0x1 => [fld w 46 5, fld w 41 5] ++ (if bitOf w 35 then [] else [fld w 36 5])
      | 0x2 => if op ≤ 0x25 then [fld w 43 5] ++ (if bitOf w 37 then [] else [fld w 38 5]) else []
      | 0x4 => [fld w 15 5]
      | 0x7 => (if bitOf w 10 then [fld w 21 5] else []) ++ (if op == 0x7F then [fld w 16 5] else [])
      | 0x9 => [fld w 27 5, fld w 22 5]
      | _ => []
  ws ++ own

/-- Address registers that the operands of a word name. -/
def aNames (w : Nat) : List Nat :=
  let op := wOp w
  match op with
  | 0x1C => [fld w 47 4]
  | 0x1D => [fld w 47 4, fld w 43 4]
  | 0x1E => [fld w 47 4, fld w 43 4]
  | 0x1F => [fld w 42 4]
  | 0x30 => [fld w 27 4]
  | 0x31 => [fld w 27 4]
  | 0x50 => [fld w 32 4]
  | 0x51 => [fld w 32 4]
  | 0x52 => [fld w 30 4]
  | 0x53 => []
  | 0x54 => [fld w 29 4]
  | 0x55 => [fld w 29 4]
  | 0x56 => []
  | 0x60 =>
    let aa := fld w 29 4
    let ab := fld w 25 4
    [aa, ab] ++ (if isMx (fld w 11 4) then [aa + 1] else []) ++ (if isMx (fld w 7 4) then [ab + 1] else [])
  | 0x61 => [fld w 30 4]
  | 0x62 => [fld w 30 4]
  | 0x80 => [fld w 27 4]
  | 0x81 => [fld w 27 4]
  | 0x84 => [fld w 27 4] ++ (if isMx (fld w 19 4) then [fld w 27 4 + 1] else [])
  | 0x85 => [fld w 27 4] ++ (if isMx (fld w 23 4) then [fld w 27 4 + 1] else [])
  | 0xA0 => [fld w 32 4, fld w 28 4, fld w 24 4]
  | 0xA1 => [fld w 32 4, fld w 28 4, fld w 24 4]
  | 0xA2 => [fld w 32 4, fld w 28 4, fld w 24 4, fld w 20 4]
  | 0xA3 => [fld w 32 4, fld w 28 4, fld w 24 4]
  | 0xA4 => [fld w 32 4, fld w 28 4, fld w 24 4]
  | 0xA5 => [fld w 32 4, fld w 28 4, fld w 24 4]
  | 0xA6 => [fld w 32 4, fld w 28 4, fld w 24 4]
  | 0xA7 => [fld w 32 4, fld w 28 4]
  | 0xB2 => [fld w 32 4, fld w 28 4]
  | 0xB3 => [fld w 32 4, fld w 28 4]
  | _ =>
    match wClass op with
    | 0x5 => [fld w 32 4]
    | 0x9 => [fld w 32 4, fld w 32 4 + 1, fld w 32 4 + 2, fld w 32 4 + 3]
    | 0xC => [fld w 32 4]
    | _ => []

/-- Registers an engine word marks pending at dispatch: scalar, address (R134). -/
def pendNames (w : Nat) : List Nat × List Nat :=
  match wOp w with
  | 0x30 => ([fld w 31 5], [])
  | 0x43 => ([fld w 15 5], [])
  | 0x55 => ([fld w 24 5], [fld w 29 4])
  | 0xA0 => ([fld w 14 5], [])
  | 0xA1 => ([fld w 14 5], [])
  | 0xA7 => ([fld w 13 5], [])
  | 0xC2 => ([fld w 27 5], [])
  | _ => ([], [])

/-! ### Register reads and writes (R133) -/

def ShareSt.sReg (h : ShareSt) (i : Nat) : Word := Tbl.get 0 h.s i
def ShareSt.aReg (h : ShareSt) (i : Nat) : Addr := Tbl.get 0 h.a i
def ShareSt.pReg (h : ShareSt) (i : Nat) : Bool := Tbl.get false h.p i
def ShareSt.setS (h : ShareSt) (i : Nat) (v : Word) : ShareSt := { h with s := Tbl.set 0 h.s i v }
def ShareSt.setA (h : ShareSt) (i : Nat) (v : Addr) : ShareSt := { h with a := Tbl.set 0 h.a i v }
def ShareSt.setP (h : ShareSt) (i : Nat) (v : Bool) : ShareSt := { h with p := Tbl.set false h.p i v }

/-- A pending scalar or address register receives its value (R134). -/
def ShareSt.landS (h : ShareSt) (i : Nat) (v : Word) : ShareSt :=
  { h.setS i v with pendS := h.pendS.erase i }
def ShareSt.landA (h : ShareSt) (i : Nat) (v : Addr) : ShareSt :=
  { h.setA i v with pendA := h.pendA.erase i }

/-- The value a queued word captured of scalar register i, and of address register i (R68). -/
def QEntry.sv (q : QEntry) (i : Nat) : Nat := (Tbl.get 0 q.s i).toNat
def QEntry.av (q : QEntry) (i : Nat) : Nat := (Tbl.get 0 q.a i).toNat

/-- a_i + OFF of `n` bits, signed, for captured register i (R145, R150, R152, R168). Nothing wraps outside class 0x1
(R133): a sum beyond 40 bits stays beyond every share, and one below 0 lies beyond them too. -/
def QEntry.addrOff (e : QEntry) (i n off : Nat) : Nat :=
  let t : Int := (e.av i : Int) + signed n off
  if t < 0 then (t + 2 ^ 41).toNat else t.toNat

/-- The queued word as a number. -/
def QEntry.w (q : QEntry) : Nat := q.word.toNat

/-- The guard is off: the word does nothing (R136). -/
def ShareSt.guardOff (h : ShareSt) (w : Nat) : Bool := wGE w && (h.pReg (wGP w) == wGN w)

/-! ### Vector registers (R65, R77) -/

/-- Bytes of a vector register. -/
def vBytes : Nat := 256
/-- n bytes of the vector registers from register r, byte offset b. -/
def ShareSt.vRead (h : ShareSt) (r b n : Nat) : Bytes := readBytes h.v (256 * r + b) n
/-- Write bytes from register r, byte offset b. -/
def ShareSt.vWrite (h : ShareSt) (r b : Nat) (bs : Bytes) : ShareSt :=
  { h with v := writeBytes h.v (256 * r + b) bs }

/-- Little-endian elements of `bits` bits in a byte string (R42). -/
def elemsOf (bs : Bytes) (bits n : Nat) : List Nat := (List.range n).map (packedAt bs bits)

end Sys2Proof.Machine
end

