-- ==== Sys2Proof/Machine/Gen.lean ====
section
/-! DEFINITION. The random generator of a core (R78, R251 to R258). -/

namespace Sys2Proof.Machine

/-! ### The generator (R251 to R254) -/

/-- A reseed comes first: it is due and its buffer is filled (R253, R254). -/
def State.reseedFirst (s : State) (g : Nat) : Bool := (s.core g).due && (s.core g).reseedBuf.isSome

/-- n draws from a generator state: outputs in order and the state after (R251). -/
def rngDraws : Nat → BitVec 128 → List Nat × BitVec 128
  | 0, st => ([], st)
  | n + 1, st =>
    let r := rngDraws n (Config.rngStep st)
    ((Config.rngOut st).toNat :: r.1, r.2)

/-- n draws of core g's generator: they count, and a counter that wraps makes a reseed due, overdue
when the buffer is empty (R253, R261). -/
def State.genDraw (s : State) (g n : Nat) : List Nat × State :=
  let c := s.core g
  let r := rngDraws n c.rng
  let wrapped := decide (2 ^ 32 ≤ c.draws.toNat + n)
  let s := s.setCore g { c with rng := r.2, draws := c.draws + BitVec.ofNat 32 n, due := c.due || wrapped,
                                overdue := c.overdue || (wrapped && c.reseedBuf.isNone) }
  (r.1, s.bumpWide (cluBase (g / 64) + 0xC00) n)

/-- Field f of the elements that draw number f div G serves: 16 bits of the draw rotated right by
(64 / G) (f mod G) (R256). -/
def fieldOf (draws : List Nat) (G f : Nat) : Nat :=
  ((BitVec.ofNat 64 (draws.getD (f / G) 0)).rotateRight (64 / G * (f % G))).toNat % 65536

/-- The group size that G code 1, 2 or 3 selects (R168). -/
def groupSize (code : Nat) : Nat := 2 ^ code

/-- The rounding of n elements in order: a mode of the instruction, or stochastic with fields of the
core's generator at group size G (R59, R256). -/
def State.roundings (s : State) (g rm G n : Nat) : (Nat → Rm) × State :=
  match rm with
  | 0 => (fun _ => .rne, s)
  | 1 => (fun _ => .rtz, s)
  | _ =>
    let r := s.genDraw g (ceilDiv n G)
    (fun e => .sr (fieldOf r.1 G e), r.2)

/-- Table 3.4's rule on RM and G of the conversion words (R168): RM 3 is cause 0x05, a G that does not
fit RM is cause 0x60. -/
def rmGChecks (rm G : Nat) : List (Bool × Nat) :=
  [(rm == 3, 0x05), (rm < 2 && G != 0, 0x60), (rm == 2 && G == 0, 0x60)]

/-- The word needs the generator (R254): the random words, and the rounding words in mode 2. -/
def needsGen (w : Nat) : Bool :=
  match wOp w with
  | 0x62 => fld w 14 2 == 2
  | 0x7F => fld w 11 2 == 2
  | 0x82 => fld w 16 2 == 2
  | 0x83 => fld w 16 2 == 2
  | 0x84 => fld w 17 2 == 2
  | op => wClass op == 0xB

/-- The most draws one word can make (R253). -/
def mostDraws : Nat := 131072

/-- Draws that a queued word makes when it runs to its end (Tables 4.4 and 13.1). -/
def QEntry.drawCount (e : QEntry) : Nat :=
  let w := e.w
  if !needsGen w then 0
  else min mostDraws (match wOp w with
    | 0x62 => 8 * e.sv (fld w 25 5)
    | 0x7F => 64 * (fld w 6 4 + 1)
    | 0x82 => 64 * (fld w 9 4 + 1) / groupSize (fld w 13 2)
    | 0x83 =>
      let aud := fld w 11 2
      cvtLanes (cvtBits (fld w 22 4) aud) (cvtBits (fld w 18 4) aud) * (fld w 7 4 + 1) / groupSize (fld w 13 2)
    | 0x84 => 256 * (fld w 4 4 + 1) / groupSize (fld w 14 2)
    | 0xB0 => 32 * (fld w 27 4 + 1)
    | 0xB2 => e.sv (fld w 18 5) * ceilDiv (e.sv (fld w 23 5)) (groupSize (fld w 13 2))
    | 0xB3 => e.sv (fld w 23 5) * ceilDiv (fld w 20 3 + 2) (groupSize (fld w 15 2))
    | _ => 0)

/-- A word that faults has made some of its draws, how many is a free value; they count and move the state
(R253, log entry 104). -/
def State.faultDraws (s : State) (g : Nat) (e : QEntry) : State :=
  if e.drawCount = 0 then s
  else ({ s with free := s.free + 1 }.genDraw g (Config.cycles s.free % (e.drawCount + 1))).2

/-- The counter wrapped and the buffer is filled: the buffer is mixed in, the counter restarts (R253). -/
def execReseed (core : Fin 2048) (s : State) : Outcome :=
  let c := s.core core.val
  let b := cluBase (core.val / 64)
  .next (match c.reseedBuf with
    | none => s
    | some r => s.when c.due fun s =>
      let s := s.setCore core.val { c with rng := Config.rngMix c.rng r, draws := 0, due := false,
                                           reseedBuf := none, overdue := false }
      let s := s.bump (b + 0xC08) 0 32 1
      if c.overdue then s.bump (b + 0xC0C) 0 32 1 else s)

/-- The Steward refills an empty reseed buffer with conditioned entropy (R253), while its source is
healthy (R412). -/
def execReseedBufferRefill (core : Fin 2048) (s : State) : Outcome :=
  .next (s.when ((s.core core.val).reseedBuf.isNone && !s.entropyFail) fun s =>
    s.draw.2.modCore core.val fun c => { c with reseedBuf := some s.draw.1 })

end Sys2Proof.Machine
end

