-- ==== Sys2Proof/Machine/Waits.lean ====
section
/-! DEFINITION. When the word at the head of an engine queue can start (R69, R136, R189, R254, R270): its ticket, its
stage, and the waits that the rules of single words give (R82, R103, R117, R149, R153, R154, R185). -/

namespace Sys2Proof.Machine

/-! ### Tickets and stages -/

/-- The share holds a context that may issue: resident, not faulted, its core neither tested nor resetting. -/
def State.issues (s : State) (g j : Nat) : Bool :=
  let h := s.share g j
  let c := s.core g
  h.ctx.isSome && h.live && !h.faulted && !c.testing && !c.resetting

/-- The share may issue now: its cluster has a clock. A gated core wakes for its work (R418, R419). -/
def State.awake (s : State) (g j : Nat) : Bool := s.issues g j && (s.clu (g / 64)).power == 0

/-- The ticket a queued word waits on is ready (R69, R137). -/
def ShareSt.ticketOk (h : ShareSt) (e : QEntry) : Bool :=
  !wWE e.w || ticketReady (Tbl.get 0 h.k (wWK e.w)) ((Tbl.get 0 e.s (wWS e.w)).truncate 16)

/-- Iteration i of stage a of a fused command has finished (R189). -/
def Fused.finished (f : Fused) (a i : Nat) : Bool :=
  decide (f.words.getD a 0 ≤ Tbl.get 0 f.done (4 * i + a))

/-- The order of fused stages admits the word (R189). -/
def ShareSt.stageOk (h : ShareSt) (e : QEntry) : Bool :=
  match e.stage with
  | none => true
  | some t => match h.fused.find? (·.id == t.cmd) with
    | none => true
    | some f =>
      (t.stage == 0 || f.finished (t.stage - 1) t.iter) &&
        (t.iter < 2 || f.engines.length ≤ t.stage + 1 || f.finished (t.stage + 1) (t.iter - 2))

/-- The head of queue q has its ticket and its stage; a guarded-off word asks no stage (R136, R189). -/
def ShareSt.headReady (h : ShareSt) (q : Nat) : Bool :=
  match h.queue q with
  | e :: _ => h.ticketOk e && (e.off || h.stageOk e)
  | [] => false

/-- The word at the head of queue q of share j may start as far as its share, its ticket and its stage go. -/
def State.headReady (s : State) (g q j : Nat) : Bool := s.awake g j && (s.share g j).headReady q

/-! ### What the movement words look at -/

/-- The context resident on a share. -/
def State.ctxOf (s : State) (g j : Nat) : Option Nat := (s.share g j).ctx

/-- A list of share j of core g that is not yet wholly fetched (R103). -/
def DmaList.waits (g j : Nat) (l : DmaList) : Bool :=
  l.site.core.val == g && l.site.share.val == j && decide (l.next < l.count)

/-- The share of logical core i of the context on share j of core g. -/
def State.peerOf (s : State) (g j i : Nat) : Option (Nat × Nat) :=
  match s.ctxOf g j with
  | none => none
  | some c => match s.ctx c with
    | none => none
    | some x => x.cores[i]?

/-- The link of a share. -/
def ShareSt.halo (h : ShareSt) (i : Nat) : Option Halo := Tbl.get none h.halos i

/-- Messages of this outgoing link that its consumer has not released. -/
def State.unreleased (s : State) (g j : Nat) (l : Halo) : Nat :=
  match s.peerOf g j l.peer with
  | none => 0
  | some (pg, pj) => match (s.share pg pj).halo l.peerLink with
    | none => l.count
    | some r => l.count - r.count

/-- P and C of an edge's port on a logical core: the producer or consumer number, if the port is the
edge's. -/
def Edge.producer (x : Edge) (i port : Nat) : Option Nat :=
  if x.pport = port ∧ x.pfirst ≤ i ∧ i < x.pfirst + x.pnum then some (i - x.pfirst) else none
def Edge.consumer (x : Edge) (i port : Nat) : Option Nat :=
  if x.cport = port ∧ x.cfirst ≤ i ∧ i < x.cfirst + x.cnum then some (i - x.cfirst) else none

/-- The (ropewalk, edge number, edge, member number) to which a context binds a port of logical core i. -/
def State.findPort (s : State) (c i port : Nat) (member : Edge → Nat → Nat → Option Nat) :
    Option (Nat × Nat × Edge × Nat) :=
  (s.ropesOf c).findSome? fun r => match s.rope r with
    | none => none
    | some rp => rp.edges.zipIdx.findSome? fun x => (member x.1 i port).map fun m => (r, x.2, x.1, m)

/-- Rounds every consumer has released. -/
def Edge.released (x : Edge) : Nat :=
  ((List.range x.cnum).map fun c => Tbl.get 0 x.rel c).foldl min (Tbl.get 0 x.rel 0)

/-- Producer p's credits in use. -/
def Edge.inUse (x : Edge) (p : Nat) : Nat := Tbl.get 0 x.sent p - x.released

/-- SRC of a Mill descriptor, or DST for FILL: the address that chooses the serving cluster (R116). -/
def millKey (raw : Bytes) : Nat := if fieldAt raw 0 1 = 5 then fieldAt raw 40 5 else fieldAt raw 16 5

/-- The serving cluster; the requester's own when no locality window holds the key (R116). -/
def Part.serving (p : Part) (own : Nat) (raw : Bytes) : Nat :=
  match p.windowOf (millKey raw) with
  | some i => p.cluster i
  | none => own

/-- Mill descriptors on their way to, or held in, the queue of cluster n. -/
def State.millBound (s : State) (p : Part) (n : Nat) : List MillDesc :=
  (s.clu n).millQ ++ (p.clusters.map fun k =>
    (s.clu k).millSub.filter fun d => p.serving k d.raw == n).flatten

/-- Logical core i lies in a stage. -/
def inStage (st : Nat × Nat) (i : Nat) : Bool := decide (st.1 ≤ i) && decide (i < st.1 + st.2)

/-- The Ropewalk of which the share is a stage core (R206). -/
def State.ropeOf (s : State) (g j : Nat) : Option (Nat × Rope) :=
  match s.ctxOf g j with
  | none => none
  | some c => (s.ropesOf c).findSome? fun r => match s.rope r with
    | none => none
    | some rp => if rp.stages.any (inStage · (s.share g j).logical) then some (r, rp) else none

/-- The share lies in the first or the last stage. -/
def Rope.atFirst (rp : Rope) (i : Nat) : Bool := match rp.stages.head? with
  | some st => inStage st i
  | none => false
def Rope.atLast (rp : Rope) (i : Nat) : Bool := match rp.stages.getLast? with
  | some st => inStage st i
  | none => false

/-- The Docket a share takes next: the oldest in flight that it has not taken (R185). -/
def State.nextDocket (s : State) (r i : Nat) : Option Docket :=
  s.dockets.find? fun d => d.rope == r && !d.taken.contains i

/-- Largest Docket in bytes (R196). -/
def docketMax : Nat := 4128

/-- Object OBJ lies in a cluster of the partition that owns core g (R146). -/
def State.ownsObj (s : State) (g obj : Nat) : Bool :=
  match (s.clu (g / 64)).part with
  | some p => (s.part p).owns (obj / 2048)
  | none => false

/-- OBJ and S of a synchronisation word (R147). -/
def syncObj (e : QEntry) : Nat := fld e.w 20 16
def syncReg (e : QEntry) : Nat := fld e.w 15 5

/-- A waiter that a core's word registered. -/
def Waiter.ofCore (g : Nat) : Waiter → Bool
  | .word _ _ site _ _ _ => site.core.val == g
  | .steward _ _ _ => false

/-- The waiter that blocks the movement queue of share j of core g. -/
def Waiter.blocksShare (g j : Nat) : Waiter → Bool
  | .word _ _ site b _ _ => b && site.core.val == g && site.share.val == j
  | .steward _ _ _ => false

/-! ### Waits of single words -/

/-- The generator serves the word at the head of queue q of share j next (R254): no reseed comes first, and of the heads
that wait for the generator it became one earliest. -/
def State.genTurn (s : State) (g q j : Nat) : Bool :=
  let waits (x : Nat × Nat) : Bool := s.headReady g x.1 x.2 && (match (s.share g x.2).queue x.1 with
    | e :: _ => !e.off && needsGen e.w
    | [] => false)
  !s.reseedFirst g && (s.core g).heads.find? waits == some (q, j)

/-- sync.wait holds its queue's head: it is registered there, or its core has 16 waiters on the object (R147, R149). -/
def State.syncHeld (s : State) (g j : Nat) (e : QEntry) : Bool :=
  s.waiters.any (Waiter.blocksShare g j) ||
    (s.ownsObj g (syncObj e) && decide (16 ≤ (s.waiters.filter fun w => w.obj == syncObj e && w.ofCore g).length))

/-- The list of a transfer word, and its checks (R102, R151). -/
def listBase (e : QEntry) : Nat := e.av (fld e.w 32 4)
def listCount (e : QEntry) : Nat := if bitOf e.w 31 then fld e.w 14 12 + 1 else e.sv (fld e.w 26 5)
def State.listBad (s : State) (g : Nat) (e : QEntry) : Bool :=
  listBase e % 64 != 0 || !s.inShare g (listBase e) (64 * listCount e) || listCount e == 0 || decide (4096 < listCount e)

/-- The address of a descriptor that a word submits (R152). -/
def descAddr (e : QEntry) : Nat := e.addrOff (fld e.w 32 4) 19 (fld e.w 13 19)

/-- The port of a queue word (R154). -/
def State.portOf (s : State) (g j : Nat) (e : QEntry) (member : Edge → Nat → Nat → Option Nat) :
    Option (Nat × Nat × Edge × Nat) :=
  match s.ctxOf g j with
  | none => none
  | some c => s.findPort c (s.share g j).logical (fld e.w 33 3) member

/-- Consumer i's next round is not wholly delivered (R210). -/
def Edge.undelivered (x : Edge) (i : Nat) : Bool :=
  (List.range x.pnum).any fun p => decide (Tbl.get 0 x.sent p ≤ Tbl.get 0 x.recv i)

/-- The Mill queue that a descriptor goes to has no place for it (R117). -/
def State.millFull (s : State) (g j : Nat) (raw : Bytes) : Bool :=
  let p := s.partOf g
  let bound := s.millBound p (p.serving (g / 64) raw)
  decide (256 ≤ bound.length) || decide (64 ≤ (bound.filter (·.ctx == (s.ctxOf g j).getD 0)).length)

/-- The word e at the head of queue q of share j waits by the rule of its own opcode. A word that would fault does
not wait. -/
def State.waitsItself (s : State) (g q j : Nat) (e : QEntry) : Bool :=
  let n := g / 64
  let h := s.share g j
  match wOp e.w with
  | 0x42 => s.syncHeld g j e
  | 0x50 => !s.listBad g e && decide (16 ≤ ((s.clu n).lists.filter (DmaList.waits g j)).length)
  | 0x51 => !s.listBad g e && decide (16 ≤ ((s.clu n).lists.filter (DmaList.waits g j)).length)
  | 0x52 => match h.halo (fld e.w 34 2) with
    | some l => !l.incoming && decide (2 ≤ s.unreleased g j l)
    | none => false
  | 0x54 => match s.portOf g j e Edge.producer with
    | some (_, _, x, p) => decide (x.rounds ≤ x.inUse p)
    | none => false
  | 0x55 => match s.portOf g j e Edge.consumer with
    | some (_, _, x, i) => x.undelivered i
    | none => false
  | 0x57 => descAddr e % 32 == 0 && s.inShare g (descAddr e) 32 && Tbl.get 0 s.narrowMap n != 2 &&
      decide (256 ≤ (s.clu n).narQ.length)
  | 0xC2 => match s.ropeOf g j with
    | some (r, rp) => rp.atFirst h.logical && s.inShare g (e.av (fld e.w 32 4)) docketMax &&
        (s.nextDocket r h.logical).isNone
    | none => false
  | op =>
    if 0x58 ≤ op && op ≤ 0x5D then
      descAddr e % 64 == 0 && s.inShare g (descAddr e) 64 && s.millFull g j (h.read (descAddr e) 64)
    else needsGen e.w && !s.genTurn g q j

/-- The head of queue q of share j can start. -/
def State.startable (s : State) (g q j : Nat) : Bool :=
  s.headReady g q j && (match (s.share g j).queue q with
    | e :: _ => e.off || !s.waitsItself g q j e
    | [] => false)

end Sys2Proof.Machine
end

