-- ==== Sys2Proof/Machine/Issue.lean ====
section
/-! DEFINITION. How a core issues: the Tally (R268 to R271, R276), dispatch (R67, R68, R134 to R142),
and the start of an engine word at the head of its queue (R68, R69, R136, R189). -/

namespace Sys2Proof.Machine

/-! ### The Tally -/

/-- Charge n engine-cycles to a context with w ≥ 1 (R271). -/
def ShareSt.charge (h : ShareSt) (urgent : Bool) (n : Nat) : ShareSt :=
  if h.weight = 0 then h
  else if urgent then
    let direct := min n (max h.deficit 0).toNat
    let lent := min (n - direct) (64 * h.borrow - h.borrowed)
    { h with deficit := h.deficit - ((n - lent : Nat) : Int), borrowed := h.borrowed + lent,
             debt := min (h.debt + lent) 0xFFFFFFFF }
  else { h with deficit := h.deficit - (n : Int) }

/-- Add n engine-cycles to the counter of a unit: queue 0 matrix, 1 vector, 2 scan, else front end. -/
def ShareSt.count (h : ShareSt) (unit n : Nat) : ShareSt :=
  match unit with
  | 0 => { h with tallyMx := h.tallyMx + BitVec.ofNat 64 n }
  | 1 => { h with tallyVx := h.tallyVx + BitVec.ofNat 64 n }
  | 2 => { h with tallySc := h.tallySc + BitVec.ofNat 64 n }
  | _ => { h with tallyFe := h.tallyFe + BitVec.ofNat 64 n }

/-- The context of a share is urgent: a stream of it makes it so, and counts as bound for Docket order (R272). -/
def State.isUrgent (s : State) (h : ShareSt) : Bool :=
  match h.ctx with
  | none => false
  | some c => s.entries.any fun x => x.2.urgent && x.2.context == c && x.2.status.active && s.countsBound x.2

/-- Charge and count n cycles of a unit to share j of core g (R269). The movement queue is not charged. -/
def State.chargeUnit (s : State) (g j unit n : Nat) : State :=
  if unit = 3 then s
  else
    let u := s.isUrgent (s.share g j)
    s.modShare g j fun h => (h.count unit n).charge u n

/-- key_c of R270. -/
def ShareSt.key (h : ShareSt) (urgent : Bool) : Int :=
  if urgent then h.deficit + (64 * h.borrow : Nat) - (h.borrowed : Nat) else h.deficit

/-- The share R270 chooses for a unit among those with work: the largest key of w ≥ 1, the lower index on
ties, else the background shares in rotation after the one last chosen; the movement queue takes all shares in
rotation. -/
def State.chooses (s : State) (g unit : Nat) (work : Nat → Bool) : Option Nat :=
  let fore := (List.range 4).filter fun j => unit != 3 && work j && (s.share g j).weight != 0
  let key (j : Nat) : Int := (s.share g j).key (s.isUrgent (s.share g j))
  match fore with
  | j :: rest => some (rest.foldl (fun b k => if key b < key k then k else b) j)
  | [] =>
    let last := Tbl.get 3 (s.core g).bgLast unit
    ((List.range 4).map fun i => (last + 1 + i) % 4).find? work

/-- Record the share that a unit chose in rotation. -/
def State.rotate (s : State) (g unit j : Nat) : State :=
  if unit = 3 ∨ (s.share g j).weight = 0 then s.modCore g fun c => { c with bgLast := Tbl.set 3 c.bgLast unit j }
  else s

/-! ### Dispatch -/

/-- The word that share j would dispatch next. -/
def ShareSt.next (h : ShareSt) : Option W64 := h.program[h.pc]?

/-- A word is held back: a pending register, a tk.wait whose ticket is short, a full queue, or the
ticket that delays a fused command's first word (R67, R134, R140, R187). -/
def ShareSt.heldBack (h : ShareSt) (word : W64) : Bool :=
  let w := word.toNat
  let op := wOp w
  (sNames w).any h.pendS.contains || (aNames w).any h.pendA.contains ||
    (op == 0x04 && !h.guardOff w &&
      !ticketReady (Tbl.get 0 h.k (fld w 47 4)) ((h.sReg (fld w 42 5)).truncate 16)) ||
    (match queueOf op with
     | some q => decide (16 ≤ (h.queue q).length)
     | none => false) ||
    h.fused.any fun f => match f.wait with
      | some (k, v) => !ticketReady (Tbl.get 0 h.k k) v
      | none => false

/-- Share j has a dispatchable word (R270), or has run past its program's last word (R144). -/
def State.dispatchable (s : State) (g j : Nat) : Bool :=
  let h := s.share g j
  s.awake g j && !h.stopped &&
    (match h.next with
     | some word => !h.heldBack word
     | none => true)

/-- The front end of core g dispatches word w of share j now. -/
def State.dispatches (s : State) (site : Site) (w : W64) : Bool :=
  let g := site.core.val
  let j := site.share.val
  (s.share g j).next == some w && s.dispatchable g j && s.chooses g 4 (s.dispatchable g) == some j

/-- A gated core runs again for its work (R418, R419). -/
def State.wakeCore (s : State) (g : Nat) : State :=
  if (s.core g).gated then s.modCore g fun c => { c with gated := false } else s

/-- When the starvation of each share of core g began, once share j dispatches a word: share j's ends, and that of
another background share with a dispatchable word begins (R276). -/
def State.starvations (s : State) (g j : Nat) : Tbl (Option Time) :=
  (List.range 4).foldl (fun (t : Tbl (Option Time)) i =>
    if i = j then Tbl.set none t i none
    else if (s.share g i).weight = 0 ∧ s.dispatchable g i = true ∧ (Tbl.get none t i).isNone = true then
      Tbl.set none t i (some s.tb.count)
    else t) (s.core g).starveFrom

/-- One dispatch: 1 front-end engine-cycle (R269), starvations end and begin (R276), the rotation moves on. -/
def State.dispatched (s : State) (g j : Nat) : State :=
  let t := s.modCore g fun c => { c with starveFrom := s.starvations g j }
  (((t.wakeCore g).rotate g 4 j).chargeUnit g j 4 1).modShare g j fun h =>
    { h with starving := false,
             fused := h.fused.map fun f => { f with wait := none } }

/-- Close the loops that end on word i (R142), innermost first: with iterations left, the next one
begins; otherwise the next loop outward is looked at. -/
def ShareSt.closeLoops (h : ShareSt) (i : Nat) : List Loop → ShareSt
  | [] => { h with loops := [], pc := i + 1 }
  | l :: rest =>
    if l.last = i then
      if 1 < l.left then
        let h := { h with loops := { l with left := l.left - 1, iter := l.iter + 1 } :: rest, pc := l.first }
        match l.xs with
        | some x => h.setS x (BitVec.ofNat 32 (l.iter + 1))
        | none => h
      else h.closeLoops i rest
    else { h with loops := l :: rest, pc := i + 1 }

/-- Dispatch passes to the word after word i. -/
def ShareSt.advance (h : ShareSt) (i : Nat) : ShareSt := h.closeLoops i h.loops

/-- The open loop of a fused command, when dispatch is inside its body. -/
def ShareSt.fusedLoop (h : ShareSt) : Option Loop := h.loops.find? (·.fused)

/-- What a front-end word does: go on to the next word, go elsewhere, stay, or fault. -/
inductive FrontRes where
  | ok (h : ShareSt)
  | go (h : ShareSt)
  | fault (cause : Nat)
deriving Inhabited

/-- A front-end word that a fused body may not hold (R188). -/
def fuseForbids (op : Nat) : Bool := wClass op == 0 || wClass op == 0xD && op != 0xD1

/-- Dispatch a front-end word of opcode `op` with effect `f` on the share; the word's own index is the
share's pc (R136, R139, R140). -/
def State.dispatchFront (s : State) (site : Site) (w : W64) (op : Nat) (f : ShareSt → FrontRes) : State :=
  let g := site.core.val
  let j := site.share.val
  if s.dispatches site w && wOp w.toNat == op then
    let s := s.dispatched g j
    let h := s.share g j
    if !wordOk w.toNat then s.progFault g j 0x0A engFront h.pc
    else if h.fusedLoop.isSome && fuseForbids op then s.progFault g j 0x81 engFront h.pc
    else if h.guardOff w.toNat then s.setShare g j (h.advance h.pc)
    else match f h with
      | .ok h' => s.setShare g j (h'.advance h.pc)
      | .go h' => s.setShare g j h'
      | .fault c => s.progFault g j c engFront h.pc
  else s

/-- The stage and iteration of a word that queue q receives inside a fused body (R188). -/
def ShareSt.stageOf (h : ShareSt) (q : Nat) : Option FuseTag :=
  match h.fused.getLast?, h.fusedLoop with
  | some f, some l => (f.engines.findIdx? (· == q)).map fun a => { cmd := f.id, stage := a, iter := l.iter }
  | _, _ => none

/-- Queue q of share j of core g has a new head: it is the last to have become one (R254). -/
def State.newHead (s : State) (g q j : Nat) : State :=
  s.modCore g fun c => { c with heads := c.heads.filter (· != (q, j)) ++ [(q, j)] }

/-- The head of queue q of share j leaves; the word behind it becomes the head. -/
def State.leave (s : State) (g q j : Nat) : State :=
  let t := s.modShare g j fun h => h.popQueue q
  if ((t.share g j).queue q).isEmpty then t else t.newHead g q j

/-- Dispatch an engine word of opcode `op`: it captures the registers and enters its queue, and its
destination registers become pending (R67, R68, R134, R136). -/
def State.dispatchEngine (s : State) (site : Site) (w : W64) (op : Nat) : State :=
  let g := site.core.val
  let j := site.share.val
  if s.dispatches site w && wOp w.toNat == op then
    let s := s.dispatched g j
    let h := s.share g j
    if !wordOk w.toNat then s.progFault g j 0x0A engFront h.pc
    else if h.fusedLoop.isSome && (wWE w.toNat || wPE w.toNat) then s.progFault g j 0x81 engFront h.pc
    else match queueOf op with
      | none => s
      | some q =>
        let off := h.guardOff w.toNat
        let e : QEntry := { word := w, off := off, index := h.pc, s := h.s, a := h.a, stage := h.stageOf q }
        let pend := if off then ([], []) else pendNames w.toNat
        let h := { h with queues := Tbl.set [] h.queues q (h.queue q ++ [e]),
                          pendS := h.pendS ++ pend.1, pendA := h.pendA ++ pend.2 }
        let fresh := ((s.share g j).queue q).isEmpty
        let s := s.setShare g j (h.advance h.pc)
        if fresh then s.newHead g q j else s
  else s

/-! ### Start of an engine word -/

/-- What a started word does: its results and its conflict-free engine-cycles; a word that posts later; a word that
stays at the head of its queue; or a fault. -/
inductive StartRes where
  | done (s : State) (cycles : Nat)
  | later (s : State)
  | keep (s : State)
  | fault (s : State) (cause : Nat)
deriving Inhabited

/-- Charge a started word its n conflict-free engine-cycles and, when it reads or writes the scratchpad, the cycles its
engine works at bank conflicts, a free value (R71, R269, log entry 46). -/
def State.chargeWord (s : State) (g j q : Nat) (e : QEntry) (n : Nat) : State :=
  if (aNames e.w).isEmpty then s.chargeUnit g j q n
  else { s with free := s.free + 1 }.chargeUnit g j q (n + Config.cycles s.free)

/-- The end of a started word: it leaves its queue, its ticket posts, its stage counts it, and its engine-cycles are
charged (R69, R136, R189, R269). -/
def State.finishWord (s : State) (g j q : Nat) (e : QEntry) (n : Nat) : State :=
  ((s.leave g q j).wordDone g j (wPost e.w) e.stage).chargeWord g j q e n

/-- Start the word at the head of queue q of a share, with effect `f`; the unit chooses among startable heads by R270.
A word that faults is charged the cycles its engine worked and makes the draws it made, both free values (R253,
R269). -/
def State.startEngine (s : State) (site : Site) (w : W64) (q op : Nat)
    (f : State → Nat → Nat → QEntry → StartRes) : State :=
  let g := site.core.val
  let j := site.share.val
  match (s.share g j).queue q with
  | [] => s
  | e :: _ =>
    if e.word == w && wOp w.toNat == op && s.startable g q j && s.chooses g q (s.startable g q) == some j then
      let s := (s.wakeCore g).rotate g q j
      if e.off then (s.leave g q j).wordDone g j (wPost e.w) e.stage
      else match f s g j e with
        | .done t n => t.finishWord g j q e n
        | .later t => t.leave g q j
        | .keep t => t
        | .fault t c =>
          let t := (t.leave g q j).faultDraws g e
          ({ t with free := t.free + 1 }.chargeUnit g j q (Config.cycles t.free)).progFault g j c (engineOf q) e.index
    else s

/-- An engine word's two halves (R67, R68). -/
def State.engineWord (s : State) (site : Site) (act : Act) (w : W64) (q op : Nat)
    (f : State → Nat → Nat → QEntry → StartRes) : State :=
  match act with
  | .dispatch => s.dispatchEngine site w op
  | .start => s.startEngine site w q op f

end Sys2Proof.Machine
end

