-- ==== Sys2Proof/Machine/SyncOps.lean ====
section
/-! DEFINITION. Faults of which several hold at once, scalar load and store (R72, R145) and the synchronisation words
(R146 to R149). -/

namespace Sys2Proof.Machine

/-! ### Faults -/

/-- The causes whose conditions hold. -/
def causes (l : List (Bool × Nat)) : List Nat := (l.filter Prod.fst).map Prod.snd

/-- A word faults with the cause whose condition holds; of several, the spec names none as first, and
the one recorded is a free choice among them (log entry 22). -/
def faultAny (s : State) : List Nat → StartRes
  | [c] => .fault s c
  | cs => .fault s.draw.2 (cs.getD (s.draw.1.toNat % cs.length) 0)

/-- Run `k` when no condition of the list holds. -/
def checked (s : State) (l : List (Bool × Nat)) (k : StartRes) : StartRes :=
  match causes l with
  | [] => k
  | c :: cs => faultAny s (c :: cs)

/-- An access of n bytes at local address a, for elements of `es` bytes (R72). -/
def State.access (s : State) (g a n es : Nat) : List (Bool × Nat) :=
  [(!s.inShare g a n, 0x01), (a % es != 0, 0x02)]

/-! ### Scalar load and store (R145) -/

/-- s.ld (R145). -/
def sLdStart (s : State) (g j : Nat) (e : QEntry) : StartRes :=
  let a := e.addrOff (fld e.w 27 4) 20 (fld e.w 0 20)
  checked s (s.access g a 4 4) <|
  .done (s.modShare g j fun h => h.landS (fld e.w 31 5) (BitVec.ofNat 32 (leNat (h.read a 4)))) 1

/-- s.st (R145). -/
def sStStart (s : State) (g j : Nat) (e : QEntry) : StartRes :=
  let a := e.addrOff (fld e.w 27 4) 20 (fld e.w 0 20)
  checked s (s.access g a 4 4) <|
  .done (s.writeShare g j a (leBytes 4 (e.sv (fld e.w 31 5)))) 1

/-- sync.signal (R147). -/
def syncSignalStart (s : State) (g _j : Nat) (e : QEntry) : StartRes :=
  if s.ownsObj g (syncObj e) then .done (s.syncSet (syncObj e) (BitVec.ofNat 32 (e.sv (syncReg e)))) 0
  else .fault s 0x28

/-- sync.add (R147). -/
def syncAddStart (s : State) (g _j : Nat) (e : QEntry) : StartRes :=
  if s.ownsObj g (syncObj e) then .done (s.syncAdd (syncObj e) (BitVec.ofNat 32 (e.sv (syncReg e)))) 0
  else .fault s 0x28

/-- sync.rd (R147): the pending destination receives the value (R134). -/
def syncRdStart (s : State) (g j : Nat) (e : QEntry) : StartRes :=
  if s.ownsObj g (syncObj e) then .done (s.modShare g j fun h => h.landS (syncReg e) (s.syncVal (syncObj e))) 0
  else .fault s 0x28

/-- sync.wait (R147); State.syncHeld says when it waits for a place (R149). -/
def syncWaitStart (site : Site) (s : State) (g _j : Nat) (e : QEntry) : StartRes :=
  let obj := syncObj e
  let target := BitVec.ofNat 32 (e.sv (syncReg e))
  let blocks := bitOf e.w 14
  if !s.ownsObj g obj then .fault s 0x28
  else if syncReady (s.syncVal obj) target then .done s 0
  else
    let s := { s with waiters := s.waiters ++ [.word obj target site blocks (wPost e.w) e.stage] }
    if blocks then .keep s else .later s

/-! ### Meanings -/

def execSLd (at_ : Site) (act : Act) (w : W64) (s : State) : Outcome :=
  .next (s.engineWord at_ act w 1 0x30 sLdStart)

def execSSt (at_ : Site) (act : Act) (w : W64) (s : State) : Outcome :=
  .next (s.engineWord at_ act w 1 0x31 sStStart)

def execSyncSignal (at_ : Site) (act : Act) (w : W64) (s : State) : Outcome :=
  .next (s.engineWord at_ act w 3 0x40 syncSignalStart)

def execSyncAdd (at_ : Site) (act : Act) (w : W64) (s : State) : Outcome :=
  .next (s.engineWord at_ act w 3 0x41 syncAddStart)

def execSyncWait (at_ : Site) (act : Act) (w : W64) (s : State) : Outcome :=
  .next (s.engineWord at_ act w 3 0x42 (syncWaitStart at_))

def execSyncRd (at_ : Site) (act : Act) (w : W64) (s : State) : Outcome :=
  .next (s.engineWord at_ act w 3 0x43 syncRdStart)

end Sys2Proof.Machine
end

