-- ==== Sys2Proof/Machine/Movement.lean ====
section
/-! DEFINITION. The movement words (R150 to R154): transfer lists, halo links, queue ports, and the
submission of narrow-engine and Mill descriptors (R82, R102, R103, R116, R117, R209, R210). -/

namespace Sys2Proof.Machine

/-- A word that submits work: inside a fused body it finishes with the work it submitted (R189),
otherwise at once (Table 7.2). -/
def submitted (e : QEntry) (s : State) : StartRes := if e.stage.isNone then .done s 0 else .later s

/-! ### Transfer lists (R102, R103, R151) -/

/-- dma.get and dma.put (R102, R103, R151). -/
def dmaStart (get : Bool) (site : Site) (s : State) (g j : Nat) (e : QEntry) : StartRes :=
  let n := g / 64
  if s.listBad g e then .fault s 0x23
  else
    let l : DmaList := { site := site, ctx := (s.ctxOf g j).getD 0, id := (s.clu n).nextId, index := e.index,
                         get := get, base := listBase e, count := listCount e, ticket := wPost e.w, stage := e.stage }
    .later (s.modClu n fun k => { k with lists := k.lists ++ [l], nextId := k.nextId + 1 })

/-! ### Halo links (R153) -/

/-- halo.send (R153). -/
def haloSendStart (s : State) (g j : Nat) (e : QEntry) : StartRes :=
  let i := fld e.w 34 2
  let a := e.av (fld e.w 30 4)
  let n := e.sv (fld e.w 25 5)
  match (s.share g j).halo i with
  | none => .fault s 0x29
  | some l =>
    if l.incoming then .fault s 0x29
    else checked s [(n == 0 || decide (l.size < n), 0x29), (!s.inShare g a n, 0x01)] <| match s.peerOf g j l.peer with
      | none => .fault s 0x29
      | some (pg, pj) =>
        let s := (s.wakeCluster (pg / 64)).writeShare pg pj (l.buf + l.count % 2 * l.size) ((s.share g j).read a n)
        let s := s.modShare g j fun h =>
          { h with halos := Tbl.set none h.halos i (some { l with count := l.count + 1 }) }
        .done (s.syncAdd l.data 1) 0

/-- halo.recv (R153): the oldest unreleased buffer, if any, is released, and FREE counts. -/
def haloRecvStart (s : State) (g j : Nat) (e : QEntry) : StartRes :=
  let i := fld e.w 34 2
  match (s.share g j).halo i with
  | none => .fault s 0x29
  | some l =>
    if !l.incoming then .fault s 0x29
    else
      let sent := match s.peerOf g j l.peer with
        | none => 0
        | some (pg, pj) => match (s.share pg pj).halo l.peerLink with
          | none => 0
          | some r => r.count
      let s := s.modShare g j fun h =>
        { h with halos := Tbl.set none h.halos i
                   (some { l with count := if l.count < sent then l.count + 1 else l.count }) }
      .done (s.syncAdd l.free 1) 0

/-! ### Queue ports (R154, R209, R210) -/

/-- Replace edge k of Ropewalk r. -/
def State.setEdge (s : State) (r k : Nat) (x : Edge) : State :=
  s.modRope r fun rp => { rp with edges := rp.edges.set k x }

/-- Base of the round of message k at a consumer (R209). -/
def Edge.roundBase (x : Edge) (k : Nat) : Nat := x.buf + k % x.rounds * (x.pnum * x.slot)

/-- Store a message of producer p in round k of one consumer's share (R209): whole, or cut into pieces. -/
def Edge.place (x : Edge) (p k : Nat) (bs : Bytes) (h : ShareSt) : ShareSt :=
  if x.unit = 0 then h.write (x.roundBase k + p * x.slot) bs
  else (List.range (bs.length / x.unit)).foldl
    (fun h q => h.write (x.roundBase k + (q * x.pnum + p) * x.unit) (slice bs (q * x.unit) x.unit)) h

/-- q.send (R154, R209, R210). -/
def qSendStart (s : State) (g j : Nat) (e : QEntry) : StartRes :=
  let a := e.av (fld e.w 29 4)
  let n := e.sv (fld e.w 24 5)
  match s.portOf g j e Edge.producer with
  | none => .fault s 0x2A
  | some (r, k, x, p) =>
    checked s [(n == 0 || decide (x.slot < n) || (x.unit != 0 && n % x.unit != 0), 0x2A), (!s.inShare g a n, 0x01)] <|
      let bs := (s.share g j).read a n
      let m := Tbl.get 0 x.sent p
      let s := s.each (List.range x.cnum) fun s i => match s.peerOf g j (x.cfirst + i) with
        | none => s
        | some (pg, pj) => (s.wakeCluster (pg / 64)).modShare pg pj (x.place p m bs)
      .done (s.setEdge r k { x with sent := Tbl.set 0 x.sent p (m + 1),
                                    lens := Tbl.set 0 x.lens (m % x.rounds * x.pnum + p) n }) 0

/-- q.recv (R154, R210). -/
def qRecvStart (s : State) (g j : Nat) (e : QEntry) : StartRes :=
  match s.portOf g j e Edge.consumer with
  | none => .fault s 0x2A
  | some (r, k, x, i) =>
    let m := Tbl.get 0 x.recv i
    let len := ((List.range x.pnum).map fun p => Tbl.get 0 x.lens (m % x.rounds * x.pnum + p)).foldl (· + ·) 0
    let s := s.modShare g j fun h =>
      (h.landA (fld e.w 29 4) (BitVec.ofNat 40 (x.roundBase m))).landS (fld e.w 24 5) (BitVec.ofNat 32 len)
    .done (s.setEdge r k { x with recv := Tbl.set 0 x.recv i (m + 1) }) 0

/-- q.rel (R154, R210). -/
def qRelStart (s : State) (g j : Nat) (e : QEntry) : StartRes :=
  match s.portOf g j e Edge.consumer with
  | none => .fault s 0x2A
  | some (r, k, x, i) =>
    let m := Tbl.get 0 x.rel i
    if m < Tbl.get 0 x.recv i then .done (s.setEdge r k { x with rel := Tbl.set 0 x.rel i (m + 1) }) 0
    else .fault s 0x2A

/-! ### Requests (R82, R116, R117, R152, R385) -/

/-- nar.req (R82, R152); a failed narrow engine stops the context (R385). -/
def narReqStart (site : Site) (s : State) (g j : Nat) (e : QEntry) : StartRes :=
  let n := g / 64
  let a := descAddr e
  let c := (s.ctxOf g j).getD 0
  if a % 32 ≠ 0 ∨ !s.inShare g a 32 then .fault s 0x27
  else if Tbl.get 0 s.narrowMap n = 2 then .later (s.unitStops c)
  else
    let r : NarReq := { site := site, ctx := c, index := e.index, raw := (s.share g j).read a 32, stage := e.stage }
    submitted e (s.modClu n fun k => { k with narQ := k.narQ ++ [r] })

/-- Streams that SERVES names, resolved on a share: for scope 2 those of the Docket last named that is in flight (R108,
R197); a named stream of another partition is
not reached (R442). -/
def State.servesOf (s : State) (g j serves : Nat) : List Nat :=
  match fld serves 12 2 with
  | 1 =>
    let i := serves % 4096
    match (s.clu (g / 64)).part with
    | some p => if (s.entry i).belongs p then [i] else []
    | none => []
  | 2 => match (s.share g j).named.findSome? fun x => s.docket x.1 x.2 with
    | some d => d.entries.map DEntry.stream
    | none => []
  | _ => []

/-- A Mill word (R116, R117, R152): `op` is the operation its opcode names. -/
def millStart (op : Nat) (site : Site) (s : State) (g j : Nat) (e : QEntry) : StartRes :=
  let n := g / 64
  let a := descAddr e
  let c := (s.ctxOf g j).getD 0
  if a % 64 ≠ 0 ∨ !s.inShare g a 64 then .fault s 0x26
  else
    let raw := (s.share g j).read a 64
    let d : MillDesc := { id := s.millNext, site := site, ctx := c, index := e.index, op := op,
                          raw := raw, serves := s.servesOf g j (fieldAt raw 22 2), stage := e.stage }
    submitted e ({ s with millNext := s.millNext + 1 }.modClu n fun k => { k with millSub := k.millSub ++ [d] })

/-! ### Meanings -/

def execDmaGet (at_ : Site) (act : Act) (w : W64) (s : State) : Outcome :=
  .next (s.engineWord at_ act w 3 0x50 (dmaStart true at_))

def execDmaPut (at_ : Site) (act : Act) (w : W64) (s : State) : Outcome :=
  .next (s.engineWord at_ act w 3 0x51 (dmaStart false at_))

def execHaloSend (at_ : Site) (act : Act) (w : W64) (s : State) : Outcome :=
  .next (s.engineWord at_ act w 3 0x52 haloSendStart)

def execHaloRecv (at_ : Site) (act : Act) (w : W64) (s : State) : Outcome :=
  .next (s.engineWord at_ act w 3 0x53 haloRecvStart)

def execQSend (at_ : Site) (act : Act) (w : W64) (s : State) : Outcome :=
  .next (s.engineWord at_ act w 3 0x54 qSendStart)

def execQRecv (at_ : Site) (act : Act) (w : W64) (s : State) : Outcome :=
  .next (s.engineWord at_ act w 3 0x55 qRecvStart)

def execQRel (at_ : Site) (act : Act) (w : W64) (s : State) : Outcome :=
  .next (s.engineWord at_ act w 3 0x56 qRelStart)

def execNarReq (at_ : Site) (act : Act) (w : W64) (s : State) : Outcome :=
  .next (s.engineWord at_ act w 3 0x57 (narReqStart at_))

def execMillGemv (at_ : Site) (act : Act) (w : W64) (s : State) : Outcome :=
  .next (s.engineWord at_ act w 3 0x58 (millStart 0 at_))

def execMillGather (at_ : Site) (act : Act) (w : W64) (s : State) : Outcome :=
  .next (s.engineWord at_ act w 3 0x59 (millStart 1 at_))

def execMillScatterAdd (at_ : Site) (act : Act) (w : W64) (s : State) : Outcome :=
  .next (s.engineWord at_ act w 3 0x5A (millStart 2 at_))

def execMillReduce (at_ : Site) (act : Act) (w : W64) (s : State) : Outcome :=
  .next (s.engineWord at_ act w 3 0x5B (millStart 3 at_))

def execMillCopy (at_ : Site) (act : Act) (w : W64) (s : State) : Outcome :=
  .next (s.engineWord at_ act w 3 0x5C (millStart 4 at_))

def execMillFill (at_ : Site) (act : Act) (w : W64) (s : State) : Outcome :=
  .next (s.engineWord at_ act w 3 0x5D (millStart 5 at_))

end Sys2Proof.Machine
end

