-- ==== Sys2Proof/Machine/Docket.lean ====
section
/-! DEFINITION. Dockets: composition (R193 to R196), the stream-state and Ledger words (R184 to R186, R197,
R213), and the commit of a step (R18, R198, R204, R214, R215). -/

namespace Sys2Proof.Machine

/-! ### Composition (R194 to R196) -/

/-- Share j of core g has an ldg.take waiting for a Docket of its Ropewalk; it may wait in a cluster whose clock has
stopped (R418, R419). -/
def State.takeWaits (s : State) (g j : Nat) : Bool :=
  s.issues g j && (s.share g j).headReady 3 && (match (s.share g j).queue 3 with
    | e :: _ => wOp e.w == 0xC2 && !e.off && s.waitsItself g 3 j e
    | [] => false)

/-- Some first-stage core of Ropewalk r has an ldg.take waiting (R194). -/
def State.takeWaiting (s : State) (rp : Rope) : Bool :=
  match s.ctx rp.ctx, rp.stages.head? with
  | some x, some st => (List.range st.2).any fun i => match x.cores[st.1 + i]? with
    | some gj => s.takeWaits gj.1 gj.2
    | none => false
  | _, _ => false

/-- The reset mark of the frame at the front of link j's source (R192). -/
def Entry.frontMark (e : Entry) (j : Nat) : Bool :=
  if j = 0 then e.marks.headD false else (e.chainQ (j - 1)).marks.headD false

/-- The Docket entry of stream i for link j (Table 9.5). -/
def State.docketEntry (s : State) (i j : Nat) : DEntry :=
  let e := s.entry i
  let last := j + 1 == e.links
  let held := (((List.range (e.links - 1)).filter (j ≤ ·)).map fun q => (e.chainQ q).fill).foldl (· + ·) 0
  let src := if j = 0 then e.iqBase.toNat + e.iqRd * e.slotBytes else e.cqAddr (j - 1) (e.chainQ (j - 1)).rd
  { stream := i, reset := e.frontMark j && (!last || e.step == 0), first := !last || e.step == 0,
    unbound := !s.countsBound e, link := j, pos := e.pos + held, step := if last then e.step else 0,
    headroom := s.headroomOf e, inAddr := BitVec.ofNat 40 src,
    outAddr := if last then 0 else BitVec.ofNat 40 (e.cqAddr j ((e.chainQ j).rd + (e.chainQ j).fill)),
    state := e.state }

/-- Candidate order (R195): headroom, then distance from ROT_r. -/
def candLess (rot : Nat) (a b : DEntry) : Bool :=
  decide (a.headroom.toNat < b.headroom.toNat) ||
    (a.headroom == b.headroom && decide ((a.stream + 4096 - rot) % 4096 < (b.stream + 4096 - rot) % 4096))

/-- Insert in candidate order. -/
def candInsert (rot : Nat) (x : DEntry) : List DEntry → List DEntry
  | [] => [x]
  | y :: ys => if candLess rot x y then x :: y :: ys else y :: candInsert rot x ys

/-- Streams ready for Ropewalk r that may enter a Docket, with their links (the first, should a chain name r
twice); a parking stream enters none
(R192, R200). -/
def State.candidates (s : State) (r : Nat) : List DEntry :=
  s.entries.filterMap fun x =>
    if x.2.parking then none
    else match (List.range x.2.links).find? fun j => x.2.chain[j]? == some r && s.readyFor x.1 j with
      | some j => some (s.docketEntry x.1 j)
      | none => none

/-- May a Docket of r be composed: limit, fault and retirement (R194). -/
def State.mayCompose (s : State) (r : Nat) (rp : Rope) : Bool :=
  s.takeWaiting rp && decide (s.inflight r < rp.inflight) && (match s.ctx rp.ctx with
    | some x => !x.faulted && !x.retiring
    | none => false)

/-- Clusters in which the stages of context x's Ropewalk rp run. -/
def Rope.clusters (rp : Rope) (x : Ctx) : List Nat :=
  (rp.stages.flatMap fun st => (List.range st.2).filterMap fun i =>
    (x.cores[st.1 + i]?).map fun (gj : Nat × Nat) => gj.1 / 64).eraseDups

/-- A Docket reaches the clusters of its Ropewalk, which wake (R419, R420). -/
def State.wakeRope (s : State) (rp : Rope) : State :=
  match s.ctx rp.ctx with
  | some x => s.each (rp.clusters x) fun s n => s.wakeCluster n
  | none => s

/-- Builder b visits its next Ropewalk and composes at most one Docket (R194 to R196). -/
def State.visit (s : State) (b : Nat) : State :=
  let k := Tbl.get 0 s.builders b
  let r := 8 * k + b
  let s := { s with builders := Tbl.set 0 s.builders b ((k + 1) % 8) }
  match s.rope r with
  | none => s
  | some rp =>
    let cand := s.candidates r
    if !s.mayCompose r rp || cand.isEmpty then s
    else
      let chosen := (cand.foldl (fun l x => candInsert rp.rot x l) []).take rp.bmax
      let d : Docket := { rope := r, seq := rp.seq, builder := b, time := s.tb.count, entries := chosen }
      let s := s.each cand fun s x => s.modEntry x.stream fun e => { e with headroom := x.headroom }
      let rot := match chosen.getLast? with | some x => (x.stream + 1) % 4096 | none => rp.rot
      let s := { s with dockets := s.dockets ++ [d] }.wakeRope rp |>.setRope r (some { rp with seq := rp.seq + 1, rot := rot })
      let s := ((s.setReg (ldgBase + 0x400 + 4 * r) d.seq).bump (ldgBase + 0x20 + 4 * b) 0 32 1).bump (ldgBase + 0x40 + 4 * b) 0 32 chosen.length
      s.each chosen fun s x => s.reval x.stream

def execDocketBuilderVisit (b : Fin 8) (s : State) : Outcome := .next (s.visit b.val)

/-- The Docket's bytes (Tables 9.4 and 9.5). -/
def DEntry.toBytes (x : DEntry) : Bytes :=
  leBytes 2 x.stream ++ leBytes 1 (b2n x.reset + 2 * b2n x.first + 4 * b2n x.unbound) ++ leBytes 1 x.link ++
    leBytes 4 x.pos ++ leBytes 2 x.step ++ leBytes 2 0 ++ leBytes 4 x.headroom.toNat ++
    leBytes 5 x.inAddr.toNat ++ leBytes 5 x.outAddr.toNat ++ leBytes 5 x.state.toNat ++ [0]
def Docket.toBytes (d : Docket) : Bytes :=
  leBytes 4 d.seq.toNat ++ leBytes 1 d.rope ++ leBytes 1 d.entries.length ++ leBytes 1 d.builder ++ [0] ++
    leBytes 6 d.time.toNat ++ leBytes 18 0 ++ d.entries.flatMap DEntry.toBytes

/-- The share names a Docket (R197). -/
def State.nameDocket (s : State) (g j r : Nat) (seq : Word) : State :=
  s.modShare g j fun h => { h with named := (r, seq) :: h.named.filter fun x => (s.docket x.1 x.2).isSome }

/-! ### The commit of a step (R198) -/

/-- One frame leaves link j's source (R198); a chunk that link 0 consumes owes a credit (R311). -/
def Entry.consume (e : Entry) (j : Nat) : Entry :=
  if j = 0 then
    if e.iqCount = 0 then e
    else { e with iqRd := (e.iqRd + 1) % e.iqDepth, iqCount := e.iqCount - 1, marks := e.marks.drop 1,
                  credits := e.credits + 1 }
  else
    let q := e.chainQ (j - 1)
    if q.fill = 0 then e
    else e.setChainQ (j - 1) { fill := q.fill - 1, rd := (q.rd + 1) % 16, marks := q.marks.drop 1 }

/-- One frame with a mark enters chain queue j (R198). -/
def Entry.produce (e : Entry) (j : Nat) (mark : Bool) : Entry :=
  let q := e.chainQ j
  e.setChainQ j { q with fill := q.fill + 1, marks := q.marks ++ [mark] }

/-- The reset mark of the chunk for POS, wherever its frame stands; false while it has not arrived
(R192). -/
def Entry.posMark (e : Entry) : Bool :=
  match ((List.range e.links).reverse).find? fun j => decide (0 < e.source j) with
  | some j => e.frontMark j
  | none => false

/-- A frame commit of the last link: consume the frame, advance POS, restart STEP, take the new mark, and
hand the frame's samples to the provenance chain (R198, R409). -/
def State.frameCommit (s : State) (i j : Nat) : State :=
  let e := (s.entry i).consume j
  let e := { e with pos := e.pos + 1, step := 0,
                    prov := { e.prov with waiting := e.prov.waiting ++ [(e.pos, e.prov.frame, s.tb.count)], frame := [] } }
  let s := s.setEntry i { e with resetPend := e.posMark }
  if posLimit ≤ (s.entry i).pos then s.sequenceEnd i else s

/-- Samples of the pending step: exactly SAMPLES of them; a sample the request did not produce is free
(log entry 25). -/
def State.pendSamples (s : State) (i n : Nat) : Bytes × State :=
  let e := s.entry i
  let have_ := match e.pend with | some p => p.samples | none => []
  let want := n * e.sampleBytes
  let r := State.freeBytes (want - have_.length) s
  (have_.take want ++ r.1, r.2)

/-- Partition address of the k-th sample after OR_WR (R441). -/
def Entry.nextSample (e : Entry) (k : Nat) : Nat := e.sampleAddr (e.orWr + BitVec.ofNat 32 k).toNat

/-- Write samples to the ring from count OR_WR (R441). -/
def State.writeRing (s : State) (i : Nat) (bs : Bytes) : State :=
  let e := s.entry i
  let p := s.part (e.part.getD 0)
  s.each (List.range (bs.length / e.sampleBytes)) fun s k =>
    (s.writePart p .normal (e.nextSample k) (slice bs (k * e.sampleBytes) e.sampleBytes)).1

/-- Lines that would refuse their part of the commit of entry x: of its stores and, on the last link, of its samples
(R99). -/
def State.refusingLines (s : State) (rp : Rope) (x : DEntry) : List Nat :=
  let e := s.entry x.stream
  let p := s.part (e.part.getD 0)
  (x.stores.flatMap fun st => s.partlyBad p (x.state.toNat + st.1) st.2.length) ++
    (if x.link + 1 = e.links then (List.range rp.samples).flatMap fun k => s.partlyBad p (e.nextSample k) e.sampleBytes
     else [])

/-- A step that a line refuses commits nothing (R18, R99): the lines are logged and ECC_UNCORRECTABLE goes to the
stream's fault field (log entry 105). -/
def State.refuseStep (s : State) (i : Nat) (lines : List Nat) : State :=
  let p := s.part ((s.entry i).part.getD 0)
  (s.each lines fun s l => (s.readLine p .normal (l * 128)).1).faultStream i stEccUncorrectable

/-- The narrow engine promotes the pending history (R84), in the slot of every cluster that holds one of the stream (DESIGN
CHOICE, log entry 99). -/
def State.promote (s : State) (i : Nat) : State :=
  match (s.entry i).pend with
  | none => s
  | some p =>
    let s := match p.hist with
      | none => s
      | some h => s.each (List.range 32) fun s n =>
          if (s.clu n).slots.any (fun (x : Slot) => x.stream == i) then
            s.modClu n fun k =>
              { k with slots := k.slots.map fun (x : Slot) => if x.stream = i then { x with hist := h } else x }
          else s
    s.dropPend i

/-- The effects of the commit of entry x of a Docket of Ropewalk rp (R18, R186, R198, R214, R215). -/
def State.commitStep (s : State) (rp : Rope) (x : DEntry) : State :=
  let i := x.stream
  let e := s.entry i
  let p := s.part (e.part.getD 0)
  let last := x.link + 1 == e.links
  let s := s.each x.stores fun s st => (s.writePart p .normal (x.state.toNat + st.1) st.2).1
  let s := if last then
      let r := s.pendSamples i rp.samples
      let s := (r.2.writeRing i r.1).promote i
      let s := s.modEntry i fun e =>
        { e with orWr := e.orWr + BitVec.ofNat 32 rp.samples, step := min (e.step + 1) 0xFFFF,
                 prov := { e.prov with frame := e.prov.frame ++ r.1 } }
      if x.returned = some true ∨ rp.steps ≤ e.step + 1 then s.frameCommit i x.link else s
    else
      let mark := e.frontMark x.link
      s.modEntry i fun e => (e.consume x.link).produce x.link mark
  let s := s.modEntry i fun e => { e with commits := e.commits + 1 }
  let s := s.modCtx rp.ctx fun c => { c with steps := c.steps + 1 }
  let s := s.reval i
  if last then s.urgency i else s

/-- Entry k of a Docket is resolved: retirement and the ldg.done words follow (R185, R197). -/
def State.resolveEntry (s : State) (r : Nat) (seq : Word) (k : Nat) : State :=
  let s := s.modDocket r seq fun d => { d with entries := d.entries.modify k fun x => { x with resolved := true, stores := [] } }
  (s.resolveWords r seq).retireDone r

/-- A returned, unresolved entry commits or resolves without commit when it can: dropped, its stream
CLOSED or its fault field set, a link without samples, or its pending narrow step present (R185, R214). -/
def State.tryEntry (s : State) (r : Nat) (seq : Word) (k : Nat) : State :=
  match s.rope r, s.docket r seq with
  | some rp, some d => match d.entries[k]? with
    | none => s
    | some x =>
      let e := s.entry x.stream
      let last := x.link + 1 == e.links
      if x.resolved || x.returned.isNone then s
      else if x.dropped || e.status == .closed then s.resolveEntry r seq k
      else if e.fault != 0 then
        let s := if last then s.dropPend x.stream else s
        s.resolveEntry r seq k
      else if last && decide (0 < rp.samples) && e.pend.isNone then s
      else if !(s.refusingLines rp x).isEmpty then
        (s.refuseStep x.stream (s.refusingLines rp x)).resolveEntry r seq k
      else (s.commitStep rp x).resolveEntry r seq k
  | _, _ => s

/-- ENTRY_COMMIT: a returned entry whose pending step exists commits (R198, R214). -/
def execEntryCommit (rw : Fin 64) (seq : Word) (entry : Fin 128) (s : State) : Outcome :=
  .next (s.tryEntry rw.val seq entry.val)

/-! ### The words of class 0xC (R184 to R186, R213) -/

/-- The Docket entry that s_SK and s_SE name on a share: current, inside the Docket, not yet returned. -/
def State.namedEntry (s : State) (g j : Nat) (seq : Word) (k : Nat) : Option (Nat × DEntry) :=
  match s.ropeOf g j with
  | none => none
  | some (r, _) => match s.docket r seq with
    | none => none
    | some d => match d.entries[k]? with
      | none => none
      | some x => if x.returned.isNone then some (r, x) else none

/-- st.load and st.store (R184, R186). -/
def stMoveStart (load : Bool) (s : State) (g j : Nat) (e : QEntry) : StartRes :=
  let w := e.w
  let a := e.av (fld w 32 4)
  let seq := BitVec.ofNat 32 (e.sv (fld w 27 5))
  let k := e.sv (fld w 22 5)
  let off := e.sv (fld w 17 5)
  let len := e.sv (fld w 12 5)
  match s.namedEntry g j seq k with
  | none => .fault s 0x79
  | some (r, x) =>
    let en := s.entry x.stream
    checked s [(len == 0 || decide (65536 < len) || decide (en.stateSize.toNat < off + len), 0x7A),
        (!s.inShare g a len, 0x01)] <|
      let s := s.nameDocket g j r seq
      if load then
        let rd := s.readPart (s.part (en.part.getD 0)) .normal (x.state.toNat + off) len
        .done (rd.1.writeShare g j a rd.2.1) 0
      else if x.dropped then .done s 0
      else
        let bs := (s.share g j).read a len
        .done (s.modDocket r seq fun d =>
          { d with entries := d.entries.modify k fun x => { x with stores := x.stores ++ [(off, bs)] } }) 0

/-- ldg.take (R184, R185, R196). -/
def ldgTakeStart (s : State) (g j : Nat) (e : QEntry) : StartRes :=
  let a := e.av (fld e.w 32 4)
  let i := (s.share g j).logical
  match s.ropeOf g j with
  | none => .fault s 0x78
  | some (r, rp) =>
    checked s [(!rp.atFirst i, 0x78), (!s.inShare g a docketMax, 0x01)] <| match s.nextDocket r i with
      | none => .keep s
      | some d =>
        let s := (s.writeShare g j a d.toBytes).nameDocket g j r d.seq
        let s := s.modShare g j fun h =>
          { h.landS (fld e.w 27 5) (BitVec.ofNat 32 d.entries.length) with taken := h.taken + 1 }
        let s := s.modDocket r d.seq fun d => { d with taken := d.taken ++ [i] }
        .done (s.retireDone r) 0

/-- The entries of an ldg.done word as (index, FRAME, high bits clear) (R185). -/
def doneEntries (bs : Bytes) (n : Nat) : List (Nat × Bool × Bool) :=
  (List.range n).map fun i =>
    let w := fieldAt bs (4 * i) 4
    (fld w 0 7, bitOf w 7, w / 256 == 0)

/-- ldg.done (R184, R185): each entry is returned, and commits or resolves as soon as it can; the word
posts when all its entries have resolved. -/
def ldgDoneStart (s : State) (g j : Nat) (e : QEntry) : StartRes :=
  let w := e.w
  let a := e.av (fld w 32 4)
  let n := e.sv (fld w 27 5)
  let seq := BitVec.ofNat 32 (e.sv (fld w 22 5))
  let i := (s.share g j).logical
  match s.ropeOf g j with
  | none => .fault s 0x78
  | some (r, rp) =>
    if !rp.atLast i then .fault s 0x78
    else match s.docket r seq with
      | none => .fault s 0x79
      | some d =>
        checked s [(n == 0 || decide (128 < n), 0x7B), (!s.inShare g a (4 * n), 0x01)] <|
          let xs := doneEntries ((s.share g j).read a (4 * n)) n
          let idx := xs.map Prod.fst
          let bad := xs.any (fun x => !x.2.2 || (match d.entries[x.1]? with
            | some y => y.returned.isSome
            | none => true)) || idx.eraseDups.length != idx.length
          if bad then .fault s 0x7B
          else
            let s := s.nameDocket g j r seq
            let s := s.each xs fun s x => s.modDocket r seq fun d =>
              { d with entries := d.entries.modify x.1 fun y => { y with returned := some x.2.1 } }
            let word : DoneWord := { rope := r, seq := seq, entries := idx, ticket := wPost w, stage := e.stage }
            let s := s.modShare g j fun h => { h with doneWords := h.doneWords ++ [word] }
            .later (s.each idx fun s k => s.tryEntry r seq k)

/-! ### Meanings -/

def execStLoad (at_ : Site) (act : Act) (w : W64) (s : State) : Outcome :=
  .next (s.engineWord at_ act w 3 0xC0 (stMoveStart true))

def execStStore (at_ : Site) (act : Act) (w : W64) (s : State) : Outcome :=
  .next (s.engineWord at_ act w 3 0xC1 (stMoveStart false))

def execLdgTake (at_ : Site) (act : Act) (w : W64) (s : State) : Outcome :=
  .next (s.engineWord at_ act w 3 0xC2 ldgTakeStart)

def execLdgDone (at_ : Site) (act : Act) (w : W64) (s : State) : Outcome :=
  .next (s.engineWord at_ act w 3 0xC3 ldgDoneStart)

end Sys2Proof.Machine
end

