-- ==== Sys2Proof/Machine/FloorPlan.lean ====
section
/-! DEFINITION. The floor-plan record (R380 to R382, Table 19.4). -/

namespace Sys2Proof.Machine

/-- Unit states of n units, four to a byte. -/
def mapBytes (m : Tbl Nat) (n : Nat) : Bytes :=
  (List.range (n / 4)).map fun b =>
    BitVec.ofNat 8 ((List.range 4).map fun i => Tbl.get 0 m (4 * b + i) % 4 * 4 ^ i).sum

/-- How many of n units are present. -/
def presentCount (m : Tbl Nat) (n : Nat) : Nat := ((List.range n).filter fun i => Tbl.get 0 m i == 0).length

/-- Bytes 32 to 615 of the record: the three maps. -/
def State.mapRecord (s : State) : Bytes := mapBytes s.coreMap 2048 ++ mapBytes s.millMap 256 ++ mapBytes s.narrowMap 32

/-- Generation that stage 5 sets (R382). -/
def State.planGeneration (s : State) : Word := BitVec.ofNat 32 (leNat (shake256 4 s.mapRecord))

/-- The record (Table 19.4); zeros before the end of stage 5 (R395). -/
def State.floorRecord (s : State) : Bytes :=
  if !s.planned then List.replicate 640 0
  else
    leBytes 4 0x4E414C50 ++ leBytes 2 1 ++ leBytes 1 (b2n Config.gradeP) ++ leBytes 1 0 ++
      leBytes 4 s.generation.toNat ++ leBytes 2 (presentCount s.coreMap 2048) ++ leBytes 2 (presentCount s.millMap 256) ++
      leBytes 1 (presentCount s.narrowMap 32) ++ leBytes 1 0 ++ leBytes 6 s.planTime.toNat ++ leBytes 8 0 ++
      s.mapRecord ++ leBytes 24 0

/-- A stage report (Table 19.2). -/
def State.stageReport (s : State) (n : Nat) : Bytes :=
  let x : Stage := Tbl.get {} s.stages n
  if x.result = 0 then List.replicate 32 0
  else
    leBytes 1 n ++ leBytes 1 x.result ++ [x.cause, x.kind] ++ leBytes 2 x.unit.toNat ++ leBytes 2 x.marked ++
      leBytes 4 x.startUs.toNat ++ leBytes 4 x.endUs.toNat ++ leBytes 6 x.time.toNat ++ leBytes 2 0 ++
      leBytes 4 x.detail.toNat ++ leBytes 4 0

/-- Stages with a given result, as a mask. -/
def State.stageMask (s : State) (r : Nat) : Nat :=
  maskOf ((List.range 8).filter fun n => (Tbl.get ({} : Stage) s.stages n).result == r)

/-- The stage code: the highest n for which stages 0 to n are all done (Table 19.9). -/
def State.stageLevel (s : State) : Nat := ((List.range 8).takeWhile fun n => bitOf (s.stageMask 2) n).length - 1

end Sys2Proof.Machine
end

