-- ==== Sys2Proof/Machine/Outputs.lean ====
section
/-! DEFINITION. The outputs (R19, R20, R35, R203, R204, R286 to R294, R314, R315): queued mask and binding
changes, draining, AES3 frames, and the disabling of an output. -/

namespace Sys2Proof.Machine

/-! ### Closing after a drain (R203, R204) -/

/-- A DRAINING stream whose ring is empty or has no drain, and that has nothing more to commit. -/
def State.drained (s : State) (i : Nat) : Bool :=
  let e := s.entry i
  e.status == .draining && s.settled i && (e.fill == 0 || e.bind == 0xFFFF)

/-- A stream that became unbound while DRAINING closes as soon as it can (R203, R204). -/
def State.afterUnbind (s : State) (i : Nat) : State := if s.undrainable i then s.closeUndrained i else s

/-- The ring of stream i is discarded, counted in DISCARDS and AUD.DISCARDS (R290, R294). -/
def State.discardRing (s : State) (i : Nat) : State :=
  let n := (s.entry i).fill
  ((s.modEntry i Entry.dropRing).bump (audBase + 0x108) 0 32 n).reval i

/-! ### Queued changes (R289, R290, R315, R366) -/

/-- The AES3 output that a change concerns through a binding, if any. -/
def State.bindOutput (s : State) (i : Nat) : Option Nat :=
  let pend := s.due.findSome? fun c => match c with
    | .bind k t => if k = i then some t else none
    | _ => none
  match bindTo (pend.getD (s.entry i).bind) with
  | .aes c => some (c / 2)
  | _ => none

/-- A binding takes effect: the output takes the stream, or holds it as the successor of one that is
DRAINING with SEQEND = 1 (R289). -/
def State.attach (s : State) (i : Nat) (t : BitVec 16) : State :=
  let e := s.entry i
  if e.status = .closed then s
  else
    let s := match bindTo t with
      | .aes c => s.modAchan c fun x =>
          if x.stream.isSome then { x with successor := some i } else { stream := some i }
      | .slot g k => s.modGroup g fun x =>
          if (Tbl.get none x.slots k).isSome then { x with succs := Tbl.set none x.succs k (some i) }
          else { x with slots := Tbl.set none x.slots k (some i), convs := Tbl.set {} x.convs k {} }
      | _ => s
    ((s.modEntry i fun e => { e with bind := t }).boundCheck t).urgency i

/-- Channels or slots of group g whose mask bit goes from 1 to 0. -/
def removedBits (old new : Nat) : List Nat := (List.range 64).filter fun k => bitOf old k && !bitOf new k

/-- The group of a binding that does not take effect is free again when nothing else holds it (R313). -/
def State.dropBind (s : State) (t : BitVec 16) : State :=
  match bindTo t with
  | .slot g _ => s.freeGroup g
  | _ => s

/-- A change takes effect. A stream that became DRAINING while its binding was queued cannot be bound (R203). -/
def State.applyChange (s : State) (c : Change) : State :=
  match c with
  | .bind i t => if (s.entry i).status = .draining then s.dropBind t else s.attach i t
  | .unbind i => (s.leaveOutput i).afterUnbind i
  | .mask g bits value =>
    let old : W64 := if g = 0 then s.slotMask.zeroExtend 64 else (s.group g).mask
    let new := (old &&& ~~~bits) ||| (value &&& bits)
    let stream (k : Nat) : Option Nat :=
      if g = 0 then (s.achan k).stream else Tbl.get none (s.group g).slots k
    let gone := (removedBits old.toNat new.toNat).filterMap stream
    let s := if g = 0 then { s with slotMask := new.truncate 16 }
      else (s.modGroup g fun x => { x with mask := new }).freeGroup g
    s.each gone fun s i => s.discardRing i

/-- The parts of a change that wait for an output frame (outputs not in CLK 0), and those that do not. -/
def State.splitChange (s : State) (c : Change) : List Change × List Change :=
  let late (o : Nat) : Bool := (s.out o).en && (s.out o).clk != 0
  let one (o : Option Nat) : List Change × List Change := match o with
    | some o => if late o then ([], [c]) else ([c], [])
    | none => ([c], [])
  match c with
  | .bind _ t => match bindTo t with
    | .aes ch => one (some (ch / 2))
    | _ => one none
  | .unbind i => one (s.bindOutput i)
  | .mask g bits value =>
    if g ≠ 0 then ([c], [])
    else
      let bitsOf (f : Nat → Bool) : W64 :=
        BitVec.ofNat 64 (maskOf ((List.range 16).filter fun ch => bitOf bits.toNat ch && f (ch / 2)))
      ([Change.mask 0 (bitsOf fun o => !late o) value], [Change.mask 0 (bitsOf late) value])

/-- Apply up to n queued changes in order, the rest staying queued meanwhile. -/
def State.applyQueue : Nat → State → State
  | 0, s => s
  | n + 1, s => match s.changes with
    | [] => s
    | c :: rest =>
      let s := { s with changes := rest }
      let p := s.splitChange c
      let s := s.each p.1 State.applyChange
      let late (c : Change) : Bool := match c with
        | .mask _ b _ => b != 0
        | _ => true
      State.applyQueue n { s with due := s.due ++ p.2.filter late }

/-- At a frame start every queued change applies, or becomes due at its output's next frame (R290). -/
def State.frameChanges (s : State) : State := s.applyQueue s.changes.length

/-- The part of a due change that output o takes, and what is left. -/
def State.dueFor (s : State) (o : Nat) (c : Change) : List Change × List Change :=
  match c with
  | .mask g bits value =>
    let mine : W64 := if g = 0 then bits &&& BitVec.ofNat 64 (3 * 4 ^ o) else 0
    let rest := bits &&& ~~~mine
    (if mine = 0 then [] else [Change.mask g mine value], if rest = 0 then [] else [Change.mask g rest value])
  | .bind _ t => if bindTo t = .aes (2 * o) ∨ bindTo t = .aes (2 * o + 1) then ([c], []) else ([], [c])
  | .unbind i => if s.bindOutput i = some o then ([c], []) else ([], [c])

/-- The first output frame after the frame start: due changes of output o apply, in order (R290). -/
def State.applyDue (s : State) (o : Nat) : State :=
  let parts := s.due.map (s.dueFor o)
  { s with due := parts.flatMap Prod.snd }.each (parts.flatMap Prod.fst) State.applyChange

/-! ### Draining (R20, R286, R287, R441) -/

/-- The next ring sample of stream i, none when the ring is empty: then UNDERRUNS and SLIP count and the
read index stays (R20). -/
def State.takeRing (s : State) (i : Nat) : State × Option Nat :=
  let e := s.entry i
  if e.fill = 0 then
    (s.setEntry i { e with underruns := satAdd32 e.underruns 1, slip := satAdd32 e.slip 1 }, none)
  else
    let r := s.readPart (s.part (e.part.getD 0)) .normal (e.sampleAddr e.orRd.toNat) e.sampleBytes
    (r.1.modEntry i fun e => { e with orRd := e.orRd + 1 }, some (leNat r.2.1))

/-- ρ in 8.24 (Table 15.6). -/
def rho824 (r : Nat × Nat) : Word := BitVec.ofNat 32 (r.1 * 2 ^ 24 / r.2)

/-- Ring samples that the filter spans: twice its group delay of 48 (Table 15.3; DEDUCED, log entry 12). -/
def filterSpan : Nat := 96

/-- A ring sample, or the zero inserted in its place, enters a converter's history (R20, R287). -/
def Conv.push (v : Conv) (fmt : Nat) (w : Option Nat) : Conv :=
  let x : Word := match w with
    | some w => toF32 (ofAudio fmt w)
    | none => 0
  { v with hist := (leBytes 4 x.toNat ++ v.hist).take (4 * filterSpan), zeros := (w.isNone :: v.zeros).take filterSpan }

/-- Ring samples enter a converter. -/
def State.feedConv (s : State) (i : Nat) (v : Conv) : Nat → State × Conv
  | 0 => (s, v)
  | n + 1 =>
    let r := s.takeRing i
    State.feedConv r.1 i (v.push (s.entry i).orFmt.toNat r.2) n

/-- The samples of a converter's history, newest first; what has not been filled is zero. -/
def Conv.samples (v : Conv) : List Num :=
  (List.range filterSpan).map fun k => f32 (BitVec.ofNat 32 (fieldAt v.hist (4 * k) 4))

/-- x lies within m × 2^k of y. -/
def Num.near (x y m : Num) (k : Int) : Bool :=
  let d := Num.maxAbs (x.add y.neg) (.fin false 0 0)
  d.isFin && !(m.mul (.fin false 1 k)).lt d

/-- The converter's output: a free value (R287, log entry 12) within the figures of Table 15.3 where the history alone
decides them: of a constant history the passband's 0.001 dB (1/8192 is 0.00106 dB), of one at half the ring rate the
stopband's 130 dB (2^-21 is 126 dB; bounds rounded up to powers of two). -/
def Conv.output (v : Conv) (rho : Word) : Num :=
  let y := f32 (Config.asrc v.hist rho v.phase)
  let l := v.samples
  let c := l.headD (.fin false 0 0)
  let m := Num.maxAbs c (.fin false 0 0)
  let steady := l.all fun x => x.eqv c
  let alternate := l.zipIdx.all fun x => x.1.eqv (if x.2 % 2 = 0 then c else c.neg)
  if steady && !y.near c m (-13) then c
  else if alternate && !steady && !y.near (.fin false 0 0) m (-21) then .fin false 0 0
  else y

/-- One output sample of stream i at ratio ρ: its exact value, and whether it used an inserted zero (R20, R286, R287). The
history is kept through a ratio of 1, whose word is the ring sample alone. At most `cap` ring samples are taken. -/
def State.drainSample (s : State) (i : Nat) (rho : Nat × Nat) (v : Conv) (cap : Nat) : State × Conv × Num × Bool :=
  let fmt := (s.entry i).orFmt.toNat
  if rho.1 = rho.2 then
    let r := s.takeRing i
    (r.1, v.push fmt r.2, (match r.2 with | some w => ofAudio fmt w | none => .fin false 0 0), r.2.isNone)
  else
    let total := v.phase + rho.2 * 2 ^ 24 / rho.1
    let r := s.feedConv i { v with phase := total % 2 ^ 24 } (min cap (total / 2 ^ 24))
    (r.1, r.2, r.2.output (rho824 rho), r.2.zeros.any id)

/-- The DRAIN-form disable of output o in progress: the (stream, OR_WR) up to which channel `sub` drains. -/
def State.drainTarget (s : State) (o sub : Nat) : Option (Option (Nat × Word)) :=
  s.cmds.findSome? fun c => match c.wait with
    | .aesDrain k a b => if k = o then some (if sub = 0 then a else b) else none
    | _ => none

/-- The drain of channel c is stopped: a mute, or its mask bit is 0 (R35, R285, R290). -/
def State.chanStopped (s : State) (c : Nat) : Bool :=
  s.clockMuted (s.out (c / 2)).clk.val || !bitOf s.slotMask.toNat c || s.chanRange c

/-- Ring samples that the DRAIN-form disable of its output leaves channel c, its stream being i (R294). -/
def State.drainLeft (s : State) (c i : Nat) : Nat :=
  match s.drainTarget (c / 2) (c % 2) with
  | some (some (k, w)) =>
    let left := (w - (s.entry k).orRd).toNat
    if k ≠ i ∨ 2 ^ 31 ≤ left then 0 else left
  | _ => 0

/-- Channel c has drained all that the DRAIN-form disable of its output leaves it, or its drain is stopped
(log entry 90). -/
def State.channelDone (s : State) (c : Nat) : Bool :=
  s.chanStopped c || match (s.achan c).stream with
    | some i => s.drainLeft c i == 0
    | none => true

/-- The stream that channel c drains in the coming frame (R285, R290, R294, R35). -/
def State.channelLive (s : State) (c : Nat) : Option Nat :=
  let o := s.out (c / 2)
  if o.en && !s.chanStopped c && !(o.draining && s.channelDone c) then (s.achan c).stream
  else none

/-- What drains changed: readiness and urgency of the stream (R21, R272). -/
def State.afterDrain (s : State) (i : Nat) : State := (s.reval i).urgency i

/-- Bits of a word length code. -/
def wlenBits (w : Fin 4) : Nat := [16, 20, 24, 24].getD w.val 24

/-- An output word, left-justified in 24 bits (R291). -/
def aesWord (w : Fin 4) (x : Num) : BitVec 24 :=
  BitVec.ofNat 24 (unsigned 24 (toPcm (wlenBits w) .rne x * 2 ^ (24 - wlenBits w)))

/-- Put the word of channel c. -/
def State.putWord (s : State) (c : Nat) (x : Word24) : State :=
  s.modOut (c / 2) fun o => if c % 2 = 0 then { o with a := { x with set := true } } else { o with b := { x with set := true } }

/-- Frames of an output that have started at the counter's present value. -/
def AesOut.sentNow (x : AesOut) (count : Time) : Nat := if x.sentAt = some count then x.sent else 0

/-- An output's next frame may start at the counter's present value (Table 15.2). -/
def State.frameFits (s : State) (o : Nat) : Bool :=
  let x := s.out o
  let n := x.sentNow s.tb.count
  match x.clk.val with
  | 0 => n == 0
  | 1 => decide (n < 2)
  | 2 => decide (n < 4)
  | 3 => s.now % 2 == 0 && n == 0
  | 4 => s.now % 4 == 0 && n == 0
  | _ => true

/-- Channel c has supplied the word of its output's coming frame. -/
def AesOut.supplied (x : AesOut) (c : Nat) : Bool := if c % 2 = 0 then x.a.set else x.b.set

/-- Channel c supplies the word of its output's coming frame, once, at the frame's instant (R19, R20, R285, R287, R290,
R291). -/
def State.drainChannel (s : State) (c : Nat) : State :=
  let s := s.applyDue (c / 2)
  let o := s.out (c / 2)
  if !o.en || !s.frameFits (c / 2) || o.supplied c then s
  else match s.channelLive c with
    | none => s.putWord c { muted := s.clockMuted o.clk.val || s.chanRange c }
    | some i =>
      let r := s.drainSample i (s.rhoOf (s.fOut o.clk.val) i) (s.achan c).conv
        (if o.draining then s.drainLeft c i else 4)
      let s := (r.1.modAchan c fun x => { x with conv := r.2.1 }).putWord c
        { word := if r.2.2.2 ∧ (s.rhoOf (s.fOut o.clk.val) i).1 = (s.rhoOf (s.fOut o.clk.val) i).2 then 0
                  else aesWord o.wlen r.2.2.1,
          v := r.2.2.2, inserted := r.2.2.2 }
      s.afterDrain i

/-- Samples per slot of a frame of F periods (Table 16.7). -/
def groupSamples (clk F : Nat) : Nat :=
  match clk with
  | 0 => F
  | 1 => 2 * F
  | 2 => 4 * F
  | 3 => F / 2
  | _ => F / 4

/-- Slot k of group g supplies one sample of the current frame, of the NSAMP that the frame has (R315). -/
def State.drainSlot (s : State) (g k : Nat) : State :=
  let x := s.group g
  let n := audioBytes x.fmt.val
  if !x.active || !bitOf x.mask.toNat k || decide (groupSamples x.clk.val s.frameF * n ≤ (Tbl.get [] x.samples k).length) then s
  else
    let add (s : State) (bs : Bytes) (under mute : Bool) : State := s.modGroup g fun x =>
      { x with samples := Tbl.set [] x.samples k (Tbl.get [] x.samples k ++ bs),
               under := if under then x.under ||| BitVec.ofNat 64 (2 ^ k) else x.under,
               mute := if mute then x.mute ||| BitVec.ofNat 64 (2 ^ k) else x.mute }
    match Tbl.get none x.slots k with
    | none => add s (leBytes n 0) true false
    | some i =>
      if s.slotRange g k then add s (leBytes n 0) false true
      else
        let r := s.drainSample i (s.rhoOf (s.fOut x.clk.val) i) (Tbl.get {} x.convs k) 4
        let s := r.1.modGroup g fun x => { x with convs := Tbl.set {} x.convs k r.2.1 }
        (add s (leBytes n (toAudio x.fmt.val .rne r.2.2.1)) r.2.2.2 false).afterDrain i

/-! ### AES3 frames (R291 to R293) -/

/-- The standard rate within 0.1 % of f_out, in 1/256 Hz (R292). -/
def stdRate (f : Nat) : Option Nat :=
  [32000, 44100, 48000, 88200, 96000, 176400, 192000].find? fun r =>
    decide (1000 * ((f : Int) - (256 * r : Nat)).natAbs ≤ 256 * r)

/-- The CRCC of AES3 (log entry 31): x^8 + x^4 + x^3 + x^2 + 1 from all ones, least significant bit first. -/
def crcc (bs : Bytes) : Byte :=
  bs.foldl (fun r b => (List.range 8).foldl
    (fun c _ => if c.getLsbD 0 then (c >>> 1) ^^^ 0xB8#8 else c >>> 1) (r ^^^ b)) 0xFF

/-- Professional channel status (Table 15.4; bit positions of AES3, log entry 31). -/
def proStatus (x : AesOut) (f : Nat) : Bytes :=
  let r := stdRate f
  let b0 := 0x05 + (match r with | some 48000 => 0x80 | some 44100 => 0x40 | some 32000 => 0xC0 | _ => 0)
  let b2 := match x.wlen.val with | 0 => 0x08 | 1 => 0x28 | _ => 0x2C
  let b4 := match r with | some 96000 => 0x10 | some 192000 => 0x18 | some 88200 => 0x50 | some 176400 => 0x58 | _ => 0
  let bs := leBytes 1 b0 ++ [0x08] ++ leBytes 1 b2 ++ [0] ++ leBytes 1 b4 ++ [0] ++ leBytes 4 x.origin.toNat ++
    leBytes 4 x.destn.toNat ++ leBytes 4 x.frames.toNat ++ leBytes 4 0 ++ [0x80]
  bs ++ [crcc bs]

/-- Consumer channel status of subframe 0 or 1 (Table 15.4; bit positions of IEC 60958-3, log entry 31). -/
def conStatus (x : AesOut) (f sub : Nat) : Bytes :=
  let b3 := match stdRate f with
    | some 44100 => 0x00 | some 88200 => 0x08 | some 176400 => 0x0C | some 48000 => 0x02 | some 96000 => 0x0A
    | some 192000 => 0x0E | some 32000 => 0x03 | _ => 0x01
  let b4 := match x.wlen.val with | 0 => 0x02 | 1 => 0x0A | _ => 0x0B
  leBytes 1 (4 * b2n x.copyOk) ++ [x.category] ++ leBytes 1 (0x10 * (sub + 1)) ++ leBytes 1 b3 ++ leBytes 1 b4 ++
    leBytes 19 0

/-- Bytes 0 to 21 of a subframe's provenance record at the block's first frame (Table 15.5). -/
def State.provRecord (s : State) (o sub : Nat) : Bytes :=
  let x := s.out o
  let str := (s.achan (2 * o + sub)).stream
  ([0x5A, 0x01] : Bytes) ++ leBytes 2 (s.net.id.toNat + 4096 * x.part.getD 0) ++ leBytes 2 (str.getD 0xFFF) ++
    leBytes 6 s.now ++ leBytes 4 (match str with | some i => (s.entry i).pos | none => 0) ++
    leBytes 4 x.block.toNat ++ leBytes 2 0

/-- A frame's effect on the record: FLAGS gain what has befallen the block when their bit is sent, in
frames 9 and 10 (log entry 32). -/
def ProvRec.frame (r : ProvRec) (f : Nat) (w : Word24) : ProvRec :=
  let r := { r with under := r.under || w.inserted, muted := r.muted || w.muted }
  let setBit (m : Byte) : ProvRec := { r with bytes := r.bytes.set 1 (r.bytes.getD 1 0 ||| m) }
  if f = 9 ∧ r.under then setBit 2 else if f = 10 ∧ r.muted then setBit 4 else r

/-- The U bit of frame f (R293): the last two bytes are the CRC over the record as sent. -/
def ProvRec.uBit (r : ProvRec) (f : Nat) : Bool :=
  let crc := crc16 r.bytes
  let b := if f < 176 then (r.bytes.getD (f / 8) 0).toNat else fld crc.toNat (8 * (f / 8 - 22)) 8
  bitOf b (f % 8)

/-- A subframe: word in bits 23 to 0 (slots 4 to 27), then V, U, C and even parity P (R291). -/
def subframe (w : Word24) (u c : Bool) : BitVec 28 :=
  let n := w.word.toNat + 2 ^ 24 * b2n w.v + 2 ^ 25 * b2n u + 2 ^ 26 * b2n c
  BitVec.ofNat 28 (n + 2 ^ 27 * (popcount 27 n % 2))

/-- Output o sends one frame, at an instant of its clock mode: a channel that has not yet supplied its word does so (R285,
R291 to R293, R298). -/
def State.sendFrame (s : State) (o : Nat) : State :=
  let s := s.applyDue o
  if !(s.out o).en || !s.frameFits o then s
  else
    let s := (s.drainChannel (2 * o)).drainChannel (2 * o + 1)
    let f := (s.out o).place
    let s := if f ≠ 0 then s
      else
        let x := s.out o
        let fr := s.fOut x.clk.val
        s.setOut o { x with csA := if x.consumer then conStatus x fr 0 else proStatus x fr,
                            csB := if x.consumer then conStatus x fr 1 else proStatus x fr,
                            recA := { bytes := s.provRecord o 0 }, recB := { bytes := s.provRecord o 1 } }
    let x := s.out o
    let recA := x.recA.frame f x.a
    let recB := x.recB.frame f x.b
    let cBit (cs : Bytes) : Bool := bitOf (cs.getD (f / 8) 0).toNat (f % 8)
    let s := s.setOut o { x with
      recA := recA, recB := recB, last := [subframe x.a (recA.uBit f) (cBit x.csA), subframe x.b (recB.uBit f) (cBit x.csB)],
      lastZ := f == 0, frames := x.frames + 1, block := if f = 191 then x.block + 1 else x.block, a := {}, b := {},
      place := (f + 1) % 192, sentAt := some s.tb.count, sent := x.sentNow s.tb.count + 1 }
    let s := (s.bump (outReg o 0x18) 0 16 (b2n x.a.inserted)).bump (outReg o 0x18) 16 16 (b2n x.b.inserted)
    s.setBits (outReg o 0x1C) (2 * b2n (x.a.inserted || x.b.inserted))

/-! ### Disabling an output (R294) -/

/-- Output o stops: its streams are unbound (their rings discarded first in the ABORT form), its mask bits
cleared, and it is released. -/
def State.stopOutput (s : State) (o : Nat) (discard : Bool) : State :=
  let streams := [2 * o, 2 * o + 1].flatMap fun c => (s.achan c).successor.toList ++ (s.achan c).stream.toList
  let s := if discard then s.each ([2 * o, 2 * o + 1].filterMap fun c => (s.achan c).stream) State.discardRing else s
  let s := s.each streams State.leaveOutput
  let keep (c : Change) : List Change := (s.dueFor o c).2
  let s := { s with slotMask := s.slotMask &&& ~~~(BitVec.ofNat 16 (3 * 4 ^ o)),
                    changes := s.changes.flatMap keep, due := s.due.flatMap keep }
  let s := s.modOut o fun x =>
    { x with en := false, draining := false, part := none, rangeA := false, rangeB := false, clkMute := false,
             a := {}, b := {}, last := [], lastZ := false }
  s.each streams State.afterUnbind

/-- Commands that wait for the DRAIN-form disable of output o. -/
def waitsOut (o : Nat) (c : Cmd) : Bool :=
  match c.wait with
  | .aesDrain k _ _ => k == o
  | _ => false

/-! ### Meanings -/

/-- One output sample period of an output (R19, R20). -/
def execOutputDrain (target : OutTarget) (s : State) : Outcome :=
  .next (match target with
    | .aes c => s.drainChannel c.val
    | .slot g k => s.drainSlot g.val k.val)

def execAes3OutputFrame (out : Fin 8) (s : State) : Outcome := .next (s.sendFrame out.val)

/-- Both channels of an output under DRAIN-form disable have drained (R294). -/
def execAesDrainComplete (out : Fin 8) (s : State) : Outcome :=
  .next (s.when ((s.out out.val).draining && s.channelDone (2 * out.val) && s.channelDone (2 * out.val + 1)) fun s =>
    (s.stopOutput out.val false).finishWhere (waitsOut out.val) stDrained)

/-- A CLOSE_STREAM in DRAIN form ends (R203): its stream has drained, or has no drain. -/
def execDrainCloseComplete (stream : Fin 4096) (s : State) : Outcome :=
  .next (s.when (s.drained stream.val && s.cmds.any (fun c => c.wait == .closeDrain stream.val)) fun s =>
    s.closeUndrained stream.val)

/-- A stream DRAINING after the position limit or a move closes (R204, R345). -/
def execDrainingClose (stream : Fin 4096) (s : State) : Outcome :=
  .next (s.when (s.drained stream.val && !s.cmds.any (fun c => c.wait == .closeDrain stream.val)) fun s =>
    s.closeUndrained stream.val)

end Sys2Proof.Machine
end

