-- ==== Sys2Proof/Machine/Frame.lean ====
section
/-! DEFINITION. The start of a Lanlyn frame (R36, R290, R304, R313 to R315, R333). -/

namespace Sys2Proof.Machine

/-- Existing partitions. -/
def State.partIds (s : State) : List Nat := (List.range 16).filter fun p => (s.part p).exists_

/-- The device quota Q: the override, else the value of the last discovery (R334). -/
def State.deviceQuota (s : State) : Nat := s.net.quotaSet.getD s.net.quota

/-- Q_p (R333). -/
def State.partQuota (s : State) (p : Nat) : Nat := (s.part p).quotaSet.getD (s.deviceQuota / s.partIds.length)

/-- At each frame start the allowance becomes min(allowance, 0) + Q_p (R333). -/
def State.refreshAllowances (s : State) : State :=
  s.each s.partIds fun s p => s.modPart p fun x => { x with allowance := min x.allowance 0 + (s.partQuota p : Int) }

/-! ### Audio packets (R314, R315) -/

/-- A list cut into runs of n. -/
def runsOf {α : Type} (n : Nat) : Nat → List α → List (List α)
  | 0, _ => []
  | fuel + 1, l => if l.isEmpty then [] else l.take n :: runsOf n fuel (l.drop n)

/-- The payload of one packet of a group, with the slots it carries. -/
def groupPayload (g : Nat) (x : Group) (nsamp : Nat) (under : W64) (slots : List Nat) (last : Bool) : Bytes :=
  let n := nsamp * audioBytes x.fmt.val
  leBytes 1 g ++ leBytes 1 (b2n last) ++ leBytes 1 (slots.headD 0) ++ leBytes 1 slots.length ++ leBytes 2 nsamp ++
    leBytes 1 x.fmt.val ++ leBytes 1 0 ++ leBytes 8 x.mask.toNat ++ leBytes 8 under.toNat ++ leBytes 8 x.mute.toNat ++
    slots.flatMap fun k => slice (Tbl.get [] x.samples k) 0 n

/-- Queue the packets of the frame that has ended for group g, which began at `t0` and lasted F periods. A
slot with fewer samples than NSAMP carries zeros for the rest, with its UNDER bit. -/
def State.sendGroup (s : State) (g : Nat) (t0 : Time) (F : Nat) : State :=
  let x := s.group g
  let s := s.setGroup g { x with samples := [], under := 0, mute := 0 }
  if !x.active || x.mask == 0 then s
  else
    let nsamp := groupSamples x.clk.val F
    let n := nsamp * audioBytes x.fmt.val
    let slots := maskList 64 x.mask.toNat
    let short := slots.filter fun k => decide ((Tbl.get [] x.samples k).length < n)
    let under := x.under ||| BitVec.ofNat 64 (maskOf short)
    let runs := runsOf (max 1 ((65503 - 32) / n)) 64 slots
    let s := s.each runs.zipIdx fun s r =>
      let p := s.buildPkt 0x33 x.vc x.dest x.part false (groupPayload g x nsamp under r.1 (r.2 + 1 == runs.length))
      s.queuePkt { p with time := t0 } none (some (g, t0.toNat / F))
    if under = 0 then s else s.bump (0x031000 + 0x20 * g + 0x1C) 0 32 1

/-- Packets of a frame not started before the frame after the next begins are dropped (R315). -/
def State.dropLate (s : State) : State :=
  let late := s.net.out.filterMap fun p => p.frame.map Prod.fst
  (s.modNet fun n => { n with out := n.out.filter fun p => p.frame.isNone }).each late fun s g =>
    s.bump (0x031000 + 0x20 * g + 0x14) 0 32 1

/-! ### Delimiters (R304) -/

/-- A transmit port that is UP marks frame k. -/
def Port.mark (p : Port) (k : Nat) : Port :=
  if p.state = 2 then { p with marked := true, fe := if p.marked then p.fs else none, fs := some (BitVec.ofNat 16 k) }
  else p

/-- A frame begins at the counter's present value: the packets of the frame that ended are queued, queued
changes apply, the ports are marked and allowances are refreshed. -/
def State.frameStart (s : State) : State :=
  let s := match s.tb.frameAt with
    | some t0 =>
      let F := (s.tb.count - t0).toNat
      s.dropLate.each ((List.range 15).map (· + 1)) fun s g => s.sendGroup g t0 F
    | none => s
  let s := s.frameChanges
  let s := s.each [3, 4, 5] fun s p => s.modPort p fun x => x.mark s.frameNo
  s.refreshAllowances.modTb fun t => { t with frameAt := some t.count }

/-! ### Meanings -/

/-- A frame begins at each multiple of F, once; a change of F due at this instant comes first (R36, R37). -/
def execFrameStart (s : State) : Outcome :=
  .next (s.when s.tb.running fun s =>
    let s := s.modTb Tb.takeF
    if s.now % s.frameF = 0 ∧ s.tb.frameAt ≠ some s.tb.count then s.frameStart else s)

/-- A port compares a received Frame Start with its own frame number (R305). -/
def execFrameStartReceive (port : Fin 3) (number : BitVec 16) (s : State) : Outcome :=
  .next (s.when ((s.port port.val).state == 2) fun s =>
    let d := number - BitVec.ofNat 16 s.frameNo
    if d = 0 ∨ d = 1 ∨ d = 0xFFFF then s else s.bump (lnkReg port.val 0x28) 0 16 1)

end Sys2Proof.Machine
end

