-- ==== Sys2Proof/Machine/Matrix.lean ====
section
/-! DEFINITION. The matrix words (R52 to R55, R74 to R76, R155, R156). -/

namespace Sys2Proof.Machine

/-- Tile i of a share. -/
def ShareSt.tile (h : ShareSt) (i : Nat) : Tile := Tbl.get {} h.t i
def ShareSt.setTile (h : ShareSt) (i : Nat) (t : Tile) : ShareSt := { h with t := Tbl.set {} h.t i t }
/-- Element (row, column) of a tile. -/
def Tile.elem (t : Tile) (r c : Nat) : Word := Tbl.get 0 t.elems (32 * r + c)

/-- A matrix operand as rows of exact values: a reader of element k of row r. -/
abbrev MatOp := Nat → Nat → Num

/-- One group of 32 indices: the exact sum of the exact products (R53, R54). -/
def groupSum (a b : Nat → Num) (k0 : Nat) : Num :=
  (List.range 32).foldl (fun acc i =>
    let p := (a (k0 + i)).mul (b (k0 + i))
    if i = 0 then p else acc.add p) (.fin false 0 0)

/-- The accumulated element after all groups of K indices, floating (R53): each group sum rounded once,
then added with rounding. -/
def accFloat (a b : Nat → Num) (K : Nat) (acc : Word) : Word :=
  (List.range (K / 32)).foldl (fun acc j => f32Add acc (toF32 (groupSum a b (32 * j)))) acc

/-- The accumulated element, integer (R55): each exact group sum is added, saturating. -/
def accInt (a b : Nat → Int) (K : Nat) (acc : Word) : Word :=
  BitVec.ofInt 32 ((List.range (K / 32)).foldl (fun acc j =>
    clampInt (-2147483648) 2147483647
      (acc + (List.range 32).foldl (fun t i => t + a (32 * j + i) * b (32 * j + i)) 0)) acc.toInt)

/-- The integer value of an integer operand element. -/
def intElem (code w : Nat) : Int := if code = 2 then (w % 256 : Nat) else signed (elemBits code) w

/-- Matrix engine cycles of a product (Table 4.2). -/
def mulCycles (fa fb K : Nat) : Nat :=
  match max (elemBits fa) (elemBits fb) with
  | 4 => K / 2
  | 16 => 4 * K
  | _ => K

/-- mx.mul (R155). With ACC = 0 the group sums are added to +0 (DESIGN CHOICE, log entry 97). -/
def mxMulStart (s : State) (g j : Nat) (e : QEntry) : StartRes :=
  let w := e.w
  let ti := fld w 34 2
  let aa := e.av (fld w 29 4)
  let ab := e.av (fld w 25 4)
  let xa := e.av (fld w 29 4 + 1)
  let xb := e.av (fld w 25 4 + 1)
  let M := e.sv (fld w 20 5)
  let K := e.sv (fld w 15 5)
  let fa := fld w 11 4
  let fb := fld w 7 4
  let sa := e.sv (fld w 2 5)
  let h := s.share g j
  let t := h.tile ti
  let int := isIntOperand fa
  let cls : TileClass := if int then .int else .float
  let blkA := 4 * elemBits fa
  let blkB := 4 * elemBits fb
  let rowBytes := K * elemBits fa / 8
  checked s
    [(isIntOperand fa != isIntOperand fb, 0x03),
     (bitOf w 33 && t.cls != .none && t.cls != cls, 0x40),
     (M == 0 || decide (32 < M), 0x42),
     (K == 0 || decide (4096 < K) || K % 32 != 0, 0x07),
     (isMx fa && (aa % blkA != 0 || sa % blkA != 0), 0x04),
     (isMx fb && ab % (32 * blkB) != 0, 0x04)] <|
  checked s
    ([(!s.inShare g (aa + (M - 1) * sa) rowBytes, 0x01), (!s.inShare g ab (K * blkB), 0x01),
      (isMx fa && !s.inShare g (xa + (M - 1) * (sa / blkA)) (K / 32), 0x01),
      (isMx fb && !s.inShare g xb K, 0x01),
      (elemBits fa == 16 && (aa % 2 != 0 || (decide (1 < M) && sa % 2 != 0)), 0x02),
      (elemBits fb == 16 && ab % 2 != 0, 0x02)]) <|
  let bBytes := h.read ab (K * blkB)
  let bScale := h.read xb K
  let bRaw (k n : Nat) : Nat := packedAt (slice bBytes (k * blkB) blkB) (elemBits fb) n
  let bVal (k n : Nat) : Num :=
    if isMx fb then mxValue fb (fieldAt bScale (32 * (k / 32) + n) 1) (bRaw k n) else elemValue fb (bRaw k n)
  let row (m : Nat) : List (Nat × Word) :=
    let aBytes := h.read (aa + m * sa) rowBytes
    let aScale := h.read (xa + m * (sa / blkA)) (K / 32)
    let aRaw (k : Nat) : Nat := packedAt aBytes (elemBits fa) k
    let aVal (k : Nat) : Num :=
      if isMx fa then mxValue fa (fieldAt aScale (k / 32) 1) (aRaw k) else elemValue fa (aRaw k)
    (List.range 32).map fun n =>
      let acc : Word := if bitOf w 33 then t.elem m n else 0
      (32 * m + n, if int then accInt (fun k => intElem fa (aRaw k)) (fun k => intElem fb (bRaw k n)) K acc
                   else accFloat aVal (fun k => bVal k n) K acc)
  let t' : Tile := { cls := cls, elems := ((List.range M).flatMap row).foldl (fun m x => Tbl.set 0 m x.1 x.2) t.elems }
  .done (s.modShare g j fun h => h.setTile ti t') (mulCycles fa fb K)

/-- The class an mx.ld format sets (Table 7.12). -/
def ldClass (f : Nat) : TileClass :=
  match f with
  | 0x1 => .int
  | 0x2 => .int
  | 0xE => .int
  | 0x3 => .float
  | 0x4 => .float
  | 0xB => .float
  | 0xC => .float
  | 0xD => .float
  | _ => .none

/-- mx.st destinations of a class (Table 7.12). -/
def stFmtOk (c : TileClass) (f : Nat) : Bool :=
  let common := f == 0xD || f == 0xB || f == 0xC
  match c with
  | .int => common || f == 0xE
  | .float => common || f == 0x3 || f == 0x4
  | .none => common || f == 0xE || f == 0x3 || f == 0x4

/-- The rows of a tile operand: SN rows of n bytes from a, stride st (R72, R76). -/
def State.rowChecks (s : State) (g a st n rows es : Nat) : List (Bool × Nat) :=
  [(!s.inShare g (a + (rows - 1) * st) n || !s.inShare g a n, 0x01),
   (a % es != 0 || (decide (1 < rows) && st % es != 0), 0x02)]

/-- mx.ld (R156). -/
def mxLdStart (s : State) (g j : Nat) (e : QEntry) : StartRes :=
  let w := e.w
  let a := e.av (fld w 30 4)
  let n := e.sv (fld w 25 5)
  let st := e.sv (fld w 20 5)
  let f := fld w 16 4
  let es := elemBits f / 8
  checked s [(ldClass f == .none, 0x41), (n == 0 || decide (32 < n), 0x42)] <|
  checked s (s.rowChecks g a st (32 * es) n es) <|
  let h := s.share g j
  let t := h.tile (fld w 34 2)
  let elem (m c : Nat) : Word :=
    let raw := leNat (h.read (a + m * st + c * es) es)
    BitVec.ofNat 32 (convertTo (if ldClass f == .int then 0xE else 0xD) .rne false (elemValue f raw))
  let cells := (List.range n).flatMap fun m => (List.range 32).map fun c => (32 * m + c, elem m c)
  let t' : Tile := { cls := ldClass f, elems := cells.foldl (fun m x => Tbl.set 0 m x.1 x.2) t.elems }
  .done (s.modShare g j fun h => h.setTile (fld w 34 2) t') n

/-- mx.st (R156); RM 2 draws groups of 4 fields (R256). -/
def mxStStart (s : State) (g j : Nat) (e : QEntry) : StartRes :=
  let w := e.w
  let a := e.av (fld w 30 4)
  let n := e.sv (fld w 25 5)
  let st := e.sv (fld w 20 5)
  let f := fld w 16 4
  let rm := fld w 14 2
  let ovf := bitOf w 13
  let es := elemBits f / 8
  let t := (s.share g j).tile (fld w 34 2)
  checked s [(!stFmtOk t.cls f, 0x41), (rm == 3, 0x05), (ovf && f != 4, 0x06), (n == 0 || decide (32 < n), 0x42)] <|
  checked s (s.rowChecks g a st (32 * es) n es) <|
  let r := s.roundings g rm 4 (32 * n)
  let val (m c : Nat) : Num := match t.cls with
    | .int => Num.ofInt (t.elem m c).toInt
    | .float => f32 (t.elem m c)
    | .none => .fin false 0 0
  let rowOf (m : Nat) : Bytes :=
    (List.range 32).flatMap fun c => leBytes es (convertTo f (r.1 (32 * m + c)) ovf (val m c))
  .done (r.2.modShare g j fun h => (List.range n).foldl (fun h m => h.write (a + m * st) (rowOf m)) h)
    (if rm = 2 then 8 * n else n)

/-- mx.zero (R156). -/
def mxZeroStart (s : State) (g j : Nat) (e : QEntry) : StartRes :=
  .done (s.modShare g j fun h => h.setTile (fld e.w 34 2) {}) 1

/-! ### Meanings -/

def execMxMul (at_ : Site) (act : Act) (w : W64) (s : State) : Outcome :=
  .next (s.engineWord at_ act w 0 0x60 mxMulStart)

def execMxLd (at_ : Site) (act : Act) (w : W64) (s : State) : Outcome :=
  .next (s.engineWord at_ act w 0 0x61 mxLdStart)

def execMxSt (at_ : Site) (act : Act) (w : W64) (s : State) : Outcome :=
  .next (s.engineWord at_ act w 0 0x62 mxStStart)

def execMxZero (at_ : Site) (act : Act) (w : W64) (s : State) : Outcome :=
  .next (s.engineWord at_ act w 0 0x63 mxZeroStart)

end Sys2Proof.Machine
end

