-- ==== Sys2Proof/Machine/StreamEngine.lean ====
section
/-! DEFINITION. The stream engine of a cluster (R102 to R110, R151, R189): fetching and checking transfer
descriptors, moving their runs, and completing them. -/

namespace Sys2Proof.Machine

/-! ### The descriptor (Table 5.6) -/

def dOp (raw : Bytes) : Nat := fieldAt raw 0 1
def dFlag (raw : Bytes) (i : Nat) : Bool := bitOf (fieldAt raw 1 1) i
def dHint (raw : Bytes) : Hint := hintOf (fieldAt raw 1 1 % 4)
def dBoundary (raw : Bytes) : Bool := dFlag raw 2
def dFence (raw : Bytes) : Bool := dFlag raw 3
def dCrec (raw : Bytes) : Bool := dFlag raw 4
def dSig (raw : Bytes) : Bool := dFlag raw 5
def dSync (raw : Bytes) : Nat := fieldAt raw 2 2 % 2048
def dLen (raw : Bytes) : Nat := fieldAt raw 4 4 % 2 ^ 24
def dCnt1 (raw : Bytes) : Nat := fieldAt raw 8 2
def dCnt2 (raw : Bytes) : Nat := fieldAt raw 10 2
def dCrecAddr (raw : Bytes) : Nat := fieldAt raw 56 5
def dSigned (raw : Bytes) (off : Nat) : Int := signed 32 (fieldAt raw off 4)

/-- Start of run (i, j) of the source and of the destination (R105). -/
def dSrc (raw : Bytes) (i j : Nat) : Int := (fieldAt raw 16 5 : Int) + i * dSigned raw 24 + j * dSigned raw 28
def dDst (raw : Bytes) (i j : Nat) : Int := (fieldAt raw 32 5 : Int) + i * dSigned raw 40 + j * dSigned raw 44

/-- Lowest byte and the byte after the highest that the runs touch. -/
def dRange (raw : Bytes) (start : Bytes → Nat → Nat → Int) : Int × Int :=
  let c : List Int := [start raw 0 0, start raw (dCnt1 raw - 1) 0, start raw 0 (dCnt2 raw - 1),
    start raw (dCnt1 raw - 1) (dCnt2 raw - 1)]
  (c.foldl min (start raw 0 0), c.foldl max (start raw 0 0) + dLen raw)

/-- The descriptor breaks Table 5.6 or R106 (BAD_FIELD); `get` tells which instruction submitted it
(R102, R151). -/
def dBad (get : Bool) (raw : Bytes) : Bool :=
  let op := dOp raw
  let fl := fieldAt raw 1 1
  let fill := op == 3 || op == 4
  let s := dRange raw dSrc
  let d := dRange raw dDst
  !(if get then op == 0 || op == 4 || op == 5 else op == 1 || op == 2 || op == 3) ||
    fl % 4 == 3 || fl / 64 != 0 || fieldAt raw 2 2 / 2048 != 0 || fieldAt raw 7 1 != 0 || dLen raw == 0 ||
    dCnt1 raw == 0 || dCnt2 raw == 0 || (!fill && fieldAt raw 12 4 != 0) || (fill && fieldAt raw 16 5 != 0) ||
    fieldAt raw 21 1 != 0 || fld (fieldAt raw 22 2) 12 2 == 3 || fieldAt raw 22 2 / 16384 != 0 ||
    (op == 5 && (fieldAt raw 32 5 != 0 || fieldAt raw 40 8 != 0)) || fieldAt raw 37 3 != 0 ||
    fieldAt raw 50 6 != 0 || (dCrec raw && dCrecAddr raw % 8 != 0) || fieldAt raw 61 3 != 0 ||
    (op == 2 && decide (s.1 < d.2) && decide (d.1 < s.2))

/-- A range lies in [0, n). -/
def rangeIn (r : Int × Int) (n : Nat) : Bool := decide (0 ≤ r.1) && decide (r.2 ≤ n)

/-- The source, the destination or the completion record reaches beyond the partition or the share
(OUT_OF_BOUNDS, R106). -/
def dOut (raw : Bytes) (share part : Nat) : Bool :=
  let s := dRange raw dSrc
  let d := dRange raw dDst
  (match dOp raw with
    | 0 => !rangeIn s part || !rangeIn d share
    | 1 => !rangeIn s share || !rangeIn d part
    | 2 => !rangeIn s part || !rangeIn d part
    | 3 => !rangeIn d part
    | 4 => !rangeIn d share
    | _ => !rangeIn s part) ||
    (dCrec raw && decide (share < dCrecAddr raw + 8))

/-- The completion record (Table 5.8). -/
def crecBytes (tag : Nat) (st : BitVec 16) (bad : Nat) : Bytes :=
  leBytes 2 tag ++ leBytes 2 st.toNat ++ leBytes 2 (min bad 0xFFFF) ++ [0, 0]

/-- Write a completion record when CREC is 1 and its address can take one, then signal when SIG is 1
(R107, R125); objects are the requester's own cluster's. -/
def State.crecAndSig (s : State) (g j : Nat) (crec : Bool) (addr : Nat) (rec_ : Bytes) (sig : Bool) (obj : Nat) :
    State :=
  let s := if crec && addr % 8 == 0 && s.inShare g addr 8 then s.writeShare g j addr rec_ else s
  if sig then s.syncAdd (2048 * (g / 64) + obj) 1 else s

/-- ECC_UNCORRECTABLE to the fault fields of the streams served (R108, R126). -/
def State.faultServed (s : State) (l : List Nat) : State := s.each l fun s i => s.faultStream i stEccUncorrectable

/-! ### Lines (R104, R105, R109) -/

/-- The bytes of a run of FILL (R105: byte j receives PATTERN byte j mod 4). -/
def fillBytes (pattern n : Nat) : Bytes := (List.range n).map fun j => BitVec.ofNat 8 (fld pattern (8 * (j % 4)) 8)

/-- Runs of a descriptor, and where run k starts at its source and its destination (R105). -/
def dRuns (raw : Bytes) : Nat := dCnt1 raw * dCnt2 raw
def runSrc (raw : Bytes) (k : Nat) : Nat := (dSrc raw (k / dCnt2 raw) (k % dCnt2 raw)).toNat
def runDst (raw : Bytes) (k : Nat) : Nat := (dDst raw (k / dCnt2 raw) (k % dCnt2 raw)).toNat

/-- Lines that [a, a + n) touches. -/
def lineCount (a n : Nat) : Nat := (a + n - 1) / 128 - a / 128 + 1

/-- Transactions of run k: its source lines, then its destination lines, those that lie in the partition; one step for
a FILL_LOCAL, which touches none. -/
def srcLines (raw : Bytes) (k : Nat) : Nat :=
  if dOp raw = 0 ∨ dOp raw = 2 ∨ dOp raw = 5 then lineCount (runSrc raw k) (dLen raw) else 0
def dstLines (raw : Bytes) (k : Nat) : Nat :=
  if dOp raw = 1 ∨ dOp raw = 2 ∨ dOp raw = 3 then lineCount (runDst raw k) (dLen raw) else 0
def runLines (raw : Bytes) (k : Nat) : Nat := max 1 (srcLines raw k + dstLines raw k)

/-- The part of [a, a + n) in its i-th line: offset from a, and length. -/
def linePart (a n i : Nat) : Nat × Nat :=
  let lo := max a ((a / 128 + i) * 128)
  let hi := min (a + n) ((a / 128 + i + 1) * 128)
  (lo - a, hi - lo)

/-- The descriptor has lines to issue. -/
def HeldDesc.open_ (d : HeldDesc) : Bool := decide (d.run < dRuns d.raw)

/-- The cursor moves to the next line, and to the next run behind the last: a descriptor's transactions, which R98 leaves
unordered, are issued in ascending run number and line (DESIGN CHOICE, log entry 102). -/
def HeldDesc.next (d : HeldDesc) : HeldDesc :=
  if d.line + 1 < runLines d.raw d.run then { d with line := d.line + 1 }
  else { d with run := d.run + 1, line := 0, buf := [] }

/-- Put a held descriptor back. -/
def CluSt.setHeld (k : CluSt) (d : HeldDesc) : CluSt :=
  { k with held := k.held.map fun (x : HeldDesc) => if x.id = d.id then d else x }

/-- Issue the next line of held descriptor d of cluster n (R97, R99, R104, R105): the access takes place at the home
cache; what a GET read waits in its slot until it reaches the scratchpad. -/
def State.issueLine (s : State) (n : Nat) (d : HeldDesc) : State :=
  let g := d.site.core.val
  let j := d.site.share.val
  let p := s.partOf g
  let raw := d.raw
  let h := dHint raw
  let len := dLen raw
  let src := runSrc raw d.run
  let dst := runDst raw d.run
  let pattern := fieldAt raw 12 4
  let put (s : State) (d : HeldDesc) (bad : Bool) (txn : Option (Nat × Option (Nat × Bytes))) : State :=
    s.modClu n fun k =>
      { k.setHeld { d.next with bad := d.bad + b2n bad } with
        granted := some d.id,
        txns := k.txns ++ (match txn with
          | some (A, x) => [{ id := d.id, site := d.site, chan := (p.place A).1, data := x }]
          | none => []) }
  if dOp raw = 4 then put (s.writeShare g j dst (fillBytes pattern len)) d false none
  else if d.line < srcLines raw d.run then
    let x := linePart src len d.line
    let r := s.readLine p h (src + x.1)
    let bs := r.1.partBytes p (src + x.1) x.2
    let d' : HeldDesc := if dOp raw = 2 then { d with buf := d.buf ++ bs } else d
    -- the buffer belongs to the run, so it goes on to the run's destination lines
    put r.1 d' r.2 (some (src + x.1, if dOp raw = 0 then some (dst + x.1, bs) else none))
  else
    let x := linePart dst len (d.line - srcLines raw d.run)
    let bs := match dOp raw with
      | 1 => (s.share g j).read (src + x.1) x.2
      | 2 => slice d.buf x.1 x.2
      | _ => slice (fillBytes pattern len) x.1 x.2
    let w := s.writeInLine p h (dst + x.1) bs
    put w.1 d w.2 (some (dst + x.1, none))

/-- A slot's data reach the scratchpad, or its write is acknowledged: the slot frees (R104). -/
def State.landTxn (s : State) (n : Nat) (t : Txn) : State :=
  let s := s.modClu n fun k => { k with txns := k.txns.erase t }
  match t.data with
  | some (a, bs) => s.writeShare t.site.core.val t.site.share.val a bs
  | none => s

/-- The oldest slot in use lands. -/
def State.landOldest (s : State) (n : Nat) : State :=
  match (s.clu n).txns with
  | [] => s
  | t :: _ => s.landTxn n t

/-- The cluster's own units run: not tested, not resetting, with a clock. -/
def State.clusterUp (s : State) (n : Nat) : Bool :=
  !(s.clu n).testing && !(s.clu n).resetting && (s.clu n).power == 0

/-- The held descriptors of a list, in list order; those before the first FENCE may have started. -/
def CluSt.heldOf (k : CluSt) (list : Nat) : List HeldDesc := k.held.filter fun d => d.list == list

/-- A held descriptor may start: no FENCE stands between the oldest of its list and it (R103). -/
def CluSt.started (k : CluSt) (d : HeldDesc) : Bool :=
  let upTo := ((k.heldOf d.list).takeWhile fun x => x.id != d.id) ++ [d]
  (upTo.drop 1).all fun x => !dFence x.raw

/-- An earlier descriptor of d's list has issued no line yet: descriptors of one list start in list order (R103). -/
def CluSt.inOrder (k : CluSt) (d : HeldDesc) : Bool :=
  ((k.heldOf d.list).takeWhile fun x => x.id != d.id).all fun x => decide (x.run != 0 || x.line != 0)

/-- Transaction slots of a cluster (R104). -/
def slotCount : Nat := 2048

/-- The descriptor that takes the next slot: of those with lines to issue, in rotation, the one after that granted
last (R104). -/
def CluSt.grantee (k : CluSt) : Option HeldDesc :=
  let ready (d : HeldDesc) : Bool := d.open_ && k.started d && k.inOrder d
  match k.held.find? fun d => ready d && (match k.granted with | some i => decide (i < d.id) | none => true) with
  | some d => some d
  | none => k.held.find? ready

/-- Grant the next slot, if one is free. -/
def State.grantLine (s : State) (n : Nat) : State :=
  let k := s.clu n
  if slotCount ≤ k.txns.length then s
  else match k.grantee with
    | none => s
    | some d => s.issueLine n d

/-- Grant lines until descriptor `id` has issued its last, a full set of slots landing its oldest; `fuel` bounds the
lines that the held descriptors have left. -/
def State.issueAll (s : State) (n id : Nat) : Nat → State
  | 0 => s
  | fuel + 1 =>
    if (s.clu n).held.any fun d => d.id == id && d.open_ then
      let s := if slotCount ≤ (s.clu n).txns.length then s.landOldest n else s
      (s.grantLine n).issueAll n id fuel
    else s

/-- At most the lines that a descriptor has. -/
def HeldDesc.mostLines (d : HeldDesc) : Nat := dRuns d.raw * (2 * (dLen d.raw / 128 + 2))

/-- Every slot of descriptor `id` lands. -/
def State.landAll (s : State) (n id : Nat) : State :=
  s.each ((s.clu n).txns.filter (·.id == id)) fun s t => s.landTxn n t

/-- A completed descriptor counts in CLU.SE_DONE and for its context (R112, R370). -/
def State.countDesc (s : State) (n c : Nat) : State :=
  (s.bump (cluBase n + 0x834) 0 32 1).modCtx c fun x => { x with seDone := x.seDone + 1 }

/-! ### Fetching (R103, R106, R109) -/

/-- A list's next descriptor may be fetched: descriptors are left, and a boundary before it is behind
(R109). -/
def CluSt.fetchable (k : CluSt) (site : Site) (l : DmaList) : Bool :=
  l.site == site && decide (l.next < l.count) && !(l.barrier && k.held.any fun d => d.list == l.id)

/-- A list with nothing left to fetch and nothing held leaves, and finishes its fused stage (R189). -/
def State.endLists (s : State) (n : Nat) : State :=
  let ended (k : CluSt) (l : DmaList) : Bool := decide (l.count ≤ l.next) && (k.heldOf l.id).isEmpty
  let gone := (s.clu n).lists.filter (ended (s.clu n))
  (s.modClu n fun k => { k with lists := k.lists.filter fun l => !ended k l }).each gone fun s l =>
    s.wordDone l.site.core.val l.site.share.val none l.stage

/-- The descriptor after list l's last fetched one is taken; the list's ticket posts with its last
(Table 7.2). -/
def State.advanceList (s : State) (n : Nat) (l : DmaList) (boundary : Bool) : State :=
  let s := s.modClu n fun k =>
    { k with lists := k.lists.map fun (x : DmaList) =>
        if x.id = l.id then { x with next := x.next + 1, barrier := boundary } else x }
  if l.next + 1 = l.count then s.wordDone l.site.core.val l.site.share.val l.ticket none else s

/-- The BOUNDARY rule of a fused transfer: set only in the last iteration (R189). -/
def State.fusedBoundary (s : State) (g j : Nat) (l : DmaList) (raw : Bytes) : Bool :=
  match l.stage with
  | none => false
  | some t => match (s.share g j).fused.find? (·.id == t.cmd) with
    | some f => dBoundary raw && decide (t.iter + 1 < f.iters)
    | none => false

/-- Number of a share in its cluster, for the rotation. -/
def siteKey (site : Site) : Nat := 4 * (site.core.val % 64) + site.share.val

/-- Descriptors of a share that may be fetched now: a list has one, and the share's limit of 64 leaves it a place
(R103). -/
def CluSt.mayFetch (k : CluSt) (site : Site) : Bool :=
  k.lists.any (k.fetchable site) && decide ((k.held.filter fun d => d.site == site).length < 64)

/-- The share whose descriptor is fetched next: the burst's own while it has one and fewer than 16 are fetched, else the
next in rotation (R103). -/
def CluSt.fetchTurn (k : CluSt) : Option Nat :=
  let can := ((k.lists.map DmaList.site).filter k.mayFetch).map siteKey
  if k.burst.2 ≠ 0 ∧ can.contains k.burst.1 = true then some k.burst.1
  else ((List.range 256).map fun i => (k.burst.1 + 1 + i) % 256).find? can.contains

/-- The burst after one more descriptor of share `key`. -/
def CluSt.burstOn (k : CluSt) (key : Nat) : Nat × Nat :=
  if k.burst.1 = key ∧ k.burst.2 ≠ 0 then (key, k.burst.2 - 1) else (key, 15)

/-- Fetch the next descriptor of a share when the rotation grants it (R103), and refuse it or hold it; then slots
land and lines are granted (R104). Of the share's lists the one submitted first is fetched from, and a
descriptor both invalid and out of bounds gets BAD_FIELD (DESIGN CHOICE, log entry 103). -/
def State.fetch (s : State) (site : Site) (moves : SlotMoves) (ev : List LineEvent) : State :=
  let g := site.core.val
  let j := site.share.val
  let n := g / 64
  let k := s.clu n
  if !s.clusterUp n || 512 ≤ k.held.length || k.fetchTurn != some (siteKey site) then s
  else match k.lists.find? (k.fetchable site) with
    | none => s
    | some l =>
      let raw := (s.share g j).read (l.base + 64 * l.next) 64
      let p := s.partOf g
      let refusal := if dBad l.get raw || s.fusedBoundary g j l raw then some (stBadField, 0x21)
        else if dOut raw (s.shareSize g) p.limit then some (stOutOfBounds, 0x22) else none
      let s := (s.modClu n fun k => { k with burst := k.burstOn (siteKey site) }).advanceList n l (dBoundary raw)
      match refusal with
      | some (st, cause) =>
        let s := s.crecAndSig g j (dCrec raw) (dCrecAddr raw) (crecBytes (fieldAt raw 48 2) st 0) (dSig raw) (dSync raw)
        ((s.countDesc n l.ctx).endLists n).progFault g j cause (engineOf 3) l.index
      | none =>
        let d : HeldDesc := { id := k.nextId, list := l.id, site := site, ctx := l.ctx, index := l.index, raw := raw,
                              serves := s.servesOf g j (fieldAt raw 22 2) }
        let s := s.modClu n fun k => { k with held := k.held ++ [d], nextId := k.nextId + 1 }
        let s := (s.lineEvents ev).each (List.range moves.landed) fun s _ => s.landOldest n
        s.each (List.range moves.granted) fun s _ => s.grantLine n

/-! ### Completion (R107, R108) -/

/-- Held descriptor `id` of cluster n completes: its remaining lines are issued, in rotation with those of the others,
and land; then SERVES, the record and the signal. -/
def State.completeDesc (s : State) (n id : Nat) (ev : List LineEvent) : State :=
  let k := s.clu n
  match k.held.find? fun d => d.id == id with
  | none => s
  | some d =>
    if !s.clusterUp n || !k.started d then s
    else
      let g := d.site.core.val
      let j := d.site.share.val
      let fuel := (k.held.map HeldDesc.mostLines).foldl (· + ·) 0
      let s := ((s.lineEvents ev).issueAll n id fuel).landAll n id
      let bad := match (s.clu n).held.find? fun d => d.id == id with | some d => d.bad | none => 0
      let s := s.modClu n fun k => { k with held := k.held.filter fun (x : HeldDesc) => x.id != id }
      let s := if bad = 0 then s else s.faultServed d.serves
      let st := if bad = 0 then stOk else stEccUncorrectable
      let s := s.crecAndSig g j (dCrec d.raw) (dCrecAddr d.raw) (crecBytes (fieldAt d.raw 48 2) st bad) (dSig d.raw)
        (dSync d.raw)
      (s.countDesc n d.ctx).endLists n

/-! ### Meanings -/

def execDescriptorFetch (at_ : Site) (moves : SlotMoves) (ev : List LineEvent) (s : State) : Outcome :=
  .next (s.fetch at_ moves ev)

def execDescriptorCompletion (clu : Fin 32) (id : Nat) (ev : List LineEvent) (s : State) : Outcome :=
  .next (s.completeDesc clu.val id ev)

end Sys2Proof.Machine
end

