-- ==== Sys2Proof/Machine/Mill.lean ====
section
/-! DEFINITION. The Mills and their queue (R113 to R129, R152, R390): routing, grants, the six operations
row by row, and completion. -/

namespace Sys2Proof.Machine

/-! ### The descriptor (Table 6.2) -/

def mFlag (raw : Bytes) (i : Nat) : Bool := bitOf (fieldAt raw 1 1) i
def mRm (raw : Bytes) : Rm := if mFlag raw 4 then .rtz else .rne
def mWfmt (raw : Bytes) : Nat := fieldAt raw 4 1 % 16
def mXfmt (raw : Bytes) : Nat := fieldAt raw 5 1 % 16
def mYfmt (raw : Bytes) : Nat := fieldAt raw 6 1 % 16
def mBatch (raw : Bytes) : Nat := fieldAt raw 7 1 % 16
def mRows (raw : Bytes) : Nat := fieldAt raw 8 4
def mLen (raw : Bytes) : Nat := fieldAt raw 12 4
def mSrc (raw : Bytes) : Nat := fieldAt raw 16 5
def mStride (raw : Bytes) : Nat := fieldAt raw 24 4
def mCount (raw : Bytes) : Nat := fieldAt raw 28 2
def mX (raw : Bytes) : Nat := fieldAt raw 32 5
def mDst (raw : Bytes) : Nat := fieldAt raw 40 5
def mIdx (raw : Bytes) : Nat := fieldAt raw 48 5
def mCrecAddr (raw : Bytes) : Nat := fieldAt raw 56 5

/-- Bytes of one row at SRC. -/
def mRowBytes (op : Nat) (raw : Bytes) : Nat :=
  if op = 1 ∨ op = 4 then mLen raw else ceilDiv (mLen raw * elemBits (mWfmt raw)) 8

/-- Bytes of the SRC operand, from its first row to the end of its last. -/
def mSrcBytes (op : Nat) (raw : Bytes) : Nat :=
  match op with
  | 4 => mLen raw
  | 5 => 0
  | _ => (mRows raw - 1) * mStride raw + mRowBytes op raw

/-- Bytes of the X operand and of the destination. -/
def mXBytes (op : Nat) (raw : Bytes) : Nat :=
  match op with
  | 0 => mBatch raw * mLen raw * (elemBits (mXfmt raw) / 8)
  | 2 => mCount raw * mLen raw * (elemBits (mXfmt raw) / 8)
  | _ => 0
def mDstBytes (op : Nat) (raw : Bytes) : Nat :=
  match op with
  | 0 => mBatch raw * mRows raw * (elemBits (mYfmt raw) / 8)
  | 1 => mCount raw * mLen raw
  | 2 => 0
  | 3 => mLen raw * (elemBits (mYfmt raw) / 8)
  | _ => mLen raw

/-- Pairs of Table 6.1. -/
def millPair (w x : Nat) : Bool :=
  match w with
  | 0x0 => x == 1 || x == 2
  | 0x1 => x == 1 || x == 2
  | 0x2 => x == 1 || x == 2
  | 0x3 => x == 3 || x == 4 || x == 0xB || x == 0xC
  | 0x4 => x == 3 || x == 4 || x == 0xB || x == 0xC
  | 0xB => x == 0xB || x == 0xC
  | 0xC => x == 0xB || x == 0xC
  | _ => false

/-- [A, A + n) lies wholly inside one locality window (R116, R121). -/
def Part.inWindow (p : Part) (A n : Nat) : Bool :=
  match p.windowOf A with
  | some i => p.windowOf (A + n - 1) == some i
  | none => false

/-- The descriptor breaks Table 6.2 or 6.3, or names no one locality window (BAD_FIELD, R121, R152). -/
def mBad (op : Nat) (raw : Bytes) (p : Part) : Bool :=
  let w := mWfmt raw
  let x := mXfmt raw
  let y := mYfmt raw
  let len := mLen raw
  let indexed := op == 1 || op == 2
  let rows := op ≤ 3
  let opBad := match op with
    | 0 => !millPair w x || !outFmt y || mBatch raw == 0 || 8 < mBatch raw || 65536 < mRows raw || len % 32 != 0 ||
        16384 < len || mSrc raw % 256 != 0 || mStride raw % 256 != 0 || mStride raw < mRowBytes op raw ||
        65536 < mXBytes op raw
    | 1 => w != 0 || x != 0 || y != 0 || mSrc raw % 128 != 0 || mStride raw % 128 != 0 || mStride raw < len
    | 2 => !(w == 0xD || w == 0xB || w == 0xC || w == 0xE) || !(x == w || x == 0xD) || mDst raw != 0
    | 3 => !(w == 1 || w == 0xE || w == 0xB || w == 0xC || w == 0xD) || !outFmt y || (w ≤ 1 || w == 0xE) && y != 0xE ||
        65536 < mRows raw
    | 4 => mFlag raw 1 && overlaps (mSrc raw) len (mDst raw) len
    | 5 => mSrc raw != 0 || !mFlag raw 1 || 2 ^ 32 ≤ mX raw
    | _ => true
  fieldAt raw 0 1 != op || fieldAt raw 1 1 / 64 != 0 || (op != 3 && mFlag raw 5) || fieldAt raw 2 2 / 2048 != 0 ||
    fieldAt raw 4 1 / 16 != 0 || fieldAt raw 5 1 / 16 != 0 || fieldAt raw 6 1 / 16 != 0 || fieldAt raw 7 1 / 16 != 0 ||
    len == 0 || (rows && mRows raw == 0) || fieldAt raw 21 1 != 0 || fld (fieldAt raw 22 2) 12 2 == 3 ||
    fieldAt raw 22 2 / 16384 != 0 || (if indexed then mCount raw == 0 || 4096 < mCount raw else mCount raw != 0) ||
    ((op == 1 || op == 3 || op == 4) && mX raw != 0) || fieldAt raw 37 3 != 0 || fieldAt raw 45 3 != 0 ||
    fieldAt raw 53 3 != 0 || fieldAt raw 61 3 != 0 || (indexed && mIdx raw % 4 != 0) ||
    (mFlag raw 2 && mCrecAddr raw % 8 != 0) || opBad ||
    (if op == 5 then !p.inWindow (mDst raw) len else !p.inWindow (mSrc raw) (mSrcBytes op raw))

/-- The index list (R121). -/
def State.mIndices (s : State) (d : MillDesc) : List Nat :=
  if d.op = 1 ∨ d.op = 2 then
    let bs := (s.share d.site.core.val d.site.share.val).read (mIdx d.raw) (4 * mCount d.raw)
    (List.range (mCount d.raw)).map fun i => fieldAt bs (4 * i) 4
  else []

/-- An operand reaches beyond the partition or the share, or an index beyond the table (OUT_OF_BOUNDS,
R121). -/
def State.mOut (s : State) (d : MillDesc) (p : Part) : Bool :=
  let g := d.site.core.val
  let inside (space : Bool) (a n : Nat) : Bool := if space then p.inside a n else s.inShare g a n
  let indexed := d.op == 1 || d.op == 2
  (d.op != 5 && !p.inside (mSrc d.raw) (mSrcBytes d.op d.raw)) ||
    ((d.op == 0 || d.op == 2) && !inside (mFlag d.raw 0) (mX d.raw) (mXBytes d.op d.raw)) ||
    (d.op != 2 && !inside (mFlag d.raw 1) (mDst d.raw) (mDstBytes d.op d.raw)) ||
    (mFlag d.raw 2 && !s.inShare g (mCrecAddr d.raw) 8) ||
    (indexed && (!s.inShare g (mIdx d.raw) (4 * mCount d.raw) || (s.mIndices d).any fun i => mRows d.raw ≤ i))

/-! ### Which Mill serves a channel (R128) -/

/-- Mill n.k is present (R380). -/
def State.millPresent (s : State) (n k : Nat) : Bool := Tbl.get 0 s.millMap (8 * n + k) == 0

/-- Mill n.k works: neither absent, failed nor under test (R128, R387). -/
def State.millUp (s : State) (n k : Nat) : Bool :=
  s.millPresent n k && !bitOf (s.clu n).millTest.toNat k

/-- The Mill of cluster n that serves channel n.k. -/
def State.millServer (s : State) (n k : Nat) : Option Nat :=
  if s.millUp n k then some k
  else if s.millUp n (k ^^^ 1) then some (k ^^^ 1)
  else lowest 8 (s.millUp n)

/-- A Mill reads [A, A + n): lines are looked up in the home cache, a miss is not allocated, and the
serving Mills count them (R113, R131). -/
def State.millRead (s : State) (p : Part) (A n : Nat) : State × Nat :=
  (linesOf A n).foldl (fun (acc : State × Nat) l =>
    let r := acc.1.readLine p .noAllocate (l * 128)
    let ch := (p.place (l * 128)).1
    let s := match r.1.millServer (ch / 8) (ch % 8) with
      | some k => r.1.bump (cluBase (ch / 8) + 0xA28 + 0x10 * k) 0 32 1
      | none => r.1
    (s, acc.2 + b2n r.2)) (s, 0)

/-- Write part of the destination (Table 6.3). -/
def State.millWrite (s : State) (p : Part) (d : MillDesc) (off : Nat) (bs : Bytes) : State × Nat :=
  if mFlag d.raw 1 then
    let w := s.writePart p .normal (mDst d.raw + off) bs
    (w.1, w.2.length)
  else (s.writeShare d.site.core.val d.site.share.val (mDst d.raw + off) bs, 0)

/-- Bytes of the X operand; in a partition the Mills read it as they read SRC (R113). -/
def State.millX (s : State) (p : Part) (d : MillDesc) (off n : Nat) : State × Bytes × Nat :=
  if mFlag d.raw 0 then
    let r := s.millRead p (mX d.raw + off) n
    (r.1, r.1.partBytes p (mX d.raw + off) n, r.2)
  else (s, (s.share d.site.core.val d.site.share.val).read (mX d.raw + off) n, 0)

/-! ### The operations -/

/-- Output element of GEMV: partials by serving Mill, combined in ascending k (R122). -/
def gemvElem (int : Bool) (server : Nat → Nat) (w x : Nat → Num) (wi xi : Nat → Int) (K : Nat) : Num :=
  let groups (k : Nat) : List Nat := (List.range (K / 32)).filter fun g => server g == k
  if int then
    let sat (i : Int) : Int := clampInt (-2147483648) 2147483647 i
    let part (k : Nat) : Int := (groups k).foldl (fun acc g =>
      sat (acc + (List.range 32).foldl (fun t i => t + wi (32 * g + i) * xi (32 * g + i)) 0)) 0
    Num.ofInt ((List.range 8).foldl (fun acc k => sat (acc + part k)) 0)
  else
    let part (k : Nat) : Word := (groups k).foldl (fun acc g => f32Add acc (toF32 (groupSum w x (32 * g)))) 0
    f32 ((List.range 8).foldl (fun acc k => f32Add acc (part k)) 0)

/-- GEMV, output rows a to b − 1. -/
def State.gemvRows (s : State) (p : Part) (d : MillDesc) (a b : Nat) : State × Nat :=
  let raw := d.raw
  let K := mLen raw
  let wf := mWfmt raw
  let xf := mXfmt raw
  let ys := elemBits (mYfmt raw) / 8
  let xr := s.millX p d 0 (mXBytes 0 raw)
  let int := isIntOperand wf
  (List.range (b - a)).foldl (fun (acc : State × Nat) i =>
    let m := a + i
    let A := mSrc raw + m * mStride raw
    let r := acc.1.millRead p A (mRowBytes 0 raw)
    let row := r.1.partBytes p A (mRowBytes 0 raw)
    let server (g : Nat) : Nat :=
      let ch := (p.place (A + g * 32 * elemBits wf / 8)).1
      (r.1.millServer (ch / 8) (ch % 8)).getD 0
    let w (j : Nat) : Nat := packedAt row (elemBits wf) j
    (List.range (mBatch raw)).foldl (fun (acc : State × Nat) q =>
      let x (j : Nat) : Nat := packedAt xr.2.1 (elemBits xf) (q * K + j)
      let y := gemvElem int server (fun j => elemValue wf (w j)) (fun j => elemValue xf (x j))
        (fun j => intElem wf (w j)) (fun j => intElem xf (x j)) K
      let o := acc.1.millWrite p d ((q * mRows raw + m) * ys) (leBytes ys (convertTo (mYfmt raw) (mRm raw) false y))
      (o.1, acc.2 + o.2)) (r.1, acc.2 + r.2)) (xr.1, xr.2.2)

/-- GATHER, indices a to b − 1. -/
def State.gatherRows (s : State) (p : Part) (d : MillDesc) (a b : Nat) : State × Nat :=
  let n := mLen d.raw
  (List.range (b - a)).foldl (fun (acc : State × Nat) i =>
    let A := mSrc d.raw + d.idx.getD (a + i) 0 * mStride d.raw
    let r := acc.1.millRead p A n
    let w := r.1.millWrite p d ((a + i) * n) (r.1.partBytes p A n)
    (w.1, acc.2 + r.2 + w.2)) (s, 0)

/-- One element of SCATTER_ADD (R123). -/
def scatterElem (wf xf : Nat) (rm : Rm) (t x : Nat) : Nat := convertTo wf rm false ((elemValue wf t).add (elemValue xf x))

/-- SCATTER_ADD, indices a to b − 1: each line is read, added to and written indivisibly; a line with an
uncorrectable error is left and counted (R123, R126). -/
def State.scatterRows (s : State) (p : Part) (d : MillDesc) (a b : Nat) : State × Nat :=
  let raw := d.raw
  let wf := mWfmt raw
  let xf := mXfmt raw
  let es := elemBits wf / 8
  let xs := elemBits xf / 8
  let n := mLen raw * es
  (List.range (b - a)).foldl (fun (acc : State × Nat) i =>
    let A := mSrc raw + d.idx.getD (a + i) 0 * mStride raw
    let x := acc.1.millX p d ((a + i) * mLen raw * xs) (mLen raw * xs)
    let old := x.1.partBytes p A n
    let new := (List.range (mLen raw)).flatMap fun e =>
      leBytes es (scatterElem wf xf (mRm raw) (fieldAt old (e * es) es) (fieldAt x.2.1 (e * xs) xs))
    (linesOf A n).foldl (fun (acc : State × Nat) l =>
      let lo := max A (128 * l)
      let hi := min (A + n) (128 * l + 128)
      let r := acc.1.millRead p lo (hi - lo)
      if r.2 = 0 then
        let w := r.1.writePart p .noAllocate lo (slice new (lo - A) (hi - lo))
        (w.1, acc.2 + w.2.length)
      else (r.1, acc.2 + r.2)) (x.1, acc.2 + x.2.2)) (s, 0)

/-- One element of REDUCE over its rows (R46, R124). -/
def reduceElem (wf : Nat) (mx : Bool) (xs : List Nat) : Num :=
  if isIntOperand wf ∨ wf = 0xE then
    let v := xs.map (intElem wf)
    Num.ofInt (match mx, v with
      | true, a :: rest => rest.foldl max a
      | true, [] => 0
      | false, _ => v.foldl (fun acc x => clampInt (-2147483648) 2147483647 (acc + x)) 0)
  else
    let v := xs.map fun x => (toF32 (elemValue wf x)).toNat
    f32 (match mx, v with
      | true, a :: rest => BitVec.ofNat 32 (rest.foldl fp32.maximum a)
      | true, [] => 0
      | false, _ => v.foldl (fun acc x => f32Add acc (BitVec.ofNat 32 x)) 0)

/-- REDUCE: its one output row. -/
def State.reduceRow (s : State) (p : Part) (d : MillDesc) : State × Nat :=
  let raw := d.raw
  let es := elemBits (mWfmt raw) / 8
  let ys := elemBits (mYfmt raw) / 8
  let at_ (r : Nat) : Nat := mSrc raw + r * mStride raw
  let r := (List.range (mRows raw)).foldl (fun (acc : State × Nat) r =>
    let x := acc.1.millRead p (at_ r) (mRowBytes 3 raw)
    (x.1, acc.2 + x.2)) (s, 0)
  let rows := (List.range (mRows raw)).map fun k => r.1.partBytes p (at_ k) (mRowBytes 3 raw)
  let out := (List.range (mLen raw)).flatMap fun e =>
    leBytes ys (convertTo (mYfmt raw) (mRm raw) false
      (reduceElem (mWfmt raw) (mFlag raw 5) (rows.map fun b => fieldAt b (e * es) es)))
  let w := r.1.millWrite p d 0 out
  (w.1, r.2 + w.2)

/-- COPY and FILL, 64 KiB blocks a to b − 1. -/
def State.blockRows (s : State) (p : Part) (d : MillDesc) (a b : Nat) : State × Nat :=
  (List.range (b - a)).foldl (fun (acc : State × Nat) i =>
    let off := (a + i) * 65536
    let n := min 65536 (mLen d.raw - off)
    if d.op = 4 then
      let r := acc.1.millRead p (mSrc d.raw + off) n
      let w := r.1.millWrite p d off (r.1.partBytes p (mSrc d.raw + off) n)
      (w.1, acc.2 + r.2 + w.2)
    else
      let w := acc.1.millWrite p d off (fillBytes (mX d.raw) n)
      (w.1, acc.2 + w.2)) (s, 0)

/-- Rows between boundaries (R119): output rows, indices, or 64 KiB blocks. -/
def mTotal (d : MillDesc) : Nat :=
  match d.op with
  | 0 => mRows d.raw
  | 1 => mCount d.raw
  | 2 => mCount d.raw
  | 3 => 1
  | _ => ceilDiv (mLen d.raw) 65536

/-- Work rows a to b − 1 of a descriptor: the state, and the lines that failed. -/
def State.millRows (s : State) (p : Part) (d : MillDesc) (a b : Nat) : State × Nat :=
  if b ≤ a then (s, 0)
  else match d.op with
    | 0 => s.gemvRows p d a b
    | 1 => s.gatherRows p d a b
    | 2 => s.scatterRows p d a b
    | 3 => s.reduceRow p d
    | _ => s.blockRows p d a b

/-! ### The queue (R116 to R119, R125) -/

/-- The partition of a descriptor's requester. -/
def State.millPart (s : State) (d : MillDesc) : Part := s.partOf d.site.core.val

/-- A descriptor completes in cluster n with a status (R125): SERVES on a read error, the record, the
signal, the counters, and its fused stage. -/
def State.completeMill (s : State) (n : Nat) (d : MillDesc) (st : BitVec 16) (bad : Nat) : State :=
  let g := d.site.core.val
  let j := d.site.share.val
  let s := if bad = 0 then s else s.faultServed d.serves
  let s := s.crecAndSig g j (mFlag d.raw 2) (mCrecAddr d.raw) (crecBytes (fieldAt d.raw 30 2) st bad) (mFlag d.raw 3)
    (fieldAt d.raw 2 2 % 2048)
  let s := (s.bump (cluBase n + 0xA04) 0 32 1).modCtx d.ctx fun c => { c with millDone := c.millDone + 1 }
  s.wordDone g j none d.stage

/-- A descriptor of d's context that was submitted before it has still to be routed to queue `dest` (R119). -/
def State.earlierUnrouted (s : State) (p : Part) (d : MillDesc) (dest : Nat) : Bool :=
  p.clusters.any fun n => (s.clu n).millSub.any fun (x : MillDesc) =>
    x.ctx == d.ctx && decide (x.id < d.id) && p.serving n x.raw == dest

/-- The oldest submitted descriptor of cluster n is routed (R116): to the cluster whose window holds its
key, which wakes for it (R419) and refuses work when it has no present Mill (R128) or is resetting (R390). A queue
receives each context's descriptors in submission order (R119). -/
def State.millRouteStep (s : State) (n : Nat) : State :=
  match (s.clu n).millSub with
  | [] => s
  | d :: rest =>
    let p := s.millPart d
    let dest := p.serving n d.raw
    if s.earlierUnrouted p d dest then s else
    let s := (s.wakeCluster dest).modClu n fun k => { k with millSub := rest }
    if (s.clu dest).resetting then s.completeMill dest d stUnitResetting 0
    else if (lowest 8 (s.millPresent dest)).isNone then s.completeMill dest d stUnitAbsent 0
    else s.modClu dest fun k => { k with millQ := k.millQ ++ [d] }

/-- The context that the rotation serves next: the lowest id above the last one granted, else the
lowest, among those with descriptors held (R119). -/
def CluSt.millNext (k : CluSt) : Option Nat :=
  let held := k.millQ.map MillDesc.ctx
  let last := match k.millLast with | some c => c + 1 | none => 0
  ((List.range 256).map fun i => (last + i) % 256).find? held.contains

/-- Replace a held descriptor. -/
def CluSt.setMill (k : CluSt) (d : MillDesc) : CluSt :=
  { k with millQ := k.millQ.map fun (x : MillDesc) => if x.id = d.id then d else x }
/-- Remove a held descriptor, and the grant with it. -/
def CluSt.dropMill (k : CluSt) (id : Nat) : CluSt :=
  { k with millQ := k.millQ.filter fun (x : MillDesc) => x.id != id, millCur := none }

/-- The queue grants service (R119), checking a descriptor that has not started (R121). -/
def State.grant (s : State) (n : Nat) (ev : List LineEvent) : State :=
  let k := s.clu n
  if k.millCur.isSome || !s.clusterUp n || (lowest 8 (s.millUp n)).isNone then s
  else match k.millNext with
    | none => s
    | some c => match k.millQ.find? fun d => d.ctx == c with
      | none => s
      | some d =>
        let s := (s.lineEvents ev).modClu n fun k => { k with millLast := some c }
        if d.started then s.modClu n fun k => { k with millCur := some d.id }
        else
          let p := s.millPart d
          let refuse (st : BitVec 16) (cause : Nat) : State :=
            ((s.modClu n fun k => k.dropMill d.id).completeMill n d st 0).progFault d.site.core.val
              d.site.share.val cause (engineOf 3) d.index
          if mBad d.op d.raw p then refuse stBadField 0x24
          else if s.mOut d p then refuse stOutOfBounds 0x25
          else s.modClu n fun k =>
            { k.setMill { d with started := true, idx := s.mIndices d } with millCur := some d.id }

/-- The descriptor in service of cluster n. -/
def CluSt.serving (k : CluSt) : Option MillDesc :=
  match k.millCur with
  | none => none
  | some id => k.millQ.find? fun d => d.id == id

/-- The grant runs out after `rows` more rows, at least one, before the descriptor's last; the grant ends (R119). -/
def State.expireGrant (s : State) (n rows : Nat) : State :=
  match (s.clu n).serving with
  | none => s
  | some d =>
    if !s.clusterUp n || rows = 0 || mTotal d ≤ d.rows + rows then s
    else
      let r := s.millRows (s.millPart d) d d.rows (d.rows + rows)
      r.1.modClu n fun k => { k.setMill { d with rows := d.rows + rows, bad := d.bad + r.2 } with millCur := none }

/-- The descriptor in service does its remaining rows and completes (R118, R125, R126). -/
def State.finishMill (s : State) (n : Nat) : State :=
  match (s.clu n).serving with
  | none => s
  | some d =>
    if !s.clusterUp n then s
    else
      let r := s.millRows (s.millPart d) d d.rows (mTotal d)
      let bad := d.bad + r.2
      (r.1.modClu n fun k => k.dropMill d.id).completeMill n d (if bad = 0 then stOk else stEccUncorrectable) bad

/-! ### Meanings -/

def execMillRoute (clu : Fin 32) (s : State) : Outcome := .next (s.millRouteStep clu.val)

def execMillGrant (clu : Fin 32) (ev : List LineEvent) (s : State) : Outcome := .next (s.grant clu.val ev)

def execGrantExpiry (clu : Fin 32) (rows : Nat) (s : State) : Outcome := .next (s.expireGrant clu.val rows)

def execMillCompletion (clu : Fin 32) (s : State) : Outcome := .next (s.finishMill clu.val)

end Sys2Proof.Machine
end

