-- ==== Sys2Proof/Machine/Ports.lean ====
section
/-! DEFINITION. Ports as they come UP and leave UP, and the start of a discovery (R300, R317, R339, R340,
R343, R354). -/

namespace Sys2Proof.Machine

/-- FAB block (Table 17.6). -/
def fabBase : Nat := 0x050000

/-- The ID field of Drover payloads and FAB.ID: id, VALID and RELAY. -/
def Net.idWord (n : Net) : Nat := n.id.toNat + 4096 * b2n n.idValid + 8192 * b2n n.relay

/-- Queue a Drover packet on ring port 0 (X), 1 (Y) or the spur, 2 (R339). -/
def State.drover (s : State) (port kind : Nat) (dst : BitVec 12) (payload : Bytes) : State :=
  let p := { s.buildPkt 0x37 12 dst 0 false payload with kind := kind }
  if port = 2 ∧ !s.spurOpen then s.discardOn 5 else s.modNet fun n => { n with ctl := n.ctl ++ [(some port, p)] }

/-- A HELLO on SOUT (R339). -/
def State.hello (s : State) : State :=
  let n := s.net
  s.drover 2 2 (if n.idValid then n.id else 0xFFF)
    (leBytes 8 Config.serial.toNat ++ leBytes 2 n.idWord ++ leBytes 1 n.nx ++ leBytes 1 n.ny ++
      leBytes 1 s.tb.frameSel.val ++ leBytes 1 n.disc ++ leBytes 2 0)

/-- A discovery round begins with nothing rolled yet (R340). -/
def Net.beginRound (n : Net) (k : Nat) : Net := { n with disc := 1, round := k, rings := [] }

/-- A discovery starts at round 1; the origin is not known yet (R340, R341). Before ready none starts (R376). -/
def State.startDiscovery (s : State) : State :=
  if !s.ready then s
  else s.modNet fun n => { n.beginRound 1 with minSer := Config.serial, orgRow := false, orgCol := false }

/-- Own coordinates: those of the id, of the relay position, or none (R329). -/
def Net.coords (n : Net) : Option (Nat × Nat) :=
  if n.idValid then some (n.id.toNat % 64, n.id.toNat / 64)
  else if n.relay then some (63, 63) else none

/-- A 64-bit map with bit i as given. -/
def setBit64 (m : W64) (i : Nat) (v : Bool) : W64 :=
  if v then m ||| BitVec.ofNat 64 (2 ^ i) else m &&& ~~~(BitVec.ofNat 64 (2 ^ i))

/-- The ring maps take new values; FAB.EVENTS says what became broken or whole (R337, R347). -/
def State.setMaps (s : State) (x y : W64) : State :=
  let n := s.net
  let broke := (n.xMap &&& ~~~x) ||| (n.yMap &&& ~~~y)
  let whole := (x &&& ~~~n.xMap) ||| (y &&& ~~~n.yMap)
  (s.modNet fun n => { n with xMap := x, yMap := y }).setBits (fabBase + 0x34)
    (2 * b2n (broke != 0) + 4 * b2n (whole != 0))

/-- The own X ring (0) or Y ring (1) is marked whole or broken, in its state and in the map (R340). -/
def State.setWhole (s : State) (ring : Nat) (v : Bool) : State :=
  let s := s.modNet fun n => if ring = 0 then { n with xWhole := v } else { n with yWhole := v }
  match s.net.coords with
  | none => s
  | some (x, y) =>
    if ring = 0 then s.setMaps (setBit64 s.net.xMap y v) s.net.yMap
    else s.setMaps s.net.xMap (setBit64 s.net.yMap x v)

/-- Packets owed to the own id go out once the device holds an id and SOUT is UP (R354). -/
def State.releaseHeld (s : State) : State :=
  if s.net.idValid ∧ (s.port 5).state = 2 then
    s.modNet fun n =>
      let ps := n.ownHeld.map fun p => { p with dst := n.id, src := n.id }
      { n with ownHeld := [],
               ctl := n.ctl ++ (ps.filter (·.dt == 0x36)).map fun p => (some 2, p),
               out := n.out ++ (ps.filter (·.dt != 0x36)).map fun p => { pkt := p, spur := true, charge := p.part } }
  else s

/-- Bytes of a packet in a buffer or on a ring: header and payload (R333, R335). -/
def Pkt.size (p : Pkt) : Nat := 32 + p.payload.length

/-- `size` bytes of a packet of a reliable space leave the receive buffer: its sender is owed their receive
credits, of 256 bytes each (R335). -/
def State.owe (s : State) (src : BitVec 12) (spur : Bool) (vc size : Nat) : State :=
  s.modNet fun n =>
    { n with rxFill := n.rxFill - size,
             rcv := n.rcv.map fun x => if x.src == src && x.spur == spur && x.vc == vc && x.rel then
                 { x with owed := x.owed + ceilDiv size 256 } else x }

/-- A relayed packet leaves the receive buffer (R335). -/
def State.leaveRx (s : State) (o : OutPkt) : State :=
  match o.rx with
  | some (src, spur, vc, size) => s.owe src spur vc size
  | none => s

/-- Receive credits that a packet needs (R335). -/
def Pkt.credits (p : Pkt) : Nat := if p.rel && p.dt != 0x32 then ceilDiv p.size 256 else 0

def Snd.keyed (x : Snd) (dst : BitVec 12) (spur : Bool) (vc : Nat) (rel : Bool) : Bool :=
  x.dst == dst && x.spur == spur && x.vc == vc && x.rel == rel

/-- A packet belongs to a sender's space. -/
def Snd.owns (x : Snd) (o : OutPkt) : Bool := x.keyed o.pkt.dst o.spur o.pkt.vc o.pkt.rel

/-- A space opens again, with 256 credits, by SYNC on its first packet: the oldest it still holds, else the next one
(R317, R319, R335; log entry 34). -/
def Snd.resync (x : Snd) : Snd :=
  match x.held with
  | [] => { x with fresh := true }
  | o :: l => { x with held := { o with pkt := { o.pkt with sync := true } } :: l,
                       credits := 256 - (x.held.map fun y => y.pkt.credits).sum }

/-- The spaces that satisfy a test open again, and what they hold is sent again. -/
def Net.resync (n : Net) (f : Snd → Bool) : Net :=
  let l := (n.snd.filter f).map Snd.resync
  { n with snd := n.snd.map fun (x : Snd) => if f x then x.resync else x,
           retx := n.retx.filter (fun o => !l.any (·.owns o)) ++ l.flatMap Snd.held }

/-- The first hop to a device: X then Y, else Y then X, else none (R337). -/
def Net.route (n : Net) (dst : BitVec 12) : Option Nat :=
  let x := n.id.toNat % 64
  let y := n.id.toNat / 64
  let x1 := dst.toNat % 64
  let y1 := dst.toNat / 64
  if (x1 = x || n.xMap.getLsbD y) && (y1 = y || n.yMap.getLsbD x1) then some (if x1 = x then 4 else 3)
  else if (y1 = y || n.yMap.getLsbD x) && (x1 = x || n.xMap.getLsbD y1) then some (if y1 = y then 3 else 4)
  else none

/-- A space sends through port p; a broadcast, and one without a route, through either ring port. -/
def Snd.uses (x : Snd) (n : Net) (p : Nat) : Bool :=
  if p = 5 then x.spur
  else !x.spur && (x.dst == 0xFFF || match n.route x.dst with
    | some q => q == p
    | none => true)

/-- A port's spaces open again as it comes UP (R317, R343); all of them once the device is ready (R392). -/
def Net.reopen (n : Net) (p : Nat) : Net := n.resync fun x => x.uses n p
def Net.reopenAll (n : Net) : Net := n.resync fun _ => true

/-- With no host on the spur, everything bound for it is discarded and counted, and acknowledged to its senders (R330,
R343). -/
def State.closeSpur (s : State) : State :=
  let gone := s.net.out.filter (·.spur)
  let held := (s.net.snd.filter (·.spur)).map fun x => x.held.length
  let ctl := s.net.ctl.filter fun x => x.1 == some 2
  let s := s.each gone State.leaveRx
  (s.modNet fun n =>
    { n with out := n.out.filter fun o => !o.spur, retx := n.retx.filter fun o => !o.spur, snd := n.snd.filter fun x => !x.spur,
             ctl := n.ctl.filter fun x => x.1 != some 2 }).bump (lnkReg 5 0x1C) 0 32 (gone.length + held.sum + ctl.length)

/-- Ports of a ring. -/
def ringPort (p : Nat) : Bool := p != 2 && p != 5

/-- Port p reaches UP (R304, R317, R340, R343). -/
def State.portUp (s : State) (p : Nat) : State :=
  if (s.port p).state = 2 then s
  else
    let s := if p = 5 ∧ !s.spurOpen then s.closeSpur else s
    let s := (s.modPort p fun x => { x with state := 2, marked := false, fe := none, fs := none }).setBits (lnkReg p 0x2C) 2
    let s := if 3 ≤ p then s.modNet fun n => n.reopen p else s
    if ringPort p then s.startDiscovery else if p = 5 then s.hello.releaseHeld else s

/-- Port p takes state `st`; when it leaves UP, that is recorded, a ring port marks its
ring broken and starts a discovery (R340), and a spur that does not only retrain has lost its host (R330). -/
def State.portLeaves (s : State) (p st : Nat) : State :=
  let up := (s.port p).state == 2
  let s := s.modPort p fun x => { x with state := st }
  let s := if p = 5 ∧ !s.spurOpen then s.closeSpur else s
  if !up then s
  else
    let s := s.setBits (lnkReg p 0x2C) 1
    if ringPort p then (s.setWhole (p % 3) false).startDiscovery else s

/-- Highest TX_RATE of a port's PHY (R300). -/
def State.maxRate (s : State) (p : Nat) : Nat := if s.phyMode.getLsbD p then 7 else 8

/-- A write to LNK.TX_RATE sets a transmit port's rate and retrains the port; values above the PHY's
highest are ignored, and so is a write to a receive port (R300, Table 16.10). -/
def State.writeTxRate (s : State) (p v : Nat) : State :=
  let r := v % 16
  if p < 3 ∨ s.maxRate p < r then s
  else (s.modPort p fun x => { x with rate := r }).portLeaves p 1

end Sys2Proof.Machine
end

