-- ==== Sys2Proof/Machine/Registers.lean ====
section
/-! DEFINITION. The registers (R5 to R10): every block's map, what a read returns and does, what a write
does, and the commands that read and write registers. -/

namespace Sys2Proof.Machine

/-! ### Helpers -/

/-- Word i of a byte string. -/
def wordOf (b : Bytes) (i : Nat) : Nat := fieldAt b (4 * i) 4

/-- A read-only word, where the offset is assigned. -/
def okIf (c : Bool) (n : Nat) : Option Nat := if c then some n else none

/-! ### SYS, TB (Tables 19.9, 2.4) -/

/-- Counters of time or energy, whose increments the model has no clock to compute: PWR.ENERGY, CLU_THROTTLED and
CLU_GATED; CLU.CH_BUSY, MILL_BUSY and RNG_WAIT (log entry 17). -/
def timedReg (a : Nat) : Bool :=
  let o := a % 65536
  match a / 65536 with
  | 0x6 => (decide (0x10 ≤ o) && decide (o < 0x40) && o % 8 == 0) ||
      (decide (0x100 ≤ o) && decide (o < 0x300) && (o % 16 == 8 || o % 16 == 0xC))
  | _ => decide (0x10 ≤ a / 65536) && decide (a / 65536 < 0x30) && (o == 0xC10 ||
      (decide (0x900 ≤ o) && decide (o < 0xA00) && o % 32 == 0x10) ||
      (decide (0xA20 ≤ o) && decide (o < 0xAA0) && o % 16 == 0))

/-- Such a counter of 64 bits; the others are 32-bit saturating RC fields. -/
def timedWide (a : Nat) : Bool := timedReg a && decide (a % 65536 < 0x40 || (0x10 ≤ a / 65536 && a % 65536 != 0xC10))

/-- The counter is counting: CLU_THROTTLED while its cluster throttles, CLU_GATED while the cluster's clock is stopped,
the others since start-up began. -/
def State.counts (s : State) (a : Nat) : Bool :=
  let o := a % 65536
  if a / 65536 = 0x6 ∧ 0x100 ≤ o then
    if o % 16 = 8 then (s.clu ((o - 0x100) / 16)).throttle != 0 else (s.clu ((o - 0x100) / 16)).power != 0
  else s.started

/-- What such a counter holds now: what it held when it was last read or stopped, and a free amount for the time it has
counted since. -/
def State.timedValue (s : State) (a : Nat) : Nat :=
  let more := if s.counts a then (Config.measured a s.free).toNat else 0
  if timedWide a then ((s.wide64 a).toNat + more % 2 ^ 48) % 2 ^ 64
  else min ((s.reg a).toNat + more % 2 ^ 32) 0xFFFFFFFF

def State.sysReg (s : State) (o : Nat) : Option Nat :=
  match o with
  | 0x00 => some (0x0768 + 65536 * Config.rev.toNat + 2 ^ 28 * b2n Config.gradeP)
  | 0x04 => some Config.romVersion.toNat
  | 0x08 => some s.patchVersion.toNat
  | 0x0C => some (s.stageLevel + 8 * b2n s.halted + 256 * s.stageMask 2 + 65536 * s.stageMask 3)
  | 0x10 => some (b2n s.ready + 2 * b2n s.halted + 4 * b2n (s.patchVersion != 0) + 65536 * maskOf s.partIds)
  | 0x14 => some (maskOf ((List.range 16).filter fun p => (s.part p).resetting))
  | 0x18 => some s.resetCause
  | 0x1C => some s.resets.toNat
  | 0x20 => some (s.reg 0x20).toNat
  | 0x24 => some s.eventSeq.toNat
  | 0x200 => some (s.reg 0x200).toNat
  | _ => okIf (decide (0x40 ≤ o) && decide (o < 0x140)) (wordOf (s.stageReport ((o - 0x40) / 32)) ((o - 0x40) % 32 / 4))

/-- Timebase state code (Table 2.4). -/
def TbSt.code : TbSt → Nat
  | .acquire => 0
  | .locked => 1
  | .relock => 2
  | .holdover => 3

/-- Some output is muted under R35. -/
def State.rangeMuted (s : State) : Bool :=
  ((List.range 8).any fun o => (s.out o).rangeA || (s.out o).rangeB) || (List.range 16).any fun g => (s.group g).range != 0

def State.tbReg (s : State) (o : Nat) : Option Nat :=
  let t := s.tb
  match o with
  | 0x08 => some (t.src.val + 4 * t.frameSel.val)
  | 0x0C => some t.intRate.toNat
  | 0x10 => some (t.st.code + 8 * b2n s.rangeMuted + 16 * t.miss + 256 * t.rej)
  | 0x14 => some (s.reg (tbBase + 0x14)).toNat
  | 0x18 => some t.rate.toNat
  | 0x1C => some t.ratio.toNat
  | 0x28 => some t.chgOld.toNat
  | 0x2C => some t.chgNew.toNat
  | 0x30 => some (s.reg (tbBase + 0x30)).toNat
  | 0x34 => some (s.reg (tbBase + 0x34)).toNat
  | 0x38 => some s.delayed.length
  | _ => none

/-! ### AUD (Table 15.6) -/

/-- Pending mask of group g, none while no change is queued. -/
def State.pendMask (s : State) (g : Nat) : Option W64 :=
  let now : W64 := if g = 0 then s.slotMask.zeroExtend 64 else (s.group g).mask
  let mine := (s.due ++ s.changes).filterMap fun c => match c with
    | .mask k bits value => if k = g then some (bits, value) else none
    | _ => none
  if mine.isEmpty then none
  else some (mine.foldl (fun (m : W64) (c : W64 × W64) => (m &&& ~~~c.1) ||| (c.2 &&& c.1)) now)

/-- ρ is 1. -/
def rhoOne (r : Nat × Nat) : Bool := r.1 == r.2

/-- CSI-2 slots that use a converter slot (R287). -/
def State.convGroups (s : State) : Nat :=
  ((List.range 16).map fun g => ((s.group g).slots.filter fun (x : Nat × Option Nat) => match x.2 with
    | some i => !rhoOne (s.rhoOf (s.fOut (s.group g).clk.val) i)
    | none => false).length).sum

/-- AUD.ASRC_SLOTS: channels' own slots, and as many of slots 16 to 31 as CSI-2 bindings use. -/
def State.asrcSlots (s : State) : Nat :=
  let ch := (List.range 16).filter fun c => match (s.achan c).stream with
    | some i => !rhoOne (s.rhoOf (s.fOut (s.out (c / 2)).clk.val) i)
    | none => false
  maskOf (ch ++ (List.range (min 16 s.convGroups)).map (· + 16))

/-- Applied ρ of channel c in 8.24 (Table 15.6). -/
def State.ratioReg (s : State) (c : Nat) : Nat :=
  match (s.achan c).stream with
  | some i => (rho824 (s.rhoOf (s.fOut (s.out (c / 2)).clk.val) i)).toNat
  | none => 0

def State.outRegVal (s : State) (o r : Nat) : Option Nat :=
  let x := s.out o
  match r with
  | 0x00 => some (b2n x.en + 2 * b2n x.consumer + 4 * x.wlen.val + 16 * x.clk.val + 128 * b2n x.draining +
      256 * x.part.getD 0 + 4096 * b2n x.part.isSome + 8192 * x.category.toNat + 2 ^ 21 * b2n x.copyOk)
  | 0x04 => some (b2n x.rangeA + 2 * b2n x.rangeB + 4 * b2n x.clkMute)
  | 0x08 => some (if x.en then s.fOut x.clk.val else 0)
  | 0x0C => some (s.ratioReg (2 * o))
  | 0x10 => some (s.ratioReg (2 * o + 1))
  | 0x14 => some x.frames.toNat
  | 0x18 => some (s.reg (outReg o 0x18)).toNat
  | 0x1C => some (s.reg (outReg o 0x1C)).toNat
  | _ => none

def State.inRegVal (s : State) (i r : Nat) : Option Nat :=
  let x := s.ain i
  match r with
  | 0x00 => some (b2n x.capture + 2 * x.part.getD 0 + 32 * b2n x.part.isSome)
  | 0x04 => some (b2n x.locked + 2 * b2n x.nonAudio + 4 * b2n x.pro)
  | 0x08 => some x.rate.toNat
  | 0x0C => some x.wr.toNat
  | 0x18 => some (s.reg (inReg i 0x18)).toNat
  | 0x1C => some (s.reg (inReg i 0x1C)).toNat
  | _ => okIf (decide (0x20 ≤ r) && decide (r < 0x38)) (wordOf x.cs ((r - 0x20) / 4))

def State.audReg (s : State) (o : Nat) : Option Nat :=
  if o < 0x100 then s.outRegVal (o / 32) (o % 32)
  else if o = 0x100 then some s.slotMask.toNat
  else if o = 0x104 then some (match s.pendMask 0 with | some m => m.toNat % 65536 + 65536 | none => 0)
  else if o = 0x108 then some (s.reg (audBase + 0x108)).toNat
  else if o = 0x10C then some s.asrcSlots
  else if 0x140 ≤ o ∧ o < 0x180 then
    let x := s.achan ((o - 0x140) / 4)
    some (x.stream.getD 0 + 4096 * b2n x.stream.isSome + 8192 * b2n x.successor.isSome)
  else if 0x200 ≤ o ∧ o < 0x280 then s.inRegVal ((o - 0x200) / 64) ((o - 0x200) % 64)
  else none

/-! ### LNK, I3C (Tables 16.10, 16.11) -/

def State.portReg (s : State) (p r : Nat) : Option Nat :=
  let x := s.port p
  let phy := s.phyMode.getLsbD p
  match r with
  | 0x00 => some (b2n phy + 2 * b2n (decide (3 ≤ p)))
  | 0x04 => some (x.state + (if x.state = 2 then 256 * (if phy then 3 else 4) else 0))
  | 0x08 => some (if p < 3 then 0 else x.rate)
  | 0x14 => some (s.reg (lnkReg p 0x14)).toNat
  | 0x18 => some (s.reg (lnkReg p 0x18)).toNat
  | 0x1C => some (s.reg (lnkReg p 0x1C)).toNat
  | 0x20 => some (s.reg (lnkReg p 0x20)).toNat
  | 0x24 => some (s.reg (lnkReg p 0x24)).toNat
  | 0x28 => some (s.reg (lnkReg p 0x28)).toNat
  | 0x2C => some (s.reg (lnkReg p 0x2C)).toNat
  | _ => none

def State.groupReg (s : State) (g r : Nat) : Option Nat :=
  let x := s.group g
  match r with
  | 0x00 => some (b2n x.active + 2 * x.part + 32 * x.clk.val + 256 * x.fmt.val + 1024 * x.vc + 2 ^ 14 * x.dest.toNat +
      2 ^ 31 * b2n (s.pendMask g).isSome)
  | 0x14 => some (s.reg (0x031000 + 0x20 * g + 0x14)).toNat
  | 0x18 => some (s.reg (0x031000 + 0x20 * g + 0x18)).toNat
  | 0x1C => some (s.reg (0x031000 + 0x20 * g + 0x1C)).toNat
  | _ => none

def State.lnkVal (s : State) (o : Nat) : Option Nat :=
  if o < 0x600 then s.portReg (o / 256) (o % 256)
  else if 0x1020 ≤ o ∧ o < 0x1200 then s.groupReg ((o - 0x1000) / 32) ((o - 0x1000) % 32)
  else none

def i3cBase : Nat := 0x040000

/-- Provisional ID (R321). -/
def State.pid (s : State) : Nat := 0x2B6E * 2 ^ 33 + 0x0768 * 65536 + s.i3cSa.toNat * 4096 + Config.rev.toNat

/-- Commands outstanding or unread over I3C (R325). -/
def I3c.busy (x : I3c) : Nat := x.outstanding + x.cpl.length

def State.i3cReg (s : State) (o : Nat) : Option Nat :=
  let x := s.i3c
  match o with
  | 0x00 => some (x.da.toNat + 128 * b2n x.daValid + 256 * s.i3cSa.toNat)
  | 0x04 => some (s.pid % 2 ^ 32)
  | 0x08 => some (s.pid / 2 ^ 32)
  | 0x0C => some 0x27
  | 0x10 => some (x.mwl + 2 ^ 14 * x.mrl)
  | 0x14 => some (b2n x.enint + 2 * b2n x.enhj)
  | 0x18 => some (s.reg (i3cBase + 0x18)).toNat
  | 0x1C => some x.ibi.toNat
  | 0x100 => some (min 16 x.busy + fld (s.reg (i3cBase + 0x100)).toNat 5 1 * 32)
  | 0x104 => some (min 16 x.cpl.length + 32 * (x.cpl.headD []).length)
  | _ =>
    if 0x1000 ≤ o ∧ o < 0x2000 then some 0
    else okIf (decide (0x2000 ≤ o) && decide (o < 0x2100)) (wordOf (x.cpl.headD []) ((o - 0x2000) / 4))

/-! ### FAB, PWR, SEC, FLP (Tables 17.6, 21.6, 20.10, 19.10) -/

/-- Turn-buffer bytes in use. -/
def State.turnFill (s : State) : Nat := (s.net.turn.map fun x => x.2.size).sum

def State.fabReg (s : State) (o : Nat) : Option Nat :=
  let n := s.net
  match o with
  | 0x00 => some n.idWord
  | 0x04 => some (n.nx + 256 * n.ny)
  | 0x08 => some (n.disc + 4 * b2n n.xWhole + 8 * b2n n.yWhole + 16 * b2n n.fMismatch + 256 * n.rounds)
  | 0x0C => some (s.deviceQuota + 2 ^ 25 * b2n n.quotaSet.isSome)
  | 0x18 => some s.turnFill
  | 0x1C => some (s.reg (fabBase + 0x1C)).toNat
  | 0x20 => some (s.reg (fabBase + 0x20)).toNat
  | 0x24 => some (s.reg (fabBase + 0x24)).toNat
  | 0x28 => some (s.reg (fabBase + 0x28)).toNat
  | 0x2C => some (s.reg (fabBase + 0x2C)).toNat
  | 0x30 => some n.rxFill
  | 0x34 => some (s.reg (fabBase + 0x34)).toNat
  | 0x38 => some (s.reg (fabBase + 0x38)).toNat
  | _ =>
    let p := (o - 0x40) / 4
    okIf (decide (0x40 ≤ o) && decide (o < 0x80))
      (if (s.part p).exists_ then s.partQuota p + 2 ^ 25 * b2n (s.part p).quotaSet.isSome else 0)

/-- The hottest cluster sensor, as a two's complement byte. -/
def State.hottest (s : State) : Byte :=
  (List.range 32).foldl (fun (m : Byte) n => if m.slt (s.clu n).temp then (s.clu n).temp else m) (s.clu 0).temp

def pwrBase : Nat := 0x060000

def State.pwrReg (s : State) (o : Nat) : Option Nat :=
  if o = 0 then some (b2n s.tripped + 2 * b2n ((List.range 32).any fun n => (s.clu n).throttle != 0))
  else if o = 4 then some (s.reg (pwrBase + 4)).toNat
  else if o = 8 then some (s.hottest.toNat + 256 * s.stewardTemp.toNat)
  else if 0x100 ≤ o ∧ o < 0x300 then
    let c := s.clu ((o - 0x100) / 16)
    if o % 16 = 0 then some (c.power + 4 * c.throttle + 256 * c.temp.toNat)
    else if o % 16 = 4 then some (s.reg (pwrBase + o)).toNat
    else some (s.timedValue (pwrBase + o))
  else okIf (o == 0x300) (s.reg (pwrBase + 0x300)).toNat

def secBase : Nat := 0x070000

def State.secReg (s : State) (o : Nat) : Option Nat :=
  let words (f : Nat → Byte) (i : Nat) : Nat := leNat ((List.range 4).map fun b => f (4 * i + b))
  if o = 0 then
    some (b2n s.debug + 2 * b2n s.entropyFail + 4 * b2n s.challenge.isSome + 8 * b2n (!s.lane0.isEmpty))
  else if o = 4 ∨ o = 8 ∨ o = 0xC then some (s.reg (secBase + o)).toNat
  else if 0x10 ≤ o ∧ o < 0x50 then
    let p := s.part ((o - 0x10) / 4)
    some (b2n p.owner.isSome + 2 * b2n p.signedOnly + (match p.owner with | some k => 4 * k.1 | none => 0))
  else if 0x100 ≤ o ∧ o < 0x130 then some (words Config.idPk ((o - 0x100) / 4))
  else if 0x140 ≤ o ∧ o < 0x180 then some (words Config.chainDigest ((o - 0x140) / 4))
  else if 0x180 ≤ o ∧ o < 0x1C0 then some (words Config.romDigest ((o - 0x180) / 4))
  else okIf (decide (0x1C0 ≤ o) && decide (o < 0x200)) (wordOf s.patchDigest ((o - 0x1C0) / 4))

/-! ### LDG (Table 9.7) -/

/-- CHAIN of an entry (Table 9.1). -/
def Entry.chainWord (e : Entry) : Nat :=
  ((List.range 4).map fun j => e.chain.getD j 0 * 64 ^ j).sum + 2 ^ 24 * (e.links - 1)

/-- HEADROOM as it reads: 0xFFFF_FFFF while the stream counts as unbound (R191). -/
def State.headroomShown (s : State) (e : Entry) : Word := if s.countsBound e then e.headroom else 0xFFFFFFFF

/-- The entry's 128 bytes (Table 9.1), HEADROOM as it reads. -/
def Entry.toBytes (i : Nat) (e : Entry) (headroom : Word) : Bytes :=
  leBytes 2 (i + 4096 * e.part.getD 0) ++
    leBytes 1 (e.status.code + 8 * b2n e.held + 16 * b2n e.seqend + 32 * b2n e.resetPend + 64 * b2n e.moving +
      128 * b2n e.parking) ++
    leBytes 1 e.context ++ leBytes 4 e.chainWord ++ leBytes 4 e.pos ++ leBytes 2 e.step ++ leBytes 2 e.fault.toNat ++
    leBytes 8 e.state.toNat ++ leBytes 4 e.stateSize.toNat ++ leBytes 4 e.lowWater.toNat ++ leBytes 8 e.init.toNat ++
    leBytes 6 e.iqBase.toNat ++ leBytes 2 e.iqSlot.toNat ++ leBytes 2 e.iqDepth ++ leBytes 2 e.iqRd ++ leBytes 2 e.iqWr ++
    leBytes 2 e.cqFrame.toNat ++ leBytes 8 e.cqBase.toNat ++
    leBytes 4 ((List.range 3).map fun j => ((e.chainQ j).fill + 32 * (e.chainQ j).rd) * 512 ^ j).sum ++
    leBytes 4 e.bind.toNat ++ leBytes 5 e.orBase.toNat ++ leBytes 1 e.orFmt.toNat ++ leBytes 2 0 ++
    leBytes 4 e.orSize.toNat ++ leBytes 4 e.orRd.toNat ++ leBytes 4 e.orWr.toNat ++ leBytes 4 headroom.toNat ++
    leBytes 4 e.ringRate.toNat ++ leBytes 4 e.underruns.toNat ++ leBytes 4 e.slip.toNat ++ leBytes 4 e.discards.toNat ++
    leBytes 8 e.commits.toNat ++ leBytes 8 0

/-- The snapshot of an accessor: a partition 0 to 15, or 16 for I3C (R205). -/
def State.snap (s : State) (acc : Nat) : Snap := Tbl.get {} s.snaps acc

/-- Writing LDG.SEL latches the selected entry and the counter (R205). -/
def State.select (s : State) (acc i : Nat) : State :=
  let x : Snap := { sel := BitVec.ofNat 12 i, entry := (s.entry i).toBytes i (s.headroomShown (s.entry i)), time := s.tb.count }
  { s with snaps := Tbl.set {} s.snaps acc x }

def State.ldgReg (s : State) (acc o : Nat) : Option Nat :=
  if o = 0 then some ((s.entries.filter fun (x : Nat × Entry) => x.2.status != .closed || x.2.held).length)
  else if o = 4 then some (s.snap acc).sel.toNat
  else if o = 0x10 ∨ o = 0x14 ∨ (0x20 ≤ o ∧ o < 0x60) then some (s.reg (ldgBase + o)).toNat
  else if 0x100 ≤ o ∧ o < 0x180 then some (wordOf (s.snap acc).entry ((o - 0x100) / 4))
  else if 0x200 ≤ o ∧ o < 0x240 then
    let p := (o - 0x200) / 4
    some ((s.part p).ledgerQuota + 65536 * (s.entries.filter fun (x : Nat × Entry) => x.2.belongs p).length)
  else if 0x300 ≤ o ∧ o < 0x400 then
    let r := (o - 0x300) / 4
    some (match s.rope r with
      | some x => s.inflight r + 128 + 256 * x.bmax + 65536 * x.rot
      | none => 0)
  else okIf (decide (0x400 ≤ o) && decide (o < 0x500)) (s.reg (ldgBase + o)).toNat

/-! ### CLU (Tables 4.8, 5.12, 6.5, 13.x, 14.x) -/

/-- CORE_STAT (Table 4.8). OCCUPIED reads 1 from the moment a context takes the share, while it still prepares it (DESIGN
CHOICE, log entry 100). -/
def State.coreStat (s : State) (g : Nat) : Nat :=
  let c := s.core g
  maskOf ((List.range 4).filter fun j => (s.share g j).ctx.isSome) +
    16 * maskOf ((List.range 4).filter fun j => (Tbl.get ({} : ShareSt) c.shares j).faulted) + 256 * s.unitState (.core (Fin.ofNat 2048 g))

def State.tallyCfg (s : State) (h : ShareSt) : Nat :=
  let retiring := match h.ctx with
    | some c => (match s.ctx c with | some x => x.retiring | none => false)
    | none => false
  h.cfgWeight + 256 * h.cfgBorrow + 2 ^ 16 * b2n (s.isUrgent h && h.weight != 0) + 2 ^ 17 * b2n retiring + 2 ^ 18 * b2n h.starving

def State.cluReg (s : State) (n o : Nat) : Option Nat :=
  let c := s.clu n
  let raw := some (s.reg (cluBase n + o)).toNat
  let part := match c.part with | some p => s.part p | none => {}
  if o = 0x100 then some c.mode
  else if o = 0x104 then
    some (c.narQ.length + 512 * c.slots.length +
      2 ^ 18 * (c.slots.filter fun (x : Slot) => (s.entry x.stream).pend.isSome).length +
      2 ^ 27 * b2n (Tbl.get 0 s.narrowMap n == 2))
  else if o = 0x108 ∨ o = 0x10C then raw
  else if 0x200 ≤ o ∧ o < 0x300 then some (s.coreStat (64 * n + (o - 0x200) / 4))
  else if 0x400 ≤ o ∧ o < 0x800 then
    let j := o % 16 / 4
    let h := s.share (64 * n + (o - 0x400) / 16) j
    some (if shareCount c.mode ≤ j then 0 else h.cause.toNat + 256 * h.engine.toNat + 4096 * h.faultIndex.toNat)
  else if o = 0x800 then
    some (match c.part with | some p => p + 16 + 256 * part.local_ + 2 ^ 13 * c.rank | none => 0)
  else if o = 0x804 then some (match c.part with | some _ => part.salt.toNat + 65536 * part.nch | none => 0)
  else if o = 0x810 then some (Tbl.get 0 part.ways n).toNat
  else if o = 0x830 then
    some (c.held.length + 1024 * c.txns.length)
  else if o = 0x834 ∨ o = 0x838 then raw
  else if 0x900 ≤ o ∧ o < 0xA00 ∧ o % 32 = 0x18 then raw
  else if 0x900 ≤ o ∧ o < 0xA00 ∧ o % 32 = 0x1C then
    let h := s.chan (8 * n + (o - 0x900) / 32)
    some (h.temp.toNat + 256 * b2n h.hot + 512 * b2n h.halved + 1024 * b2n h.selfRefresh)
  else if o = 0xA00 then
    some (c.millQ.length + 65536 * maskOf ((List.range 8).filter fun k => Tbl.get 0 s.millMap (8 * n + k) == 0))
  else if o = 0xA04 ∨ o = 0xA08 then raw
  else if 0xA20 ≤ o ∧ o < 0xAA0 ∧ o % 16 = 8 then raw
  else if 0xA20 ≤ o ∧ o < 0xAA0 ∧ o % 16 = 0xC then
    let k := (o - 0xA20) / 16
    some (Tbl.get 0 s.millMap (8 * n + k) + 4 * (s.millServer n k).getD k)
  else if o = 0xB00 ∨ o = 0xB04 ∨ o = 0xB08 then raw
  else if o = 0xC08 ∨ o = 0xC0C ∨ o = 0xD00 then raw
  else if o = 0xC10 then some (s.timedValue (cluBase n + o))
  else if 0x3000 ≤ o ∧ o < 0x4000 then
    let h := s.share (64 * n + (o - 0x3000) / 64) (o % 64 / 16)
    some (if shareCount c.mode ≤ o % 64 / 16 then 0 else match o % 16 / 4 with
      | 0 => s.tallyCfg h
      | 1 => unsigned 32 h.deficit
      | 2 => h.borrowed % 65536
      | _ => h.debt)
  else none

/-! ### Latched pairs -/

/-- A Tally counter of a share, by its place in the share's 32 bytes. -/
def ShareSt.tally (h : ShareSt) (k : Nat) : W64 :=
  match k with
  | 0 => h.tallyFe
  | 1 => h.tallyMx
  | 2 => h.tallyVx
  | _ => h.tallySc

/-- The 64-bit value of a pair in cluster n, by the offset of its _LO register. -/
def State.cluPair (s : State) (n o : Nat) : Option Nat :=
  let c := s.clu n
  let wide := some (s.wide64 (cluBase n + o)).toNat
  if o = 0x808 then
    some (match c.part with
      | some p => if (s.part p).local_ = 0 then 0 else (s.part p).windowBase c.rank
      | none => 0)
  else if o = 0x818 ∨ o = 0x820 ∨ o = 0x828 ∨ o = 0x840 then wide
  else if 0x900 ≤ o ∧ o < 0xA00 ∧ (o % 32 = 0 ∨ o % 32 = 8) then wide
  else if timedReg (cluBase n + o) ∧ o ≠ 0x830 ∧ o ≠ 0xC10 then some (s.timedValue (cluBase n + o))
  else if o = 0xC00 then wide
  else if o = 0xC14 then some (maskOf ((List.range 64).filter fun m => (s.core (64 * n + m)).overdue))
  else if 0x1000 ≤ o ∧ o < 0x3000 ∧ o % 8 = 0 then
    let j := o % 128 / 32
    some (if shareCount c.mode ≤ j then 0 else ((s.share (64 * n + (o - 0x1000) / 128) j).tally (o % 32 / 8)).toNat)
  else none

/-- The 64-bit value of the pair whose _LO register stands at address a. -/
def State.pairValue (s : State) (acc a : Nat) : Option Nat :=
  let o := a % 65536
  match a / 65536 with
  | 0x1 => if o = 0 then some s.now else if o = 0x20 then some s.tb.chgTime.toNat else none
  | 0x2 => if o = 0x210 then some (s.ain 0).time.toNat else if o = 0x250 then some (s.ain 1).time.toNat else none
  | 0x3 =>
    if o < 0x600 then okIf (o % 256 == 0x0C) (s.wide64 a).toNat
    else if 0x1020 ≤ o ∧ o < 0x1200 then
      if o % 32 = 4 then some (s.group ((o - 0x1000) / 32)).mask.toNat
      else if o % 32 = 0xC then some ((s.pendMask ((o - 0x1000) / 32)).getD 0).toNat
      else none
    else none
  | 0x5 =>
    if o = 0x10 then some Config.serial.toNat
    else if o = 0x90 then some s.net.xMap.toNat
    else if o = 0x98 then some s.net.yMap.toNat
    else none
  | 0x6 => okIf (decide (0x10 ≤ o) && decide (o < 0x40) && o % 8 == 0) (s.timedValue a)
  | 0x9 => okIf (o == 8) (s.snap acc).time.toNat
  | _ => if 0x10 ≤ a / 65536 ∧ a / 65536 < 0x30 then s.cluPair (a / 65536 - 0x10) o else none

/-- Where the latched high word of the pair at a is kept: one per accessor for LDG.SNAP_TIME. -/
def latchKey (acc a : Nat) : Nat := if a / 65536 = 9 then a + 4 + 2 ^ 24 * acc else a + 4

/-- The value of a register that is no half of a pair. -/
def State.plainReg (s : State) (acc a : Nat) : Option Nat :=
  let o := a % 65536
  match a / 65536 with
  | 0x0 => s.sysReg o
  | 0x1 => s.tbReg o
  | 0x2 => s.audReg o
  | 0x3 => s.lnkVal o
  | 0x4 => s.i3cReg o
  | 0x5 => s.fabReg o
  | 0x6 => s.pwrReg o
  | 0x7 => s.secReg o
  | 0x8 => okIf (decide (o < 640)) (wordOf s.floorRecord (o / 4))
  | 0x9 => s.ldgReg acc o
  | _ => if 0x10 ≤ a / 65536 ∧ a / 65536 < 0x30 then s.cluReg (a / 65536 - 0x10) o else none

/-- The value a read of address a returns; none where the address is unassigned (R8). The upper word of the fused serial
reads so from reset on, as its latch would (Table 17.6). -/
def State.regValue (s : State) (acc a : Nat) : Option Word :=
  if a % 4 ≠ 0 then none
  else
    let n := match s.pairValue acc a with
      | some v => some v
      | none => if a = 0x050014 then some (Config.serial.toNat / 2 ^ 32)
          else if (s.pairValue acc (a - 4)).isSome ∧ 4 ≤ a then
            some ((Tbl.get 0 s.latch (latchKey acc (a - 4))).toNat +
              (if 0x10 ≤ a / 65536 ∧ a % 65536 = 0x844 then fld (s.reg a).toNat 31 1 * 2 ^ 31 else 0))
          else s.plainReg acc a
    n.map (BitVec.ofNat 32)

/-! ### What a read and a write do -/

/-- RC bits of the register at address a (R9). -/
def rcMask (a : Nat) : Nat :=
  let o := a % 65536
  let all (c : Bool) : Nat := if c then 0xFFFFFFFF else 0
  match a / 65536 with
  | 0x0 => all (o == 0x200)
  | 0x1 => all (o == 0x30 || o == 0x34)
  | 0x2 => all (o == 0x108 || (o < 0x100 && o % 32 == 0x18) || o == 0x218 || o == 0x258)
  | 0x3 => all ((decide (o < 0x600) && decide (0x14 ≤ o % 256) && decide (o % 256 ≤ 0x28)) ||
      (decide (0x1020 ≤ o) && decide (o < 0x1200) && decide (0x14 ≤ o % 32)))
  | 0x4 => all (o == 0x18)
  | 0x5 => all (decide (0x1C ≤ o) && decide (o ≤ 0x2C) || o == 0x38)
  | 0x6 => all (o == 0x300 || (decide (0x100 ≤ o) && decide (o < 0x300) && o % 16 != 0))
  | 0x7 => all (o == 4 || o == 8 || o == 0xC)
  | 0x9 => all (o == 0x10 || o == 0x14 || decide (0x20 ≤ o) && decide (o < 0x60))
  | _ => all (decide (0x10 ≤ a / 65536) && decide (a / 65536 < 0x30) &&
      ([0x108, 0x10C, 0x834, 0x838, 0xA04, 0xA08, 0xB00, 0xB04, 0xB08, 0xC08, 0xC0C, 0xC10, 0xD00].contains o ||
        (decide (0x900 ≤ o) && decide (o < 0xA00) && o % 32 == 0x18) ||
        (decide (0xA20 ≤ o) && decide (o < 0xAA0) && o % 16 == 8)))

/-- W1C bits of the register at address a (R9). -/
def w1cMask (a : Nat) : Nat :=
  let o := a % 65536
  match a / 65536 with
  | 0x0 => if o = 0x20 then 0xFF else 0
  | 0x1 => if o = 0x14 then 0x1F else 0
  | 0x2 => if o < 0x100 ∧ o % 32 = 0x1C then 7 else if o = 0x21C ∨ o = 0x25C then 0xF else 0
  | 0x3 => if o < 0x600 ∧ o % 256 = 0x2C then 0xF else 0
  | 0x4 => if o = 0x100 then 0x20 else 0
  | 0x5 => if o = 0x34 then 0x3F else 0
  | 0x6 => if o = 4 then 3 else 0
  | _ => if 0x10 ≤ a / 65536 ∧ a / 65536 < 0x30 ∧ o = 0x844 then 0x80000000 else 0

/-- What a read of address a does: a _LO register latches its _HI word; RC bits clear (R9, R40, R112). A read
of a counter of time or energy takes the next free value, and a 64-bit one goes on from what was read. -/
def State.afterRead (s : State) (acc a : Nat) : State :=
  let v := s.timedValue a
  let t := match s.pairValue acc a with
    | some v => { s with latch := Tbl.set 0 s.latch (latchKey acc a) (BitVec.ofNat 32 (v / 2 ^ 32)) }
    | none => if rcMask a = 0 then s else s.setReg a (s.reg a &&& ~~~(BitVec.ofNat 32 (rcMask a)))
  if !timedReg a then t
  else if timedWide a then { t with wide := Tbl.set 0 t.wide a (BitVec.ofNat 64 v), free := t.free + 1 }
  else { t with free := t.free + 1 }

/-- Read address a: its value and the state after it; an unassigned address reads as none and has no side
effect (R8). -/
def State.readReg (s : State) (acc a : Nat) : Option (Word × State) :=
  (s.regValue acc a).map fun v => (v, s.afterRead acc a)

/-- The oldest completion leaves the I3C queue (R325). -/
def State.popCpl (s : State) : State := s.modI3c fun x => { x with cpl := x.cpl.drop 1 }

/-- Write v to address a, which is assigned (R9): W1C bits clear; LDG.SEL, LNK.TX_RATE and I3C.CPL_STAT.POP act;
everything else is read-only. -/
def State.writeReg (s : State) (acc a : Nat) (v : Word) : State :=
  if a = ldgBase + 4 then s.select acc (v.toNat % 4096)
  else if 0x030000 ≤ a ∧ a < 0x030600 ∧ a % 256 = 8 then s.writeTxRate ((a - 0x030000) / 256) (v.toNat % 16)
  else if a = i3cBase + 0x104 then if bitOf v.toNat 31 then s.popCpl else s
  else if w1cMask a = 0 then s
  else s.setReg a (s.reg a &&& ~~~(v &&& BitVec.ofNat 32 (w1cMask a)))

/-! ### Access paths (R6, R8, R205, R370) -/

/-- The snapshot an access path uses (R205). -/
def accOf : Via → Nat
  | .i3c => 16
  | .cmd p _ => p.val

/-- A register block whose write needs a device-command source (R370): SYS to FLP. -/
def deviceBlock (a : Nat) : Bool := decide (a < 0x090000)

/-- A cluster block of another partition (R370). -/
def State.foreignCluster (s : State) (p a : Nat) : Bool :=
  decide (0x100000 ≤ a) && decide (a < 0x300000) && (s.clu ((a - 0x100000) / 65536)).part != some p

/-- May the path read, and write, address a (R205, R370). -/
def State.mayRead (s : State) (via : Via) (a : Nat) : Bool :=
  match via with
  | .i3c => true
  | .cmd p _ => !s.foreignCluster p.val a
def State.mayWrite (s : State) (via : Via) (a : Nat) (v : Word) : Bool :=
  match via with
  | .i3c => true
  | .cmd p dev => !s.foreignCluster p.val a && (dev || !deviceBlock a) &&
      (a != ldgBase + 4 || (s.entry (v.toNat % 4096)).belongs p.val)

/-- One word read by an access path; the word goes to `rdata`, zero where the path returns none. -/
def State.accessRead (s : State) (via : Via) (a : Nat) : State :=
  match s.readReg (accOf via) a with
  | some (v, t) => if s.mayRead via a then { t with rdata := v } else { s with rdata := 0 }
  | none => { s with rdata := 0 }

/-- One word written by an access path; discarded where the address is unassigned or the path may not. -/
def State.accessWrite (s : State) (via : Via) (a : Nat) (v : Word) : State :=
  if (s.regValue (accOf via) a).isSome && s.mayWrite via a v then s.writeReg (accOf via) a v else s

/-! ### Meanings -/

def execRegisterWrite (via : Via) (addr : BitVec 24) (val : Word) (s : State) : Outcome :=
  .next (s.accessWrite via addr.toNat val)

def execLatchedPairRead (via : Via) (addr : BitVec 24) (s : State) : Outcome := .next (s.accessRead via addr.toNat)

def execReadClear (via : Via) (addr : BitVec 24) (s : State) : Outcome := .next (s.accessRead via addr.toNat)

def execLdgSelWrite (via : Via) (val : Word) (s : State) : Outcome := .next (s.accessWrite via (ldgBase + 4) val)

def execTxRateWrite (via : Via) (port : Fin 6) (val : Word) (s : State) : Outcome :=
  .next (s.accessWrite via (lnkReg port.val 8) val)

/-- A write to I3C.CPL_STAT (R325). -/
def execPop (val : Word) (s : State) : Outcome := .next (s.accessWrite .i3c (i3cBase + 0x104) val)

end Sys2Proof.Machine
end

