-- ==== Sys2Proof/Machine/Nechesha.lean ====
section
/-! DEFINITION. The path of a command (R38, R308, R348 to R358, R379): receipt, the Steward's checks,
delay, start, completion. Each command's own meaning is its `CmdSpec`. -/

namespace Sys2Proof.Machine

/-- A command as its meaning sees it: its number, source, opcode, header and parameters. -/
structure Req where
  id : Nat
  src : Src
  op : Nat
  hdr : Hdr
  p : Bytes
deriving DecidableEq, Repr, Inhabited

/-- How a started command goes on: it completes; completes with TRUNC; waits; or needs no completion here. -/
inductive CmdRes where
  | done (s : State) (st : BitVec 16) (results : Bytes)
  | trunc (s : State) (results : Bytes)
  | wait (s : State) (w : Wait)
  | silent (s : State)
deriving Inhabited

/-- The scope of a command (R352, R365). -/
inductive Scope where
  | device
  | partition
  | steward
deriving DecidableEq, Repr, Inhabited

/-- A command of Table 18.3: its scope, the parameter length it requires, whether its rsvd fields are zero, the
partitions it names, when FORM may be 1, whether it inspects without a partition, and its meaning. -/
structure CmdSpec where
  scope : Bytes → Scope := fun _ => .partition
  length : Bytes → Bool
  reserved : Bytes → Bool := fun _ => true
  /-- the rsvd fields that depend on the device: those of MOVE_STREAM's in-place form (R364) -/
  rsvdOn : State → Hdr → Bytes → Bool := fun _ _ _ => true
  /-- the partitions that the command names, by PART and parameters (R352) -/
  names : Nat → Bytes → List Nat := fun p _ => [p]
  forms : Bytes → Bool := fun _ => false
  inspects : Bytes → Bool := fun _ => false
  body : State → Req → CmdRes

/-- Byte ranges (offset, size) of the parameters that must be zero. -/
def zeroAt (l : List (Nat × Nat)) (p : Bytes) : Bool := l.all fun x => fieldAt p x.1 x.2 == 0

/-! ### Sources (R352) -/

/-- A device-command source: I3C, or the host on the own spur. -/
def deviceSource : Src → Bool
  | .i3c => true
  | .spur => true
  | .dev _ => false

/-- The source list of partition p admits the source. -/
def State.admits (s : State) (p : Nat) (src : Src) : Bool :=
  match src with
  | .dev d => (s.part p).sources.isEmpty || (s.part p).sources.contains d
  | _ => true

/-- The device id a source counts as (R354). -/
def State.srcId (s : State) : Src → BitVec 12
  | .dev d => d
  | _ => s.net.id

/-! ### Checks on receipt (R351, R352, R379) -/

/-- Largest command of a path (R350). -/
def pathLimit : Src → Nat
  | .i3c => 4096
  | _ => 65503

/-- Step 3 of R351: rsvd fields, FORM, START; and a Steward's tag on a host's command (R330). -/
def State.fieldsOk (s : State) (sp : CmdSpec) (src : Src) (hdr : Hdr) (p : Bytes) : Bool :=
  sp.reserved p && sp.rsvdOn s hdr p && (!hdr.form || sp.forms p) && decide (hdr.start.toNat ≤ s.now + 2 ^ 32) &&
    !(src == .spur && decide (0xF000 ≤ hdr.tag.toNat))

/-- Step 4 of R351: scope (R352). -/
def State.scopeCheck (s : State) (sp : CmdSpec) (src : Src) (hdr : Hdr) (p : Bytes) : Option (BitVec 16) :=
  match sp.scope p with
  | .steward => none
  | .device => if deviceSource src then none else some stNotPermitted
  | .partition =>
    if (s.part hdr.part.val).exists_ then
      if !s.admits hdr.part.val src then some stNotPermitted
      -- while it is being destroyed nothing new may act in it (log entry 37)
      else if (s.part hdr.part.val).destroying && !sp.inspects p then some stWrongState
      else none
    else if sp.inspects p && deviceSource src then none
    else some stWrongState

/-- The device counts as under reset: not ready, or halted (R379), or tripped (R422). RESET_UNIT at LEVEL 3 goes
through. -/
def State.notReady (s : State) (op : Nat) (p : Bytes) : Bool :=
  (!s.ready || s.halted || s.tripped) && !(op == 0x12 && fieldAt p 0 1 == 3)

/-- The checks of R351 after the opcode, in order. -/
def State.receiptCheck (s : State) (op : Nat) (sp : CmdSpec) (src : Src) (hdr : Hdr) (p : Bytes) (lenOk rsvdOk : Bool) :
    Option (BitVec 16) :=
  if !lenOk || !sp.length p || decide (pathLimit src < 16 + p.length) then some stBadLength
  else if !rsvdOk || !s.fieldsOk sp src hdr p then some stBadField
  else if s.notReady op p then some stUnitResetting
  else match s.scopeCheck sp src hdr p with
    | some st => some st
    | none => if (sp.names hdr.part.val p).any fun q => (s.part q).resetting then some stUnitResetting else none

/-! ### Start and delay -/

/-- Complete a command that never was in progress, and settle fences (R353). -/
def State.answer (s : State) (r : Req) (st : BitVec 16) (results : Bytes) (trunc : Bool) : State :=
  (s.reply r.src r.op r.hdr.tag r.hdr.part.val st results trunc).settleFences

/-- A command starts (R353, R356): its own checks and effect. -/
def State.startCmd (s : State) (sp : CmdSpec) (r : Req) : State :=
  match sp.body s r with
  | .done t st res => t.answer r st res false
  | .trunc t res => t.answer r stOk res true
  | .wait t w =>
    { t with cmds := t.cmds ++ [{ id := r.id, src := r.src, opcode := r.op, form := r.hdr.form, tag := r.hdr.tag,
                                  part := r.hdr.part.val, wait := w }] }
  | .silent t => t

/-- Delayed commands that count against partition p (R38). -/
def State.delayedOf (s : State) (scopeOf : Nat → Bytes → Scope) (p : Nat) : Nat :=
  (s.delayed.filter fun d => scopeOf d.opcode d.params == .partition && d.hdr.part.val == p).length

/-- The commands of device scope, by opcode and parameters (Table 18.3). -/
def scopeOfOpcode (op : Nat) (p : Bytes) : Scope :=
  if op = 0x12 then if fieldAt p 0 1 = 3 then .device else .partition
  else if [0x10, 0x11, 0x13, 0x42, 0x73, 0x75, 0x81].contains op then .device
  else if 0xF0 ≤ op then .steward
  else .partition

/-- A command that passed the receipt checks is held until its start time, or starts (R38). -/
def State.holdOrStart (s : State) (sp : CmdSpec) (r : Req) : State :=
  if r.hdr.start.toNat ≤ s.now then s.startCmd sp r
  else if 256 ≤ s.delayed.length ∨
      (sp.scope r.p ≠ .device ∧ 64 ≤ s.delayedOf scopeOfOpcode r.hdr.part.val) then
    s.answer r stPartitionFull [] false
  else
    { s with delayed := s.delayed ++ [{ id := r.id, start := r.hdr.start, src := r.src, opcode := r.op, hdr := r.hdr,
                                        params := r.p }] }

/-- The Steward takes a command (R351): `sp` is none for an opcode that is not assigned. -/
def State.takeCmd (s : State) (op : Nat) (sp : Option CmdSpec) (src : Src) (hdr : Hdr) (p : Bytes)
    (lenOk rsvdOk : Bool) : State :=
  let r : Req := { id := s.nextCmd, src := src, op := op, hdr := hdr, p := p }
  let s := { s with nextCmd := s.nextCmd + 1 }
  match sp with
  | none => s.answer r stBadOpcode [] false
  | some c => match s.receiptCheck op c src hdr p lenOk rsvdOk with
    | some st => s.answer r st [] false
    | none => s.holdOrStart c r

/-! ### Arrival -/

/-- The bytes of a command (Table 18.1). -/
def commandBytes (op : Nat) (hdr : Hdr) (p : Bytes) : Bytes :=
  leBytes 1 op ++ leBytes 1 (b2n hdr.form) ++ leBytes 2 hdr.tag.toNat ++ leBytes 1 hdr.part.val ++ leBytes 1 0 ++
    leBytes 2 p.length ++ leBytes 6 hdr.start.toNat ++ leBytes 2 0 ++ p

/-- A command reaches the device over I3C or in a packet. Over I3C it is one of 16 outstanding or unread, or
is discarded with OVERRUN (R325). -/
def State.arrives (s : State) (src : Src) : Option State :=
  match src with
  | .i3c =>
    if !s.i3c.live then none
    else if 16 ≤ s.i3c.busy then some (s.setBits (i3cBase + 0x100) 0x20)
    else some (s.modI3c fun x => { x with outstanding := x.outstanding + 1 })
  | _ => some s

/-- The Steward takes commands in arrival order, none while 512 are in progress (R353). -/
def State.stewardFree (s : State) : Bool := s.rx.isEmpty && decide (s.cmds.length < 512)

/-- A command of opcode `op` arrives and is taken at once, or waits to be taken. -/
def State.command (s : State) (op : Nat) (sp : CmdSpec) (src : Src) (hdr : Hdr) (p : Bytes) : State :=
  match s.arrives src with
  | none => s
  | some t =>
    if src = .i3c ∧ 16 ≤ s.i3c.busy then t
    else if t.stewardFree then t.takeCmd op (some sp) src hdr p true true
    else { t with rx := t.rx ++ [{ src := src, part := some hdr.part.val, bytes := commandBytes op hdr p }] }

/-- Submit the bytes written into I3C.CMD_WIN as one command (R325). -/
def State.submitI3c (s : State) (bytes : Bytes) : State :=
  match s.arrives .i3c with
  | none => s
  | some t => if 16 ≤ s.i3c.busy then t else { t with rx := t.rx ++ [{ src := .i3c, part := none, bytes := bytes }] }

/-! ### Windowed results (R350) -/

/-- Results per completion of a path. -/
def resultLimit : Src → Nat
  | .i3c => 240
  | _ => 65487

/-- The window of a result from `off`. -/
def State.window (s : State) (src : Src) (res : Bytes) (off : Nat) : CmdRes :=
  if res.length ≤ off then .done s stEmpty []
  else
    let w := (res.drop off).take (resultLimit src)
    if off + w.length < res.length then .trunc s w else .done s stOk w

/-- Keep a result for later windows of the same source and opcode. -/
def State.keepResult (s : State) (src : Src) (op : Nat) (res : Bytes) : State :=
  { s with results := (src, op, res) :: s.results.filter fun x => !(x.1 == src && x.2.1 == op) }

/-- The result that the source's last command of the opcode produced; empty when there is none. -/
def State.keptResult (s : State) (src : Src) (op : Nat) : Bytes :=
  match s.results.find? fun x => x.1 == src && x.2.1 == op with
  | some x => x.2.2
  | none => []

end Sys2Proof.Machine
end

