-- ==== Sys2Proof/Machine/InfoCmds.lean ====
section
/-! DEFINITION. The commands that identify, report, and read and write registers (R359, R370, R377, R381). -/

namespace Sys2Proof.Machine

/-! ### IDENTIFY, GET_STAGE_REPORT, GET_FLOOR_PLAN -/

/-- IDENTIFY's results (Table 18.4). -/
def State.identity (s : State) : Bytes :=
  leBytes 8 Config.serial.toNat ++ leBytes 2 0x0768 ++ leBytes 2 Config.rev.toNat ++ leBytes 1 (b2n Config.gradeP) ++
    leBytes 1 s.stageLevel ++ leBytes 2 s.net.idWord ++ leBytes 4 Config.romVersion.toNat ++ leBytes 4 s.patchVersion.toNat ++
    leBytes 4 s.generation.toNat ++ leBytes 4 0

def identifySpec : CmdSpec :=
  { length := fun p => p.length == 0
    inspects := fun _ => true
    body := fun s _ => .done s stOk s.identity }

/-- The latest stage that has begun. -/
def State.latestStage (s : State) : Nat :=
  match (List.range 8).reverse.find? fun n => (Tbl.get ({} : Stage) s.stages n).result != 0 with
  | some n => n
  | none => 0

def stageReportBody (s : State) (r : Req) : CmdRes :=
  match fieldAt r.p 0 1 with
  | 0xFF => .done s stOk (s.stageReport s.latestStage)
  | n => if n < 8 then .done s stOk (s.stageReport n) else .done s stBadField []

def stageReportSpec : CmdSpec :=
  { length := fun p => p.length == 4
    reserved := zeroAt [(1, 3)]
    inspects := fun _ => true
    body := stageReportBody }

/-- The record is taken at OFFSET 0; later windows read the same snapshot (R350, R381). -/
def floorPlanBody (s : State) (r : Req) : CmdRes :=
  let off := fieldAt r.p 0 4
  if off = 0 then (s.keepResult r.src r.op s.floorRecord).window r.src s.floorRecord 0
  else s.window r.src (s.keptResult r.src r.op) off

def floorPlanSpec : CmdSpec :=
  { length := fun p => p.length == 4
    inspects := fun _ => true
    body := floorPlanBody }

/-! ### READ_REGISTER, WRITE_REGISTER (R370) -/

def regAddr (p : Bytes) : Nat := fieldAt p 0 3
def regCount (p : Bytes) : Nat := fieldAt p 3 1
/-- Addresses a register command names. -/
def regRange (p : Bytes) : List Nat := (List.range (regCount p)).map fun i => regAddr p + 4 * i

/-- The checks of a register command, over its whole range before any word moves (R6, R8, R370). -/
def State.regCheck (s : State) (part : Fin 16) (dev : Bool) (p : Bytes) (may : Nat → Nat → Bool) : Option (BitVec 16) :=
  if regCount p = 0 ∨ 60 < regCount p then some stBadField
  else if regAddr p % 4 ≠ 0 then some stBadAlignment
  else if (regRange p).any fun a => decide (2 ^ 24 ≤ a) || (s.regValue (accOf (.cmd part dev)) a).isNone then some stBadField
  else if (regRange p).zipIdx.any fun x => !may x.1 x.2 then some stNotPermitted
  else none

/-- Read words upward, with what each read does. -/
def State.readRegs (s : State) (acc : Nat) : List Nat → State × Bytes
  | [] => (s, [])
  | a :: l =>
    match s.readReg acc a with
    | none => (s, [])
    | some (v, t) =>
      let r := State.readRegs t acc l
      (r.1, leBytes 4 v.toNat ++ r.2)

def readRegisterBody (s : State) (r : Req) : CmdRes :=
  let via := Via.cmd r.hdr.part (deviceSource r.src)
  match s.regCheck r.hdr.part (deviceSource r.src) r.p (fun a _ => s.mayRead via a) with
  | some st => .done s st []
  | none =>
    let x := s.readRegs (accOf via) (regRange r.p)
    .done x.1 stOk x.2

/-- Blocks a command that names no partition may read: SYS, TB, FAB, FLP (R352). -/
def inspectable (a : Nat) : Bool := [0x0, 0x1, 0x5, 0x8].contains (a / 65536)

def readRegisterSpec : CmdSpec :=
  { length := fun p => p.length == 4
    inspects := fun p => (regRange p).all inspectable
    body := readRegisterBody }

/-- The word that a WRITE_REGISTER carries for its i-th address. -/
def regWord (p : Bytes) (i : Nat) : Word := BitVec.ofNat 32 (fieldAt p (4 + 4 * i) 4)

def writeRegisterBody (s : State) (r : Req) : CmdRes :=
  let via := Via.cmd r.hdr.part (deviceSource r.src)
  match s.regCheck r.hdr.part (deviceSource r.src) r.p (fun a i => s.mayWrite via a (regWord r.p i)) with
  | some st => .done s st []
  | none => .done (s.each (regRange r.p).zipIdx fun s x => s.writeReg (accOf via) x.1 (regWord r.p x.2)) stOk []

def writeRegisterSpec : CmdSpec :=
  { length := fun p => decide (4 ≤ p.length) && p.length == 4 + 4 * regCount p
    body := writeRegisterBody }

/-! ### GET_COUNTERS, DISCOVER, SET_FABRIC_QUOTA (R370) -/

/-- A context that another partition owns (R264). -/
def State.foreignCtx (s : State) (p c : Nat) : Bool :=
  match s.ctx c with
  | some x => x.resident && x.part != p
  | none => false

/-- The 64 result bytes of GET_COUNTERS. -/
def State.counters (s : State) (x : Ctx) : Bytes :=
  let sum (f : ShareSt → W64) : Nat := ((x.cores.map fun (gj : Nat × Nat) => f (s.share gj.1 gj.2)).foldl (· + ·) 0).toNat
  leBytes 8 (sum ShareSt.tallyFe) ++ leBytes 8 (sum ShareSt.tallyMx) ++ leBytes 8 (sum ShareSt.tallyVx) ++
    leBytes 8 (sum ShareSt.tallySc) ++ leBytes 8 x.seDone.toNat ++ leBytes 8 x.millDone.toNat ++ leBytes 8 x.steps.toNat ++
    leBytes 4 x.starvedEvents.toNat ++ leBytes 4 0

def getCountersBody (s : State) (r : Req) : CmdRes :=
  let c := fieldAt r.p 0 1
  if s.foreignCtx r.hdr.part.val c then .done s stNotPermitted []
  else match s.ctx c with
    | some x => if x.resident then .done s stOk (s.counters x) else .done s stWrongState []
    | none => .done s stWrongState []

def getCountersSpec : CmdSpec :=
  { length := fun p => p.length == 4
    reserved := zeroAt [(1, 3)]
    body := getCountersBody }

def discoverSpec : CmdSpec :=
  { length := fun p => p.length == 0
    body := fun s _ => .wait (if s.net.disc = 1 then s else s.startDiscovery) .discover }

def setFabricQuotaBody (s : State) (r : Req) : CmdRes :=
  let target := fieldAt r.p 0 1
  let q := fieldAt r.p 1 1
  let n := fieldAt r.p 4 4
  let v := if n = 0 then none else some n
  if 1 < target ∨ 15 < q ∨ (n ≠ 0 ∧ (n < 64 ∨ 16777216 < n)) then .done s stBadField []
  else if target = 0 then .done (s.modNet fun x => { x with quotaSet := v }) stOk []
  else if (s.part q).exists_ then .done (s.modPart q fun x => { x with quotaSet := v }) stOk []
  else .done s stWrongState []

def setFabricQuotaSpec : CmdSpec :=
  { scope := fun _ => .device
    names := fun _ p => if fieldAt p 0 1 = 1 then [fieldAt p 1 1] else []
    length := fun p => p.length == 8
    reserved := zeroAt [(2, 2)]
    body := setFabricQuotaBody }

/-! ### Meanings -/

def execIdentify (src : Src) (hdr : Hdr) (params : Bytes) (s : State) : Outcome :=
  .next (s.command 0x01 identifySpec src hdr params)

def execGetStageReport (src : Src) (hdr : Hdr) (params : Bytes) (s : State) : Outcome :=
  .next (s.command 0x02 stageReportSpec src hdr params)

def execGetFloorPlan (src : Src) (hdr : Hdr) (params : Bytes) (s : State) : Outcome :=
  .next (s.command 0x03 floorPlanSpec src hdr params)

def execReadRegister (src : Src) (hdr : Hdr) (params : Bytes) (s : State) : Outcome :=
  .next (s.command 0x60 readRegisterSpec src hdr params)

def execWriteRegister (src : Src) (hdr : Hdr) (params : Bytes) (s : State) : Outcome :=
  .next (s.command 0x61 writeRegisterSpec src hdr params)

def execGetCounters (src : Src) (hdr : Hdr) (params : Bytes) (s : State) : Outcome :=
  .next (s.command 0x62 getCountersSpec src hdr params)

def execDiscover (src : Src) (hdr : Hdr) (params : Bytes) (s : State) : Outcome :=
  .next (s.command 0x80 discoverSpec src hdr params)

def execSetFabricQuota (src : Src) (hdr : Hdr) (params : Bytes) (s : State) : Outcome :=
  .next (s.command 0x81 setFabricQuotaSpec src hdr params)

end Sys2Proof.Machine
end

