-- ==== Sys2Proof/Machine/StreamCheck.lean ====
section
/-! DEFINITION. What OPEN_STREAM and the moves check of a chain, a state layout and regions (R202, R215, R228,
R229, R363, R364). -/

namespace Sys2Proof.Machine

/-! ### State layout (Tables 11.4 to 11.6) -/

/-- A section entry. -/
structure Section where
  kind : Nat
  fmt : Nat
  rows : Nat
  chans : Nat
  off : Nat
  rsvd : Bool
deriving DecidableEq, Repr, Inhabited

def sectionAt (b : Bytes) (i : Nat) : Section :=
  let o := 64 + 16 * i
  { kind := fieldAt b o 1, fmt := fieldAt b (o + 1) 1, rows := fieldAt b (o + 2) 2, chans := fieldAt b (o + 4) 4,
    off := fieldAt b (o + 8) 4, rsvd := fieldAt b (o + 14) 2 != 0 }

/-- Element size of a section format; none for a format that Table 11.5 does not list. -/
def sectionElem (fmt : Nat) : Option Nat :=
  if [0x1, 0x2, 0x3, 0x4].contains fmt then some 1
  else if [0xB, 0xC].contains fmt then some 2
  else if [0xD, 0xE].contains fmt then some 4
  else none

/-- Bytes that a section occupies (R228). -/
def Section.bytes (x : Section) : Nat :=
  let rows := if x.kind ≤ 4 then 2 * x.rows else x.rows
  ceilDiv (rows * x.chans * (sectionElem x.fmt).getD 0) 64 * 64

/-- A section obeys Tables 11.5 and 11.6; n and m are SYNTH_N and SYNTH_M. -/
def Section.ok (x : Section) (n m : Nat) : Bool :=
  !x.rsvd && (sectionElem x.fmt).isSome && decide (x.kind ≤ 6) && decide (1 ≤ x.rows) && decide (1 ≤ x.chans) &&
    decide (x.chans < 2 ^ 24) && x.off % 64 == 0 &&
    (match x.kind with
     | 0 => decide (x.rows ≤ 2)
     | 1 => x.rows == 1
     | 2 => x.rows == 1
     | 5 => x.fmt == 0xD && x.chans == m && x.rows * m == n
     | _ => true)

/-- The header's NSEC. -/
def sectionCount (b : Bytes) : Nat := fieldAt b 6 2
def sections (b : Bytes) : List Section := (List.range (sectionCount b)).map (sectionAt b)

/-- N and M of Table 4.5. -/
def synthShape (n m : Nat) : Bool := decide (1 ≤ m) && decide (m ≤ 8) && n % m == 0 && decide (16 ≤ n) && decide (n ≤ 128)

/-- SYNTH_OFF, SYNTH_N and SYNTH_M name the only SYNTH section, or there is none (Table 11.4). -/
def synthOk (b : Bytes) (l : List Section) : Bool :=
  let n := fieldAt b 16 2
  let m := fieldAt b 18 1
  match l.filter (·.kind == 5) with
  | [] => fieldAt b 12 4 == 0xFFFFFFFF && n == 0 && m == 0
  | [x] => fieldAt b 12 4 == x.off && synthShape n m
  | _ => false

/-- No two sections overlap. -/
def apart : List Section → Bool
  | [] => true
  | x :: l => l.all (fun y => !overlaps x.off x.bytes y.off y.bytes) && apart l

/-- A feedback range lies inside the live row of a FEEDBACK section (R229). -/
def feedbackOk (b : Bytes) (fb : Option (Nat × Nat)) : Bool :=
  match fb with
  | none => true
  | some (off, len) => (sections b).any fun x =>
      x.kind == 2 && decide (x.off ≤ off) && decide (off + len ≤ x.off + x.chans * (sectionElem x.fmt).getD 0)

/-- The header, the section table and the sections obey R229, for a region of `size` bytes. -/
def layoutOk (b : Bytes) (size : Nat) : Bool :=
  let n := sectionCount b
  let total := fieldAt b 8 4
  let l := sections b
  fieldAt b 0 4 == 0x54534D42 && fieldAt b 4 2 == 1 && fieldAt b 19 1 == 0 && fieldAt b 28 36 == 0 &&
    decide (1 ≤ n) && decide (n ≤ 1020) && total % 64 == 0 && decide (total ≤ size) &&
    l.all (fun x => x.ok (fieldAt b 16 2) (fieldAt b 18 1) && decide (64 + 16 * n ≤ x.off) &&
      decide (x.off + x.bytes ≤ total)) && apart l && synthOk b l

/-- Header and section table at partition address A, read through the home caches and used as delivered, and whether a
line of them read with an uncorrectable error (R94, R99). -/
def State.layoutAt (s : State) (p A : Nat) : State × Bytes × Bool :=
  let h := s.readPart (s.part p) .normal A 64
  let t := h.1.readPart (s.part p) .normal (A + 64) (16 * min (sectionCount h.2.1) 1020)
  (t.1, h.2.1 ++ t.2.1, !h.2.2.isEmpty || !t.2.2.isEmpty)

/-! ### Chains (R215, R264, R363) -/

/-- The links that a CHAIN word names (Table 9.1). -/
def chainOf (w : Nat) : List Nat := (List.range (fld w 24 2 + 1)).map fun j => fld w (6 * j) 6

/-- A Ropewalk that another partition owns. -/
def State.foreignRope (s : State) (p r : Nat) : Bool := match s.rope r with
  | some x => s.foreignCtx p x.ctx
  | none => false

/-- CONTEXT, or a Ropewalk of the chain, belongs to another partition. -/
def State.foreignChain (s : State) (p c : Nat) (chain : List Nat) : Bool :=
  s.foreignCtx p c || chain.any (s.foreignRope p)

/-- SAMPLES of a chain's last link; 0 when it is not defined. -/
def State.chainSamples (s : State) (chain : List Nat) : Nat :=
  match chain.getLast? with
  | some r => match s.rope r with
    | some x => x.samples
    | none => 0
  | none => 0

/-- The feedback range of a chain's last link. -/
def State.chainFeedback (s : State) (chain : List Nat) : Option (Nat × Nat) :=
  match chain.getLast? with
  | some r => match s.rope r with
    | some x => if x.fb then some (x.fbOff, x.fbLen) else none
    | none => none
  | none => none

/-- A chain obeys R215. -/
def State.chainShape (s : State) (chain : List Nat) (size : Nat) : Bool :=
  let ropes := chain.filterMap s.rope
  ropes.dropLast.all (fun x => x.steps == 1 && x.samples == 0 && !x.fb) &&
    (match ropes.getLast? with
     | some x => decide (0 < x.samples) && decide (x.fbOff + x.fbLen ≤ size)
     | none => false)

/-- Items 3 to 5 of R363. -/
def State.chainCheck (s : State) (c : Nat) (chain : List Nat) (size : Nat) : Option (BitVec 16) :=
  if chain.any fun r => match s.rope r with
      | some x => x.ctx != c
      | none => true then some stNoRopewalk
  else match s.ctx c with
    | none => some stNoRopewalk
    | some x =>
      if x.faulted then some stProgramFault
      else if x.retiring then some stWrongState
      else if !s.chainShape chain size then some stBadField
      else none

/-! ### Regions (R90, R202) -/

/-- [A, A + n) overlaps the state region of an entry of partition p that is not CLOSED, or that a move has reserved
(R345, Table 18.13); `succ` lets an entry pass that is DRAINING with SEQEND = 1 (R202, R204). -/
def State.stateOverlap (s : State) (p A n : Nat) (succ : Bool) : Bool :=
  s.entries.any fun x => x.2.belongs p && (x.2.status != .closed || x.2.reserved.isSome) &&
    !(succ && x.2.status == .draining && x.2.seqend) && overlaps A n x.2.state.toNat x.2.stateSize.toNat

/-- The parameters of Table 18.7. -/
structure OpenArgs where
  ctx : Nat
  chain : List Nat
  state : Nat
  size : Nat
  lowWater : Nat
  init : Nat
  iqBase : Nat
  iqSlot : Nat
  iqDepth : Nat
  cqFrame : Nat
  cqBase : Nat
  orBase : Nat
  orFmt : Nat
  orSize : Nat
  rate : Nat
deriving DecidableEq, Repr, Inhabited

def openArgs (p : Bytes) : OpenArgs :=
  { ctx := fieldAt p 0 1, chain := chainOf (fieldAt p 4 4), state := fieldAt p 8 5, size := fieldAt p 16 4,
    lowWater := fieldAt p 20 4, init := fieldAt p 24 5, iqBase := fieldAt p 32 5, iqSlot := fieldAt p 38 2,
    iqDepth := fieldAt p 40 2, cqFrame := fieldAt p 42 2, cqBase := fieldAt p 44 5, orBase := fieldAt p 52 5,
    orFmt := fieldAt p 57 1, orSize := fieldAt p 60 4, rate := fieldAt p 64 4 }

/-- The parameter bytes of Table 18.7 that an OpenArgs stands for (R365 sends them in MOVE_RESERVE). -/
def OpenArgs.toBytes (a : OpenArgs) : Bytes :=
  let links := (a.chain.zipIdx.map fun x => x.1 * 2 ^ (6 * x.2)).foldl (· + ·) 0 + (a.chain.length - 1) * 2 ^ 24
  leBytes 4 a.ctx ++ leBytes 4 links ++ leBytes 8 a.state ++ leBytes 4 a.size ++ leBytes 4 a.lowWater ++
    leBytes 8 a.init ++ leBytes 6 a.iqBase ++ leBytes 2 a.iqSlot ++ leBytes 2 a.iqDepth ++ leBytes 2 a.cqFrame ++
    leBytes 8 a.cqBase ++ leBytes 5 a.orBase ++ leBytes 1 a.orFmt ++ leBytes 2 0 ++ leBytes 4 a.orSize ++
    leBytes 4 a.rate ++ leBytes 4 0

/-- rsvd fields of Table 18.7. -/
def openRsvd (p : Bytes) : Bool :=
  zeroAt [(1, 3), (13, 3), (29, 3), (37, 1), (49, 3), (58, 2), (68, 4)] p && decide (fieldAt p 4 4 < 2 ^ 26) &&
    decide (fieldAt p 57 1 < 8) && (fld (fieldAt p 4 4) 24 2 != 0 || fieldAt p 44 5 == 0)

/-- Item 2 of R363: the fields obey Table 18.7. -/
def State.openFields (s : State) (a : OpenArgs) : Bool :=
  a.size % 64 == 0 && decide (1 ≤ a.iqSlot) && decide (1 ≤ a.iqDepth) && decide (a.iqDepth ≤ 1024) &&
    (a.chain.length != 1 || a.cqFrame == 0) && decide (a.orFmt ≤ 4) &&
    decide (2 * s.chainSamples a.chain ≤ a.orSize) && decide (8000 * 256 ≤ a.rate) && decide (a.rate ≤ 198000 * 256)

/-- Item 6 of R363: every region lies inside the partition. -/
def OpenArgs.inside (a : OpenArgs) (p : Part) : Bool :=
  p.inside a.state a.size && p.inside a.init a.size && p.inside a.iqBase (a.iqDepth * (64 * a.iqSlot)) &&
    p.inside a.cqBase ((a.chain.length - 1) * 16 * (64 * a.cqFrame)) && p.inside a.orBase (a.orSize * audioBytes a.orFmt)

/-- Items 1 to 6 of R363. -/
def State.openChecks (s : State) (p : Nat) (a : OpenArgs) : Option (BitVec 16) :=
  if s.foreignChain p a.ctx a.chain then some stNotPermitted
  else if !s.openFields a then some stBadField
  else match s.chainCheck a.ctx a.chain a.size with
    | some st => some st
    | none => if a.inside (s.part p) then none else some stOutOfBounds

/-- Entries that partition p holds, HELD included (R191, R442). -/
def State.entriesOf (s : State) (p : Nat) : Nat := (s.entries.filter fun x => x.2.belongs p).length

/-- The lowest free entry within the quota of partition p (R191, R192). -/
def State.freeEntry (s : State) (p : Nat) : Option Nat :=
  if (s.part p).ledgerQuota ≤ s.entriesOf p then none
  else lowest 4096 fun i => (s.entry i).status == .closed && !(s.entry i).held

/-- Items 8 and 9 of R363: the free entry, or the failure. -/
def State.openPlace (s : State) (p : Nat) (a : OpenArgs) : BitVec 16 ⊕ Nat :=
  if s.stateOverlap p a.state a.size true then .inl stStateBusy
  else match s.freeEntry p with
    | some i => .inr i
    | none => .inl stNoStreamEntry

/-- A fresh entry with the given fields, for partition p. -/
def OpenArgs.entry (a : OpenArgs) (p : Nat) : Entry :=
  { part := some p, context := a.ctx, chain := a.chain, state := BitVec.ofNat 40 a.state,
    stateSize := BitVec.ofNat 32 a.size, lowWater := BitVec.ofNat 32 a.lowWater, init := BitVec.ofNat 40 a.init,
    iqBase := BitVec.ofNat 40 a.iqBase, iqSlot := BitVec.ofNat 16 a.iqSlot, iqDepth := a.iqDepth,
    cqFrame := BitVec.ofNat 16 a.cqFrame, cqBase := BitVec.ofNat 40 a.cqBase, orBase := BitVec.ofNat 40 a.orBase,
    orFmt := BitVec.ofNat 3 a.orFmt, orSize := BitVec.ofNat 32 a.orSize, ringRate := BitVec.ofNat 32 a.rate }

/-- The start of a provenance chain (R409). -/
def State.provStart (s : State) (i pos : Nat) : Prov :=
  let d := digest (leBytes 8 Config.serial.toNat ++ leBytes 2 i ++ leBytes 6 s.now ++ leBytes 4 pos)
  { start := d, startTime := s.tb.count, startPos := pos, chain := d, endPos := pos }

end Sys2Proof.Machine
end

