-- ==== Sys2Proof/Machine/StreamCmds.lean ====
section
/-! DEFINITION. OPEN_STREAM, PARK_STREAM, UNPARK_STREAM and CLOSE_STREAM (R192, R200 to R204, R355, R363,
Table 9.6). -/

namespace Sys2Proof.Machine

/-- An entry of another partition (R442). -/
def State.foreignStream (s : State) (p i : Nat) : Bool :=
  match (s.entry i).part with
  | some q => q != p
  | none => false

/-- STREAM is a stream id. -/
def streamField (off : Nat) (p : Bytes) : Bool := decide (fieldAt p off 2 < 4096)

/-! ### OPEN_STREAM -/

/-- The INIT copy and the opening of entry i (R363): the whole state is read, then written. -/
def State.openEntry (s : State) (r : Req) (a : OpenArgs) (i : Nat) : CmdRes :=
  let p := r.hdr.part.val
  let rd := s.readPart (s.part p) .normal a.init a.size
  if !rd.2.2.isEmpty then .done rd.1 stEccUncorrectable []
  else
    let wr := rd.1.writeWholly (s.part p) .normal a.state rd.2.1
    if wr.2 then .done wr.1 stEccUncorrectable []
    else
      let e := { a.entry p with
        status := .opened, fresh := true, owner := s.srcId r.src, ownerSelf := deviceSource r.src, credits := a.iqDepth,
        prov := s.provStart i 0 }
      .done (wr.1.setEntry i e) stOk (leBytes 4 i)

def openStreamBody (s : State) (r : Req) : CmdRes :=
  let p := r.hdr.part.val
  let a := openArgs r.p
  match s.openChecks p a with
  | some st => .done s st []
  | none =>
    let b := s.layoutAt p a.init
    if !(layoutOk b.2.1 a.size && feedbackOk b.2.1 (s.chainFeedback a.chain)) then .done b.1 stBadField []
    else match b.1.openPlace p a with
      | .inl st => .done b.1 st []
      | .inr i => b.1.openEntry r a i

def openStreamSpec : CmdSpec :=
  { length := fun p => p.length == 72
    reserved := openRsvd
    body := openStreamBody }

/-! ### PARK_STREAM and UNPARK_STREAM -/

/-- A command on stream i of another partition is not permitted (Table 9.6). -/
def onStream (r : Req) (f : State → Nat → CmdRes) (s : State) : CmdRes :=
  let i := fieldAt r.p 0 2
  if s.foreignStream r.hdr.part.val i then .done s stNotPermitted [] else f s i

def parkBody (s : State) (r : Req) : CmdRes :=
  onStream r (fun s i =>
    let e := s.entry i
    if e.status.active then .wait (s.modEntry i fun e => { e with parking := true }) (.park i)
    else if e.status = .parked then .done s stOk []
    else .done s stWrongState []) s

/-- Every link of the chain is a Ropewalk of the stream's own context, which is resident in its partition
(Table 9.6, R281). -/
def State.chainUsable (s : State) (e : Entry) : Bool :=
  (match s.ctx e.context with
   | some x => x.resident && some x.part == e.part
   | none => false) &&
    e.chain.all fun r => match s.rope r with
      | some x => x.ctx == e.context
      | none => false

def unparkBody (s : State) (r : Req) : CmdRes :=
  onStream r (fun s i =>
    let e := s.entry i
    if e.status ≠ .parked then .done s stWrongState []
    else if e.moving then .done s stStateBusy []
    else if !s.chainUsable e then .done s stNoRopewalk []
    else .done (((s.modEntry i fun e =>
      { e with status := if e.fresh then .opened else .waitingInput }).reval i).urgency i) stOk []) s

def streamCmd (body : State → Req → CmdRes) (forms : Bool) : CmdSpec :=
  { length := fun p => p.length == 4
    reserved := fun p => zeroAt [(2, 2)] p && streamField 0 p
    forms := fun _ => forms
    body := body }

def parkStreamSpec : CmdSpec := streamCmd parkBody false
def unparkStreamSpec : CmdSpec := streamCmd unparkBody false

/-! ### CLOSE_STREAM -/

/-- Stream i's entries in every in-flight Docket are dropped; those already returned resolve (R185, R203). -/
def State.dropSteps (s : State) (i : Nat) : State :=
  let hit (x : DEntry) : Bool := x.stream == i && !x.resolved
  let drop (d : Docket) : Docket :=
    { d with entries := d.entries.map fun (x : DEntry) => if hit x then { x with dropped := true, stores := [] } else x }
  let s := { s with dockets := s.dockets.map drop }
  s.each s.dockets fun s d => s.each d.entries.zipIdx fun s x =>
    if hit x.1 && x.1.returned.isSome then s.resolveEntry d.rope d.seq x.2 else s

/-- Commands that move stream i. -/
def movesStream (i : Nat) (c : Cmd) : Bool := match c.wait with
  | .transfer k _ _ _ _ _ => k == i
  | _ => false

/-- DEST of MOVE_STREAM (Table 18.8). -/
def destDev (p : Bytes) : BitVec 12 := BitVec.ofNat 12 (fieldAt p 2 2)
def destPart (p : Bytes) : Fin 16 := Fin.ofNat 16 (fieldAt p 2 2 / 4096)

/-- Send a Steward command of opcode `op` to the destination of a move, charged to partition `charge` (R345,
R365). -/
def State.sendSteward (s : State) (charge op : Nat) (cmd : Option Nat) (tag : BitVec 16) (move params : Bytes) : State :=
  let p := s.buildPkt 0x30 0 (destDev move) (destPart move).val true
    (commandBytes op { tag := tag, part := destPart move } params)
  s.modNet fun n => { n with out := n.out ++ [{ pkt := p, spur := false, cmd := cmd, charge := charge }] }

/-- The k-th Steward tag that command number `id` uses (log entry 39). -/
def moveTag (id k : Nat) : BitVec 16 := BitVec.ofNat 16 (0xF000 + (3 * id + k) % 4096)

/-- The reservation of a transfer is freed (R345); while the destination has not named it yet, as soon as it does. -/
def State.releaseMove (s : State) (c : Cmd) : State :=
  match c.wait with
  | .transfer _ params phase _ remote _ =>
    if phase = 0 then { s with orphans := s.orphans ++ [(c.id, c.part, params)] }
    else s.sendSteward c.part 0xF2 none (moveTag c.id 2) params (leBytes 4 remote)
  | _ => s

/-- The ABORT form: everything of the stream goes, and every command waiting on it completes ABORTED (R203,
R355). -/
def State.closeAbort (s : State) (i : Nat) : State :=
  let s := ((s.dropSteps i).modEntry i Entry.dropRing).dropChunks i true
  let s := s.each (s.cmds.filter (movesStream i)) State.releaseMove
  (((s.endPark i stAborted).finishWhere (movesStream i) stAborted).finishWhere (Cmd.provesOf i) stAborted).closeEntry i
    stAborted

/-- CLOSE_STREAM in DRAIN form (Table 9.6). -/
def State.closeDrain (s : State) (i : Nat) : CmdRes :=
  let s := if (s.entry i).status = .draining then s else s.startDraining i
  if s.drained i then .done (s.closeUndrained i) stDrained [] else .wait s (.closeDrain i)

def closeBody (s : State) (r : Req) : CmdRes :=
  onStream r (fun s i =>
    if (s.entry i).status = .closed then .done s stWrongState []
    else if r.hdr.form then .done (s.closeAbort i) stAborted []
    else s.closeDrain i) s

def closeStreamSpec : CmdSpec := streamCmd closeBody true

/-! ### Meanings -/

def execOpenStream (src : Src) (hdr : Hdr) (params : Bytes) (s : State) : Outcome :=
  .next (s.command 0x30 openStreamSpec src hdr params)

def execParkStream (src : Src) (hdr : Hdr) (params : Bytes) (s : State) : Outcome :=
  .next (s.command 0x31 parkStreamSpec src hdr params)

/-- The wait of PARK_STREAM ends (R200). -/
def execParkComplete (stream : Fin 4096) (s : State) : Outcome :=
  .next (s.when ((s.entry stream.val).parking && !s.carried stream.val) fun s =>
    ((s.flushSlot stream.val).modEntry stream.val fun e => { e with status := .parked, urgent := false }).endPark
      stream.val stOk)

def execUnparkStream (src : Src) (hdr : Hdr) (params : Bytes) (s : State) : Outcome :=
  .next (s.command 0x32 unparkStreamSpec src hdr params)

def execCloseStream (src : Src) (hdr : Hdr) (params : Bytes) (s : State) : Outcome :=
  .next (s.command 0x34 closeStreamSpec src hdr params)

end Sys2Proof.Machine
end

