-- ==== Sys2Proof/Machine/OutputCmds.lean ====
section
/-! DEFINITION. The output and time commands (R28, R37, R285 to R290, R294, R296, R313, R315, R366). -/

namespace Sys2Proof.Machine

/-! ### Queued bindings -/

/-- What stream i is bound to once every queued change has applied. -/
def State.willBind (s : State) (i : Nat) : BitVec 16 :=
  (s.due ++ s.changes).foldl (fun b c => match c with
    | .bind k t => if k = i then t else b
    | .unbind k => if k = i then 0xFFFF else b
    | .mask _ _ _ => b) (s.entry i).bind

/-- Stream i is bound, or a binding of it is queued. -/
def State.isBound (s : State) (i : Nat) : Bool :=
  (s.entry i).bind != 0xFFFF || (s.due ++ s.changes).any fun c => match c with
    | .bind k _ => k == i
    | _ => false

/-- Streams that hold output t, now or once the queued changes have applied: an unbind that is only queued has freed
nothing yet (R289, R290, R355). -/
def State.holders (s : State) (t : BitVec 16) : List Nat :=
  s.entries.filterMap fun x => if x.2.bind == t || s.willBind x.1 == t then some x.1 else none

/-- Converter slots 16 to 31 in use or spoken for: CSI-2 bindings with ρ ≠ 1 (R287). -/
def State.slotConverters (s : State) : Nat :=
  (s.entries.filter fun x => match bindTo (s.willBind x.1) with
    | .slot g _ => let r := s.rhoOf (s.fOut (s.group g).clk.val) x.1; r.1 != r.2
    | _ => false).length

/-! ### BIND_OUTPUT (R288, R289, R313, R366) -/

/-- Group fields DEST, VC, FMT and CLK of the parameters. -/
def groupFields (p : Bytes) : Nat × Nat × Nat × Nat := (fieldAt p 4 2, fieldAt p 6 1, fieldAt p 7 1, fieldAt p 8 1)

/-- The group fields suit the binding: ranges for a free group, zeros otherwise (R313, R366). -/
def State.groupFieldsOk (s : State) (t : BindTo) (p : Bytes) : Bool :=
  let (dest, vc, fmt, clk) := groupFields p
  let zero := dest == 0 && vc == 0 && fmt == 0 && clk == 0
  match t with
  | .slot g _ => if (s.group g).active then zero
      else decide (2 ≤ vc) && decide (vc ≤ 9) && decide (fmt ≤ 2) && decide (clk ≤ 4)
  | .bad => false
  | _ => zero

/-- The output belongs to another partition (R289, R313). -/
def State.foreignOutput (s : State) (p : Nat) (t : BindTo) : Bool :=
  match t with
  | .aes c => (s.out (c / 2)).en && (s.out (c / 2)).part != some p
  | .slot g _ => (s.group g).active && (s.group g).part != p
  | _ => false

/-- Stream k is DRAINING with SEQEND = 1 on its output, with no successor yet (R289). -/
def State.succeedable (s : State) (k : Nat) : Bool :=
  let e := s.entry k
  e.status == .draining && e.seqend && s.willBind k == e.bind &&
    (match bindTo e.bind with
     | .aes c => (s.achan c).stream == some k && (s.achan c).successor.isNone
     | .slot g x => Tbl.get none (s.group g).slots x == some k && (Tbl.get none (s.group g).succs x).isNone
     | _ => false)

/-- A binding to `word` would be that of a successor (R289). -/
def State.succeeds (s : State) (word : BitVec 16) : Bool :=
  match s.holders word with
  | [k] => s.succeedable k
  | _ => false

/-- A stream whose status does not let it be bound to `word` (R366). -/
def State.bindStatus (s : State) (i : Nat) (word : BitVec 16) : Option (BitVec 16) :=
  match (s.entry i).status with
  | .closed => some stWrongState
  | .draining => if s.isBound i || !s.succeeds word then some stWrongState else none
  | .parked => if s.isBound i then some stWrongState else some stStreamParked
  | .faulted => if s.isBound i then some stWrongState else some stStreamFaulted
  | _ => if s.isBound i then some stWrongState else none

/-- The first slot bound in a free group gives the group its fields (R313). -/
def State.openGroup (s : State) (p : Nat) (t : BindTo) (b : Bytes) : State :=
  match t with
  | .slot g _ =>
    if (s.group g).active then s
    else
      let (dest, vc, fmt, clk) := groupFields b
      s.setGroup g { active := true, part := p, clk := Fin.ofNat 8 clk, fmt := Fin.ofNat 4 fmt, vc := vc,
                     dest := BitVec.ofNat 12 dest }
  | _ => s

/-- f_out that a binding to t would have. -/
def State.targetRate (s : State) (t : BindTo) (b : Bytes) : Nat :=
  match t with
  | .aes c => s.fOut (s.out (c / 2)).clk.val
  | .slot g _ => if (s.group g).active then s.fOut (s.group g).clk.val else s.fOut (groupFields b).2.2.2
  | _ => 0

/-- The output itself lets stream i be bound (R287 to R289, R313). -/
def State.outputCheck (s : State) (i : Nat) (t : BindTo) (b : Bytes) : Option (BitVec 16) :=
  match t with
  | .aes c =>
    if 3 ≤ (s.entry i).orFmt.toNat then some stBadField
    else if !(s.out (c / 2)).en then some stWrongState
    else none
  | .slot _ _ =>
    let r := s.rhoOf (s.targetRate t b) i
    if r.1 ≠ r.2 ∧ 16 ≤ s.slotConverters then some stUnitBusy else none
  | _ => none

/-- Bind stream i to `word`: queued for its frame start, or at once as the successor of a stream DRAINING with
SEQEND = 1 (R204, R289, R290). -/
def State.bindStream (s : State) (r : Req) (i : Nat) (word : BitVec 16) : CmdRes :=
  let t := bindTo word
  match s.bindStatus i word with
  | some st => .done s st []
  | none => match s.outputCheck i t r.p with
    | some st => .done s st []
    | none => match s.holders word with
      | [] => let s := s.openGroup r.hdr.part.val t r.p
              .done { s with changes := s.changes ++ [.bind i word] } stOk []
      | [k] => if s.succeedable k then .done (s.attach i word) stOk [] else .done s stUnitBusy []
      | _ => .done s stUnitBusy []

/-- Unbind stream i, a waiting successor too: queued for its frame start (R290, R366). -/
def State.unbindStream (s : State) (i : Nat) : State :=
  if s.willBind i = 0xFFFF then s else { s with changes := s.changes ++ [.unbind i] }

def bindOutputBody (s : State) (r : Req) : CmdRes :=
  let p := r.hdr.part.val
  let i := fieldAt r.p 0 2
  let word := BitVec.ofNat 16 (fieldAt r.p 2 2)
  let t := bindTo word
  if s.foreignStream p i || s.foreignOutput p t then .done s stNotPermitted []
  else if !s.groupFieldsOk t r.p then .done s stBadField []
  else if word = 0xFFFF then
    if (s.entry i).status = .closed then .done s stWrongState [] else .done (s.unbindStream i) stOk []
  else s.bindStream r i word

def bindOutputSpec : CmdSpec :=
  { length := fun p => p.length == 12
    reserved := fun p => zeroAt [(9, 3)] p && decide (fieldAt p 4 2 < 4096) && streamField 0 p
    body := bindOutputBody }

/-! ### SET_SLOT_MASK (R290, R315) -/

/-- Channels whose output satisfies a test, as a mask. -/
def channelsOf (f : Nat → Bool) : Nat := maskOf ((List.range 16).filter fun c => f (c / 2))

def slotMaskBody (s : State) (r : Req) : CmdRes :=
  let p := r.hdr.part.val
  let g := fieldAt r.p 0 1
  let m := fieldAt r.p 4 8
  if 15 < g then .done s stBadField []
  else if g = 0 then
    if m &&& channelsOf (fun o => !(s.out o).en) ≠ 0 then .done s stBadField []
    else if m &&& channelsOf (fun o => (s.out o).part != some p) ≠ 0 then .done s stNotPermitted []
    else
      let bits := channelsOf fun o => (s.out o).part == some p
      .done { s with changes := s.changes ++ [.mask 0 (BitVec.ofNat 64 bits) (BitVec.ofNat 64 m)] } stOk []
  else if !(s.group g).active then
    if m = 0 then .done s stOk [] else .done s stBadField []
  else if (s.group g).part ≠ p then .done s stNotPermitted []
  else .done { s with changes := s.changes ++ [.mask g (BitVec.allOnes 64) (BitVec.ofNat 64 m)] } stOk []

def slotMaskSpec : CmdSpec :=
  { length := fun p => p.length == 12
    reserved := fun p => zeroAt [(1, 3)] p && (fieldAt p 0 1 != 0 || decide (fieldAt p 4 8 < 65536))
    body := slotMaskBody }

/-! ### SET_TIMEBASE (R28, R37) -/

/-- RATE is in range for the internal source. -/
def internalRateOk (rate : Nat) : Bool := decide (31000 * 256 ≤ rate) && decide (rate ≤ 198000 * 256)

def setTimebaseBody (s : State) (r : Req) : CmdRes :=
  let src := fieldAt r.p 0 1
  let sel := fieldAt r.p 1 1
  let rate := fieldAt r.p 4 4
  if 3 < src ∨ 7 < sel ∨ (src = 0 ∧ !internalRateOk rate) then .done s stBadField []
  else .done ((s.selectSource (Fin.ofNat 4 src) (BitVec.ofNat 32 rate)).selectFrame (Fin.ofNat 8 sel)) stOk []

def setTimebaseSpec : CmdSpec :=
  { scope := fun _ => .device
    names := fun _ _ => []
    length := fun p => p.length == 8
    reserved := fun p => zeroAt [(2, 2)] p && (fieldAt p 0 1 == 0 || fieldAt p 4 4 == 0)
    body := setTimebaseBody }

/-! ### CONFIG_AES_OUT (R285, R289, R294) -/

/-- Enable output o with the fields of Table 18.9 for partition p. -/
def State.enableOutput (s : State) (o p : Nat) (b : Bytes) : State :=
  (s.setOut o { en := true, consumer := fieldAt b 2 1 == 1, wlen := Fin.ofNat 4 (fieldAt b 3 1),
                clk := Fin.ofNat 8 (fieldAt b 4 1), part := some p, category := BitVec.ofNat 8 (fieldAt b 5 1),
                copyOk := bitOf (fieldAt b 6 1) 0, origin := BitVec.ofNat 32 (fieldAt b 8 4),
                destn := BitVec.ofNat 32 (fieldAt b 12 4) }).outCheck o

/-- What a channel drains to under a DRAIN-form disable: its stream and that stream's OR_WR (R294). -/
def State.drainGoal (s : State) (c : Nat) : Option (Nat × Word) :=
  match (s.achan c).stream with
  | some i => some (i, (s.entry i).orWr)
  | none => none

/-- Disable output o in ABORT form; a DRAIN form that waits on it completes ABORTED (R294, R355). -/
def State.abortOutput (s : State) (o : Nat) : State := (s.stopOutput o true).finishWhere (waitsOut o) stAborted

def aesOutBody (s : State) (r : Req) : CmdRes :=
  let p := r.hdr.part.val
  let o := fieldAt r.p 0 1
  let op := fieldAt r.p 1 1
  let x := s.out o
  if 7 < o ∨ 1 < op ∨ 1 < fieldAt r.p 2 1 ∨ 2 < fieldAt r.p 3 1 ∨ 6 < fieldAt r.p 4 1 then .done s stBadField []
  else if x.part.isSome && x.part != some p then .done s stNotPermitted []
  else if op = 0 then
    if x.en then .done s stWrongState [] else .done (s.enableOutput o p r.p) stOk []
  else if !x.en then .done s stWrongState []
  else if r.hdr.form then .done (s.abortOutput o) stAborted []
  else .wait (s.modOut o fun x => { x with draining := true }) (.aesDrain o (s.drainGoal (2 * o)) (s.drainGoal (2 * o + 1)))

def aesOutSpec : CmdSpec :=
  { length := fun p => p.length == 16
    reserved := fun p => fieldAt p 7 1 == 0 && decide (fieldAt p 6 1 ≤ 1) &&
      (fieldAt p 1 1 != 1 || zeroAt [(2, 5), (8, 8)] p)
    forms := fun p => fieldAt p 1 1 == 1
    body := aesOutBody }

/-! ### CONFIG_AES_IN (R289, R296) -/

/-- Release input i: capture is off, and no partition owns it. -/
def State.releaseInput (s : State) (i : Nat) : State :=
  s.modAin i fun x => { x with capture := false, capBlock := false, part := none, sync := 0, ringFrames := 0, ring := 0 }

/-- A synchronisation object of one of the partition's clusters (R146, R264). -/
def State.ownsObject (s : State) (p obj : Nat) : Bool := (s.part p).owns (obj / 2048)

def aesInBody (s : State) (r : Req) : CmdRes :=
  let p := r.hdr.part.val
  let i := fieldAt r.p 0 1
  let on := fieldAt r.p 1 1
  let sync := fieldAt r.p 2 2
  let frames := fieldAt r.p 4 4
  let ring := fieldAt r.p 8 5
  let x := s.ain i
  if 1 < i ∨ 1 < on then .done s stBadField []
  else if x.part.isSome && x.part != some p then .done s stNotPermitted []
  else if on = 0 then .done (s.releaseInput i) stOk []
  else if frames % 192 ≠ 0 ∨ frames < 192 ∨ 3145728 < frames then .done s stBadField []
  else if !s.ownsObject p sync then .done s stNotPermitted []
  else if !(s.part p).inside ring (8 * frames) then .done s stOutOfBounds []
  else .done (s.modAin i fun x =>
    { x with capture := true, capBlock := false, part := some p, sync := sync, ringFrames := frames, ring := ring,
             place := x.wr.toNat % frames }) stOk []

def aesInSpec : CmdSpec :=
  { length := fun p => p.length == 16
    reserved := fun p => zeroAt [(13, 3)] p && (fieldAt p 1 1 != 0 || zeroAt [(2, 11)] p)
    body := aesInBody }

/-! ### Meanings -/

def execBindOutput (src : Src) (hdr : Hdr) (params : Bytes) (s : State) : Outcome :=
  .next (s.command 0x40 bindOutputSpec src hdr params)

def execSetSlotMask (src : Src) (hdr : Hdr) (params : Bytes) (s : State) : Outcome :=
  .next (s.command 0x41 slotMaskSpec src hdr params)

def execSetTimebase (src : Src) (hdr : Hdr) (params : Bytes) (s : State) : Outcome :=
  .next (s.command 0x42 setTimebaseSpec src hdr params)

def execConfigAesOut (src : Src) (hdr : Hdr) (params : Bytes) (s : State) : Outcome :=
  .next (s.command 0x43 aesOutSpec src hdr params)

def execConfigAesIn (src : Src) (hdr : Hdr) (params : Bytes) (s : State) : Outcome :=
  .next (s.command 0x44 aesInSpec src hdr params)

end Sys2Proof.Machine
end

