-- ==== Sys2Proof/Machine/Startup.lean ====
section
/-! DEFINITION. Start-up and the whole-device reset (R376 to R379, R392, R427, R431), and what a unit reset
leaves in a core (R252, R389). -/

namespace Sys2Proof.Machine

/-! ### Stages -/

def State.stage (s : State) (n : Nat) : Stage := Tbl.get {} s.stages n
def State.setStage (s : State) (n : Nat) (x : Stage) : State := { s with stages := Tbl.set {} s.stages n x }

/-- Stage n begins `us` microseconds from t0. -/
def State.beginStage (s : State) (n : Nat) (us : Word) : State := s.setStage n { result := 1, startUs := us }

/-- Seed core g's generator from the entropy source (R252): a free value. -/
def State.seedCore (s : State) (g : Nat) : State :=
  let r := s.draw
  r.2.modCore g fun c => { c with rng := r.1, draws := 0, due := false, overdue := false }

/-- Units OTP marks absent enter the maps when the fuses are read (R376, R380). -/
def State.readFuses (s : State) : State :=
  { s with coreMap := (List.range 2048).filterMap fun g => if Config.absentCore g then some (g, 1) else none,
           millMap := (List.range 256).filterMap fun g => if Config.absentMill g then some (g, 1) else none }

/-- Present cores of cluster n. -/
def State.coresIn (s : State) (n : Nat) : Nat :=
  ((List.range 64).filter fun m => Tbl.get 0 s.coreMap (64 * n + m) == 0).length

/-- The present units reach the fused grade's minimums (R1, R380). -/
def State.gradeOk (s : State) : Bool :=
  let cores := presentCount s.coreMap 2048
  let mills := presentCount s.millMap 256
  presentCount s.narrowMap 32 == 32 &&
    (if Config.gradeP then decide (2000 ≤ cores) && decide (248 ≤ mills)
     else decide (1920 ≤ cores) && decide (224 ≤ mills) && (List.range 32).all fun n => decide (56 ≤ s.coresIn n))

/-- Units of stage 4 that it marks failed: present ones among those given. -/
def State.stageMarks (s : State) (r : StageEnd) : List UnitId :=
  ((r.badCores.map UnitId.core) ++ (r.badMills.map UnitId.mill)).eraseDups.filter fun u => s.unitState u == 0

/-- Transmit rates at reset (Table 16.10); a port that is UP keeps running at its own. -/
def State.resetRates (s : State) : State :=
  s.each [3, 4, 5] fun s p => if (s.port p).state = 2 then s else s.modPort p fun x => { x with rate := s.maxRate p }

/-- What a stage that is done leaves (Table 19.1). -/
def State.stageWork (s : State) (n : Nat) (r : StageEnd) : State :=
  match n with
  | 0 => { s with phyMode := r.phyMode, i3cSa := r.i3cSa }.resetRates
  | 1 => s.readFuses
  | 2 => s.modI3c fun x => { x with live := true }
  | 3 => { s with mem := [], badLines := [] }.each (List.range 256) fun s c =>
      s.modChan c fun h => { h with selfRefresh := false }
  | 4 => (s.each (s.stageMarks r) State.markFailed).each (List.range 2048) State.seedCore
  | 5 => { s with planned := true, generation := s.planGeneration, planTime := s.tb.count }
  | 6 => s.each (List.range 6) fun s p =>
      if r.portsUp.getLsbD p then s.portUp p
      else if (s.port p).state = 2 then s
      else s.modPort p fun x => { x with state := 3 }
  | _ => ({ s with ready := !s.halted }.modNet Net.reopenAll).startDiscovery

/-- The stages that begin when stage n is done (Table 19.1); the sample-time counter starts at 0 as stage 1
begins (R25). Instants of the timebase count from there (log entry 29). -/
def State.nextStages (s : State) (n : Nat) (us : Word) : State :=
  match n with
  | 0 => (s.beginStage 1 us).modTb fun t => { t with running := true, count := 0 }
  | 1 => ((s.beginStage 2 us).beginStage 3 us).beginStage 4 us
  | 3 => if (s.stage 4).result = 2 then s.beginStage 5 us else s
  | 4 => if (s.stage 3).result = 2 then s.beginStage 5 us else s
  | 5 => (s.beginStage 6 us).each (List.range 6) fun s p =>
      if (s.port p).state = 2 then s else s.modPort p fun x => { x with state := 1 }
  | 6 => s.beginStage 7 us
  | _ => s

/-- DETAIL of a stage's report (Table 19.2). -/
def State.stageDetail (s : State) (n : Nat) : Word :=
  let ports (st : Nat) : Nat := maskOf ((List.range 6).filter fun p => (s.port p).state == st)
  match n with
  | 5 => s.generation
  | 6 => BitVec.ofNat 32 (ports 2 + 256 * ports 3)
  | _ => 0

/-- A stage's report is written: SYS.EVENTS.STAGE, and IBI code 1 from stage 3 onward (R323, R377). -/
def State.stageWritten (s : State) (n : Nat) : State :=
  let s := s.setBits 0x20 0x80
  if 3 ≤ n then s.raiseIbi 1 else s

/-- A stage fails: its report, and the device halts (R378). -/
def State.stageFails (s : State) (n : Nat) (cause kind : Byte) (unit : BitVec 16) (us : Word) (marked : Nat) : State :=
  let x := s.stage n
  let time := if n = 0 then 0 else s.tb.count
  { s.setStage n { x with result := 3, cause := cause, kind := kind, unit := unit, endUs := us, time := time,
                          marked := marked, detail := s.stageDetail n } with
    halted := true, ready := false }.stageWritten n

/-- The sensors as last read: °C, and UNIT of Table 19.2 (R421). -/
def State.sensors (s : State) : List (Int × Nat) :=
  (List.range 32).map (fun n => ((s.clu n).temp.toInt, n)) ++
    (List.range 64).map (fun d => ((Tbl.get 0 s.dies d).toInt, 32 + d)) ++ [(s.stewardTemp.toInt, 96)]

/-- The hottest sensor of those at 100 °C or more, the first of equals. -/
def hotReading (l : List (Int × Nat)) : Option (Int × Nat) :=
  (l.filter fun x => decide (100 ≤ x.1)).foldl (fun best x => match best with
    | none => some x
    | some b => if b.1 < x.1 then some x else some b) none

/-- The UNIT of the hottest sensor at 100 °C or more (R422). -/
def State.hotSensor (s : State) : Option (BitVec 16) := (hotReading s.sensors).map fun x => BitVec.ofNat 16 x.2

/-- The sensor that stage 0 fails with: one that was hot as the reset began, or that is hot now (R422, Table 19.3). -/
def State.hotNow (s : State) : Option (BitVec 16) :=
  match s.hotStart with
  | some u => some u
  | none => s.hotSensor

/-- The lowest-numbered rail outside its operating range (R427). -/
def State.badRail (s : State) : Option Nat := (List.range 7).find? fun r => s.badRails.any fun x => x.val == r

/-- What stage n fails of whatever its report says, as (cause, kind, unit): stage 0 of a hot sensor or a rail outside its
range (R422, R427; a rail's UNIT is its number, log entry 85), stage 4 of missing entropy (R252). -/
def State.mustFail (s : State) (n : Nat) : Option (Byte × Byte × BitVec 16) :=
  match n with
  | 0 => match s.hotNow, s.badRail with
    | some u, _ => some (0x01, 12, u)
    | none, some r => some (0x01, 11, BitVec.ofNat 16 r)
    | none, none => none
  | 4 => if s.entropyFail then some (0x0A, 10, 0) else none
  | _ => none

/-- The thermal trip stops every cluster clock and puts every channel in self-refresh (R422). -/
def State.stopAll (s : State) : State :=
  let s := s.each (List.range 32) fun s n => s.modClu n fun k => { k with power := 3 }
  s.each (List.range 256) fun s c => s.modChan c fun h => { h with selfRefresh := true }

/-- A stage is done: its work, its report, and the stages that follow unless the device is halted (R376,
R377, R378). -/
def State.stageDone (s : State) (n : Nat) (r : StageEnd) : State :=
  let marked := if n = 4 then (s.stageMarks r).length else 0
  let s := s.stageWork n r
  let x := s.stage n
  let time := if n = 0 then 0 else s.tb.count
  let s := (s.setStage n { x with result := 2, endUs := r.endUs, time := time, marked := marked,
                                  detail := s.stageDetail n }).stageWritten n
  if s.halted then s else s.nextStages n r.endUs

/-- Stage n ends failed; stage 4 has marked its units all the same (R378). Cause 0x0A names the entropy source (R252). -/
def State.endFailed (s : State) (n : Nat) (r : StageEnd) (cause kind : Byte) (unit : BitVec 16) : State :=
  let marks := if n = 4 then s.stageMarks r else []
  let named : Byte × BitVec 16 := if cause = 0x0A then (10, 0) else (kind, unit)
  (s.each marks State.markFailed).stageFails n cause named.1 named.2 r.endUs marks.length

/-- The end of stage n: stages 6 and 7 never fail; stage 5 fails with cause 0x0B exactly when the units fall short of the
grade, and its record is still readable (R378, R380). -/
def State.endStage (s : State) (n : Nat) (r : StageEnd) : State :=
  match s.mustFail n with
  | some (cause, kind, unit) => s.endFailed n r cause kind unit
  | none =>
    if n = 5 then
      if s.gradeOk then s.stageDone 5 r
      else (s.stageWork 5 r).stageFails 5 0x0B 0 0 r.endUs 0
    else if r.failed && decide (n < 6) then s.endFailed n r r.cause r.kind r.unit
    else s.stageDone n r

/-! ### The whole-device reset (R392) -/

/-- What the network domain keeps through a warm reset. -/
def Net.kept (n : Net) : Net :=
  { ports := n.ports, rcv := n.rcv, thru := n.thru, turn := n.turn, id := n.id, idValid := n.idValid, relay := n.relay }

/-- What it keeps with VDD_NET alone in range (R329). -/
def Net.idKept (n : Net) : Net := { id := n.id, idValid := n.idValid, relay := n.relay }

/-- Rails by number: VDD_CORE, VDD_SRAM, VDD_NET, VDD_MEM, VPP_MEM, VDD_PHY, VDDIO_18 (R424, R430). -/
def railNet : Fin 7 := 2
def railPhy : Fin 7 := 5

/-- VDD_NET is lost: a cold start follows, and nothing is kept (R392). -/
def State.netLost (s : State) : State := { pending := s.pending, free := s.free, badRails := s.badRails }

/-- What a warm whole-device reset with a cause keeps (R392). With VDD_NET
out of range nothing is kept; with VDD_PHY out of range only what VDD_NET alone keeps (R329, R394). The receive
credits of commands that the reset loses are owed. -/
def State.warmKept (s : State) (cause : Nat) : State :=
  if s.badRails.contains railNet then s.netLost
  else
    let s := s.each s.rx fun s c => match c.src with
      | .dev d => s.owe d false 0 (32 + c.bytes.length)
      | .spur => s.owe s.net.id true 0 (32 + c.bytes.length)
      | .i3c => s
    let n := s.net
    { pending := s.pending, free := s.free, resets := satAdd32 s.resets 1, resetCause := cause, badRails := s.badRails,
      phyMode := s.phyMode,
      net := if s.badRails.contains railPhy then n.idKept else n.kept }

/-- A warm whole-device reset with a cause (Table 19.9): everything is lost but what R392 keeps. One that begins with a
hot sensor leaves a thermal trip in effect, and stage 0 will fail (R422). -/
def State.warmReset (s : State) (cause : Nat) : State :=
  let t := { s.warmKept cause with hotStart := s.hotSensor }
  if s.tripped && s.hotSensor.isSome then { t with tripped := true }.stopAll else t

/-- t0: stage 0 begins (R376). -/
def State.powerOn (s : State) : State := { s with started := true }.beginStage 0 0

/-! ### Meanings -/

def execStartUp (s : State) : Outcome := .next (s.when (!s.started) State.powerOn)

def execStageComplete (stage : Fin 8) (r : StageEnd) (s : State) : Outcome :=
  .next (s.when ((s.stage stage.val).result == 1) fun s => s.endStage stage.val r)

/-- A stage that overruns its bound fails with cause 0x0C; stages 6 and 7 never fail (R377, R378). -/
def execStageTimeout (stage : Fin 8) (kind : Byte) (unit : BitVec 16) (us : Word) (s : State) : Outcome :=
  .next (s.when ((s.stage stage.val).result == 1 && decide (stage.val < 6)) fun s =>
    s.stageFails stage.val 0x0C kind unit us 0)

/-- RESET_N low: reset cause 1, held at the start of stage 0 until it rises (R392). -/
def execResetNLow (s : State) : Outcome := .next (s.warmReset 1)

/-- PWR_OK low acts exactly as RESET_N low (R427). -/
def execPwrOkLow (s : State) : Outcome := .next (s.warmReset 1)

/-- The reset of a RESET_UNIT at LEVEL 3, after its completion (R361): start-up runs again at once. -/
def execWholeDeviceReset (s : State) : Outcome :=
  .next (s.when s.resetReq fun s => (s.warmReset 2).powerOn)

def execVddNetLoss (s : State) : Outcome := .next s.netLost

/-- A rail leaves its range (R427). While the device is held at the start of stage 0, VDD_NET takes everything with it
(R392), and VDD_PHY all that VDD_NET alone does not keep (R329, R394). -/
def execRailExcursion (rail : Fin 7) (s : State) : Outcome :=
  let s := { s with badRails := if s.badRails.contains rail then s.badRails else rail :: s.badRails }
  .next (if s.started then s
    else if rail = railNet then s.netLost
    else if rail = railPhy then s.modNet Net.idKept
    else s)

def execRailReturn (rail : Fin 7) (s : State) : Outcome :=
  .next { s with badRails := s.badRails.filter (· != rail) }

end Sys2Proof.Machine
end

