-- ==== Sys2Proof/Machine/Units.lean ====
section
/-! DEFINITION. Partitions, resets and tests of units (R96, R262 to R265, R360, R361, R387 to R391, R404). -/

namespace Sys2Proof.Machine

/-! ### Ending commands (R355) -/

/-- A command waits in FENCE. -/
def isFence (c : Cmd) : Bool := match c.wait with
  | .fence _ => true
  | _ => false

/-- A command waits for lane 0 of the SHAKE engine. -/
def isLane (c : Cmd) : Bool := match c.wait with
  | .lane _ _ => true
  | _ => false

/-- Waiters and lane places of commands that are no longer in progress go. -/
def State.sweep (s : State) : State :=
  let live (id : Nat) : Bool := s.cmds.any (·.id == id)
  { s with lane0 := s.lane0.filter live, lane1 := s.lane1.filter live,
           waiters := s.waiters.filter fun w => match w with
             | .steward _ _ cmd => live cmd
             | .word _ _ _ _ _ _ => true }

/-- Commands in progress that satisfy a test complete with ABORTED, the FENCEs among them first. -/
def State.abortCmds (s : State) (f : Cmd → Bool) : State :=
  let s := s.each (s.cmds.filter f) fun s c => s.clearWork c.wait
  ((s.finishWhere (fun c => isFence c && f c) stAborted).finishWhere f stAborted).sweep

/-- The delayed commands of partition p complete with ABORTED (R39); FENCEs among the waiting ones have ended before. -/
def State.abortDelayed (s : State) (p : Nat) : State :=
  let mine (d : Delayed) : Bool := d.hdr.part.val == p && scopeOfOpcode d.opcode d.params == .partition
  ({ s with delayed := s.delayed.filter fun d => !mine d }.each (s.delayed.filter mine) fun s d =>
    s.reply d.src d.opcode d.hdr.tag p stAborted).settleFences

/-- A command acts on the objects of partition p: a partition command that names it, other than an admission's
wait for a discovery. -/
def onPartition (p : Nat) (c : Cmd) : Bool :=
  c.part == p && scopeOfOpcode c.opcode [] == .partition && (match c.wait with
    | .discover => false
    | .reset 2 _ => false
    | _ => true)

/-- Every waiting and delayed command of partition p completes with ABORTED, FENCEs first (R355, R391). -/
def State.abortPartition (s : State) (p : Nat) : State :=
  ((s.finishWhere (fun c => isFence c && onPartition p c) stAborted).abortDelayed p).abortCmds (onPartition p)

/-! ### CREATE_PARTITION (R263, R360) -/

/-- CLUSTERS as cluster numbers. -/
def takenClusters (p : Bytes) : List Nat := maskList 32 (fieldAt p 0 4)
/-- Share mode and way mask of cluster n. -/
def modeOf (p : Bytes) (n : Nat) : Nat := fld (fieldAt p 16 8) (2 * n) 2
def waysField (p : Bytes) (n : Nat) : Nat := fieldAt p (24 + 2 * n) 2

/-- The fields obey Table 18.5. -/
def createFields (p : Bytes) : Bool :=
  let taken := takenClusters p
  !taken.isEmpty && taken.all (fun n => decide (modeOf p n ≤ 2)) && decide (fieldAt p 4 1 ≤ 18) &&
    decide (1 ≤ fieldAt p 8 2) && decide (fieldAt p 8 2 ≤ 4096) && decide (1 ≤ fieldAt p 10 2) &&
    decide (fieldAt p 10 2 ≤ 256) && (bitOf (fieldAt p 5 1) 0 || fieldAt p 6 2 == 0) &&
    (List.range 32).all fun n => taken.contains n || (modeOf p n == 0 && waysField p n == 0)

/-- rsvd fields of Table 18.5. -/
def createRsvd (p : Bytes) : Bool :=
  decide (fieldAt p 5 1 ≤ 1) && zeroAt [(12, 4)] p &&
    (List.range 8).all fun i => fld (fieldAt p (88 + 2 * i) 2) 12 3 == 0

/-- SOURCES as device ids. -/
def sourceList (p : Bytes) : List (BitVec 12) :=
  (List.range 8).filterMap fun i =>
    let w := fieldAt p (88 + 2 * i) 2
    if bitOf w 15 then some (BitVec.ofNat 12 w) else none

/-- A core, Mill or channel of cluster n is under test. -/
def State.unitTesting (s : State) (n : Nat) : Bool :=
  (s.clu n).millTest != 0 || (List.range 64).any fun m => (s.core (64 * n + m)).testing
/-- Cluster n is under test (R388). -/
def State.clusterTesting (s : State) (n : Nat) : Bool := (s.clu n).testing || (s.clu n).chanTest != 0

/-- Ledger entries and contexts granted (R262). -/
def State.granted (s : State) (f : Part → Nat) : Nat := ((s.partIds.map fun q => f (s.part q)).foldl (· + ·) 0)

/-- The outcomes of Table 14.2. -/
def State.createCheck (s : State) (p : Nat) (b : Bytes) : Option (BitVec 16) :=
  if !createFields b then some stBadField
  else if (s.part p).exists_ then some stWrongState
  else if (takenClusters b).any fun n => (s.clu n).part.isSome || s.clusterTesting n then some stUnitBusy
  else if 4096 < s.granted Part.ledgerQuota + fieldAt b 8 2 then some stNoStreamEntry
  else if 256 < s.granted Part.ctxQuota + fieldAt b 10 2 then some stPartitionFull
  else if !bitOf (fieldAt b 5 1) 0 && s.entropyFail then some stUnitFailed
  else none

/-- The objects of cluster n are 0. -/
def State.clearObjects (s : State) (n : Nat) : State := { s with sync := s.sync.filter fun x => x.1 / 2048 != n }

/-- Create partition p with a salt. -/
def State.createPart (s : State) (p : Nat) (b : Bytes) (salt : BitVec 16) : State :=
  let taken := takenClusters b
  let x : Part :=
    { exists_ := true, clusters := taken, local_ := fieldAt b 4 1, salt := salt, ledgerQuota := fieldAt b 8 2,
      ctxQuota := fieldAt b 10 2, ways := taken.foldl (fun t n => Tbl.set 0 t n (BitVec.ofNat 16 (waysField b n))) [],
      sources := sourceList b, config := digest (b.take 6 ++ leBytes 2 salt.toNat ++ b.drop 8) }
  (s.setPart p x).each taken.zipIdx fun s n =>
    (s.modClu n.1 fun k => { k with part := some p, rank := n.2, mode := modeOf b n.1 }).clearObjects n.1

def createBody (s : State) (r : Req) : CmdRes :=
  let p := r.hdr.part.val
  match s.createCheck p r.p with
  | some st => .done s st []
  | none =>
    let salt := BitVec.ofNat 16 (fieldAt r.p 6 2)
    let x := if bitOf (fieldAt r.p 5 1) 0 then (salt, s) else (s.draw.1.truncate 16, s.draw.2)
    .done (x.2.createPart p r.p x.1) stOk
      (leBytes 2 x.1.toNat ++ leBytes 6 0 ++ leBytes 8 ((takenClusters r.p).length * cluBytes))

def createPartitionSpec : CmdSpec :=
  { scope := fun _ => .device
    length := fun p => p.length == 104
    reserved := createRsvd
    body := createBody }

/-! ### DESTROY_PARTITION (R96, R265) -/

/-- The partition holds a context, or an entry that is not CLOSED, HELD included. -/
def State.inUse (s : State) (p : Nat) : Bool :=
  s.ctxs.any (fun x => match x.2 with | some c => c.part == p | none => false) || decide (0 < s.entriesOf p)

/-- Every output and input that partition p owns is disabled in ABORT form (R294), and its groups are freed. -/
def State.releaseAudio (s : State) (p : Nat) : State :=
  let s := s.each (List.range 8) fun s o => if (s.out o).part = some p then s.abortOutput o else s
  let s := s.each (List.range 2) fun s i => if (s.ain i).part = some p then s.releaseInput i else s
  let mine (g : Nat) : Bool := (s.group g).active && (s.group g).part == p
  { s with groups := s.groups.filter fun x => !mine x.1,
           changes := s.changes.filter fun c => !(List.range 16).any fun g => mine g && c.ofGroup g }

/-- The images of partition p are unloaded (R362). -/
def State.unloadImages (s : State) (p : Nat) : State :=
  { s with images := s.images.filter fun x => match x.2 with | some i => i.part != p | none => true }

def destroyBody (s : State) (r : Req) : CmdRes :=
  let p := r.hdr.part.val
  if !(s.part p).exists_ then .done s stWrongState []
  else if (s.part p).destroying then .wait s (.zeroing p)
  else if s.inUse p then .done s stWrongState []
  else
    let s := s.abortPartition p
    .wait ((s.releaseAudio p).modPart p fun x => { x with destroying := true }) (.zeroing p)

def destroyPartitionSpec : CmdSpec :=
  { scope := fun _ => .device
    length := fun p => p.length == 0
    body := destroyBody }

/-- Channel c is written with zeros; the access ends its self-refresh (R420). -/
def State.zeroChannel (s : State) (c : Nat) : State :=
  let s := (s.wakeCluster (c / 8)).exitRefresh c
  { s with mem := s.mem.filter fun x => x.1 / 2 ^ 31 != c, badLines := s.badLines.filter fun l => l * 128 / 2 ^ 31 != c }

/-- Cluster n is released. -/
def State.releaseCluster (s : State) (n : Nat) : State :=
  ((s.each (List.range 8) fun s k => s.zeroChannel (8 * n + k)).modClu n fun k =>
    { k with part := none, rank := 0, mode := 0, cache := [] }).clearObjects n

/-- The zeroing of partition p's channels is done: it is released, and DESTROY_PARTITION completes (R96, R265). -/
def State.destroyDone (s : State) (p : Nat) : State :=
  let s := (s.each (s.part p).clusters State.releaseCluster).unloadImages p
  let s := { s with parts := Tbl.erase s.parts p, snaps := Tbl.erase s.snaps p }
  s.finishWhere (fun c => c.wait == .zeroing p) stOk

/-! ### Resets of units (R252, R389 to R391) -/

/-- Core g as a reset leaves it, its generator reseeded. -/
def State.resetCore (s : State) (g : Nat) : State := (s.setCore g { resetting := (s.core g).resetting, testing := (s.core g).testing }).seedCore g

/-- Cores of cluster n that are present. -/
def State.presentCores (s : State) (n : Nat) : List Nat :=
  ((List.range 64).map (64 * n + ·)).filter fun g => Tbl.get 0 s.coreMap g == 0

/-- Cluster n reset at level 1: held Mill descriptors complete with UNIT_RESETTING, the rows that a descriptor has
finished stay written (R389, R390). -/
def State.resetCluster (s : State) (n : Nat) : State :=
  let held := (s.clu n).millQ
  let s := s.modClu n fun k =>
    { k with lists := [], held := [], txns := [], granted := none, burst := (255, 0), millSub := [], millQ := [], millLast := none, millCur := none, narQ := [], slots := [] }
  let s := s.each held fun s d => s.completeMill n d stUnitResetting d.bad
  s.each (s.presentCores n) State.resetCore

/-- A unit's failure or absence as a status (R361). -/
def State.unitStatus (s : State) (u : UnitId) : Option (BitVec 16) :=
  match s.unitState u with
  | 0 => none
  | 1 => some stUnitAbsent
  | _ => some stUnitFailed

/-- Core g holds a context; cluster n does. -/
def State.coreBusy (s : State) (g : Nat) : Bool := (List.range 4).any fun j => (s.share g j).ctx.isSome
def State.clusterBusy (s : State) (n : Nat) : Bool := (List.range 64).any fun m => s.coreBusy (64 * n + m)

/-- The checks of a reset of core u. -/
def State.resetCoreCheck (s : State) (p u : Nat) : Option (BitVec 16) :=
  if 2048 ≤ u then some stBadField
  else if !(s.part p).owns (u / 64) then some stNotPermitted
  else match s.unitStatus (.core (Fin.ofNat 2048 u)) with
    | some st => some st
    | none =>
      if (s.core u).resetting || (s.clu (u / 64)).resetting then some stUnitResetting
      else if (s.core u).testing || (s.clu (u / 64)).testing || s.coreBusy u then some stUnitBusy
      else none

/-- The checks of a reset of cluster n. -/
def State.resetClusterCheck (s : State) (p n : Nat) : Option (BitVec 16) :=
  if 32 ≤ n then some stBadField
  else if !(s.part p).owns n then some stNotPermitted
  else if (s.clu n).resetting then some stUnitResetting
  else if s.clusterTesting n || s.unitTesting n || s.clusterBusy n then some stUnitBusy
  else none

/-- Every context of partition p is retired under R280; an admission in progress ends with ABORTED. -/
def State.retireAll (s : State) (p : Nat) : State :=
  s.each s.ctxs fun s x => match x.2 with
    | some c =>
      if c.part ≠ p then s
      else if c.preparing then (s.freeContext x.1).finishWhere (fun k => k.wait == .admission x.1) stAborted
      else (s.abortContext x.1).completeRetire x.1 stAborted
    | none => s

/-- Every stream of partition p is closed in ABORT form, and its reservations go (R391 step 2). -/
def State.closeAll (s : State) (p : Nat) : State :=
  s.each s.entries fun s x =>
    if !x.2.belongs p then s
    else if (s.entry x.1).reserved.isSome then s.setEntry x.1 {}
    else if (s.entry x.1).status = .closed then s else s.closeAbort x.1

/-- The own packets of partition p that are queued and not inserted are discarded (R391 step 5); completions, which
answer commands, are not among them (log entry 73). -/
def State.dropPackets (s : State) (p : Nat) : State :=
  s.modNet fun n => { n with out := n.out.filter fun (o : OutPkt) => o.relay || o.charge != p || o.pkt.dt == 0x31 }

/-- R391, steps 1 to 3 and 5, and what unloads with them (R404, R406). -/
def State.resetPartition (s : State) (p : Nat) : State :=
  let s := (s.modPart p fun x => { x with resetting := true, packages := [] }).abortPartition p
  let s := (s.retireAll p).closeAll p
  (((s.releaseAudio p).unloadImages p).dropPackets p)

/-- R391, step 4: each cluster is reset at level 1 once no test runs in it, and its objects are 0. -/
def State.resetPartitionDone (s : State) (p : Nat) : State :=
  s.each (s.part p).clusters fun s n => ((s.wakeCluster n).resetCluster n).clearObjects n

def resetUnitBody (s : State) (r : Req) : CmdRes :=
  let p := r.hdr.part.val
  let level := fieldAt r.p 0 1
  let u := fieldAt r.p 2 2
  match level with
  | 0 => match s.resetCoreCheck p u with
    | some st => .done s st []
    | none => .wait (((s.wakeCluster (u / 64)).modCore u fun c => { c with resetting := true }).resetCore u) (.reset 0 u)
  | 1 => match s.resetClusterCheck p u with
    | some st => .done s st []
    | none => .wait (((s.wakeCluster u).modClu u fun k => { k with resetting := true }).resetCluster u) (.reset 1 u)
  | 2 => .wait (s.resetPartition p) (.reset 2 p)
  | 3 => .done { s with resetReq := true } stOk []
  | _ => .done s stBadField []

def resetUnitSpec : CmdSpec :=
  { scope := fun p => if fieldAt p 0 1 = 3 then .device else .partition
    names := fun q p => if fieldAt p 0 1 = 3 then [] else [q]
    length := fun p => p.length == 4
    reserved := fun p => fieldAt p 1 1 == 0 && (decide (fieldAt p 0 1 < 2) || decide (3 < fieldAt p 0 1) || fieldAt p 2 2 == 0)
    body := resetUnitBody }

/-- A reset that command `cmd` waits for finishes within its bound (R389, R391). -/
def State.resetDone (s : State) (cmd : Nat) : State :=
  match s.cmds.find? (·.id == cmd) with
  | none => s
  | some c => match c.wait with
    | .reset 2 p =>
      if (s.part p).clusters.any fun n => s.clusterTesting n || s.unitTesting n then s
      else ((s.resetPartitionDone p).clearWork c.wait).finishCmd cmd stOk
    | .reset _ _ => (s.clearWork c.wait).finishCmd cmd stOk
    | _ => s

/-! ### SELF_TEST (R387, R388) -/

/-- The unit of a test by kind, where the floor plan holds it. -/
def testUnit (kind u : Nat) : Option UnitId :=
  match kind with
  | 0 => some (.core (Fin.ofNat 2048 u))
  | 1 => some (.mill (Fin.ofNat 256 u))
  | _ => none

/-- Units of a kind. -/
def testCount (kind : Nat) : Nat := [2048, 256, 32, 256].getD kind 0

/-- The unit is under test or reset (R388). -/
def State.underWork (s : State) (kind u : Nat) : Bool :=
  match kind with
  | 0 => (s.core u).testing || (s.core u).resetting || (s.clu (u / 64)).testing || (s.clu (u / 64)).resetting
  | 1 => bitOf (s.clu (u / 8)).millTest.toNat (u % 8) || (s.clu (u / 8)).testing || (s.clu (u / 8)).resetting
  | 2 => s.clusterTesting u || (s.clu u).resetting || s.unitTesting u ||
      (List.range 64).any fun m => (s.core (64 * u + m)).resetting
  | _ => bitOf (s.clu (u / 8)).chanTest.toNat (u % 8)

/-- The UNIT_BUSY column of Table 19.7. -/
def State.testBusy (s : State) (kind u : Nat) : Bool :=
  match kind with
  | 0 => s.coreBusy u
  | 1 => s.clusterBusy (u / 8)
  | 2 => s.clusterBusy u
  | _ => (s.clu (u / 8)).part.isSome

/-- The cluster that a unit of a kind lies in. -/
def testCluster (kind u : Nat) : Nat := match kind with
  | 0 => u / 64
  | 2 => u
  | _ => u / 8

/-- The unit is marked as under test; its cluster wakes for it (R419). -/
def State.markTest (s : State) (kind u : Nat) : State :=
  let s := s.wakeCluster (testCluster kind u)
  match kind with
  | 0 => s.modCore u fun c => { c with testing := true, gated := false }
  | 1 => s.modClu (u / 8) fun k => { k with millTest := k.millTest ||| BitVec.ofNat 8 (2 ^ (u % 8)) }
  | 2 => s.modClu u fun k => { k with testing := true }
  | _ => s.modClu (u / 8) fun k => { k with chanTest := k.chanTest ||| BitVec.ofNat 8 (2 ^ (u % 8)) }

def selfTestBody (s : State) (r : Req) : CmdRes :=
  let kind := fieldAt r.p 0 1
  let u := fieldAt r.p 2 2
  if testCount kind ≤ u then .done s stBadField []
  else match (testUnit kind u).bind s.unitStatus with
    | some st => .done s st []
    | none =>
      if s.underWork kind u || s.testBusy kind u then .done s stUnitBusy []
      else .wait (s.markTest kind u) (.test kind u)

def selfTestSpec : CmdSpec :=
  { scope := fun _ => .device
    names := fun _ _ => []
    length := fun p => p.length == 4
    reserved := zeroAt [(1, 1)]
    body := selfTestBody }

/-- What a test leaves in core g: its scratchpad zeroed and its generator reseeded (Table 19.7, R252). -/
def State.testedCore (s : State) (g : Nat) : State :=
  (s.each (List.range 4) fun s j => s.modShare g j fun h => { h with scratch := [] }).seedCore g

/-- What a test leaves in its unit (Table 19.7). -/
def State.testLeaves (s : State) (kind u : Nat) : State :=
  match kind with
  | 0 => s.testedCore u
  | 1 => s
  | 2 =>
    let s := (s.each (s.presentCores u) State.testedCore).modClu u fun k => { k with slots := [] }
    if (s.clu u).part.isSome then s else s.modClu u fun k => { k with cache := [] }
  | _ => s.zeroChannel u

/-- The units of the floor plan that a test covers, by kind and global index. -/
def testedUnits (kind u : Nat) : List UnitId :=
  match kind with
  | 0 => [.core (Fin.ofNat 2048 u)]
  | 1 => [.mill (Fin.ofNat 256 u)]
  | 2 => (List.range 64).map (fun m => .core (Fin.ofNat 2048 (64 * u + m))) ++
      (List.range 8).map (fun k => .mill (Fin.ofNat 256 (8 * u + k))) ++ [.narrow (Fin.ofNat 32 u)]
  | _ => []

/-- A stream engine and a cache, and a channel, are tested too, and no unit of the floor plan stands for them. -/
def testsOther (kind : Nat) : Bool := 2 ≤ kind

/-- A test finishes (R387): the units that fail are marked failed, in ascending index (R386), and the command completes
with UNIT_FAILED, as it does when `other` tells of a stream engine, a cache or a channel that failed. -/
def State.testDone (s : State) (cmd : Nat) (failed : List UnitId) (other : Bool) : State :=
  match s.cmds.find? (·.id == cmd) with
  | none => s
  | some c => match c.wait with
    | .test kind u =>
      let bad := (testedUnits kind u).filter failed.contains
      let s := (s.testLeaves kind u).each bad State.unitFailure
      if s.cmds.any (·.id == cmd) then
        (s.clearWork c.wait).finishCmd cmd (if bad.isEmpty && !(other && testsOther kind) then stOk else stUnitFailed)
      else s
    | _ => s

/-! ### Meanings -/

def execCreatePartition (src : Src) (hdr : Hdr) (params : Bytes) (s : State) : Outcome :=
  .next (s.command 0x10 createPartitionSpec src hdr params)

def execDestroyPartition (src : Src) (hdr : Hdr) (params : Bytes) (s : State) : Outcome :=
  .next (s.command 0x11 destroyPartitionSpec src hdr params)

def execChannelZeroingDone (part : Fin 16) (s : State) : Outcome :=
  .next (s.when (s.part part.val).destroying fun s => s.destroyDone part.val)

def execResetUnit (src : Src) (hdr : Hdr) (params : Bytes) (s : State) : Outcome :=
  .next (s.command 0x12 resetUnitSpec src hdr params)

def execUnitResetDone (cmd : Nat) (s : State) : Outcome := .next (s.resetDone cmd)

def execSelfTest (src : Src) (hdr : Hdr) (params : Bytes) (s : State) : Outcome :=
  .next (s.command 0x13 selfTestSpec src hdr params)

def execTestComplete (cmd : Nat) (found : TestFinding) (s : State) : Outcome :=
  .next (s.testDone cmd found.units found.other)

end Sys2Proof.Machine
end

