-- ==== Sys2Proof/Machine/Security.lean ====
section
/-! DEFINITION. Signed content, measurements, attestation, provenance and debug unlock (R375, R396 to R412). The
two lanes of the SHAKE engine serve these commands, each one at a time (R402): a command that passes its first checks
waits in `lane0`, until SHAKE_LANE_DONE finishes it, or as a PROVENANCE in `lane1`, until PROVENANCE_HASH does, carrying
its parameters and what it took at its start. -/

namespace Sys2Proof.Machine

/-- Signature bytes and public-key bytes of a parameter set (Table 20.1). -/
def sigBytes (param : Nat) : Nat := [7856, 16224, 29792, 35664].getD param 0
def keyBytes (param : Nat) : Nat := [32, 48, 64, 48].getD param 0

/-- n bytes of an OTP item. -/
def otp (n : Nat) (f : Nat → Byte) : Bytes := (List.range n).map f

/-- The command waits for its lane with the bytes it carries: lane 1 for PROVENANCE, lane 0 for the others (R402). -/
def State.toLane (s : State) (r : Req) (carry : Bytes) : CmdRes :=
  let w : Wait := .lane r.op (r.p ++ carry)
  if r.op = 0x74 then .wait { s with lane1 := s.lane1 ++ [r.id] } w else .wait { s with lane0 := s.lane0 ++ [r.id] } w

/-! ### Envelopes (R400, R401) -/

/-- A signer: parameter set and key. -/
abbrev Signer := Nat × Bytes

/-- What an envelope is checked against. -/
structure Claim where
  kind : Nat
  len : Nat
  content : Bytes
  /-- the content reaches beyond the partition; it read with an uncorrectable error -/
  outside : Bool := false
  bad : Bool := false
  signer : Option Signer
  /-- the nonce and a serial other than 0 that KIND 4 demands -/
  nonce : Option Bytes := none
deriving DecidableEq, Repr, Inhabited

/-- The header is well formed for a kind (Table 20.4): what other kinds hold as 0 is 0. -/
def envHeader (h : Bytes) (kind : Nat) : Bool :=
  fieldAt h 0 4 == 0x564E4542 && fieldAt h 4 2 == 1 && fieldAt h 6 1 == kind && decide (fieldAt h 7 1 ≤ 2) &&
    fieldAt h 20 4 == 0 && (kind == 0 || fieldAt h 16 4 == 0) && (kind == 4 || fieldAt h 32 32 == 0)

/-- The envelope at A, read through the home caches as far as it lies inside the partition and used as delivered (R94,
R99): its header and the signature after it. -/
def State.readEnv (s : State) (p : Part) (A : Nat) : State × Bytes × Bytes :=
  if !p.inside A 128 then (s, [], [])
  else
    let h := s.readPart p .normal A 128
    let n := sigBytes (fieldAt h.2.1 7 1 % 4)
    if !p.inside A (128 + n) then (h.1, h.2.1, [])
    else
      let g := h.1.readPart p .normal (A + 128) n
      (g.1, h.2.1, g.2.1)

/-- The signature over an envelope's header verifies with the signer's key. -/
def envSigned (h sig : Bytes) (k : Option Signer) : Bool :=
  match k with
  | none => false
  | some (param, key) => fieldAt h 7 1 == param && slhVerify param (key.take (keyBytes param)) h sig

/-- The checks of R401 over the header h and the signature of the envelope at A. -/
def envCheck (p : Part) (A : Nat) (c : Claim) (h sig : Bytes) : Option (BitVec 16) :=
  let serial := fieldAt h 24 8
  if !p.inside A 128 || c.outside || !p.inside A (128 + sigBytes (fieldAt h 7 1 % 4)) then some stOutOfBounds
  else if !envHeader h c.kind then some stBadField
  else if fieldAt h 8 8 ≠ c.len then some stBadLength
  else if c.bad then some stEccUncorrectable
  else if (serial ≠ 0 ∧ serial ≠ Config.serial.toNat) ∨ slice h 64 64 ≠ digest c.content then some stSignatureInvalid
  else if c.nonce.isSome ∧ (serial = 0 ∨ c.nonce ≠ some (slice h 32 32)) then some stSignatureInvalid
  else if !envSigned h sig c.signer then some stSignatureInvalid
  else none

/-- Check an envelope: a failure counts in SEC.VERIFY_FAIL. -/
def State.verify (s : State) (p : Part) (A : Nat) (c : Claim) : State × Option (BitVec 16) :=
  let e := s.readEnv p A
  match envCheck p A c e.2.1 e.2.2 with
  | none => (e.1, none)
  | some st => (e.1.bump (secBase + 8) 0 32 1, some st)

/-! ### The vendor chain (R399) -/

/-- The key of the chain's entry with USE 1, among at most n entries. -/
def vendorKey : Nat → Bytes → Option Signer
  | 0, _ => none
  | n + 1, b =>
    if b.length < 96 then none
    else if fieldAt b 0 1 = 1 then some (fieldAt b 1 1, slice b 16 64)
    else vendorKey n (b.drop (max 96 (fieldAt b 4 4)))

/-- The vendor signing key that a chain proves, or the failure. -/
def chainKey (b : Bytes) : BitVec 16 ⊕ Signer :=
  if digest b ≠ otp 64 Config.chainDigest then .inl stSignatureInvalid
  else match vendorKey 4 b with
    | some k => .inr k
    | none => .inl stSignatureInvalid

/-- The chain at A, read through the home caches and used as delivered (R94, R99), and what it proves. -/
def State.readChain (s : State) (p : Part) (A n : Nat) : State × (BitVec 16 ⊕ Signer) :=
  if !p.inside A n then (s, .inl stOutOfBounds)
  else
    let r := s.readPart p .normal A n
    (r.1, chainKey r.2.1)

/-! ### The owner key at a command's start (R404) -/

/-- SIGNED_ONLY, whether a key is registered, and the 65-byte key record. -/
def Part.ownerBytes (p : Part) : Bytes :=
  match p.owner with
  | some (k, key) => leBytes 1 (b2n p.signedOnly) ++ leBytes 1 1 ++ leBytes 1 k ++ slice key 0 64
  | none => leBytes 67 0

/-- The owner key that a command carries after n bytes of parameters. -/
def carriedKey (b : Bytes) (n : Nat) : Option Signer :=
  if fieldAt b (n + 1) 1 = 0 then none else some (fieldAt b (n + 2) 1, slice b (n + 3) 64)
def carriedSigned (b : Bytes) (n : Nat) : Bool := fieldAt b n 1 == 1

/-- A digest record of an owner key (R403). -/
def keyRecord (k : Nat) (key : Bytes) : Bytes := leBytes 1 k ++ slice key 0 64

/-! ### REGISTER_OWNER_KEY (R404) -/

def ownerKeyBody (s : State) (r : Req) : CmdRes :=
  let x := s.part r.hdr.part.val
  let param := fieldAt r.p 1 1
  let env := fieldAt r.p 8 5
  if 2 < param ∨ !allZero ((r.p.drop 16).drop (keyBytes param)) ∨ (x.owner.isNone ∧ env ≠ 0) ∨ (x.owner.isSome ∧ env = 0) then
    .done s stBadField []
  else if bitOf (fieldAt r.p 0 1) 0 && s.images.any (fun i => match i.2 with
      | some m => m.part == r.hdr.part.val
      | none => false) then .done s stWrongState []
  else s.toLane r x.ownerBytes

/-- Lane 0 has checked the new key. -/
def State.ownerKeyDone (s : State) (part : Nat) (b : Bytes) : CmdRes :=
  let rec_ := keyRecord (fieldAt b 1 1) (slice b 16 64)
  let v := match carriedKey b 80 with
    | none => (s, none)
    | some k => s.verify (s.part part) (fieldAt b 8 5) { kind := 1, len := 65, content := rec_, signer := some k }
  match v.2 with
  | some st => .done v.1 st []
  | none => .done (v.1.modPart part fun x =>
      { x with owner := some (fieldAt b 1 1, slice b 16 64), signedOnly := x.signedOnly || bitOf (fieldAt b 0 1) 0 }) stOk []

def ownerKeySpec : CmdSpec :=
  { length := fun p => p.length == 80
    reserved := fun p => zeroAt [(2, 6), (13, 3)] p && decide (fieldAt p 0 1 ≤ 1)
    body := ownerKeyBody }

/-! ### VERIFY_PACKAGE (R406) -/

def packageBody (s : State) (r : Req) : CmdRes :=
  let x := s.part r.hdr.part.val
  if 1 < fieldAt r.p 0 1 then .done s stBadField []
  else if x.owner.isNone then .done s stWrongState []
  else s.toLane r x.ownerBytes

def State.packageDone (s : State) (part : Nat) (b : Bytes) : CmdRes :=
  let p := s.part part
  let A := fieldAt b 8 5
  let n := fieldAt b 16 8
  let out := !p.inside A n
  let rd := if out then (s, [], []) else s.readPart p .normal A n
  let v := rd.1.verify p (fieldAt b 24 5)
    { kind := 2, len := n, content := rd.2.1, outside := out, bad := !rd.2.2.isEmpty, signer := carriedKey b 32 }
  match v.2 with
  | some st => .done v.1 st []
  | none =>
    let d := digest rd.2.1
    let keep := fieldAt b 0 1 == 0 && decide (p.packages.length < 64)
    .done (if keep then v.1.modPart part fun x => { x with packages := x.packages ++ [d] } else v.1) stOk
      (d ++ leBytes 1 (b2n keep) ++ leBytes 3 0)

def packageSpec : CmdSpec :=
  { length := fun p => p.length == 32
    reserved := zeroAt [(1, 7), (13, 3), (29, 3)]
    body := packageBody }

/-! ### INSTALL_PATCH (R375, R407) -/

def patchBody (s : State) (r : Req) : CmdRes :=
  let n := fieldAt r.p 8 4
  if n = 0 ∨ 2 ^ 20 < n then .done s stBadField []
  else if !(s.part r.hdr.part.val).exists_ then .done s stWrongState []
  else s.toLane r []

def State.patchDone (s : State) (part : Nat) (b : Bytes) : CmdRes :=
  let p := s.part part
  let A := fieldAt b 0 5
  let n := fieldAt b 8 4
  let env := fieldAt b 16 5
  match s.readChain p (fieldAt b 24 5) (fieldAt b 32 4) with
  | (s, .inl st) => .done s st []
  | (s, .inr k) =>
    let out := !p.inside A n
    let rd := if out then (s, [], []) else s.readPart p .normal A n
    let v := rd.1.verify p env
      { kind := 0, len := n, content := rd.2.1, outside := out, bad := !rd.2.2.isEmpty, signer := some k }
    let version := BitVec.ofNat 32 (leNat (v.1.partBytes p (env + 16) 4))
    match v.2 with
    | some st => .done v.1 st []
    | none =>
      if version ≤ v.1.patchVersion then .done v.1 stNotPermitted []
      else .done { v.1 with patchVersion := version, patchDigest := digest rd.2.1 } stOk []

def patchSpec : CmdSpec :=
  { scope := fun _ => .device
    length := fun p => p.length == 40
    reserved := zeroAt [(5, 3), (12, 4), (21, 3), (29, 3), (36, 4)]
    body := patchBody }

/-! ### ATTEST (R403, R408) -/

/-- A partition's section (Table 20.7). -/
def State.attestSection (s : State) (p : Nat) : Bytes :=
  let x := s.part p
  let imgs := s.images.filterMap fun i => match i.2 with
    | some m => if m.part = p then some (i.1 % 256, m.digest) else none
    | none => none
  leBytes 1 p ++ leBytes 1 (b2n x.owner.isSome + 2 * b2n x.signedOnly) ++ leBytes 2 imgs.length ++
    leBytes 2 x.packages.length ++ leBytes 2 0 ++ slice x.config 0 64 ++
    (match x.owner with | some (k, key) => digest (keyRecord k key) | none => leBytes 64 0) ++
    (imgs.flatMap fun i => leBytes 4 i.1 ++ slice i.2 0 64) ++ x.packages.flatten

/-- The report before its signature (Table 20.6). -/
def State.attestBody (s : State) (parts : List Nat) (all : Bool) (nonce : Bytes) : Bytes :=
  let sec := parts.flatMap s.attestSection
  leBytes 4 0x53545441 ++ leBytes 2 1 ++ leBytes 2 (b2n s.debug + 2 * b2n (s.patchVersion != 0) + 4 * b2n all) ++
    leBytes 8 Config.serial.toNat ++ leBytes 6 s.now ++ leBytes 4 s.generation.toNat ++ leBytes 6 0 ++ nonce ++
    otp 64 Config.romDigest ++ slice s.patchDigest 0 64 ++ digest s.floorRecord ++ leBytes 4 Config.romVersion.toNat ++
    leBytes 4 s.patchVersion.toNat ++ leBytes 4 (272 + sec.length) ++ leBytes 1 parts.length ++ leBytes 3 0 ++ sec

/-- Bytes with the identity signature over them (R396, R398). -/
def signed_ (b : Bytes) : Bytes := b ++ slhSign (otp 64 Config.idSeed) ((otp 48 Config.idPk).drop 24) b

def attestCmd (s : State) (r : Req) : CmdRes :=
  let all := bitOf (fieldAt r.p 4 1) 0
  if all && !deviceSource r.src then .done s stNotPermitted []
  else if fieldAt r.p 0 4 ≠ 0 then s.window r.src (s.keptResult r.src r.op) (fieldAt r.p 0 4)
  else s.toLane r (s.attestBody (if all then s.partIds else [r.hdr.part.val]) all (slice r.p 8 32))

def attestSpec : CmdSpec :=
  { length := fun p => p.length == 40
    reserved := fun p => zeroAt [(5, 3)] p && decide (fieldAt p 4 1 ≤ 1)
    body := attestCmd }

/-- Lane 0 has signed a result: it is kept, and its first window returned. -/
def State.signDone (s : State) (src : Src) (op : Nat) (b : Bytes) : CmdRes :=
  let res := signed_ b
  ((s.bump (secBase + 4) 0 32 1).keepResult src op res).window src res 0

/-! ### PROVENANCE (R409, R410) -/

/-- The manifest before its signature (Table 20.8). END_TIME while no frame is hashed, and the measurement of a
context that is not resident, are free (log entry 3). -/
def State.manifest (s : State) (i : Nat) (nonce : Bytes) : Bytes × State :=
  let e := s.entry i
  let v := e.prov
  let t := if v.frames = 0 then State.freeBytes 6 s else (leBytes 6 v.endTime.toNat, s)
  let m := match s.ctx e.context with
    | some x => if x.resident then (slice x.digest 0 64, t.2) else State.freeBytes 64 t.2
    | none => State.freeBytes 64 t.2
  (leBytes 4 0x56525050 ++ leBytes 2 1 ++ leBytes 1 (1 + 2 * b2n s.debug + 4 * b2n (e.status == .faulted)) ++
    leBytes 1 e.orFmt.toNat ++ leBytes 8 Config.serial.toNat ++ leBytes 2 (i + 4096 * e.part.getD 0) ++
    leBytes 1 e.context ++ leBytes 1 0 ++ leBytes 4 e.ringRate.toNat ++ leBytes 8 v.startTime.toNat ++
    leBytes 4 v.startPos ++ leBytes 4 v.frames ++ t.1 ++ leBytes 2 0 ++ leBytes 4 v.endPos ++ leBytes 12 0 ++ nonce ++
    slice v.start 0 64 ++ slice v.chain 0 64 ++ m.1, m.2)

def provenanceCmd (s : State) (r : Req) : CmdRes :=
  let i := fieldAt r.p 4 2
  let e := s.entry i
  if fieldAt r.p 0 4 ≠ 0 then s.window r.src (s.keptResult r.src r.op) (fieldAt r.p 0 4)
  else if s.foreignStream r.hdr.part.val i then .done s stNotPermitted []
  else if e.status = .closed then .done s stWrongState []
  else s.toLane r (leBytes 4 (e.prov.frames + e.prov.waiting.length))

def provenanceSpec : CmdSpec :=
  { length := fun p => p.length == 40
    reserved := fun p => zeroAt [(6, 2)] p && streamField 4 p
    body := provenanceCmd }

/-- Lane 1 has hashed every frame that the manifest must cover. -/
def State.provReady (s : State) (b : Bytes) : Bool :=
  let v := (s.entry (fieldAt b 4 2)).prov
  v.waiting.isEmpty || decide (fieldAt b 40 4 ≤ v.frames)

/-- Lane 1 hashes the oldest waiting frame of stream i. -/
def State.hashFrame (s : State) (i : Nat) : State :=
  match (s.entry i).prov.waiting with
  | [] => s
  | (pos, samples, time) :: rest => s.modEntry i fun e =>
      let v := e.prov
      { e with prov := { v with chain := digest (v.chain ++ leBytes 4 pos ++ samples), frames := v.frames + 1,
                                endTime := time, endPos := pos + 1, waiting := rest } }

/-! ### UNLOCK_DEBUG (R411) -/

/-- An UNLOCK_DEBUG ends the validity of the challenge; OP 1 carries the challenge that was valid at its start. -/
def unlockBody (s : State) (r : Req) : CmdRes :=
  let part := r.hdr.part.val
  let s0 := { s with challenge := none }
  match fieldAt r.p 0 1 with
  | 0 => if s.entropyFail then .done s0 stUnitFailed [] else s0.toLane r []
  | 1 =>
    if !(s.part part).exists_ ∨ s.partIds.any (· != part) then .done s0 stWrongState []
    else match s.challenge with
      | none => .done s0 stWrongState []
      | some c => s0.toLane r c
  | _ => .done s stBadField []

/-- OP 0: a fresh challenge. -/
def State.newChallenge (s : State) : CmdRes :=
  if s.entropyFail then .done s stUnitFailed []
  else
    let a := s.draw
    let b := a.2.draw
    let c := leBytes 16 a.1.toNat ++ leBytes 16 b.1.toNat
    .done { b.2 with challenge := some c } stOk c

/-- OP 1: the chain, then the envelope, against the challenge carried. -/
def State.unlock (s : State) (part : Nat) (b : Bytes) : CmdRes :=
  let p := s.part part
  match s.readChain p (fieldAt b 12 5) (fieldAt b 20 4) with
  | (s, .inl st) => .done s st []
  | (s, .inr k) =>
    let v := s.verify p (fieldAt b 4 5)
      { kind := 4, len := 0, content := [], signer := some k, nonce := some (b.drop 24) }
    match v.2 with
    | some st => .done v.1 st []
    | none => .done { v.1 with debug := true } stOk []

def State.unlockDone (s : State) (part : Nat) (b : Bytes) : CmdRes :=
  if fieldAt b 0 1 = 0 then s.newChallenge else s.unlock part b

def unlockSpec : CmdSpec :=
  { scope := fun _ => .device
    length := fun p => p.length == 24
    reserved := zeroAt [(1, 3), (9, 3), (17, 3)]
    body := unlockBody }

/-! ### Protected ranges (R402) -/

/-- Bytes of the envelope at A. -/
def State.envRange (s : State) (p : Part) (A : Nat) : Nat × Nat := (A, 128 + sigBytes (leNat (s.partBytes p (A + 7) 1)))

/-- Where the signature of an image of n bytes at A lies (R405). -/
def imageEnv (A n : Nat) : Nat := ceilDiv (A + n) 64 * 64

/-- The byte ranges (address, length) of its partition that a command in lane 0 reads. -/
def State.laneReads (s : State) (part op : Nat) (b : Bytes) : List (Nat × Nat) :=
  let p := s.part part
  match op with
  | 0x20 => [(fieldAt b 8 5, fieldAt b 16 8)] ++
      (if carriedSigned b 24 then [s.envRange p (imageEnv (fieldAt b 8 5) (fieldAt b 16 8))] else [])
  | 0x21 => [(fieldAt b 8 8, fieldAt b 16 8)]
  | 0x71 => [(fieldAt b 8 5, fieldAt b 16 8), s.envRange p (fieldAt b 24 5)]
  | 0x72 => if (carriedKey b 80).isSome then [s.envRange p (fieldAt b 8 5)] else []
  | 0x73 => [(fieldAt b 0 5, fieldAt b 8 4), s.envRange p (fieldAt b 16 5), (fieldAt b 24 5, fieldAt b 32 4)]
  | 0x75 => if fieldAt b 0 1 = 1 then [s.envRange p (fieldAt b 4 5), (fieldAt b 12 5, fieldAt b 20 4)] else []
  | _ => []

/-- A command in lane 0 reads some of [A, A + n) of partition p. -/
def State.laneProtects (s : State) (p A n : Nat) : Bool :=
  s.cmds.any fun c => match c.wait with
    | .lane op b => c.part == p && (s.laneReads p op b).any fun r => overlaps A n r.1 r.2
    | _ => false

/-! ### Meanings -/

def execAttest (src : Src) (hdr : Hdr) (params : Bytes) (s : State) : Outcome :=
  .next (s.command 0x70 attestSpec src hdr params)

def execVerifyPackage (src : Src) (hdr : Hdr) (params : Bytes) (s : State) : Outcome :=
  .next (s.command 0x71 packageSpec src hdr params)

def execRegisterOwnerKey (src : Src) (hdr : Hdr) (params : Bytes) (s : State) : Outcome :=
  .next (s.command 0x72 ownerKeySpec src hdr params)

def execInstallPatch (src : Src) (hdr : Hdr) (params : Bytes) (s : State) : Outcome :=
  .next (s.command 0x73 patchSpec src hdr params)

def execProvenance (src : Src) (hdr : Hdr) (params : Bytes) (s : State) : Outcome :=
  .next (s.command 0x74 provenanceSpec src hdr params)

def execUnlockDebug (src : Src) (hdr : Hdr) (params : Bytes) (s : State) : Outcome :=
  .next (s.command 0x75 unlockSpec src hdr params)

/-- R412: the source stops; the failure is counted. ALERT_N follows ENTROPY_FAIL. -/
def execEntropyHealthFail (s : State) : Outcome :=
  .next ({ s with entropyFail := true }.bump (secBase + 0xC) 0 16 1)

/-- A retest that passes clears the flag (R412). -/
def execEntropyRetest (pass : Bool) (s : State) : Outcome :=
  .next (s.when (s.entropyFail && pass) fun s => { s with entropyFail := false })

end Sys2Proof.Machine
end

