-- ==== Sys2Proof/Machine/ImageFile.lean ====
section
/-! DEFINITION. The image file (R157) and the checks of LOAD_IMAGE and ADMIT_CONTEXT on it (R158, R159, R266). -/

namespace Sys2Proof.Machine

/-! ### Header and tables (Table 7.14) -/

/-- The header's fields. -/
structure ImgHead where
  cores : Nat
  shares : Nat
  generation : Nat
  nprog : Nat
  ndata : Nat
  bytes : Nat
  mapOff : Nat
  progOff : Nat
  dataOff : Nat
  haloOff : Nat
deriving DecidableEq, Repr, Inhabited

def imgHead (b : Bytes) : ImgHead :=
  { cores := fieldAt b 6 2, shares := fieldAt b 8 1, generation := fieldAt b 12 4, nprog := fieldAt b 16 4,
    ndata := fieldAt b 20 4, bytes := fieldAt b 24 8, mapOff := fieldAt b 32 8, progOff := fieldAt b 40 8,
    dataOff := fieldAt b 48 8, haloOff := fieldAt b 56 8 }

/-- A core map entry. -/
structure MapEntry where
  core : Nat
  prog : Nat
  data : Nat
  ndata : Nat
  halo : Nat
deriving DecidableEq, Repr, Inhabited

def mapEntry (b : Bytes) (h : ImgHead) (i : Nat) : MapEntry :=
  let o := h.mapOff + 8 * i
  { core := fieldAt b o 2, prog := fieldAt b (o + 2) 2, data := fieldAt b (o + 4) 2, ndata := fieldAt b (o + 6) 1,
    halo := fieldAt b (o + 7) 1 }

def imgMap (b : Bytes) : List MapEntry := (List.range (imgHead b).cores).map (mapEntry b (imgHead b))

/-- A halo entry: link h of logical core i. -/
structure HaloEntry where
  peer : Nat
  flags : Nat
  rsvd : Nat
  buf : Nat
  size : Nat
  data : Nat
  free : Nat
deriving DecidableEq, Repr, Inhabited

def haloEntry (b : Bytes) (h : ImgHead) (i l : Nat) : HaloEntry :=
  let o := h.haloOff + (4 * i + l) * 16
  { peer := fieldAt b o 2, flags := fieldAt b (o + 2) 1, rsvd := fieldAt b (o + 3) 1, buf := fieldAt b (o + 4) 4,
    size := fieldAt b (o + 8) 4, data := fieldAt b (o + 12) 2, free := fieldAt b (o + 14) 2 }

def HaloEntry.incoming (x : HaloEntry) : Bool := bitOf x.flags 0
def HaloEntry.peerLink (x : HaloEntry) : Nat := fld x.flags 1 2

/-! ### LOAD_IMAGE's checks (R158) -/

/-- A table of n bytes at an offset of the header lies inside the image, on a multiple of 64. -/
def tableOk (h : ImgHead) (off n : Nat) : Bool := off % 64 == 0 && decide (off + n ≤ h.bytes)

/-- Step 2. -/
def headOk (b : Bytes) (h : ImgHead) : Bool :=
  fieldAt b 0 4 == 0x4D52544A && fieldAt b 4 2 == 1 && decide (1 ≤ h.cores) && decide (h.cores ≤ 2048) &&
    decide (h.shares ≤ 2) && fieldAt b 9 3 == 0 && decide (1 ≤ h.nprog) && decide (h.nprog ≤ h.cores) &&
    decide (h.ndata ≤ 65535) && tableOk h h.mapOff (8 * h.cores) && tableOk h h.progOff (16 * h.nprog) &&
    (if h.ndata = 0 then h.dataOff == 0 else tableOk h h.dataOff (16 * h.ndata)) &&
    (h.haloOff == 0 || tableOk h h.haloOff (64 * h.cores)) && fieldAt b 64 64 == 0

/-- Step 3, entry by entry. -/
def mapOk (h : ImgHead) (m : List MapEntry) : Bool :=
  m.all (fun x => decide (x.core < 2048) && decide (x.prog < h.nprog) && decide (x.halo ≤ 4) &&
    (if x.data = 0xFFFF then x.ndata == 0 else decide (x.data < h.ndata) && decide (x.data + x.ndata ≤ h.ndata))) &&
    decide (m.map MapEntry.core).Nodup

/-- Step 4: the first failure among the program entries; OFF, then WORDS, then rsvd. -/
def progCheck (b : Bytes) (h : ImgHead) : Option (BitVec 16) :=
  (List.range h.nprog).findSome? fun i =>
    let o := h.progOff + 16 * i
    let words := fieldAt b (o + 8) 4
    if fieldAt b o 8 % 8 ≠ 0 ∨ words = 0 ∨ h.bytes < fieldAt b o 8 + 8 * words then some stBadField
    else if shareWords h.shares < words then some stBadLength
    else if fieldAt b (o + 12) 4 ≠ 0 then some stBadField
    else none

/-- Step 5. -/
def dataOk (b : Bytes) (h : ImgHead) : Bool :=
  (List.range h.ndata).all fun i =>
    let o := h.dataOff + 16 * i
    let len := fieldAt b (o + 8) 4
    decide (1 ≤ len) && decide (fieldAt b o 8 + len ≤ h.bytes) && decide (fieldAt b (o + 12) 4 + len ≤ shareBytes h.shares)

/-- Step 6: the entry of link l of core i, with its peer's. -/
def haloOk (b : Bytes) (h : ImgHead) (m : List MapEntry) (i l : Nat) : Bool :=
  let x := haloEntry b h i l
  let y := haloEntry b h x.peer x.peerLink
  decide (x.peer < h.cores) && x.rsvd == 0 && decide (x.flags < 8) && x.size % 64 == 0 &&
    decide (x.buf + 2 * x.size ≤ shareBytes h.shares) &&
    decide (x.peerLink < (match m[x.peer]? with | some e => e.halo | none => 0)) &&
    y.peer == i && y.peerLink == l && x.buf == y.buf && x.size == y.size && x.data == y.data && x.free == y.free &&
    x.incoming != y.incoming

/-- HALO_OFF is 0 exactly when no core declares a link, and every declared link is well formed. -/
def halosOk (b : Bytes) (h : ImgHead) (m : List MapEntry) : Bool :=
  (m.any (fun x => 0 < x.halo) == (h.haloOff != 0)) &&
    m.zipIdx.all fun x => (List.range x.1.halo).all fun l => haloOk b h m x.2 l

/-- The checks of R158 on an image of n bytes, in order. -/
def imageCheck (b : Bytes) (n : Nat) : Option (BitVec 16) :=
  let h := imgHead b
  if n < 128 ∨ h.bytes ≠ n then some stBadLength
  else if !headOk b h then some stBadField
  else
    let m := imgMap b
    if !mapOk h m then some stBadField
    else match progCheck b h with
      | some st => some st
      | none => if !dataOk b h || !halosOk b h m then some stBadField else none

/-! ### What admission takes from an image (R132, R159) -/

/-- The words of a program. -/
def programWords (b : Bytes) (h : ImgHead) (i : Nat) : List W64 :=
  let o := h.progOff + 16 * i
  (List.range (fieldAt b (o + 8) 4)).map fun k => BitVec.ofNat 64 (fieldAt b (fieldAt b o 8 + 8 * k) 8)

/-- The data sections of a core as (local address, bytes), in table order. -/
def dataSections (b : Bytes) (h : ImgHead) (e : MapEntry) : List (Nat × Bytes) :=
  if e.data = 0xFFFF then []
  else (List.range e.ndata).map fun i =>
    let o := h.dataOff + 16 * (e.data + i)
    (fieldAt b (o + 12) 4, slice b (fieldAt b o 8) (fieldAt b (o + 8) 4))

/-- The declared links of logical core i. -/
def coreHalos (b : Bytes) (h : ImgHead) (e : MapEntry) (i : Nat) : Tbl (Option Halo) :=
  (List.range e.halo).map fun l =>
    let x := haloEntry b h i l
    (l, some { peer := x.peer, incoming := x.incoming, peerLink := x.peerLink, buf := x.buf, size := x.size, data := x.data,
               free := x.free })

/-- Every declared link of an image with its logical core. -/
def allHalos (b : Bytes) : List (Nat × HaloEntry) :=
  let h := imgHead b
  (imgMap b).zipIdx.flatMap fun x => (List.range x.1.halo).map fun l => (x.2, haloEntry b h x.2 l)

/-- The cluster of logical core i. -/
def coreCluster (m : List MapEntry) (i : Nat) : Nat := match m[i]? with
  | some e => e.core / 64
  | none => 0

/-- The halo objects lie where Table 7.14 says: DATA in the consumer's cluster, FREE in the producer's. -/
def haloPlaced (m : List MapEntry) (i : Nat) (x : HaloEntry) : Bool :=
  let producer := if x.incoming then x.peer else i
  let consumer := if x.incoming then i else x.peer
  x.data / 2048 == coreCluster m consumer && x.free / 2048 == coreCluster m producer

/-- Core g is under test, or under a reset. -/
def State.coreTested (s : State) (g : Nat) : Bool := (s.core g).testing || (s.clu (g / 64)).testing
def State.coreResetting (s : State) (g : Nat) : Bool := (s.core g).resetting || (s.clu (g / 64)).resetting

/-- The lowest free scratchpad share of core g (R266). -/
def State.freeShare (s : State) (g : Nat) : Option Nat :=
  lowest (shareCount (s.clu (g / 64)).mode) fun j => (s.share g j).ctx.isNone

/-- Contexts of partition p. -/
def State.contextsOf (s : State) (p : Nat) : Nat :=
  (s.ctxs.filter fun x => match x.2 with | some c => c.part == p | none => false).length

/-- The first mapped core that is not present, as a status (R159 step 3). -/
def State.mappedStatus (s : State) (m : List MapEntry) : Option (BitVec 16) :=
  m.findSome? fun e => match Tbl.get 0 s.coreMap e.core with
    | 0 => none
    | 1 => some stUnitAbsent
    | _ => some stUnitFailed

/-- The checks of R159 after the first, and those of R352, R388 and R266, in order, on the bytes of an image of
partition p. -/
def State.placeCheck (s : State) (p : Nat) (b : Bytes) : Option (BitVec 16) :=
  let h := imgHead b
  let m := imgMap b
  if m.any fun e => !(s.part p).owns (e.core / 64) || (s.clu (e.core / 64)).mode != h.shares then some stShapeMismatch
  else match s.mappedStatus m with
    | some st => some st
    | none =>
      if !(allHalos b).all (fun x => haloPlaced m x.1 x.2) then some stBadField
      else if m.any fun e => s.coreTested e.core then some stUnitBusy
      else if m.any fun e => s.coreResetting e.core then some stUnitResetting
      else if (s.part p).ctxQuota ≤ s.contextsOf p then some stPartitionFull
      else if m.any fun e => (s.freeShare e.core).isNone then some stNoShare
      else none

/-- The checks of ADMIT_CONTEXT on an image (R159, R266). -/
def State.admitCheck (s : State) (p : Nat) (b : Bytes) : Option (BitVec 16) :=
  if (imgHead b).generation ≠ s.generation.toNat then some stShapeMismatch else s.placeCheck p b

end Sys2Proof.Machine
end

