-- ==== Sys2Proof/Machine/Tally.lean ====
section
/-! DEFINITION. The Tally's windows and starvation (R268, R271, R273, R274, R276, R277). -/

namespace Sys2Proof.Machine

/-- The settings that SET_SHARES or ADMIT_CONTEXT gave a context and that its cores take at a window boundary: w, b_c
and the starve limit; a background context has no borrow limit (R273, R277). -/
structure Setting where
  weight : Nat := 0
  borrow : Nat := 0
  starve : Nat := 0
deriving DecidableEq, Repr, Inhabited

def State.setting (s : State) (h : ShareSt) : Setting :=
  match h.ctx.bind s.ctx with
  | some x => { weight := x.weight, borrow := if x.weight = 0 then 0 else x.borrow, starve := x.starve }
  | none => {}

/-- One share at a window boundary, with W the sum of the weights that count (R268, R271, R274). -/
def ShareSt.boundary (h : ShareSt) (x : Setting) (W : Nat) : ShareSt :=
  let h := { h with weight := x.weight, borrow := x.borrow, starve := x.starve, cfgWeight := x.weight,
                    cfgBorrow := x.borrow }
  if h.weight = 0 then { h with quota := 0, debt := 0, borrowed := 0 }
  else
    let q := if h.stopped || h.faulted || W == 0 then 0 else 16384 * h.weight / W
    let r := min h.debt (q / 2)
    { h with quota := q, debt := h.debt - r, borrowed := 0,
             deficit := min (max h.deficit 0) (q : Int) + (q : Int) - (r : Int) }

/-- A window boundary on core g, for its resident contexts (R268, R271). -/
def State.boundary (s : State) (g : Nat) : State :=
  let counts (j : Nat) : Nat :=
    let h := s.share g j
    if h.live && !h.stopped && !h.faulted then (s.setting h).weight else 0
  let W := ((List.range 4).map counts).foldl (· + ·) 0
  s.each (List.range 4) fun s j =>
    if (s.share g j).live then s.modShare g j fun h => h.boundary (s.setting h) W else s

/-- The starve limit in reference periods at the current rate (R276). -/
def State.starvePeriods (s : State) (ms : Nat) : Nat := ms * s.tb.rate.toNat / 256000

/-- The starvation of share j of core g has lasted one starve limit (R276). -/
def State.starvedLong (s : State) (g j : Nat) : Bool :=
  match Tbl.get none (s.core g).starveFrom j with
  | none => false
  | some t => decide (s.starvePeriods (s.share g j).starve ≤ (s.tb.count - t).toNat)

/-- A starvation of share j of core g reaches its limit (R276): STARVING sets, and STARVED is raised
unless one was within the last limit. -/
def State.starve (s : State) (g j : Nat) : State :=
  let h := s.share g j
  match h.ctx with
  | none => s
  | some c => match s.ctx c with
    | none => s
    | some x =>
      if h.weight ≠ 0 ∨ h.starving ∨ !s.dispatchable g j ∨ !s.starvedLong g j then s
      else
        let s := s.modShare g j fun h => { h with starving := true }
        let recent := match x.lastStarved with
          | some t => decide ((s.tb.count - t).toNat < s.starvePeriods h.starve)
          | none => false
        if recent then s
        else
          let s := s.modCtx c fun x =>
            { x with lastStarved := some s.tb.count, starvedEvents := satAdd32 x.starvedEvents 1 }
          (s.bump (cluBase (g / 64) + 0xD00) 0 32 1).raiseEvent evStarved (some x.part) stOk c g

/-! ### Meanings -/

/-- A window boundary; a core whose clock is stopped has none (R268). -/
def execWindowBoundary (core : Fin 2048) (s : State) : Outcome :=
  .next (s.when (!(s.core core.val).gated && (s.clu (core.val / 64)).power == 0) fun s => s.boundary core.val)

def execStarved (at_ : Site) (s : State) : Outcome := .next (s.starve at_.core.val at_.share.val)

end Sys2Proof.Machine
end

