-- ==== Sys2Proof/Machine/Contexts.lean ====
section
/-! DEFINITION. Images and contexts: load, admission, shares, retirement (R132, R158, R159, R266, R277, R279 to R282,
R362, R386). Image ids are a partition's own: image i of partition p is kept at key 256 p + i. -/

namespace Sys2Proof.Machine

/-! ### LOAD_IMAGE (R158, R362, R405) -/

def imageKey (p i : Nat) : Nat := 256 * p + i

/-- A context uses image i of partition p. -/
def State.imageUsed (s : State) (p i : Nat) : Bool :=
  s.ctxs.any fun x => match x.2 with
    | some c => c.part == p && c.image == i
    | none => false

def loadBody (s : State) (r : Req) : CmdRes :=
  let p := r.hdr.part.val
  let i := fieldAt r.p 2 2
  let A := fieldAt r.p 8 5
  let n := fieldAt r.p 16 8
  match fieldAt r.p 0 1 with
  | 0 =>
    if !(s.part p).inside A n then .done s stOutOfBounds []
    else
      let rd := s.readPart (s.part p) .normal A n
      match imageCheck rd.2.1 n with
      | some st => .done rd.1 st []
      | none => rd.1.toLane r (s.part p).ownerBytes
  | 1 =>
    if 256 ≤ i ∨ (s.image (imageKey p i)).isNone then .done s stBadField []
    else if s.imageUsed p i then .done s stWrongState []
    else .done (s.setImage (imageKey p i) none) stOk []
  | _ => .done s stBadField []

def loadImageSpec : CmdSpec :=
  { length := fun p => p.length == 24
    reserved := fun p => zeroAt [(1, 1), (4, 4), (13, 3)] p &&
      (match fieldAt p 0 1 with
       | 0 => fieldAt p 2 2 == 0
       | 1 => zeroAt [(8, 5), (16, 8)] p
       | _ => true)
    body := loadBody }

/-- Lane 0 has measured the image: its signature is checked in a signed-only partition, and it is recorded under
the lowest free id. -/
def State.loadDone (s : State) (part : Nat) (b : Bytes) : CmdRes :=
  let p := s.part part
  let A := fieldAt b 8 5
  let n := fieldAt b 16 8
  let rd := s.readPart p .normal A n
  match imageCheck rd.2.1 n with
  | some st => .done rd.1 st []
  | none =>
    let v := if carriedSigned b 24 then
        rd.1.verify p (imageEnv A n)
          { kind := 3, len := n, content := rd.2.1, bad := !rd.2.2.isEmpty, signer := carriedKey b 24 }
      else (rd.1, if rd.2.2.isEmpty then none else some stEccUncorrectable)
    match v.2, lowest 256 fun i => (v.1.image (imageKey part i)).isNone with
    | some st, _ => .done v.1 st []
    | none, none => .done v.1 stPartitionFull []
    | none, some i =>
      let d := digest rd.2.1
      .done (v.1.setImage (imageKey part i) (some { part := part, addr := A, bytes := n, digest := d })) stOk
        (leBytes 4 i ++ d)

/-! ### ADMIT_CONTEXT (R132, R159, R266) -/

/-- b_c from a BORROW field; none outside its range (R273). -/
def borrowField (b : Nat) : Option Nat := if b = 0xFF then some 32 else if b ≤ 128 then some b else none
/-- The starve limit from a STARVE field (R276). -/
def starveField (n : Nat) : Nat := if n = 0 then 100 else n

/-- Read a recorded image through the home caches: its bytes, and whether a line of it read with an uncorrectable error
(R94, R99). -/
def State.readImage (s : State) (x : Image) : State × Bytes × Bool :=
  let r := s.readPart (s.part x.part) .normal x.addr x.bytes
  (r.1, r.2.1, !r.2.2.isEmpty)

def admitBody (s : State) (r : Req) : CmdRes :=
  let p := r.hdr.part.val
  let i := fieldAt r.p 0 2
  if (borrowField (fieldAt r.p 3 1)).isNone ∨ 256 ≤ i then .done s stBadField []
  else match s.image (imageKey p i) with
    | none => .done s stBadField []
    | some x =>
      let rd := s.readImage x
      match s.admitCheck p rd.2.1 with
      | some st => .done rd.1 st []
      | none => rd.1.toLane r (leBytes 8 x.addr ++ leBytes 8 x.bytes ++ (imgMap rd.2.1).flatMap fun e => leBytes 2 e.core)

def admitContextSpec : CmdSpec :=
  { length := fun p => p.length == 8
    reserved := zeroAt [(6, 2)]
    body := admitBody }

/-- A core, woken for it (R419), prepares its share for logical core i of context c (R132, R268, R271, R283). -/
def State.prepareShare (s : State) (b : Bytes) (c : Nat) (x : Setting) (i : Nat) (e : MapEntry) (j : Nat) : State :=
  let h := imgHead b
  (s.wakeCluster (e.core / 64)).setShare e.core j
    { ctx := some c, logical := i, scratch := (dataSections b h e).foldl (fun m x => writeBytes m x.1 x.2) [],
      program := programWords b h e.prog, halos := coreHalos b h e i, weight := x.weight,
      borrow := x.borrow, starve := x.starve }

/-- Make an image's context resident on the lowest free shares, preparing (R132, R266). -/
def State.admitCtx (s : State) (p i c : Nat) (x : Image) (b : Bytes) (params : Bytes) : State :=
  let m := imgMap b
  let w := fieldAt params 2 1
  let borrow := (borrowField (fieldAt params 3 1)).getD 32
  let places := m.zipIdx.map fun e => (e.1, e.2, (s.freeShare e.1.core).getD 0)
  let set : Setting :=
    { weight := w, borrow := if w = 0 then 0 else borrow, starve := starveField (fieldAt params 4 2) }
  let s := s.each places fun s e => s.prepareShare b c set e.2.1 e.1 e.2.2
  let s := s.each (allHalos b) fun s h => (s.syncSet h.2.data 0).syncSet h.2.free 0
  s.setCtx c (some
    { part := p, image := i, digest := x.digest, cores := places.map fun e => (e.1.core, e.2.2), weight := w,
      borrow := borrow, starve := starveField (fieldAt params 4 2) })

/-- Lane 0 has measured the image again: the checks on the places run on the device as it now stands, and a digest other
than the load's is refused (R362, R266). GENERATION has passed; a mapped core that failed since then has ended the
command, and another unit's failure does not (R386). -/
def State.admitDone (s : State) (part : Nat) (b : Bytes) : CmdRes :=
  let i := fieldAt b 0 2
  match s.image (imageKey part i) with
  | none => .done s stBadField []
  | some x =>
    let rd := s.readImage x
    match s.placeCheck part rd.2.1 with
    | some st => .done rd.1 st []
    | none =>
      if rd.2.2 then .done rd.1 stEccUncorrectable []
      else if digest rd.2.1 ≠ x.digest then .done rd.1 stSignatureInvalid []
      else match lowest 256 fun c => (s.ctx c).isNone with
        | none => .done rd.1 stPartitionFull []
        | some c => .wait (rd.1.admitCtx part i c x rd.2.1 b) (.admission c)

/-- Every core of context c has prepared its share: dispatch begins at word 0 (R132). -/
def State.prepared (s : State) (c : Nat) : State :=
  match s.ctx c with
  | none => s
  | some x =>
    if !x.preparing then s
    else
      let s := s.each x.cores fun s gj => s.modShare gj.1 gj.2 fun h => { h with live := true }
      let s := s.modCtx c fun x => { x with preparing := false, resident := true }
      s.each (s.cmds.filter fun k => k.wait == .admission c) fun s k => s.finishCmd k.id stOk (leBytes 4 c)

/-! ### SET_SHARES (R277) -/

/-- A context command's object: foreign, not resident, or its record (R264, R277). -/
def onContext (f : State → Nat → Ctx → CmdRes) (s : State) (r : Req) : CmdRes :=
  let c := fieldAt r.p 0 1
  if s.foreignCtx r.hdr.part.val c then .done s stNotPermitted []
  else match s.ctx c with
    | some x => if x.resident then f s c x else .done s stWrongState []
    | none => .done s stWrongState []

def setSharesBody (s : State) (r : Req) : CmdRes :=
  match borrowField (fieldAt r.p 2 1) with
  | none => .done s stBadField []
  | some b => onContext (fun s c _ => .done (s.modCtx c fun x =>
      { x with weight := fieldAt r.p 1 1, borrow := b, starve := starveField (fieldAt r.p 4 2) }) stOk []) s r

def setSharesSpec : CmdSpec :=
  { length := fun p => p.length == 8
    reserved := zeroAt [(3, 1), (6, 2)]
    body := setSharesBody }

/-! ### RETIRE_CONTEXT (R279 to R282) -/

/-- A retirement is marked. -/
def State.markRetiring (s : State) (c : Nat) : State := s.modCtx c fun x => { x with retiring := true }

/-- Retire context c under R280, then R281. -/
def State.retireAbort (s : State) (c : Nat) : State := ((s.markRetiring c).abortContext c).completeRetire c stAborted

/-- LIMIT in microseconds; 0 is the default of 10 ms (R279). -/
def retireLimit (p : Bytes) : Nat := if fieldAt p 4 4 = 0 then 10000 else fieldAt p 4 4

def retireBody (s : State) (r : Req) : CmdRes :=
  if 1000000 < fieldAt r.p 4 4 then .done s stBadField []
  else onContext (fun s c x =>
    if x.faulted then
      let st := if r.hdr.form then stAborted else stDrained
      .done (s.completeRetire c st) st []
    else if r.hdr.form then .done (s.retireAbort c) stAborted []
    else .wait (s.markRetiring c) (.retire c true (retireLimit r.p))) s r

def retireContextSpec : CmdSpec :=
  { length := fun p => p.length == 8
    reserved := zeroAt [(1, 3)]
    forms := fun _ => true
    body := retireBody }

/-- A core has stopped, or holds only an ldg.take at the head of its movement queue (R279). -/
def State.coreQuiet (s : State) (g j : Nat) : Bool :=
  let h := s.share g j
  h.queue 0 == [] && h.queue 1 == [] && h.queue 2 == [] && h.fused.isEmpty &&
    (match h.queue 3 with
     | [] => h.stopped
     | [e] => wOp e.w == 0xC2 && !e.off
     | _ => false)

/-- Context c is quiescent (R279). -/
def State.quiescent (s : State) (c : Nat) (x : Ctx) : Bool :=
  (s.ropesOf c).all (fun r => s.inflight r == 0) &&
    (List.range 32).all (fun n =>
      let k := s.clu n
      k.lists.all (fun l => l.ctx != c) && k.held.all (fun d => d.ctx != c) && k.millSub.all (fun d => d.ctx != c) &&
        k.millQ.all (fun d => d.ctx != c) && k.narQ.all (fun q => q.ctx != c)) &&
    x.cores.all fun gj => s.coreQuiet gj.1 gj.2

/-- A draining retirement of context c is in progress. -/
def State.retiringCtx (s : State) (c : Nat) : Option Ctx :=
  match s.ctx c with
  | some x => if x.retiring then some x else none
  | none => none

/-! ### Meanings -/

def execLoadImage (src : Src) (hdr : Hdr) (params : Bytes) (s : State) : Outcome :=
  .next (s.command 0x20 loadImageSpec src hdr params)

def execAdmitContext (src : Src) (hdr : Hdr) (params : Bytes) (s : State) : Outcome :=
  .next (s.command 0x21 admitContextSpec src hdr params)

def execAdmissionPrepared (ctx : Fin 256) (s : State) : Outcome := .next (s.prepared ctx.val)

def execRetireContext (src : Src) (hdr : Hdr) (params : Bytes) (s : State) : Outcome :=
  .next (s.command 0x22 retireContextSpec src hdr params)

def execQuiescent (ctx : Fin 256) (s : State) : Outcome :=
  .next (match s.retiringCtx ctx.val with
    | some x => if !x.faulted && s.quiescent ctx.val x then s.completeRetire ctx.val stDrained else s
    | none => s)

def execRetireLimitExpiry (ctx : Fin 256) (s : State) : Outcome :=
  .next (match s.retiringCtx ctx.val with
    | some x => if s.quiescent ctx.val x then s else (s.abortContext ctx.val).completeRetire ctx.val stAborted
    | none => s)

def execSetShares (src : Src) (hdr : Hdr) (params : Bytes) (s : State) : Outcome :=
  .next (s.command 0x23 setSharesSpec src hdr params)

end Sys2Proof.Machine
end

