-- ==== Sys2Proof/Machine/Transc.lean ====
section
/-! DEFINITION. The transcendental functions (R63, R64). The spec states a bound in units of the last
place and the special values; the result's bits inside the bound are a free value (log entry 10). The
exact result is formed here in fixed point with 320 fraction bits, only to hold the free value to its
bound. -/

namespace Sys2Proof.Machine

/-- Fraction bits of the fixed-point evaluation. -/
def fxBits : Nat := 320

/-- ln 2 in units of 2^-320. -/
def ln2Fx : Int :=
  1480553391661173448385607439722553250922680800745876974795605978609098082859138712941075737848984

/-- A finite value as fixed point, rounded down. -/
def toFx (neg : Bool) (m : Nat) (e : Int) : Int :=
  let k := e + fxBits
  let v : Int := if 0 ≤ k then ((m * 2 ^ k.toNat : Nat) : Int) else ((m / 2 ^ (-k).toNat : Nat) : Int)
  if neg then -v else v

/-- e^x as (n, k) with value n x 2^(k - 320), 2^320 ≤ n < 2^321. -/
def expFx (x : Int) : Nat × Int :=
  let k := x / ln2Fx
  let r := (x - k * ln2Fx).toNat
  let n := (List.range 80).foldl (fun acc i => 2 ^ fxBits + r * acc / 2 ^ fxBits / (80 - i)) (2 ^ fxBits)
  (n, k)

/-- ln of n x 2^e (n not zero), in units of 2^-320. -/
def lnFx (n : Nat) (e : Int) : Int :=
  let l := bitLen n
  let one := 2 ^ fxBits
  -- the mantissa in [1, 2)
  let a := if l ≤ fxBits + 1 then n * 2 ^ (fxBits + 1 - l) else n / 2 ^ (l - fxBits - 1)
  let z := (a - one) * one / (a + one)
  let z2 := z * z / one
  let s := (List.range 110).foldl (fun (t : Nat × Nat) i => (t.1 + t.2 / (2 * i + 1), t.2 * z2 / one)) (0, z)
  (e + l - 1) * ln2Fx + 2 * (s.1 : Int)

/-- floor(sqrt n), bit by bit; n below 2^1400. -/
def isqrt (n : Nat) : Nat :=
  (List.range 700).foldl (fun r i =>
    let t := r + 2 ^ (699 - i)
    if t * t ≤ n then t else r) 0

/-- Whether candidate `c` lies within `k` units of the last place of the exact positive value
n x 2^e; an infinity stands at 2^128. -/
def withinUlps (k n : Nat) (e : Int) (c : Num) : Bool :=
  let q := fp32.quantum n e
  let close (m : Nat) (d : Int) : Bool :=
    let b := min (min e d) q
    decide ((alignTo b false n e - alignTo b false m d).natAbs ≤ (alignTo b false k q).natAbs)
  match c with
  | .nan => false
  | .inf neg => !neg && close 1 128
  | .fin neg m d => (!neg || m == 0) && close m d

/-- The free value of function `fn` at `w` where it keeps the bound, otherwise the exact value
n x 2^e rounded toward zero; with the result's sign. -/
def boundedFree (fn k : Nat) (w : Word) (neg : Bool) (n : Nat) (e : Int) : Word :=
  let c := Config.transc fn w
  let mag := match f32 c with
    | .fin s m d => if neg then .fin (!s) m d else .fin s m d
    | .inf s => if neg then .inf (!s) else .inf s
    | .nan => .nan
  if withinUlps k n e mag && (f32 c != .fin (!neg) 0 fp32.qmin) then c
  else BitVec.ofNat 32 (fp32.round .rtz false (.fin neg n e))

def fpOne : Word := 0x3F800000
def fpInf (neg : Bool) : Word := if neg then 0xFF800000 else 0x7F800000
def fpZero (neg : Bool) : Word := if neg then 0x80000000 else 0
def fpNan : Word := 0x7FC00000

/-- Fixed point held to ±200, outside which every function below is at its limit. -/
def fx200 (neg : Bool) (m : Nat) (e : Int) : Int :=
  let big : Int := 200 * 2 ^ fxBits
  if reaches m e 200 then (if neg then -big else big) else toFx neg m e

/-- sigmoid as (n, e). -/
def sigmoidFx (x : Int) : Nat × Int :=
  let p := expFx (-x)
  -- e^-x in units of 2^-620
  let t := p.1 * 2 ^ (300 + p.2).toNat
  (2 ^ 1240 / (2 ^ 620 + t), -620)

/-- The functions of Table 3.6, FN 0 to 6 (R63, R169). -/
def transcF (fn : Nat) (w : Word) : Word :=
  match fn, f32 w with
  | _, .nan => fpNan
  -- exp
  | 0, .inf neg => if neg then 0 else fpInf false
  | 0, .fin neg m e =>
    if !neg && Num.lt (.fin false 8872284 0) (.fin false (m * 100000) e) then fpInf false
    else if neg && Num.lt (.fin false 10397208 0) (.fin false (m * 100000) e) then 0
    else
      let p := expFx (toFx neg m e)
      boundedFree 0 2 w false p.1 (p.2 - fxBits)
  -- log
  | 1, .inf neg => if neg then fpNan else fpInf false
  | 1, .fin neg m e =>
    if m = 0 then fpInf true
    else if neg then fpNan
    else if w = fpOne then 0
    else
      let l := lnFx m e
      boundedFree 1 2 w (decide (l < 0)) l.natAbs (-(fxBits : Int))
  -- sigmoid
  | 2, .inf neg => if neg then 0 else fpOne
  | 2, .fin neg m e =>
    if m = 0 then 0x3F000000
    else
      let p := sigmoidFx (fx200 neg m e)
      boundedFree 2 3 w false p.1 p.2
  -- tanh
  | 3, .inf neg => if neg then 0xBF800000 else fpOne
  | 3, .fin neg m e =>
    if m = 0 then fpZero neg
    else if floorLog2 m e < -30 then boundedFree 3 3 w neg (m * (2 ^ 60 - 1)) (e - 60)
    else
      let p := expFx (2 * fx200 false m e)
      let t := p.1 * 2 ^ p.2.toNat
      boundedFree 3 3 w neg ((t - 2 ^ fxBits) * 2 ^ fxBits / (t + 2 ^ fxBits)) (-(fxBits : Int))
  -- softplus
  | 4, .inf neg => if neg then 0 else fpInf false
  | 4, .fin neg m e =>
    if !neg && reaches m e 100 then boundedFree 4 3 w false (m * 2 ^ 100 + m) (e - 100)
    else
      let p := expFx (fx200 neg m e)
      let t := p.1 * 2 ^ (300 + p.2).toNat
      boundedFree 4 3 w false (lnFx (2 ^ 620 + t) (-620)).natAbs (-(fxBits : Int))
  -- reciprocal
  | 5, .inf neg => fpZero neg
  | 5, .fin neg m e =>
    if m = 0 then fpInf neg
    else if 128 < -(floorLog2 m e) then fpInf neg
    else boundedFree 5 1 w neg (2 ^ 400 / m) (-400 - e)
  -- rsqrt
  | 6, .inf neg => if neg then fpNan else 0
  | 6, .fin neg m e =>
    if m = 0 then fpInf neg
    else if neg then fpNan
    else
      let m' := if e % 2 = 0 then m else 2 * m
      let e' := if e % 2 = 0 then e else e - 1
      boundedFree 6 1 w false (isqrt (2 ^ 1000 / m')) (-500 - e' / 2)
  | _, _ => fpNan

/-- FN of v.act: Table 3.6 and silu = x times sigmoid(x), the product rounded once (R169). -/
def actF (fn : Nat) (w : Word) : Word :=
  if fn = 7 then f32Mul w (transcF 2 w) else transcF fn w

end Sys2Proof.Machine
end

