-- ==== Sys2Proof/Machine/ConvOps.lean ====
section
/-! DEFINITION. Expansion, depth-wise convolution, pooling and segments (R79, R174 to R180, R234 to R244,
R249, R250). -/

namespace Sys2Proof.Machine

/-! ### The Loom descriptor (R174, R175, R235) -/

/-- A Loom descriptor (Table 8.6). -/
structure Loom where
  bw : Nat
  dim2 : Bool
  pad : Nat
  fmt : Nat
  kh : Nat
  kw : Nat
  sh : Nat
  sw : Nat
  dh : Nat
  dw : Nat
  h : Nat
  w : Nat
  nb : Nat
  pt : Nat
  pb : Nat
  pl : Nat
  pr : Nat
  /-- zero-insertion factor, 1 where the word inserts none -/
  up : Nat
  grp : Nat
  padv : Nat

/-- Read a descriptor; UP counts only for conv.transpose_expand. -/
def loomOf (raw : Bytes) (transpose : Bool) : Loom :=
  let b (i : Nat) : Nat := fieldAt raw i 1
  { bw := if bitOf (b 0) 0 then 32 else 16, dim2 := bitOf (b 0) 1, pad := fld (b 0) 2 2, fmt := b 1,
    kh := b 2, kw := b 3, sh := b 4, sw := b 5, dh := b 6, dw := b 7, h := fieldAt raw 8 2, w := fieldAt raw 10 2,
    nb := fieldAt raw 12 2, pt := b 14, pb := b 15, pl := b 16, pr := b 17,
    up := if transpose then b 18 else 1, grp := b 19, padv := fieldAt raw 20 4 }

/-- Bytes of an input element. -/
def Loom.es (d : Loom) : Nat := elemBits d.fmt / 8
/-- H_e and W_e (R235). -/
def Loom.he (d : Loom) : Nat := if d.dim2 then (d.h - 1) * d.up + 1 else d.h
def Loom.we (d : Loom) : Nat := (d.w - 1) * d.up + 1
/-- OH, OW and OH x OW (R235). -/
def outSize (n p q dil k st : Nat) : Int := ((n : Int) + p + q - (dil : Int) * ((k : Int) - 1) - 1) / (st : Int) + 1
def Loom.oh (d : Loom) : Int := if d.dim2 then outSize d.he d.pt d.pb d.dh d.kh d.sh else 1
def Loom.ow (d : Loom) : Int := outSize d.we d.pl d.pr d.dw d.kw d.sw
def Loom.positions (d : Loom) : Nat := if 0 < d.oh ∧ 0 < d.ow then (d.oh * d.ow).toNat else 0

/-- What a word of class 0xA expects of its descriptor. -/
inductive LoomUse where
  | expand | transpose | depthwise | pool | gpool
deriving DecidableEq, Repr

/-- The descriptor breaks Table 8.6 or R178: cause 0x68. -/
def Loom.broken (d : Loom) (raw : Bytes) (u : LoomUse) : Bool :=
  let within (x lo hi : Nat) : Bool := decide (lo ≤ x) && decide (x ≤ hi)
  let fmtOk := within d.fmt 1 4 || d.fmt == 0xB || d.fmt == 0xC ||
    (d.fmt == 0xD && u != .expand && u != .transpose)
  let one := d.kh == 1 && d.sh == 1 && d.dh == 1 && d.h == 1 && d.pt == 0 && d.pb == 0
  let plain := d.kh == 1 && d.kw == 1 && d.sh == 1 && d.sw == 1 && d.pt == 0 && d.pb == 0 && d.pl == 0 && d.pr == 0
  fld (fieldAt raw 0 1) 4 4 != 0 || !fmtOk || d.kh == 0 || d.kw == 0 || !within d.sh 1 16 || !within d.sw 1 16 ||
    !within d.dh 1 64 || !within d.dw 1 64 || d.h == 0 || d.w == 0 || !within d.nb 1 256 ||
    (!d.dim2 && !one) ||
    (if u = .transpose then !within d.up 2 16 else fieldAt raw 18 1 != 0) ||
    (if u = .depthwise then !([1, 2, 4, 8, 16] : List Nat).contains d.grp else d.grp != 0) ||
    !allZero (slice raw 24 40) || (u == .gpool && !plain)

/-- A filter or window beyond its limit: cause 0x69. -/
def Loom.tooLarge (d : Loom) (u : LoomUse) : Bool :=
  match u with
  | .pool => decide (16 < d.kh) || decide (16 < d.kw)
  | .gpool => false
  | _ => if d.dim2 then decide (11 < d.kh) || decide (11 < d.kw) else decide (127 < d.kw)

/-- Mirror padding too large: cause 0x6A. -/
def Loom.padTooLarge (d : Loom) : Bool :=
  d.pad == 2 && (decide (d.he - 1 < d.pt) || decide (d.he - 1 < d.pb) || decide (d.we - 1 < d.pl) || decide (d.we - 1 < d.pr))

/-- FILTER_TOO_LARGE and PAD_TOO_LARGE go to the context's streams ahead of step 4 of R160 (R175). -/
def State.streamStatus (s : State) (g j : Nat) (st : BitVec 16) : State :=
  match (s.share g j).ctx with
  | none => s
  | some c => s.each (s.streamsOf c) fun s i => s.faultStream i st

/-- Read and check the descriptor at a (R174, R175), then go on with it. -/
def withLoom (s : State) (g j a : Nat) (u : LoomUse) (k : Loom → StartRes) : StartRes :=
  checked s [(!s.inShare g a 64, 0x01), (a % 64 != 0, 0x02)] <|
  let raw := (s.share g j).read a 64
  let d := loomOf raw (u = .transpose)
  if d.broken raw u then .fault s 0x68
  else if d.tooLarge u then .fault (s.streamStatus g j stFilterTooLarge) 0x69
  else if d.padTooLarge then .fault (s.streamStatus g j stPadTooLarge) 0x6A
  else k d

/-! ### Window coordinates (R176, R237) -/

/-- What a window cell holds: an input element at (row, column), or a raw value of FMT. -/
inductive Cell where
  | at (y x : Nat)
  | raw (v : Nat)
deriving DecidableEq, Repr

/-- Coordinate x of a dimension of N: inside, mapped by the PAD mode, or none where the padding value
stands (R237). -/
def padCoord (pad N : Nat) (x : Int) : Option Nat :=
  if 0 ≤ x ∧ x < N then some x.toNat
  else match pad with
    | 2 => some (if x < 0 then -x else 2 * ((N : Int) - 1) - x).toNat
    | 3 => some (if x < 0 then 0 else N - 1)
    | _ => none

/-- The cell of tap (ky, kx) of output (oy, ox), zero insertion included (R176). -/
def Loom.cell (d : Loom) (oy ox ky kx : Nat) : Cell :=
  let y : Int := (oy * d.sh + ky * d.dh : Nat) - (d.pt : Int)
  let x : Int := (ox * d.sw + kx * d.dw : Nat) - (d.pl : Int)
  match padCoord d.pad d.he y, padCoord d.pad d.we x with
  | some y, some x =>
    let uy := if d.dim2 then d.up else 1
    if y % uy = 0 ∧ x % d.up = 0 then .at (y / uy) (x / d.up) else .raw 0
  | _, _ => .raw (if d.pad = 1 then d.padv % 2 ^ elemBits d.fmt else 0)

/-- The cell lies inside the unpadded input (pooling, R178). -/
def Loom.inside (d : Loom) (oy ox ky kx : Nat) : Option (Nat × Nat) :=
  let y : Int := (oy * d.sh + ky * d.dh : Nat) - (d.pt : Int)
  let x : Int := (ox * d.sw + kx * d.dw : Nat) - (d.pl : Int)
  if 0 ≤ y ∧ y < d.h ∧ 0 ≤ x ∧ x < d.w then some (y.toNat, x.toNat) else none

/-- Address of channel ch at (y, x) of the map at base (R234). -/
def Loom.addr (d : Loom) (base ch y x : Nat) : Nat :=
  base + (((ch / d.bw * d.h + y) * d.w + x) * d.bw + ch % d.bw) * d.es

/-- Output positions from S0, at most SN (Table 12.1). -/
def Loom.count (d : Loom) (SN S0 : Nat) : Nat := min SN (d.positions - S0)

/-- Output (oy, ox) of position o. -/
def Loom.pos (d : Loom) (o : Nat) : Nat × Nat := (o / d.ow.toNat, o % d.ow.toNat)

/-- The EMPTY outcome counts (R236). -/
def State.countEmpty (s : State) (g : Nat) : State := s.bump (cluBase (g / 64) + 0xB08) 0 32 1

/-! ### conv.expand and conv.transpose_expand (R176) -/

/-- Element e of the row of output (oy, ox): its channel and cell. -/
def Loom.rowElem (d : Loom) (oy ox e : Nat) : Nat × Cell :=
  let q := e / d.bw
  let t := q / d.nb
  (q % d.nb * d.bw + e % d.bw, d.cell oy ox (t / d.kw) (t % d.kw))

def expandStart (u : LoomUse) (s : State) (g j : Nat) (e : QEntry) : StartRes :=
  let w := e.w
  let ai := e.av (fld w 28 4)
  let al := e.av (fld w 24 4)
  let sn := e.sv (fld w 19 5)
  let sd := fld w 14 5
  let s0 := e.sv (fld w 9 5)
  withLoom s g j (e.av (fld w 32 4)) u fun d =>
  let E := d.kh * d.kw * d.nb * d.bw
  let Ep := 32 * ceilDiv E 32
  let rowBytes := Ep * d.es
  let some_ := d.count sn s0
  let b := cluBase (g / 64)
  if some_ = 0 then
    .done (((s.modShare g j fun h => h.landS sd 0).countEmpty g).bump (b + 0xB00) 0 32 1) 0
  else if 65536 < rowBytes then .fault s 0x6B
  else
    let n := min some_ (65536 / rowBytes)
    let rows := (List.range n).map fun r =>
      let p := d.pos (s0 + r)
      (List.range E).map fun k => d.rowElem p.1 p.2 k
    let reads := rows.flatMap fun r => r.filterMap fun x => match x.2 with
      | .at y c => some (d.addr ai x.1 y c)
      | .raw _ => none
    checked s [(reads.any (fun a => !s.inShare g a d.es) || !s.inShare g al (n * rowBytes), 0x01),
      (ai % d.es != 0 || al % d.es != 0, 0x02)] <|
    let h := s.share g j
    let bytesOf (x : Nat × Cell) : Bytes := match x.2 with
      | .at y c => h.read (d.addr ai x.1 y c) d.es
      | .raw v => leBytes d.es v
    let out := rows.map fun r => slice (r.flatMap bytesOf) 0 rowBytes
    let s := s.modShare g j fun h => ((h.write al out.flatten).landS sd (BitVec.ofNat 32 n))
    .done ((s.bump (b + 0xB00) 0 32 1).bump (b + 0xB04) 0 32 n) (ceilDiv (n * rowBytes) 256)

/-! ### dw.conv (R79, R177, R242) -/

/-- Lanes of an input format (R242). -/
def lanesOf (fmt : Nat) : Nat :=
  match fmt with
  | 0x1 => 256
  | 0x2 => 256
  | 0xB => 128
  | 0xC => 128
  | _ => 64

/-- One tap into the lane accumulator: FP32 rounded to nearest even, or INT32 saturating (R79). -/
def tapAdd (int : Bool) (acc : Word) (x w : Num) : Word :=
  let p := x.mul w
  if int then BitVec.ofNat 32 (convertTo 0xE .rne false ((Num.ofInt acc.toInt).add p))
  else toF32 ((f32 acc).add p)

/-- The accumulator's value. -/
def accValue (int : Bool) (acc : Word) : Num := if int then Num.ofInt acc.toInt else f32 acc

def dwConvStart (s : State) (g j : Nat) (e : QEntry) : StartRes :=
  let w := e.w
  let ai := e.av (fld w 28 4)
  let af := e.av (fld w 24 4)
  let ao := e.av (fld w 20 4)
  let sn := e.sv (fld w 15 5)
  let s0 := e.sv (fld w 10 5)
  let of_ := fld w 6 4
  let rm := fld w 4 2
  let osz := elemBits of_ / 8
  checked s [(decide (2 ≤ rm), 0x05)] <|
  withLoom s g j (e.av (fld w 32 4)) .depthwise fun d =>
  let n := d.count sn s0
  if n = 0 then .done (s.countEmpty g) 0
  else
    let chans := d.nb * d.bw
    let taps := d.kh * d.kw
    let es := d.es
    let cells (o : Nat) : List (Nat × Cell) := (List.range taps).map fun t =>
      (t, d.cell (d.pos o).1 (d.pos o).2 (t / d.kw) (t % d.kw))
    let inAddrs := (List.range n).flatMap fun r => (cells (s0 + r)).flatMap fun x => match x.2 with
      | .at y c => (List.range chans).map fun ch => d.addr ai ch y c
      | .raw _ => []
    let outAddr (ch o : Nat) : Nat := ao + ((ch / d.bw * d.positions + o) * d.bw + ch % d.bw) * osz
    checked s [(inAddrs.any (fun a => !s.inShare g a es) || !s.inShare g af (chans * taps * d.grp * es) ||
        !s.inShare g (outAddr (chans - 1) (s0 + n - 1)) osz, 0x01),
      (ai % es != 0 || af % es != 0 || ao % osz != 0, 0x02)] <|
    let h := s.share g j
    let int := isIntOperand d.fmt
    let value (ch : Nat) : Cell → Num := fun c => match c with
      | .at y x => elemValue d.fmt (leNat (h.read (d.addr ai ch y x) es))
      | .raw v => elemValue d.fmt v
    let filt (ch t q : Nat) : Num := elemValue d.fmt (leNat (h.read (af + ((ch * taps + t) * d.grp + q) * es) es))
    let one (o ch : Nat) : Word := (cells o).foldl (fun acc x =>
      (List.range d.grp).foldl (fun acc q => tapAdd int acc (value (ch / d.grp * d.grp + q) x.2) (filt ch x.1 q)) acc) 0
    let rmode : Rm := if rm = 1 then .rtz else .rne
    let outs := (List.range n).flatMap fun r => (List.range chans).map fun ch =>
      (outAddr ch (s0 + r), leBytes osz (convertTo of_ rmode false (accValue int (one (s0 + r) ch))))
    .done (s.modShare g j fun h => outs.foldl (fun h x => h.write x.1 x.2) h)
      (n * ceilDiv chans (lanesOf d.fmt) * taps * d.grp)

/-! ### Pooling (R178, R243, R244) -/

/-- The FP32 value of 1/n, rounded to nearest even. -/
def recipNat (n : Nat) : Word :=
  let q := 2 ^ 100 / n
  toF32 (.fin false (2 * q + (if 2 ^ 100 % n = 0 then 0 else 1)) (-101))

/-- The mean of values in order (R178): FP32 sums, then the product with 1/n; +0 of none (R243). -/
def meanOf (xs : List Num) : Num :=
  if xs.isEmpty then .fin false 0 0
  else f32 (f32Mul (xs.foldl (fun acc x => toF32 ((f32 acc).add x)) 0) (recipNat xs.length))

/-- The larger of two elements of a format (R46). -/
def maxElem (fmt a b : Nat) : Nat :=
  match fmtOf fmt with
  | some f => f.maximum a b
  | none => if (elemValue fmt a).lt (elemValue fmt b) then b else a

/-- A pooled result (R178, R243): of no element, -infinity, or the least integer of OF. -/
def poolResult (max_ : Bool) (fmt of_ rm : Nat) (raws : List Nat) : Nat :=
  let rmode : Rm := if rm = 1 then .rtz else .rne
  if max_ then match raws with
    | [] => convertTo of_ .rne false (.inf true)
    | x :: xs => convertTo of_ rmode false (elemValue fmt (xs.foldl (maxElem fmt) x))
  else convertTo of_ rmode false (meanOf (raws.map (elemValue fmt)))

/-- pool.max and pool.avg over output positions. -/
def poolStart (max_ : Bool) (s : State) (g j : Nat) (e : QEntry) : StartRes :=
  let w := e.w
  let ai := e.av (fld w 28 4)
  let ao := e.av (fld w 24 4)
  let sn := e.sv (fld w 19 5)
  let s0 := e.sv (fld w 14 5)
  let of_ := fld w 10 4
  let rm := fld w 8 2
  let osz := elemBits of_ / 8
  checked s [(decide (2 ≤ rm), 0x05)] <|
  withLoom s g j (e.av (fld w 32 4)) .pool fun d =>
  let n := d.count sn s0
  if n = 0 then .done (s.countEmpty g) 0
  else
    let chans := d.nb * d.bw
    let taps := d.kh * d.kw
    let cells (o : Nat) : List (Nat × Nat) := (List.range taps).filterMap fun t =>
      d.inside (d.pos o).1 (d.pos o).2 (t / d.kw) (t % d.kw)
    let inAddrs := (List.range n).flatMap fun r => (cells (s0 + r)).flatMap fun x =>
      (List.range chans).map fun ch => d.addr ai ch x.1 x.2
    let outAddr (ch o : Nat) : Nat := ao + ((ch / d.bw * d.positions + o) * d.bw + ch % d.bw) * osz
    checked s [(inAddrs.any (fun a => !s.inShare g a d.es) || !s.inShare g (outAddr (chans - 1) (s0 + n - 1)) osz, 0x01),
      (ai % d.es != 0 || ao % osz != 0, 0x02)] <|
    let h := s.share g j
    let raw (ch : Nat) (c : Nat × Nat) : Nat := leNat (h.read (d.addr ai ch c.1 c.2) d.es)
    let outs := (List.range n).flatMap fun r => (List.range chans).map fun ch =>
      (outAddr ch (s0 + r), leBytes osz (poolResult max_ d.fmt of_ rm ((cells (s0 + r)).map (raw ch))))
    let lanes := if max_ then lanesOf d.fmt else 64
    .done (s.modShare g j fun h => outs.foldl (fun h x => h.write x.1 x.2) h) (n * ceilDiv chans lanes * taps + n)

/-- gpool.avg: all H x W positions of each channel (R178). -/
def gpoolStart (s : State) (g j : Nat) (e : QEntry) : StartRes :=
  let w := e.w
  let ai := e.av (fld w 28 4)
  let ao := e.av (fld w 24 4)
  let of_ := fld w 20 4
  let rm := fld w 18 2
  let osz := elemBits of_ / 8
  checked s [(decide (2 ≤ rm), 0x05)] <|
  withLoom s g j (e.av (fld w 32 4)) .gpool fun d =>
  let chans := d.nb * d.bw
  checked s [(!s.inShare g ai (chans * d.h * d.w * d.es) || !s.inShare g ao (chans * osz), 0x01),
    (ai % d.es != 0 || ao % osz != 0, 0x02)] <|
  let h := s.share g j
  let raws (ch : Nat) : List Nat := (List.range (d.h * d.w)).map fun o =>
    leNat (h.read (d.addr ai ch (o / d.w) (o % d.w)) d.es)
  let out := (List.range chans).flatMap fun ch => leBytes osz (poolResult false d.fmt of_ rm (raws ch))
  .done (s.modShare g j fun h => h.write ao out) (ceilDiv chans 64 * d.h * d.w)

/-! ### Segments (R179, R180, R249) -/

/-- FP32 value i of a byte string. -/
def f32At (b : Bytes) (i : Nat) : Word := BitVec.ofNat 32 (fieldAt b (4 * i) 4)
def f32Sub (a b : Word) : Word := toF32 ((f32 a).add (f32 b).neg)

/-- Start and end of one axis (R179). -/
def segAxis (ca wa dc dw : Word) : Word × Word :=
  let w := f32Mul wa (transcF 0 dw)
  let c := f32Add ca (f32Mul dc wa)
  let half := f32Mul 0x3F000000 w
  (f32Sub c half, f32Add c half)

/-- The record of entry i (Table 8.7). -/
def segRecord (dim2 : Bool) (i : Nat) (anchor offs : Bytes) : Bytes :=
  let w4 (w : Word) : Bytes := leBytes 4 w.toNat
  if dim2 then
    let t := segAxis (f32At anchor 0) (f32At anchor 1) (f32At offs 0) (f32At offs 1)
    let f := segAxis (f32At anchor 2) (f32At anchor 3) (f32At offs 2) (f32At offs 3)
    w4 t.1 ++ w4 t.2 ++ w4 f.1 ++ w4 f.2 ++ w4 (transcF 2 (f32At offs 4)) ++ leBytes 4 i ++ leBytes 8 0
  else
    let t := segAxis (f32At anchor 0) (f32At anchor 1) (f32At offs 0) (f32At offs 1)
    w4 t.1 ++ w4 t.2 ++ w4 (transcF 2 (f32At offs 2)) ++ leBytes 4 i

/-- The count is outside its range: cause 0x6C. -/
def segCountBad (dim2 : Bool) (n : Nat) : Bool := n == 0 || decide ((if dim2 then 1024 else 4096) < n)

def segDecodeStart (s : State) (g j : Nat) (e : QEntry) : StartRes :=
  let w := e.w
  let aa := e.av (fld w 32 4)
  let ao := e.av (fld w 28 4)
  let ad := e.av (fld w 24 4)
  let n := e.sv (fld w 19 5)
  let d := bitOf w 18
  let sa := if d then 16 else 8
  let so := if d then 20 else 12
  let sr := if d then 32 else 16
  checked s [(segCountBad d n, 0x6C)] <|
  checked s (s.access g aa (n * sa) 4 ++ s.access g ao (n * so) 4 ++ s.access g ad (n * sr) 4) <|
  let h := s.share g j
  let out := (List.range n).flatMap fun i => segRecord d i (h.read (aa + i * sa) sa) (h.read (ao + i * so) so)
  .done (s.modShare g j fun h => h.write ad out) n

/-- A record's score and index. -/
def segScore (d : Bool) (r : Bytes) : Word := f32At r (if d then 4 else 2)
def segIndex (d : Bool) (r : Bytes) : Nat := fieldAt r (if d then 20 else 12) 4

/-- A product over the axes, rounded. -/
def axisProd (d : Bool) (f : Nat → Word) : Word := if d then f32Mul (f 0) (f 1) else f 0

/-- Record x is suppressed by the kept record k: inter > thr x union (R180). -/
def segSuppresses (d : Bool) (thr : Word) (k x : Bytes) : Bool :=
  let lo (r : Bytes) (a : Nat) : Word := f32At r (2 * a)
  let hi (r : Bytes) (a : Nat) : Word := f32At r (2 * a + 1)
  let wmin (a b : Word) : Word := BitVec.ofNat 32 (fp32.minimum a.toNat b.toNat)
  let wmax (a b : Word) : Word := BitVec.ofNat 32 (fp32.maximum a.toNat b.toNat)
  let inter := axisProd d fun a => wmax 0 (f32Sub (wmin (hi k a) (hi x a)) (wmax (lo k a) (lo x a)))
  let area (r : Bytes) : Word := axisProd d fun a => f32Sub (hi r a) (lo r a)
  let union := f32Sub (f32Add (area k) (area x)) inter
  (f32 (f32Mul thr union)).lt (f32 inter)

/-- Insert a record in descending score, equal scores in ascending index (R180). -/
def segInsert (d : Bool) (r : Bytes) : List Bytes → List Bytes
  | [] => [r]
  | x :: xs =>
    let a := f32 (segScore d r)
    let b := f32 (segScore d x)
    if b.lt a || (!a.lt b && decide (segIndex d r < segIndex d x)) then r :: x :: xs
    else x :: segInsert d r xs

def segSuppressStart (s : State) (g j : Nat) (e : QEntry) : StartRes :=
  let w := e.w
  let src := e.av (fld w 32 4)
  let ad := e.av (fld w 28 4)
  let n := e.sv (fld w 23 5)
  let thr := BitVec.ofNat 32 (e.sv (fld w 18 5))
  let d := bitOf w 12
  let sr := if d then 32 else 16
  checked s [(segCountBad d n, 0x6C)] <|
  let h := s.share g j
  let recs := ((List.range n).map fun i => h.read (src + i * sr) sr).filter fun r => !(f32 (segScore d r)).isNan
  let sorted := recs.foldl (fun l r => segInsert d r l) []
  let kept := sorted.foldl (fun ks r => if ks.any (segSuppresses d thr · r) then ks else ks ++ [r]) []
  checked s (s.access g src (n * sr) 4 ++ s.access g ad (kept.length * sr) 4) <|
  .done (s.modShare g j fun h => (h.write ad kept.flatten).landS (fld w 13 5) (BitVec.ofNat 32 kept.length))
    (n * (bitLen (n - 1)) + ceilDiv (n * kept.length) 16)

/-! ### Meanings -/

def execConvExpand (at_ : Site) (act : Act) (w : W64) (s : State) : Outcome :=
  .next (s.engineWord at_ act w 1 0xA0 (expandStart .expand))

def execConvTransposeExpand (at_ : Site) (act : Act) (w : W64) (s : State) : Outcome :=
  .next (s.engineWord at_ act w 1 0xA1 (expandStart .transpose))

def execDwConv (at_ : Site) (act : Act) (w : W64) (s : State) : Outcome :=
  .next (s.engineWord at_ act w 1 0xA2 dwConvStart)

def execPoolMax (at_ : Site) (act : Act) (w : W64) (s : State) : Outcome :=
  .next (s.engineWord at_ act w 1 0xA3 (poolStart true))

def execPoolAvg (at_ : Site) (act : Act) (w : W64) (s : State) : Outcome :=
  .next (s.engineWord at_ act w 1 0xA4 (poolStart false))

def execGpoolAvg (at_ : Site) (act : Act) (w : W64) (s : State) : Outcome :=
  .next (s.engineWord at_ act w 1 0xA5 gpoolStart)

def execSegDecode (at_ : Site) (act : Act) (w : W64) (s : State) : Outcome :=
  .next (s.engineWord at_ act w 1 0xA6 segDecodeStart)

def execSegSuppress (at_ : Site) (act : Act) (w : W64) (s : State) : Outcome :=
  .next (s.engineWord at_ act w 1 0xA7 segSuppressStart)

end Sys2Proof.Machine
end

