-- ==== Sys2Proof/Machine/Lane.lean ====
section
/-! DEFINITION. The end of a command in a lane of the SHAKE engine (R402). -/

namespace Sys2Proof.Machine

/-- What the lane's end does for a command with carried bytes b; none while its input is not all there. -/
def State.laneResult (s : State) (c : Cmd) (b : Bytes) : Option CmdRes :=
  match c.opcode with
  | 0x20 => some (s.loadDone c.part b)
  | 0x21 => some (s.admitDone c.part b)
  | 0x70 => some (s.signDone c.src c.opcode (b.drop 40))
  | 0x71 => some (s.packageDone c.part b)
  | 0x72 => some (s.ownerKeyDone c.part b)
  | 0x73 => some (s.patchDone c.part b)
  | 0x74 =>
    if s.provReady b then
      let m := s.manifest (fieldAt b 4 2) (slice b 8 32)
      some (m.2.signDone c.src c.opcode m.1)
    else none
  | 0x75 => some (s.unlockDone c.part b)
  | _ => none

/-- Command c of the lane goes on as its result says. -/
def laneEnds (c : Cmd) (r : CmdRes) : State :=
  let rest (t : State) : State := { t with cmds := t.cmds.filter (·.id != c.id) }
  match r with
  | .done t st res => t.finishCmd c.id st res
  | .trunc t res => ((rest t).reply c.src c.opcode c.tag c.part stOk res true).settleFences
  | .wait t w => { t with cmds := t.cmds.map fun x => if x.id == c.id then { x with wait := w } else x }
  | .silent t => rest t

/-- A lane's commands, and the state with others in their place. -/
def State.lane (s : State) (provenance : Bool) : List Nat := if provenance then s.lane1 else s.lane0
def State.setLane (s : State) (provenance : Bool) (l : List Nat) : State :=
  if provenance then { s with lane1 := l } else { s with lane0 := l }

/-- The commands of a lane, in order; those that ended meanwhile have left it. -/
def State.laneCmds (s : State) (provenance : Bool) : List Cmd :=
  (s.lane provenance).filterMap fun id => s.cmds.find? (·.id == id)

/-- A lane finishes its first command and turns to the next (R402). -/
def State.laneDone (s : State) (provenance : Bool) : State :=
  match s.laneCmds provenance with
  | [] => s.setLane provenance []
  | c :: rest => match c.wait with
    | .lane _ b => match s.laneResult c b with
      | none => s
      | some r => (laneEnds c r).setLane provenance (rest.map (·.id))
    | _ => s.setLane provenance (rest.map (·.id))

/-- The first PROVENANCE of lane 1 is one of stream i, and every frame that it covers is hashed (R410). -/
def State.provDue (s : State) (i : Nat) : Bool :=
  match s.laneCmds true with
  | c :: _ => (match c.wait with
    | .lane _ b => fieldAt b 4 2 == i && s.provReady b
    | _ => false)
  | [] => false

def execShakeLaneDone (s : State) : Outcome := .next (s.laneDone false)

/-- Lane 1 turns to a stream: the PROVENANCE that is due is finished first (DESIGN CHOICE, log entry 107), else the
stream's oldest waiting frame is hashed (R409). -/
def execProvenanceHash (stream : Fin 4096) (s : State) : Outcome :=
  .next (if s.provDue stream.val then s.laneDone true else s.hashFrame stream.val)

end Sys2Proof.Machine
end

