-- ==== Sys2Proof/Machine/MemoryCmds.lean ====
section
/-! DEFINITION. The memory and synchronisation commands and the data of WRITE_MEMORY and READ_MEMORY (R202, R312,
R357, R362, R367 to R369). -/

namespace Sys2Proof.Machine

/-! ### Checks of a write (R202, R362, R367, R402) -/

/-- [A, A + n) overlaps the bytes of a recorded image of partition p (R362). -/
def State.imageOverlap (s : State) (p A n : Nat) : Bool :=
  s.images.any fun x => match x.2 with
    | some m => m.part == p && overlaps A n m.addr m.bytes
    | none => false

/-- The checks of WRITE_MEMORY and FILL_MEMORY over their range. -/
def State.writeChecks (s : State) (p A n : Nat) : Option (BitVec 16) :=
  if n = 0 then some stBadField
  else if s.stateOverlap p A n false || s.imageOverlap p A n || s.laneProtects p A n then some stStateBusy
  else if !(s.part p).inside A n then some stOutOfBounds
  else none

/-! ### Data that arrives in pieces (R312) -/

/-- The end of what the pieces (offset, length) cover without a gap from `a`. -/
def coveredTo (got : List (Nat × Nat)) : Nat → Nat → Nat
  | 0, a => a
  | fuel + 1, a => match got.find? fun r => decide (r.1 ≤ a) && decide (a < r.1 + r.2) with
    | some r => coveredTo got fuel (r.1 + r.2)
    | none => a

/-- The pieces cover [a, a + n). -/
def covered (got : List (Nat × Nat)) (a n : Nat) : Bool := decide (a + n ≤ coveredTo got got.length a)

/-- The memory data sub-header (Table 16.6). -/
def dataTag (b : Bytes) : BitVec 16 := BitVec.ofNat 16 (fieldAt b 0 2)
def dataOffset (b : Bytes) : Nat := fieldAt b 4 4
def dataBytes (b : Bytes) : Bytes := b.drop 16

/-- A payload of Table 16.6. -/
def dataPayload (tag : BitVec 16) (off : Nat) (data : Bytes) : Bytes :=
  leBytes 2 tag.toNat ++ leBytes 2 0 ++ leBytes 4 off ++ leBytes 8 0 ++ data

/-- The most data one packet carries (R312). -/
def dataMax : Nat := 65487

/-! ### WRITE_MEMORY (R367) -/

/-- FLAGS of WRITE_MEMORY and READ_MEMORY, and DCRC when CHECK says that it is valid. -/
def inlineFlag (p : Bytes) : Bool := bitOf (fieldAt p 5 1) 0
def dcrcOf (p : Bytes) : Option (BitVec 16) :=
  if bitOf (fieldAt p 5 1) 1 then some (BitVec.ofNat 16 (fieldAt p 6 2)) else none

/-- How a WRITE_MEMORY whose bytes have all arrived completes: its own check first (R367), then a line that
refused a partial write (R99). -/
def writeStatus (data : Bytes) (check : Option (BitVec 16)) (bad : Bool) : BitVec 16 :=
  if check.isSome && check != some (crc16 data) then stLinkCrc
  else if bad then stEccUncorrectable else stOk

/-- Another WRITE_MEMORY of the source with the tag still takes its data in packets (R357). -/
def State.tagPending (s : State) (src : Src) (tag : BitVec 16) : Bool :=
  s.cmds.any fun c => c.src == src && c.tag == tag && (match c.wait with
    | .writeData _ _ _ _ _ _ => true
    | _ => false)

def writeMemoryBody (s : State) (r : Req) : CmdRes :=
  let p := r.hdr.part.val
  let A := fieldAt r.p 0 5
  let n := fieldAt r.p 8 4
  let inl := inlineFlag r.p
  if !inl && (r.src == .i3c || s.tagPending r.src r.hdr.tag) then .done s stBadField []
  else match s.writeChecks p A n with
    | some st => .done s st []
    | none =>
      if inl then
        let data := r.p.drop 16
        let st := writeStatus data (dcrcOf r.p) false
        if st ≠ stOk then .done (s.writePart (s.part p) .normal A data).1 st []
        else
          let w := s.writeWholly (s.part p) .normal A data
          .done w.1 (if w.2 then stEccUncorrectable else stOk) []
      else .wait s (.writeData A n [] [] (dcrcOf r.p) false)

def writeMemorySpec : CmdSpec :=
  { length := fun p => decide (16 ≤ p.length) &&
      (p.length == if inlineFlag p then 16 + fieldAt p 8 4 else 16)
    reserved := fun p => zeroAt [(12, 4)] p && decide (fieldAt p 5 1 < 4)
    body := writeMemoryBody }

/-- The WRITE_MEMORY of the source with the tag that waits for data. -/
def State.writer (s : State) (src : Src) (tag : BitVec 16) : Option Cmd :=
  s.cmds.find? fun c => c.src == src && c.tag == tag && (match c.wait with
    | .writeData _ _ _ _ _ _ => true
    | _ => false)

/-- A 0x34 packet on VC10: its bytes are written as they arrive, and the command completes with the last (R312,
R367). -/
def State.writeArrives (s : State) (port : Nat) (src : Src) (b : Bytes) : State :=
  let d := dataBytes b
  match s.writer src (dataTag b) with
  | none => s.discardOn port
  | some c => match c.wait with
    | .writeData A n got data check bad =>
      let off := dataOffset b
      if d.isEmpty || decide (n < off + d.length) then s.discardOn port
      else
        let w := s.writePart (s.part c.part) .normal (A + off) d
        let got := (off, d.length) :: got
        let data := writeBytes data off d
        let bad := bad || !w.2.isEmpty
        if covered got 0 n then w.1.finishCmd c.id (writeStatus (readBytes data 0 n) check bad)
        else
          let k : Wait := .writeData A n got data check bad
          { w.1 with cmds := w.1.cmds.map fun x => if x.id == c.id then { x with wait := k } else x }
    | _ => s

/-! ### The copy of a move (R345, R365) -/

/-- The reserved entry that a MOVE_RESERVE with this tag from this device holds. -/
def State.reservedFor (s : State) (src : BitVec 12) (tag : BitVec 16) : Option Nat :=
  (s.entries.find? fun x => match x.2.reserved with
    | some v => v.tag == tag && v.src == src
    | none => false).map Prod.fst

/-- Bytes of an entry's chain queues and input queue. -/
def Entry.cqBytes (e : Entry) : Nat := (e.links - 1) * 16 * e.frameBytes
def Entry.iqBytes (e : Entry) : Nat := e.iqDepth * e.slotBytes

/-- Partition address of byte `off` of a copy: the state, then the chain queues, then the input queue, each as its
region lies (log entry 38); with the bytes left in that region. -/
def Entry.copyAddr (e : Entry) (off : Nat) : Option (Nat × Nat) :=
  let n := e.stateSize.toNat
  if off < n then some (e.state.toNat + off, n - off)
  else if off < n + e.cqBytes then some (e.cqBase.toNat + (off - n), n + e.cqBytes - off)
  else if off < n + e.cqBytes + e.iqBytes then
    some (e.iqBase.toNat + (off - n - e.cqBytes), n + e.cqBytes + e.iqBytes - off)
  else none

/-- Write copied bytes from offset `off`, region by region; whether a line refused some. -/
def State.copyIn (s : State) (p : Part) (e : Entry) : Nat → Nat → Bytes → State × Bool
  | 0, _, _ => (s, false)
  | fuel + 1, off, d =>
    if d.isEmpty then (s, false)
    else match e.copyAddr off with
      | none => (s, false)
      | some (A, room) =>
        let w := s.writePart p .normal A (d.take room)
        let r := State.copyIn w.1 p e fuel (off + room) (d.drop room)
        (r.1, !w.2.isEmpty || r.2)

/-- A 0x34 packet on VC11 (R345, R365). -/
def State.copyArrives (s : State) (port : Nat) (src : BitVec 12) (b : Bytes) : State :=
  let d := dataBytes b
  let off := dataOffset b
  match s.reservedFor src (dataTag b) with
  | none => s.discardOn port
  | some i =>
    let e := s.entry i
    if d.isEmpty || decide (e.stateSize.toNat + e.cqBytes + e.iqBytes < off + d.length) then s.discardOn port
    else
      let w := s.copyIn (s.part (e.part.getD 0)) e 3 off d
      w.1.modEntry i fun e => { e with reserved := e.reserved.map fun v =>
        { v with got := (off, d.length) :: v.got, bad := v.bad || w.2 } }

/-- A 0x34 payload that the sequence check has accepted: VC11 carries only Steward-to-Steward data (R345). -/
def State.writeDataPacket (s : State) (port : Nat) (src : BitVec 12) (vc : Nat) (b : Bytes) : State :=
  if vc = 11 then s.copyArrives port src b
  else s.writeArrives port (if port = 2 then .spur else .dev src) b

/-! ### READ_MEMORY (R368) -/

/-- Read line by line until one reads with an uncorrectable error: the state, the bytes before that line, and its
offset in the range. -/
def State.readUntil (s : State) (p : Part) (A n : Nat) : State × Bytes × Option Nat :=
  let r := (linesOf A n).foldl (fun (acc : State × Option Nat) l =>
    match acc.2 with
    | some _ => acc
    | none =>
      let x := acc.1.readLine p .normal (l * 128)
      (x.1, if x.2 then some (max (l * 128) A - A) else none)) (s, none)
  (r.1, r.1.partBytes p A (r.2.getD n), r.2)

/-- Queue a READ_MEMORY's data in ascending offset (R312). -/
def State.sendReadData (s : State) (r : Req) : Nat → Nat → Bytes → State
  | 0, _, _ => s
  | fuel + 1, off, d =>
    if d.isEmpty then s
    else
      let s := s.queuePkt (s.buildPkt 0x35 10 (s.srcId r.src) r.hdr.part.val true
        (dataPayload r.hdr.tag off (d.take dataMax))) (some r.id)
      State.sendReadData s r fuel (off + dataMax) (d.drop dataMax)

/-- Longest inline read of a path (R368). -/
def inlineMax : Src → Nat
  | .i3c => 236
  | _ => 65483

def readMemoryBody (s : State) (r : Req) : CmdRes :=
  let p := s.part r.hdr.part.val
  let A := fieldAt r.p 0 5
  let n := fieldAt r.p 8 4
  let inl := inlineFlag r.p
  if n = 0 ∨ (!inl ∧ r.src = .i3c) then .done s stBadField []
  else if inl && decide (inlineMax r.src < n) then .done s stBadLength []
  else if !p.inside A n then .done s stOutOfBounds []
  else
    let rd := s.readUntil p A n
    let st := if rd.2.2.isSome then stEccUncorrectable else stOk
    let res := match rd.2.2 with
      | some off => leBytes 4 off
      | none => leBytes 2 (crc16 rd.2.1).toNat ++ leBytes 2 0
    if inl then .done rd.1 st (if rd.2.2.isSome then res else res ++ rd.2.1)
    else if rd.2.1.isEmpty then .done rd.1 st res
    else .wait (rd.1.sendReadData r (n / dataMax + 1) 0 rd.2.1) (.readData st res)

def readMemorySpec : CmdSpec :=
  { length := fun p => p.length == 12
    reserved := fun p => zeroAt [(6, 2)] p && decide (fieldAt p 5 1 < 2)
    body := readMemoryBody }

/-! ### FILL_MEMORY (R369) -/

def fillMemoryBody (s : State) (r : Req) : CmdRes :=
  let p := r.hdr.part.val
  let A := fieldAt r.p 0 5
  let n := fieldAt r.p 8 8
  match s.writeChecks p A n with
  | some st => .done s st []
  | none =>
    let w := s.writeWholly (s.part p) .normal A (fillBytes (fieldAt r.p 16 4) n)
    .done w.1 (if w.2 then stEccUncorrectable else stOk) []

def fillMemorySpec : CmdSpec :=
  { length := fun p => p.length == 24
    reserved := zeroAt [(5, 3), (20, 4)]
    body := fillMemoryBody }

/-! ### SIGNAL_SYNC, WAIT_SYNC, FENCE (R369) -/

/-- The object belongs to a cluster of the command's partition (R146, R264). -/
def State.partOwnsObj (s : State) (p obj : Nat) : Bool := (s.part p).owns (obj / 2048)

def signalSyncBody (s : State) (r : Req) : CmdRes :=
  let obj := fieldAt r.p 0 2
  let v := BitVec.ofNat 32 (fieldAt r.p 4 4)
  if 1 < fieldAt r.p 2 1 then .done s stBadField []
  else if !s.partOwnsObj r.hdr.part.val obj then .done s stNotPermitted []
  else .done (if fieldAt r.p 2 1 = 0 then s.syncSet obj v else s.syncAdd obj v) stOk []

def signalSyncSpec : CmdSpec :=
  { length := fun p => p.length == 8
    reserved := zeroAt [(3, 1)]
    body := signalSyncBody }

/-- Waiting WAIT_SYNC commands of the device. -/
def State.syncWaits (s : State) : Nat :=
  (s.cmds.filter fun c => match c.wait with
    | .sync _ _ => true
    | _ => false).length

def waitSyncBody (s : State) (r : Req) : CmdRes :=
  let obj := fieldAt r.p 0 2
  let target := BitVec.ofNat 32 (fieldAt r.p 4 4)
  let limit := fieldAt r.p 8 4
  if !s.partOwnsObj r.hdr.part.val obj then .done s stNotPermitted []
  else if syncReady (s.syncVal obj) target then .done s stOk (leBytes 4 (s.syncVal obj).toNat)
  else if 256 ≤ s.syncWaits then .done s stNoSyncObject []
  else .wait { s with waiters := s.waiters ++ [.steward obj target r.id] }
    (.sync obj (if limit = 0 then none else some (s.now + limit)))

def waitSyncSpec : CmdSpec :=
  { length := fun p => p.length == 12
    reserved := zeroAt [(2, 2)]
    body := waitSyncBody }

/-- A WAIT_SYNC ends with EMPTY once its TIMEOUT periods have passed. -/
def State.syncTimeout (s : State) (id : Nat) : State :=
  match s.cmds.find? (·.id == id) with
  | none => s
  | some c => match c.wait with
    | .sync obj (some t) =>
      if t ≤ s.now then
        { s with waiters := s.waiters.filter fun w => match w with
            | .steward _ _ k => k != id
            | .word _ _ _ _ _ _ => true }.finishCmd id stEmpty (leBytes 4 (s.syncVal obj).toNat)
      else s
    | _ => s

/-- Commands received before now from a source for a partition and not completed, delayed ones included (R369). -/
def State.before (s : State) (src : Src) (p : Nat) : List Nat :=
  (s.cmds.filter fun c => c.src == src && c.part == p).map (·.id) ++
    (s.delayed.filter fun d => d.src == src && d.hdr.part.val == p).map (·.id)

/-- A FENCE waits for the commands received before it: a delayed FENCE started later, too, waits only for
those, whose numbers are lower. -/
def fenceBody (s : State) (r : Req) : CmdRes :=
  let ids := (s.before r.src r.hdr.part.val).filter (· < r.id)
  if ids.isEmpty then .done s stOk [] else .wait s (.fence ids)

def fenceSpec : CmdSpec :=
  { length := fun p => p.length == 0
    body := fenceBody }

/-! ### Meanings -/

/-- `ev`: what befalls the lines that it touches (R99). -/
def execWriteMemory (src : Src) (hdr : Hdr) (params : Bytes) (ev : List LineEvent) (s : State) : Outcome :=
  .next ((s.lineEvents ev).command 0x50 writeMemorySpec src hdr params)

/-- No data byte has arrived for 100 ms, and the range is incomplete (R367). -/
def execWriteDataTimeout (cmd : Nat) (s : State) : Outcome :=
  .next (match s.cmds.find? (·.id == cmd) with
    | some c => (match c.wait with
      | .writeData _ _ _ _ _ _ => s.finishCmd cmd stLinkCrc
      | _ => s)
    | none => s)

def execMemoryWriteData (port : Fin 3) (src : BitVec 12) (vc : Nat) (payload : Bytes) (s : State) : Outcome :=
  .next (s.writeDataPacket port.val src vc payload)

def execReadMemory (src : Src) (hdr : Hdr) (params : Bytes) (ev : List LineEvent) (s : State) : Outcome :=
  .next ((s.lineEvents ev).command 0x51 readMemorySpec src hdr params)

def execFillMemory (src : Src) (hdr : Hdr) (params : Bytes) (s : State) : Outcome :=
  .next (s.command 0x52 fillMemorySpec src hdr params)

def execSignalSync (src : Src) (hdr : Hdr) (params : Bytes) (s : State) : Outcome :=
  .next (s.command 0x53 signalSyncSpec src hdr params)

def execWaitSync (src : Src) (hdr : Hdr) (params : Bytes) (s : State) : Outcome :=
  .next (s.command 0x54 waitSyncSpec src hdr params)

def execWaitSyncTimeout (cmd : Nat) (s : State) : Outcome := .next (s.syncTimeout cmd)

def execFence (src : Src) (hdr : Hdr) (params : Bytes) (s : State) : Outcome :=
  .next (s.command 0x55 fenceSpec src hdr params)

end Sys2Proof.Machine
end

