-- ==== Sys2Proof/Machine/Moves.lean ====
section
/-! DEFINITION. MOVE_STREAM and the Steward move commands (R201, R231, R345, R364, R365). -/

namespace Sys2Proof.Machine

/-! ### Parameters (Table 18.8) -/

def newChain (p : Bytes) : Bool := bitOf (fieldAt p 5 1) 0
def newState (p : Bytes) : Bool := bitOf (fieldAt p 5 1) 1

/-- Context and chain that the stream will have. -/
def moveCtx (e : Entry) (p : Bytes) : Nat := if newChain p then fieldAt p 4 1 else e.context
def moveChain (e : Entry) (p : Bytes) : List Nat := if newChain p then chainOf (fieldAt p 8 4) else e.chain

/-- The destination entry of a transfer as Table 18.7 states it: regions as the command names them, sizes, format
and rate the source's, INIT equal to STATE. -/
def moveArgs (e : Entry) (p : Bytes) : OpenArgs :=
  let chain := moveChain e p
  { ctx := moveCtx e p, chain := chain, state := fieldAt p 16 5, size := e.stateSize.toNat, lowWater := e.lowWater.toNat,
    init := fieldAt p 16 5, iqBase := fieldAt p 24 5, iqSlot := e.iqSlot.toNat, iqDepth := e.iqDepth,
    cqFrame := if chain.length = 1 then 0 else e.cqFrame.toNat, cqBase := fieldAt p 32 5, orBase := fieldAt p 40 5,
    orFmt := e.orFmt.toNat, orSize := e.orSize.toNat, rate := e.ringRate.toNat }

/-- A chain queue of the stream holds a frame. -/
def Entry.cqHolds (e : Entry) : Bool := (List.range (e.links - 1)).any fun j => decide (0 < (e.chainQ j).fill)

/-! ### The copy (R345, R365) -/

/-- What a copy still moves: (offset in the copy, source address, length). At `k` = 0 that is everything; later, with
k − 1 chunks copied, the chunks that have arrived since. -/
def copyRuns (e : Entry) (a : OpenArgs) (k : Nat) : List (Nat × Nat × Nat) :=
  let cq := a.size
  let iq := cq + (a.chain.length - 1) * 16 * (64 * a.cqFrame)
  let frames := (List.range (e.links - 1)).flatMap fun j => (List.range (e.chainQ j).fill).map fun i =>
    (cq + (j * 16 + i) * e.frameBytes, e.cqAddr j ((e.chainQ j).rd + i), e.frameBytes)
  let chunks := (List.range (e.iqCount - (k - 1))).map fun i =>
    (iq + (k - 1 + i) * e.slotBytes, e.iqBase.toNat + (e.iqRd + (k - 1) + i) % e.iqDepth * e.slotBytes, e.slotBytes)
  (if k = 0 then (0, e.state.toNat, a.size) :: frames else []) ++ chunks

/-- Read what a copy moves: the state, the pieces (offset, bytes), and whether a line failed. -/
def State.readRuns (s : State) (p : Part) (runs : List (Nat × Nat × Nat)) : State × List (Nat × Bytes) × Bool :=
  runs.foldl (fun (acc : State × List (Nat × Bytes) × Bool) x =>
    let r := acc.1.readPart p .normal x.2.1 x.2.2
    (r.1, acc.2.1 ++ [(x.1, r.2.1)], acc.2.2 || !r.2.2.isEmpty)) (s, [], false)

/-- Chain queues that a CQ_STATE word gives, with the reset marks of their frames. -/
def cqOf (w : Nat) (marks : List Bool) : Tbl ChainQ :=
  ((List.range 3).foldl (fun (acc : Tbl ChainQ × List Bool) j =>
    let f := fld w (9 * j) 5
    (Tbl.set {} acc.1 j { fill := f, rd := fld w (9 * j + 5) 4, marks := acc.2.take f }, acc.2.drop f)) ([], marks)).1

/-- n reset marks that no field of a move carries: free values (log entry 3). -/
def State.freeMarks : Nat → State → List Bool × State
  | 0, s => ([], s)
  | n + 1, s =>
    let r := State.freeMarks n s.draw.2
    (s.draw.1.getLsbD 0 :: r.1, r.2)

/-! ### MOVE_OPEN (R365) -/

/-- The fields of MOVE_OPEN. -/
structure MoveFields where
  step : Nat
  pos : Nat
  cq : Nat
  chunk : Nat
  fill : Nat
  resetPend : Bool
  owner : BitVec 12
deriving DecidableEq, Repr, Inhabited

/-- What the source sends when it has copied n chunks: the frames lie from slot 0. -/
def Entry.moveFields (e : Entry) (n : Nat) (owner : BitVec 12) : MoveFields :=
  { step := e.step, pos := e.pos,
    cq := ((List.range 3).map fun j => (e.chainQ j).fill % 32 * 2 ^ (9 * j)).sum, chunk := e.chunk.toNat, fill := n,
    resetPend := e.resetPend, owner := owner }

def MoveFields.toBytes (f : MoveFields) (remote : Nat) : Bytes :=
  leBytes 2 remote ++ leBytes 2 f.step ++ leBytes 4 f.pos ++ leBytes 4 f.cq ++ leBytes 4 f.chunk ++ leBytes 2 f.fill ++
    leBytes 1 (b2n f.resetPend) ++ leBytes 1 0 ++ leBytes 2 f.owner.toNat ++ leBytes 2 0

def moveFieldsOf (p : Bytes) : MoveFields :=
  { step := fieldAt p 2 2, pos := fieldAt p 4 4, cq := fieldAt p 8 4, chunk := fieldAt p 12 4, fill := fieldAt p 16 2,
    resetPend := bitOf (fieldAt p 18 1) 0, owner := BitVec.ofNat 12 (fieldAt p 20 2) }

/-- The chunk for POS has mark m (R192). -/
def Entry.setPosMark (e : Entry) (m : Bool) : Entry :=
  match ((List.range e.links).reverse).find? fun j => decide (0 < e.source j) with
  | none => e
  | some 0 => { e with marks := m :: e.marks.drop 1 }
  | some (j + 1) => let q := e.chainQ j
    e.setChainQ j { q with marks := m :: q.marks.drop 1 }

/-- Open reserved entry i PARKED and unbound; its free input slots are owed as stream credits (R311, R345). -/
def State.openMoved (s : State) (i : Nat) (f : MoveFields) : State :=
  let frames := ((List.range 3).map fun j => fld f.cq (9 * j) 5).sum
  let m := State.freeMarks (f.fill + frames) s
  let s := m.2
  s.modEntry i fun e => Entry.setPosMark
    { e with status := .parked, held := false, reserved := none, pos := f.pos, step := f.step, resetPend := f.resetPend,
             cq := cqOf f.cq (m.1.drop f.fill), iqRd := 0, iqWr := f.fill % e.iqDepth, iqCount := f.fill,
             marks := m.1.take f.fill, chunk := BitVec.ofNat 32 f.chunk, owner := f.owner, credits := e.iqDepth - f.fill,
             prov := s.provStart i f.pos } f.resetPend

/-- The feedback range lies in a FEEDBACK section of the state at address A of partition p (R229); a chain without one
needs no reading, and a line that reads with an uncorrectable error is the failure (R100). -/
def State.feedbackCheck (s : State) (p A : Nat) (chain : List Nat) : State × Option (BitVec 16) :=
  match s.chainFeedback chain with
  | none => (s, none)
  | some fb =>
    let b := s.layoutAt p A
    (b.1, if b.2.2 then some stEccUncorrectable else if feedbackOk b.2.1 (some fb) then none else some stBadField)

/-- MOVE_OPEN's check of the copied state of entry i (R365). -/
def State.movedCheck (s : State) (i : Nat) : State × Option (BitVec 16) :=
  let e := s.entry i
  s.feedbackCheck (e.part.getD 0) e.state.toNat e.chain

/-- A reservation is freed: the entry belongs to no partition (R365, R442). -/
def State.freeReserved (s : State) (i : Nat) : State :=
  s.modEntry i fun e => { e with held := false, reserved := none, part := none }

/-! ### The destination's commands (R365) -/

/-- A move command comes from a Steward that the partition's source list admits. -/
def State.stewardSource (s : State) (r : Req) : Option (BitVec 12) :=
  match r.src with
  | .dev d =>
    if 0xF000 ≤ r.hdr.tag.toNat ∧ (!(s.part r.hdr.part.val).exists_ || s.admits r.hdr.part.val r.src) then some d else none
  | _ => none

/-- Items 1 and 2 of R365 for every move command: its source, then the partition. -/
def onSteward (f : State → BitVec 12 → CmdRes) (s : State) (r : Req) : CmdRes :=
  match s.stewardSource r with
  | none => .done s stNotPermitted []
  | some d => if (s.part r.hdr.part.val).exists_ then f s d else .done s stWrongState []

/-- Items 3 and 4 of R365: the entry that a reservation takes, or the failure. -/
def State.reservePlace (s : State) (p : Nat) (a : OpenArgs) : BitVec 16 ⊕ Nat :=
  match s.openChecks p a with
  | some st => .inl st
  | none => match s.openPlace p a with
    | .inl st => .inl st
    | .inr i => if a.init = a.state then .inr i else .inl stBadField

def moveReserveBody (s : State) (r : Req) : CmdRes :=
  onSteward (fun s d =>
    let a := openArgs r.p
    match s.reservePlace r.hdr.part.val a with
    | .inl st => .done s st []
    | .inr i =>
      let e := { a.entry r.hdr.part.val with held := true, reserved := some { tag := r.hdr.tag, src := d } }
      .done (s.setEntry i e) stOk (leBytes 4 i)) s r

def moveReserveSpec : CmdSpec :=
  { scope := fun _ => .steward
    length := fun p => p.length == 72
    reserved := openRsvd
    body := moveReserveBody }

/-- The entry is a reservation that this source holds in the command's partition. -/
def State.holdsReserve (s : State) (p i : Nat) (d : BitVec 12) : Option Reserve :=
  let e := s.entry i
  match e.reserved with
  | some v => if e.belongs p && v.src == d then some v else none
  | none => none

/-- The copy that the fields tell of has all arrived: the state, the frames, the chunks. -/
def Entry.copied (e : Entry) (v : Reserve) (f : MoveFields) : Bool :=
  let n := e.stateSize.toNat
  covered v.got 0 n &&
    (List.range 3).all (fun j => covered v.got (n + j * 16 * e.frameBytes) (fld f.cq (9 * j) 5 * e.frameBytes)) &&
    covered v.got (n + e.cqBytes) (f.fill * e.slotBytes)

def moveOpenBody (s : State) (r : Req) : CmdRes :=
  onSteward (fun s d =>
    let i := fieldAt r.p 0 2
    let f := moveFieldsOf r.p
    let e := s.entry i
    match s.holdsReserve r.hdr.part.val i d with
    | none => .done s stWrongState []
    | some v =>
      if e.iqDepth < f.fill || (List.range 3).any (fun j => decide (16 < fld f.cq (9 * j) 5)) then
        .done (s.freeReserved i) stBadField []
      else if v.bad then .done (s.freeReserved i) stEccUncorrectable []
      else if !e.copied v f then .done (s.freeReserved i) stLinkCrc []
      else match s.movedCheck i with
        | (t, some st) => .done (t.freeReserved i) st []
        | (t, none) => .done (t.openMoved i f) stOk []) s r

def moveOpenSpec : CmdSpec :=
  { scope := fun _ => .steward
    length := fun p => p.length == 24
    reserved := fun p => zeroAt [(19, 1), (22, 2)] p && streamField 0 p && decide (fieldAt p 4 4 < 2 ^ 22) &&
      decide (fieldAt p 8 4 < 2 ^ 27) && decide (fieldAt p 18 1 ≤ 1) && decide (fieldAt p 20 2 < 4096)
    body := moveOpenBody }

def moveReleaseBody (s : State) (r : Req) : CmdRes :=
  onSteward (fun s d =>
    let i := fieldAt r.p 0 2
    match s.holdsReserve r.hdr.part.val i d with
    | none => .done s stWrongState []
    | some _ => .done (s.freeReserved i) stOk []) s r

def moveReleaseSpec : CmdSpec :=
  { scope := fun _ => .steward
    length := fun p => p.length == 4
    reserved := fun p => zeroAt [(2, 2)] p && streamField 0 p
    body := moveReleaseBody }

/-! ### MOVE_STREAM at the source (R364) -/

/-- Items 1 to 5 of R364. -/
def State.moveChecks (s : State) (r : Req) (i : Nat) : Option (BitVec 16) :=
  let e := s.entry i
  if s.foreignStream r.hdr.part.val i then some stNotPermitted
  else if e.status ≠ .parked then some stWrongState
  else if e.moving then some stStateBusy
  else if destDev r.p = s.net.id ∧ !(s.part (destPart r.p).val).exists_ then some stWrongState
  else if newChain r.p && (moveChain e r.p).length != e.links && e.cqHolds then some stBadField
  else none

/-- Items 6 to 9 of R364, for the in-place form. -/
def State.inPlaceChecks (s : State) (r : Req) (i : Nat) : State × Option (BitVec 16) :=
  let p := r.hdr.part.val
  let e := s.entry i
  let chain := moveChain e r.p
  let A := fieldAt r.p 16 5
  if s.foreignChain p (moveCtx e r.p) chain then (s, some stNotPermitted)
  else match s.chainCheck (moveCtx e r.p) chain e.stateSize.toNat with
    | some st => (s, some st)
    | none => match s.feedbackCheck p e.state.toNat chain with
      | (t, some st) => (t, some st)
      | (t, none) =>
        if newState r.p && s.stateOverlap p A e.stateSize.toNat false then (t, some stStateBusy)
        else if newState r.p && !(s.part p).inside A e.stateSize.toNat then (t, some stOutOfBounds)
        else (t, none)

/-- The in-place form: the state is copied, and the entry pointed at it; then the chain is replaced. -/
def State.moveInPlace (s : State) (r : Req) (i : Nat) : CmdRes :=
  let p := s.part r.hdr.part.val
  let e := s.entry i
  let A := fieldAt r.p 16 5
  match s.inPlaceChecks r i with
  | (s, some st) => .done s st []
  | (s, none) =>
    let rd := if newState r.p then s.readPart p .normal e.state.toNat e.stateSize.toNat else (s, [], [])
    if !rd.2.2.isEmpty then .done rd.1 stEccUncorrectable []
    else
      let wr := if newState r.p then rd.1.writeWholly p .normal A rd.2.1 else (rd.1, false)
      if wr.2 then .done wr.1 stEccUncorrectable []
      else .done (wr.1.modEntry i fun e =>
        { e with state := if newState r.p then BitVec.ofNat 40 A else e.state, context := moveCtx e r.p,
                 chain := moveChain e r.p }) stOk (leBytes 4 i)

/-- Step 4 of R345: the source entry becomes DRAINING, and closes when its ring is empty. -/
def State.moveAway (s : State) (i : Nat) : State :=
  let s := (s.modEntry i fun e => { e with moving := false }).startDraining i
  if s.drained i then s.closeUndrained i else s

/-- The reset marks of entry e's chunks and frames, which travel with them (R192). -/
def Entry.withMarks (x e : Entry) : Entry :=
  { x with marks := e.marks, cq := (List.range (e.links - 1)).foldl (fun (t : Tbl ChainQ) j =>
      Tbl.set {} t j { Tbl.get {} t j with marks := (e.chainQ j).marks }) x.cq }

/-- A transfer to partition q of this device: the destination's checks and steps in this Steward. -/
def State.moveLocal (s : State) (r : Req) (i q : Nat) : CmdRes :=
  let e := s.entry i
  let a := moveArgs e r.p
  if !s.admits q (.dev s.net.id) then .done s stNotPermitted []
  else match s.reservePlace q a with
    | .inl st => .done s st []
    | .inr k =>
      let rd := s.readRuns (s.part r.hdr.part.val) (copyRuns e a 0)
      if rd.2.2 then .done rd.1 stEccUncorrectable []
      else
        let s := rd.1.setEntry k (a.entry q)
        let wr := s.writeAll (s.part q) .normal (rd.2.1.filterMap fun x =>
          ((a.entry q).copyAddr x.1).map fun y => (y.1, x.2))
        if wr.2 then .done (wr.1.freeReserved k) stEccUncorrectable []
        else match wr.1.movedCheck k with
        | (t, some st) => .done (t.freeReserved k) st []
        | (t, none) =>
          let t := t.openMoved k (e.moveFields e.iqCount (s.srcId r.src))
          .done ((t.modEntry k fun x => { x.withMarks e with ownerSelf := deviceSource r.src }).moveAway i) stOk
            (leBytes 4 k)

/-- A transfer to another device begins: MOVE_RESERVE goes out (R345 step 1). -/
def State.moveRemote (s : State) (r : Req) (i : Nat) : CmdRes :=
  let a := moveArgs (s.entry i) r.p
  let tag := moveTag r.id 0
  let s := s.modEntry i fun e => { e with moving := true }
  .wait (s.sendSteward r.hdr.part.val 0xF0 (some r.id) tag r.p a.toBytes) (.transfer i r.p 0 tag 0 0)

/-- The in-place form: DEST names this device and PART. -/
def State.inPlace (s : State) (hdr : Hdr) (p : Bytes) : Bool := destDev p == s.net.id && destPart p == hdr.part

def moveStreamBody (s : State) (r : Req) : CmdRes :=
  let i := fieldAt r.p 0 2
  if !s.inPlace r.hdr r.p && !(newChain r.p && newState r.p) then .done s stBadField []
  else match s.moveChecks r i with
    | some st => .done s st []
    | none =>
      if s.inPlace r.hdr r.p then s.moveInPlace r i
      else if destDev r.p = s.net.id then s.moveLocal r i (destPart r.p).val
      else s.moveRemote r i

def moveStreamSpec : CmdSpec :=
  { length := fun p => p.length == 48
    reserved := fun p => zeroAt [(6, 2), (12, 4), (21, 3), (29, 3), (37, 3), (45, 3)] p && streamField 0 p &&
      decide (fieldAt p 5 1 < 4) && (!newChain p || decide (fieldAt p 8 4 < 2 ^ 26))
    rsvdOn := fun s hdr p => !s.inPlace hdr p || zeroAt [(24, 5), (32, 5), (40, 5)] p
    body := moveStreamBody }

/-! ### A transfer under way (R345) -/

/-- Give command number `id` another wait. -/
def State.setWait (s : State) (id : Nat) (w : Wait) : State :=
  { s with cmds := s.cmds.map fun x => if x.id == id then { x with wait := w } else x }

/-- The move fails: its stream stays as it was, and no longer MOVING (R345). -/
def State.moveFails (s : State) (c : Cmd) (i : Nat) (st : BitVec 16) : State :=
  (s.modEntry i fun e => { e with moving := false }).finishCmd c.id st

/-- Queue one piece of a copy in packets on VC11, charged to the stream's partition. -/
def State.sendCopy (s : State) (c : Cmd) (move : Bytes) (tag : BitVec 16) : Nat → Nat → Bytes → State
  | 0, _, _ => s
  | fuel + 1, off, d =>
    if d.isEmpty then s
    else
      let s := s.queuePkt (s.buildPkt 0x34 11 (destDev move) c.part true (dataPayload tag off (d.take dataMax))) (some c.id)
      State.sendCopy s c move tag fuel (off + dataMax) (d.drop dataMax)

/-- A packet that serves command number `id` is unsent or unacknowledged. -/
def State.packetsOf (s : State) (id : Nat) : Bool :=
  s.net.out.any (fun p => p.cmd == some id) || s.net.snd.any fun x => x.held.any fun p => p.cmd == some id

/-- The copy goes on from chunk n, or is complete and MOVE_OPEN follows (R345 steps 2 and 3). -/
def State.moveCopy (s : State) (c : Cmd) (i : Nat) (params : Bytes) (remote n : Nat) : State :=
  let e := s.entry i
  let tag := moveTag c.id 0
  if e.status ≠ .parked then (s.releaseMove c).moveFails c i stWrongState
  else
    let runs := copyRuns e (moveArgs e params) n
    if runs.all fun x => x.2.2 == 0 then
      let s := s.sendSteward c.part 0xF1 (some c.id) (moveTag c.id 1) params
        ((e.moveFields (n - 1) (s.srcId c.src)).toBytes remote)
      s.setWait c.id (.transfer i params 2 (moveTag c.id 1) remote n)
    else
      let rd := s.readRuns (s.part c.part) runs
      if rd.2.2 then (rd.1.releaseMove c).moveFails c i stEccUncorrectable
      else
        let s := rd.1.each rd.2.1 fun s x => s.sendCopy c params tag (x.2.length / dataMax + 1) x.1 x.2
        s.setWait c.id (.transfer i params 1 tag remote (e.iqCount + 1))

/-- The destination has answered a Steward command of the move (R365). -/
def State.moveAnswer (s : State) (c : Cmd) (i : Nat) (params : Bytes) (phase remote n : Nat) (st : BitVec 16)
    (res : Bytes) : State :=
  if st ≠ stOk then s.moveFails c i st
  else if phase = 0 then
    let remote := fieldAt res 0 2
    let w : Wait := .transfer i params 1 (moveTag c.id 0) remote 0
    (s.setWait c.id w).moveCopy { c with wait := w } i params remote 0
  else if phase = 2 then
    if (s.entry i).status ≠ .parked then s.moveFails c i stWrongState
    else (s.moveAway i).finishCmd c.id stOk (leBytes 4 remote)
  else (s.setWait c.id (.transfer i params phase (moveTag c.id 0) remote n))

/-- The answer to a MOVE_RESERVE whose move has ended: the reservation that it names is freed (R345). -/
def State.orphanReply (s : State) (src : BitVec 12) (b : Bytes) : State :=
  let mine (x : Nat × Nat × Bytes) : Bool := (moveTag x.1 0).toNat == fieldAt b 2 2 && destDev x.2.2 == src
  match s.orphans.find? mine with
  | none => s
  | some x =>
    let s := { s with orphans := s.orphans.erase x }
    if fieldAt b 8 2 = stOk.toNat then
      s.sendSteward x.2.1 0xF2 none (moveTag x.1 2) x.2.2 (leBytes 4 (fieldAt (b.drop 16) 0 2))
    else s

/-- A completion for this device's Steward (Table 17.1): of the move command that waits for its tag. One with a status
that Table 0.6 does not list comes from no device and answers nothing (R13, log entry 79). -/
def State.stewardReply (s : State) (src : BitVec 12) (b : Bytes) : State :=
  let mine (c : Cmd) : Bool := listedStatus (BitVec.ofNat 16 (fieldAt b 8 2)) && (match c.wait with
    | .transfer _ params phase tag _ _ => phase != 1 && tag.toNat == fieldAt b 2 2 && destDev params == src
    | _ => false)
  match s.cmds.find? mine with
  | none => s.orphanReply src b
  | some c => match c.wait with
    | .transfer i params phase _ remote n =>
      s.moveAnswer c i params phase remote n (BitVec.ofNat 16 (fieldAt b 8 2)) (b.drop 16)
    | _ => s

/-- Commands whose packets have all been acknowledged go on: READ_MEMORY completes (R312), a copy goes on. -/
def State.packetsDone (s : State) : State :=
  s.each s.cmds fun s c =>
    if s.packetsOf c.id then s
    else match c.wait with
      | .readData st res => s.finishCmd c.id st res
      | .transfer i params 1 _ remote n => s.moveCopy c i params remote n
      | _ => s

/-- A packet that serves command number `id` will not be delivered: a move fails with the status (R337, R344). -/
def State.cmdLost (s : State) (id : Nat) (st : BitVec 16) : State :=
  match s.cmds.find? (·.id == id) with
  | none => s
  | some c => match c.wait with
    | .transfer i _ _ _ _ _ => (s.releaseMove c).moveFails c i st
    | _ => s

/-! ### Meanings -/

def execMoveStream (src : Src) (hdr : Hdr) (params : Bytes) (s : State) : Outcome :=
  .next (s.command 0x33 moveStreamSpec src hdr params)

def execMoveReserve (src : Src) (hdr : Hdr) (params : Bytes) (s : State) : Outcome :=
  .next (s.command 0xF0 moveReserveSpec src hdr params)

def execMoveOpen (src : Src) (hdr : Hdr) (params : Bytes) (s : State) : Outcome :=
  .next (s.command 0xF1 moveOpenSpec src hdr params)

def execMoveRelease (src : Src) (hdr : Hdr) (params : Bytes) (s : State) : Outcome :=
  .next (s.command 0xF2 moveReleaseSpec src hdr params)

/-- A reservation not completed within 1 s is freed (R345). -/
def execReservationTimeout (stream : Fin 4096) (s : State) : Outcome :=
  .next (s.when (s.entry stream.val).reserved.isSome fun s => s.freeReserved stream.val)

end Sys2Proof.Machine
end

