-- ==== Sys2Proof/Machine/Ropewalk.lean ====
section
/-! DEFINITION. DEFINE_ROPEWALK (R206 to R208, Tables 10.1 to 10.3). The descriptor stands at offset 4 of the
command's parameters. -/

namespace Sys2Proof.Machine

/-! ### The descriptor -/

def rwStageCount (d : Bytes) : Nat := fieldAt d 1 1
def rwEdgeCount (d : Bytes) : Nat := fieldAt d 2 2

/-- Stages as (first logical core, cores). -/
def rwStages (d : Bytes) : List (Nat × Nat) :=
  (List.range (rwStageCount d)).map fun s => (fieldAt d (32 + 4 * s) 2, fieldAt d (34 + 4 * s) 1 + 1)

/-- Edge e. -/
def rwEdge (d : Bytes) (e : Nat) : Edge :=
  let o := 224 + 32 * e
  { pfirst := fieldAt d o 2, pnum := fieldAt d (o + 2) 1 + 1, pport := fieldAt d (o + 3) 1, cfirst := fieldAt d (o + 4) 2,
    cnum := fieldAt d (o + 6) 1 + 1, cport := fieldAt d (o + 7) 1, slot := fieldAt d (o + 8) 2,
    unit := fieldAt d (o + 10) 2, rounds := fieldAt d (o + 12) 1, buf := fieldAt d (o + 16) 4 }

def rwEdges (d : Bytes) : List Edge := (List.range (rwEdgeCount d)).map (rwEdge d)

/-- rsvd fields of the descriptor. -/
def rwRsvd (d : Bytes) : Bool :=
  decide (fieldAt d 0 1 < 64) && decide (fieldAt d 9 1 ≤ 1) && fieldAt d 16 16 == 0 &&
    (List.range 48).all (fun s => fieldAt d (35 + 4 * s) 1 == 0 && (decide (s < rwStageCount d) || fieldAt d (32 + 4 * s) 4 == 0)) &&
    (List.range (rwEdgeCount d)).all fun e =>
      let o := 224 + 32 * e
      decide (fieldAt d (o + 3) 1 < 8) && decide (fieldAt d (o + 7) 1 < 8) && fieldAt d (o + 13) 3 == 0 &&
        fieldAt d (o + 20) 12 == 0

/-- The header obeys Table 10.1. -/
def rwHeaderOk (d : Bytes) : Bool :=
  let len := fieldAt d 10 2
  decide (1 ≤ rwStageCount d) && decide (rwStageCount d ≤ 48) && decide (rwEdgeCount d ≤ 512) &&
    decide (1 ≤ fieldAt d 4 1) && decide (fieldAt d 4 1 ≤ 128) && decide (1 ≤ fieldAt d 5 1) && decide (fieldAt d 5 1 ≤ 16) &&
    decide (1 ≤ fieldAt d 6 2) && decide (fieldAt d 6 2 ≤ 4096) && decide (fieldAt d 8 1 ≤ 64) &&
    (if fieldAt d 9 1 = 1 then decide (1 ≤ len) && decide (len ≤ 256) else len == 0 && fieldAt d 12 4 == 0)

/-- An edge obeys Table 10.3. -/
def Edge.ok (x : Edge) : Bool :=
  decide (x.pnum ≤ 64) && decide (x.cnum ≤ 64) && decide (4 ≤ x.slot) && decide (x.slot ≤ 16384) && x.slot % 4 == 0 &&
    (x.unit == 0 || (x.unit % 4 == 0 && x.slot % x.unit == 0)) && decide (2 ≤ x.rounds) && decide (x.rounds ≤ 16) &&
    x.buf % 64 == 0

/-! ### Placement (R206, R208) -/

/-- The logical cores of a run. -/
def coreRun (first n : Nat) : List Nat := (List.range n).map (first + ·)

/-- Logical cores of context c that lie in a stage of a defined Ropewalk. -/
def State.stagedCores (s : State) (c : Nat) : List Nat :=
  (s.ropesOf c).flatMap fun r => match s.rope r with
    | some x => x.stages.flatMap fun st => coreRun st.1 st.2
    | none => []

/-- The stage that holds cores first to first + n − 1, when one stage does. -/
def stageOf (stages : List (Nat × Nat)) (first n : Nat) : Option Nat :=
  stages.findIdx? fun st => decide (st.1 ≤ first) && decide (first + n ≤ st.1 + st.2)

/-- An edge's ends lie each in one stage, the consumers' not before the producers'. -/
def Edge.forward (stages : List (Nat × Nat)) (x : Edge) : Bool :=
  match stageOf stages x.pfirst x.pnum, stageOf stages x.cfirst x.cnum with
  | some a, some b => decide (a ≤ b)
  | _, _ => false

/-- Ports bound, as (logical core, port): a port has one direction. -/
def Edge.ports (x : Edge) : List (Nat × Nat) :=
  (coreRun x.pfirst x.pnum).map (fun i => (i, x.pport)) ++ (coreRun x.cfirst x.cnum).map fun i => (i, x.cport)

/-- No element twice. -/
def distinct {α : Type} [DecidableEq α] : List α → Bool
  | [] => true
  | x :: l => !l.contains x && distinct l

/-- Bytes of an edge's buffer. -/
def Edge.bufBytes (x : Edge) : Nat := x.rounds * x.pnum * x.slot

/-- Two edges share a consumer core and their buffers overlap. -/
def Edge.clash (x y : Edge) : Bool :=
  (coreRun x.cfirst x.cnum).any (fun i => decide (y.cfirst ≤ i) && decide (i < y.cfirst + y.cnum)) &&
    overlaps x.buf x.bufBytes y.buf y.bufBytes

/-- No two edge buffers overlap on one core. -/
def noClash : List Edge → Bool
  | [] => true
  | x :: l => l.all (fun y => !x.clash y) && noClash l

/-- The BAD_FIELD conditions of R208, for context x with share size `size`. -/
def State.ropeOk (s : State) (c : Nat) (x : Ctx) (size : Nat) (d : Bytes) : Bool :=
  let stages := rwStages d
  let edges := rwEdges d
  let cores := stages.flatMap fun st => coreRun st.1 st.2
  rwHeaderOk d && edges.all Edge.ok && cores.all (fun i => decide (i < x.cores.length)) &&
    stages.all (fun st => decide (st.2 ≤ 64)) && distinct (cores ++ s.stagedCores c) && edges.all (Edge.forward stages) &&
    distinct (edges.flatMap Edge.ports) && edges.all (fun e => decide (e.buf + e.bufBytes ≤ size)) && noClash edges

/-- The Ropewalk that a descriptor defines for context c. -/
def ropeOfDesc (c : Nat) (d : Bytes) : Rope :=
  { ctx := c, stages := rwStages d, edges := rwEdges d, bmax := fieldAt d 4 1, inflight := fieldAt d 5 1,
    steps := fieldAt d 6 2, samples := fieldAt d 8 1, fb := fieldAt d 9 1 == 1, fbLen := fieldAt d 10 2,
    fbOff := fieldAt d 12 4 }

/-- Defined Ropewalks. -/
def State.ropeCount (s : State) : Nat := (s.ropes.filter fun x => x.2.isSome).length

/-- The checks of R208, in order, and the definition. -/
def defineBody (s : State) (r : Req) : CmdRes :=
  let d := r.p.drop 4
  let id := fieldAt d 0 1
  onContext (fun s c x =>
    if x.faulted || x.retiring then .done s stWrongState []
    else if (s.rope id).isSome ∨ 64 ≤ s.ropeCount then .done s stNoRopewalk []
    else
      let size := match x.cores.head? with
        | some gj => s.shareSize gj.1
        | none => 0
      if !s.ropeOk c x size d then .done s stBadField []
      else .done ((s.setRope id (some (ropeOfDesc c d))).setReg (ldgBase + 0x400 + 4 * id) 0) stOk []) s r

def defineRopewalkSpec : CmdSpec :=
  { length := fun p => decide (228 ≤ p.length) && p.length == 228 + 32 * fieldAt p 6 2
    reserved := fun p => zeroAt [(1, 3)] p && rwRsvd (p.drop 4)
    body := defineBody }

def execDefineRopewalk (src : Src) (hdr : Hdr) (params : Bytes) (s : State) : Outcome :=
  .next (s.command 0x24 defineRopewalkSpec src hdr params)

end Sys2Proof.Machine
end

