-- ==== Sys2Proof/Machine/Steward.lean ====
section
/-! DEFINITION. The Steward takes received commands and starts delayed ones (R38, R308, R325, R348, R351, R353,
R356, Table 18.3). -/

namespace Sys2Proof.Machine

/-- The assigned opcodes (Table 18.3). -/
def specOf (op : Nat) : Option CmdSpec :=
  match op with
  | 0x01 => some identifySpec
  | 0x02 => some stageReportSpec
  | 0x03 => some floorPlanSpec
  | 0x10 => some createPartitionSpec
  | 0x11 => some destroyPartitionSpec
  | 0x12 => some resetUnitSpec
  | 0x13 => some selfTestSpec
  | 0x20 => some loadImageSpec
  | 0x21 => some admitContextSpec
  | 0x22 => some retireContextSpec
  | 0x23 => some setSharesSpec
  | 0x24 => some defineRopewalkSpec
  | 0x30 => some openStreamSpec
  | 0x31 => some parkStreamSpec
  | 0x32 => some unparkStreamSpec
  | 0x33 => some moveStreamSpec
  | 0x34 => some closeStreamSpec
  | 0x40 => some bindOutputSpec
  | 0x41 => some slotMaskSpec
  | 0x42 => some setTimebaseSpec
  | 0x43 => some aesOutSpec
  | 0x44 => some aesInSpec
  | 0x50 => some writeMemorySpec
  | 0x51 => some readMemorySpec
  | 0x52 => some fillMemorySpec
  | 0x53 => some signalSyncSpec
  | 0x54 => some waitSyncSpec
  | 0x55 => some fenceSpec
  | 0x60 => some readRegisterSpec
  | 0x61 => some writeRegisterSpec
  | 0x62 => some getCountersSpec
  | 0x70 => some attestSpec
  | 0x71 => some packageSpec
  | 0x72 => some ownerKeySpec
  | 0x73 => some patchSpec
  | 0x74 => some provenanceSpec
  | 0x75 => some unlockSpec
  | 0x80 => some discoverSpec
  | 0x81 => some setFabricQuotaSpec
  | 0xF0 => some moveReserveSpec
  | 0xF1 => some moveOpenSpec
  | 0xF2 => some moveReleaseSpec
  | _ => none

/-- The header that the bytes of a command hold (Table 18.1); bytes that are missing read as zero. -/
def headerOf (b : Bytes) : Hdr :=
  { form := bitOf (fieldAt b 1 1) 0, tag := BitVec.ofNat 16 (fieldAt b 2 2), part := Fin.ofNat 16 (fieldAt b 4 1),
    start := BitVec.ofNat 48 (fieldAt b 8 6) }

/-- LENGTH agrees with the bytes received (R351). -/
def lengthOk (b : Bytes) : Bool := decide (16 ≤ b.length) && fieldAt b 6 2 == b.length - 16

/-- rsvd fields of the header, and the packet's partition (R308, Table 18.1). -/
def headerRsvd (part : Option Nat) (b : Bytes) : Bool :=
  decide (fieldAt b 1 1 ≤ 1) && decide (fieldAt b 4 1 ≤ 15) && zeroAt [(5, 1), (14, 2)] b &&
    (match part with
     | some p => p == fieldAt b 4 1 % 16
     | none => true)

/-- A packet command leaves the receive buffer: its sender is owed the credits (R335). -/
def State.oweCmd (s : State) (c : RxCmd) : State :=
  match c.src with
  | .dev d => s.owe d false 0 (32 + c.bytes.length)
  | .spur => s.owe s.net.id true 0 (32 + c.bytes.length)
  | .i3c => s

/-- The Steward takes the oldest received command (R351, R353). -/
def State.receiveCmd (s : State) : State :=
  match s.rx with
  | [] => s
  | c :: rest =>
    if 512 ≤ s.cmds.length then s
    else
      let s := { s with rx := rest }.oweCmd c
      let op := fieldAt c.bytes 0 1
      s.takeCmd op (specOf op) c.src (headerOf c.bytes) (c.bytes.drop 16) (lengthOk c.bytes) (headerRsvd c.part c.bytes)

/-- The delayed command to start next: the earliest T the counter has reached, in order of receipt (R38). -/
def State.dueCmd (s : State) : Option Delayed :=
  (s.delayed.filter fun d => decide (d.start.toNat ≤ s.now)).foldl (fun best d => match best with
    | none => some d
    | some b => if d.start < b.start then some d else some b) none

/-- A delayed command starts (R38, R356). -/
def State.startDelayed (s : State) : State :=
  match s.dueCmd with
  | none => s
  | some d =>
    if 512 ≤ s.cmds.length then s
    else match specOf d.opcode with
      | none => s
      | some sp =>
        { s with delayed := s.delayed.filter (·.id != d.id) }.startCmd sp
          { id := d.id, src := d.src, op := d.opcode, hdr := d.hdr, p := d.params }

def execCommandReceive (s : State) : Outcome := .next s.receiveCmd

def execDelayedStart (s : State) : Outcome := .next s.startDelayed

end Sys2Proof.Machine
end

