-- ==== Sys2Proof/Machine/Fabric.lean ====
section
/-! DEFINITION. The Drover: discovery, ring states, ids and quotas (R328, R329, R334, R339 to R342). -/

namespace Sys2Proof.Machine

/-! ### Records of ROLL and CALL (Table 17.3) -/

/-- Rate of a transmit port in Mbps, rounded down (R300). -/
def State.rateMbps (s : State) (p : Nat) : Nat :=
  let r := (s.port p).rate + 1
  if s.phyMode.getLsbD p then r * 36000 / 7 else r * 2000

/-- This device's record. -/
def State.ownRecord (s : State) : Bytes :=
  let n := s.net
  leBytes 8 Config.serial.toNat ++ leBytes 2 n.idWord ++
    leBytes 1 (b2n n.xWhole + 2 * b2n n.yWhole + 4 * b2n n.orgRow + 8 * b2n n.orgCol) ++ leBytes 1 s.tb.frameSel.val ++
    leBytes 4 s.deviceQuota ++ leBytes 8 n.minSer.toNat ++ leBytes 2 (s.rateMbps 3) ++ leBytes 2 (s.rateMbps 4) ++ leBytes 4 0

def rSerial (b : Bytes) : Nat := fieldAt b 0 8
def rValid (b : Bytes) : Bool := bitOf (fieldAt b 8 2) 12
def rX (b : Bytes) : Nat := fieldAt b 8 2 % 64
def rY (b : Bytes) : Nat := fieldAt b 8 2 / 64 % 64
def rFlag (b : Bytes) (i : Nat) : Bool := bitOf (fieldAt b 10 1) i
def rFsel (b : Bytes) : Nat := fieldAt b 11 1 % 8
def rMinSer (b : Bytes) : Nat := fieldAt b 16 8
def rRate (b : Bytes) (ring : Nat) : Nat := fieldAt b (24 + 2 * ring) 2

/-- A payload of Table 17.3. -/
def rollPayload (origin ring round : Nat) (records : List Bytes) : Bytes :=
  leBytes 8 origin ++ leBytes 1 ring ++ leBytes 1 round ++ leBytes 1 records.length ++ leBytes 5 0 ++ records.flatten

def rollOrigin (b : Bytes) : Nat := fieldAt b 0 8
def rollRound (b : Bytes) : Nat := fieldAt b 9 1
def rollCount (b : Bytes) : Nat := fieldAt b 10 1
def rollRecords (b : Bytes) : List Bytes := (List.range (rollCount b)).map fun i => slice b (16 + 32 * i) 32

/-- The payload is a list of 1 to 64 records for this ring. -/
def rollOk (ring : Nat) (b : Bytes) : Bool :=
  decide (1 ≤ rollCount b) && decide (rollCount b ≤ 64) && b.length == 16 + 32 * rollCount b &&
    fieldAt b 8 1 % 2 == ring && decide (1 ≤ rollRound b)

/-! ### Ring states of the round -/

def Net.ring (n : Net) (r : Nat) : RingDisc := Tbl.get {} n.rings r
def State.modRing (s : State) (r : Nat) (f : RingDisc → RingDisc) : State :=
  s.modNet fun n => { n with rings := Tbl.set {} n.rings r (f (n.ring r)) }

/-- Both ports of a ring wait for a peer: a torus of one on that axis (R328). -/
def State.ringAlone (s : State) (r : Nat) : Bool := (s.port r).state == 3 && (s.port (3 + r)).state == 3

/-- Both ports of a ring are UP. -/
def State.ringUp (s : State) (r : Nat) : Bool := (s.port r).state == 2 && (s.port (3 + r)).state == 2

/-! ### Ids (Table 17.4) -/

/-- The member of lowest serial among those that satisfy a test. -/
def lowestMember (l : List Bytes) (f : Bytes → Bool) : Option Bytes :=
  (l.filter f).foldl (fun best b => match best with
    | none => some b
    | some c => if rSerial b < rSerial c then some b else some c) none

/-- The id is given up. -/
def givesUp (me x y : Nat) (xl yl : List Bytes) : Bool :=
  let rival (b : Bytes) : Bool := rValid b && decide (rSerial b < me)
  xl.any (fun b => rival b && rX b == x) || yl.any (fun b => rival b && rY b == y) ||
    (match lowestMember xl rValid with | some b => rY b != y | none => false) ||
    (match lowestMember yl rValid with | some b => rX b != x | none => false)

/-- Hop count in ring order to the member with serial `me` from the first one that satisfies a test. -/
def hopsFrom (l : List Bytes) (f : Bytes → Bool) (me : Nat) : Option Nat :=
  match l.findIdx? f, l.findIdx? fun b => rSerial b == me with
  | some i, some k => some ((k + l.length - i) % l.length)
  | _, _ => none

/-- The coordinate an unassigned device takes: from the valid members of one ring, else by hops on the other. -/
def takeCoord (me : Nat) (valid hops : List Bytes) (coord : Bytes → Nat) (org : Nat) : Option Nat :=
  match lowestMember valid fun b => rValid b && rSerial b != me with
  | some b => some (coord b)
  | none => hopsFrom hops (fun b => rFlag b org) me

/-- The id after a round, with the relay mark (R341); a broken ring has no records, so what needs its CALL finds none. -/
def State.nextId (s : State) : BitVec 12 × Bool × Bool :=
  let n := s.net
  let me := Config.serial.toNat
  let xl := (n.ring 0).call
  let yl := (n.ring 1).call
  if n.idValid && !givesUp me (n.id.toNat % 64) (n.id.toNat / 64) xl yl then (n.id, true, false)
  else match takeCoord me yl xl rX 3, takeCoord me xl yl rY 2 with
    | some x, some y =>
      if x = 63 ∧ y = 63 then (n.id, false, true) else (BitVec.ofNat 12 (x + 64 * y), true, false)
    | _, _ => (n.id, false, n.relay)

/-- Own packets that wait or are held take the new id for the old, and those for the host are addressed to it; the spur's
spaces go by it too (DEDUCED, log entry 34). -/
def Net.renamed (n : Net) (id : BitVec 12) : Net :=
  let named (spur : Bool) (p : Pkt) : Pkt := { p with src := if p.src = n.id then id else p.src, dst := if spur then id else p.dst }
  let fix (o : OutPkt) : OutPkt := { o with pkt := named o.spur o.pkt }
  { n with id := id, out := n.out.map fix, retx := n.retx.map fix, ctl := n.ctl.map fun x => (x.1, named (x.1 == some 2) x.2),
           snd := n.snd.map fun (x : Snd) => { x with dst := if x.spur then id else x.dst, held := x.held.map fix } }

/-- The id changes: every sequence space opens again, the host is told, and what was held for an id goes out (R339,
R342, R354). -/
def State.changeId (s : State) (id : BitVec 12) (valid relay : Bool) : State :=
  let s := s.modNet fun n => { (n.renamed id).reopenAll with idValid := valid, relay := relay }
  (s.setBits (fabBase + 0x34) 1).hello.releaseHeld

/-! ### Rounds (R340 to R342) -/

/-- What a CALL teaches of the origin: the lowest serial, and whether its device is on the own rings. Of a ring without a
CALL in this round what was known stays, unless the origin is now another. -/
def State.learn (s : State) : State :=
  s.modNet fun n =>
    let xl := (n.ring 0).call
    let yl := (n.ring 1).call
    let m := (xl ++ yl).foldl (fun a b => min a (rMinSer b)) n.minSer.toNat
    let has (l : List Bytes) (old : Bool) : Bool :=
      if l.isEmpty then old && m == n.minSer.toNat else l.any fun b => rSerial b == m
    { n with minSer := BitVec.ofNat 64 m, orgRow := has xl n.orgRow, orgCol := has yl n.orgCol }

/-- The coordinates of a record count: those of its id, or the relay's, 63 (R329). -/
def rPlaced (b : Bytes) : Bool := rValid b || bitOf (fieldAt b 8 2) 13
def rCoord (coord : Bytes → Nat) (b : Bytes) : Nat := if rValid b then coord b else 63

/-- Ring maps from the round's CALLs: rows from the Y ring's, columns from the X ring's; a broken ring keeps the last
states (R340). -/
def State.mapRings (s : State) : State :=
  let n := s.net
  let bitsOf (l : List Bytes) (coord : Bytes → Nat) (flag : Nat) : W64 :=
    BitVec.ofNat 64 (maskOf ((l.filter fun b => rPlaced b && rFlag b flag).map (rCoord coord)).eraseDups)
  let x := if (n.ring 1).call.isEmpty then n.xMap else bitsOf (n.ring 1).call rY 0
  let y := if (n.ring 0).call.isEmpty then n.yMap else bitsOf (n.ring 0).call rX 1
  match n.coords with
  | none => s.setMaps x y
  | some (cx, cy) => s.setMaps (setBit64 x cy n.xWhole) (setBit64 y cx n.yWhole)

/-- Length of a ring, from its CALL. -/
def ringLength (call : List Bytes) (old : Nat) : Nat := if call.isEmpty then max 1 old else call.length

/-- Device quota by R334, for the ring sizes and the records of both rings. -/
def State.computeQuota (s : State) (nx ny : Nat) : Nat :=
  let n := s.net
  let rates (r : Nat) : List Nat := match (n.ring r).call with
    | [] => [s.rateMbps (3 + r)]
    | l => l.map fun b => rRate b r
  let low := (rates 0 ++ rates 1).foldl min 65535
  -- R = low x 125000 bytes a second x F / TB.RATE, and TB.RATE is in 1/256 Hz
  64 * min (262144 / (64 * nx))
    (9 * low * 125000 * s.frameF * 256 / (10 * s.tb.rate.toNat * nx * ny * 64))

/-- DISCOVER commands complete when the discovery settles or stops (R370). -/
def State.endDiscovers (s : State) : State :=
  s.each (s.cmds.filter (·.wait == .discover)) fun s c =>
    s.finishCmd c.id stOk (leBytes 1 s.net.disc ++ leBytes 1 s.net.rounds ++ leBytes 2 0)

/-- A CALL shows another F than the own (R342). -/
def State.otherF (s : State) (call : List Bytes) : Bool := call.any fun b => rFsel b != s.tb.frameSel.val
def State.noteF (s : State) (call : List Bytes) : State :=
  if s.otherF call then (s.modNet fun n => { n with fMismatch := true }).setBits (fabBase + 0x34) 0x10 else s

/-- The discovery settles (R342). -/
def State.settle (s : State) : State :=
  let n := s.net
  let nx := ringLength (n.ring 0).call n.nx
  let ny := ringLength (n.ring 1).call n.ny
  let differ := s.otherF ((n.ring 0).call ++ (n.ring 1).call)
  let q := s.computeQuota nx ny
  let s := s.modNet fun n => { n with disc := 2, rounds := n.round, nx := nx, ny := ny, quota := q, fMismatch := differ }
  s.hello.endDiscovers

/-- The discovery stops unsettled after round 8 (R342); the device quota is set all the same (R334). -/
def State.unsettled (s : State) : State :=
  let n := s.net
  let q := s.computeQuota (ringLength (n.ring 0).call n.nx) (ringLength (n.ring 1).call n.ny)
  ((s.modNet fun n => { n with disc := 3, rounds := n.round, quota := q }).setBits (fabBase + 0x34) 8).hello.endDiscovers

/-- Once both rings are done, the round ends: Table 17.4, the ring maps, and what follows (R341, R342). A device that holds
no place settles from the third round on, when ids have been taken from a cold start; one that has settled is brought
into a newer round by any member that changed (DEDUCED, log entry 42). -/
def State.endRound (s : State) : State :=
  if !((s.net.ring 0).done && (s.net.ring 1).done) then s
  else
    let n := s.net
    let t := s.nextId
    let changed := t.1 != n.id || t.2.1 != n.idValid || t.2.2 != n.relay
    let s := if changed then s.changeId t.1 t.2.1 t.2.2 else s
    let s := s.mapRings
    if !changed && (n.idValid || n.relay || decide (3 ≤ n.round)) then s.settle
    else if 8 ≤ n.round then s.unsettled
    else s.modNet fun n => n.beginRound (n.round + 1)

/-- A ring's part in the round is over, with its CALL's records; none of a broken ring. -/
def State.ringDone (s : State) (r : Nat) (call : List Bytes) (whole : Bool) : State :=
  (((s.modRing r fun _ => { done := true, call := call }).setWhole r whole).noteF call).learn.endRound

/-! ### Rolls (R340) -/

/-- Send the own roll. -/
def State.startRoll (s : State) (r : Nat) : State :=
  (s.drover r 0 0xFFF (rollPayload Config.serial.toNat r s.net.round [s.ownRecord])).modRing r fun x =>
    { x with mine := true }

/-- Take up ring r: roll it, or be done with it at once. -/
def State.rollRing (s : State) (r : Nat) : State :=
  if s.ringUp r then s.startRoll r
  else if s.ringAlone r then s.ringDone r [s.ownRecord] false
  else s.ringDone r [] false

/-- The next roll of the round: the X ring, then the Y ring. -/
def State.nextRoll (s : State) : State :=
  let x := s.net.ring 0
  let y := s.net.ring 1
  if s.net.disc ≠ 1 then s
  else if !x.done then if x.mine || x.wait then s else s.rollRing 0
  else if y.mine || y.wait then s else s.rollRing 1

/-- A Drover packet of a newer round starts a discovery, brings the one running to its round, or takes up again one that
this device had left (R340); none while the device is not ready. -/
def State.joinRound (s : State) (k : Nat) : Option State :=
  if !s.ready then none
  else if s.net.disc ≠ 1 then
    some ((if 2 ≤ s.net.disc ∧ s.net.rounds < k then s else s.startDiscovery).modNet fun n => n.beginRound k)
  else if s.net.round < k then some (s.modNet fun n => n.beginRound k)
  else if k < s.net.round then none
  else some s

/-- A ROLL's or CALL's payload with this device's record appended; one that is no such list, is full or has the record
stays as it is. -/
def State.joined (s : State) (r : Nat) (b : Bytes) : Bytes :=
  if !rollOk r b || rollCount b == 64 || (rollRecords b).any (fun x => rSerial x == Config.serial.toNat) then b
  else rollPayload (rollOrigin b) r (rollRound b) (rollRecords b ++ [s.ownRecord])

/-- A ROLL on ring r (R340); until ready it only goes on, with this device's record (R392). -/
def State.rollArrives (s : State) (r : Nat) (b : Bytes) : State :=
  if !rollOk r b then s.discardOn r
  else if !s.ready then if rollOrigin b = Config.serial.toNat then s else s.drover r 0 0xFFF (s.joined r b)
  else match s.joinRound (rollRound b) with
    | none => s
    | some s =>
      let me := Config.serial.toNat
      let x := s.net.ring r
      if rollOrigin b = me then
        if x.mine then s.drover r 1 0xFFF b else s
      else if x.mine && decide (me < rollOrigin b) then s
      else if rollCount b = 64 then s.discardOn r
      else
        (s.drover r 0 0xFFF (s.joined r b)).modRing r
          fun x => { x with mine := false, wait := !x.done }

/-- A CALL on ring r (R340, R341): it is copied, and at its origin the roll is complete; one that comes late shows the ring
whole all the same. Forwarding is the caller's. -/
def State.callArrives (s : State) (r : Nat) (b : Bytes) : State :=
  if !rollOk r b then s.discardOn r
  else match s.joinRound (rollRound b) with
    | none => if s.ready then s.setWhole r true else s
    | some s =>
      if rollOrigin b = Config.serial.toNat then
        if (s.net.ring r).mine then (s.bump (fabBase + 0x38) 0 32 1).ringDone r (rollRecords b) true else s
      else if (s.net.ring r).done && !(s.net.ring r).call.isEmpty then s
      else s.ringDone r (rollRecords b) true

/-! ### Meanings -/

def execDiscovery (s : State) : Outcome := .next s.nextRoll

def execRoll (port : Fin 2) (payload : Bytes) (s : State) : Outcome := .next (s.rollArrives port.val payload)

/-- No CALL came within two lap times (R340). -/
def execCallTimeout (ring : Fin 2) (s : State) : Outcome :=
  let x := s.net.ring ring.val
  .next (s.when (s.net.disc == 1 && (x.mine || x.wait)) fun s => s.ringDone ring.val [] false)

end Sys2Proof.Machine
end

