-- ==== Sys2Proof/Machine/Fail.lean ====
section
/-! DEFINITION. Units that fail in the field (R383, R384, R443); what a failure does is State.unitFailure. -/

namespace Sys2Proof.Machine

/-- The field-failure conditions apply: stage 4 has ended (R443). -/
def State.watching (s : State) : Bool := decide (2 ≤ (s.stage 4).result)

/-- SYS.SRAM_ECC: CORR in the lower half, UNCORR in the upper (R383, R394). -/
def State.sramEcc (s : State) (uncorr : Bool) : State := s.bump 0x200 (if uncorr then 16 else 0) 16 1

/-- 128 bytes of which nothing is known: eight free values. -/
def State.drawLine (s : State) : Bytes × State :=
  (List.range 8).foldl (fun (x : Bytes × State) _ =>
    let r := x.2.draw
    (x.1 ++ leBytes 16 r.1.toNat, r.2)) ([], s)

/-- An uncorrectable error in the home-cache line at physical address `phys` (R383): a clean line is dropped, to be
read again from DRAM; a dirty one becomes an uncorrectable DRAM line (R99). What it then reads as is free. -/
def State.cacheLineFails (s : State) (phys : Nat) : State :=
  let ch := phys / 2 ^ 31
  let line := phys % 2 ^ 31 / 128
  let hit (l : CacheLine) : Bool := l.chan == ch && l.line == line
  match (s.clu (ch / 8)).cache.find? hit with
  | none => s
  | some l =>
    let s := (s.sramEcc true).modClu (ch / 8) fun k => { k with cache := k.cache.filter fun x => !hit x }
    if l.dirty then
      let r := s.drawLine
      r.2.lineEvent { line := phys / 128, err := .uncorrectable r.1 }
    else s

/-- SRAM_ECC_ERROR (R383). -/
def execSramEccError (spot : SramSpot) (s : State) : Outcome :=
  match spot with
  | .corrected => .next (s.sramEcc false)
  | .cacheLine phys =>
    if 2 ^ 39 ≤ phys ∨ chanBytes ≤ phys % 2 ^ 31 then .fault .unassignedPhysical
    else .next (s.when s.watching fun s => s.cacheLineFails phys)
  | .unit u => .next (s.when (s.watching && s.unitState u == 0) fun s => (s.sramEcc true).unitFailure u)

/-- CORE_PROBE (R384): a present core that does not answer within 100 µs has failed. -/
def execCoreProbe (core : Fin 2048) (answered : Bool) (s : State) : Outcome :=
  .next (s.when (s.watching && !answered) fun s => s.unitFailure (.core core))

/-- A Mill with work, or a narrow engine with a request, may overrun its limit (Table 19.5). -/
def State.mayOverrun (s : State) (u : UnitId) : Bool :=
  match u with
  | .core _ => false
  | .mill g => (s.clu (g.val / 8)).millQ.any (·.started)
  | .narrow n => !(s.clu n.val).narQ.isEmpty

/-- UNIT_TIMEOUT (R384): a Mill granule or a narrow request that overran. -/
def execUnitTimeout (u : UnitId) (s : State) : Outcome :=
  .next (s.when (s.watching && s.mayOverrun u) fun s => s.unitFailure u)

end Sys2Proof.Machine
end

