-- ==== Sys2Proof/Machine/Front.lean ====
section
/-! DEFINITION. The front-end words of Jatrum (R140 to R144, R187 to R189) and the dispatch faults. -/

namespace Sys2Proof.Machine

/-- Second operand of the alu layout: s_S2, or IMM when IM is 1 (R140). -/
def aluSecond (h : ShareSt) (w : Nat) : Word :=
  if bitOf w 35 then BitVec.ofNat 32 (fld w 0 32) else h.sReg (fld w 36 5)

/-- An alu word: s_D ← f s_S1 second (R133, R140). -/
def aluWord (w : Nat) (f : Word → Word → Word) (h : ShareSt) : FrontRes :=
  .ok (h.setS (fld w 46 5) (f (h.sReg (fld w 41 5)) (aluSecond h w)))

/-- A pcmp word: p_PD ← f s_S1 operand (R140). -/
def cmpWord (w : Nat) (f : Word → Word → Bool) (h : ShareSt) : FrontRes :=
  let b := if bitOf w 37 then BitVec.ofNat 32 (fld w 0 32) else h.sReg (fld w 38 5)
  .ok (h.setP (fld w 48 3) (f (h.sReg (fld w 43 5)) b))

/-- A plog word: p_PD ← f p_PA p_PB (R140). -/
def logWord (w : Nat) (f : Bool → Bool → Bool) (h : ShareSt) : FrontRes :=
  .ok (h.setP (fld w 48 3) (f (h.pReg (fld w 45 3)) (h.pReg (fld w 42 3))))

/-- Bits [4:0] of a shift amount. -/
def shiftAmount (b : Word) : Nat := b.toNat % 32

/-- A taken branch to word t: it closes the open loops whose body does not contain t (R141). -/
def ShareSt.branch (h : ShareSt) (t : Nat) : ShareSt :=
  { h with loops := h.loops.dropWhile fun l => decide (t < l.first) || decide (l.last < t), pc := t }

/-- Open a loop over words [first, last] for n iterations, or skip it when n is 0 (R142). -/
def ShareSt.openLoop (h : ShareSt) (first last n : Nat) (xs : Option Nat) (fused : Bool) : ShareSt :=
  if n = 0 then h.advance last
  else
    let h := { h with loops := { first := first, last := last, left := n, iter := 0, xs := xs, fused := fused } :: h.loops,
                      pc := first }
    match xs with
    | some x => h.setS x 0
    | none => h

/-- A body to word `last` does not fit the program or the enclosing body (R142). -/
def ShareSt.bodyTooLong (h : ShareSt) (last : Nat) : Bool :=
  decide (h.program.length ≤ last) || (match h.loops with
    | l :: _ => decide (l.last < last)
    | [] => false)

/-- br (R141). -/
def brWord (w : Nat) (h : ShareSt) : FrontRes :=
  let t : Int := (h.pc : Int) + signed 24 (fld w 0 24)
  if 0 ≤ t ∧ t < (h.program.length : Int) then .go (h.branch t.toNat) else .fault 0x30

/-- lp.begin (R142). -/
def lpBeginWord (w : Nat) (h : ShareSt) : FrontRes :=
  let last := h.pc + fld w 27 12
  let n := if bitOf w 50 then fld w 0 16 else (h.sReg (fld w 45 5)).toNat
  let xs := if bitOf w 39 then some (fld w 40 5) else none
  if n ≠ 0 ∧ 4 ≤ h.loops.length then .fault 0x31
  else if h.bodyTooLong last then .fault 0x32
  else .go (h.openLoop (h.pc + 1) last n xs false)

/-- sys.rd (Table 7.6). -/
def sysRdWord (s : State) (site : Site) (w : Nat) (h : ShareSt) : FrontRes :=
  let d := fld w 46 5
  let part := match (s.clu (site.core.val / 64)).part with | some p => p | none => 0
  let put (n : Nat) : FrontRes := .ok (h.setS d (BitVec.ofNat 32 n))
  match fld w 40 6 with
  | 0 => put site.core.val
  | 1 => put (site.core.val / 64)
  | 2 => put site.share.val
  | 3 => put (h.ctx.getD 0)
  | 4 => put h.logical
  | 5 => put part
  | 6 => .ok (h.setS d (s.tb.count.truncate 32))
  | 7 => put (match h.ctx.bind s.ctx with | some x => x.timeHi.toNat | none => 0)
  | _ => put s.generation.toNat

/-! ### Fused commands (R187, R188) -/

/-- Words of the program from index i, up to but not including the next fuse.end; none without one. -/
def fuseBody : List W64 → Option (List W64)
  | [] => none
  | w :: ws => if wOp w.toNat = 0xD1 then some [] else (fuseBody ws).map (w :: ·)

/-- Queues of the engine words of a body, in order. -/
def bodyQueues (b : List W64) : List Nat := b.filterMap fun w => queueOf (wOp w.toNat)

/-- The body holds its stages in order, each declared stage with at least one word and each engine in
one stage (R188): its queues are the declared ones, each repeated. -/
def stagesOk (engines : List Nat) (qs : List Nat) : Bool :=
  engines.eraseDups.length == engines.length &&
    engines.all qs.contains &&
    qs == (engines.map fun e => qs.filter (· == e)).flatten

/-- fuse.begin (R187, R188). -/
def fuseBeginWord (w : Nat) (h : ShareSt) : FrontRes :=
  let engines := (List.range (fld w 34 2 + 1)).map fun i => fld w (26 + 2 * i) 2
  let n := if bitOf w 25 then fld w 8 12 else (h.sReg (fld w 20 5)).toNat
  let xs := if bitOf w 2 then some (fld w 3 5) else none
  match fuseBody (h.program.drop (h.pc + 1)) with
  | none => .fault 0x82
  | some body =>
    let last := h.pc + body.length
    let qs := bodyQueues body
    if n ≠ 0 ∧ 4 ≤ h.loops.length then .fault 0x82
    else if h.bodyTooLong last then .fault 0x82
    else if !stagesOk engines qs then .fault 0x80
    else
      let wait := if wWE w then some (wWK w, (h.sReg (wWS w)).truncate 16) else none
      let f : Fused := { id := h.fuseNext, engines := engines, words := engines.map fun e => (qs.filter (· == e)).length,
                         iters := n, wait := wait }
      .go ({ h with fused := h.fused ++ [f], fuseNext := h.fuseNext + 1 }.openLoop (h.pc + 1) last n xs true)

/-- fuse.end (R187): the command is closed; its ticket posts when every word of every iteration has
finished. Without an open command it posts at once (log entry 21). -/
def fuseEndWord (w : Nat) (h : ShareSt) : FrontRes :=
  match h.fused.find? fun f => !f.closed with
  | none => .ok (match wPost w with | some k => h.post k | none => h)
  | some f => .ok (h.setFused { f with closed := true, post := wPost w })

/-! ### Meanings, one per row -/

def execNop (at_ : Site) (w : W64) (s : State) : Outcome :=
  .next (s.dispatchFront at_ w 0x00 fun h => .ok h)

/-- Dispatch of the context ends on this core (R144). -/
def execStop (at_ : Site) (w : W64) (s : State) : Outcome :=
  .next (s.dispatchFront at_ w 0x01 fun h => .ok { h with stopped := true })

def execBr (at_ : Site) (w : W64) (s : State) : Outcome :=
  .next (s.dispatchFront at_ w 0x02 (brWord w.toNat))

def execLpBegin (at_ : Site) (w : W64) (s : State) : Outcome :=
  .next (s.dispatchFront at_ w 0x03 (lpBeginWord w.toNat))

/-- Dispatched only once its ticket is ready (ShareSt.heldBack); it then does nothing more (R140). -/
def execTkWait (at_ : Site) (w : W64) (s : State) : Outcome :=
  .next (s.dispatchFront at_ w 0x04 fun h => .ok h)

/-- A sys.rd of SEL 6 executes: it latches the time's high part for its context (R143). -/
def State.latchesTime (s : State) (site : Site) (w : W64) : Bool :=
  let h := s.share site.core.val site.share.val
  s.dispatches site w && wOp w.toNat == 0x05 && wordOk w.toNat && h.fusedLoop.isNone && !h.guardOff w.toNat &&
    fld w.toNat 40 6 == 6

def execSysRd (at_ : Site) (w : W64) (s : State) : Outcome :=
  let t := s.dispatchFront at_ w 0x05 (sysRdWord s at_ w.toNat)
  .next (if s.latchesTime at_ w then match (s.share at_.core.val at_.share.val).ctx with
      | some c => t.modCtx c fun x => { x with timeHi := (s.tb.count >>> 32).truncate 16 }
      | none => t
    else t)

def execSAdd (at_ : Site) (w : W64) (s : State) : Outcome :=
  .next (s.dispatchFront at_ w 0x10 (aluWord w.toNat fun a b => a + b))

def execSSub (at_ : Site) (w : W64) (s : State) : Outcome :=
  .next (s.dispatchFront at_ w 0x11 (aluWord w.toNat fun a b => a - b))

def execSMul (at_ : Site) (w : W64) (s : State) : Outcome :=
  .next (s.dispatchFront at_ w 0x12 (aluWord w.toNat fun a b => a * b))

def execSAnd (at_ : Site) (w : W64) (s : State) : Outcome :=
  .next (s.dispatchFront at_ w 0x13 (aluWord w.toNat fun a b => a &&& b))

def execSOr (at_ : Site) (w : W64) (s : State) : Outcome :=
  .next (s.dispatchFront at_ w 0x14 (aluWord w.toNat fun a b => a ||| b))

def execSXor (at_ : Site) (w : W64) (s : State) : Outcome :=
  .next (s.dispatchFront at_ w 0x15 (aluWord w.toNat fun a b => a ^^^ b))

def execSShl (at_ : Site) (w : W64) (s : State) : Outcome :=
  .next (s.dispatchFront at_ w 0x16 (aluWord w.toNat fun a b => a <<< shiftAmount b))

def execSShr (at_ : Site) (w : W64) (s : State) : Outcome :=
  .next (s.dispatchFront at_ w 0x17 (aluWord w.toNat fun a b => a >>> shiftAmount b))

def execSSra (at_ : Site) (w : W64) (s : State) : Outcome :=
  .next (s.dispatchFront at_ w 0x18 (aluWord w.toNat fun a b => a.sshiftRight (shiftAmount b)))

def execSMin (at_ : Site) (w : W64) (s : State) : Outcome :=
  .next (s.dispatchFront at_ w 0x19 (aluWord w.toNat fun a b => if b.slt a then b else a))

def execSMax (at_ : Site) (w : W64) (s : State) : Outcome :=
  .next (s.dispatchFront at_ w 0x1A (aluWord w.toNat fun a b => if a.slt b then b else a))

def execSLi (at_ : Site) (w : W64) (s : State) : Outcome :=
  .next (s.dispatchFront at_ w 0x1B fun h => .ok (h.setS (fld w.toNat 46 5) (w.truncate 32)))

def execALi (at_ : Site) (w : W64) (s : State) : Outcome :=
  .next (s.dispatchFront at_ w 0x1C fun h => .ok (h.setA (fld w.toNat 47 4) (w.truncate 40)))

def execAAddi (at_ : Site) (w : W64) (s : State) : Outcome :=
  .next (s.dispatchFront at_ w 0x1D fun h =>
    .ok (h.setA (fld w.toNat 47 4) (h.aReg (fld w.toNat 43 4) + (w.truncate 32 : Word).signExtend 40)))

def execAAdds (at_ : Site) (w : W64) (s : State) : Outcome :=
  .next (s.dispatchFront at_ w 0x1E fun h =>
    .ok (h.setA (fld w.toNat 47 4)
      (h.aReg (fld w.toNat 43 4) + (h.sReg (fld w.toNat 38 5)).signExtend 40 <<< fld w.toNat 33 5)))

def execSFra (at_ : Site) (w : W64) (s : State) : Outcome :=
  .next (s.dispatchFront at_ w 0x1F fun h =>
    .ok (h.setS (fld w.toNat 46 5) ((h.aReg (fld w.toNat 42 4)).truncate 32)))

def execPEq (at_ : Site) (w : W64) (s : State) : Outcome :=
  .next (s.dispatchFront at_ w 0x20 (cmpWord w.toNat fun a b => a == b))

def execPNe (at_ : Site) (w : W64) (s : State) : Outcome :=
  .next (s.dispatchFront at_ w 0x21 (cmpWord w.toNat fun a b => a != b))

def execPLt (at_ : Site) (w : W64) (s : State) : Outcome :=
  .next (s.dispatchFront at_ w 0x22 (cmpWord w.toNat fun a b => a.slt b))

def execPGe (at_ : Site) (w : W64) (s : State) : Outcome :=
  .next (s.dispatchFront at_ w 0x23 (cmpWord w.toNat fun a b => !a.slt b))

def execPLtu (at_ : Site) (w : W64) (s : State) : Outcome :=
  .next (s.dispatchFront at_ w 0x24 (cmpWord w.toNat fun a b => a.ult b))

def execPGeu (at_ : Site) (w : W64) (s : State) : Outcome :=
  .next (s.dispatchFront at_ w 0x25 (cmpWord w.toNat fun a b => !a.ult b))

def execPAnd (at_ : Site) (w : W64) (s : State) : Outcome :=
  .next (s.dispatchFront at_ w 0x26 (logWord w.toNat fun a b => a && b))

def execPOr (at_ : Site) (w : W64) (s : State) : Outcome :=
  .next (s.dispatchFront at_ w 0x27 (logWord w.toNat fun a b => a || b))

def execPXor (at_ : Site) (w : W64) (s : State) : Outcome :=
  .next (s.dispatchFront at_ w 0x28 (logWord w.toNat fun a b => xor a b))

def execPAndn (at_ : Site) (w : W64) (s : State) : Outcome :=
  .next (s.dispatchFront at_ w 0x29 (logWord w.toNat fun a b => a && !b))

def execPSet (at_ : Site) (w : W64) (s : State) : Outcome :=
  .next (s.dispatchFront at_ w 0x2A fun h => .ok (h.setP (fld w.toNat 48 3) (bitOf w.toNat 47)))

def execFuseBegin (at_ : Site) (w : W64) (s : State) : Outcome :=
  .next (s.dispatchFront at_ w 0xD0 (fuseBeginWord w.toNat))

def execFuseEnd (at_ : Site) (w : W64) (s : State) : Outcome :=
  .next (s.dispatchFront at_ w 0xD1 (fuseEndWord w.toNat))

/-- A word that fails a check of R139 faults with cause 0x0A; nothing of it executes. -/
def execUndecodableWord (at_ : Site) (w : W64) (s : State) : Outcome :=
  let g := at_.core.val
  let j := at_.share.val
  .next (s.when (s.dispatches at_ w && !wordOk w.toNat) fun s =>
    let s := s.dispatched g j
    s.progFault g j 0x0A engFront (s.share g j).pc)

/-- Dispatch past the program's last word faults with cause 0x0B; INDEX is the last word (R144). -/
def execDispatchPastProgramEnd (at_ : Site) (s : State) : Outcome :=
  let g := at_.core.val
  let j := at_.share.val
  let h := s.share g j
  .next (s.when (s.dispatchable g j && h.next.isNone && s.chooses g 4 (s.dispatchable g) == some j) fun s =>
    s.progFault g j 0x0B engFront (h.program.length - 1))

end Sys2Proof.Machine
end

