-- ==== Sys2Proof/Machine/I3cTarget.lean ====
section
/-! DEFINITION. The I3C target (R320 to R325): private transfers, common command codes, in-band interrupts and
Hot-Join. Bit places of ENEC/DISEC and the byte order of what a GET code answers are PRESUMED from MIPI I3C (log
entry 36). -/

namespace Sys2Proof.Machine

/-! ### Private transfers (R324, R325) -/

/-- A protocol error: parity, HDR-DDR CRC or framing (Table 16.11). -/
def State.i3cError (s : State) : State :=
  (s.bump (i3cBase + 0x18) 0 16 1).modI3c fun x => { x with protoErr := true }

/-- An access error (R324). -/
def State.i3cAccess (s : State) : State := s.bump (i3cBase + 0x18) 16 16 1

/-- Words of a private write, from address a upward; a trailing partial word is discarded. -/
def State.i3cWords (s : State) : Nat → Nat → Bytes → State
  | 0, _, _ => s
  | fuel + 1, a, b =>
    if b.length < 4 then s
    else State.i3cWords (s.accessWrite .i3c (a % 2 ^ 24) (BitVec.ofNat 32 (leNat (b.take 4)))) fuel (a + 4) (b.drop 4)

def cmdWin : Nat := i3cBase + 0x1000

/-- A private write into I3C.CMD_WIN at `off`: from offset 0 it submits one command of at most 4,096 bytes (R325). -/
def State.winWrite (s : State) (off : Nat) (b : Bytes) : State :=
  let whole := b.take (b.length / 4 * 4)
  let s := if whole.length < b.length then s.i3cAccess else s
  if off = 0 then s.submitI3c (whole.take 4096) else s

/-- A private write of data b to address a (R324). -/
def State.i3cWrite (s : State) (a : Nat) (b : Bytes) : State :=
  let s := s.modI3c fun x => { x with ptr := BitVec.ofNat 24 (a + b.length / 4 * 4) }
  if a % 4 ≠ 0 then s.i3cAccess
  else if cmdWin ≤ a ∧ a < cmdWin + 0x1000 then if b.isEmpty then s else s.winWrite (a - cmdWin) b
  else
    let s := if b.length % 4 = 0 then s else s.i3cAccess
    s.i3cWords (b.length / 4) a b

/-- The target holds a dynamic address and answers private transfers. -/
def I3c.answers (x : I3c) : Bool := x.live && x.daValid

/-- A private write: the address, then data up to MWL bytes in all; in HDR-DDR the address fills a word whose last
byte is zero (R324). `bad`: a parity or HDR-DDR CRC error ended it; the words before the error count as written, and what
follows is ignored (R327; PRESUMED, log entry 36). -/
def State.privateWrite (s : State) (bytes : Bytes) (bad : Bool) : State :=
  let b := bytes.take s.i3c.mwl
  let n := if s.i3c.hdr then 4 else 3
  let s := if s.i3c.hdr then s.modI3c fun x => { x with hdr := false } else s
  let s := if bad then s.i3cError else s
  let b := if bad && decide (n ≤ b.length) then b.take (n + (b.length - n) / 4 * 4) else b
  if b.length < n || (n == 4 && fieldAt b 3 1 != 0) then if bad then s else s.i3cError
  else s.i3cWrite (fieldAt b 0 3) (b.drop n)

/-- n words read upward from address a (R324). -/
def State.i3cReadWords (s : State) : Nat → Nat → State × Bytes
  | 0, _ => (s, [])
  | n + 1, a =>
    let x := match s.readReg 16 (a % 2 ^ 24) with
      | some (v, t) => (t, v)
      | none => (s, 0)
    let r := State.i3cReadWords x.1 n (a + 4)
    (r.1, leBytes 4 x.2.toNat ++ r.2)

/-- A private read of up to `count` bytes, at most MRL; one whose own code fails its check is answered with nothing. -/
def State.privateRead (s : State) (count : Nat) (bad : Bool) : State :=
  if bad then s.i3cError.modI3c fun x => { x with hdr := false, answer := [] } else
  let n := min count s.i3c.mrl
  let a := s.i3c.ptr.toNat
  let words := ceilDiv n 4
  let r := if a % 4 = 0 then s.i3cReadWords words a else (s.i3cAccess, List.replicate (4 * words) 0)
  r.1.modI3c fun x => { x with ptr := BitVec.ofNat 24 (a + 4 * words), hdr := false, answer := r.2.take n }

/-! ### Common command codes (R322) -/

/-- A broadcast code, which a live target takes. -/
def State.ccc (s : State) (f : I3c → I3c) : State :=
  if s.i3c.live then s.modI3c fun x => f { x with nack := false } else s

/-- A code directed at the dynamic address; without one the target is not addressed. -/
def State.directed (s : State) (f : I3c → I3c) : State :=
  if s.i3c.answers then s.modI3c fun x => f { x with nack := false } else s.modI3c fun x => { x with nack := true }

/-- A code that answers with bytes. -/
def State.getCode (s : State) (b : Bytes) : State := s.directed fun x => { x with answer := b }

/-- ENINT and ENHJ bits of ENEC and DISEC. -/
def I3c.events (x : I3c) (bits : Byte) (v : Bool) : I3c :=
  { x with enint := if bits.getLsbD 0 then v else x.enint, enhj := if bits.getLsbD 3 then v else x.enhj }

/-- A value clamped to a range. -/
def clampNat (lo hi n : Nat) : Nat := max lo (min hi n)

/-- GETSTATUS's word (Table 16.9). -/
def State.i3cStatus (s : State) : Nat :=
  s.stageLevel * 256 + 32 * b2n s.i3c.protoErr + popcount 3 s.i3c.ibi.toNat

/-- RSTACT 0x01: the target alone returns to its reset values, the address kept; commands already submitted stay
outstanding. -/
def State.i3cReset (s : State) : State :=
  let s := (s.setReg (i3cBase + 0x18) 0).setReg (i3cBase + 0x100) 0
  s.modI3c fun x => { live := x.live, da := x.da, daValid := x.daValid, retries := x.retries, hotJoins := x.hotJoins,
                      outstanding := x.outstanding }

/-! ### Meanings -/

/-- A private write whose address lies in I3C.CMD_WIN, framed as the mode of transfer asks (R324, R325). -/
def execCmdWinWrite (offset : BitVec 24) (data : I3cData) (s : State) : Outcome :=
  .next (s.when (s.i3c.answers && decide (offset.toNat < 0x1000)) fun s =>
    s.privateWrite (leBytes (if s.i3c.hdr then 4 else 3) (cmdWin + offset.toNat) ++ data.bytes) data.bad)

def execI3cPrivateWrite (data : I3cData) (s : State) : Outcome :=
  .next (s.when s.i3c.answers fun s => s.privateWrite data.bytes data.bad)

def execI3cPrivateRead (read : I3cRead) (s : State) : Outcome :=
  .next (s.when s.i3c.answers fun s => s.privateRead read.count read.bad)

def execEnec (bits : Byte) (s : State) : Outcome := .next (s.ccc fun x => x.events bits true)

def execDisec (bits : Byte) (s : State) : Outcome := .next (s.ccc fun x => x.events bits false)

def execRstdaa (s : State) : Outcome := .next (s.ccc fun x => { x with da := 0, daValid := false })

/-- The target takes part while it has no dynamic address; `won`: the address was assigned to it (R322). -/
def execEntdaa (won : Bool) (da : BitVec 7) (s : State) : Outcome :=
  .next (s.ccc fun x => if won && !x.daValid then { x with da := da, daValid := true } else x)

/-- The static address is 0x58 + I3C_SA (R321). -/
def execSetdasa (sa da : BitVec 7) (s : State) : Outcome :=
  let mine := sa.toNat == 0x58 + s.i3cSa.toNat
  .next (s.ccc fun x => if mine then { x with da := da, daValid := true } else x)

def execSetnewda (da : BitVec 7) (s : State) : Outcome := .next (s.directed fun x => { x with da := da })

def execSetmwl (n : BitVec 16) (s : State) : Outcome := .next (s.ccc fun x => { x with mwl := clampNat 64 8192 n.toNat })

def execGetmwl (s : State) : Outcome := .next (s.getCode (beBytes 2 s.i3c.mwl))

def execSetmrl (n : BitVec 16) (s : State) : Outcome := .next (s.ccc fun x => { x with mrl := clampNat 16 4096 n.toNat })

/-- IBI payload size 1, fixed. -/
def execGetmrl (s : State) : Outcome := .next (s.getCode (beBytes 2 s.i3c.mrl ++ [1]))

def execGetpid (s : State) : Outcome := .next (s.getCode (beBytes 6 s.pid))

def execGetbcr (s : State) : Outcome := .next (s.getCode [0x27])

def execGetdcr (s : State) : Outcome := .next (s.getCode [0x00])

/-- The protocol-error bit covers the time since the last GETSTATUS. -/
def execGetstatus (s : State) : Outcome :=
  let w := s.i3cStatus
  .next (s.directed fun x => { x with answer := beBytes 2 w, protoErr := false })

/-- maxWr, maxRd, read turnaround 4 µs. -/
def execGetmxds (s : State) : Outcome := .next (s.getCode ([0x00, 0x00] ++ leBytes 3 4))

/-- RSTACT (Table 16.9). Action 0x02 is a whole-device reset, cause 3 (Table 19.9), and start-up runs again. -/
def execRstact (action : Byte) (s : State) : Outcome :=
  .next (s.when s.i3c.live fun s =>
    if action = 0 then s.ccc id
    else if action = 1 then s.i3cReset
    else if action = 2 then (s.warmReset 3).powerOn
    else s.modI3c fun x => { x with nack := true })

def execEnthdr0 (s : State) : Outcome := .next (s.ccc fun x => { x with hdr := true })

/-- A NACKed interrupt is sent again (R323); whether it is acknowledged now, IBI says. -/
def execIbiRetry (s : State) : Outcome :=
  .next (s.when s.i3c.nacked.isSome fun s => s.modI3c fun x => { x with nacked := none, retries := x.retries + 1 })

/-- ENHJ set and no dynamic address (R323). -/
def execHotJoin (s : State) : Outcome :=
  .next (s.when (s.i3c.live && s.i3c.enhj && !s.i3c.daValid) fun s => s.modI3c fun x => { x with hotJoins := x.hotJoins + 1 })

/-- A pending code is sent with a dynamic address and ENINT; acknowledged, it clears (R323). -/
def execIbi (code : Fin 3) (acked : Bool) (s : State) : Outcome :=
  let x := s.i3c
  .next (s.when (x.answers && x.enint && x.ibi.getLsbD code.val && x.nacked.isNone) fun s => s.modI3c fun x =>
    if acked then { x with ibi := x.ibi &&& ~~~(BitVec.ofNat 3 (2 ^ code.val)) } else { x with nacked := some code.val })

end Sys2Proof.Machine
end

