-- ==== Sys2Proof/Machine/StreamInput.lean ====
section
/-! DEFINITION. Stream input (R309, R310) and stream credits (R311). -/

namespace Sys2Proof.Machine

/-- A stream input fragment (Table 16.5). -/
structure Fragment where
  stream : Nat
  first : Bool
  last : Bool
  mark : Bool
  chunk : Word
  offset : Nat
  data : Bytes
deriving DecidableEq, Repr, Inhabited

/-- The fields of a stream input payload. Its rsvd fields do nothing, whatever they hold: R5 names no sub-header, and no
rule gives a reaction (DESIGN CHOICE, log entry 96). -/
def fragmentOf (b : Bytes) : Fragment :=
  { stream := fieldAt b 0 2 % 4096, first := bitOf (fieldAt b 2 1) 0, last := bitOf (fieldAt b 2 1) 1,
    mark := bitOf (fieldAt b 2 1) 2, chunk := BitVec.ofNat 32 (fieldAt b 4 4), offset := fieldAt b 8 4,
    data := b.drop 16 }

/-- Count a discarded chunk of stream i (R310). -/
def State.chunkDiscard (s : State) (port i : Nat) : State :=
  (s.modEntry i fun e => e.discard 1).bump (lnkReg port 0x1C) 0 32 1

/-- The chunk in progress is discarded at fragment f; past the position limit it counts in LDG.DISCARDED too (R204,
R205). -/
def State.endChunk (s : State) (port : Nat) (f : Fragment) : State :=
  let e := s.entry f.stream
  let s := s.bump (ldgBase + 0x10) 0 32 (b2n (e.status == .draining && e.seqend))
  (s.chunkDiscard port f.stream).modEntry f.stream fun e =>
    { e with partialChunk := none, badChunk := if f.last then none else some f.chunk }

/-- No frame of the stream waits anywhere: the next chunk is the one for POS (R192). -/
def Entry.nothingWaits (e : Entry) : Bool := (List.range e.links).all fun j => e.source j == 0

/-- The chunk is present: IQ_WR advances; the first chunk ends OPEN (R192, R310). -/
def Entry.present (e : Entry) (mark : Bool) : Entry :=
  { e with resetPend := if e.nothingWaits then mark else e.resetPend,
           iqWr := (e.iqWr + 1) % e.iqDepth, iqCount := e.iqCount + 1, marks := e.marks ++ [mark],
           chunk := e.chunk + 1, partialChunk := none, badChunk := none, fresh := false,
           status := if e.status = .opened then .waitingInput else e.status }

/-- Accept fragment f, `got` bytes into its chunk: its bytes land in slot IQ_WR. Where a line refuses its part (R99),
nothing lands, the chunk is discarded and ECC_UNCORRECTABLE goes to the stream's fault field (log entry 105). -/
def State.acceptFragment (s : State) (port vc got : Nat) (mark : Bool) (f : Fragment) : State :=
  let e := s.entry f.stream
  let w := s.writeWholly (s.part (e.part.getD 0)) .normal (e.iqBase.toNat + e.iqWr * e.slotBytes + got) f.data
  let s := w.1
  if w.2 then (s.endChunk port f).faultStream f.stream stEccUncorrectable
  else if f.last then (s.modEntry f.stream fun e => e.present mark).reval f.stream
  else s.modEntry f.stream fun e => { e with partialChunk := some (vc, got + f.data.length, mark), badChunk := none }

/-- A fragment of a chunk that is not in progress: its chunk is discarded and counted once (R310). -/
def State.strayChunk (s : State) (port : Nat) (f : Fragment) : State :=
  let e := s.entry f.stream
  let s := if !f.first && e.badChunk == some f.chunk then s else s.chunkDiscard port f.stream
  s.modEntry f.stream fun e => { e with badChunk := if f.last then none else some f.chunk }

/-- A fragment belongs to the chunk in progress of entry e. -/
def Fragment.continues (f : Fragment) (e : Entry) (vc : Nat) : Bool := match e.partialChunk with
  | some (v, _, _) => !f.first && v == vc && f.chunk == e.chunk
  | none => false

/-- A fragment is taken in (R310). One whose partition is not the stream's, as none is of a CLOSED entry, ends the chunk
that it goes on with. -/
def State.fragment (s : State) (port part vc : Nat) (f : Fragment) : State :=
  let e := s.entry f.stream
  if !e.belongs part then if f.continues e vc then s.endChunk port f else s.strayChunk port f
  else
    -- a FIRST ends an unfinished chunk
    let s := if f.first && e.partialChunk.isSome then s.endChunk port f else s
    let e := s.entry f.stream
    let closed := e.status == .closed || e.status == .draining
    if f.first then
      if closed || decide (e.iqDepth ≤ e.iqCount) || f.chunk != e.chunk || f.offset != 0 ||
          decide (e.slotBytes < f.data.length) then s.endChunk port f
      else s.acceptFragment port vc 0 f.mark f
    else match e.partialChunk with
      | none =>
        if e.badChunk = some f.chunk then
          if f.last then s.modEntry f.stream fun e => { e with badChunk := none } else s
        else s.endChunk port f
      | some (v, got, mark) =>
        if closed || v != vc || f.chunk != e.chunk || f.offset != got || decide (e.slotBytes < got + f.data.length) then
          s.endChunk port f
        else s.acceptFragment port vc got mark f

/-- A 0x32 payload that the sequence check has accepted; one shorter than its sub-header is no chunk and is
discarded. -/
def State.streamInput (s : State) (port part vc : Nat) (payload : Bytes) : State :=
  if payload.length < 16 then s.bump (lnkReg port 0x1C) 0 32 1
  else s.fragment port part vc (fragmentOf payload)

def execStreamInputFragment (port : Fin 3) (part : Fin 16) (vc : Nat) (payload : Bytes) (s : State) : Outcome :=
  .next (s.streamInput port.val part.val vc payload)

/-! ### Stream credits (R311) -/

/-- Records of the credits owed to owner d, with their VC field free: no rule gives it (log entry 3). -/
def State.creditRecords (s : State) (streams : List Nat) : List Bytes × State :=
  streams.foldl (fun acc i =>
    let r := acc.2.draw
    (acc.1 ++ [ctlRecord 2 (r.1.toNat % 16) 0 i (min (s.entry i).credits 0xFFFF)], r.2)) ([], s)

/-- Send every credit owed, one packet of at most 64 records at a time, owner by owner. -/
def State.sendCredits (s : State) : State :=
  let owed := s.entries.filterMap fun (x : Nat × Entry) => if 0 < x.2.credits then some x.1 else none
  let ownerOf (i : Nat) : BitVec 12 := if (s.entry i).ownerSelf then s.net.id else (s.entry i).owner
  let owners := (owed.map ownerOf).eraseDups
  s.each owners fun s d =>
    s.each (runsOf 64 64 (owed.filter fun i => ownerOf i == d)) fun s run =>
      let r := s.creditRecords run
      let s := r.2.sendControl d (d == s.net.id) r.1
      s.each run fun s i => s.modEntry i fun e => { e with credits := e.credits - 0xFFFF }

def execStreamCredit (s : State) : Outcome := .next s.sendCredits

end Sys2Proof.Machine
end

