-- ==== Sys2Proof/Machine/Link.lean ====
section
/-! DEFINITION. Long packets: receipt, forwarding, delivery, sequence spaces, credits and transmission (R301 to R308,
R316 to R319, R330 to R338, R344). -/

namespace Sys2Proof.Machine

/-! ### Headers (R302, R303, R306, R307) -/

/-- Data type and virtual channel agree with Table 16.3. -/
def typeOk (dt vc : Nat) : Bool :=
  match dt with
  | 0x30 => vc == 0
  | 0x31 => vc == 1
  | 0x32 => decide (2 ≤ vc) && decide (vc ≤ 9)
  | 0x33 => decide (2 ≤ vc) && decide (vc ≤ 9)
  | 0x34 => vc == 10 || vc == 11
  | 0x35 => vc == 10 || vc == 11
  | 0x36 => vc == 12 || vc == 13
  | 0x37 => vc == 12 || vc == 13
  | _ => false

/-- The reliable types of Table 16.3. -/
def reliable (dt : Nat) : Bool := [0x30, 0x31, 0x32, 0x34, 0x35].contains dt

/-- Bytes 0 to 29 of the Lanlyn header. -/
def Pkt.head (p : Pkt) : Bytes :=
  leBytes 2 (p.dst.toNat + 4096 * p.part) ++ leBytes 2 p.src.toNat ++ leBytes 1 p.kind ++
    leBytes 1 (b2n p.rel + 2 * b2n p.retx + 4 * b2n p.sync) ++ leBytes 2 p.seq.toNat ++ leBytes 4 p.payload.length ++
    leBytes 6 p.time.toNat ++ leBytes 12 0

/-- The bytes of a packet as it is sent: header with HCHK, then payload (R306). -/
def Pkt.toBytes (p : Pkt) : Bytes := p.head ++ leBytes 2 (crc16 p.head).toNat ++ p.payload

/-- The packet that a long packet's payload spells. -/
def rawParse (x : RawPkt) : Pkt :=
  let b := x.bytes
  let f := fieldAt b 5 1
  { dt := x.dt, vc := x.vc, dst := BitVec.ofNat 12 (fieldAt b 0 2), part := fieldAt b 0 2 / 4096,
    src := BitVec.ofNat 12 (fieldAt b 2 2), kind := fieldAt b 4 1, rel := bitOf f 0, retx := bitOf f 1, sync := bitOf f 2,
    seq := BitVec.ofNat 16 (fieldAt b 6 2), time := BitVec.ofNat 48 (fieldAt b 12 6), payload := b.drop 32 }

/-- Check 4 of R303: HCHK, and LEN against the word count. -/
def rawChecked (x : RawPkt) : Bool :=
  decide (32 ≤ x.bytes.length) && fieldAt x.bytes 30 2 == (crc16 (x.bytes.take 30)).toNat &&
    fieldAt x.bytes 8 4 + 32 == x.wc && x.bytes.length == x.wc

/-- Check 6 of R303, with REL of R307 and KIND of R339. -/
def rawFieldsOk (x : RawPkt) (p : Pkt) : Bool :=
  decide (fieldAt x.bytes 2 2 < 4096) && decide (fieldAt x.bytes 5 1 < 8) && fieldAt x.bytes 18 12 == 0 &&
    (p.dst != 0xFFF || x.dt == 0x36 || x.dt == 0x37) && p.rel == reliable x.dt && (x.dt != 0x37 || decide (p.kind ≤ 2))

/-! ### Link control that the device sends (R316, R318, R335) -/

/-- The records of a link-control payload; what their rsvd fields hold is ignored (log entry 96). -/
def records (b : Bytes) : List Bytes := (List.range (min 64 (b.length / 16))).map fun i => slice b (16 * i) 16

/-- A cumulative ACK of a space: the last in-order SEQ. -/
def State.sendAck (s : State) (x : Rcv) : State :=
  s.sendControl x.src x.spur [ctlRecord 0 x.vc (x.expect - 1).toNat 0 0]

/-- A NAK of a space: the expected SEQ. -/
def State.sendNak (s : State) (x : Rcv) : State := s.sendControl x.src x.spur [ctlRecord 1 x.vc x.expect.toNat 0 0]

/-! ### The receiver's sequence check (R317, R318, R335) -/

/-- A space is that of a sender, a destination (the own id or 0xFFF), a VC and REL (R317). -/
def Rcv.keyed (x : Rcv) (src : BitVec 12) (spur bcast : Bool) (vc : Nat) (rel : Bool) : Bool :=
  x.src == src && x.spur == spur && x.bcast == bcast && x.vc == vc && x.rel == rel

/-- A space of this receiver; one not heard of expects 0. -/
def State.rcvOf (s : State) (src : BitVec 12) (spur bcast : Bool) (vc : Nat) (rel : Bool) : Rcv :=
  match s.net.rcv.find? fun x => x.keyed src spur bcast vc rel with
  | some x => x
  | none => { src := src, spur := spur, bcast := bcast, vc := vc, rel := rel }

def State.setRcv (s : State) (x : Rcv) : State :=
  s.modNet fun n => { n with rcv := n.rcv.filter (fun y => !y.keyed x.src x.spur x.bcast x.vc x.rel) ++ [x] }

/-- 4 MiB: the receive buffer (R335), and what a sender may hold (R319). -/
def bufferBytes : Nat := 4194304

/-- The space's expected SEQ as a packet finds it: a SYNC packet's own SEQ, unless it is the retransmission of one
already accepted (R317, R318; log entry 40). -/
def Rcv.expected (x : Rcv) (p : Pkt) : BitVec 16 :=
  let back := (x.expect - p.seq).toNat
  if p.sync && !(p.retx && decide (1 ≤ back) && decide (back ≤ 1024)) then p.seq else x.expect

/-- A packet has been accepted from a sender (R344). -/
def State.heardFrom (s : State) (x : Rcv) : State :=
  s.modNet fun n => { n with lost := n.lost.filter (· != (x.src, x.spur)) }

/-- An accepted reliable packet: E advances, its bytes enter the receive buffer, and every 32nd is acknowledged at
once (R318, R335). -/
def State.acceptRel (s : State) (x : Rcv) (p : Pkt) : State :=
  let x := { x with expect := p.seq + 1, since := x.since + 1, gap := false }
  let s := s.modNet fun n => { n with rxFill := if p.dt = 0x32 then n.rxFill else n.rxFill + p.size }
  if 32 ≤ x.since then (s.setRcv { x with since := 0 }).sendAck x else s.setRcv x

/-- The sequence check of a packet that reached `port`: the state, and whether the packet is accepted. -/
def State.seqCheck (s : State) (port : Nat) (p : Pkt) : State × Bool :=
  let x := s.rcvOf p.src (port == 2) (p.dst == 0xFFF) p.vc p.rel
  let x := { x with expect := x.expected p }
  let d := (p.seq - x.expect).toNat
  if !p.rel then
    let s := if d = 0 then s else s.bump (lnkReg port 0x28) 16 16 1
    ((s.setRcv { x with expect := p.seq + 1 }).heardFrom x, true)
  else if d = 0 then
    if p.dt ≠ 0x32 ∧ bufferBytes < s.net.rxFill + p.size then (s, false) else ((s.acceptRel x p).heardFrom x, true)
  else if d < 32768 then ((s.setRcv { x with gap := true }).sendNak x, false)
  else ((s.setRcv { x with since := 0 }).sendAck x, false)

/-! ### The sender's spaces (R317, R319, R335) -/

def State.sndOf (s : State) (dst : BitVec 12) (spur : Bool) (vc : Nat) (rel : Bool) : Snd :=
  match s.net.snd.find? fun x => x.keyed dst spur vc rel with
  | some x => x
  | none => { dst := dst, spur := spur, vc := vc, rel := rel }

def State.setSnd (s : State) (x : Snd) : State :=
  s.modNet fun n => { n with snd := n.snd.filter (fun y => !y.keyed x.dst x.spur x.vc x.rel) ++ [x] }

/-- Retransmit held packets of a space in order. -/
def State.resend (s : State) (x : Snd) (l : List OutPkt) : State :=
  s.modNet fun n => { n with retx := n.retx.filter (fun o => !x.owns o) ++ l }

/-- SEQ a lies at or before b. -/
def seqLe (a b : BitVec 16) : Bool := decide ((b - a).toNat < 32768)

/-- An ACK frees the held packets up to its SEQ (R319); commands that waited for them go on. -/
def State.ackIn (s : State) (src : BitVec 12) (spur : Bool) (vc : Nat) (seq : BitVec 16) : State :=
  match s.net.snd.find? fun x => x.keyed src spur vc true with
  | none => s
  | some x =>
    let held := x.held.filter fun o => !seqLe o.pkt.seq seq
    let advanced := decide (held.length < x.held.length)
    let s := (s.setSnd { x with held := held, timeouts := if advanced then 0 else x.timeouts }).modNet fun n =>
      { n with retx := n.retx.filter fun o => !(x.owns o && seqLe o.pkt.seq seq) }
    if advanced then s.packetsDone else s

/-- A NAK makes the sender retransmit from E onward (R319). -/
def State.nakIn (s : State) (src : BitVec 12) (spur : Bool) (vc : Nat) (seq : BitVec 16) : State :=
  match s.net.snd.find? fun x => x.keyed src spur vc true with
  | none => s
  | some x => s.resend x (x.held.filter fun o => seqLe seq o.pkt.seq)

/-- RX_CREDIT returns receive credits (R335). -/
def State.creditIn (s : State) (src : BitVec 12) (spur : Bool) (vc count : Nat) : State :=
  let give (x : Snd) : Snd := if x.keyed src spur vc true then { x with credits := x.credits + count } else x
  s.modNet fun n => { n with snd := n.snd.map give }

/-- A command packet will not be delivered: a relayed host command completes to the host, a Steward's own ends its
move (R337, R344). Other packets of a move end it too. -/
def State.packetLost (s : State) (o : OutPkt) (st : BitVec 16) : State :=
  if o.relay then
    if o.pkt.dt = 0x30 ∧ !o.spur then
      s.reply .spur (fieldAt o.pkt.payload 0 1) (BitVec.ofNat 16 (fieldAt o.pkt.payload 2 2)) o.pkt.part st
    else s
  else match o.cmd with
    | some id => s.cmdLost id st
    | none => s

/-- Commands that move a stream to device d. -/
def movesTo (d : BitVec 12) (c : Cmd) : Bool := match c.wait with
  | .transfer _ params _ _ _ _ => destDev params == d
  | _ => false

/-- The transmit port that a sequence space to `dst` uses now, for the port's event bit. -/
def Net.spacePort (n : Net) (dst : BitVec 12) (spur : Bool) : Nat :=
  if spur then 5 else if dst.toNat % 64 = n.id.toNat % 64 then 4 else 3

/-- After eight timeouts a space is abandoned: its packets are dropped, PEER_LOST is raised once, every space to that
destination opens again with SYNC, and the Steward's moves to the peer end (R317, R319, R344). -/
def State.abandon (s : State) (x : Snd) : State :=
  let s := (s.setSnd { x with held := [], timeouts := 0 }).resend x []
  let s := s.modNet fun n => n.resync fun y => y.dst == x.dst && y.spur == x.spur
  let s := s.setBits (lnkReg (s.net.spacePort x.dst x.spur) 0x2C) 8
  let s := s.each x.held fun s o => s.packetLost o stPeerLost
  let s := if x.spur then s else s.each (s.cmds.filter (movesTo x.dst)) fun s c => s.cmdLost c.id stPeerLost
  let s := if s.net.lost.contains (x.dst, x.spur) then s
    else (s.modNet fun n => { n with lost := (x.dst, x.spur) :: n.lost }).raiseEvent evPeerLost none stPeerLost x.dst.toNat 0
  s.packetsDone

/-- A packet has been unacknowledged for 100 µs (R319). -/
def State.timeoutIn (s : State) (dst : BitVec 12) (spur : Bool) (vc : Nat) : State :=
  match s.net.snd.find? fun x => x.keyed dst spur vc true with
  | none => s
  | some x =>
    if x.held.isEmpty then s
    else if 8 ≤ x.timeouts + 1 then s.abandon x
    else (s.setSnd { x with timeouts := x.timeouts + 1 }).resend x x.held

/-! ### Delivery at this device (Table 17.1) -/

/-- Where a packet that this device passes on stands in its receive buffer (R335). -/
def Pkt.rxPlace (p : Pkt) (spur : Bool) : Option (BitVec 12 × Bool × Nat × Nat) :=
  if p.rel && p.dt != 0x32 then some (p.src, spur, p.vc, p.size) else none

/-- A packet for the host waits for the spur's sender buffer; with no host there it is discarded, counted and acknowledged
(R330, R335). -/
def State.toSpur (s : State) (port : Nat) (p : Pkt) : State :=
  let o : OutPkt := { pkt := p, spur := true, relay := true, charge := p.part, rx := p.rxPlace (port == 2) }
  if s.spurOpen then s.modNet fun n => { n with out := n.out ++ [o] } else (s.discardOn 5).leaveRx o

/-- One record of link control from `src`, but for STREAM_CREDIT; an unknown TYPE is skipped and counted (R316). -/
def State.recordIn (s : State) (port : Nat) (src : BitVec 12) (b : Bytes) : State :=
  let vc := fieldAt b 1 1 % 16
  let seq := BitVec.ofNat 16 (fieldAt b 2 2)
  match fieldAt b 0 1 with
  | 0 => s.ackIn src (port == 2) vc seq
  | 1 => (s.bump (lnkReg port 0x20) 16 16 1).nakIn src (port == 2) vc seq
  | 2 => s
  | 3 => s.creditIn src (port == 2) vc (fieldAt b 6 2)
  | _ => s.discardOn port

/-- A 0x36 payload: records act in order; those of STREAM_CREDIT go to the host. -/
def State.controlIn (s : State) (port : Nat) (p : Pkt) : State :=
  let rs := records p.payload
  let s := s.each rs fun s b => s.recordIn port p.src b
  let host := rs.filter fun b => fieldAt b 0 1 == 2
  if host.isEmpty then s
  else if s.spurOpen then
    s.modNet fun n => { n with ctl := n.ctl ++ [(some 2, { p with dst := n.id, payload := host.flatten })] }
  else s.discardOn 5

/-- A Drover packet (R339). From the spur only HELLO is sent, and nothing follows from one. -/
def State.droverIn (s : State) (port : Nat) (p : Pkt) : State :=
  if port = 2 then s
  else match p.kind with
    | 0 => s.rollArrives port p.payload
    | 1 => s.callArrives port p.payload
    | _ => s

/-- An accepted packet for this device (Table 17.1); its bytes leave the receive buffer at once, a command's when the
Steward takes it (R335). -/
def State.deliver (s : State) (port : Nat) (p : Pkt) : State :=
  let done (s : State) : State := s.owe p.src (port == 2) p.vc p.size
  match p.dt with
  | 0x30 => { s with rx := s.rx ++ [{ src := if port = 2 then .spur else .dev p.src, part := some p.part,
                                      bytes := p.payload }] }
  | 0x31 => if 0xF000 ≤ fieldAt p.payload 2 2 then done (s.stewardReply p.src p.payload) else s.toSpur port p
  | 0x32 => s.streamInput port p.part p.vc p.payload
  | 0x33 => s.toSpur port p
  | 0x34 => done (s.writeDataPacket port p.src p.vc p.payload)
  | 0x35 => s.toSpur port p
  | 0x36 => s.controlIn port p
  | _ => s.droverIn port p

/-! ### Forwarding (R332, R336) -/

/-- A drop counted in a FAB register. -/
def State.fabDrop (s : State) (off : Nat) : State := s.bump (fabBase + off) 0 32 1

/-- A packet goes through on its ring: ring r's through buffer holds one. -/
def State.through (s : State) (r : Nat) (p : Pkt) : State :=
  if (s.port (3 + r)).state ≠ 2 then s.fabDrop 0x28
  else if (Tbl.get none s.net.thru r).isSome then s.fabDrop 0x20
  else s.modNet fun n => { n with thru := Tbl.set none n.thru r (some p) }

/-- A packet turns toward ring port `out`. -/
def State.turnTo (s : State) (out : Nat) (p : Pkt) : State :=
  if (s.port out).state ≠ 2 then s.fabDrop 0x28
  else if 262144 < s.turnFill + p.size then (s.fabDrop 0x24).setBits (fabBase + 0x34) 0x20
  else
    let s := s.modNet fun n => { n with turn := n.turn ++ [(out, p)] }
    if (s.reg (fabBase + 0x1C)).toNat < s.turnFill then s.setReg (fabBase + 0x1C) (BitVec.ofNat 32 s.turnFill) else s

/-- A unicast packet for another device (Table 17.2). A device without coordinates passes everything on. -/
def State.forward (s : State) (r : Nat) (p : Pkt) : State :=
  let x1 := p.dst.toNat % 64
  let y1 := p.dst.toNat / 64
  match s.net.coords with
  | none => s.through r p
  | some (x, y) =>
    if r = 0 then if x1 ≠ x then s.through 0 p else if y1 ≠ y then s.turnTo 4 p else s
    else if y1 ≠ y then s.through 1 p else if x1 ≠ x then s.turnTo 3 p else s

/-! ### Receipt (R303, R330) -/

/-- A packet's destination is this device. -/
def Net.mine (n : Net) (p : Pkt) : Bool := n.idValid && p.dst == n.id

/-- The sequence check, then delivery. Until ready a reliable packet that is no command is acknowledged and discarded
(R392). -/
def State.checkDeliver (s : State) (port : Nat) (p : Pkt) : State :=
  let r := s.seqCheck port p
  if !r.2 then r.1
  else if !s.ready && p.rel && p.dt != 0x30 then r.1.leaveRx { pkt := p, spur := false, rx := p.rxPlace (port == 2) }
  else r.1.deliver port p

/-- A host's packet for another device, accepted in the spur's space: until ready a reliable one is discarded (R392), a
Steward's tag on a command is refused, and anything else is queued as this device's own (R330). -/
def State.relayOut (s : State) (p : Pkt) : State :=
  let o : OutPkt := { pkt := p, spur := false, relay := true, charge := p.part, rx := p.rxPlace true }
  if !s.ready && p.rel then s.leaveRx o
  else if p.dt = 0x30 ∧ 0xF000 ≤ fieldAt p.payload 2 2 then
    (s.leaveRx o).reply .spur (fieldAt p.payload 0 1) (BitVec.ofNat 16 (fieldAt p.payload 2 2)) p.part stBadField
  else s.modNet fun n => { n with out := n.out ++ [o] }

/-- A packet from the host on the spur. -/
def State.fromSpur (s : State) (x : RawPkt) (p : Pkt) : State :=
  if !s.net.idValid || p.src != s.net.id || p.dst == 0xFFF then s.discardOn 2
  else if !rawFieldsOk x p then s.discardOn 2
  else if p.dst == s.net.id then s.checkDeliver 2 p
  else
    let r := s.seqCheck 2 p
    if r.2 then r.1.relayOut p else r.1

/-- A broadcast goes on round its ring: a ROLL is sent on by the Drover, its originator removes any other that
returns, and until ready a CALL gains this device's record (R336, R340, R392). -/
def State.passOn (s : State) (r : Nat) (p : Pkt) : State :=
  if p.dt = 0x37 then
    if p.kind = 0 ∨ (p.kind = 1 ∧ rollOrigin p.payload = Config.serial.toNat) then s
    else s.through r (if p.kind = 1 ∧ !s.ready then { p with payload := s.joined r p.payload } else p)
  else if s.net.idValid ∧ p.src = s.net.id then s
  else s.through r p

/-- A packet from ring port r. -/
def State.fromRing (s : State) (r : Nat) (x : RawPkt) (p : Pkt) : State :=
  if p.dst == 0xFFF then
    if !rawFieldsOk x p then s.discardOn r
    else if p.dt = 0x36 ∧ s.net.idValid ∧ p.src = s.net.id then s
    else (s.passOn r p).checkDeliver r p
  else if s.net.mine p then if rawFieldsOk x p then s.checkDeliver r p else s.discardOn r
  else s.forward r p

/-- A header or CRC failure (R303). -/
def State.linkError (s : State) (port off : Nat) : State :=
  (s.bump (lnkReg port off) 0 32 1).setBits (lnkReg port 0x2C) 4

/-- The checks of R303, in order. -/
def State.receivePkt (s : State) (port : Nat) (x : RawPkt) : State :=
  if x.hdrBad then s.linkError port 0x18
  else
    let s := s.bumpWide (lnkReg port 0x0C) 1
    if x.crcBad then s.linkError port 0x14
    else if !typeOk x.dt x.vc then s.discardOn port
    else if !rawChecked x then s.linkError port 0x18
    else if port = 2 then s.fromSpur x (rawParse x) else s.fromRing port x (rawParse x)

/-! ### Transmission (R331, R333, R335, R337) -/

/-- A packet leaves on a port. -/
def State.emit (s : State) (port : Nat) (p : Pkt) : State :=
  let naks := if p.dt = 0x36 then ((records p.payload).filter fun b => fieldAt b 0 1 == 1).length else 0
  ((s.modPort port fun x => { x with last := some p }).bumpWide (lnkReg port 0x0C) 1).bump (lnkReg port 0x20) 0 16 naks

/-- Bytes the device holds for retransmission. -/
def Net.heldBytes (n : Net) : Nat := (n.snd.map fun x => (x.held.map fun o => o.pkt.size).sum).sum

/-- The space has room and credits for the packet (R319, R335); a space that opens holds 256 credits. -/
def State.canSend (s : State) (x : Snd) (p : Pkt) : Bool :=
  !p.rel || (decide (x.held.length < 1024) && decide (s.net.heldBytes + p.size ≤ bufferBytes) &&
    decide (p.credits ≤ if x.fresh then 256 else x.credits))

/-- Send a packet in its sequence space (R317, R319). -/
def State.sendIn (s : State) (port : Nat) (o : OutPkt) : State :=
  let x := s.sndOf o.pkt.dst o.spur o.pkt.vc o.pkt.rel
  let p := { o.pkt with seq := x.next, sync := x.fresh, retx := false }
  let x := { x with next := x.next + 1, fresh := false, credits := (if x.fresh then 256 else x.credits) - p.credits,
                    held := if p.rel then x.held ++ [{ o with pkt := p, rx := none }] else x.held }
  (s.setSnd x).emit port p

/-- Where a packet stands at a port: it may go (true), it has no route (false), or it is not this port's. -/
def State.standing (s : State) (port : Nat) (dst : BitVec 12) (spur : Bool) : Option Bool :=
  if spur then if port = 5 then some true else none
  else if port = 5 ∨ !s.net.idValid then none
  else match s.net.route dst with
    | none => some false
    | some q => if q = port then some true else none

/-- The first packet of a partition that the port can deal with: its place in the queue and whether it goes. A
packet that waits for room or credits holds back only its own space. -/
def State.firstOf (s : State) (port part : Nat) : List (BitVec 12 × Bool × Nat) → List (OutPkt × Nat) → Option (Nat × Bool)
  | _, [] => none
  | waits, (o, k) :: l =>
    let key := (o.pkt.dst, o.pkt.rel, o.pkt.vc)
    if o.charge ≠ part then State.firstOf s port part waits l
    else match s.standing port o.pkt.dst o.spur with
      | none => State.firstOf s port part waits l
      | some false => some (k, false)
      | some true =>
        if waits.contains key then State.firstOf s port part waits l
        else if s.canSend (s.sndOf o.pkt.dst o.spur o.pkt.vc o.pkt.rel) o.pkt then some (k, true)
        else State.firstOf s port part (key :: waits) l

/-- A partition may insert on a ring while its allowance is above 0; the spur uses no quota (R333). A partition that
does not exist has no quota to use. -/
def State.mayInsert (s : State) (port part : Nat) : Bool :=
  port == 5 || !(s.part part).exists_ || decide (0 < (s.part part).allowance)

/-- Charge a packet's LEN + 32 bytes. -/
def State.chargeQuota (s : State) (port part n : Nat) : State :=
  if port = 5 ∨ !(s.part part).exists_ then s else s.modPart part fun x => { x with allowance := x.allowance - (n : Int) }

/-- A packet with no route is not sent (R337). -/
def State.unrouted (s : State) (o : OutPkt) : State :=
  let s := if o.pkt.dt = 0x30 then s else s.fabDrop 0x2C
  (s.packetLost o stNoRoute).packetsDone

/-- Class 5: own and relayed packets, in rotation among partitions (R331). A relayed one enters the sender buffer as it is
sent, and leaves the receive buffer (R335). -/
def State.sendOwn (s : State) (port : Nat) : State :=
  let turn := (List.range 16).map fun i => (Tbl.get 15 s.net.lastPart port + 1 + i) % 16
  let pick := turn.findSome? fun p => if s.mayInsert port p then s.firstOf port p [] s.net.out.zipIdx else none
  match pick with
  | none => s
  | some (k, go) => match s.net.out[k]? with
    | none => s
    | some o =>
      let s := (s.modNet fun n =>
        { n with out := n.out.eraseIdx k, lastPart := Tbl.set 15 n.lastPart port o.charge }).leaveRx o
      if !go then s.unrouted o
      else
        let s := (s.sendIn port o).chargeQuota port o.charge o.pkt.size
        match o.frame with
        | some (g, _) => s.bump (0x031000 + 0x20 * g + 0x18) 0 32 1
        | none => s

/-- Class 4: retransmissions; the header is repeated with RETX (R307, R319). R333 does not charge them (log entry 95). -/
def State.sendRetx (s : State) (port : Nat) : Option State :=
  match s.net.retx.zipIdx.find? fun x => (s.standing port x.1.pkt.dst x.1.spur).isSome with
  | none => none
  | some (o, k) =>
    let s1 := s.modNet fun n => { n with retx := n.retx.eraseIdx k }
    if s.standing port o.pkt.dst o.spur = some true then
      some ((s1.emit port { o.pkt with retx := true }).bump (lnkReg port 0x24) 0 32 1)
    else some (s1.fabDrop 0x2C)

/-- Where an own control packet stands at a port. -/
def State.ctlStanding (s : State) (port : Nat) (x : Option Nat × Pkt) : Option Bool :=
  match x.1 with
  | some q => if 3 + q = port then some true else none
  | none => s.standing port x.2.dst false

/-- Class 3: own 0x36 and 0x37 packets. -/
def State.sendCtl (s : State) (port : Nat) : Option State :=
  match s.net.ctl.zipIdx.find? fun x => (s.ctlStanding port x.1).isSome with
  | none => none
  | some (c, k) =>
    let s1 := s.modNet fun n => { n with ctl := n.ctl.eraseIdx k }
    if s.ctlStanding port c = some true then some (s1.sendIn port { pkt := c.2, spur := port == 5 })
    else some (s1.fabDrop 0x2C)

/-- Classes 1 and 2: through and turned traffic of a ring port. -/
def State.sendPassing (s : State) (port : Nat) : Option State :=
  match Tbl.get none s.net.thru (port - 3) with
  | some p => some ((s.modNet fun n => { n with thru := Tbl.set none n.thru (port - 3) none }).emit port p)
  | none => match s.net.turn.find? (·.1 == port) with
    | some x => some ((s.modNet fun n => { n with turn := n.turn.erase x }).emit port x.2)
    | none => none

/-- Packets that pass through a port which is not UP are dropped (R332). -/
def State.dropPassing (s : State) (port : Nat) : State :=
  let n := (s.net.turn.filter (·.1 == port)).length + b2n (Tbl.get none s.net.thru (port - 3)).isSome
  (s.modNet fun x => { x with turn := x.turn.filter (·.1 != port), thru := Tbl.set none x.thru (port - 3) none }).bump
    (fabBase + 0x28) 0 32 n

/-- The port sends the next packet in class order. -/
def State.transmit (s : State) (port : Nat) : State :=
  if port < 3 then s
  else if (s.port port).state ≠ 2 then
    if port ≠ 5 then s.dropPassing port else if s.spurOpen then s else s.closeSpur.packetsDone
  else match if port = 5 then none else s.sendPassing port with
    | some t => t
    | none => match s.sendCtl port with
      | some t => t
      | none => match s.sendRetx port with
        | some t => t
        | none => s.sendOwn port

/-! ### Owed acknowledgements and credits -/

/-- Receive credits owed to each sender, at most 64 records to a packet (R335). -/
def State.returnCredits (s : State) : State :=
  let owed := s.net.rcv.filter fun x => decide (0 < x.owed)
  let peers := (owed.map fun x => (x.src, x.spur)).eraseDups
  let s := s.each peers fun s d =>
    s.each (runsOf 64 64 (owed.filter fun x => (x.src, x.spur) == d)) fun s run =>
      s.sendControl d.1 d.2 (run.map fun x => ctlRecord 3 x.vc 0 0 (min x.owed 0xFFFF))
  s.modNet fun n => { n with rcv := n.rcv.map fun x => { x with owed := x.owed - 0xFFFF } }

/-! ### Meanings -/

/-- A port ends a training attempt: UP, or WAITING with no peer (R300); ports train from stage 6 on (R376). -/
def execPortTraining (port : Fin 6) (up : Bool) (s : State) : Outcome :=
  .next (s.when ((Tbl.get {} s.stages 6).result != 0 && (s.port port.val).state != 2) fun s =>
    if up then (s.portUp port.val).packetsDone else (s.portLeaves port.val 3).packetsDone)

def execPortDown (port : Fin 6) (s : State) : Outcome :=
  .next (s.when ((s.port port.val).state == 2) fun s => (s.portLeaves port.val 0).packetsDone)

def execLongPacketReceive (port : Fin 3) (pkt : RawPkt) (s : State) : Outcome :=
  .next (s.when ((s.port port.val).state == 2) fun s => s.receivePkt port.val pkt)

def execCall (port : Fin 2) (payload : Bytes) (s : State) : Outcome :=
  let p : Pkt := { s.buildPkt 0x37 12 0xFFF 0 false payload with kind := 1 }
  .next ((s.passOn port.val p).callArrives port.val payload)

def execAck (port : Fin 3) (src : BitVec 12) (vc : Nat) (seq : BitVec 16) (s : State) : Outcome :=
  .next (s.ackIn src (port.val == 2) vc seq)

def execNak (port : Fin 3) (src : BitVec 12) (vc : Nat) (seq : BitVec 16) (s : State) : Outcome :=
  .next ((s.bump (lnkReg port.val 0x20) 16 16 1).nakIn src (port.val == 2) vc seq)

def execRxCredit (port : Fin 3) (src : BitVec 12) (vc : Nat) (count : BitVec 16) (s : State) : Outcome :=
  .next (s.creditIn src (port.val == 2) vc count.toNat)

/-- Within 10 µs of an accepted packet not yet acknowledged (R318). -/
def execAckTimer (src : BitVec 12) (spur : Bool) (vc : Nat) (s : State) : Outcome :=
  let x := s.rcvOf src spur false vc true
  .next (s.when (decide (0 < x.since)) fun s => (s.setRcv { x with since := 0 }).sendAck x)

/-- Every 20 µs while the gap persists (R318). -/
def execNakRepeat (src : BitVec 12) (spur : Bool) (vc : Nat) (s : State) : Outcome :=
  let x := s.rcvOf src spur false vc true
  .next (s.when x.gap fun s => s.sendNak x)

def execRetransmitTimeout (dst : BitVec 12) (spur : Bool) (vc : Nat) (s : State) : Outcome :=
  .next (s.timeoutIn dst spur vc)

def execPacketTransmit (port : Fin 6) (s : State) : Outcome := .next (s.transmit port.val)

def execRxCreditReturn (s : State) : Outcome := .next s.returnCredits

end Sys2Proof.Machine
end

