-- ==== Sys2Proof/Machine/Narrow.lean ====
section
/-! DEFINITION. The narrow engine (R82 to R85, R214, R230, R245, R246): its four requests. A request
runs to its end in the step that serves it; the head of the queue is served first. -/

namespace Sys2Proof.Machine

/-! ### The descriptor (Table 4.5) -/

def NarReq.op (r : NarReq) : Nat := fieldAt r.raw 0 1
def NarReq.shape (r : NarReq) : Nat := fieldAt r.raw 1 1
def NarReq.bands (r : NarReq) : Nat := r.shape % 16
def NarReq.couts (r : NarReq) : Nat := r.shape / 16
def NarReq.taps (r : NarReq) : Nat := fieldAt r.raw 2 1 + 1
def NarReq.fmtByte (r : NarReq) : Nat := fieldAt r.raw 3 1
def NarReq.fmt (r : NarReq) : Nat := r.fmtByte % 8
def NarReq.rm (r : NarReq) : Nat := fld r.fmtByte 3 2
def NarReq.stream (r : NarReq) : Nat := fieldAt r.raw 4 2 % 4096
def NarReq.count (r : NarReq) : Nat := fieldAt r.raw 6 2
def NarReq.src (r : NarReq) : Nat := fieldAt r.raw 8 5
def NarReq.dst (r : NarReq) : Nat := fieldAt r.raw 13 5
def NarReq.coef (r : NarReq) : Nat := fieldAt r.raw 18 5
def NarReq.space (r : NarReq) (i : Nat) : Bool := bitOf (fieldAt r.raw 23 1) i
def NarReq.ring (r : NarReq) : Bool := r.space 3
def NarReq.obj (r : NarReq) : Nat := fieldAt r.raw 24 2 % 2048

/-- Bytes of SRC, COEF and DST (Table 12.2); DST is not used with RING = 1. -/
def NarReq.srcLen (r : NarReq) : Nat :=
  match r.op with
  | 0 => r.count * r.bands * 4
  | 1 => (r.taps - 1 + r.count * r.bands) * 4
  | 2 => (r.taps - 1 + r.count) * r.bands * 4
  | _ => r.count * 4
def NarReq.coefLen (r : NarReq) : Nat :=
  match r.op with
  | 0 => r.bands * r.taps * 4
  | 1 => r.bands * r.taps * 4
  | 2 => r.couts * r.bands * r.taps * 4
  | _ => 0
def NarReq.dstLen (r : NarReq) : Nat :=
  if r.ring then 0
  else match r.op with
    | 0 => r.count * r.bands * audioBytes r.fmt
    | 1 => r.count * r.bands * 4
    | 2 => r.count * 64
    | _ => r.count * audioBytes r.fmt

/-- The fields keep Table 4.5 and the rules of R245 on FMT and RING. -/
def NarReq.shapeOk (r : NarReq) : Bool :=
  let filter := r.shape / 16 == 0 && 1 ≤ r.bands && r.bands ≤ 8 && r.taps % r.bands == 0 &&
    16 ≤ r.taps && r.taps ≤ 128
  let opOk := match r.op with
    | 0 => filter
    | 1 => filter && r.fmt == 0 && !r.ring
    | 2 => 1 ≤ r.bands && r.bands ≤ 8 && 1 ≤ r.couts && r.couts ≤ 8 && r.taps ≤ 127 && r.fmt == 0 && !r.ring
    | 3 => r.shape == 0 && r.taps == 1
    | _ => false
  opOk && r.fmt ≤ 4 && r.fmtByte / 32 == 0 && fieldAt r.raw 4 2 / 4096 == 0 && 1 ≤ r.count && r.count ≤ 4096 &&
    fieldAt r.raw 23 1 / 16 == 0 && fieldAt r.raw 24 2 / 2048 == 0 && allZero (slice r.raw 26 6)

/-- The request names a stream: SYNTH, or RING = 1 (R85). -/
def NarReq.named (r : NarReq) : Bool := r.op == 0 || r.ring

/-- An operand of n bytes lies inside the share or the partition (R72, R85, R90). -/
def State.operandIn (s : State) (r : NarReq) (p : Part) (space : Bool) (a n : Nat) : Bool :=
  if space then p.inside a n else s.inShare r.site.core.val a n

/-- SYNTH reads its stream's layout header through the home cache, where the check needs it (R85, R94). -/
def State.readLayout (s : State) (r : NarReq) (pid : Nat) (p : Part) : State :=
  let e := s.entry r.stream
  if r.op == 0 && e.belongs pid && e.status != .closed && p.inside e.state.toNat 24 then
    (s.readLines p .normal e.state.toNat 24).1
  else s

/-- R85's checks on the named stream, R230's among them. -/
def State.streamOk (s : State) (r : NarReq) (pid : Nat) (p : Part) : Bool :=
  let e := s.entry r.stream
  match e.part with
  | none => true
  | some q =>
    if q ≠ pid then false
    else if e.status = .closed then true
    else
      let hd := s.partBytes p e.state.toNat 24
      let off := fieldAt hd 12 4
      (!r.ring || r.fmt == e.orFmt.toNat) &&
        (r.op != 0 || (p.inside e.state.toNat e.stateSize.toNat && off != 0xFFFFFFFF &&
          fieldAt hd 16 2 == r.taps && fieldAt hd 18 1 == r.bands && off + 4 * r.taps ≤ e.stateSize.toNat))

/-- The causes for which the request breaks its descriptor (Table 4.5, R85, R230, R245). -/
def State.narCauses (s : State) (r : NarReq) (pid : Nat) (p : Part) : List Nat :=
  let ok := r.shapeOk && s.operandIn r p (r.space 0) r.src r.srcLen &&
    (r.op == 3 || s.operandIn r p (r.space 2) r.coef r.coefLen) &&
    (r.ring || s.operandIn r p (r.space 1) r.dst r.dstLen) && (!r.named || s.streamOk r pid p)
  causes [(decide (2 ≤ r.rm), 0x05), (!ok, 0x09)]

/-! ### Operand reads and writes -/

/-- FP32 words of an operand, and whether a line of it read with an uncorrectable error (R85, R99). -/
def State.narRead (s : State) (r : NarReq) (p : Part) (space : Bool) (a n : Nat) : State × List Word × Bool :=
  let words (bs : Bytes) : List Word := (List.range (n / 4)).map fun i => BitVec.ofNat 32 (fieldAt bs (4 * i) 4)
  if space then
    let x := s.readPart p .normal a n
    (x.1, words x.2.1, !x.2.2.isEmpty)
  else (s, words ((s.share r.site.core.val r.site.share.val).read a n), false)

/-- Write DST; whether a line refused its part (R99). -/
def State.narWrite (s : State) (r : NarReq) (p : Part) (bs : Bytes) : State × Bool :=
  if r.space 1 then
    let w := s.writePart p .normal r.dst bs
    (w.1, !w.2.isEmpty)
  else (s.writeShare r.site.core.val r.site.share.val r.dst bs, false)

/-! ### The arithmetic (R83) -/

/-- Sum the products of taps in order, each added with one rounding to FP32 (R83, log entry 27). -/
def tapSum (l : List (Word × Word)) : Word := l.foldl (fun acc x => f32Fma x.1 x.2 acc) 0

def wordAt (l : List Word) (i : Nat) : Word := l.getD i 0

/-- SYNTH: `u` holds N / M old rows of M bands and then COUNT new ones; sample i of step j (R83). -/
def synthSample (M N : Nat) (u g : List Word) (j i : Nat) : Word :=
  tapSum ((List.range M).flatMap fun k => (List.range N).map fun n =>
    let x := (N / M + j) * M + i - n
    (wordAt g (k * N + n), if x % M = 0 then wordAt u (x / M * M + k) else 0))

/-- ANALYSIS: output j of band k; `x` begins with N − 1 samples of left context (R83). -/
def analysisSample (M N : Nat) (x h : List Word) (j k : Nat) : Word :=
  tapSum ((List.range N).map fun n => (wordAt h (k * N + n), wordAt x (j * M + N - 1 - n)))

/-- CONV1D: output channel j at position p (R83). -/
def convSample (C T : Nat) (x w : List Word) (p j : Nat) : Word :=
  tapSum ((List.range C).flatMap fun i => (List.range T).map fun n =>
    (wordAt w ((j * C + i) * T + n), wordAt x ((p + T - 1 - n) * C + i)))

def wordBytes (l : List Word) : Bytes := l.flatMap fun w => leBytes 4 w.toNat

/-- Samples converted to FMT, packed (R62, R245). -/
def NarReq.samples (r : NarReq) (l : List Word) : Bytes :=
  l.flatMap fun w => leBytes (audioBytes r.fmt) (toAudio r.fmt (if r.rm = 1 then .rtz else .rne) (f32 w))

/-! ### The history store (R84) -/

/-- The stream is not CLOSED and has an undropped, unresolved entry of its last link in a Docket in flight. -/
def State.committable (s : State) (i : Nat) : Bool :=
  let n := (s.entry i).links
  (s.entry i).status != .closed && s.dockets.any fun d => d.entries.any fun x => x.stream == i && x.link + 1 == n && !x.dropped && !x.resolved

/-- Bring stream i's slot of cluster n to the front: as it stands, or loaded into a free slot or into
that of the least recently used stream without a pending step, which is written back first. The slot's
history, and whether the load met an uncorrectable error; none when every slot has a pending step. -/
def State.takeSlot (s : State) (n i len : Nat) : Option (State × Bytes × Bool) :=
  let front (s : State) (x : Slot) : State := s.modClu n fun k =>
    { k with slots := x :: k.slots.filter fun (y : Slot) => y.stream != i }
  let load (s : State) : State × Bytes × Bool :=
    let e := s.entry i
    let a := s.synthAddr e
    let r := a.1.readPart (s.part (e.part.getD 0)) .normal a.2 len
    (front r.1 { stream := i, hist := r.2.1 }, r.2.1, !r.2.2.isEmpty)
  match (s.clu n).slots.find? fun (x : Slot) => x.stream == i with
  | some x => some (front s x, x.hist, false)
  | none =>
    if (s.clu n).slots.length < 256 then some (load s)
    else match (s.clu n).slots.reverse.find? fun (x : Slot) => (s.entry x.stream).pend.isNone with
      | none => none
      | some v =>
        let s := (s.writeBack n v).modClu n fun k =>
          { k with slots := k.slots.filter fun (y : Slot) => y.stream != v.stream }
        some (load s)

/-! ### Serving a request -/

/-- The request leaves the queue. -/
def State.narPop (s : State) (n : Nat) : State := s.modClu n fun k => { k with narQ := k.narQ.drop 1 }

/-- The request completes: SYNC, CLU.NARROW_REQS, and the stage it belongs to (R82, R189). -/
def State.narDone (s : State) (n : Nat) (r : NarReq) : State :=
  let s := (s.syncAdd (2048 * n + r.obj) 1).bump (cluBase n + 0x10C) 0 32 1
  s.wordDone r.site.core.val r.site.share.val none r.stage

/-- The requesting context faults, naming the nar.req word (R82, R85). -/
def State.narFault (s : State) (r : NarReq) (cause : Nat) : State :=
  s.progFault r.site.core.val r.site.share.val cause (engineOf 3) r.index

/-- Hold a stream's samples and history pending; after a line error the stream faults instead (R84, R85, R214; a
refused part of DST counts as one, log entry 105). -/
def State.holdStep (s : State) (r : NarReq) (bad : Bool) (samples : Bytes) (count : Nat) (hist : Option Bytes) :
    State :=
  if bad then s.faultStream r.stream stEccUncorrectable
  else s.modEntry r.stream fun e => 
    { e with pend := some { samples := samples, count := count, hist := hist, engine := r.site.core.val / 64 } }

/-- SYNTH for a stream with an entry to commit and no pending step; none: it waits for a slot. With RING = 0 the samples
reach DST at once, and only the history stays pending (DESIGN CHOICE, log entry 99). -/
def State.synthRun (s : State) (n : Nat) (r : NarReq) (p : Part) : Option State :=
  match s.takeSlot n r.stream (4 * r.taps) with
  | none => none
  | some (s, hist, bad0) =>
    let x := s.narRead r p (r.space 0) r.src r.srcLen
    let g := x.1.narRead r p (r.space 2) r.coef r.coefLen
    let old := (List.range r.taps).map fun i => BitVec.ofNat 32 (fieldAt hist (4 * i) 4)
    let u := old ++ x.2.1
    let y := (List.range r.count).flatMap fun j => (List.range r.bands).map fun i =>
      synthSample r.bands r.taps u g.2.1 j i
    let out := r.samples y
    let t := if r.ring then (g.1, false) else g.1.narWrite r p out
    let new := wordBytes (u.drop (u.length - r.taps))
    some (t.1.holdStep r (bad0 || x.2.2 || g.2.2 || t.2) (if r.ring then out else []) (if r.ring then y.length else 0) (some new))

/-- CONVERT: to DST, or held pending for the ring (R214, R245). -/
def State.convertRun (s : State) (r : NarReq) (p : Part) : State × Bool :=
  let x := s.narRead r p (r.space 0) r.src r.srcLen
  let out := r.samples x.2.1
  if r.ring then (x.1.holdStep r x.2.2 out r.count none, false)
  else
    let t := x.1.narWrite r p out
    (t.1, x.2.2 || t.2)

/-- ANALYSIS and CONV1D. -/
def State.analysisRun (s : State) (r : NarReq) (p : Part) : State × Bool :=
  let x := s.narRead r p (r.space 0) r.src r.srcLen
  let h := x.1.narRead r p (r.space 2) r.coef r.coefLen
  let v := (List.range r.count).flatMap fun j => (List.range r.bands).map fun k =>
    analysisSample r.bands r.taps x.2.1 h.2.1 j k
  let t := h.1.narWrite r p (wordBytes v)
  (t.1, x.2.2 || h.2.2 || t.2)
def State.conv1dRun (s : State) (r : NarReq) (p : Part) : State × Bool :=
  let x := s.narRead r p (r.space 0) r.src r.srcLen
  let w := x.1.narRead r p (r.space 2) r.coef r.coefLen
  let v := (List.range r.count).flatMap fun q => (List.range 16).map fun j =>
    if j < r.couts then convSample r.bands r.taps x.2.1 w.2.1 q j else 0
  let t := w.1.narWrite r p (wordBytes v)
  (t.1, x.2.2 || w.2.2 || t.2)

/-- Requests of cluster n may run: the engine is present, its cluster neither tested, resetting nor
without a clock. -/
def State.narUp (s : State) (n : Nat) : Bool :=
  Tbl.get 0 s.narrowMap n == 0 && !(s.clu n).testing && !(s.clu n).resetting && (s.clu n).power == 0

/-- Serve the head of cluster n's queue when its OP is `op`; an OP outside the table is taken by whichever
command serves it, and faults (R82, log entry 28). -/
def State.serveNarrow (s : State) (n op : Nat) (ev : List LineEvent) : State :=
  match (s.clu n).narQ with
  | [] => s
  | r :: _ =>
    if !s.narUp n || !(r.op == op || 4 ≤ r.op) then s
    else
      let pid := (s.clu n).part.getD 0
      let p := s.part pid
      let t := (s.lineEvents ev).readLayout r pid p
      match t.narCauses r pid p with
      | [c] => (t.narPop n).narFault r c
      | c :: cs => (t.draw.2.narPop n).narFault r ((c :: cs).getD (t.draw.1.toNat % (cs.length + 1)) c)
      | [] =>
        if r.named then
          if !s.committable r.stream then (t.narPop n).narDone n r
          else if (s.entry r.stream).pend.isSome then s
          else if op = 0 then match t.synthRun n r p with
            | none => s
            | some t => (t.narPop n).narDone n r
          else (((t.convertRun r p).1).narPop n).narDone n r
        else
          let x := if op = 1 then t.analysisRun r p else if op = 2 then t.conv1dRun r p else t.convertRun r p
          let t := (x.1.narPop n).narDone n r
          if x.2 then t.narFault r 0x0C else t

/-! ### Meanings -/

def execSynth (clu : Fin 32) (ev : List LineEvent) (s : State) : Outcome := .next (s.serveNarrow clu.val 0 ev)

def execAnalysis (clu : Fin 32) (ev : List LineEvent) (s : State) : Outcome := .next (s.serveNarrow clu.val 1 ev)

def execConv1d (clu : Fin 32) (ev : List LineEvent) (s : State) : Outcome := .next (s.serveNarrow clu.val 2 ev)

def execConvert (clu : Fin 32) (ev : List LineEvent) (s : State) : Outcome := .next (s.serveNarrow clu.val 3 ev)

end Sys2Proof.Machine
end

