-- ==== Sys2Proof/Machine/Power.lean ====
section
/-! DEFINITION. Heat, refresh, and the blocks that gate themselves (R101, R418 to R422, R431). -/

namespace Sys2Proof.Machine

/-! ### Temperature (R101, R421, R422) -/

/-- A throttle level is entered above, and left below, these (Table 21.4), °C. -/
def levelUp (n : Nat) : Int := [92, 100, 105].getD (n - 1) 105
def levelDown (n : Nat) : Int := [89, 97, 102].getD (n - 1) 102

/-- The throttle level at t °C of a cluster at level `old`: the highest that t enters or has not left. -/
def throttleAt (old : Nat) (t : Int) : Nat :=
  let holds (n : Nat) : Bool := decide (levelUp n < t) || (decide (n ≤ old) && decide (levelDown n ≤ t))
  ([3, 2, 1].find? holds).getD 0

/-- A cluster's reading: TEMP, its throttle level, PWR.EVENTS.THROTTLE when throttling begins, and PWR.CLU_THROTTLED
of the time since the reading before, when it throttled (R421, R424). -/
def State.clusterTemp (s : State) (n : Nat) (t : Byte) : State :=
  let old := (s.clu n).throttle
  let new := throttleAt old t.toInt
  let s := if old = 0 then s else s.accrue (cluThrottled n)
  let s := s.modClu n fun k => { k with temp := t, throttle := new }
  if old = 0 ∧ new ≠ 0 then s.setBits 0x060004 1 else s

/-- A channel of which the hottest die reads t: the doubled refresh rate and the halved issue rate (R101). -/
def ChanSt.heat (h : ChanSt) (t : Byte) : ChanSt :=
  { h with temp := t,
           hot := decide (85 < t.toInt) || (h.hot && decide (82 ≤ t.toInt)),
           halved := decide (95 < t.toInt) || (h.halved && decide (92 ≤ t.toInt)) }

/-- The hottest of the 16 dies of stack k. -/
def State.hottestDie (s : State) (k : Nat) : Byte :=
  (List.range 16).foldl (fun (m : Byte) d => if m.slt (Tbl.get 0 s.dies (16 * k + d)) then Tbl.get 0 s.dies (16 * k + d) else m)
    (Tbl.get 0 s.dies (16 * k))

/-- The dies' readings, and what follows for the channels of their stacks: every channel of a stack lies on its 16 dies
(R14, R101; DEDUCED, log entry 82). -/
def State.dieTemps (s : State) (l : List (Fin 64 × Byte)) : State :=
  let s := s.each l fun s x => { s with dies := Tbl.set 0 s.dies x.1.val x.2 }
  s.each (l.map fun x => x.1.val / 16).eraseDups fun s k =>
    let t := s.hottestDie k
    s.each (List.range 64) fun s c => s.modChan (64 * k + c) fun h => h.heat t

/-- The thermal trip (R422). -/
def State.trip (s : State) : State := ({ s with tripped := true }.setBits 0x060004 2).stopAll

/-- Some sensor reads 110 °C or more. -/
def sensorsTrip (t : Temps) : Bool :=
  t.cluster.any (fun x => decide (110 ≤ x.2.toInt)) || t.die.any (fun x => decide (110 ≤ x.2.toInt)) ||
    decide (110 ≤ t.steward.toInt)

/-- ALERT_N is asserted (R431, Table 22.6). -/
def State.alert (s : State) : Bool :=
  s.halted || (List.range 32).any (fun n => (s.clu n).throttle != 0) || s.tripped || s.entropyFail ||
    !s.badRails.isEmpty

/-- THERM_TRIP_N is asserted (R422). -/
def State.thermTrip (s : State) : Bool := s.tripped

/-- SENSOR_READ (R421). -/
def execSensorRead (temps : Temps) (s : State) : Outcome :=
  .next (s.when s.started fun s =>
    let s := s.each temps.cluster fun s x => s.clusterTemp x.1.val x.2
    let s := { s.dieTemps temps.die with stewardTemp := temps.steward }
    s.when (sensorsTrip temps && !s.tripped) State.trip)

/-! ### DRAM channels (R101, R418, R420) -/

/-- CHANNEL_REFRESH (R101): at either rate, also in self-refresh (R420). -/
def execChannelRefresh (ch : Fin 256) (s : State) : Outcome :=
  .next (s.modChan ch.val fun h => { h with refreshes := h.refreshes + 1 })

/-- CHANNEL_RECALIBRATION (R101): one that falls due in self-refresh runs at exit (R420). -/
def execChannelRecalibration (ch : Fin 256) (s : State) : Outcome :=
  .next (s.modChan ch.val fun h =>
    if h.selfRefresh then { h with recalDue := true } else { h with recals := h.recals + 1 })

/-- A channel has no transaction, no Mill work and no test (R418). The eight Mills of a cluster act together on one
request (chapter 6), so Mill work of the cluster is work of each of its channels (DEDUCED, log entry 82). -/
def State.channelIdle (s : State) (c : Nat) : Bool :=
  (s.clusters.all fun k => k.2.txns.all fun t => t.chan != c) && (s.clu (c / 8)).millQ.isEmpty &&
    !(s.clu (c / 8)).chanTest.getLsbD (c % 8)

/-- SELF_REFRESH_ENTRY (R418). -/
def execSelfRefreshEntry (ch : Fin 256) (s : State) : Outcome :=
  .next (s.when (s.channelIdle ch.val) fun s => s.modChan ch.val fun h => { h with selfRefresh := true })

/-- SELF_REFRESH_EXIT (R420). -/
def execSelfRefreshExit (ch : Fin 256) (s : State) : Outcome := .next (s.exitRefresh ch.val)

/-! ### Cores and clusters (R418, R419) -/

/-- A unit is present: neither absent nor failed; no other is ever clocked (R418). -/
def State.corePresent (s : State) (g : Nat) : Bool := Tbl.get 0 s.coreMap g == 0

/-- Core g has no dispatchable word and no engine working: no head of its queues can start, and what waits there waits
(R418). -/
def State.coreIdle (s : State) (g : Nat) : Bool :=
  (List.range 4).all fun j =>
    !s.dispatchable g j && (List.range 4).all fun q => !s.startable g q j

/-- CORE_GATE (R418). -/
def execCoreGate (core : Fin 2048) (s : State) : Outcome :=
  let g := core.val
  .next (s.when (s.corePresent g && s.coreIdle g && !(s.core g).testing && !(s.core g).resetting) fun s =>
    s.modCore g fun c => { c with gated := true })

/-- A Docket of a Ropewalk with a stage in cluster n is in flight (R418). -/
def State.docketAt (s : State) (n : Nat) : Bool :=
  s.dockets.any fun d => match s.rope d.rope with
    | some r => match s.ctx r.ctx with
      | some x => (r.clusters x).contains n
      | none => false
    | none => false

/-- The narrow engine of cluster n holds a pending step. -/
def State.pendingAt (s : State) (n : Nat) : Bool :=
  s.entries.any fun x => match x.2.pend with
    | some q => q.engine == n
    | none => false

/-- Cluster n has nothing to do (R418, Table 21.3). -/
def State.clusterIdle (s : State) (n : Nat) : Bool :=
  let k := s.clu n
  ((List.range 64).all fun i => !s.corePresent (64 * n + i) || (s.core (64 * n + i)).gated) &&
    k.lists.isEmpty && k.held.isEmpty && k.millQ.isEmpty && k.millSub.isEmpty && k.narQ.isEmpty &&
    !s.pendingAt n && !s.docketAt n && !k.testing && !k.resetting && k.millTest == 0 && k.chanTest == 0

/-- CLUSTER_CLOCK_STOP (R418). -/
def execClusterClockStop (clu : Fin 32) (s : State) : Outcome :=
  let n := clu.val
  .next (s.when ((s.clu n).power == 0 && s.clusterIdle n) fun s => s.modClu n fun k => { k with power := 1 })

/-- CLUSTER_POWER_GATE (R418). -/
def execClusterPowerGate (clu : Fin 32) (s : State) : Outcome :=
  let n := clu.val
  .next (s.when ((s.clu n).power == 1) fun s => s.modClu n fun k => { k with power := 2 })

/-- WAKE (R419): work for a core also wakes the cluster it lies in. A tripped device stays stopped (R422). -/
def execWake (target : WakeTarget) (s : State) : Outcome :=
  .next (s.when (!s.tripped) fun s => match target with
    | .cluster n => s.wakeCluster n.val
    | .core g => if s.corePresent g.val then
        (s.wakeCluster (g.val / 64)).modCore g.val fun c => { c with gated := false }
      else s)

end Sys2Proof.Machine
end

