-- ==== Sys2Proof/Machine/Random.lean ====
section
/-! DEFINITION. The random words (R181 to R183, R251 to R259). -/

namespace Sys2Proof.Machine

/-- rng.draw (R181, R256): 32 draws per register, draw j at bytes 8j to 8j + 7. -/
def rngDrawStart (s : State) (g j : Nat) (e : QEntry) : StartRes :=
  let n := fld e.w 27 4 + 1
  let r := s.genDraw g (32 * n)
  .done (r.2.modShare g j fun h => h.vWrite (fld e.w 31 5) 0 (r.1.flatMap (leBytes 8))) (32 * n)

/-- rng.seed (R181, R255): the state takes the exclusive or, then one step; no draw counts. -/
def rngSeedStart (s : State) (g _j : Nat) (e : QEntry) : StartRes :=
  let i := fld e.w 31 5
  let seed := BitVec.ofNat 128
    (e.sv i + 2 ^ 32 * e.sv (i + 1) + 2 ^ 64 * e.sv (i + 2) + 2 ^ 96 * e.sv (i + 3))
  .done (s.modCore g fun c => { c with rng := Config.rngStep (c.rng ^^^ seed) }) 1

/-- Format code of LF and PF (R182, R183). -/
def lfCode (lf : Nat) : Nat :=
  match lf with
  | 0 => 0xD
  | 1 => 0xB
  | _ => 0xC

/-- u = (r + 0.5) / 65,536 as FP32, exact (R182). -/
def uniformOf (r : Nat) : Word := toF32 (.fin false (2 * r + 1) (-17))
def f32Neg (w : Word) : Word := toF32 (f32 w).neg
/-- -log(-log u) (R182). -/
def gumbel (r : Nat) : Word := f32Neg (transcF 1 (f32Neg (transcF 1 (uniformOf r))))

/-- The index of the largest score; ties to the lowest, NaN never chosen (R182). -/
def argMax (scores : List Word) : Option Nat :=
  (scores.zipIdx.foldl (fun (best : Option (Nat × Num)) x =>
    let v := f32 x.1
    if v.isNan then best
    else match best with
      | none => some (x.2, v)
      | some (_, b) => if b.lt v then some (x.2, v) else best) none).map Prod.fst

/-- Scores of classes with fields of their draws: logit x tau + g, one rounding (R182, R260). -/
def gumbelScores (draws : List Nat) (G : Nat) (tau : Word) (logits : List Word) : List Word :=
  logits.zipIdx.map fun x => f32Fma x.1 tau (gumbel (fieldOf draws G x.2))

/-- n FP32 values read from elements of format f at a. -/
def ShareSt.floats (h : ShareSt) (a f n : Nat) : List Word :=
  let es := elemBits f / 8
  (elemsOf (h.read a (n * es)) (elemBits f) n).map fun w => toF32 (elemValue f w)

/-- vsample.cat (R182). -/
def vsampleCatStart (s : State) (g j : Nat) (e : QEntry) : StartRes :=
  let w := e.w
  let al := e.av (fld w 32 4)
  let ao := e.av (fld w 28 4)
  let C := e.sv (fld w 23 5)
  let R := e.sv (fld w 18 5)
  let f := lfCode (fld w 15 3)
  let es := elemBits f / 8
  let G := groupSize (fld w 13 2)
  let tau := BitVec.ofNat 32 (e.sv (fld w 8 5))
  checked s [(C == 0 || decide (1024 < C) || R == 0 || decide (256 < R) || fld w 13 2 == 0, 0x70)] <|
  checked s (s.access g al (R * C * es) es ++ s.access g ao (4 * R) 4) <|
  let h := s.share g j
  let r := (List.range R).foldl (fun (acc : State × List Nat) i =>
    let d := acc.1.genDraw g (ceilDiv C G)
    let k := argMax (gumbelScores d.1 G tau (h.floats (al + i * C * es) f C))
    (d.2, acc.2 ++ [k.getD 0xFFFFFFFF])) (s, [])
  .done (r.1.modShare g j fun h => h.write ao (r.2.flatMap (leBytes 4))) (R * ceilDiv C G)

/-- One logistic-mixture sample from 3K parameters and its draws (R183); `spare` is a free value for a
mixture of which no component can be chosen (log entry 24). -/
def molSample (K G : Nat) (clamp : Bool) (draws : List Nat) (ps : List Word) (spare : Word) : Word :=
  match argMax (gumbelScores draws G fpOne (ps.take K)) with
  | none => spare
  | some k =>
    let u := uniformOf (fieldOf draws G K)
    let l := f32Add (transcF 1 u) (f32Neg (transcF 1 (toF32 ((Num.ofInt 1).add (f32 u).neg))))
    let x := f32Add (ps.getD (K + k) 0) (f32Mul (transcF 0 (ps.getD (2 * K + k) 0)) l)
    if !clamp then x
    else if (f32 x).lt (Num.ofInt (-1)) then 0xBF800000
    else if (Num.ofInt 1).lt (f32 x) then fpOne
    else x

/-- vsample.mol (R183). -/
def vsampleMolStart (s : State) (g j : Nat) (e : QEntry) : StartRes :=
  let w := e.w
  let ap := e.av (fld w 32 4)
  let ao := e.av (fld w 28 4)
  let N := e.sv (fld w 23 5)
  let K := fld w 20 3 + 1
  let f := lfCode (fld w 17 3)
  let es := elemBits f / 8
  let G := groupSize (fld w 15 2)
  checked s [(N == 0 || decide (1024 < N) || fld w 15 2 == 0, 0x70)] <|
  checked s (s.access g ap (N * 3 * K * es) es ++ s.access g ao (4 * N) 4) <|
  let h := s.share g j
  let r := (List.range N).foldl (fun (acc : State × List Word) i =>
    let d := acc.1.genDraw g (ceilDiv (K + 1) G)
    let v := d.2.draw
    (v.2, acc.2 ++ [molSample K G (bitOf w 14) d.1 (h.floats (ap + i * 3 * K * es) f (3 * K)) (v.1.truncate 32)])) (s, [])
  .done (r.1.modShare g j fun h => h.write ao (r.2.flatMap fun x => leBytes 4 x.toNat)) (N * ceilDiv (K + 1) G)

/-! ### Meanings -/

def execRngDraw (at_ : Site) (act : Act) (w : W64) (s : State) : Outcome :=
  .next (s.engineWord at_ act w 1 0xB0 rngDrawStart)

def execRngSeed (at_ : Site) (act : Act) (w : W64) (s : State) : Outcome :=
  .next (s.engineWord at_ act w 1 0xB1 rngSeedStart)

def execVsampleCat (at_ : Site) (act : Act) (w : W64) (s : State) : Outcome :=
  .next (s.engineWord at_ act w 1 0xB2 vsampleCatStart)

def execVsampleMol (at_ : Site) (act : Act) (w : W64) (s : State) : Outcome :=
  .next (s.engineWord at_ act w 1 0xB3 vsampleMolStart)

end Sys2Proof.Machine
end

