-- ==== Sys2Proof/Machine/Scan.lean ====
section
/-! DEFINITION. The scan words (R80, R172, R173, R221 to R226). The spec fixes the recurrence and a
bound on its FP32 evaluation, not the last-place bits: those are a free value held to the bound
(log entry 11). -/

namespace Sys2Proof.Machine

/-- One channel of a scan: operands as FP32 words, by position. -/
structure ScanChan where
  op : Nat
  a : Nat → Word
  a2 : Nat → Word
  b : Nat → Word
  x : Nat → Word
  mark : Nat → Bool
  init : Word × Word

/-- 1 - α of sc.ema, in FP32 with round to nearest even (R219). -/
def oneMinus (a : Word) : Word := toF32 ((Num.ofInt 1).add (f32 a).neg)

/-- The recurrence on exact values, of the coefficients as rounded (R173, R219, R225). -/
def ScanChan.exact (c : ScanChan) (t : Nat) (h : Num × Num) : Num :=
  match c.op with
  | 0x90 => ((f32 (c.a t)).mul h.1).add ((f32 (c.b t)).mul (f32 (c.x t)))
  | 0x91 => (((f32 (c.a t)).mul h.1).add ((f32 (c.a2 t)).mul h.2)).add ((f32 (c.b t)).mul (f32 (c.x t)))
  | _ => ((f32 (c.a t)).mul h.1).add ((f32 (oneMinus (c.a t))).mul (f32 (c.x t)))

/-- The recurrence in strictly serial FP32 (R173). -/
def ScanChan.serial (c : ScanChan) (t : Nat) (h : Word × Word) : Word :=
  match c.op with
  | 0x90 => f32Add (f32Mul (c.a t) h.1) (f32Mul (c.b t) (c.x t))
  | 0x91 => f32Add (f32Add (f32Mul (c.a t) h.1) (f32Mul (c.a2 t) h.2)) (f32Mul (c.b t) (c.x t))
  | _ => f32Add (f32Mul (c.a t) h.1) (f32Mul (oneMinus (c.a t)) (c.x t))

/-- x^n. -/
def Num.pow (x : Num) (n : Nat) : Num :=
  match x with
  | .fin neg m e => .fin (neg && n % 2 == 1) (m ^ n) (e * n)
  | x => if n = 0 then Num.ofInt 1 else x

/-- Both roots of z² - a1 z - a2 have magnitude at most r (Jury's conditions, scaled by r). -/
def rootsWithin (a1 a2 r : Num) : Bool :=
  let rr := r.mul r
  let zero : Num := .fin false 0 0
  let le (x y : Num) : Bool := x.isFin && y.isFin && !y.lt x
  le (a2.maxAbs zero) rr && le zero ((rr.add (r.mul a1).neg).add a2.neg) && le zero ((rr.add (r.mul a1)).add a2.neg)

/-- The largest root magnitude of z² - a1 z - a2, to 24 fraction bits, from below; 1 where it is 1 or more
(R225). -/
def rootMag (a1 a2 : Num) : Num :=
  let half (i : Nat) : Num := .fin false 1 (-(i : Int) - 1)
  if rootsWithin a1 a2 (.fin false (2 ^ 24 - 1) (-24)) then
    (List.range 24).foldl (fun r i => if rootsWithin a1 a2 (r.add (half i)) then r else r.add (half i)) (.fin false 0 0)
  else Num.ofInt 1

/-- The magnitude that ρ bounds at one position: |a|, and for order 2 the roots' (R225). -/
def ScanChan.rhoAt (c : ScanChan) (t : Nat) : Num :=
  if c.op = 0x91 then rootMag (f32 (c.a t)) (f32 (c.a2 t)) else Num.maxAbs (f32 (c.a t)) (.fin false 0 0)

/-- Progress of one channel: exact and serial values, whether the serial evaluation of the segment has
been exact, the magnitudes H and ρ, the positions of the segment, what they depend on, and the FP32
values produced, newest first. -/
structure ScanAcc where
  ex : Num × Num
  se : Word × Word
  same : Bool
  big : Num
  rho : Num
  n : Nat
  deps : List Word
  out : List Word

/-- The error of a candidate at the n-th position of a segment keeps what the bounds leave to one instruction, the
state's rounding apart: 8 x 2^-24 x H x (1 - ρ^n) / (1 - ρ) for ρ < 1, so that over instructions of P positions
the errors carried stay within R225, and 8 x 2^-24 x H x n for ρ ≥ 1 (R226); order 2 doubles it (log entry 11). -/
def withinScan (op : Nat) (big rho : Num) (n : Nat) (exact cand : Num) : Bool :=
  let err := Num.maxAbs (cand.add exact.neg) (.fin false 0 0)
  let k : Num := .fin false (if op = 0x91 then 16 else 8) (-24)
  let one := Num.ofInt 1
  let lim (l r : Num) : Bool := l.isFin && r.isFin && !r.lt l
  if rho.lt one then lim (err.mul (one.add rho.neg)) ((big.mul k).mul (one.add (rho.pow n).neg))
  else lim err ((big.mul k).mul (Num.ofInt n))

/-- A segment begins from given state. -/
def ScanAcc.restart (h : Word × Word) (out : List Word) : ScanAcc :=
  { ex := (f32 h.1, f32 h.2), se := h, same := true, big := Num.maxAbs (f32 h.1) (f32 h.2),
    rho := .fin false 0 0, n := 0, deps := [h.1, h.2], out := out }

/-- Position t of a channel (R173): `P C CL ch` are what the last places may also depend on. -/
def ScanChan.step (c : ScanChan) (P C CL ch : Nat) (acc : ScanAcc) (t : Nat) : ScanAcc :=
  let acc := if c.mark t then ScanAcc.restart c.init acc.out else acc
  let ex := c.exact t acc.ex
  let se := c.serial t acc.se
  let same := acc.same && (f32 se == ex || (f32 se).eqv ex)
  let big := acc.big.maxAbs ex
  let rho := acc.rho.maxAbs (c.rhoAt t)
  let n := acc.n + 1
  let deps := acc.deps ++ [c.a t, c.a2 t, c.b t, c.x t]
  let cand := Config.scanValue c.op P C CL ch t deps
  let v := if !same && withinScan c.op big rho n ex (f32 cand) then cand else se
  { ex := (ex, acc.ex.1), se := (se, acc.se.1), same := same, big := big, rho := rho, n := n, deps := deps,
    out := v :: acc.out }

/-- FP32 values of a channel's P positions in order. -/
def ScanChan.run (c : ScanChan) (P C CL ch : Nat) (h : Word × Word) : List Word :=
  ((List.range P).foldl (c.step P C CL ch) (ScanAcc.restart h [])).out.reverse

/-- The format code of SF (R172). -/
def scanFmt (sf : Nat) : Nat :=
  match sf with
  | 0 => 0xD
  | 1 => 0xB
  | 2 => 0xC
  | n => n

/-- Work cycles (R221). -/
def scanCycles (op P C : Nat) : Nat :=
  let p := ((List.range 7).map (2 ^ ·)).find? (P ≤ ·) |>.getD 64
  let w := if P ≤ 64 then ceilDiv (C * p) 64 else C * ceilDiv P 64
  if op = 0x91 then 2 * w else w

/-- A scan word (R172, R173). A channel count outside 1 to 65,535, which Table 8.5 gives no cause, has cause 0x08 (DESIGN
CHOICE, log entry 101). -/
def scanStart (op : Nat) (s : State) (g j : Nat) (e : QEntry) : StartRes :=
  let w := e.w
  let ab := fld w 32 4
  let ax := e.av ab
  let ac := e.av (ab + 1)
  let ay := e.av (ab + 2)
  let ast := e.av (ab + 3)
  let P := e.sv (fld w 27 5)
  let C := e.sv (fld w 22 5)
  let cl := fld w 19 3
  let sf := fld w 16 3
  let cp := bitOf w 15
  let rs := bitOf w 14
  let rm := fld w 12 2
  let f := scanFmt sf
  let es := elemBits f / 8
  let ncoef := if cp then P * C else C
  let rows := if op = 0x91 then 2 else 1
  let sets := if op = 0x90 then 2 else if op = 0x91 then 3 else 1
  let blk := rows * C * es
  checked s
    [(cl == 7 || P == 0 || C == 0 || decide (65535 < C) || decide (64 * 2 ^ cl < P), 0x08),
     (decide (5 ≤ sf) || (op == 0x92 && cp), 0x61), (decide (2 ≤ rm), 0x05)] <|
  checked s
    (s.access g ax (P * C * es) es ++ s.access g ac (sets * ncoef * 4) 4 ++ s.access g ay (P * C * es) es ++
      s.access g ast (if rs then 2 * blk + ceilDiv P 8 else blk) es) <|
  let h := s.share g j
  let val (a : Nat) : Word := BitVec.ofNat 32 (convertTo 0xD .rne false (elemValue f (leNat (h.read a es))))
  let coef (k t c : Nat) : Word :=
    BitVec.ofNat 32 (leNat (h.read (ac + 4 * (k * ncoef + (if cp then t * C + c else c))) 4))
  let row (base r c : Nat) : Word := if r < rows then val (base + (r * C + c) * es) else 0
  let chan (c : Nat) : ScanChan :=
    { op := op, a := fun t => coef 0 t c, a2 := fun t => if op = 0x91 then coef 1 t c else 0,
      b := fun t => if op = 0x92 then 0 else coef (sets - 1) t c, x := fun t => val (ax + (t * C + c) * es),
      mark := fun t => rs && bitOf (leNat (h.read (ast + 2 * blk + t / 8) 1)) (t % 8),
      init := (row (ast + blk) 0 c, row (ast + blk) 1 c) }
  let rmode : Rm := if rm = 1 then .rtz else .rne
  let put (v : Word) : Bytes := leBytes es (convertTo f rmode false (f32 v))
  let out := (List.range C).map fun c => (c, (chan c).run P C cl c (row ast 0 c, row ast 1 c))
  -- h2 after the last position: the position before it, or what the segment's start gave
  let second (c : Nat) (ys : List Word) : Word :=
    if (chan c).mark (P - 1) then (row (ast + blk) 0 c)
    else if P = 1 then row ast 0 c else ys.getD (P - 2) 0
  let write (h : ShareSt) (r : Nat × List Word) : ShareSt :=
    let h := r.2.zipIdx.foldl (fun h v => h.write (ay + (v.2 * C + r.1) * es) (put v.1)) h
    let h := h.write (ast + r.1 * es) (put (r.2.getD (P - 1) 0))
    if op = 0x91 then h.write (ast + (C + r.1) * es) (put (second r.1 r.2)) else h
  .done (s.modShare g j fun h => out.foldl write h) (scanCycles op P C)

/-! ### Meanings -/

def execScF1 (at_ : Site) (act : Act) (w : W64) (s : State) : Outcome :=
  .next (s.engineWord at_ act w 2 0x90 (scanStart 0x90))

def execScF2 (at_ : Site) (act : Act) (w : W64) (s : State) : Outcome :=
  .next (s.engineWord at_ act w 2 0x91 (scanStart 0x91))

def execScEma (at_ : Site) (act : Act) (w : W64) (s : State) : Outcome :=
  .next (s.engineWord at_ act w 2 0x92 (scanStart 0x92))

end Sys2Proof.Machine
end

