-- ==== Sys2Proof/Machine/Vector.lean ====
section
/-! DEFINITION. The vector words of classes 0x7 and 0x8 (R163 to R171, with R43, R46, R56 to R64). -/

namespace Sys2Proof.Machine

/-! ### Elements of EF (R165) -/

/-- The floating layout of EF 0 to 2. -/
def efFmt (ef : Nat) : Fmt :=
  match ef with
  | 0 => fp32
  | 1 => bf16
  | _ => fp16

/-- The exact value of an integer element of EF 3 to 5. -/
def efInt (ef w : Nat) : Int := if ef = 5 then (w % 256 : Nat) else signed (efBits ef) w

/-- Saturate an integer to EF and encode it (R43). -/
def efSat (ef : Nat) (i : Int) : Nat :=
  let r := intRange (efCode ef)
  unsigned (efBits ef) (clampInt r.1 r.2 i)

/-- RM 0 or 1 of a class 0x7 word. -/
def rmOf (rm : Nat) : Rm := if rm = 1 then .rtz else .rne

/-- A lane: EF, RM and the three raw operands. -/
structure Lane where
  ef : Nat
  rm : Rm
  a : Nat
  b : Nat
  c : Nat

/-- Values of the operands, floating and integer. -/
def Lane.fa (l : Lane) : Num := (efFmt l.ef).value l.a
def Lane.fb (l : Lane) : Num := (efFmt l.ef).value l.b
def Lane.fc (l : Lane) : Num := (efFmt l.ef).value l.c
def Lane.ia (l : Lane) : Int := efInt l.ef l.a
def Lane.ib (l : Lane) : Int := efInt l.ef l.b
/-- One rounding of a floating result (R56). -/
def Lane.rnd (l : Lane) (x : Num) : Nat := (efFmt l.ef).round l.rm false x
/-- All ones or zero. -/
def Lane.mask (l : Lane) (b : Bool) : Nat := if b then 2 ^ efBits l.ef - 1 else 0

def laneAdd (l : Lane) : Nat := if efFloat l.ef then l.rnd (l.fa.add l.fb) else efSat l.ef (l.ia + l.ib)
def laneSub (l : Lane) : Nat := if efFloat l.ef then l.rnd (l.fa.add l.fb.neg) else efSat l.ef (l.ia - l.ib)
def laneMul (l : Lane) : Nat := if efFloat l.ef then l.rnd (l.fa.mul l.fb) else efSat l.ef (l.ia * l.ib)
def laneFma (l : Lane) : Nat := l.rnd ((l.fa.mul l.fb).add l.fc)
def laneMin (l : Lane) : Nat :=
  if efFloat l.ef then (efFmt l.ef).minimum l.a l.b else if l.ib < l.ia then l.b else l.a
def laneMax (l : Lane) : Nat :=
  if efFloat l.ef then (efFmt l.ef).maximum l.a l.b else if l.ia < l.ib then l.b else l.a
def laneLt (l : Lane) : Nat := l.mask (if efFloat l.ef then l.fa.lt l.fb else decide (l.ia < l.ib))
def laneEq (l : Lane) : Nat := l.mask (if efFloat l.ef then l.fa.eqv l.fb else decide (l.ia = l.ib))
def laneSel (l : Lane) : Nat := if l.c ≠ 0 then l.a else l.b
def laneShl (l : Lane) : Nat := efSat l.ef (l.ia * (2 ^ (l.b % 32) : Nat))
def laneShr (l : Lane) : Nat := l.a / 2 ^ (l.b % 32)
def laneSra (l : Lane) : Nat := unsigned (efBits l.ef) (l.ia / (2 ^ (l.b % 32) : Nat))
/-- tanh(A) x sigmoid(B) (R166). -/
def laneGtan (l : Lane) : Nat :=
  l.rnd ((f32 (transcF 3 (BitVec.ofNat 32 l.a))).mul (f32 (transcF 2 (BitVec.ofNat 32 l.b))))
/-- A + C x (B - A), the difference rounded first (R166). -/
def laneGlerp (l : Lane) : Nat :=
  let t := (efFmt l.ef).value (l.rnd (l.fb.add l.fa.neg))
  l.rnd (l.fa.add (l.fc.mul t))

/-! ### Class 0x7 -/

/-- Checks of a class 0x7 word: RM and the permitted EF (R165). -/
def vecChecks (w : Nat) (efOk : Nat → Bool) : List (Bool × Nat) :=
  [(decide (2 ≤ fld w 11 2), 0x05), (!efOk (fld w 13 3), 0x60)]

/-- Repetitions i = 0 to NR in order (R164). -/
def reps (nr : Nat) (h : ShareSt) (f : ShareSt → Nat → ShareSt) : ShareSt := (List.range (nr + 1)).foldl f h

/-- An element-wise class 0x7 word (R163 to R165). -/
def vecStart (f : Lane → Nat) (efOk : Nat → Bool) (s : State) (g j : Nat) (e : QEntry) : StartRes :=
  let w := e.w
  let ef := fld w 13 3
  let nr := fld w 6 4
  checked s (vecChecks w efOk) <|
  let bits := efBits ef
  let n := 2048 / bits
  let step (h : ShareSt) (i : Nat) : ShareSt :=
    let a := elemsOf (h.vRead (fld w 26 5 + i) 0 256) bits n
    let b := if bitOf w 10 then List.replicate n (e.sv (fld w 21 5) % 2 ^ bits)
             else elemsOf (h.vRead (fld w 21 5 + i) 0 256) bits n
    let c := elemsOf (h.vRead ((fld w 16 5 + i) % 32) 0 256) bits n
    let d := (List.range n).map fun k =>
      f { ef := ef, rm := rmOf (fld w 11 2), a := a.getD k 0, b := b.getD k 0, c := c.getD k 0 }
    h.vWrite (fld w 31 5 + i) 0 (packElems bits d)
  .done (s.modShare g j fun h => reps nr h step) (nr + 1)

/-- EF sets of Table 8.3. -/
def efAll (ef : Nat) : Bool := ef ≤ 5
def efInteger (ef : Nat) : Bool := 3 ≤ ef && ef ≤ 5

/-- The fixed tree of v.red over 64 lanes (R166): six levels of neighbours combined. -/
def redTree (f : Nat → Nat → Nat) (l : List Nat) : Nat :=
  ((List.range 6).foldl (fun l _ => (List.range (l.length / 2)).map fun i => f (l.getD (2 * i) 0) (l.getD (2 * i + 1) 0)) l).getD 0 0

/-- v.red (R166). -/
def vRedStart (s : State) (g j : Nat) (e : QEntry) : StartRes :=
  let w := e.w
  let ef := fld w 13 3
  let op := fld w 16 5
  let nr := fld w 6 4
  checked s ([(decide (2 ≤ fld w 11 2), 0x05), (!(ef == 0 || ef == 3) || decide (2 ≤ op), 0x60)]) <|
  let f (a b : Nat) : Nat :=
    let l : Lane := { ef := ef, rm := .rne, a := a, b := b, c := 0 }
    if op = 0 then laneAdd l else laneMax l
  let step (h : ShareSt) (i : Nat) : ShareSt :=
    let r := redTree f (elemsOf (h.vRead (fld w 26 5 + i) 0 256) 32 64)
    h.vWrite (fld w 31 5 + i) 0 (packElems 32 (List.replicate 64 r))
  .done (s.modShare g j fun h => reps nr h step) (6 * (nr + 1))

/-- Shift an exact integer right, rounding the magnitude's shifted-out bits by RM (R61). -/
def shiftRound (rm : Rm) (p : Int) (k : Nat) : Int :=
  let m : Int := roundShift rm p.natAbs k
  if p < 0 then -m else m

/-- v.rq (R167). -/
def vRqStart (s : State) (g j : Nat) (e : QEntry) : StartRes :=
  let w := e.w
  let ef := fld w 13 3
  let rm := fld w 11 2
  let nr := fld w 6 4
  checked s [(rm == 3, 0x05), (!(ef == 4 || ef == 5), 0x60)] <|
  let r := s.roundings g rm 4 (256 * (nr + 1))
  let mul := signed 32 (e.sv (fld w 21 5))
  let zp := signed 32 (e.sv (fld w 16 5))
  let step (h : ShareSt) (i : Nat) : ShareSt :=
    let a := elemsOf (h.vRead (fld w 26 5 + 4 * i) 0 1024) 32 256
    let d := (List.range 256).map fun k =>
      efSat ef (shiftRound (r.1 (256 * i + k)) (signed 32 (a.getD k 0) * mul) (fld w 0 6) + zp)
    h.vWrite (fld w 31 5 + i) 0 (packElems 8 d)
  .done (r.2.modShare g j fun h => reps nr h step) ((if rm = 2 then 64 else 4) * (nr + 1))

/-! ### Class 0x8 -/

/-- v.ld and v.st (R168): whole registers at a_A + OFF. -/
def vMemChecks (s : State) (g : Nat) (e : QEntry) : List (Bool × Nat) :=
  let w := e.w
  let a := e.addrOff (fld w 27 4) 21 (fld w 0 21)
  let es := fld w 21 2
  (es == 3, 0x60) :: s.access g a (256 * (fld w 23 4 + 1)) (if es = 3 then 1 else 2 ^ es)

def vLdStart (s : State) (g j : Nat) (e : QEntry) : StartRes :=
  let w := e.w
  let a := e.addrOff (fld w 27 4) 21 (fld w 0 21)
  checked s (vMemChecks s g e) <|
  .done (s.modShare g j fun h => h.vWrite (fld w 31 5) 0 (h.read a (256 * (fld w 23 4 + 1)))) (fld w 23 4 + 1)

def vStStart (s : State) (g j : Nat) (e : QEntry) : StartRes :=
  let w := e.w
  let a := e.addrOff (fld w 27 4) 21 (fld w 0 21)
  checked s (vMemChecks s g e) <|
  .done (s.modShare g j fun h => h.write a (h.vRead (fld w 31 5) 0 (256 * (fld w 23 4 + 1)))) (fld w 23 4 + 1)

/-- Cycles of a conversion of n elements (Table 4.4). -/
def cvtCycles (rm G sb db n : Nat) : Nat :=
  if rm = 2 then n / G else ceilDiv n (cvtLanes sb db)

/-- v.act (R169). -/
def vActStart (s : State) (g j : Nat) (e : QEntry) : StartRes :=
  let w := e.w
  let fn := fld w 22 4
  let df := fld w 18 4
  let rm := fld w 16 2
  let nr := fld w 9 4
  checked s ([(decide (8 ≤ fn), 0x60), (!actFmt df, 0x60), (bitOf w 15 && df != 4, 0x06)] ++ rmGChecks rm (fld w 13 2)) <|
  let G := groupSize (fld w 13 2)
  let bits := elemBits df
  let p := actParts df
  let r := s.roundings g rm G (64 * (nr + 1))
  let step (h : ShareSt) (i : Nat) : ShareSt :=
    let a := elemsOf (h.vRead (fld w 26 5 + i) 0 256) 32 64
    let d := (List.range 64).map fun k =>
      convertTo df (r.1 (64 * i + k)) (bitOf w 15) (f32 (actF fn (BitVec.ofNat 32 (a.getD k 0))))
    h.vWrite (fld w 31 5 + i / p) (i % p * (64 * bits / 8)) (packElems bits d)
  .done (r.2.modShare g j fun h => reps nr h step) (max 4 (cvtCycles rm G 32 bits 64) * (nr + 1))

/-- The value of a register element of a v.cvt format (R168, R170). -/
def cvtValue (f aud w : Nat) : Num := if f = 0xF then ofAudio (aud + 1) w else elemValue f w

/-- A value as a register element of a v.cvt format: PCM24 is sign-extended to 32 bits (R168). -/
def cvtResult (f aud : Nat) (rm : Rm) (ovf : Bool) (x : Num) : Nat :=
  if f = 0xF then
    let v := toAudio (aud + 1) rm x
    if aud = 1 then unsigned 32 (signed 24 v) else v
  else convertTo f rm ovf x

/-- v.cvt (R170). -/
def vCvtStart (s : State) (g j : Nat) (e : QEntry) : StartRes :=
  let w := e.w
  let sf := fld w 22 4
  let df := fld w 18 4
  let rm := fld w 16 2
  let aud := fld w 11 2
  let nr := fld w 7 4
  let sb := cvtBits sf aud
  let db := cvtBits df aud
  checked s ([(sb == 0 || db == 0, 0x60), (sf != 0xF && df != 0xF && aud != 0, 0x60),
      (bitOf w 15 && df != 4, 0x06)] ++ rmGChecks rm (fld w 13 2)) <|
  let G := groupSize (fld w 13 2)
  let n := cvtLanes sb db
  let r := s.roundings g rm G (n * (nr + 1))
  let step (h : ShareSt) (i : Nat) : ShareSt :=
    let a := elemsOf (h.vRead (fld w 26 5 + i * groupRegs n sb) 0 (n * sb / 8)) sb n
    let d := (List.range n).map fun k => cvtResult df aud (r.1 (n * i + k)) (bitOf w 15) (cvtValue sf aud (a.getD k 0))
    h.vWrite (fld w 31 5 + i * groupRegs n db) 0 (packElems db d)
  .done (r.2.modShare g j fun h => reps nr h step) (cvtCycles rm G sb db n * (nr + 1))

/-- Storage formats of v.cvts: FP32, BF16 or FP16 to any but INT32 and audio (R171). -/
def isWideFloat (f : Nat) : Bool := f == 0xD || f == 0xB || f == 0xC

/-- v.cvts (R171). -/
def vCvtsStart (s : State) (g j : Nat) (e : QEntry) : StartRes :=
  let w := e.w
  let ad := e.av (fld w 27 4)
  let ax := e.av (fld w 27 4 + 1)
  let sf := fld w 23 4
  let df := fld w 19 4
  let rm := fld w 17 2
  let nr := fld w 4 4
  let db := elemBits df
  let len := 256 * db / 8
  checked s ([(!isWideFloat sf || decide (0xE ≤ df), 0x60), (bitOf w 16 && df != 4, 0x06)] ++ rmGChecks rm (fld w 14 2)) <|
  checked s (s.access g ad (len * (nr + 1)) (max 1 (db / 8)) ++
    [(isMx df && !s.inShare g ax (8 * (nr + 1)), 0x01)]) <|
  let G := groupSize (fld w 14 2)
  let r := s.roundings g rm G (256 * (nr + 1))
  let sb := elemBits sf
  let scale := if bitOf w 13 then some (e.sv (fld w 8 5) % 256) else none
  let step (h : ShareSt) (i : Nat) : ShareSt :=
    let a := elemsOf (h.vRead (fld w 31 5 + i * groupRegs 256 sb) 0 (256 * sb / 8)) sb 256
    let val (k : Nat) : Num := elemValue sf (a.getD k 0)
    if isMx df then
      let blocks := (List.range 8).map fun b =>
        mxBlock df scale ((List.range 32).map fun k => (val (32 * b + k), r.1 (256 * i + 32 * b + k)))
      let h := h.write (ad + i * len) (packElems db (blocks.flatMap Prod.snd))
      h.write (ax + 8 * i) (blocks.map fun b => BitVec.ofNat 8 b.1)
    else
      h.write (ad + i * len)
        (packElems db ((List.range 256).map fun k => convertTo df (r.1 (256 * i + k)) (bitOf w 16) (val k)))
  .done (r.2.modShare g j fun h => reps nr h step) (cvtCycles rm G sb db 256 * (nr + 1))

/-- DF holds every value of SF (R57, R171). -/
def cvtlExact (sf df : Nat) : Bool :=
  isWideFloat df && (sf ≤ 0xA || sf == df || (df == 0xD && isWideFloat sf))

/-- v.cvtl (R171). -/
def vCvtlStart (s : State) (g j : Nat) (e : QEntry) : StartRes :=
  let w := e.w
  let a := e.av (fld w 27 4)
  let ax := e.av (fld w 27 4 + 1)
  let sf := fld w 23 4
  let df := fld w 19 4
  let nr := fld w 15 4
  let sb := elemBits sf
  let db := elemBits df
  let len := 256 * sb / 8
  checked s [(!cvtlExact sf df, 0x60)] <|
  checked s (s.access g a (len * (nr + 1)) (max 1 (sb / 8)) ++
    [(isMx sf && !s.inShare g ax (8 * (nr + 1)), 0x01)]) <|
  let step (h : ShareSt) (i : Nat) : ShareSt :=
    let src := elemsOf (h.read (a + i * len) len) sb 256
    let xs := h.read (ax + 8 * i) 8
    let val (k : Nat) : Num :=
      if isMx sf then mxValue sf (fieldAt xs (k / 32) 1) (src.getD k 0) else elemValue sf (src.getD k 0)
    h.vWrite (fld w 31 5 + i * groupRegs 256 db) 0
      (packElems db ((List.range 256).map fun k => convertTo df .rne false (val k)))
  .done (s.modShare g j fun h => reps nr h step) (cvtCycles 0 1 sb db 256 * (nr + 1))

/-! ### Meanings -/

def execVAdd (at_ : Site) (act : Act) (w : W64) (s : State) : Outcome :=
  .next (s.engineWord at_ act w 1 0x70 (vecStart laneAdd efAll))

def execVSub (at_ : Site) (act : Act) (w : W64) (s : State) : Outcome :=
  .next (s.engineWord at_ act w 1 0x71 (vecStart laneSub efAll))

def execVMul (at_ : Site) (act : Act) (w : W64) (s : State) : Outcome :=
  .next (s.engineWord at_ act w 1 0x72 (vecStart laneMul efAll))

def execVFma (at_ : Site) (act : Act) (w : W64) (s : State) : Outcome :=
  .next (s.engineWord at_ act w 1 0x73 (vecStart laneFma efFloat))

def execVMin (at_ : Site) (act : Act) (w : W64) (s : State) : Outcome :=
  .next (s.engineWord at_ act w 1 0x74 (vecStart laneMin efAll))

def execVMax (at_ : Site) (act : Act) (w : W64) (s : State) : Outcome :=
  .next (s.engineWord at_ act w 1 0x75 (vecStart laneMax efAll))

def execVCmplt (at_ : Site) (act : Act) (w : W64) (s : State) : Outcome :=
  .next (s.engineWord at_ act w 1 0x76 (vecStart laneLt efAll))

def execVCmpeq (at_ : Site) (act : Act) (w : W64) (s : State) : Outcome :=
  .next (s.engineWord at_ act w 1 0x77 (vecStart laneEq efAll))

def execVSel (at_ : Site) (act : Act) (w : W64) (s : State) : Outcome :=
  .next (s.engineWord at_ act w 1 0x78 (vecStart laneSel efAll))

def execVShl (at_ : Site) (act : Act) (w : W64) (s : State) : Outcome :=
  .next (s.engineWord at_ act w 1 0x79 (vecStart laneShl efInteger))

def execVShr (at_ : Site) (act : Act) (w : W64) (s : State) : Outcome :=
  .next (s.engineWord at_ act w 1 0x7A (vecStart laneShr efInteger))

def execVSra (at_ : Site) (act : Act) (w : W64) (s : State) : Outcome :=
  .next (s.engineWord at_ act w 1 0x7B (vecStart laneSra efInteger))

def execVGtan (at_ : Site) (act : Act) (w : W64) (s : State) : Outcome :=
  .next (s.engineWord at_ act w 1 0x7C (vecStart laneGtan (· == 0)))

def execVGlerp (at_ : Site) (act : Act) (w : W64) (s : State) : Outcome :=
  .next (s.engineWord at_ act w 1 0x7D (vecStart laneGlerp efFloat))

def execVRed (at_ : Site) (act : Act) (w : W64) (s : State) : Outcome :=
  .next (s.engineWord at_ act w 1 0x7E vRedStart)

def execVRq (at_ : Site) (act : Act) (w : W64) (s : State) : Outcome :=
  .next (s.engineWord at_ act w 1 0x7F vRqStart)

def execVLd (at_ : Site) (act : Act) (w : W64) (s : State) : Outcome :=
  .next (s.engineWord at_ act w 1 0x80 vLdStart)

def execVSt (at_ : Site) (act : Act) (w : W64) (s : State) : Outcome :=
  .next (s.engineWord at_ act w 1 0x81 vStStart)

def execVAct (at_ : Site) (act : Act) (w : W64) (s : State) : Outcome :=
  .next (s.engineWord at_ act w 1 0x82 vActStart)

def execVCvt (at_ : Site) (act : Act) (w : W64) (s : State) : Outcome :=
  .next (s.engineWord at_ act w 1 0x83 vCvtStart)

def execVCvts (at_ : Site) (act : Act) (w : W64) (s : State) : Outcome :=
  .next (s.engineWord at_ act w 1 0x84 vCvtsStart)

def execVCvtl (at_ : Site) (act : Act) (w : W64) (s : State) : Outcome :=
  .next (s.engineWord at_ act w 1 0x85 vCvtlStart)

end Sys2Proof.Machine
end

