-- ==== Sys2Proof/Machine/Dispatch.lean ====
section
/-! DEFINITION. The dispatch of every command to its meaning: one arm per row of
spec/opcode_table.json, one direct call each. -/

namespace Sys2Proof.Machine

/-- What a command does, queue apart (the block's whole command set). -/
def exec (i : Instr) (s : State) : Host.Outcome State Fault Refusal :=
  match i with
  | .registerWrite via addr val => Sys2Proof.Machine.execRegisterWrite via addr val s
  | .latchedPairRead via addr => Sys2Proof.Machine.execLatchedPairRead via addr s
  | .readClear via addr => Sys2Proof.Machine.execReadClear via addr s
  | .ldgSelWrite via val => Sys2Proof.Machine.execLdgSelWrite via val s
  | .txRateWrite via port val => Sys2Proof.Machine.execTxRateWrite via port val s
  | .cmdWinWrite offset data => Sys2Proof.Machine.execCmdWinWrite offset data s
  | .pop val => Sys2Proof.Machine.execPop val s
  | .i3cPrivateWrite data => Sys2Proof.Machine.execI3cPrivateWrite data s
  | .i3cPrivateRead read => Sys2Proof.Machine.execI3cPrivateRead read s
  | .enec bits => Sys2Proof.Machine.execEnec bits s
  | .disec bits => Sys2Proof.Machine.execDisec bits s
  | .rstdaa => Sys2Proof.Machine.execRstdaa s
  | .entdaa won da => Sys2Proof.Machine.execEntdaa won da s
  | .setdasa sa da => Sys2Proof.Machine.execSetdasa sa da s
  | .setnewda da => Sys2Proof.Machine.execSetnewda da s
  | .setmwl n => Sys2Proof.Machine.execSetmwl n s
  | .getmwl => Sys2Proof.Machine.execGetmwl s
  | .setmrl n => Sys2Proof.Machine.execSetmrl n s
  | .getmrl => Sys2Proof.Machine.execGetmrl s
  | .getpid => Sys2Proof.Machine.execGetpid s
  | .getbcr => Sys2Proof.Machine.execGetbcr s
  | .getdcr => Sys2Proof.Machine.execGetdcr s
  | .getstatus => Sys2Proof.Machine.execGetstatus s
  | .getmxds => Sys2Proof.Machine.execGetmxds s
  | .rstact action => Sys2Proof.Machine.execRstact action s
  | .enthdr0 => Sys2Proof.Machine.execEnthdr0 s
  | .ibiRetry => Sys2Proof.Machine.execIbiRetry s
  | .hotJoin => Sys2Proof.Machine.execHotJoin s
  | .ibi code acked => Sys2Proof.Machine.execIbi code acked s
  | .startUp => Sys2Proof.Machine.execStartUp s
  | .stageComplete stage r => Sys2Proof.Machine.execStageComplete stage r s
  | .stageTimeout stage kind unit us => Sys2Proof.Machine.execStageTimeout stage kind unit us s
  | .resetNLow => Sys2Proof.Machine.execResetNLow s
  | .pwrOkLow => Sys2Proof.Machine.execPwrOkLow s
  | .wholeDeviceReset => Sys2Proof.Machine.execWholeDeviceReset s
  | .railExcursion rail => Sys2Proof.Machine.execRailExcursion rail s
  | .referenceEdge src t => Sys2Proof.Machine.execReferenceEdge src t s
  | .predictedInstant => Sys2Proof.Machine.execPredictedInstant s
  | .windowClose => Sys2Proof.Machine.execWindowClose s
  | .missingSpan => Sys2Proof.Machine.execMissingSpan s
  | .internalPeriod => Sys2Proof.Machine.execInternalPeriod s
  | .remeasure => Sys2Proof.Machine.execRemeasure s
  | .frameStart => Sys2Proof.Machine.execFrameStart s
  | .fChange => Sys2Proof.Machine.execFChange s
  | .delayedStart => Sys2Proof.Machine.execDelayedStart s
  | .identify src hdr params => Sys2Proof.Machine.execIdentify src hdr params s
  | .getStageReport src hdr params => Sys2Proof.Machine.execGetStageReport src hdr params s
  | .getFloorPlan src hdr params => Sys2Proof.Machine.execGetFloorPlan src hdr params s
  | .createPartition src hdr params => Sys2Proof.Machine.execCreatePartition src hdr params s
  | .destroyPartition src hdr params => Sys2Proof.Machine.execDestroyPartition src hdr params s
  | .resetUnit src hdr params => Sys2Proof.Machine.execResetUnit src hdr params s
  | .selfTest src hdr params => Sys2Proof.Machine.execSelfTest src hdr params s
  | .testComplete cmd found => Sys2Proof.Machine.execTestComplete cmd found s
  | .loadImage src hdr params => Sys2Proof.Machine.execLoadImage src hdr params s
  | .admitContext src hdr params => Sys2Proof.Machine.execAdmitContext src hdr params s
  | .retireContext src hdr params => Sys2Proof.Machine.execRetireContext src hdr params s
  | .quiescent ctx => Sys2Proof.Machine.execQuiescent ctx s
  | .retireLimitExpiry ctx => Sys2Proof.Machine.execRetireLimitExpiry ctx s
  | .setShares src hdr params => Sys2Proof.Machine.execSetShares src hdr params s
  | .defineRopewalk src hdr params => Sys2Proof.Machine.execDefineRopewalk src hdr params s
  | .openStream src hdr params => Sys2Proof.Machine.execOpenStream src hdr params s
  | .parkStream src hdr params => Sys2Proof.Machine.execParkStream src hdr params s
  | .parkComplete stream => Sys2Proof.Machine.execParkComplete stream s
  | .unparkStream src hdr params => Sys2Proof.Machine.execUnparkStream src hdr params s
  | .moveStream src hdr params => Sys2Proof.Machine.execMoveStream src hdr params s
  | .moveReserve src hdr params => Sys2Proof.Machine.execMoveReserve src hdr params s
  | .moveOpen src hdr params => Sys2Proof.Machine.execMoveOpen src hdr params s
  | .moveRelease src hdr params => Sys2Proof.Machine.execMoveRelease src hdr params s
  | .reservationTimeout stream => Sys2Proof.Machine.execReservationTimeout stream s
  | .closeStream src hdr params => Sys2Proof.Machine.execCloseStream src hdr params s
  | .drainCloseComplete stream => Sys2Proof.Machine.execDrainCloseComplete stream s
  | .drainingClose stream => Sys2Proof.Machine.execDrainingClose stream s
  | .bindOutput src hdr params => Sys2Proof.Machine.execBindOutput src hdr params s
  | .setSlotMask src hdr params => Sys2Proof.Machine.execSetSlotMask src hdr params s
  | .setTimebase src hdr params => Sys2Proof.Machine.execSetTimebase src hdr params s
  | .configAesOut src hdr params => Sys2Proof.Machine.execConfigAesOut src hdr params s
  | .aesDrainComplete out => Sys2Proof.Machine.execAesDrainComplete out s
  | .configAesIn src hdr params => Sys2Proof.Machine.execConfigAesIn src hdr params s
  | .writeMemory src hdr params ev => Sys2Proof.Machine.execWriteMemory src hdr params ev s
  | .writeDataTimeout cmd => Sys2Proof.Machine.execWriteDataTimeout cmd s
  | .readMemory src hdr params ev => Sys2Proof.Machine.execReadMemory src hdr params ev s
  | .fillMemory src hdr params => Sys2Proof.Machine.execFillMemory src hdr params s
  | .signalSync src hdr params => Sys2Proof.Machine.execSignalSync src hdr params s
  | .waitSync src hdr params => Sys2Proof.Machine.execWaitSync src hdr params s
  | .waitSyncTimeout cmd => Sys2Proof.Machine.execWaitSyncTimeout cmd s
  | .fence src hdr params => Sys2Proof.Machine.execFence src hdr params s
  | .readRegister src hdr params => Sys2Proof.Machine.execReadRegister src hdr params s
  | .writeRegister src hdr params => Sys2Proof.Machine.execWriteRegister src hdr params s
  | .getCounters src hdr params => Sys2Proof.Machine.execGetCounters src hdr params s
  | .attest src hdr params => Sys2Proof.Machine.execAttest src hdr params s
  | .verifyPackage src hdr params => Sys2Proof.Machine.execVerifyPackage src hdr params s
  | .registerOwnerKey src hdr params => Sys2Proof.Machine.execRegisterOwnerKey src hdr params s
  | .installPatch src hdr params => Sys2Proof.Machine.execInstallPatch src hdr params s
  | .provenance src hdr params => Sys2Proof.Machine.execProvenance src hdr params s
  | .unlockDebug src hdr params => Sys2Proof.Machine.execUnlockDebug src hdr params s
  | .discover src hdr params => Sys2Proof.Machine.execDiscover src hdr params s
  | .setFabricQuota src hdr params => Sys2Proof.Machine.execSetFabricQuota src hdr params s
  | .commandReceive => Sys2Proof.Machine.execCommandReceive s
  | .nop at_ w => Sys2Proof.Machine.execNop at_ w s
  | .stop at_ w => Sys2Proof.Machine.execStop at_ w s
  | .br at_ w => Sys2Proof.Machine.execBr at_ w s
  | .lpBegin at_ w => Sys2Proof.Machine.execLpBegin at_ w s
  | .tkWait at_ w => Sys2Proof.Machine.execTkWait at_ w s
  | .sysRd at_ w => Sys2Proof.Machine.execSysRd at_ w s
  | .sAdd at_ w => Sys2Proof.Machine.execSAdd at_ w s
  | .sSub at_ w => Sys2Proof.Machine.execSSub at_ w s
  | .sMul at_ w => Sys2Proof.Machine.execSMul at_ w s
  | .sAnd at_ w => Sys2Proof.Machine.execSAnd at_ w s
  | .sOr at_ w => Sys2Proof.Machine.execSOr at_ w s
  | .sXor at_ w => Sys2Proof.Machine.execSXor at_ w s
  | .sShl at_ w => Sys2Proof.Machine.execSShl at_ w s
  | .sShr at_ w => Sys2Proof.Machine.execSShr at_ w s
  | .sSra at_ w => Sys2Proof.Machine.execSSra at_ w s
  | .sMin at_ w => Sys2Proof.Machine.execSMin at_ w s
  | .sMax at_ w => Sys2Proof.Machine.execSMax at_ w s
  | .sLi at_ w => Sys2Proof.Machine.execSLi at_ w s
  | .aLi at_ w => Sys2Proof.Machine.execALi at_ w s
  | .aAddi at_ w => Sys2Proof.Machine.execAAddi at_ w s
  | .aAdds at_ w => Sys2Proof.Machine.execAAdds at_ w s
  | .sFra at_ w => Sys2Proof.Machine.execSFra at_ w s
  | .pEq at_ w => Sys2Proof.Machine.execPEq at_ w s
  | .pNe at_ w => Sys2Proof.Machine.execPNe at_ w s
  | .pLt at_ w => Sys2Proof.Machine.execPLt at_ w s
  | .pGe at_ w => Sys2Proof.Machine.execPGe at_ w s
  | .pLtu at_ w => Sys2Proof.Machine.execPLtu at_ w s
  | .pGeu at_ w => Sys2Proof.Machine.execPGeu at_ w s
  | .pAnd at_ w => Sys2Proof.Machine.execPAnd at_ w s
  | .pOr at_ w => Sys2Proof.Machine.execPOr at_ w s
  | .pXor at_ w => Sys2Proof.Machine.execPXor at_ w s
  | .pAndn at_ w => Sys2Proof.Machine.execPAndn at_ w s
  | .pSet at_ w => Sys2Proof.Machine.execPSet at_ w s
  | .sLd at_ act w => Sys2Proof.Machine.execSLd at_ act w s
  | .sSt at_ act w => Sys2Proof.Machine.execSSt at_ act w s
  | .syncSignal at_ act w => Sys2Proof.Machine.execSyncSignal at_ act w s
  | .syncAdd at_ act w => Sys2Proof.Machine.execSyncAdd at_ act w s
  | .syncWait at_ act w => Sys2Proof.Machine.execSyncWait at_ act w s
  | .syncRd at_ act w => Sys2Proof.Machine.execSyncRd at_ act w s
  | .dmaGet at_ act w => Sys2Proof.Machine.execDmaGet at_ act w s
  | .dmaPut at_ act w => Sys2Proof.Machine.execDmaPut at_ act w s
  | .haloSend at_ act w => Sys2Proof.Machine.execHaloSend at_ act w s
  | .haloRecv at_ act w => Sys2Proof.Machine.execHaloRecv at_ act w s
  | .qSend at_ act w => Sys2Proof.Machine.execQSend at_ act w s
  | .qRecv at_ act w => Sys2Proof.Machine.execQRecv at_ act w s
  | .qRel at_ act w => Sys2Proof.Machine.execQRel at_ act w s
  | .narReq at_ act w => Sys2Proof.Machine.execNarReq at_ act w s
  | .millGemv at_ act w => Sys2Proof.Machine.execMillGemv at_ act w s
  | .millGather at_ act w => Sys2Proof.Machine.execMillGather at_ act w s
  | .millScatterAdd at_ act w => Sys2Proof.Machine.execMillScatterAdd at_ act w s
  | .millReduce at_ act w => Sys2Proof.Machine.execMillReduce at_ act w s
  | .millCopy at_ act w => Sys2Proof.Machine.execMillCopy at_ act w s
  | .millFill at_ act w => Sys2Proof.Machine.execMillFill at_ act w s
  | .mxMul at_ act w => Sys2Proof.Machine.execMxMul at_ act w s
  | .mxLd at_ act w => Sys2Proof.Machine.execMxLd at_ act w s
  | .mxSt at_ act w => Sys2Proof.Machine.execMxSt at_ act w s
  | .mxZero at_ act w => Sys2Proof.Machine.execMxZero at_ act w s
  | .vAdd at_ act w => Sys2Proof.Machine.execVAdd at_ act w s
  | .vSub at_ act w => Sys2Proof.Machine.execVSub at_ act w s
  | .vMul at_ act w => Sys2Proof.Machine.execVMul at_ act w s
  | .vFma at_ act w => Sys2Proof.Machine.execVFma at_ act w s
  | .vMin at_ act w => Sys2Proof.Machine.execVMin at_ act w s
  | .vMax at_ act w => Sys2Proof.Machine.execVMax at_ act w s
  | .vCmplt at_ act w => Sys2Proof.Machine.execVCmplt at_ act w s
  | .vCmpeq at_ act w => Sys2Proof.Machine.execVCmpeq at_ act w s
  | .vSel at_ act w => Sys2Proof.Machine.execVSel at_ act w s
  | .vShl at_ act w => Sys2Proof.Machine.execVShl at_ act w s
  | .vShr at_ act w => Sys2Proof.Machine.execVShr at_ act w s
  | .vSra at_ act w => Sys2Proof.Machine.execVSra at_ act w s
  | .vGtan at_ act w => Sys2Proof.Machine.execVGtan at_ act w s
  | .vGlerp at_ act w => Sys2Proof.Machine.execVGlerp at_ act w s
  | .vRed at_ act w => Sys2Proof.Machine.execVRed at_ act w s
  | .vRq at_ act w => Sys2Proof.Machine.execVRq at_ act w s
  | .vLd at_ act w => Sys2Proof.Machine.execVLd at_ act w s
  | .vSt at_ act w => Sys2Proof.Machine.execVSt at_ act w s
  | .vAct at_ act w => Sys2Proof.Machine.execVAct at_ act w s
  | .vCvt at_ act w => Sys2Proof.Machine.execVCvt at_ act w s
  | .vCvts at_ act w => Sys2Proof.Machine.execVCvts at_ act w s
  | .vCvtl at_ act w => Sys2Proof.Machine.execVCvtl at_ act w s
  | .scF1 at_ act w => Sys2Proof.Machine.execScF1 at_ act w s
  | .scF2 at_ act w => Sys2Proof.Machine.execScF2 at_ act w s
  | .scEma at_ act w => Sys2Proof.Machine.execScEma at_ act w s
  | .convExpand at_ act w => Sys2Proof.Machine.execConvExpand at_ act w s
  | .convTransposeExpand at_ act w => Sys2Proof.Machine.execConvTransposeExpand at_ act w s
  | .dwConv at_ act w => Sys2Proof.Machine.execDwConv at_ act w s
  | .poolMax at_ act w => Sys2Proof.Machine.execPoolMax at_ act w s
  | .poolAvg at_ act w => Sys2Proof.Machine.execPoolAvg at_ act w s
  | .gpoolAvg at_ act w => Sys2Proof.Machine.execGpoolAvg at_ act w s
  | .segDecode at_ act w => Sys2Proof.Machine.execSegDecode at_ act w s
  | .segSuppress at_ act w => Sys2Proof.Machine.execSegSuppress at_ act w s
  | .rngDraw at_ act w => Sys2Proof.Machine.execRngDraw at_ act w s
  | .rngSeed at_ act w => Sys2Proof.Machine.execRngSeed at_ act w s
  | .vsampleCat at_ act w => Sys2Proof.Machine.execVsampleCat at_ act w s
  | .vsampleMol at_ act w => Sys2Proof.Machine.execVsampleMol at_ act w s
  | .stLoad at_ act w => Sys2Proof.Machine.execStLoad at_ act w s
  | .stStore at_ act w => Sys2Proof.Machine.execStStore at_ act w s
  | .ldgTake at_ act w => Sys2Proof.Machine.execLdgTake at_ act w s
  | .ldgDone at_ act w => Sys2Proof.Machine.execLdgDone at_ act w s
  | .fuseBegin at_ w => Sys2Proof.Machine.execFuseBegin at_ w s
  | .fuseEnd at_ w => Sys2Proof.Machine.execFuseEnd at_ w s
  | .docketBuilderVisit b => Sys2Proof.Machine.execDocketBuilderVisit b s
  | .entryCommit rw seq entry => Sys2Proof.Machine.execEntryCommit rw seq entry s
  | .streamInputFragment port part vc payload => Sys2Proof.Machine.execStreamInputFragment port part vc payload s
  | .streamCredit => Sys2Proof.Machine.execStreamCredit s
  | .outputDrain target => Sys2Proof.Machine.execOutputDrain target s
  | .synth clu ev => Sys2Proof.Machine.execSynth clu ev s
  | .analysis clu ev => Sys2Proof.Machine.execAnalysis clu ev s
  | .conv1d clu ev => Sys2Proof.Machine.execConv1d clu ev s
  | .convert clu ev => Sys2Proof.Machine.execConvert clu ev s
  | .descriptorFetch at_ moves ev => Sys2Proof.Machine.execDescriptorFetch at_ moves ev s
  | .descriptorCompletion clu id ev => Sys2Proof.Machine.execDescriptorCompletion clu id ev s
  | .millRoute clu => Sys2Proof.Machine.execMillRoute clu s
  | .millGrant clu ev => Sys2Proof.Machine.execMillGrant clu ev s
  | .grantExpiry clu rows => Sys2Proof.Machine.execGrantExpiry clu rows s
  | .millCompletion clu => Sys2Proof.Machine.execMillCompletion clu s
  | .reseed core => Sys2Proof.Machine.execReseed core s
  | .reseedBufferRefill core => Sys2Proof.Machine.execReseedBufferRefill core s
  | .windowBoundary core => Sys2Proof.Machine.execWindowBoundary core s
  | .starved at_ => Sys2Proof.Machine.execStarved at_ s
  | .aes3OutputFrame out => Sys2Proof.Machine.execAes3OutputFrame out s
  | .aes3InputFrame inp f => Sys2Proof.Machine.execAes3InputFrame inp f s
  | .portTraining port up => Sys2Proof.Machine.execPortTraining port up s
  | .portDown port => Sys2Proof.Machine.execPortDown port s
  | .longPacketReceive port pkt => Sys2Proof.Machine.execLongPacketReceive port pkt s
  | .frameStartReceive port number => Sys2Proof.Machine.execFrameStartReceive port number s
  | .memoryWriteData port src vc payload => Sys2Proof.Machine.execMemoryWriteData port src vc payload s
  | .ack port src vc seq => Sys2Proof.Machine.execAck port src vc seq s
  | .nak port src vc seq => Sys2Proof.Machine.execNak port src vc seq s
  | .rxCredit port src vc count => Sys2Proof.Machine.execRxCredit port src vc count s
  | .ackTimer src spur vc => Sys2Proof.Machine.execAckTimer src spur vc s
  | .nakRepeat src spur vc => Sys2Proof.Machine.execNakRepeat src spur vc s
  | .retransmitTimeout dst spur vc => Sys2Proof.Machine.execRetransmitTimeout dst spur vc s
  | .packetTransmit port => Sys2Proof.Machine.execPacketTransmit port s
  | .discovery => Sys2Proof.Machine.execDiscovery s
  | .roll port payload => Sys2Proof.Machine.execRoll port payload s
  | .call port payload => Sys2Proof.Machine.execCall port payload s
  | .callTimeout ring => Sys2Proof.Machine.execCallTimeout ring s
  | .sensorRead temps => Sys2Proof.Machine.execSensorRead temps s
  | .channelRecalibration ch => Sys2Proof.Machine.execChannelRecalibration ch s
  | .coreGate core => Sys2Proof.Machine.execCoreGate core s
  | .clusterClockStop clu => Sys2Proof.Machine.execClusterClockStop clu s
  | .clusterPowerGate clu => Sys2Proof.Machine.execClusterPowerGate clu s
  | .selfRefreshEntry ch => Sys2Proof.Machine.execSelfRefreshEntry ch s
  | .wake target => Sys2Proof.Machine.execWake target s
  | .selfRefreshExit ch => Sys2Proof.Machine.execSelfRefreshExit ch s
  | .sramEccError spot => Sys2Proof.Machine.execSramEccError spot s
  | .coreProbe core answered => Sys2Proof.Machine.execCoreProbe core answered s
  | .unitTimeout u => Sys2Proof.Machine.execUnitTimeout u s
  | .entropyHealthFail => Sys2Proof.Machine.execEntropyHealthFail s
  | .entropyRetest pass => Sys2Proof.Machine.execEntropyRetest pass s
  | .provenanceHash stream => Sys2Proof.Machine.execProvenanceHash stream s
  | .undecodableWord at_ w => Sys2Proof.Machine.execUndecodableWord at_ w s
  | .dispatchPastProgramEnd at_ => Sys2Proof.Machine.execDispatchPastProgramEnd at_ s
  | .audMclkInEdge t => Sys2Proof.Machine.execAudMclkInEdge t s
  | .channelRefresh ch => Sys2Proof.Machine.execChannelRefresh ch s
  | .rxCreditReturn => Sys2Proof.Machine.execRxCreditReturn s
  | .railReturn rail => Sys2Proof.Machine.execRailReturn rail s
  | .vddNetLoss => Sys2Proof.Machine.execVddNetLoss s
  | .channelZeroingDone part => Sys2Proof.Machine.execChannelZeroingDone part s
  | .shakeLaneDone => Sys2Proof.Machine.execShakeLaneDone s
  | .admissionPrepared ctx => Sys2Proof.Machine.execAdmissionPrepared ctx s
  | .unitResetDone cmd => Sys2Proof.Machine.execUnitResetDone cmd s

end Sys2Proof.Machine
end

