-- ==== Sys2Proof/WellFormed.lean ====
section
/-! DEFINITION. Which commands the formats of the spec can express. A command outside these bounds has an operand
that no word, packet or event of the device holds. -/

namespace Sys2Proof

/-- The OPCODE field of a Jatrum word (R135). -/
def isOpcode (op : Nat) (w : W64) : Bool := w.toNat / 2 ^ 56 == op

/-- LENGTH of a command header is 16 bits (Table 18.1). -/
def lengthFits (params : Bytes) : Bool := decide (params.length < 65536)

/-- A long packet holds at most 65,535 bytes (R303, R306). -/
def payloadFits (b : Bytes) : Bool := decide (b.length < 65536)

/-- Virtual channels 0 to 15 (R302). -/
def vcOk (vc : Nat) : Bool := decide (vc < 16)

/-- A physical line lies in one of the 256 channel windows (R88), and data read with an uncorrectable error is one
line. -/
def eventOk (e : LineEvent) : Bool :=
  decide (e.line < 2 ^ 32) && (match e.err with
    | .corrected => true
    | .retries n => decide (n ≤ 4)
    | .uncorrectable d => d.length == 128)
def eventsOk (ev : List LineEvent) : Bool := ev.all eventOk

/-- The fields of a CSI-2 packet header (R302): data type 6 bits, virtual channel, word count 16 bits. -/
def rawOk (p : RawPkt) : Bool := decide (p.dt < 64) && vcOk p.vc && decide (p.wc < 65536) && payloadFits p.bytes

/-- A home-cache line lies in a channel window and below the unassigned offsets (R88). -/
def spotOk : SramSpot → Bool
  | .corrected => true
  | .cacheLine phys => decide (phys < 2 ^ 39) && decide (phys % 2 ^ 31 < 0x48000000)
  | .unit _ => true

/-- UNIT_TIMEOUT concerns Mills and narrow engines (R384). -/
def overrunUnit : UnitId → Bool
  | .core _ => false
  | .mill _ => true
  | .narrow _ => true

/-- Well-formedness of each command. -/
def Instr.wf : Instr → Bool
  | .registerWrite _ _ _ => true
  | .latchedPairRead _ _ => true
  | .readClear _ _ => true
  | .ldgSelWrite _ _ => true
  | .txRateWrite _ _ _ => true
  | .cmdWinWrite _ data => payloadFits data.bytes
  | .pop _ => true
  | .i3cPrivateWrite data => payloadFits data.bytes
  | .i3cPrivateRead _ => true
  | .enec _ => true
  | .disec _ => true
  | .rstdaa => true
  | .entdaa _ _ => true
  | .setdasa _ _ => true
  | .setnewda _ => true
  | .setmwl _ => true
  | .getmwl => true
  | .setmrl _ => true
  | .getmrl => true
  | .getpid => true
  | .getbcr => true
  | .getdcr => true
  | .getstatus => true
  | .getmxds => true
  | .rstact _ => true
  | .enthdr0 => true
  | .ibiRetry => true
  | .hotJoin => true
  | .ibi _ _ => true
  | .startUp => true
  | .stageComplete _ _ => true
  | .stageTimeout _ _ _ _ => true
  | .resetNLow => true
  | .pwrOkLow => true
  | .wholeDeviceReset => true
  | .railExcursion _ => true
  | .referenceEdge _ _ => true
  | .predictedInstant => true
  | .windowClose => true
  | .missingSpan => true
  | .internalPeriod => true
  | .remeasure => true
  | .frameStart => true
  | .fChange => true
  | .delayedStart => true
  | .identify _ _ params => lengthFits params
  | .getStageReport _ _ params => lengthFits params
  | .getFloorPlan _ _ params => lengthFits params
  | .createPartition _ _ params => lengthFits params
  | .destroyPartition _ _ params => lengthFits params
  | .resetUnit _ _ params => lengthFits params
  | .selfTest _ _ params => lengthFits params
  | .testComplete _ _ => true
  | .loadImage _ _ params => lengthFits params
  | .admitContext _ _ params => lengthFits params
  | .retireContext _ _ params => lengthFits params
  | .quiescent _ => true
  | .retireLimitExpiry _ => true
  | .setShares _ _ params => lengthFits params
  | .defineRopewalk _ _ params => lengthFits params
  | .openStream _ _ params => lengthFits params
  | .parkStream _ _ params => lengthFits params
  | .parkComplete _ => true
  | .unparkStream _ _ params => lengthFits params
  | .moveStream _ _ params => lengthFits params
  | .moveReserve _ _ params => lengthFits params
  | .moveOpen _ _ params => lengthFits params
  | .moveRelease _ _ params => lengthFits params
  | .reservationTimeout _ => true
  | .closeStream _ _ params => lengthFits params
  | .drainCloseComplete _ => true
  | .drainingClose _ => true
  | .bindOutput _ _ params => lengthFits params
  | .setSlotMask _ _ params => lengthFits params
  | .setTimebase _ _ params => lengthFits params
  | .configAesOut _ _ params => lengthFits params
  | .aesDrainComplete _ => true
  | .configAesIn _ _ params => lengthFits params
  | .writeMemory _ _ params ev => lengthFits params && eventsOk ev
  | .writeDataTimeout _ => true
  | .readMemory _ _ params ev => lengthFits params && eventsOk ev
  | .fillMemory _ _ params => lengthFits params
  | .signalSync _ _ params => lengthFits params
  | .waitSync _ _ params => lengthFits params
  | .waitSyncTimeout _ => true
  | .fence _ _ params => lengthFits params
  | .readRegister _ _ params => lengthFits params
  | .writeRegister _ _ params => lengthFits params
  | .getCounters _ _ params => lengthFits params
  | .attest _ _ params => lengthFits params
  | .verifyPackage _ _ params => lengthFits params
  | .registerOwnerKey _ _ params => lengthFits params
  | .installPatch _ _ params => lengthFits params
  | .provenance _ _ params => lengthFits params
  | .unlockDebug _ _ params => lengthFits params
  | .discover _ _ params => lengthFits params
  | .setFabricQuota _ _ params => lengthFits params
  | .commandReceive => true
  | .nop _ w => isOpcode 0x00 w
  | .stop _ w => isOpcode 0x01 w
  | .br _ w => isOpcode 0x02 w
  | .lpBegin _ w => isOpcode 0x03 w
  | .tkWait _ w => isOpcode 0x04 w
  | .sysRd _ w => isOpcode 0x05 w
  | .sAdd _ w => isOpcode 0x10 w
  | .sSub _ w => isOpcode 0x11 w
  | .sMul _ w => isOpcode 0x12 w
  | .sAnd _ w => isOpcode 0x13 w
  | .sOr _ w => isOpcode 0x14 w
  | .sXor _ w => isOpcode 0x15 w
  | .sShl _ w => isOpcode 0x16 w
  | .sShr _ w => isOpcode 0x17 w
  | .sSra _ w => isOpcode 0x18 w
  | .sMin _ w => isOpcode 0x19 w
  | .sMax _ w => isOpcode 0x1A w
  | .sLi _ w => isOpcode 0x1B w
  | .aLi _ w => isOpcode 0x1C w
  | .aAddi _ w => isOpcode 0x1D w
  | .aAdds _ w => isOpcode 0x1E w
  | .sFra _ w => isOpcode 0x1F w
  | .pEq _ w => isOpcode 0x20 w
  | .pNe _ w => isOpcode 0x21 w
  | .pLt _ w => isOpcode 0x22 w
  | .pGe _ w => isOpcode 0x23 w
  | .pLtu _ w => isOpcode 0x24 w
  | .pGeu _ w => isOpcode 0x25 w
  | .pAnd _ w => isOpcode 0x26 w
  | .pOr _ w => isOpcode 0x27 w
  | .pXor _ w => isOpcode 0x28 w
  | .pAndn _ w => isOpcode 0x29 w
  | .pSet _ w => isOpcode 0x2A w
  | .sLd _ _ w => isOpcode 0x30 w
  | .sSt _ _ w => isOpcode 0x31 w
  | .syncSignal _ _ w => isOpcode 0x40 w
  | .syncAdd _ _ w => isOpcode 0x41 w
  | .syncWait _ _ w => isOpcode 0x42 w
  | .syncRd _ _ w => isOpcode 0x43 w
  | .dmaGet _ _ w => isOpcode 0x50 w
  | .dmaPut _ _ w => isOpcode 0x51 w
  | .haloSend _ _ w => isOpcode 0x52 w
  | .haloRecv _ _ w => isOpcode 0x53 w
  | .qSend _ _ w => isOpcode 0x54 w
  | .qRecv _ _ w => isOpcode 0x55 w
  | .qRel _ _ w => isOpcode 0x56 w
  | .narReq _ _ w => isOpcode 0x57 w
  | .millGemv _ _ w => isOpcode 0x58 w
  | .millGather _ _ w => isOpcode 0x59 w
  | .millScatterAdd _ _ w => isOpcode 0x5A w
  | .millReduce _ _ w => isOpcode 0x5B w
  | .millCopy _ _ w => isOpcode 0x5C w
  | .millFill _ _ w => isOpcode 0x5D w
  | .mxMul _ _ w => isOpcode 0x60 w
  | .mxLd _ _ w => isOpcode 0x61 w
  | .mxSt _ _ w => isOpcode 0x62 w
  | .mxZero _ _ w => isOpcode 0x63 w
  | .vAdd _ _ w => isOpcode 0x70 w
  | .vSub _ _ w => isOpcode 0x71 w
  | .vMul _ _ w => isOpcode 0x72 w
  | .vFma _ _ w => isOpcode 0x73 w
  | .vMin _ _ w => isOpcode 0x74 w
  | .vMax _ _ w => isOpcode 0x75 w
  | .vCmplt _ _ w => isOpcode 0x76 w
  | .vCmpeq _ _ w => isOpcode 0x77 w
  | .vSel _ _ w => isOpcode 0x78 w
  | .vShl _ _ w => isOpcode 0x79 w
  | .vShr _ _ w => isOpcode 0x7A w
  | .vSra _ _ w => isOpcode 0x7B w
  | .vGtan _ _ w => isOpcode 0x7C w
  | .vGlerp _ _ w => isOpcode 0x7D w
  | .vRed _ _ w => isOpcode 0x7E w
  | .vRq _ _ w => isOpcode 0x7F w
  | .vLd _ _ w => isOpcode 0x80 w
  | .vSt _ _ w => isOpcode 0x81 w
  | .vAct _ _ w => isOpcode 0x82 w
  | .vCvt _ _ w => isOpcode 0x83 w
  | .vCvts _ _ w => isOpcode 0x84 w
  | .vCvtl _ _ w => isOpcode 0x85 w
  | .scF1 _ _ w => isOpcode 0x90 w
  | .scF2 _ _ w => isOpcode 0x91 w
  | .scEma _ _ w => isOpcode 0x92 w
  | .convExpand _ _ w => isOpcode 0xA0 w
  | .convTransposeExpand _ _ w => isOpcode 0xA1 w
  | .dwConv _ _ w => isOpcode 0xA2 w
  | .poolMax _ _ w => isOpcode 0xA3 w
  | .poolAvg _ _ w => isOpcode 0xA4 w
  | .gpoolAvg _ _ w => isOpcode 0xA5 w
  | .segDecode _ _ w => isOpcode 0xA6 w
  | .segSuppress _ _ w => isOpcode 0xA7 w
  | .rngDraw _ _ w => isOpcode 0xB0 w
  | .rngSeed _ _ w => isOpcode 0xB1 w
  | .vsampleCat _ _ w => isOpcode 0xB2 w
  | .vsampleMol _ _ w => isOpcode 0xB3 w
  | .stLoad _ _ w => isOpcode 0xC0 w
  | .stStore _ _ w => isOpcode 0xC1 w
  | .ldgTake _ _ w => isOpcode 0xC2 w
  | .ldgDone _ _ w => isOpcode 0xC3 w
  | .fuseBegin _ w => isOpcode 0xD0 w
  | .fuseEnd _ w => isOpcode 0xD1 w
  | .docketBuilderVisit _ => true
  | .entryCommit _ _ _ => true
  | .streamInputFragment _ _ vc payload => vcOk vc && payloadFits payload
  | .streamCredit => true
  | .outputDrain _ => true
  | .synth _ ev => eventsOk ev
  | .analysis _ ev => eventsOk ev
  | .conv1d _ ev => eventsOk ev
  | .convert _ ev => eventsOk ev
  | .descriptorFetch _ _ ev => eventsOk ev
  | .descriptorCompletion _ _ ev => eventsOk ev
  | .millRoute _ => true
  | .millGrant _ ev => eventsOk ev
  | .grantExpiry _ _ => true
  | .millCompletion _ => true
  | .reseed _ => true
  | .reseedBufferRefill _ => true
  | .windowBoundary _ => true
  | .starved _ => true
  | .aes3OutputFrame _ => true
  | .aes3InputFrame _ _ => true
  | .portTraining _ _ => true
  | .portDown _ => true
  | .longPacketReceive _ pkt => rawOk pkt
  | .frameStartReceive _ _ => true
  | .memoryWriteData _ _ vc payload => vcOk vc && payloadFits payload
  | .ack _ _ vc _ => vcOk vc
  | .nak _ _ vc _ => vcOk vc
  | .rxCredit _ _ vc _ => vcOk vc
  | .ackTimer _ _ vc => vcOk vc
  | .nakRepeat _ _ vc => vcOk vc
  | .retransmitTimeout _ _ vc => vcOk vc
  | .packetTransmit _ => true
  | .discovery => true
  | .roll _ payload => payloadFits payload
  | .call _ payload => payloadFits payload
  | .callTimeout _ => true
  | .sensorRead _ => true
  | .channelRecalibration _ => true
  | .coreGate _ => true
  | .clusterClockStop _ => true
  | .clusterPowerGate _ => true
  | .selfRefreshEntry _ => true
  | .wake _ => true
  | .selfRefreshExit _ => true
  | .sramEccError spot => spotOk spot
  | .coreProbe _ _ => true
  | .unitTimeout u => overrunUnit u
  | .entropyHealthFail => true
  | .entropyRetest _ => true
  | .provenanceHash _ => true
  | .undecodableWord _ _ => true
  | .dispatchPastProgramEnd _ => true
  | .audMclkInEdge _ => true
  | .channelRefresh _ => true
  | .rxCreditReturn => true
  | .railReturn _ => true
  | .vddNetLoss => true
  | .channelZeroingDone _ => true
  | .shakeLaneDone => true
  | .admissionPrepared _ => true
  | .unitResetDone _ => true

end Sys2Proof
end

