-- ==== Sys2Proof/Safety.lean ====
section
/-! DEFINITION. What counts as a safe run, the invariant of the machine, and the words that the claims use: when a
Jatrum word issues or starts, when a command is taken and starts, and what such a step leaves alone. -/

namespace Sys2Proof.Machine

/-! ### Runs -/

/-- The next step neither faults nor is refused. -/
def State.Safe (s : State) : Prop := ∃ t, step s = .next t

/-- Memory is in its canonical form: addresses strictly rising, no byte listed that an unlisted address reads as. -/
abbrev Memory.wf (m : List Host.Cell) : Prop := Tbl.wf 0 m = true

/-- The machine's invariant: memory, the tables of the device's cores, clusters, channels, sync objects, Ledger entries,
Ropewalks, partitions, images, contexts, outputs, inputs, output channels and groups, and each core's table of shares are
in their canonical form, so that equal tables are equal lists. -/
structure State.Inv (s : State) : Prop where
  mem : Memory.wf s.mem
  cores : Tbl.wf {} s.cores = true
  clusters : Tbl.wf {} s.clusters = true
  chans : Tbl.wf {} s.chans = true
  sync : Tbl.wf 0 s.sync = true
  entries : Tbl.wf {} s.entries = true
  ropes : Tbl.wf none s.ropes = true
  parts : Tbl.wf {} s.parts = true
  images : Tbl.wf none s.images = true
  ctxs : Tbl.wf none s.ctxs = true
  outs : Tbl.wf {} s.outs = true
  ains : Tbl.wf {} s.ains = true
  achans : Tbl.wf {} s.achans = true
  groups : Tbl.wf {} s.groups = true
  shares : ∀ g, Tbl.wf {} (s.core g).shares = true

/-- One byte of DRAM by physical address. -/
def State.byteAt (s : State) (a : Nat) : Byte := Tbl.get 0 s.mem a

/-! ### Jatrum words -/

/-- The share at a site. -/
def State.at (s : State) (site : Site) : ShareSt := s.share site.core.val site.share.val

/-- Share `site` dispatches word w of opcode op now, unguarded or with its guard true, and no check of R139 or R188
stands against it. -/
def Issues (s : State) (site : Site) (w : W64) (op : Nat) : Prop :=
  s.dispatches site w = true ∧ wOp w.toNat = op ∧ wordOk w.toNat = true ∧ (s.at site).guardOff w.toNat = false ∧
    ((s.at site).fusedLoop.isSome && fuseForbids op) = false

/-- No open loop ends on the word being dispatched (R142). -/
def Straight (s : State) (site : Site) : Prop := ∀ l, (s.at site).loops.head? = some l → l.last ≠ (s.at site).pc

/-- The command that dispatches or starts an engine word, by its opcode (Tables 7.7 to 7.11 and 8.2 to 8.8). -/
def engineInstr (op : Nat) (site : Site) (act : Act) (w : W64) : Option Instr :=
  match op with
  | 0x30 => some (.sLd site act w)
  | 0x31 => some (.sSt site act w)
  | 0x40 => some (.syncSignal site act w)
  | 0x41 => some (.syncAdd site act w)
  | 0x42 => some (.syncWait site act w)
  | 0x43 => some (.syncRd site act w)
  | 0x50 => some (.dmaGet site act w)
  | 0x51 => some (.dmaPut site act w)
  | 0x52 => some (.haloSend site act w)
  | 0x53 => some (.haloRecv site act w)
  | 0x54 => some (.qSend site act w)
  | 0x55 => some (.qRecv site act w)
  | 0x56 => some (.qRel site act w)
  | 0x57 => some (.narReq site act w)
  | 0x58 => some (.millGemv site act w)
  | 0x59 => some (.millGather site act w)
  | 0x5A => some (.millScatterAdd site act w)
  | 0x5B => some (.millReduce site act w)
  | 0x5C => some (.millCopy site act w)
  | 0x5D => some (.millFill site act w)
  | 0x60 => some (.mxMul site act w)
  | 0x61 => some (.mxLd site act w)
  | 0x62 => some (.mxSt site act w)
  | 0x63 => some (.mxZero site act w)
  | 0x70 => some (.vAdd site act w)
  | 0x71 => some (.vSub site act w)
  | 0x72 => some (.vMul site act w)
  | 0x73 => some (.vFma site act w)
  | 0x74 => some (.vMin site act w)
  | 0x75 => some (.vMax site act w)
  | 0x76 => some (.vCmplt site act w)
  | 0x77 => some (.vCmpeq site act w)
  | 0x78 => some (.vSel site act w)
  | 0x79 => some (.vShl site act w)
  | 0x7A => some (.vShr site act w)
  | 0x7B => some (.vSra site act w)
  | 0x7C => some (.vGtan site act w)
  | 0x7D => some (.vGlerp site act w)
  | 0x7E => some (.vRed site act w)
  | 0x7F => some (.vRq site act w)
  | 0x80 => some (.vLd site act w)
  | 0x81 => some (.vSt site act w)
  | 0x82 => some (.vAct site act w)
  | 0x83 => some (.vCvt site act w)
  | 0x84 => some (.vCvts site act w)
  | 0x85 => some (.vCvtl site act w)
  | 0x90 => some (.scF1 site act w)
  | 0x91 => some (.scF2 site act w)
  | 0x92 => some (.scEma site act w)
  | 0xA0 => some (.convExpand site act w)
  | 0xA1 => some (.convTransposeExpand site act w)
  | 0xA2 => some (.dwConv site act w)
  | 0xA3 => some (.poolMax site act w)
  | 0xA4 => some (.poolAvg site act w)
  | 0xA5 => some (.gpoolAvg site act w)
  | 0xA6 => some (.segDecode site act w)
  | 0xA7 => some (.segSuppress site act w)
  | 0xB0 => some (.rngDraw site act w)
  | 0xB1 => some (.rngSeed site act w)
  | 0xB2 => some (.vsampleCat site act w)
  | 0xB3 => some (.vsampleMol site act w)
  | 0xC0 => some (.stLoad site act w)
  | 0xC1 => some (.stStore site act w)
  | 0xC2 => some (.ldgTake site act w)
  | 0xC3 => some (.ldgDone site act w)
  | _ => none

/-- Word e, of opcode op, at the head of queue q of the share, starts now: it is not guarded off, its ticket is
ready, its fused stage may run, its core may run, and its engine chooses it. -/
def Starts (s : State) (site : Site) (w : W64) (q op : Nat) (e : QEntry) : Prop :=
  (∃ rest, (s.at site).queue q = e :: rest) ∧ e.word = w ∧ wOp w.toNat = op ∧ e.off = false ∧
    s.startable site.core.val q site.share.val = true ∧
    s.chooses site.core.val q (s.startable site.core.val q) = some site.share.val

/-- The end of a started word of the share at `site` (State.finishWord). -/
def finishWord (t : State) (site : Site) (q : Nat) (e : QEntry) (cycles : Nat) : State :=
  t.finishWord site.core.val site.share.val q e cycles

/-- Only the share at `site`, and of its core the rotation, the starvations and the gate of its clock differ. -/
def OnlyShare (s t : State) (site : Site) : Prop :=
  { s with cores := t.cores } = t ∧
    (∀ g, { t.core g with
              shares := (s.core g).shares, bgLast := (s.core g).bgLast, starveFrom := (s.core g).starveFrom,
              gated := (s.core g).gated } = s.core g) ∧
    (∀ g j, ¬ (g = site.core.val ∧ j = site.share.val) → t.share g j = s.share g j)

/-- A front-end word may change these of its share: registers, the word index, loops, the fused command, the end of
dispatch, and the accounts; nothing else. -/
def FrontFrame (h u : ShareSt) : Prop :=
  { u with s := h.s, a := h.a, p := h.p, pc := h.pc, loops := h.loops, fused := h.fused, fuseNext := h.fuseNext,
           stopped := h.stopped, tallyFe := h.tallyFe, deficit := h.deficit, borrowed := h.borrowed, debt := h.debt,
           starving := h.starving } = h

/-- From s to t the share at `site` dispatched one front-end word that left its scalar, address and predicate registers
as S, A and P: its word index moved on by one, its front end is charged one engine-cycle, and nothing else changed. -/
def FrontSets (s t : State) (site : Site) (S : Tbl Word) (A : Tbl Addr) (P : Tbl Bool) : Prop :=
  OnlyShare s t site ∧ FrontFrame (s.at site) (t.at site) ∧ (t.at site).pc = (s.at site).pc + 1 ∧
    (t.at site).loops = (s.at site).loops ∧ (t.at site).stopped = (s.at site).stopped ∧
    (t.at site).tallyFe = (s.at site).tallyFe + 1 ∧
    (t.at site).fused = (s.at site).fused.map (fun f => { f with wait := none }) ∧
    (t.at site).fuseNext = (s.at site).fuseNext ∧ (t.at site).s = S ∧ (t.at site).a = A ∧ (t.at site).p = P

/-- An operand of n bytes at local address a, of elements of `es` bytes, lies in the share and is aligned (R72). -/
def Fits (s : State) (site : Site) (a n es : Nat) : Prop := a + n ≤ s.shareSize site.core.val ∧ a % es = 0

/-- A share that changed in its scratchpad only, and there in none but the bytes that `inside` admits. -/
def ScratchOnly (h u : ShareSt) (inside : Nat → Prop) : Prop :=
  { u with scratch := h.scratch } = h ∧ ∀ a, ¬ inside a → Tbl.get 0 u.scratch a = Tbl.get 0 h.scratch a

/-- d is the Loom descriptor at local address a, and it passes the checks of R174 and R175 for its use u. -/
def LoomOk (s : State) (site : Site) (a : Nat) (u : LoomUse) (d : Loom) : Prop :=
  Fits s site a 64 64 ∧ d = loomOf ((s.at site).read a 64) (u = .transpose) ∧
    d.broken ((s.at site).read a 64) u = false ∧ d.tooLarge u = false ∧ d.padTooLarge = false

/-- The state in which the word's effect begins: its core runs, and its unit's rotation has moved on. -/
def State.turned (s : State) (site : Site) (q : Nat) : State := (s.wakeCore site.core.val).rotate site.core.val q site.share.val

/-- From s, with the effect u and n engine-cycles, the word e of queue q starts and completes as o says, and of its core
only its own share has changed, as `P` describes it. -/
def Effects (s : State) (site : Site) (q : Nat) (e : QEntry) (res : StartRes) (o : Outcome) (n : Nat)
    (P : ShareSt → ShareSt → Prop) : Prop :=
  ∃ u, res = .done u n ∧ o = .next (finishWord u site q e n) ∧ P (s.at site) (u.at site) ∧
    ∀ g j, ¬ (g = site.core.val ∧ j = site.share.val) → u.share g j = s.share g j

/-! ### Commands -/

/-- The row of Table 18.3 with this opcode, source, header and parameters; `ev` befalls the lines of those that name it. -/
def commandInstr (op : Nat) (src : Src) (hdr : Hdr) (p : Bytes) (ev : List LineEvent) : Option Instr :=
  match op with
  | 0x01 => some (.identify src hdr p)
  | 0x02 => some (.getStageReport src hdr p)
  | 0x03 => some (.getFloorPlan src hdr p)
  | 0x10 => some (.createPartition src hdr p)
  | 0x11 => some (.destroyPartition src hdr p)
  | 0x12 => some (.resetUnit src hdr p)
  | 0x13 => some (.selfTest src hdr p)
  | 0x20 => some (.loadImage src hdr p)
  | 0x21 => some (.admitContext src hdr p)
  | 0x22 => some (.retireContext src hdr p)
  | 0x23 => some (.setShares src hdr p)
  | 0x24 => some (.defineRopewalk src hdr p)
  | 0x30 => some (.openStream src hdr p)
  | 0x31 => some (.parkStream src hdr p)
  | 0x32 => some (.unparkStream src hdr p)
  | 0x33 => some (.moveStream src hdr p)
  | 0x34 => some (.closeStream src hdr p)
  | 0x40 => some (.bindOutput src hdr p)
  | 0x41 => some (.setSlotMask src hdr p)
  | 0x42 => some (.setTimebase src hdr p)
  | 0x43 => some (.configAesOut src hdr p)
  | 0x44 => some (.configAesIn src hdr p)
  | 0x50 => some (.writeMemory src hdr p ev)
  | 0x51 => some (.readMemory src hdr p ev)
  | 0x52 => some (.fillMemory src hdr p)
  | 0x53 => some (.signalSync src hdr p)
  | 0x54 => some (.waitSync src hdr p)
  | 0x55 => some (.fence src hdr p)
  | 0x60 => some (.readRegister src hdr p)
  | 0x61 => some (.writeRegister src hdr p)
  | 0x62 => some (.getCounters src hdr p)
  | 0x70 => some (.attest src hdr p)
  | 0x71 => some (.verifyPackage src hdr p)
  | 0x72 => some (.registerOwnerKey src hdr p)
  | 0x73 => some (.installPatch src hdr p)
  | 0x74 => some (.provenance src hdr p)
  | 0x75 => some (.unlockDebug src hdr p)
  | 0x80 => some (.discover src hdr p)
  | 0x81 => some (.setFabricQuota src hdr p)
  | 0xF0 => some (.moveReserve src hdr p)
  | 0xF1 => some (.moveOpen src hdr p)
  | 0xF2 => some (.moveRelease src hdr p)
  | _ => none

/-- A command may arrive from this source: the network at any time, I3C while fewer than 16 are outstanding or unread. -/
def State.canArrive (s : State) (src : Src) : Prop := src = .i3c → s.i3c.live = true ∧ s.i3c.busy < 16

/-- The state in which the Steward takes a command from this source. -/
def State.accepted (s : State) (src : Src) : State :=
  { (if src = .i3c then s.modI3c fun x => { x with outstanding := x.outstanding + 1 } else s) with
    nextCmd := s.nextCmd + 1 }

/-- The request that the next command taken becomes. -/
def State.request (s : State) (op : Nat) (src : Src) (hdr : Hdr) (p : Bytes) : Req :=
  { id := s.nextCmd, src := src, op := op, hdr := hdr, p := p }

/-- A command is taken as it arrives, passes the checks of R351 and starts now. -/
def Taken (s : State) (op : Nat) (sp : CmdSpec) (src : Src) (hdr : Hdr) (p : Bytes) : Prop :=
  s.canArrive src ∧ s.stewardFree = true ∧ (s.accepted src).receiptCheck op sp src hdr p true true = none ∧
    hdr.start.toNat ≤ s.now

/-- The command that `exec` carried out completed with this status and these results, after its effect made state u. -/
def Completes (op : Nat) (src : Src) (hdr : Hdr) (u : State) (st : BitVec 16) (res : Bytes) (o : Outcome) : Prop :=
  o = .next ((u.reply src op hdr.tag hdr.part.val st res).settleFences)

/-- The command that `exec` carried out from s is in progress, waiting as w, after its effect made state u. -/
def Waits (s : State) (op : Nat) (src : Src) (hdr : Hdr) (u : State) (w : Wait) (o : Outcome) : Prop :=
  o = .next { u with cmds := u.cmds ++ [{ id := s.nextCmd, src := src, opcode := op, form := hdr.form, tag := hdr.tag,
                                          part := hdr.part.val, wait := w }] }

/-- A command in progress that was ended from state u. -/
def State.ended (u : State) (c : Cmd) (st : BitVec 16) (res : Bytes) : State :=
  ({ u with cmds := u.cmds.filter (·.id != c.id) }.reply c.src c.opcode c.tag c.part st res).settleFences

end Sys2Proof.Machine
end

