-- ==== Sys2Proof/Certificates/Slice0/Obligations.lean ====
section
/-! DEFINITION. The statements for the provers, over exec, step and the words of Safety.lean. A statement whose parts
are named Claims.<name> is the conjunction of those parts. -/

open Sys2Proof Sys2Proof.Machine

/-! ### A step carries out the command at the front of the queue; an empty queue idles (log entry 1) -/

/-- A step takes the command at the front of the queue and carries it out with the queue's rest. Idling on an empty queue
is the model's choice (log entry 1). -/
def Obligations.StepRunsFrontCommand : Prop :=
  (∀ (c : Instr) (s : State), step (s.withCommand c) = exec c s) ∧ (∀ s : State, s.pending = [] → step s = .next s)

/-! ### No command touches the queue; a step removes its front and nothing else of it -/

/-- Carrying out a command leaves the queue of waiting commands alone, so a step from a queue c :: rest leaves rest. -/
def Obligations.StepConsumesFrontOnly : Prop :=
  (∀ (c : Instr) (s t : State), exec c s = .next t → t.pending = s.pending) ∧
  ∀ (c : Instr) (rest : List Instr) (s t : State), s.pending = c :: rest → step s = .next t → t.pending = rest

/-! ### Every command answers a next state, but an SRAM error at an unassigned physical address, which faults -/

/-- Every command answers a next state, but SRAM_ECC_ERROR at a home-cache line whose physical address is unassigned
(R88), which faults so. -/
def Obligations.CommandsAnswer : Prop :=
  (∀ (c : Instr) (s : State), (∀ p, c ≠ .sramEccError (.cacheLine p)) → ∃ t, exec c s = .next t) ∧
  ∀ (p : Nat) (s : State),
    if p < 2 ^ 39 ∧ p % 2 ^ 31 < 0x48000000 then ∃ t, exec (.sramEccError (.cacheLine p)) s = .next t
    else exec (.sramEccError (.cacheLine p)) s = .fault .unassignedPhysical

/-! ### Registers at reset read as the tables give, and the machine at reset meets the invariant -/

/-- The registers' values at reset that the spec states: Tables 2.4, 9.7, 15.6, 16.10, 16.11, 17.6 and 19.9. -/
def Claims.ResetRegisters : Prop :=
  ∀ acc : Nat,
    State.reset.regValue acc 0x00000C = some 0 ∧ State.reset.regValue acc 0x000010 = some 0 ∧
    State.reset.regValue acc 0x000020 = some 0 ∧ State.reset.regValue acc 0x000024 = some 0 ∧
    State.reset.regValue acc 0x010000 = some 0 ∧ State.reset.regValue acc 0x010004 = some 0 ∧
    State.reset.regValue acc 0x010008 = some 8 ∧ State.reset.regValue acc 0x01000C = some 0x00BB8000 ∧
    State.reset.regValue acc 0x010018 = some 0x00BB8000 ∧ State.reset.regValue acc 0x01001C = some 0x0208D555 ∧
    State.reset.regValue acc 0x020000 = some 0 ∧ State.reset.regValue acc 0x020100 = some 0 ∧
    State.reset.regValue acc 0x030308 = some 8 ∧ State.reset.regValue acc 0x040010 = some 0x00402000 ∧
    State.reset.regValue acc 0x040014 = some 2 ∧ State.reset.regValue acc 0x050004 = some 0 ∧
    State.reset.regValue acc 0x050014 = some ((Config.serial >>> 32).truncate 32) ∧
    State.reset.regValue acc 0x060000 = some 0 ∧ State.reset.regValue acc 0x090000 = some 0 ∧
    State.reset.regValue acc 0x100100 = some 0 ∧ State.reset.regValue acc 0x10091C = some 0x400

/-- The machine at reset meets the invariant. -/
def Claims.ResetCanonical : Prop := State.reset.Inv

/-- Registers at reset read as the tables give, and the machine at reset meets the invariant: the conjunction of the parts
above. -/
def Obligations.ResetState : Prop :=
  Claims.ResetRegisters ∧ Claims.ResetCanonical

/-! ### Every step keeps memory and each table that State.Inv names in canonical form -/

/-- The invariant is kept by every step: memory and each table that State.Inv names stay in their canonical form, from
whatever state meets it. -/
def Obligations.StepKeepsCanonical : Prop :=
  ∀ s t : State, s.Inv → step s = .next t → t.Inv

/-! ### The sample-time counter moves once per reference period and by nothing else -/

/-- The sample-time counter (R25): stage 1 begins with it at 0; then each period of the internal source or flywheel, and
each period of a counted external source once, adds 1, and from 0xFFFFFFFFFFFF it wraps to 0 (46.5 years at 192 kHz);
whole-device resets, and the loss of VDD_NET before start-up begins, return it to 0; no other command changes it,
whatever it is. -/
def Obligations.CounterMovesByPeriods : Prop :=
  (∀ (c : Instr) (s t : State), exec c s = .next t → t.tb.count = s.tb.count ∨
    t.tb.count = s.tb.count + 1 ∧ ((∃ src e, c = .referenceEdge src e) ∨ c = .predictedInstant ∨ c = .windowClose ∨
      c = .internalPeriod) ∨
    t.tb.count = 0 ∧ ((∃ r, c = .stageComplete 0 r) ∨ c = .resetNLow ∨ c = .pwrOkLow ∨ c = .wholeDeviceReset ∨
      c = .rstact 2 ∨ c = .vddNetLoss ∨ c = .railExcursion 2)) ∧
  (∀ (r : StageEnd) (s : State), (s.stage 0).result = 1 → r.failed = false → s.halted = false → s.mustFail 0 = none →
    ∃ t, exec (.stageComplete 0 r) s = .next t ∧ t.tb.count = 0 ∧ t.tb.running = true ∧ (t.stage 1).result = 1) ∧
  (∀ s : State, s.tb.running = true → s.tb.counting = false →
    ∃ t, exec .internalPeriod s = .next t ∧ t.tb.count = s.tb.count + 1) ∧
  (∀ (e : Nat) (c : Instr) (s : State), s.tb.counting = true → s.tb.counted = false →
    (c = .referenceEdge s.tb.src e ∧ s.tb.accepted = none ∧ s.tb.inWindow e = true ∨ c = .predictedInstant) →
    ∃ t, exec c s = .next t ∧ t.tb.count = s.tb.count + 1 ∧ t.tb.counted = true) ∧
  (∀ (e : Nat) (c : Instr) (s : State), s.tb.counting = true → s.tb.counted = true →
    (c = .referenceEdge s.tb.src e ∨ c = .predictedInstant ∨ c = .windowClose) →
    ∃ t, exec c s = .next t ∧ t.tb.count = s.tb.count) ∧
  (∀ (c : Instr) (s : State), (c = .resetNLow ∨ c = .pwrOkLow ∨ c = .wholeDeviceReset ∧ s.resetReq = true ∨
      c = .vddNetLoss) → ∃ t, exec c s = .next t ∧ t.tb.count = 0) ∧
  (0xFFFFFFFFFFFF : Time) + 1 = 0 ∧
  (2 * 10 * 2 ^ 48 + 192000 * 31557600) / (2 * 192000 * 31557600) = 465

/-! ### Register writes and reads: read-only, W1C, clear-on-read, latched pairs, snapshots, unassigned addresses -/

/-- Register writes: at an unassigned address, or where the path may not write, nothing happens; a read-only register
ignores the write; writing 1 to a W1C bit clears it; LDG.SEL latches the selected entry and the counter in the
accessor's own snapshot; LNK.TX_RATE sets a transmit port's rate, and ignores a rate above the PHY's highest; a 1 in
I3C.CPL_STAT.POP removes the oldest completion. -/
def Claims.RegisterWrites : Prop :=
  (∀ (via : Via) (a : BitVec 24) (v : Word) (s : State), s.regValue (accOf via) a.toNat = none →
    exec (.registerWrite via a v) s = .next s) ∧
  (∀ (via : Via) (a : BitVec 24) (v : Word) (s : State), s.mayWrite via a.toNat v = false →
    exec (.registerWrite via a v) s = .next s) ∧
  (∀ (via : Via) (a : BitVec 24) (v : Word) (s : State), w1cMask a.toNat = 0 → a.toNat ≠ 0x090004 →
    ¬ (0x030000 ≤ a.toNat ∧ a.toNat < 0x030600 ∧ a.toNat % 256 = 8) → a.toNat ≠ 0x040104 →
    exec (.registerWrite via a v) s = .next s) ∧
  (∀ (via : Via) (a : BitVec 24) (v : Word) (s : State), w1cMask a.toNat ≠ 0 →
    (s.regValue (accOf via) a.toNat).isSome = true → s.mayWrite via a.toNat v = true →
    exec (.registerWrite via a v) s =
      .next (s.setReg a.toNat (s.reg a.toNat &&& ~~~(v &&& BitVec.ofNat 32 (w1cMask a.toNat))))) ∧
  (∀ (v : Word) (s : State), exec (.ldgSelWrite .i3c v) s =
    .next { s with snaps := (Tbl.set {} s.snaps 16
      ({ sel := v.truncate 12,
         entry := (s.entry (v.toNat % 4096)).toBytes (v.toNat % 4096) (s.headroomShown (s.entry (v.toNat % 4096))),
         time := s.tb.count } : Snap)) }) ∧
  (∀ (p : Fin 16) (dev : Bool) (v : Word) (s : State),
    if (s.entry (v.toNat % 4096)).belongs p.val then
      exec (.ldgSelWrite (.cmd p dev) v) s = .next { s with snaps := (Tbl.set {} s.snaps p.val
        ({ sel := v.truncate 12,
           entry := (s.entry (v.toNat % 4096)).toBytes (v.toNat % 4096) (s.headroomShown (s.entry (v.toNat % 4096))),
           time := s.tb.count } : Snap)) }
    else exec (.ldgSelWrite (.cmd p dev) v) s = .next s) ∧
  (∀ (p : Fin 6) (v : Word) (s : State),
    if p.val < 3 ∨ s.maxRate p.val < v.toNat % 16 then exec (.txRateWrite .i3c p v) s = .next s
    else ∃ t, exec (.txRateWrite .i3c p v) s = .next t ∧ (t.port p.val).rate = v.toNat % 16 ∧ (t.port p.val).state = 1) ∧
  (∀ (v : Word) (s : State), exec (.pop v) s =
    .next (if v.getLsbD 31 then { s with i3c := { s.i3c with cpl := s.i3c.cpl.drop 1 } } else s))

/-- Register reads: an unassigned address returns zero and has no side effect; a read-clear register returns its value,
then its clear-on-read bits clear; a counter of time or energy takes the next free value (log entry 17), a 64-bit one
goes on from what was read, and PWR.CLU_THROTTLED of a cluster that does not throttle reads as it was left and clears;
the read of the low half of a pair latches the high half, which the read of the high half then returns however the
pair has moved on (shown of the sample-time counter). -/
def Claims.RegisterReads : Prop :=
  (∀ (via : Via) (a : BitVec 24) (s : State), s.regValue (accOf via) a.toNat = none →
    exec (.readClear via a) s = .next { s with rdata := 0 }) ∧
  (∀ (via : Via) (a : BitVec 24) (s : State) (v : Word), s.regValue (accOf via) a.toNat = some v →
    s.mayRead via a.toNat = true → s.pairValue (accOf via) a.toNat = none → rcMask a.toNat = 0 →
    timedReg a.toNat = false →
    exec (.readClear via a) s = .next { s with rdata := v }) ∧
  (∀ (via : Via) (a : BitVec 24) (s : State) (v : Word), s.regValue (accOf via) a.toNat = some v →
    s.mayRead via a.toNat = true → s.pairValue (accOf via) a.toNat = none → rcMask a.toNat ≠ 0 →
    timedReg a.toNat = false →
    exec (.readClear via a) s =
      .next { s.setReg a.toNat (s.reg a.toNat &&& ~~~(BitVec.ofNat 32 (rcMask a.toNat))) with rdata := v }) ∧
  (∀ (via : Via) (a : BitVec 24) (s : State) (v : Word), s.regValue (accOf via) a.toNat = some v →
    s.mayRead via a.toNat = true → timedReg a.toNat = true →
    ∃ t, exec (.readClear via a) s = .next t ∧ t.rdata = v ∧ t.free = s.free + 1 ∧
      (timedWide a.toNat = true → t.wide64 a.toNat = BitVec.ofNat 64 (s.timedValue a.toNat) ∧ t.regs = s.regs) ∧
      t = { s with rdata := t.rdata, free := t.free, latch := t.latch, regs := t.regs, wide := t.wide }) ∧
  (∀ (via : Via) (n : Fin 32) (s : State), (s.clu n.val).throttle = 0 →
    ∃ t, exec (.readClear via (BitVec.ofNat 24 (cluThrottled n.val))) s = .next t ∧
      t.rdata = s.reg (cluThrottled n.val) ∧ t.reg (cluThrottled n.val) = 0) ∧
  (∀ (via : Via) (s : State), exec (.latchedPairRead via 0x010000) s =
    .next { s with rdata := s.tb.count.truncate 32,
                   latch := Tbl.set 0 s.latch 0x010004 ((s.tb.count >>> 32).truncate 32) }) ∧
  (∀ (via : Via) (s : State), exec (.latchedPairRead via 0x010004) s = .next { s with rdata := Tbl.get 0 s.latch 0x010004 }) ∧
  (∀ (via : Via) (s t u : State), exec (.latchedPairRead via 0x010000) s = .next t → u.latch = t.latch →
    exec (.latchedPairRead via 0x010004) u = .next { u with rdata := (s.tb.count >>> 32).truncate 32 })

/-- Register writes and reads: read-only, W1C, clear-on-read, latched pairs, snapshots, unassigned addresses: the
conjunction of the parts above. -/
def Obligations.RegisterAccess : Prop :=
  Claims.RegisterWrites ∧ Claims.RegisterReads

/-! ### The I3C common command codes (bit places and byte orders are the model's, log entry 36) -/

/-- The broadcast codes, and SETNEWDA, do to a live target what Table 16.9 says: ENEC and DISEC set and clear ENINT and
ENHJ (their bit places are the model's, log entry 36); RSTDAA, ENTDAA, SETDASA and SETNEWDA give and take the dynamic
address; SETMWL and SETMRL set limits clamped to 64 to 8,192 and 16 to 4,096 bytes; ENTHDR0 enters HDR-DDR. -/
def Claims.I3cBroadcastCodes : Prop :=
  (∀ (b : Byte) (s : State), s.i3c.live = true → exec (.enec b) s = .next { s with i3c := { s.i3c with
    nack := false, enint := s.i3c.enint || b.getLsbD 0, enhj := s.i3c.enhj || b.getLsbD 3 } }) ∧
  (∀ (b : Byte) (s : State), s.i3c.live = true → exec (.disec b) s = .next { s with i3c := { s.i3c with
    nack := false, enint := s.i3c.enint && !b.getLsbD 0, enhj := s.i3c.enhj && !b.getLsbD 3 } }) ∧
  (∀ s : State, s.i3c.live = true →
    exec .rstdaa s = .next { s with i3c := { s.i3c with nack := false, da := 0, daValid := false } }) ∧
  (∀ (da : BitVec 7) (s : State), s.i3c.live = true → s.i3c.daValid = false →
    exec (.entdaa true da) s = .next { s with i3c := { s.i3c with nack := false, da := da, daValid := true } }) ∧
  (∀ (sa da : BitVec 7) (s : State), s.i3c.live = true → sa.toNat = 0x58 + s.i3cSa.toNat →
    exec (.setdasa sa da) s = .next { s with i3c := { s.i3c with nack := false, da := da, daValid := true } }) ∧
  (∀ (da : BitVec 7) (s : State), s.i3c.live = true → s.i3c.daValid = true →
    exec (.setnewda da) s = .next { s with i3c := { s.i3c with nack := false, da := da } }) ∧
  (∀ (n : BitVec 16) (s : State), s.i3c.live = true →
    exec (.setmwl n) s = .next { s with i3c := { s.i3c with nack := false, mwl := max 64 (min 8192 n.toNat) } }) ∧
  (∀ (n : BitVec 16) (s : State), s.i3c.live = true →
    exec (.setmrl n) s = .next { s with i3c := { s.i3c with nack := false, mrl := max 16 (min 4096 n.toNat) } }) ∧
  (∀ s : State, s.i3c.live = true → exec .enthdr0 s = .next { s with i3c := { s.i3c with nack := false, hdr := true } })

/-- A target that holds a dynamic address answers the GET codes with the values of Table 16.9 (most significant byte
first, the model's choice, log entry 36) and changes nothing else, but that GETSTATUS clears the protocol-error bit. -/
def Claims.I3cGetCodes : Prop :=
  ∀ s : State, s.i3c.live = true → s.i3c.daValid = true →
    exec .getmwl s = .next { s with i3c := { s.i3c with nack := false, answer := (leBytes 2 s.i3c.mwl).reverse } } ∧
    exec .getmrl s =
      .next { s with i3c := { s.i3c with nack := false, answer := (leBytes 2 s.i3c.mrl).reverse ++ [1] } } ∧
    exec .getpid s = .next { s with i3c := { s.i3c with nack := false, answer := (leBytes 6
      (0x2B6E * 2 ^ 33 + 0x0768 * 2 ^ 16 + s.i3cSa.toNat * 2 ^ 12 + Config.rev.toNat)).reverse } } ∧
    exec .getbcr s = .next { s with i3c := { s.i3c with nack := false, answer := [0x27] } } ∧
    exec .getdcr s = .next { s with i3c := { s.i3c with nack := false, answer := [0x00] } } ∧
    exec .getstatus s = .next { s with i3c := { s.i3c with nack := false, protoErr := false, answer := (leBytes 2
      (s.stageLevel * 256 + 32 * b2n s.i3c.protoErr + popcount 3 s.i3c.ibi.toNat)).reverse } } ∧
    exec .getmxds s = .next { s with i3c := { s.i3c with nack := false, answer := [0, 0, 4, 0, 0] } }

/-- The I3C common command codes (bit places and byte orders are the model's, log entry 36): the conjunction of the parts
above. -/
def Obligations.I3cCodes : Prop :=
  Claims.I3cBroadcastCodes ∧ Claims.I3cGetCodes

/-! ### I3C private transfers, the command window, in-band interrupts, Hot-Join and RSTACT -/

/-- Private transfers. A write of one word sets the pointer past it and writes the register; a read of one word at an
aligned pointer returns it, little-endian, and moves the pointer; a write into I3C.CMD_WIN from offset 0 submits its
words as one command, to be taken in arrival order, unless 16 commands are outstanding or unread; then it is discarded
with OVERRUN (both of a write that MWL does not cut short). A transfer with a parity or CRC error is a protocol error,
and such a read is answered with nothing (log entry 36). -/
def Claims.I3cPrivateTransfers : Prop :=
  (∀ (a0 a1 a2 d0 d1 d2 d3 : Byte) (s : State), s.i3c.live = true → s.i3c.daValid = true → s.i3c.hdr = false →
    7 ≤ s.i3c.mwl → leNat [a0, a1, a2] % 4 = 0 → (leNat [a0, a1, a2] < 0x041000 ∨ 0x042000 ≤ leNat [a0, a1, a2]) →
    exec (.i3cPrivateWrite ⟨[a0, a1, a2, d0, d1, d2, d3], false⟩) s =
      .next ({ s with i3c := { s.i3c with ptr := BitVec.ofNat 24 (leNat [a0, a1, a2] + 4) } }.accessWrite .i3c
        (leNat [a0, a1, a2]) (BitVec.ofNat 32 (leNat [d0, d1, d2, d3])))) ∧
  (∀ (s t : State) (v : Word), s.i3c.live = true → s.i3c.daValid = true → 4 ≤ s.i3c.mrl → s.i3c.ptr.toNat % 4 = 0 →
    s.readReg 16 s.i3c.ptr.toNat = some (v, t) →
    exec (.i3cPrivateRead ⟨4, false⟩) s =
      .next { t with i3c := { t.i3c with ptr := s.i3c.ptr + 4, hdr := false, answer := leBytes 4 v.toNat } }) ∧
  (∀ (b : Bytes) (s : State), s.i3c.live = true → s.i3c.daValid = true → b ≠ [] → b.length % 4 = 0 → b.length ≤ 4096 →
    (if s.i3c.hdr then 4 else 3) + b.length ≤ s.i3c.mwl → s.i3c.outstanding + s.i3c.cpl.length < 16 →
    exec (.cmdWinWrite 0 ⟨b, false⟩) s = .next { s with
      rx := s.rx ++ [{ src := .i3c, part := none, bytes := b }],
      i3c := { s.i3c with ptr := BitVec.ofNat 24 (0x041000 + b.length), hdr := false, outstanding := s.i3c.outstanding + 1 } }) ∧
  (∀ (b : Bytes) (s : State), s.i3c.live = true → s.i3c.daValid = true → b ≠ [] → b.length % 4 = 0 → b.length ≤ 4096 →
    (if s.i3c.hdr then 4 else 3) + b.length ≤ s.i3c.mwl → 16 ≤ s.i3c.outstanding + s.i3c.cpl.length →
    exec (.cmdWinWrite 0 ⟨b, false⟩) s = .next ({ s with i3c :=
      { s.i3c with ptr := BitVec.ofNat 24 (0x041000 + b.length), hdr := false } }.setBits 0x040100 0x20)) ∧
  (∀ (b : Bytes) (s : State), s.i3c.live = true → s.i3c.daValid = true →
    ∃ t, exec (.i3cPrivateWrite ⟨b, true⟩) s = .next t ∧ t.i3c.protoErr = true) ∧
  (∀ (n : Nat) (s : State), s.i3c.live = true → s.i3c.daValid = true →
    exec (.i3cPrivateRead ⟨n, true⟩) s = .next { (s.bump 0x040018 0 16 1) with
      i3c := { s.i3c with protoErr := true, hdr := false, answer := [] } })

/-- In-band interrupts, Hot-Join and RSTACT: an acknowledged interrupt is no longer pending, a NACKed one waits for its
retry and is then sent again; a Hot-Join is requested only while ENHJ is set and no address is held; RSTACT 0x00
resets nothing, 0x01 the target alone, and 0x02 is a whole-device reset after which start-up runs again. -/
def Claims.I3cInterruptsAndReset : Prop :=
  (∀ (c : Fin 3) (s : State), s.i3c.live = true → s.i3c.daValid = true → s.i3c.enint = true →
    s.i3c.ibi.getLsbD c.val = true → s.i3c.nacked = none →
    exec (.ibi c true) s =
      .next { s with i3c := { s.i3c with ibi := s.i3c.ibi &&& ~~~(BitVec.ofNat 3 (2 ^ c.val)) } } ∧
    exec (.ibi c false) s = .next { s with i3c := { s.i3c with nacked := some c.val } }) ∧
  (∀ (c : Nat) (s : State), s.i3c.nacked = some c →
    exec .ibiRetry s = .next { s with i3c := { s.i3c with nacked := none, retries := s.i3c.retries + 1 } }) ∧
  (∀ s : State, s.i3c.live = true →
    exec .hotJoin s = .next (if s.i3c.enhj && !s.i3c.daValid then
      { s with i3c := { s.i3c with hotJoins := s.i3c.hotJoins + 1 } } else s)) ∧
  (∀ s : State, s.i3c.live = true →
    exec (.rstact 0) s = .next { s with i3c := { s.i3c with nack := false } } ∧
    (∃ t, exec (.rstact 1) s = .next t ∧ t.i3c = { live := true, da := s.i3c.da, daValid := s.i3c.daValid,
                                                   retries := s.i3c.retries, hotJoins := s.i3c.hotJoins, outstanding := s.i3c.outstanding } ∧
      { t with i3c := s.i3c, regs := s.regs } = s) ∧
    (s.badRails = [] → ∃ t, exec (.rstact 2) s = .next t ∧ t.started = true ∧ t.ready = false ∧ t.resetCause = 3 ∧
      t.resets = satAdd32 s.resets 1 ∧ t.mem = [] ∧ t.parts = [] ∧ t.cmds = [] ∧ t.net.id = s.net.id ∧
      t.net.idValid = s.net.idValid ∧ (t.stage 0).result = 1))

/-- I3C private transfers, the command window, in-band interrupts, Hot-Join and RSTACT: the conjunction of the parts
above. -/
def Obligations.I3cTransfers : Prop :=
  Claims.I3cPrivateTransfers ∧ Claims.I3cInterruptsAndReset

/-! ### Start-up stages, whole-device resets and rails -/

/-- Start-up: t0 begins stage 0; a stage that ends done says so in its report and in SYS.EVENTS.STAGE, and from stage 3
onward raises IBI code 1; stage 0 samples the straps, stage 2 makes the I3C target live, stage 3 leaves DRAM zeroed,
stage 7 drives READY high unless the device is halted; stage 0 fails while a sensor is hot or a rail is out of its
range (a rail's UNIT is the model's choice, log entry 85), stage 4 without entropy; a stage that fails, or overruns
its bound (cause 0x0C), halts the device, but for stages 6 and 7, which never fail. -/
def Claims.StartUpStages : Prop :=
  (∀ s : State, s.started = false → ∃ t, exec .startUp s = .next t ∧ t.started = true ∧
    (t.stage 0).result = 1 ∧ { t with started := s.started, stages := s.stages } = s) ∧
  (∀ (n : Fin 8) (r : StageEnd) (s : State), (s.stage n.val).result = 1 → n.val ≠ 5 → (r.failed = false ∨ 6 ≤ n.val) →
    s.mustFail n.val = none →
    ∃ t, exec (.stageComplete n r) s = .next t ∧ (t.stage n.val).result = 2 ∧ (t.stage n.val).endUs = r.endUs ∧
      (t.reg 0x20).getLsbD 7 = true ∧ t.halted = s.halted ∧ (3 ≤ n.val → t.i3c.ibi.getLsbD 0 = true) ∧
      (n = 0 → t.phyMode = r.phyMode ∧ t.i3cSa = r.i3cSa ∧ (s.halted = false → t.tb.count = 0 ∧ t.tb.running = true)) ∧
      (n = 2 → t.i3c.live = true) ∧ (n = 3 → t.mem = [] ∧ t.badLines = []) ∧ (n = 7 → t.ready = !s.halted)) ∧
  (∀ (n : Fin 8) (r : StageEnd) (s : State), (s.stage n.val).result = 1 → n.val < 5 → r.failed = true →
    s.mustFail n.val = none →
    ∃ t, exec (.stageComplete n r) s = .next t ∧ t.halted = true ∧ (t.stage n.val).result = 3 ∧
      (t.stage n.val).cause = r.cause ∧ (t.reg 0x20).getLsbD 7 = true ∧ t.ready = false) ∧
  (∀ (r : StageEnd) (s : State) (u : BitVec 16), (s.stage 0).result = 1 → s.hotNow = some u →
    ∃ t, exec (.stageComplete 0 r) s = .next t ∧ t.halted = true ∧ (t.stage 0).result = 3 ∧ (t.stage 0).cause = 1 ∧
      (t.stage 0).kind = 12 ∧ (t.stage 0).unit = u) ∧
  (∀ (r : StageEnd) (s : State) (k : Fin 7), (s.stage 0).result = 1 → s.hotNow = none → k ∈ s.badRails →
    (∀ q ∈ s.badRails, k ≤ q) →
    ∃ t, exec (.stageComplete 0 r) s = .next t ∧ t.halted = true ∧ (t.stage 0).result = 3 ∧ (t.stage 0).cause = 1 ∧
      (t.stage 0).kind = 11 ∧ (t.stage 0).unit = BitVec.ofNat 16 k.val) ∧
  (∀ (r : StageEnd) (s : State), (s.stage 4).result = 1 → s.entropyFail = true →
    ∃ t, exec (.stageComplete 4 r) s = .next t ∧ t.halted = true ∧ (t.stage 4).result = 3 ∧ (t.stage 4).cause = 0x0A ∧
      (t.stage 4).kind = 10) ∧
  (∀ (n : Fin 8) (k : Byte) (u : BitVec 16) (us : Word) (s : State), (s.stage n.val).result = 1 → n.val < 6 →
    ∃ t, exec (.stageTimeout n k u us) s = .next t ∧ t.halted = true ∧ (t.stage n.val).result = 3 ∧
      (t.stage n.val).cause = 0x0C ∧ (t.stage n.val).kind = k ∧ (t.stage n.val).unit = u ∧ t.ready = false ∧
      t.mem = s.mem) ∧
  (∀ (n : Fin 8) (k : Byte) (u : BitVec 16) (us : Word) (s : State), 6 ≤ n.val → exec (.stageTimeout n k u us) s = .next s)

/-- A whole-device reset with VDD_NET and VDD_PHY in range, started by a pin or by RESET_UNIT at LEVEL 3: memory, the
partitions, streams, images, contexts and commands are gone, the sample-time counter is 0, READY is low; SYS.RESETS
has counted it and SYS.RESET_CAUSE names it; the network domain keeps FAB.ID, its ports, its through and turn buffers
and its receive spaces; with VDD_PHY out of range it keeps FAB.ID alone. A thermal trip holds through a reset that
begins with a hot sensor, and only then. Loss of VDD_NET keeps nothing. -/
def Claims.WholeDeviceResets : Prop :=
  (∀ s : State, railNet ∉ s.badRails → railPhy ∉ s.badRails →
    (∀ (c : Instr) (cause : Nat), (c = .resetNLow ∧ cause = 1 ∨ c = .pwrOkLow ∧ cause = 1 ∨
        c = .wholeDeviceReset ∧ s.resetReq = true ∧ cause = 2) →
      ∃ t, exec c s = .next t ∧ t.mem = [] ∧ t.parts = [] ∧ t.entries = [] ∧ t.images = [] ∧ t.ctxs = [] ∧ t.ropes = [] ∧
        t.dockets = [] ∧ t.cmds = [] ∧ t.sync = [] ∧ t.tb.count = 0 ∧ t.ready = false ∧ t.resetCause = cause ∧
        t.resets = satAdd32 s.resets 1 ∧ t.net.id = s.net.id ∧ t.net.idValid = s.net.idValid ∧
        t.net.ports = s.net.ports ∧ t.net.thru = s.net.thru ∧ t.net.turn = s.net.turn ∧
        t.net.rcv.map (·.expect) = s.net.rcv.map (·.expect) ∧
        t.tripped = (s.tripped && s.hotSensor.isSome) ∧ t.hotStart = s.hotSensor)) ∧
  (∀ s : State, railNet ∉ s.badRails → railPhy ∈ s.badRails → ∃ t, exec .resetNLow s = .next t ∧
    t.net = { id := s.net.id, idValid := s.net.idValid, relay := s.net.relay }) ∧
  (∀ s : State, exec .vddNetLoss s = .next { State.reset with pending := s.pending, free := s.free, badRails := s.badRails })

/-- A rail that leaves its range is listed while it is out, and nothing else changes once start-up has begun (R427); while
the device is held before it, the loss of VDD_NET leaves nothing, and that of VDD_PHY only what VDD_NET alone keeps of
the network domain (R329, R392). -/
def Claims.RailExcursions : Prop :=
  ∀ (r : Fin 7) (s : State), ∃ t u, exec (.railExcursion r) s = .next t ∧ r ∈ t.badRails ∧
    (∀ q, q ≠ r → (q ∈ t.badRails ↔ q ∈ s.badRails)) ∧
    (s.started = true ∨ r ≠ 2 ∧ r ≠ 5 → { t with badRails := s.badRails } = s) ∧
    (s.started = false → r = 2 →
      t = { State.reset with pending := s.pending, free := s.free, badRails := t.badRails }) ∧
    (s.started = false → r = 5 → { t with badRails := s.badRails } =
      { s with net := { id := s.net.id, idValid := s.net.idValid, relay := s.net.relay } }) ∧
    exec (.railReturn r) s = .next u ∧ r ∉ u.badRails ∧ (∀ q, q ≠ r → (q ∈ u.badRails ↔ q ∈ s.badRails)) ∧
    { u with badRails := s.badRails } = s

/-- Start-up stages, whole-device resets and rails: the conjunction of the parts above. -/
def Obligations.StartUpAndResets : Prop :=
  Claims.StartUpStages ∧ Claims.WholeDeviceResets ∧ Claims.RailExcursions

/-! ### Counting a LOCKED external source, and the internal source -/

/-- LOCKED to an external source: the first edge in the window increments the counter, no later than the prediction; an
edge outside the window, or a second one, is rejected and counted, and the third rejected in a row enters RELOCK; the
prediction counts when no edge came; at the window's end the accepted edge, or else the prediction, is the new anchor.
Each of these instants looks whether AUD_MCLK_IN has missed more than 4 of its expected edges: then it is no longer
accepted, and the outputs it clocks are muted (R285). -/
def Obligations.TimebaseCounting : Prop :=
  (∀ (t : Nat) (s : State), s.tb.counting = true → s.tb.accepted = none → s.tb.inWindow t = true → s.tb.counted = false →
    exec (.referenceEdge s.tb.src t) s = .next (State.mclkCheck { s with tb := { s.tb with
      count := s.tb.count + 1, wclk := s.tb.wclk + 1, lastInc := min t s.tb.predicted, accepted := some t, counted := true, rej := 0 } } t)) ∧
  (∀ (t : Nat) (s : State), s.tb.counting = true → (s.tb.accepted ≠ none ∨ s.tb.inWindow t = false) →
    ∃ u, exec (.referenceEdge s.tb.src t) s = .next u ∧ u.tb.count = s.tb.count ∧ u.tb.rej = min 3 (s.tb.rej + 1) ∧
      u.tb.st = (if 2 ≤ s.tb.rej then .relock else .locked) ∧ u.reg 0x010030 = satAdd32 (s.reg 0x010030) 1 ∧
      (u.reg 0x010014).getLsbD 3 = true ∧ (s.mclk.stale t = false → { u with tb := s.tb, regs := s.regs } = s)) ∧
  (∀ (src : Fin 4) (t : Nat) (s : State), src ≠ s.tb.src → exec (.referenceEdge src t) s = .next s) ∧
  (∀ s : State, s.tb.counting = true → s.tb.counted = false →
    exec .predictedInstant s = .next (State.mclkCheck { s with tb := { s.tb with
      count := s.tb.count + 1, wclk := s.tb.wclk + 1, lastInc := s.tb.predicted, counted := true } } s.tb.predicted)) ∧
  (∀ s : State, s.tb.counting = true → s.tb.counted = true → (s.tb.accepted ≠ none ∨ s.tb.miss < 4) →
    ∃ u, exec .windowClose s = .next u ∧ u.tb.count = s.tb.count ∧ u.tb.anchor = s.tb.accepted.getD s.tb.predicted ∧
      u.tb.miss = (if s.tb.accepted = none then s.tb.miss + 1 else 0) ∧ u.tb.accepted = none ∧ u.tb.counted = false ∧
      { u with tb := s.tb } = s) ∧
  (∀ s : State, s.tb.running = true → s.tb.counting = false →
    exec .internalPeriod s = .next (State.mclkCheck { s with tb := { s.tb with
      count := s.tb.count + 1, wclk := s.tb.wclk + 1, lastInc := s.tb.lastInc + s.tb.ratio.toNat } }
      (s.tb.lastInc + s.tb.ratio.toNat))) ∧
  (∀ (now : Nat) (s : State), (s.mclkCheck now).tb = s.tb ∧
    if s.mclk.stale now then (s.mclkCheck now).mclk.accepted = false ∧
      ∀ o : Fin 8, (s.out o.val).en = true → (s.out o.val).clk = 5 → ((s.mclkCheck now).out o.val).clkMute = true
    else s.mclkCheck now = s)

/-! ### Missing edges and holdover; acquisition, re-measurement and recorded rate changes -/

/-- Missing edges and holdover: a window or a span without an edge counts one missing edge; the fifth in a row enters
HOLDOVER, which sets LOST, counts the entry and raises TIMEBASE_LOST. -/
def Claims.TimebaseHoldover : Prop :=
  (∀ s : State, s.tb.running = true → s.tb.src ≠ 0 → (s.tb.st = .acquire ∨ s.tb.st = .relock) → s.tb.miss < 4 →
    exec .missingSpan s =
      .next { s with tb := { s.tb with miss := s.tb.miss + 1 } }) ∧
  (∀ (c : Instr) (s : State), s.tb.running = true → s.tb.src ≠ 0 → s.tb.miss = 4 →
    (c = .missingSpan ∧ (s.tb.st = .acquire ∨ s.tb.st = .relock) ∨
      c = .windowClose ∧ s.tb.counting = true ∧ s.tb.counted = true ∧ s.tb.accepted = none) →
    ∃ u, exec c s = .next u ∧ u.tb.st = .holdover ∧ u.tb.miss = 5 ∧ u.tb.count = s.tb.count ∧
      (u.reg 0x010014).getLsbD 0 = true ∧ u.eventSeq = s.eventSeq + 1 ∧ (u.reg 0x20).getLsbD 1 = true)

/-- Acquisition and re-measurement: 256 consecutive periods each within 0.1 % of their mean, of an acceptable rate, lock
the timebase to that rate; a LOCKED external source's last 256 periods give the new rate and ratio; a change of more
than 0.1 % is recorded with its time. -/
def Claims.TimebaseMeasures : Prop :=
  (∀ (t e : Nat) (rate ratio : Word) (sum : Nat) (s : State), s.tb.running = true → s.tb.src ≠ 0 → s.tb.st ≠ .locked →
    s.tb.lastEdge = some e → acquired (((t - e) :: s.tb.periods).take 256) = some sum →
    meanRate sum 256 = some (rate, ratio) →
    ∃ u, exec (.referenceEdge s.tb.src t) s = .next u ∧ u.tb.st = .locked ∧ u.tb.rate = rate ∧ u.tb.ratio = ratio ∧
      u.tb.anchor = t ∧ u.tb.miss = 0 ∧ u.tb.rej = 0 ∧ (s.tb.st = .holdover → (u.reg 0x010014).getLsbD 1 = true)) ∧
  (∀ (sum : Nat) (rate ratio : Word) (s : State), s.tb.counting = true → s.tb.measured = some sum →
    meanRate sum 256 = some (rate, ratio) →
    ∃ u, exec .remeasure s = .next u ∧ u.tb.rate = rate ∧ u.tb.ratio = ratio ∧ u.tb.measured = none ∧
      u.tb.count = s.tb.count ∧
      (if s.tb.rate.toNat < 1000 * ((rate.toNat : Int) - (s.tb.rate.toNat : Int)).natAbs
       then u.tb.chgTime = s.tb.count ∧ u.tb.chgOld = s.tb.rate ∧ u.tb.chgNew = rate ∧ (u.reg 0x010014).getLsbD 2 = true
       else u.tb.chgTime = s.tb.chgTime ∧ u.tb.chgOld = s.tb.chgOld ∧ u.tb.chgNew = s.tb.chgNew))

/-- Missing edges and holdover; acquisition, re-measurement and recorded rate changes: the conjunction of the parts above. -/
def Obligations.TimebaseMeasurement : Prop :=
  Claims.TimebaseHoldover ∧ Claims.TimebaseMeasures

/-! ### A pending F and the start of a frame -/

/-- Frames: a pending F takes effect once the counter has reached its instant; a frame starts at each multiple of F, once,
and transmit ports that are UP mark it with its number. -/
def Obligations.FrameStarts : Prop :=
  (∀ (T : Time) (s : State), s.tb.fAt = some T → (s.tb.count - T).toNat < 2 ^ 47 →
    exec .fChange s = .next { s with tb := { s.tb with frameEff := s.tb.frameSel, fAt := none } }) ∧
  (∀ (T : Time) (s : State), s.tb.fAt = some T → 2 ^ 47 ≤ (s.tb.count - T).toNat → exec .fChange s = .next s) ∧
  (∀ s : State, s.tb.running = true → s.tb.fAt = none → s.now % s.frameF = 0 → s.tb.frameAt ≠ some s.tb.count →
    ∃ u, exec .frameStart s = .next u ∧ u.tb.frameAt = some s.tb.count ∧ u.tb.count = s.tb.count ∧ u.changes = [] ∧
      (∀ p, (p = 3 ∨ p = 4 ∨ p = 5) → (s.port p).state = 2 →
        (u.port p).marked = true ∧ (u.port p).fs = some (BitVec.ofNat 16 s.frameNo)) ∧ u.mem = s.mem) ∧
  (∀ s : State, s.tb.running = true → s.tb.fAt = none → (s.now % s.frameF ≠ 0 ∨ s.tb.frameAt = some s.tb.count) →
    exec .frameStart s = .next s)

/-! ### Scalar, address and predicate words: result and frame -/

/-- The scalar words: s_D takes the result that Table 7.5 gives, of s_S1 and the second operand (s_S2, or IMM when IM is
1), wrapped to 32 bits; s.li takes IMM, and s.fra the low word of a_AS. -/
def Claims.ScalarWords : Prop :=
  ∀ (site : Site) (w : W64) (s : State) (op : Nat) (c : Instr) (v : Word), Issues s site w op → Straight s site →
    let h := s.at site
    let a : Word := h.sReg (fld w.toNat 41 5)
    let b : Word := if w.getLsbD 35 then w.truncate 32 else h.sReg (fld w.toNat 36 5)
    (c = .sAdd site w ∧ op = 0x10 ∧ v = a + b ∨ c = .sSub site w ∧ op = 0x11 ∧ v = a - b ∨
      c = .sMul site w ∧ op = 0x12 ∧ v = a * b ∨ c = .sAnd site w ∧ op = 0x13 ∧ v = a &&& b ∨
      c = .sOr site w ∧ op = 0x14 ∧ v = a ||| b ∨ c = .sXor site w ∧ op = 0x15 ∧ v = a ^^^ b ∨
      c = .sShl site w ∧ op = 0x16 ∧ v = a <<< (b.toNat % 32) ∨ c = .sShr site w ∧ op = 0x17 ∧ v = a >>> (b.toNat % 32) ∨
      c = .sSra site w ∧ op = 0x18 ∧ v = a.sshiftRight (b.toNat % 32) ∨
      c = .sMin site w ∧ op = 0x19 ∧ v = (if a.toInt ≤ b.toInt then a else b) ∨
      c = .sMax site w ∧ op = 0x1A ∧ v = (if a.toInt ≤ b.toInt then b else a) ∨
      c = .sLi site w ∧ op = 0x1B ∧ v = w.truncate 32 ∨
      c = .sFra site w ∧ op = 0x1F ∧ v = (h.aReg (fld w.toNat 42 4)).truncate 32) →
    ∃ t, exec c s = .next t ∧ FrontSets s t site (Tbl.set 0 h.s (fld w.toNat 46 5) v) h.a h.p

/-- The address words: a_AD takes IMM40, a_AS plus the sign-extended IMM, or a_AS plus the sign-extended s_S shifted left
by SH, modulo 2^40. -/
def Claims.AddressWords : Prop :=
  ∀ (site : Site) (w : W64) (s : State) (op : Nat) (c : Instr) (v : Addr), Issues s site w op → Straight s site →
    let h := s.at site
    let a : Addr := h.aReg (fld w.toNat 43 4)
    (c = .aLi site w ∧ op = 0x1C ∧ v = w.truncate 40 ∨
      c = .aAddi site w ∧ op = 0x1D ∧ v = a + (w.truncate 32 : Word).signExtend 40 ∨
      c = .aAdds site w ∧ op = 0x1E ∧ v = a + (h.sReg (fld w.toNat 38 5)).signExtend 40 <<< fld w.toNat 33 5) →
    ∃ t, exec c s = .next t ∧ FrontSets s t site h.s (Tbl.set 0 h.a (fld w.toNat 47 4) v) h.p

/-- The predicate words: p_PD takes the comparison of s_S1 with s_S2 or IMM, the logic of p_PA and p_PB, or V. -/
def Claims.PredicateWords : Prop :=
  ∀ (site : Site) (w : W64) (s : State) (op : Nat) (c : Instr) (v : Bool), Issues s site w op → Straight s site →
    let h := s.at site
    let a : Word := h.sReg (fld w.toNat 43 5)
    let b : Word := if w.getLsbD 37 then w.truncate 32 else h.sReg (fld w.toNat 38 5)
    let x : Bool := h.pReg (fld w.toNat 45 3)
    let y : Bool := h.pReg (fld w.toNat 42 3)
    (c = .pEq site w ∧ op = 0x20 ∧ v = decide (a = b) ∨ c = .pNe site w ∧ op = 0x21 ∧ v = decide (a ≠ b) ∨
      c = .pLt site w ∧ op = 0x22 ∧ v = decide (a.toInt < b.toInt) ∨
      c = .pGe site w ∧ op = 0x23 ∧ v = decide (b.toInt ≤ a.toInt) ∨
      c = .pLtu site w ∧ op = 0x24 ∧ v = decide (a.toNat < b.toNat) ∨
      c = .pGeu site w ∧ op = 0x25 ∧ v = decide (b.toNat ≤ a.toNat) ∨
      c = .pAnd site w ∧ op = 0x26 ∧ v = (x && y) ∨ c = .pOr site w ∧ op = 0x27 ∧ v = (x || y) ∨
      c = .pXor site w ∧ op = 0x28 ∧ v = xor x y ∨ c = .pAndn site w ∧ op = 0x29 ∧ v = (x && !y) ∨
      c = .pSet site w ∧ op = 0x2A ∧ v = w.getLsbD 47) →
    ∃ t, exec c s = .next t ∧ FrontSets s t site h.s h.a (Tbl.set false h.p (fld w.toNat 48 3) v)

/-- Scalar, address and predicate words: result and frame: the conjunction of the parts above. -/
def Obligations.RegisterWords : Prop :=
  Claims.ScalarWords ∧ Claims.AddressWords ∧ Claims.PredicateWords

/-! ### Control words and fused commands -/

/-- Control words: nop and a tk.wait whose ticket is ready do nothing but pass on; tk.wait is held while its ticket is
short; stop ends dispatch; a branch inside the program goes to its target and closes the loops that do not contain it;
lp.begin opens a loop of CIMM or s_CS iterations, writing 0 to s_XS when XE is 1, and a count of 0 skips the body;
sys.rd reads the value its selector names, SEL 6 latching for its context the time's high part that SEL 7 reads. -/
def Claims.ControlWords : Prop :=
  (∀ (site : Site) (w : W64) (s : State) (op : Nat) (c : Instr), Issues s site w op → Straight s site →
    (c = .nop site w ∧ op = 0x00 ∨ c = .tkWait site w ∧ op = 0x04) →
    ∃ t, exec c s = .next t ∧ FrontSets s t site (s.at site).s (s.at site).a (s.at site).p) ∧
  (∀ (site : Site) (w : W64) (s : State), (s.at site).next = some w → wOp w.toNat = 0x04 →
    (s.at site).guardOff w.toNat = false →
    ticketReady (Tbl.get 0 (s.at site).k (fld w.toNat 47 4)) (((s.at site).sReg (fld w.toNat 42 5)).truncate 16) = false →
    exec (.tkWait site w) s = .next s) ∧
  (∀ (site : Site) (w : W64) (s : State), Issues s site w 0x01 →
    ∃ t, exec (.stop site w) s = .next t ∧ OnlyShare s t site ∧ FrontFrame (s.at site) (t.at site) ∧
      (t.at site).stopped = true) ∧
  (∀ (site : Site) (w : W64) (s : State) (n : Nat), Issues s site w 0x02 →
    ((s.at site).pc : Int) + signed 24 (fld w.toNat 0 24) = (n : Int) → n < (s.at site).program.length →
    ∃ t, exec (.br site w) s = .next t ∧ OnlyShare s t site ∧ FrontFrame (s.at site) (t.at site) ∧
      (t.at site).pc = n ∧ (t.at site).s = (s.at site).s ∧ (t.at site).a = (s.at site).a ∧ (t.at site).p = (s.at site).p ∧
      (t.at site).loops = (s.at site).loops.dropWhile (fun l => decide (n < l.first ∨ l.last < n))) ∧
  (∀ (site : Site) (w : W64) (s : State) (n : Nat), Issues s site w 0x03 →
    n = (if w.getLsbD 50 then fld w.toNat 0 16 else ((s.at site).sReg (fld w.toNat 45 5)).toNat) → n ≠ 0 →
    (s.at site).loops.length < 4 → (s.at site).bodyTooLong ((s.at site).pc + fld w.toNat 27 12) = false →
    ∃ t, exec (.lpBegin site w) s = .next t ∧ OnlyShare s t site ∧ FrontFrame (s.at site) (t.at site) ∧
      (t.at site).pc = (s.at site).pc + 1 ∧
      (t.at site).loops = { first := (s.at site).pc + 1, last := (s.at site).pc + fld w.toNat 27 12, left := n, iter := 0,
                            xs := if w.getLsbD 39 then some (fld w.toNat 40 5) else none } :: (s.at site).loops ∧
      (t.at site).s = (if w.getLsbD 39 then Tbl.set 0 (s.at site).s (fld w.toNat 40 5) 0 else (s.at site).s)) ∧
  (∀ (site : Site) (w : W64) (s : State), Issues s site w 0x03 →
    (if w.getLsbD 50 then fld w.toNat 0 16 else ((s.at site).sReg (fld w.toNat 45 5)).toNat) = 0 →
    (s.at site).bodyTooLong ((s.at site).pc + fld w.toNat 27 12) = false →
    (∀ l, (s.at site).loops.head? = some l → l.last ≠ (s.at site).pc + fld w.toNat 27 12) →
    ∃ t, exec (.lpBegin site w) s = .next t ∧ OnlyShare s t site ∧ FrontFrame (s.at site) (t.at site) ∧
      (t.at site).pc = (s.at site).pc + fld w.toNat 27 12 + 1 ∧ (t.at site).loops = (s.at site).loops ∧
      (t.at site).s = (s.at site).s) ∧
  (∀ (site : Site) (w : W64) (s : State) (v : Nat), Issues s site w 0x05 → Straight s site →
    let n := fld w.toNat 40 6
    let k := site.core.val / 64
    (n = 0 ∧ v = site.core.val ∨ n = 1 ∧ v = k ∨ n = 2 ∧ v = site.share.val ∨ n = 3 ∧ v = (s.at site).ctx.getD 0 ∨
      n = 4 ∧ v = (s.at site).logical ∨ n = 5 ∧ (s.clu k).part = some v ∨ n = 7 ∧ (∃ x, (s.at site).ctx.bind s.ctx = some x ∧ v = x.timeHi.toNat) ∨
      n = 8 ∧ v = s.generation.toNat) →
    ∃ t, exec (.sysRd site w) s = .next t ∧
      FrontSets s t site (Tbl.set 0 (s.at site).s (fld w.toNat 46 5) (BitVec.ofNat 32 v)) (s.at site).a (s.at site).p) ∧
  (∀ (site : Site) (w : W64) (s : State), Issues s site w 0x05 → Straight s site → fld w.toNat 40 6 = 6 →
    ∃ t, exec (.sysRd site w) s = .next t ∧ OnlyShare { s with ctxs := t.ctxs } t site ∧
      FrontFrame (s.at site) (t.at site) ∧
      (t.at site).s = Tbl.set 0 (s.at site).s (fld w.toNat 46 5) (s.tb.count.truncate 32) ∧
      (∀ c x, (s.at site).ctx = some c → s.ctx c = some x →
        t.ctx c = some { x with timeHi := (s.tb.count >>> 32).truncate 16 }) ∧
      (∀ c, (s.at site).ctx ≠ some c → t.ctx c = s.ctx c) ∧ (t.at site).pc = (s.at site).pc + 1)

/-- Fused commands: fuse.begin opens the fused loop over the words up to the next fuse.end and records its stages, beside
earlier commands whose words are still unfinished; fuse.end closes the command: when every word has finished it ends
at once and its ticket posts, otherwise it waits for the rest (outside any command it posts at once, the model's
choice, log entry 21). -/
def Claims.FuseWords : Prop :=
  (∀ (site : Site) (w : W64) (s : State) (body : List W64) (n : Nat), Issues s site w 0xD0 → wWE w.toNat = false →
    fuseBody ((s.at site).program.drop ((s.at site).pc + 1)) = some body →
    n = (if w.getLsbD 25 then fld w.toNat 8 12 else ((s.at site).sReg (fld w.toNat 20 5)).toNat) → n ≠ 0 →
    (s.at site).loops.length < 4 → (s.at site).bodyTooLong ((s.at site).pc + body.length) = false →
    let engines := (List.range (fld w.toNat 34 2 + 1)).map (fun i => fld w.toNat (26 + 2 * i) 2)
    stagesOk engines (bodyQueues body) = true →
    ∃ t, exec (.fuseBegin site w) s = .next t ∧ OnlyShare s t site ∧ FrontFrame (s.at site) (t.at site) ∧
      (t.at site).pc = (s.at site).pc + 1 ∧
      (t.at site).loops = { first := (s.at site).pc + 1, last := (s.at site).pc + body.length, left := n, iter := 0,
                            xs := if w.getLsbD 2 then some (fld w.toNat 3 5) else none, fused := true } ::
                          (s.at site).loops ∧
      (t.at site).fused = (s.at site).fused.map (fun f => { f with wait := none }) ++
        [{ id := (s.at site).fuseNext, engines := engines, iters := n,
           words := engines.map (fun e => ((bodyQueues body).filter (· == e)).length) }] ∧
      (t.at site).fuseNext = (s.at site).fuseNext + 1) ∧
  (∀ (site : Site) (w : W64) (s : State) (f : Fused), Issues s site w 0xD1 → Straight s site →
    (s.at site).fused.find? (fun f => !f.closed) = some f → { f with closed := true }.complete = false →
    ∃ t, exec (.fuseEnd site w) s = .next t ∧ OnlyShare s t site ∧ FrontFrame (s.at site) (t.at site) ∧
      (t.at site).pc = (s.at site).pc + 1 ∧
      (t.at site).fused = (s.at site).fused.map (fun x =>
        if x.id = f.id then { f with wait := none, closed := true, post := wPost w.toNat } else { x with wait := none })) ∧
  (∀ (site : Site) (w : W64) (s : State) (k : Nat) (rest : List Fused), Issues s site w 0xD1 → Straight s site →
    wPost w.toNat = some k →
    ((s.at site).fused.find? (fun f => !f.closed) = none ∧ rest = (s.at site).fused ∨
      ∃ f, (s.at site).fused.find? (fun f => !f.closed) = some f ∧ { f with closed := true }.complete = true ∧
        rest = (s.at site).fused.filter (·.id != f.id)) →
    ∃ t, exec (.fuseEnd site w) s = .next t ∧ OnlyShare s t site ∧ (t.at site).pc = (s.at site).pc + 1 ∧
      (t.at site).fused = rest.map (fun f => { f with wait := none }) ∧ (t.at site).k = Tbl.set 0 (s.at site).k k (Tbl.get 0 (s.at site).k k + 1) ∧
      FrontFrame (s.at site) { t.at site with k := (s.at site).k })

/-- Control words and fused commands: the conjunction of the parts above. -/
def Obligations.ControlAndFuseWords : Prop :=
  Claims.ControlWords ∧ Claims.FuseWords

/-! ### A guarded-off word has no effect but to pass on and to post its ticket -/

/-- A guarded-off front-end word does nothing but pass on to the next word: no register, loop or branch (R136). -/
def Claims.GuardedOffFrontWords : Prop :=
  ∀ (site : Site) (w : W64) (s : State) (op : Nat) (c : Instr), s.dispatches site w = true → wOp w.toNat = op →
    wordOk w.toNat = true → (s.at site).guardOff w.toNat = true →
    ((s.at site).fusedLoop.isSome && fuseForbids op) = false → Straight s site →
    (c = .stop site w ∧ op = 0x01 ∨ c = .br site w ∧ op = 0x02 ∨ c = .lpBegin site w ∧ op = 0x03 ∨
      c = .sysRd site w ∧ op = 0x05 ∨ c = .sAdd site w ∧ op = 0x10 ∨ c = .sLi site w ∧ op = 0x1B ∨
      c = .aAddi site w ∧ op = 0x1D ∨ c = .pEq site w ∧ op = 0x20 ∨ c = .pSet site w ∧ op = 0x2A) →
    ∃ t, exec c s = .next t ∧ FrontSets s t site (s.at site).s (s.at site).a (s.at site).p

/-- A guarded-off engine word, at its turn, leaves its queue and posts its ticket, and does nothing else (R136). -/
def Claims.GuardedOffEngineWords : Prop :=
  ∀ (op q : Nat) (site : Site) (w : W64) (s : State) (c : Instr) (e : QEntry) (rest : List QEntry),
    engineInstr op site .start w = some c → queueOf op = some q → (s.at site).queue q = e :: rest → e.word = w →
    wOp w.toNat = op → e.off = true → s.startable site.core.val q site.share.val = true →
    s.chooses site.core.val q (s.startable site.core.val q) = some site.share.val →
    exec c s = .next (((s.turned site q).leave site.core.val q site.share.val).wordDone site.core.val site.share.val
      (wPost w.toNat) e.stage)

/-- A guarded-off word has no effect but to pass on and to post its ticket: the conjunction of the parts above. -/
def Obligations.GuardedOffWords : Prop :=
  Claims.GuardedOffFrontWords ∧ Claims.GuardedOffEngineWords

/-! ### Faults of dispatch: illegal opcode, nonzero reserved bits, forbidden in a fused command, past the last word -/

/-- A word that fails a check of R139 faults with cause 0x0A and nothing of it executes; dispatch past the program's last
word faults with cause 0x0B, INDEX naming the last word. The fault is recorded by R86 and spreads by R160. -/
def Obligations.DispatchFaults : Prop :=
  (∀ (site : Site) (w : W64) (s : State), s.dispatches site w = true → wordOk w.toNat = false →
    exec (.undecodableWord site w) s = .next ((s.dispatched site.core.val site.share.val).progFault site.core.val
      site.share.val 0x0A engFront (s.at site).pc)) ∧
  (∀ (site : Site) (s : State), s.dispatchable site.core.val site.share.val = true → (s.at site).next = none →
    s.chooses site.core.val 4 (s.dispatchable site.core.val) = some site.share.val →
    exec (.dispatchPastProgramEnd site) s = .next (s.progFault site.core.val site.share.val 0x0B engFront
      ((s.at site).program.length - 1)))

/-! ### Dispatch moves an engine word into its queue with the registers it captured -/

/-- The front end moves every engine word into its queue with the registers it captured and whether its guard is off; the
destinations of an unguarded word become pending; nothing else of the share changes but the account of the front end,
and the core notes which word became the head of an empty queue (R67, R68, R134, R136, R254). The words are those of
`engineInstr`, one for each engine opcode. -/
def Obligations.EngineWordsEnterQueues : Prop :=
  ∀ (op q : Nat) (site : Site) (w : W64) (s : State) (c : Instr), engineInstr op site .dispatch w = some c →
    queueOf op = some q → s.dispatches site w = true → wOp w.toNat = op → wordOk w.toNat = true →
    (s.at site).fusedLoop = none → Straight s site →
    ∃ t, exec c s = .next t ∧
      OnlyShare s (t.modCore site.core.val fun c => { c with heads := (s.core site.core.val).heads }) site ∧
      (t.core site.core.val).heads = (if (s.at site).queue q = [] then
        (s.core site.core.val).heads.filter (· != (q, site.share.val)) ++ [(q, site.share.val)]
        else (s.core site.core.val).heads) ∧
      (t.at site).queue q = (s.at site).queue q ++
        [{ word := w, off := (s.at site).guardOff w.toNat, index := (s.at site).pc, s := (s.at site).s, a := (s.at site).a }] ∧
      (∀ i, i ≠ q → (t.at site).queue i = (s.at site).queue i) ∧ (t.at site).pc = (s.at site).pc + 1 ∧
      ((s.at site).guardOff w.toNat = false →
        (t.at site).pendS = (s.at site).pendS ++ (pendNames w.toNat).1 ∧
        (t.at site).pendA = (s.at site).pendA ++ (pendNames w.toNat).2) ∧
      (t.at site).s = (s.at site).s ∧ (t.at site).a = (s.at site).a ∧ (t.at site).p = (s.at site).p ∧
      (t.at site).v = (s.at site).v ∧ (t.at site).t = (s.at site).t ∧ (t.at site).k = (s.at site).k ∧
      (t.at site).scratch = (s.at site).scratch ∧ (t.at site).tallyFe = (s.at site).tallyFe + 1

/-! ### Element-wise vector words, reductions and requantisation -/

/-- The element-wise vector words: for each repetition i = 0 to NR in order, every lane of v_(D+i) takes the function of
its lanes that Table 8.3 gives, operands A, B (register lanes, or s_B when BS is 1) and C, in the format EF; integer
results saturate, floating results are rounded once by RM. -/
def Claims.VectorWords : Prop :=
  ∀ (site : Site) (w : W64) (s : State) (e : QEntry) (op : Nat) (c : Instr) (f : Lane → Nat) (efs : List Nat),
    Starts s site w 1 op e → fld w.toNat 11 2 < 2 → fld w.toNat 13 3 ∈ efs →
    (c = .vAdd site .start w ∧ op = 0x70 ∧ efs = [0, 1, 2, 3, 4, 5] ∧
        f = (fun l => if efFloat l.ef then l.rnd (l.fa.add l.fb) else efSat l.ef (l.ia + l.ib)) ∨
      c = .vSub site .start w ∧ op = 0x71 ∧ efs = [0, 1, 2, 3, 4, 5] ∧
        f = (fun l => if efFloat l.ef then l.rnd (l.fa.add l.fb.neg) else efSat l.ef (l.ia - l.ib)) ∨
      c = .vMul site .start w ∧ op = 0x72 ∧ efs = [0, 1, 2, 3, 4, 5] ∧
        f = (fun l => if efFloat l.ef then l.rnd (l.fa.mul l.fb) else efSat l.ef (l.ia * l.ib)) ∨
      c = .vFma site .start w ∧ op = 0x73 ∧ efs = [0, 1, 2] ∧ f = (fun l => l.rnd ((l.fa.mul l.fb).add l.fc)) ∨
      c = .vMin site .start w ∧ op = 0x74 ∧ efs = [0, 1, 2, 3, 4, 5] ∧
        f = (fun l => if efFloat l.ef then (efFmt l.ef).minimum l.a l.b else if l.ib < l.ia then l.b else l.a) ∨
      c = .vMax site .start w ∧ op = 0x75 ∧ efs = [0, 1, 2, 3, 4, 5] ∧
        f = (fun l => if efFloat l.ef then (efFmt l.ef).maximum l.a l.b else if l.ia < l.ib then l.b else l.a) ∨
      c = .vCmplt site .start w ∧ op = 0x76 ∧ efs = [0, 1, 2, 3, 4, 5] ∧
        f = (fun l => if (if efFloat l.ef then l.fa.lt l.fb else decide (l.ia < l.ib)) then 2 ^ efBits l.ef - 1 else 0) ∨
      c = .vCmpeq site .start w ∧ op = 0x77 ∧ efs = [0, 1, 2, 3, 4, 5] ∧
        f = (fun l => if (if efFloat l.ef then l.fa.eqv l.fb else decide (l.ia = l.ib)) then 2 ^ efBits l.ef - 1 else 0) ∨
      c = .vSel site .start w ∧ op = 0x78 ∧ efs = [0, 1, 2, 3, 4, 5] ∧ f = (fun l => if l.c ≠ 0 then l.a else l.b) ∨
      c = .vShl site .start w ∧ op = 0x79 ∧ efs = [3, 4, 5] ∧
        f = (fun l => efSat l.ef (l.ia * (2 ^ (l.b % 32) : Nat))) ∨
      c = .vShr site .start w ∧ op = 0x7A ∧ efs = [3, 4, 5] ∧ f = (fun l => l.a / 2 ^ (l.b % 32)) ∨
      c = .vSra site .start w ∧ op = 0x7B ∧ efs = [3, 4, 5] ∧
        f = (fun l => unsigned (efBits l.ef) (l.ia / (2 ^ (l.b % 32) : Nat))) ∨
      c = .vGtan site .start w ∧ op = 0x7C ∧ efs = [0] ∧
        f = (fun l => l.rnd ((f32 (transcF 3 (BitVec.ofNat 32 l.a))).mul (f32 (transcF 2 (BitVec.ofNat 32 l.b))))) ∨
      c = .vGlerp site .start w ∧ op = 0x7D ∧ efs = [0, 1, 2] ∧
        f = (fun l => l.rnd (l.fa.add (l.fc.mul ((efFmt l.ef).value (l.rnd (l.fb.add l.fa.neg))))))) →
    let ef := fld w.toNat 13 3
    let bits := efBits ef
    let n := 2048 / bits
    let rm : Rm := if fld w.toNat 11 2 = 1 then .rtz else .rne
    exec c s = .next (finishWord ((s.turned site 1).modShare site.core.val site.share.val fun h =>
      (List.range (fld w.toNat 6 4 + 1)).foldl (fun h i =>
        let a := elemsOf (h.vRead (fld w.toNat 26 5 + i) 0 256) bits n
        let b := if w.getLsbD 10 then List.replicate n (e.sv (fld w.toNat 21 5) % 2 ^ bits)
                 else elemsOf (h.vRead (fld w.toNat 21 5 + i) 0 256) bits n
        let x := elemsOf (h.vRead ((fld w.toNat 16 5 + i) % 32) 0 256) bits n
        h.vWrite (fld w.toNat 31 5 + i) 0 (packElems bits ((List.range n).map fun k =>
          f { ef := ef, rm := rm, a := a.getD k 0, b := b.getD k 0, c := x.getD k 0 }))) h)
      site 1 e (fld w.toNat 6 4 + 1))

/-- v.red and v.rq: the 64-lane tree result replicated over the register; the requantised lanes saturate(round(A × s_M /
2^SH) + s_ZP), the rounding by RM, stochastic draws included. -/
def Claims.VectorReductions : Prop :=
  (∀ (site : Site) (w : W64) (s : State) (e : QEntry), Starts s site w 1 0x7E e → fld w.toNat 11 2 < 2 →
    (fld w.toNat 13 3 = 0 ∨ fld w.toNat 13 3 = 3) → fld w.toNat 16 5 < 2 →
    exec (.vRed site .start w) s = .next (finishWord ((s.turned site 1).modShare site.core.val site.share.val fun h =>
      (List.range (fld w.toNat 6 4 + 1)).foldl (fun h i =>
        let f (a b : Nat) : Nat :=
          let l : Lane := { ef := fld w.toNat 13 3, rm := .rne, a := a, b := b, c := 0 }
          if fld w.toNat 16 5 = 0 then laneAdd l else laneMax l
        h.vWrite (fld w.toNat 31 5 + i) 0
          (packElems 32 (List.replicate 64 (redTree f (elemsOf (h.vRead (fld w.toNat 26 5 + i) 0 256) 32 64))))) h)
      site 1 e (6 * (fld w.toNat 6 4 + 1)))) ∧
  (∀ (site : Site) (w : W64) (s : State) (e : QEntry), Starts s site w 1 0x7F e → fld w.toNat 11 2 ≠ 3 →
    (fld w.toNat 13 3 = 4 ∨ fld w.toNat 13 3 = 5) →
    let rm := fld w.toNat 11 2
    let nr := fld w.toNat 6 4
    let r := (s.turned site 1).roundings site.core.val rm 4 (256 * (nr + 1))
    exec (.vRq site .start w) s = .next (finishWord (r.2.modShare site.core.val site.share.val fun h =>
      (List.range (nr + 1)).foldl (fun h i =>
        let a := elemsOf (h.vRead (fld w.toNat 26 5 + 4 * i) 0 1024) 32 256
        h.vWrite (fld w.toNat 31 5 + i) 0 (packElems 8 ((List.range 256).map fun k =>
          efSat (fld w.toNat 13 3) (shiftRound (r.1 (256 * i + k))
            (signed 32 (a.getD k 0) * signed 32 (e.sv (fld w.toNat 21 5))) (fld w.toNat 0 6) +
              signed 32 (e.sv (fld w.toNat 16 5)))))) h)
      site 1 e ((if rm = 2 then 64 else 4) * (nr + 1))))

/-- Element-wise vector words, reductions and requantisation: the conjunction of the parts above. -/
def Obligations.VectorEngineWords : Prop :=
  Claims.VectorWords ∧ Claims.VectorReductions

/-! ### Conversion words complete and write only their destinations -/

/-- The conversion words complete for every format pair and rounding that R168 to R171 permit, with the values that the
model's conversion computes; v.act, v.cvt and v.cvtl write vector registers and v.cvts the scratchpad, nothing else of
the share. -/
def Obligations.ConversionWords : Prop :=
  ∀ (site : Site) (w : W64) (s : State) (e : QEntry) (rm gc : Nat),
    (rm < 2 ∧ gc = 0 ∨ rm = 2 ∧ gc ≠ 0) →
    (Starts s site w 1 0x82 e → rm = fld w.toNat 16 2 → gc = fld w.toNat 13 2 → fld w.toNat 22 4 < 8 →
      actFmt (fld w.toNat 18 4) = true → (w.getLsbD 15 = true → fld w.toNat 18 4 = 4) →
      ∃ n, Effects s site 1 e (vActStart (s.turned site 1) site.core.val site.share.val e) (exec (.vAct site .start w) s) n
        (fun h u => { u with v := h.v } = h)) ∧
    (Starts s site w 1 0x83 e → rm = fld w.toNat 16 2 → gc = fld w.toNat 13 2 →
      cvtBits (fld w.toNat 22 4) (fld w.toNat 11 2) ≠ 0 → cvtBits (fld w.toNat 18 4) (fld w.toNat 11 2) ≠ 0 →
      (fld w.toNat 22 4 = 0xF ∨ fld w.toNat 18 4 = 0xF ∨ fld w.toNat 11 2 = 0) →
      (w.getLsbD 15 = true → fld w.toNat 18 4 = 4) →
      ∃ n, Effects s site 1 e (vCvtStart (s.turned site 1) site.core.val site.share.val e) (exec (.vCvt site .start w) s) n
        (fun h u => { u with v := h.v } = h)) ∧
    (Starts s site w 1 0x84 e → rm = fld w.toNat 17 2 → gc = fld w.toNat 14 2 → isWideFloat (fld w.toNat 23 4) = true →
      fld w.toNat 19 4 < 0xE → (w.getLsbD 16 = true → fld w.toNat 19 4 = 4) →
      Fits s site (e.av (fld w.toNat 27 4)) (256 * elemBits (fld w.toNat 19 4) / 8 * (fld w.toNat 4 4 + 1))
        (max 1 (elemBits (fld w.toNat 19 4) / 8)) →
      (isMx (fld w.toNat 19 4) = true →
        e.av (fld w.toNat 27 4 + 1) + 8 * (fld w.toNat 4 4 + 1) ≤ s.shareSize site.core.val) →
      ∃ n, Effects s site 1 e (vCvtsStart (s.turned site 1) site.core.val site.share.val e)
        (exec (.vCvts site .start w) s) n (fun h u => { u with scratch := h.scratch } = h)) ∧
    (Starts s site w 1 0x85 e → cvtlExact (fld w.toNat 23 4) (fld w.toNat 19 4) = true →
      Fits s site (e.av (fld w.toNat 27 4)) (256 * elemBits (fld w.toNat 23 4) / 8 * (fld w.toNat 15 4 + 1))
        (max 1 (elemBits (fld w.toNat 23 4) / 8)) →
      (isMx (fld w.toNat 23 4) = true →
        e.av (fld w.toNat 27 4 + 1) + 8 * (fld w.toNat 15 4 + 1) ≤ s.shareSize site.core.val) →
      ∃ n, Effects s site 1 e (vCvtlStart (s.turned site 1) site.core.val site.share.val e)
        (exec (.vCvtl site .start w) s) n (fun h u => { u with v := h.v } = h))

/-! ### Loads and stores between registers and the scratchpad, with their frames -/

/-- Loads and stores: s.ld and s.st move a 4-byte word, v.ld and v.st whole registers, between the registers and the bytes
at a_A + OFF; a store changes no other byte of the scratchpad, and a load none. -/
def Obligations.LoadStoreWords : Prop :=
  ∀ (site : Site) (w : W64) (s : State) (e : QEntry),
    (let a := e.addrOff (fld w.toNat 27 4) 20 (fld w.toNat 0 20)
     Fits s site a 4 4 →
      (Starts s site w 1 0x30 e → exec (.sLd site .start w) s = .next (finishWord
        ((s.turned site 1).modShare site.core.val site.share.val fun h =>
          { h with s := Tbl.set 0 h.s (fld w.toNat 31 5) (BitVec.ofNat 32 (leNat (h.read a 4))),
                   pendS := h.pendS.erase (fld w.toNat 31 5) }) site 1 e 1)) ∧
      (Starts s site w 1 0x31 e →
        Effects s site 1 e (.done ((s.turned site 1).modShare site.core.val site.share.val fun h =>
            { h with scratch := writeBytes h.scratch a (leBytes 4 (e.sv (fld w.toNat 31 5))) }) 1)
          (exec (.sSt site .start w) s) 1 (fun h u => ScratchOnly h u (fun x => a ≤ x ∧ x < a + 4)))) ∧
    (let a := e.addrOff (fld w.toNat 27 4) 21 (fld w.toNat 0 21)
     let n := 256 * (fld w.toNat 23 4 + 1)
     fld w.toNat 21 2 ≠ 3 → Fits s site a n (2 ^ fld w.toNat 21 2) →
      (Starts s site w 1 0x80 e → exec (.vLd site .start w) s = .next (finishWord
        ((s.turned site 1).modShare site.core.val site.share.val fun h =>
          { h with v := writeBytes h.v (256 * fld w.toNat 31 5) (h.read a n) }) site 1 e (fld w.toNat 23 4 + 1))) ∧
      (Starts s site w 1 0x81 e →
        Effects s site 1 e (.done ((s.turned site 1).modShare site.core.val site.share.val fun h =>
            { h with scratch := writeBytes h.scratch a (readBytes h.v (256 * fld w.toNat 31 5) n) }) (fld w.toNat 23 4 + 1))
          (exec (.vSt site .start w) s) (fld w.toNat 23 4 + 1) (fun h u => ScratchOnly h u (fun x => a ≤ x ∧ x < a + n))))

/-! ### Matrix and scan words (last places of a scan result are free, log entry 11) -/

/-- The matrix words: mx.mul accumulates into the tile, of its class, for the M rows the product covers; mx.ld loads SN
rows of a tile; mx.st stores SN rows and changes no other byte of the scratchpad; mx.zero clears a tile. -/
def Claims.MatrixWords : Prop :=
  ∀ (site : Site) (w : W64) (s : State) (e : QEntry),
    (let fa := fld w.toNat 11 4
     let fb := fld w.toNat 7 4
     let aa := e.av (fld w.toNat 29 4)
     let ab := e.av (fld w.toNat 25 4)
     let M := e.sv (fld w.toNat 20 5)
     let K := e.sv (fld w.toNat 15 5)
     let sa := e.sv (fld w.toNat 2 5)
     let cls : TileClass := if isIntOperand fa then .int else .float
     Starts s site w 0 0x60 e → isIntOperand fa = isIntOperand fb →
      (w.getLsbD 33 = true → ((s.at site).tile (fld w.toNat 34 2)).cls = .none ∨
        ((s.at site).tile (fld w.toNat 34 2)).cls = cls) →
      1 ≤ M → M ≤ 32 → 1 ≤ K → K ≤ 4096 → K % 32 = 0 →
      (isMx fa = true → aa % (4 * elemBits fa) = 0 ∧ sa % (4 * elemBits fa) = 0 ∧
        e.av (fld w.toNat 29 4 + 1) + (M - 1) * (sa / (4 * elemBits fa)) + K / 32 ≤ s.shareSize site.core.val) →
      (isMx fb = true → ab % (32 * (4 * elemBits fb)) = 0 ∧
        e.av (fld w.toNat 25 4 + 1) + K ≤ s.shareSize site.core.val) →
      aa + (M - 1) * sa + K * elemBits fa / 8 ≤ s.shareSize site.core.val →
      ab + K * (4 * elemBits fb) ≤ s.shareSize site.core.val →
      (elemBits fa = 16 → aa % 2 = 0 ∧ (1 < M → sa % 2 = 0)) → (elemBits fb = 16 → ab % 2 = 0) →
      Effects s site 0 e (mxMulStart (s.turned site 0) site.core.val site.share.val e) (exec (.mxMul site .start w) s)
        (mulCycles fa fb K) (fun h u => { u with t := h.t } = h ∧ (u.tile (fld w.toNat 34 2)).cls = cls ∧
          (∀ i, i ≠ fld w.toNat 34 2 → u.tile i = h.tile i) ∧
          ∀ m n, M ≤ m → n < 32 → (u.tile (fld w.toNat 34 2)).elem m n = (h.tile (fld w.toNat 34 2)).elem m n)) ∧
    (let a := e.av (fld w.toNat 30 4)
     let n := e.sv (fld w.toNat 25 5)
     let st := e.sv (fld w.toNat 20 5)
     let f := fld w.toNat 16 4
     let es := elemBits f / 8
     1 ≤ n → n ≤ 32 → a + (n - 1) * st + 32 * es ≤ s.shareSize site.core.val →
      a % es = 0 → (1 < n → st % es = 0) →
      (Starts s site w 0 0x61 e → ldClass f ≠ .none →
        Effects s site 0 e (mxLdStart (s.turned site 0) site.core.val site.share.val e) (exec (.mxLd site .start w) s) n
          (fun h u => { u with t := h.t } = h ∧ (u.tile (fld w.toNat 34 2)).cls = ldClass f ∧
            (∀ i, i ≠ fld w.toNat 34 2 → u.tile i = h.tile i) ∧
            ∀ m c, n ≤ m → c < 32 → (u.tile (fld w.toNat 34 2)).elem m c = (h.tile (fld w.toNat 34 2)).elem m c)) ∧
      (Starts s site w 0 0x62 e → stFmtOk ((s.at site).tile (fld w.toNat 34 2)).cls f = true → fld w.toNat 14 2 ≠ 3 →
        (w.getLsbD 13 = true → f = 4) →
        Effects s site 0 e (mxStStart (s.turned site 0) site.core.val site.share.val e) (exec (.mxSt site .start w) s)
          (if fld w.toNat 14 2 = 2 then 8 * n else n)
          (fun h u => ScratchOnly h u (fun x => ∃ m, m < n ∧ a + m * st ≤ x ∧ x < a + m * st + 32 * es)))) ∧
    (Starts s site w 0 0x63 e → exec (.mxZero site .start w) s = .next (finishWord
      ((s.turned site 0).modShare site.core.val site.share.val fun h =>
        { h with t := Tbl.set {} h.t (fld w.toNat 34 2) {} }) site 0 e 1))

/-- The scan words complete for every shape and format that R172 permits with operands inside the share, and write the P ×
C results and the final state to the scratchpad, nothing else (the last places of a result are free within the bound
of R225 and R226, log entry 11). -/
def Claims.ScanWords : Prop :=
  ∀ (site : Site) (w : W64) (s : State) (e : QEntry) (op : Nat) (c : Instr), Starts s site w 2 op e →
    (c = .scF1 site .start w ∧ op = 0x90 ∨ c = .scF2 site .start w ∧ op = 0x91 ∨ c = .scEma site .start w ∧ op = 0x92) →
    let ab := fld w.toNat 32 4
    let P := e.sv (fld w.toNat 27 5)
    let C := e.sv (fld w.toNat 22 5)
    let cp := w.getLsbD 15
    let es := elemBits (scanFmt (fld w.toNat 16 3)) / 8
    let rows := if op = 0x91 then 2 else 1
    let sets := if op = 0x90 then 2 else if op = 0x91 then 3 else 1
    fld w.toNat 19 3 ≠ 7 → 1 ≤ P → P ≤ 64 * 2 ^ fld w.toNat 19 3 → 1 ≤ C → C ≤ 65535 → fld w.toNat 16 3 < 5 →
    ¬ (op = 0x92 ∧ cp = true) → fld w.toNat 12 2 < 2 →
    Fits s site (e.av ab) (P * C * es) es → Fits s site (e.av (ab + 1)) (sets * (if cp then P * C else C) * 4) 4 →
    Fits s site (e.av (ab + 2)) (P * C * es) es →
    Fits s site (e.av (ab + 3)) (if w.getLsbD 14 then 2 * (rows * C * es) + ceilDiv P 8 else rows * C * es) es →
    Effects s site 2 e (scanStart op (s.turned site 2) site.core.val site.share.val e) (exec c s) (scanCycles op P C)
      (fun h u => ScratchOnly h u (fun x => e.av (ab + 2) ≤ x ∧ x < e.av (ab + 2) + P * C * es ∨
        e.av (ab + 3) ≤ x ∧ x < e.av (ab + 3) + rows * C * es))

/-- Matrix and scan words (last places of a scan result are free, log entry 11): the conjunction of the parts above. -/
def Obligations.MatrixAndScanWords : Prop :=
  Claims.MatrixWords ∧ Claims.ScanWords

/-! ### Expansion, depth-wise convolution, pooling and segments -/

/-- Expansion, depth-wise convolution, pooling and segments: with a descriptor that passes R174 and R175 and operands
inside the share, each completes; the count register takes the rows done, an empty range of positions writes nothing
but its count (R236), and only the bytes of the outputs change. -/
def Claims.ConvolutionWords : Prop :=
  ∀ (site : Site) (w : W64) (s : State) (e : QEntry) (d : Loom) (op : Nat) (c : Instr) (u : LoomUse),
    Starts s site w 1 op e → LoomOk s site (e.av (fld w.toNat 32 4)) u d →
    (c = .convExpand site .start w ∧ op = 0xA0 ∧ u = .expand ∨
      c = .convTransposeExpand site .start w ∧ op = 0xA1 ∧ u = .transpose →
      let ai := e.av (fld w.toNat 28 4)
      let al := e.av (fld w.toNat 24 4)
      let s0 := e.sv (fld w.toNat 9 5)
      let E := d.kh * d.kw * d.nb * d.bw
      let rowBytes := 32 * ceilDiv E 32 * d.es
      let n := min (d.count (e.sv (fld w.toNat 19 5)) s0) (65536 / rowBytes)
      (d.count (e.sv (fld w.toNat 19 5)) s0 = 0 →
        Effects s site 1 e (expandStart u (s.turned site 1) site.core.val site.share.val e) (exec c s) 0
          (fun h x => x = { h with s := Tbl.set 0 h.s (fld w.toNat 14 5) 0, pendS := h.pendS.erase (fld w.toNat 14 5) })) ∧
      (1 ≤ d.count (e.sv (fld w.toNat 19 5)) s0 → rowBytes ≤ 65536 →
        (∀ r k ch y x, r < n → k < E → d.rowElem (d.pos (s0 + r)).1 (d.pos (s0 + r)).2 k = (ch, .at y x) →
          d.addr ai ch y x + d.es ≤ s.shareSize site.core.val) →
        al + n * rowBytes ≤ s.shareSize site.core.val → ai % d.es = 0 → al % d.es = 0 →
        Effects s site 1 e (expandStart u (s.turned site 1) site.core.val site.share.val e) (exec c s)
          (ceilDiv (n * rowBytes) 256)
          (fun h x => x.s = Tbl.set 0 h.s (fld w.toNat 14 5) (BitVec.ofNat 32 n) ∧
            x.pendS = h.pendS.erase (fld w.toNat 14 5) ∧
            ScratchOnly h { x with s := h.s, pendS := h.pendS } (fun b => al ≤ b ∧ b < al + n * rowBytes)))) ∧
    (c = .dwConv site .start w ∧ op = 0xA2 ∧ u = .depthwise →
      let ai := e.av (fld w.toNat 28 4)
      let af := e.av (fld w.toNat 24 4)
      let ao := e.av (fld w.toNat 20 4)
      let s0 := e.sv (fld w.toNat 10 5)
      let n := d.count (e.sv (fld w.toNat 15 5)) s0
      let osz := elemBits (fld w.toNat 6 4) / 8
      let chans := d.nb * d.bw
      let out (ch o : Nat) : Nat := ao + ((ch / d.bw * d.positions + o) * d.bw + ch % d.bw) * osz
      fld w.toNat 4 2 < 2 →
      (∀ r t ch y x, r < n → t < d.kh * d.kw → ch < chans →
        d.cell (d.pos (s0 + r)).1 (d.pos (s0 + r)).2 (t / d.kw) (t % d.kw) = .at y x →
        d.addr ai ch y x + d.es ≤ s.shareSize site.core.val) →
      af + chans * (d.kh * d.kw) * d.grp * d.es ≤ s.shareSize site.core.val →
      out (chans - 1) (s0 + n - 1) + osz ≤ s.shareSize site.core.val → ai % d.es = 0 → af % d.es = 0 → ao % osz = 0 →
      ∃ m, Effects s site 1 e (dwConvStart (s.turned site 1) site.core.val site.share.val e) (exec c s) m
        (fun h x => ScratchOnly h x (fun b => ∃ r ch, r < n ∧ ch < chans ∧ out ch (s0 + r) ≤ b ∧ b < out ch (s0 + r) + osz))) ∧
    (c = .poolMax site .start w ∧ op = 0xA3 ∧ u = .pool ∨ c = .poolAvg site .start w ∧ op = 0xA4 ∧ u = .pool →
      let ai := e.av (fld w.toNat 28 4)
      let ao := e.av (fld w.toNat 24 4)
      let s0 := e.sv (fld w.toNat 14 5)
      let n := d.count (e.sv (fld w.toNat 19 5)) s0
      let osz := elemBits (fld w.toNat 10 4) / 8
      let chans := d.nb * d.bw
      let out (ch o : Nat) : Nat := ao + ((ch / d.bw * d.positions + o) * d.bw + ch % d.bw) * osz
      fld w.toNat 8 2 < 2 →
      (∀ r t ch y x, r < n → t < d.kh * d.kw → ch < chans →
        d.inside (d.pos (s0 + r)).1 (d.pos (s0 + r)).2 (t / d.kw) (t % d.kw) = some (y, x) →
        d.addr ai ch y x + d.es ≤ s.shareSize site.core.val) →
      out (chans - 1) (s0 + n - 1) + osz ≤ s.shareSize site.core.val → ai % d.es = 0 → ao % osz = 0 →
      ∃ m, Effects s site 1 e (poolStart (decide (op = 0xA3)) (s.turned site 1) site.core.val site.share.val e) (exec c s) m
        (fun h x => ScratchOnly h x (fun b => ∃ r ch, r < n ∧ ch < chans ∧ out ch (s0 + r) ≤ b ∧ b < out ch (s0 + r) + osz))) ∧
    (c = .gpoolAvg site .start w ∧ op = 0xA5 ∧ u = .gpool →
      let ai := e.av (fld w.toNat 28 4)
      let ao := e.av (fld w.toNat 24 4)
      let osz := elemBits (fld w.toNat 20 4) / 8
      let chans := d.nb * d.bw
      fld w.toNat 18 2 < 2 → Fits s site ai (chans * d.h * d.w * d.es) d.es → Fits s site ao (chans * osz) osz →
      Effects s site 1 e (gpoolStart (s.turned site 1) site.core.val site.share.val e) (exec c s)
        (ceilDiv chans 64 * d.h * d.w) (fun h x => ScratchOnly h x (fun b => ao ≤ b ∧ b < ao + chans * osz)))

/-- Segments: seg.decode writes one record per entry; seg.suppress writes the records it keeps and their count. -/
def Claims.SegmentWords : Prop :=
  ∀ (site : Site) (w : W64) (s : State) (e : QEntry),
    (let d := w.getLsbD 18
     let n := e.sv (fld w.toNat 19 5)
     let sa := if d then 16 else 8
     let so := if d then 20 else 12
     let sr := if d then 32 else 16
     let aa := e.av (fld w.toNat 32 4)
     let ao := e.av (fld w.toNat 28 4)
     let ad := e.av (fld w.toNat 24 4)
     Starts s site w 1 0xA6 e → segCountBad d n = false → Fits s site aa (n * sa) 4 → Fits s site ao (n * so) 4 →
      Fits s site ad (n * sr) 4 →
      exec (.segDecode site .start w) s = .next (finishWord ((s.turned site 1).modShare site.core.val site.share.val
        fun h => { h with scratch := writeBytes h.scratch ad ((List.range n).flatMap fun i =>
          segRecord d i (h.read (aa + i * sa) sa) (h.read (ao + i * so) so)) }) site 1 e n)) ∧
    (let d := w.getLsbD 12
     let n := e.sv (fld w.toNat 23 5)
     let sr := if d then 32 else 16
     let src := e.av (fld w.toNat 32 4)
     let ad := e.av (fld w.toNat 28 4)
     Starts s site w 1 0xA7 e → segCountBad d n = false → Fits s site src (n * sr) 4 → Fits s site ad (n * sr) 4 →
      ∃ m k, k ≤ n ∧ Effects s site 1 e (segSuppressStart (s.turned site 1) site.core.val site.share.val e)
        (exec (.segSuppress site .start w) s) m
        (fun h x => x.s = Tbl.set 0 h.s (fld w.toNat 13 5) (BitVec.ofNat 32 k) ∧
          x.pendS = h.pendS.erase (fld w.toNat 13 5) ∧
          ScratchOnly h { x with s := h.s, pendS := h.pendS } (fun b => ad ≤ b ∧ b < ad + k * sr)))

/-- Expansion, depth-wise convolution, pooling and segments: the conjunction of the parts above. -/
def Obligations.ConvolutionAndSegmentWords : Prop :=
  Claims.ConvolutionWords ∧ Claims.SegmentWords

/-! ### Random words: draws, seeding and sampling -/

/-- The random words, which start when the generator is theirs (R254): rng.draw fills registers with 32 draws each;
rng.seed mixes the seed into the state and steps it, counting no draw; vsample.cat and vsample.mol write one 4-byte
result per row or sample and advance the draw counter by the draws that R182 and R183 give. -/
def Obligations.RandomWords : Prop :=
  ∀ (site : Site) (w : W64) (s : State) (e : QEntry),
    (let n := fld w.toNat 27 4 + 1
     let r := (s.turned site 1).genDraw site.core.val (32 * n)
     Starts s site w 1 0xB0 e →
      r.1 = (rngDraws (32 * n) (s.core site.core.val).rng).1 ∧
      exec (.rngDraw site .start w) s = .next (finishWord (r.2.modShare site.core.val site.share.val fun h =>
        { h with v := writeBytes h.v (256 * fld w.toNat 31 5) (r.1.flatMap (leBytes 8)) }) site 1 e (32 * n))) ∧
    (let i := fld w.toNat 31 5
     Starts s site w 1 0xB1 e → exec (.rngSeed site .start w) s = .next (finishWord
      ((s.turned site 1).modCore site.core.val fun c => { c with rng := Config.rngStep (c.rng ^^^ BitVec.ofNat 128
        (e.sv i + 2 ^ 32 * e.sv (i + 1) + 2 ^ 64 * e.sv (i + 2) + 2 ^ 96 * e.sv (i + 3))) }) site 1 e 1)) ∧
    (let C := e.sv (fld w.toNat 23 5)
     let R := e.sv (fld w.toNat 18 5)
     let es := elemBits (lfCode (fld w.toNat 15 3)) / 8
     let D := R * ceilDiv C (groupSize (fld w.toNat 13 2))
     let ao := e.av (fld w.toNat 28 4)
     Starts s site w 1 0xB2 e → 1 ≤ C → C ≤ 1024 → 1 ≤ R → R ≤ 256 → fld w.toNat 13 2 ≠ 0 →
      Fits s site (e.av (fld w.toNat 32 4)) (R * C * es) es → Fits s site ao (4 * R) 4 →
      Effects s site 1 e (vsampleCatStart (s.turned site 1) site.core.val site.share.val e)
        (exec (.vsampleCat site .start w) s) D (fun h x => ScratchOnly h x (fun b => ao ≤ b ∧ b < ao + 4 * R)) ∧
      ∃ t, exec (.vsampleCat site .start w) s = .next t ∧
        (t.core site.core.val).draws = (s.core site.core.val).draws + BitVec.ofNat 32 D) ∧
    (let N := e.sv (fld w.toNat 23 5)
     let K := fld w.toNat 20 3 + 1
     let es := elemBits (lfCode (fld w.toNat 17 3)) / 8
     let D := N * ceilDiv (K + 1) (groupSize (fld w.toNat 15 2))
     let ao := e.av (fld w.toNat 28 4)
     Starts s site w 1 0xB3 e → 1 ≤ N → N ≤ 1024 → fld w.toNat 15 2 ≠ 0 →
      Fits s site (e.av (fld w.toNat 32 4)) (N * 3 * K * es) es → Fits s site ao (4 * N) 4 →
      Effects s site 1 e (vsampleMolStart (s.turned site 1) site.core.val site.share.val e)
        (exec (.vsampleMol site .start w) s) D (fun h x => ScratchOnly h x (fun b => ao ≤ b ∧ b < ao + 4 * N)) ∧
      ∃ t, exec (.vsampleMol site .start w) s = .next t ∧
        (t.core site.core.val).draws = (s.core site.core.val).draws + BitVec.ofNat 32 D)

/-! ### Synchronisation words -/

/-- The synchronisation words on an object of the owning partition: signal sets it, add adds to it modulo 2^32, and each
update tests the waiters; wait, once it may start (R149), passes when the condition of R147 holds, else registers
(with B = 1 it stays at the head of its queue); rd returns the value. An object of another partition faults with cause
0x28. -/
def Obligations.SyncWords : Prop :=
  ∀ (site : Site) (w : W64) (s : State) (e : QEntry),
    let obj := fld w.toNat 20 16
    let v : Word := BitVec.ofNat 32 (e.sv (fld w.toNat 15 5))
    let r := s.turned site 3
    let g := site.core.val
    let j := site.share.val
    (s.ownsObj g obj = true →
      (Starts s site w 3 0x40 e → exec (.syncSignal site .start w) s =
        .next (finishWord ({ r with sync := Tbl.set 0 r.sync obj v }.testWaiters obj) site 3 e 0)) ∧
      (Starts s site w 3 0x41 e → exec (.syncAdd site .start w) s =
        .next (finishWord ({ r with sync := Tbl.set 0 r.sync obj (s.syncVal obj + v) }.testWaiters obj) site 3 e 0)) ∧
      (Starts s site w 3 0x43 e → exec (.syncRd site .start w) s =
        .next (finishWord (r.modShare g j fun h => h.landS (fld w.toNat 15 5) (s.syncVal obj)) site 3 e 0)) ∧
      (Starts s site w 3 0x42 e →
        (syncReady (s.syncVal obj) v = true →
          exec (.syncWait site .start w) s = .next (finishWord r site 3 e 0)) ∧
        (syncReady (s.syncVal obj) v = false →
          let t := { r with waiters := s.waiters ++ [.word obj v site (w.getLsbD 14) (wPost w.toNat) e.stage] }
          exec (.syncWait site .start w) s = .next (if w.getLsbD 14 then t else t.leave g 3 j)))) ∧
    (s.ownsObj g obj = false → ∀ (op : Nat) (c : Instr),
      (c = .syncSignal site .start w ∧ op = 0x40 ∨ c = .syncAdd site .start w ∧ op = 0x41 ∨
        c = .syncRd site .start w ∧ op = 0x43 ∨ c = .syncWait site .start w ∧ op = 0x42) → Starts s site w 3 op e →
      exec c s = .next ({ r.leave g 3 j with free := s.free + 1 }.progFault g j 0x28 engMovement e.index))

/-! ### Transfer lists, Mill and narrow requests, halos and queues -/

/-- Transfer lists and requests: dma.get and dma.put submit a list of descriptors that lies in the share; nar.req and the
Mill words submit the descriptor they read, for the unit that serves it; each starts only while that unit's queue, or
the share's 16 lists, have room (R82, R103, R117). -/
def Claims.RequestWords : Prop :=
  ∀ (site : Site) (w : W64) (s : State) (e : QEntry) (c : Instr) (op : Nat),
    let g := site.core.val
    let j := site.share.val
    let n := g / 64
    let r := s.turned site 3
    let ctx := ((s.at site).ctx).getD 0
    (let base := e.av (fld w.toNat 32 4)
     let count := if w.getLsbD 31 then fld w.toNat 14 12 + 1 else e.sv (fld w.toNat 26 5)
     ∀ get : Bool, (c = .dmaGet site .start w ∧ op = 0x50 ∧ get = true ∨ c = .dmaPut site .start w ∧ op = 0x51 ∧ get = false) →
      Starts s site w 3 op e → base % 64 = 0 → base + 64 * count ≤ s.shareSize g → 1 ≤ count → count ≤ 4096 →
      exec c s = .next ((r.modClu n fun k =>
        { k with lists := k.lists ++ [{ site := site, ctx := ctx, id := (s.clu n).nextId, index := e.index, get := get,
                                        base := base, count := count, ticket := wPost w.toNat, stage := e.stage }],
                 nextId := k.nextId + 1 }).leave g 3 j)) ∧
    (let a := e.addrOff (fld w.toNat 32 4) 19 (fld w.toNat 13 19)
     (Starts s site w 3 0x57 e → a % 32 = 0 → a + 32 ≤ s.shareSize g → Tbl.get 0 s.narrowMap n ≠ 2 →
      e.stage = none →
      exec (.narReq site .start w) s = .next (finishWord (r.modClu n fun k =>
        { k with narQ := k.narQ ++ [{ site := site, ctx := ctx, index := e.index, raw := (s.at site).read a 32 }] })
        site 3 e 0)) ∧
     (∀ m : Nat, (c = .millGemv site .start w ∧ op = 0x58 ∧ m = 0 ∨ c = .millGather site .start w ∧ op = 0x59 ∧ m = 1 ∨
        c = .millScatterAdd site .start w ∧ op = 0x5A ∧ m = 2 ∨ c = .millReduce site .start w ∧ op = 0x5B ∧ m = 3 ∨
        c = .millCopy site .start w ∧ op = 0x5C ∧ m = 4 ∨ c = .millFill site .start w ∧ op = 0x5D ∧ m = 5) →
      Starts s site w 3 op e → a % 64 = 0 → a + 64 ≤ s.shareSize g →
      let raw := (s.at site).read a 64
      e.stage = none →
      exec c s = .next (finishWord (({ r with millNext := s.millNext + 1 } : State).modClu n fun k =>
        { k with millSub := k.millSub ++ [{ id := s.millNext, site := site, ctx := ctx, index := e.index, op := m, raw := raw,
                                            serves := s.servesOf g j (fieldAt raw 22 2) }] }) site 3 e 0)))

/-- Halo links and queue ports: a send stores its message in the peer's buffer and counts; a receive or release frees the
oldest; a queue send places its message at every consumer, q.recv lands its address and length, q.rel releases. A
message wakes the cluster it reaches (R419). -/
def Claims.HaloAndQueueWords : Prop :=
  ∀ (site : Site) (w : W64) (s : State) (e : QEntry),
    let g := site.core.val
    let j := site.share.val
    let r := s.turned site 3
    (∀ l : Halo, (s.at site).halo (fld w.toNat 34 2) = some l →
      (let a := e.av (fld w.toNat 30 4)
       let n := e.sv (fld w.toNat 25 5)
       ∀ pg pj : Nat, Starts s site w 3 0x52 e → l.incoming = false → 1 ≤ n → n ≤ l.size →
        a + n ≤ s.shareSize g → s.peerOf g j l.peer = some (pg, pj) →
        exec (.haloSend site .start w) s = .next (finishWord
          ((((r.wakeCluster (pg / 64)).writeShare pg pj (l.buf + l.count % 2 * l.size) ((s.at site).read a n)).modShare g j fun h =>
            { h with halos := Tbl.set none h.halos (fld w.toNat 34 2) (some { l with count := l.count + 1 }) }).syncAdd
              l.data 1) site 3 e 0)) ∧
      (∀ (pg pj : Nat) (m : Halo), Starts s site w 3 0x53 e → l.incoming = true → s.peerOf g j l.peer = some (pg, pj) →
        (s.share pg pj).halo l.peerLink = some m → l.count < m.count →
        exec (.haloRecv site .start w) s = .next (finishWord ((r.modShare g j fun h =>
          { h with halos := Tbl.set none h.halos (fld w.toNat 34 2) (some { l with count := l.count + 1 }) }).syncAdd
            l.free 1) site 3 e 0))) ∧
    (∀ c : Nat, (s.at site).ctx = some c →
      (∀ (rp k p : Nat) (x : Edge), Starts s site w 3 0x54 e →
        s.findPort c (s.at site).logical (fld w.toNat 33 3) Edge.producer = some (rp, k, x, p) →
        let a := e.av (fld w.toNat 29 4)
        let n := e.sv (fld w.toNat 24 5)
        let m := Tbl.get 0 x.sent p
        1 ≤ n → n ≤ x.slot → (x.unit = 0 ∨ n % x.unit = 0) → a + n ≤ s.shareSize g →
        exec (.qSend site .start w) s = .next (finishWord ((r.each (List.range x.cnum) fun t i =>
            match t.peerOf g j (x.cfirst + i) with
            | none => t
            | some (pg, pj) => (t.wakeCluster (pg / 64)).modShare pg pj (x.place p m ((s.at site).read a n))).setEdge rp k
          { x with sent := Tbl.set 0 x.sent p (m + 1), lens := Tbl.set 0 x.lens (m % x.rounds * x.pnum + p) n }) site 3 e 0)) ∧
      (∀ (rp k i : Nat) (x : Edge), s.findPort c (s.at site).logical (fld w.toNat 33 3) Edge.consumer = some (rp, k, x, i) →
        (Starts s site w 3 0x55 e →
          let m := Tbl.get 0 x.recv i
          let len := ((List.range x.pnum).map fun p => Tbl.get 0 x.lens (m % x.rounds * x.pnum + p)).foldl (· + ·) 0
          exec (.qRecv site .start w) s = .next (finishWord ((r.modShare g j fun h =>
              (h.landA (fld w.toNat 29 4) (BitVec.ofNat 40 (x.roundBase m))).landS (fld w.toNat 24 5)
                (BitVec.ofNat 32 len)).setEdge rp k { x with recv := Tbl.set 0 x.recv i (m + 1) }) site 3 e 0)) ∧
        (Starts s site w 3 0x56 e → Tbl.get 0 x.rel i < Tbl.get 0 x.recv i →
          exec (.qRel site .start w) s = .next (finishWord
            (r.setEdge rp k { x with rel := Tbl.set 0 x.rel i (Tbl.get 0 x.rel i + 1) }) site 3 e 0))))

/-- Transfer lists, Mill and narrow requests, halos and queues: the conjunction of the parts above. -/
def Obligations.RequestAndQueueWords : Prop :=
  Claims.RequestWords ∧ Claims.HaloAndQueueWords

/-! ### Stream-state and Docket words -/

/-- Stream state and Ledger words: st.load copies bytes of the stream's state to the scratchpad and st.store queues bytes
for the entry's commit (those of a dropped entry are discarded); ldg.take writes the next Docket's bytes, counts it
taken and returns its number of entries; ldg.done returns entries and resolves or commits each as soon as it can. -/
def Obligations.StreamStateWords : Prop :=
  ∀ (site : Site) (w : W64) (s : State) (e : QEntry),
    let g := site.core.val
    let j := site.share.val
    let r := s.turned site 3
    (let a := e.av (fld w.toNat 32 4)
     let seq : Word := BitVec.ofNat 32 (e.sv (fld w.toNat 27 5))
     let k := e.sv (fld w.toNat 22 5)
     let off := e.sv (fld w.toNat 17 5)
     let len := e.sv (fld w.toNat 12 5)
     ∀ (rp : Nat) (x : DEntry), s.namedEntry g j seq k = some (rp, x) → 1 ≤ len → len ≤ 65536 →
      off + len ≤ (s.entry x.stream).stateSize.toNat → a + len ≤ s.shareSize g →
      (Starts s site w 3 0xC0 e →
        let rd := (r.nameDocket g j rp seq).readPart (s.part ((s.entry x.stream).part.getD 0)) .normal
          (x.state.toNat + off) len
        exec (.stLoad site .start w) s = .next (finishWord (rd.1.writeShare g j a rd.2.1) site 3 e 0)) ∧
      (Starts s site w 3 0xC1 e →
        exec (.stStore site .start w) s = .next (finishWord (if x.dropped then r.nameDocket g j rp seq
          else (r.nameDocket g j rp seq).modDocket rp seq fun d =>
            { d with entries := d.entries.modify k fun y => { y with stores := y.stores ++ [(off, (s.at site).read a len)] } })
          site 3 e 0))) ∧
    (∀ (rp : Nat) (x : Rope) (d : Docket), Starts s site w 3 0xC2 e → s.ropeOf g j = some (rp, x) →
      x.atFirst (s.at site).logical = true → e.av (fld w.toNat 32 4) + 4128 ≤ s.shareSize g →
      s.nextDocket rp (s.at site).logical = some d →
      exec (.ldgTake site .start w) s = .next (finishWord
        (((((r.writeShare g j (e.av (fld w.toNat 32 4)) d.toBytes).nameDocket g j rp d.seq).modShare g j fun h =>
          { h.landS (fld w.toNat 27 5) (BitVec.ofNat 32 d.entries.length) with taken := h.taken + 1 }).modDocket rp d.seq
            fun d => { d with taken := d.taken ++ [(s.at site).logical] }).retireDone rp) site 3 e 0)) ∧
    (let n := e.sv (fld w.toNat 27 5)
     let seq : Word := BitVec.ofNat 32 (e.sv (fld w.toNat 22 5))
     let a := e.av (fld w.toNat 32 4)
     let xs := doneEntries ((s.at site).read a (4 * n)) n
     ∀ (rp : Nat) (x : Rope) (d : Docket), Starts s site w 3 0xC3 e → s.ropeOf g j = some (rp, x) →
      x.atLast (s.at site).logical = true → s.docket rp seq = some d → 1 ≤ n → n ≤ 128 → a + 4 * n ≤ s.shareSize g →
      (∀ y, y ∈ xs → y.2.2 = true ∧ ∃ z, d.entries[y.1]? = some z ∧ z.returned = none) → (xs.map Prod.fst).Nodup →
      exec (.ldgDone site .start w) s = .next
        (((((r.nameDocket g j rp seq).each xs fun s y => s.modDocket rp seq fun d =>
          { d with entries := d.entries.modify y.1 fun z => { z with returned := some y.2.1 } }).modShare g j fun h =>
            { h with doneWords := h.doneWords ++
                [{ rope := rp, seq := seq, entries := xs.map Prod.fst, ticket := wPost w.toNat, stage := e.stage }] }).each
          (xs.map Prod.fst) fun s k => s.tryEntry rp seq k).leave g 3 j))

/-! ### Commands arrive, are queued, taken and started in order -/

/-- Receipt of the 42 Nechesha commands: over I3C one beyond 16 outstanding or unread is discarded with OVERRUN; while the
Steward is not free the command waits in order; otherwise it is taken: a failed check of R351 completes it at once
with no other effect; one whose start time lies ahead is held, or completes PARTITION_FULL beyond the limits of R38;
any other starts. -/
def Claims.CommandReceipt : Prop :=
  ∀ (op : Nat) (src : Src) (hdr : Hdr) (p : Bytes) (ev : List LineEvent) (c : Instr) (sp : CmdSpec) (s : State),
    commandInstr op src hdr p ev = some c → specOf op = some sp →
    let t := if op = 0x50 ∨ op = 0x51 then s.lineEvents ev else s
    let n := t.accepted src
    let full := decide (256 ≤ t.delayed.length) ||
      (sp.scope p != .device && decide (64 ≤ t.delayedOf scopeOfOpcode hdr.part.val))
    (src = .i3c → t.i3c.live = true → 16 ≤ t.i3c.busy → exec c s = .next (t.setBits 0x040100 0x20)) ∧
    (t.canArrive src → t.stewardFree = false →
      exec c s = .next { n with nextCmd := t.nextCmd, rx := t.rx ++ [{ src := src, part := some hdr.part.val,
                                                                       bytes := commandBytes op hdr p }] }) ∧
    (t.canArrive src → t.stewardFree = true →
      (∀ st, n.receiptCheck op sp src hdr p true true = some st → Completes op src hdr n st [] (exec c s)) ∧
      (n.receiptCheck op sp src hdr p true true = none →
        (hdr.start.toNat ≤ t.now → exec c s = .next (n.startCmd sp (t.request op src hdr p))) ∧
        (t.now < hdr.start.toNat → full = true → Completes op src hdr n stPartitionFull [] (exec c s)) ∧
        (t.now < hdr.start.toNat → full = false → exec c s = .next { n with delayed := t.delayed ++
          [{ id := t.nextCmd, start := hdr.start, src := src, opcode := op, hdr := hdr, params := p }] })))

/-- COMMAND_RECEIVE takes the oldest received command, none while 512 are in progress: an opcode that is not assigned
completes BAD_OPCODE, and a command that passes its checks starts. DELAYED_START starts the held command of least T
that has come, the first received among equals. -/
def Claims.CommandQueue : Prop :=
  (∀ (c : RxCmd) (rest : List RxCmd) (s : State), s.rx = c :: rest → s.cmds.length < 512 →
    let t := { s with rx := rest }.oweCmd c
    let n := { t with nextCmd := t.nextCmd + 1 }
    let op := fieldAt c.bytes 0 1
    let hdr := headerOf c.bytes
    let p := c.bytes.drop 16
    (specOf op = none → Completes op c.src hdr n stBadOpcode [] (exec .commandReceive s)) ∧
    (∀ sp, specOf op = some sp →
      (∀ st, n.receiptCheck op sp c.src hdr p (lengthOk c.bytes) (headerRsvd c.part c.bytes) = some st →
        Completes op c.src hdr n st [] (exec .commandReceive s)) ∧
      (n.receiptCheck op sp c.src hdr p (lengthOk c.bytes) (headerRsvd c.part c.bytes) = none → hdr.start.toNat ≤ n.now →
        exec .commandReceive s = .next (n.startCmd sp (t.request op c.src hdr p))))) ∧
  (∀ (s : State), s.rx = [] ∨ 512 ≤ s.cmds.length → exec .commandReceive s = .next s) ∧
  (∀ (a b : List Delayed) (d : Delayed) (sp : CmdSpec) (s : State), s.delayed = a ++ d :: b → s.cmds.length < 512 →
    (∀ x ∈ a ++ b, x.id ≠ d.id) → specOf d.opcode = some sp → d.start.toNat ≤ s.now →
    (∀ x ∈ a, x.start.toNat ≤ s.now → d.start.toNat < x.start.toNat) →
    (∀ x ∈ b, x.start.toNat ≤ s.now → d.start.toNat ≤ x.start.toNat) →
    exec .delayedStart s = .next ({ s with delayed := a ++ b }.startCmd sp
      { id := d.id, src := d.src, op := d.opcode, hdr := d.hdr, p := d.params })) ∧
  (∀ s : State, (∀ x ∈ s.delayed, s.now < x.start.toNat) → exec .delayedStart s = .next s)

/-- Commands arrive, are queued, taken and started in order: the conjunction of the parts above. -/
def Obligations.CommandPath : Prop :=
  Claims.CommandReceipt ∧ Claims.CommandQueue

/-! ### The checks of a command on receipt, in their order, and the status each answers -/

/-- The checks on receipt, in order: a wrong length is BAD_LENGTH; then a rsvd field, FORM where the command has no forms,
or a start more than 2^32 periods ahead is BAD_FIELD; then, while the device is not ready or halted, UNIT_RESETTING
for all but RESET_UNIT at LEVEL 3; then a device command from the fabric is NOT_PERMITTED, and a partition command is
WRONG_STATE where its partition does not exist and NOT_PERMITTED outside its source list; then a command of either
scope that names a partition under reset is UNIT_RESETTING. -/
def Obligations.CommandChecks : Prop :=
  ∀ (op : Nat) (src : Src) (hdr : Hdr) (p : Bytes) (c : Instr) (sp : CmdSpec) (s : State),
    commandInstr op src hdr p [] = some c → specOf op = some sp → s.canArrive src → s.stewardFree = true →
    let n := s.accepted src
    let lengthOk := sp.length p = true ∧ 16 + p.length ≤ (if src = .i3c then 4096 else 65503)
    let fieldsOk := sp.reserved p = true ∧ sp.rsvdOn n hdr p = true ∧ (hdr.form = true → sp.forms p = true) ∧ hdr.start.toNat ≤ s.now + 2 ^ 32 ∧
      ¬ (src = .spur ∧ 0xF000 ≤ hdr.tag.toNat)
    let level3 := op = 0x12 ∧ fieldAt p 0 1 = 3
    (¬ lengthOk → Completes op src hdr n stBadLength [] (exec c s)) ∧
    (lengthOk → ¬ fieldsOk → Completes op src hdr n stBadField [] (exec c s)) ∧
    (lengthOk → fieldsOk → (s.ready = false ∨ s.halted = true) → ¬ level3 →
      Completes op src hdr n stUnitResetting [] (exec c s)) ∧
    (lengthOk → fieldsOk → s.ready = true → s.halted = false → s.tripped = false →
      (∀ d, src = .dev d → sp.scope p = .device → Completes op src hdr n stNotPermitted [] (exec c s)) ∧
      (sp.scope p = .partition → (s.part hdr.part.val).exists_ = false →
        ((∃ d, src = .dev d) ∨ sp.inspects p = false) → Completes op src hdr n stWrongState [] (exec c s)) ∧
      (∀ d, src = .dev d → sp.scope p = .partition → (s.part hdr.part.val).exists_ = true →
        (s.part hdr.part.val).sources ≠ [] → d ∉ (s.part hdr.part.val).sources →
        Completes op src hdr n stNotPermitted [] (exec c s)) ∧
      (sp.scope p = .partition → (s.part hdr.part.val).exists_ = true → s.admits hdr.part.val src = true →
        (s.part hdr.part.val).destroying = false → hdr.part.val ∈ sp.names hdr.part.val p →
        (s.part hdr.part.val).resetting = true → Completes op src hdr n stUnitResetting [] (exec c s)) ∧
      (∀ q, sp.scope p = .device → deviceSource src = true → q ∈ sp.names hdr.part.val p → (s.part q).resetting = true →
        Completes op src hdr n stUnitResetting [] (exec c s)))

/-! ### Commands that report, read and write registers, read counters, and set up the fabric -/

/-- IDENTIFY returns Table 18.4; GET_STAGE_REPORT the 32 bytes of Table 19.2 of the stage named, of the latest stage that
has begun for 0xFF, and BAD_FIELD for 8 to 254; GET_FLOOR_PLAN at OFFSET 0 takes a snapshot of the record and returns
its first window, and later windows return that snapshot's bytes, EMPTY at or beyond its end. None of them changes
anything else but the kept result. -/
def Claims.InformationCommands : Prop :=
  ∀ (src : Src) (hdr : Hdr) (p : Bytes) (s : State),
    let n := s.accepted src
    (Taken s 0x01 identifySpec src hdr p →
      Completes 0x01 src hdr n stOk (leBytes 8 Config.serial.toNat ++ leBytes 2 0x0768 ++ leBytes 2 Config.rev.toNat ++
        leBytes 1 (b2n Config.gradeP) ++ leBytes 1 s.stageLevel ++ leBytes 2 s.net.idWord ++
        leBytes 4 Config.romVersion.toNat ++ leBytes 4 s.patchVersion.toNat ++ leBytes 4 s.generation.toNat ++ leBytes 4 0)
        (exec (.identify src hdr p) s)) ∧
    (Taken s 0x02 stageReportSpec src hdr p →
      (∀ k, k < 8 → fieldAt p 0 1 = k →
        Completes 0x02 src hdr n stOk (s.stageReport k) (exec (.getStageReport src hdr p) s)) ∧
      (∀ k, k < 8 → fieldAt p 0 1 = 255 → (s.stage k).result ≠ 0 → (∀ m, k < m → m < 8 → (s.stage m).result = 0) →
        Completes 0x02 src hdr n stOk (s.stageReport k) (exec (.getStageReport src hdr p) s)) ∧
      (8 ≤ fieldAt p 0 1 → fieldAt p 0 1 < 255 →
        Completes 0x02 src hdr n stBadField [] (exec (.getStageReport src hdr p) s))) ∧
    (Taken s 0x03 floorPlanSpec src hdr p →
      (fieldAt p 0 4 = 0 → src ≠ .i3c →
        Completes 0x03 src hdr (n.keepResult src 0x03 s.floorRecord) stOk s.floorRecord (exec (.getFloorPlan src hdr p) s)) ∧
      (fieldAt p 0 4 = 0 → src = .i3c → exec (.getFloorPlan src hdr p) s =
        .next (((n.keepResult src 0x03 s.floorRecord).reply src 0x03 hdr.tag hdr.part.val stOk
          (s.floorRecord.take 240) true).settleFences)) ∧
      (fieldAt p 0 4 ≠ 0 → src ≠ .i3c → fieldAt p 0 4 < (s.keptResult src 0x03).length →
        (s.keptResult src 0x03).length ≤ 65487 →
        Completes 0x03 src hdr n stOk ((s.keptResult src 0x03).drop (fieldAt p 0 4)) (exec (.getFloorPlan src hdr p) s)) ∧
      (fieldAt p 0 4 ≠ 0 → (s.keptResult src 0x03).length ≤ fieldAt p 0 4 →
        Completes 0x03 src hdr n stEmpty [] (exec (.getFloorPlan src hdr p) s)))

/-- READ_REGISTER and WRITE_REGISTER check the whole range before any word moves: COUNT 1 to 60, then alignment, then
assigned addresses, then permission; they then read, or write, COUNT words upward from ADDR. -/
def Claims.RegisterCommands : Prop :=
  ∀ (src : Src) (hdr : Hdr) (p : Bytes) (s : State),
    let n := s.accepted src
    let via := Via.cmd hdr.part (deviceSource src)
    let assigned (a : Nat) : Prop := a < 2 ^ 24 ∧ (n.regValue hdr.part.val a).isSome = true
    let range := (List.range (fieldAt p 3 1)).map (fun i => fieldAt p 0 3 + 4 * i)
    (Taken s 0x60 readRegisterSpec src hdr p →
      ((fieldAt p 3 1 = 0 ∨ 60 < fieldAt p 3 1) →
        Completes 0x60 src hdr n stBadField [] (exec (.readRegister src hdr p) s)) ∧
      (1 ≤ fieldAt p 3 1 → fieldAt p 3 1 ≤ 60 →
        (fieldAt p 0 3 % 4 ≠ 0 → Completes 0x60 src hdr n stBadAlignment [] (exec (.readRegister src hdr p) s)) ∧
        (fieldAt p 0 3 % 4 = 0 → (∃ a ∈ range, ¬ assigned a) →
          Completes 0x60 src hdr n stBadField [] (exec (.readRegister src hdr p) s)) ∧
        (fieldAt p 0 3 % 4 = 0 → (∀ a ∈ range, assigned a) → (∃ a ∈ range, n.mayRead via a = false) →
          Completes 0x60 src hdr n stNotPermitted [] (exec (.readRegister src hdr p) s)) ∧
        (fieldAt p 0 3 % 4 = 0 → (∀ a ∈ range, assigned a) → (∀ a ∈ range, n.mayRead via a = true) →
          Completes 0x60 src hdr (n.readRegs hdr.part.val range).1 stOk (n.readRegs hdr.part.val range).2
            (exec (.readRegister src hdr p) s)))) ∧
    (Taken s 0x61 writeRegisterSpec src hdr p → 1 ≤ fieldAt p 3 1 → fieldAt p 3 1 ≤ 60 → fieldAt p 0 3 % 4 = 0 →
      (∀ a ∈ range, assigned a) →
      let word (i : Nat) : Word := BitVec.ofNat 32 (fieldAt p (4 + 4 * i) 4)
      ((∃ i, i < fieldAt p 3 1 ∧ n.mayWrite via (fieldAt p 0 3 + 4 * i) (word i) = false) →
        Completes 0x61 src hdr n stNotPermitted [] (exec (.writeRegister src hdr p) s)) ∧
      ((∀ i, i < fieldAt p 3 1 → n.mayWrite via (fieldAt p 0 3 + 4 * i) (word i) = true) →
        Completes 0x61 src hdr
          ((List.range (fieldAt p 3 1)).foldl (fun t i => t.writeReg hdr.part.val (fieldAt p 0 3 + 4 * i) (word i)) n)
          stOk [] (exec (.writeRegister src hdr p) s)))

/-- GET_COUNTERS of a resident context returns the counters summed over its cores, and WRONG_STATE where no context is
resident; DISCOVER starts a discovery unless one runs, and waits for it; SET_FABRIC_QUOTA sets or restores Q or Q_p. -/
def Claims.CounterAndFabricCommands : Prop :=
  ∀ (src : Src) (hdr : Hdr) (p : Bytes) (s : State),
    let n := s.accepted src
    (Taken s 0x62 getCountersSpec src hdr p →
      (∀ x, s.ctx (fieldAt p 0 1) = some x → x.part = hdr.part.val → x.resident = true →
        let sum (f : ShareSt → W64) : Nat := ((x.cores.map fun (gj : Nat × Nat) => f (s.share gj.1 gj.2)).foldl (· + ·) 0).toNat
        Completes 0x62 src hdr n stOk (leBytes 8 (sum ShareSt.tallyFe) ++ leBytes 8 (sum ShareSt.tallyMx) ++
          leBytes 8 (sum ShareSt.tallyVx) ++ leBytes 8 (sum ShareSt.tallySc) ++ leBytes 8 x.seDone.toNat ++
          leBytes 8 x.millDone.toNat ++ leBytes 8 x.steps.toNat ++ leBytes 4 x.starvedEvents.toNat ++ leBytes 4 0)
          (exec (.getCounters src hdr p) s)) ∧
      (s.ctx (fieldAt p 0 1) = none → Completes 0x62 src hdr n stWrongState [] (exec (.getCounters src hdr p) s)) ∧
      (∀ x, s.ctx (fieldAt p 0 1) = some x → x.resident = false →
        Completes 0x62 src hdr n stWrongState [] (exec (.getCounters src hdr p) s)) ∧
      (∀ x, s.ctx (fieldAt p 0 1) = some x → x.resident = true → x.part ≠ hdr.part.val →
        Completes 0x62 src hdr n stNotPermitted [] (exec (.getCounters src hdr p) s))) ∧
    (Taken s 0x80 discoverSpec src hdr p →
      Waits s 0x80 src hdr (if s.net.disc = 1 then n else n.startDiscovery) .discover (exec (.discover src hdr p) s)) ∧
    (Taken s 0x81 setFabricQuotaSpec src hdr p →
      let b := fieldAt p 4 4
      let v := if b = 0 then none else some b
      (b = 0 ∨ 64 ≤ b ∧ b ≤ 16777216) → fieldAt p 1 1 ≤ 15 →
      (fieldAt p 0 1 = 0 → Completes 0x81 src hdr { n with net := { n.net with quotaSet := v } } stOk []
        (exec (.setFabricQuota src hdr p) s)) ∧
      (fieldAt p 0 1 = 1 → (s.part (fieldAt p 1 1)).exists_ = true →
        Completes 0x81 src hdr (n.modPart (fieldAt p 1 1) fun x => { x with quotaSet := v }) stOk []
          (exec (.setFabricQuota src hdr p) s)))

/-- Commands that report, read and write registers, read counters, and set up the fabric: the conjunction of the parts
above. -/
def Obligations.ReportCommands : Prop :=
  Claims.InformationCommands ∧ Claims.RegisterCommands ∧ Claims.CounterAndFabricCommands

/-! ### CREATE_PARTITION and DESTROY_PARTITION -/

/-- CREATE_PARTITION: with fields in range, a free partition number, free clusters and room for its quotas, it creates the
partition with the given or a drawn salt, gives it its clusters with their share modes and zeroed objects, touches no
other cluster and no memory, and returns SALT and C times 9 GiB; each failure of Table 14.2 completes with its status
and creates nothing. -/
def Claims.CreatePartitionCommand : Prop :=
  ∀ (src : Src) (hdr : Hdr) (b : Bytes) (s : State), Taken s 0x10 createPartitionSpec src hdr b →
    let n := s.accepted src
    let p := hdr.part.val
    let taken := maskList 32 (fieldAt b 0 4)
    let given := bitOf (fieldAt b 5 1) 0
    let out := exec (.createPartition src hdr b) s
    (createFields b = false → Completes 0x10 src hdr n stBadField [] out) ∧
    (createFields b = true →
      ((s.part p).exists_ = true → Completes 0x10 src hdr n stWrongState [] out) ∧
      ((s.part p).exists_ = false →
        ((∃ k ∈ taken, (s.clu k).part.isSome = true ∨ s.clusterTesting k = true) →
          Completes 0x10 src hdr n stUnitBusy [] out) ∧
        ((∀ k ∈ taken, (s.clu k).part = none ∧ s.clusterTesting k = false) →
          (4096 < s.granted Part.ledgerQuota + fieldAt b 8 2 → Completes 0x10 src hdr n stNoStreamEntry [] out) ∧
          (s.granted Part.ledgerQuota + fieldAt b 8 2 ≤ 4096 →
            (256 < s.granted Part.ctxQuota + fieldAt b 10 2 → Completes 0x10 src hdr n stPartitionFull [] out) ∧
            (s.granted Part.ctxQuota + fieldAt b 10 2 ≤ 256 →
              (given = false → s.entropyFail = true → Completes 0x10 src hdr n stUnitFailed [] out) ∧
              (given = true ∨ s.entropyFail = false →
                let salt : BitVec 16 := if given then BitVec.ofNat 16 (fieldAt b 6 2) else s.draw.1.truncate 16
                ∃ u, Completes 0x10 src hdr u stOk
                    (leBytes 2 salt.toNat ++ leBytes 6 0 ++ leBytes 8 (taken.length * cluBytes)) out ∧
                  u.part p = { exists_ := true, clusters := taken, local_ := fieldAt b 4 1, salt := salt,
                               ledgerQuota := fieldAt b 8 2, ctxQuota := fieldAt b 10 2,
                               ways := taken.foldl (fun t k => Tbl.set 0 t k (BitVec.ofNat 16 (fieldAt b (24 + 2 * k) 2))) [],
                               sources := sourceList b,
                               config := digest (b.take 6 ++ leBytes 2 salt.toNat ++ b.drop 8) } ∧
                  (∀ i k, taken[i]? = some k →
                    u.clu k = { s.clu k with part := some p, rank := i, mode := fld (fieldAt b 16 8) (2 * k) 2 }) ∧
                  (∀ k, k ∉ taken → u.clu k = s.clu k) ∧
                  (∀ o, u.syncVal o = if o / 2048 ∈ taken then 0 else s.syncVal o) ∧ u.mem = s.mem))))))

/-- DESTROY_PARTITION: refused with WRONG_STATE, changing nothing, while the partition is in use; otherwise its delayed
commands and commands end with ABORTED, its audio is released, and it waits for the zeroing. When that is done every
byte of its channels is zero, its clusters are released with empty caches and zeroed objects, the partition is gone,
and memory elsewhere is unchanged. -/
def Claims.DestroyPartitionCommand : Prop :=
  (∀ (src : Src) (hdr : Hdr) (b : Bytes) (s : State), Taken s 0x11 destroyPartitionSpec src hdr b →
    let n := s.accepted src
    let p := hdr.part.val
    let out := exec (.destroyPartition src hdr b) s
    ((s.part p).exists_ = false → Completes 0x11 src hdr n stWrongState [] out) ∧
    ((s.part p).exists_ = true →
      ((s.part p).destroying = true → Waits s 0x11 src hdr n (.zeroing p) out) ∧
      ((s.part p).destroying = false → s.inUse p = true → Completes 0x11 src hdr n stWrongState [] out) ∧
      ((s.part p).destroying = false → s.inUse p = false →
        ∃ u, Waits s 0x11 src hdr u (.zeroing p) out ∧ (u.part p).destroying = true ∧
          u = (((n.abortPartition p).releaseAudio p).modPart p fun x => { x with destroying := true })))) ∧
  (∀ (p : Fin 16) (s : State), (s.part p.val).destroying = false → exec (.channelZeroingDone p) s = .next s) ∧
  (∀ (p : Fin 16) (s : State), s.Inv → (s.part p.val).destroying = true →
    ∃ t, exec (.channelZeroingDone p) s = .next t ∧ (t.part p.val).exists_ = false ∧
      (∀ k ∈ (s.part p.val).clusters, (t.clu k).part = none ∧ (t.clu k).cache = []) ∧
      (∀ k, k ∉ (s.part p.val).clusters → t.clu k = s.clu k) ∧
      (∀ a, t.byteAt a = if a / 2 ^ 31 / 8 ∈ (s.part p.val).clusters then 0 else s.byteAt a) ∧
      (∀ o, t.syncVal o = if o / 2048 ∈ (s.part p.val).clusters then 0 else s.syncVal o) ∧
      (∀ c ∈ t.cmds, c.wait ≠ .zeroing p.val))

/-- CREATE_PARTITION and DESTROY_PARTITION: the conjunction of the parts above. -/
def Obligations.PartitionCommands : Prop :=
  Claims.CreatePartitionCommand ∧ Claims.DestroyPartitionCommand

/-! ### RESET_UNIT and SELF_TEST -/

/-- RESET_UNIT: LEVEL 0 clears a core that holds no context and draws its generator anew, LEVEL 1 clears a cluster, LEVEL
2 the partition; each waits for the reset to finish, when it completes OK; LEVEL 3 completes OK before the
whole-device reset. A unit outside the partition, absent, failed, under reset or busy is refused with its status. -/
def Claims.ResetUnitCommand : Prop :=
  (∀ (src : Src) (hdr : Hdr) (b : Bytes) (s : State), Taken s 0x12 resetUnitSpec src hdr b →
    let n := s.accepted src
    let p := hdr.part.val
    let u := fieldAt b 2 2
    let out := exec (.resetUnit src hdr b) s
    (fieldAt b 0 1 = 0 →
      (2048 ≤ u → Completes 0x12 src hdr n stBadField [] out) ∧
      (u < 2048 → (s.part p).owns (u / 64) = false → Completes 0x12 src hdr n stNotPermitted [] out) ∧
      (u < 2048 → (s.part p).owns (u / 64) = true →
        (Tbl.get 0 s.coreMap u = 1 → Completes 0x12 src hdr n stUnitAbsent [] out) ∧
        (Tbl.get 0 s.coreMap u = 2 → Completes 0x12 src hdr n stUnitFailed [] out) ∧
        (Tbl.get 0 s.coreMap u = 0 → ((s.core u).resetting = true ∨ (s.clu (u / 64)).resetting = true) →
          Completes 0x12 src hdr n stUnitResetting [] out) ∧
        (Tbl.get 0 s.coreMap u = 0 → (s.core u).resetting = false → (s.clu (u / 64)).resetting = false →
          (((s.core u).testing = true ∨ (s.clu (u / 64)).testing = true ∨ s.coreBusy u = true) →
            Completes 0x12 src hdr n stUnitBusy [] out) ∧
          ((s.core u).testing = false → (s.clu (u / 64)).testing = false → s.coreBusy u = false →
            ∃ t, Waits s 0x12 src hdr t (.reset 0 u) out ∧ (∀ g, g ≠ u → t.core g = s.core g) ∧ t.mem = s.mem ∧
              t.core u = { resetting := true, rng := (n.wakeCluster (u / 64)).draw.1 })))) ∧
    (fieldAt b 0 1 = 1 → u < 32 → (s.part p).owns u = true → (s.clu u).resetting = false →
      s.clusterTesting u = false → s.unitTesting u = false → s.clusterBusy u = false →
      Waits s 0x12 src hdr (((n.wakeCluster u).modClu u fun k => { k with resetting := true }).resetCluster u) (.reset 1 u) out) ∧
    (fieldAt b 0 1 = 2 → Waits s 0x12 src hdr (n.resetPartition p) (.reset 2 p) out) ∧
    (fieldAt b 0 1 = 3 → Completes 0x12 src hdr { n with resetReq := true } stOk [] out)) ∧
  (∀ (c : Cmd) (s : State), s.cmds.find? (·.id == c.id) = some c →
    (∀ u, c.wait = .reset 0 u → exec (.unitResetDone c.id) s =
      .next ((s.modCore u fun x => { x with resetting := false }).ended c stOk [])) ∧
    (∀ u, c.wait = .reset 1 u → exec (.unitResetDone c.id) s =
      .next ((s.modClu u fun k => { k with resetting := false }).ended c stOk [])) ∧
    (∀ p, c.wait = .reset 2 p →
      ((∃ k ∈ (s.part p).clusters, s.clusterTesting k = true ∨ s.unitTesting k = true) →
        exec (.unitResetDone c.id) s = .next s) ∧
      ((∀ k ∈ (s.part p).clusters, s.clusterTesting k = false ∧ s.unitTesting k = false) →
        exec (.unitResetDone c.id) s =
          .next (((s.resetPartitionDone p).modPart p fun x => { x with resetting := false }).finishCmd c.id stOk))))

/-- SELF_TEST: an absent or failed unit is refused first, then one under test, under reset or in use with UNIT_BUSY;
otherwise the unit is marked under test and the command waits. A test leaves its unit as Table 19.7 says; it completes
OK when it finds no failure, and UNIT_FAILED, with every unit that failed marked so, when it finds one. -/
def Claims.SelfTestCommand : Prop :=
  (∀ (src : Src) (hdr : Hdr) (b : Bytes) (s : State), Taken s 0x13 selfTestSpec src hdr b →
    let n := s.accepted src
    let kind := fieldAt b 0 1
    let u := fieldAt b 2 2
    let out := exec (.selfTest src hdr b) s
    let state := if kind = 0 then Tbl.get 0 s.coreMap u else if kind = 1 then Tbl.get 0 s.millMap u else 0
    (testCount kind ≤ u → Completes 0x13 src hdr n stBadField [] out) ∧
    (u < testCount kind →
      (state = 1 → Completes 0x13 src hdr n stUnitAbsent [] out) ∧
      (state = 2 → Completes 0x13 src hdr n stUnitFailed [] out) ∧
      (state = 0 → (s.underWork kind u = true ∨ s.testBusy kind u = true) → Completes 0x13 src hdr n stUnitBusy [] out) ∧
      (state = 0 → s.underWork kind u = false → s.testBusy kind u = false →
        Waits s 0x13 src hdr (n.markTest kind u) (.test kind u) out))) ∧
  (∀ (c : Cmd) (kind u : Nat) (failed : List UnitId) (other : Bool) (s : State), s.cmds.find? (·.id == c.id) = some c →
    c.wait = .test kind u → (∀ x ∈ testedUnits kind u, x ∉ failed) →
    exec (.testComplete c.id ⟨failed, other⟩) s = .next (((s.testLeaves kind u).clearWork (.test kind u)).ended c
      (if other = true ∧ 2 ≤ kind then stUnitFailed else stOk) [])) ∧
  (∀ (c : Cmd) (kind u : Nat) (failed : List UnitId) (other : Bool) (s : State), s.cmds.filter (·.id == c.id) = [c] →
    c.wait = .test kind u → u < testCount kind → (∃ x ∈ testedUnits kind u, x ∈ failed) →
    ∃ t, exec (.testComplete c.id ⟨failed, other⟩) s = .next t ∧
      (∀ x ∈ testedUnits kind u, x ∈ failed → t.unitState x ≠ 0 ∧ (s.unitState x = 0 → t.unitState x = 2)) ∧
      (∀ k ∈ t.cmds, k.id ≠ c.id) ∧
      (c.src = .i3c → completionBytes c.opcode 0 c.tag c.part stUnitFailed s.tb.count [] ∈ t.i3c.cpl)) ∧
  (∀ (id : Nat) (failed : List UnitId) (other : Bool) (s : State), (∀ c ∈ s.cmds, c.id ≠ id) →
    exec (.testComplete id ⟨failed, other⟩) s = .next s)

/-- RESET_UNIT and SELF_TEST: the conjunction of the parts above. -/
def Obligations.UnitCommands : Prop :=
  Claims.ResetUnitCommand ∧ Claims.SelfTestCommand

/-! ### LOAD_IMAGE and ADMIT_CONTEXT with their checks in order, DEFINE_ROPEWALK and SET_SHARES -/

/-- The first check of R158 that an image of n bytes fails, in the order of its steps: length, header, core map, program
table entry by entry, data table and halo table; an image that passes them all is accepted. -/
def Claims.ImageChecks : Prop :=
  ∀ (b : Bytes) (n : Nat),
    let cores := fieldAt b 6 2
    let mode := fieldAt b 8 1
    let nprog := fieldAt b 16 4
    let ndata := fieldAt b 20 4
    let size := fieldAt b 24 8
    let table (off len : Nat) : Prop := off % 64 = 0 ∧ off + len ≤ size
    let header : Prop := fieldAt b 0 4 = 0x4D52544A ∧ fieldAt b 4 2 = 1 ∧ 1 ≤ cores ∧ cores ≤ 2048 ∧ mode ≤ 2 ∧
      fieldAt b 9 3 = 0 ∧ 1 ≤ nprog ∧ nprog ≤ cores ∧ ndata ≤ 65535 ∧ table (fieldAt b 32 8) (8 * cores) ∧
      table (fieldAt b 40 8) (16 * nprog) ∧ (ndata = 0 → fieldAt b 48 8 = 0) ∧
      (ndata ≠ 0 → table (fieldAt b 48 8) (16 * ndata)) ∧
      (fieldAt b 56 8 = 0 ∨ table (fieldAt b 56 8) (64 * cores)) ∧ fieldAt b 64 64 = 0
    let entry (i : Nat) : Nat := fieldAt b 32 8 + 8 * i
    let links (i : Nat) : Nat := fieldAt b (entry i + 7) 1
    let map : Prop :=
      (∀ i, i < cores → fieldAt b (entry i) 2 < 2048 ∧ fieldAt b (entry i + 2) 2 < nprog ∧ links i ≤ 4 ∧
        (fieldAt b (entry i + 4) 2 = 0xFFFF → fieldAt b (entry i + 6) 1 = 0) ∧
        (fieldAt b (entry i + 4) 2 ≠ 0xFFFF → fieldAt b (entry i + 4) 2 < ndata ∧
          fieldAt b (entry i + 4) 2 + fieldAt b (entry i + 6) 1 ≤ ndata)) ∧
      (∀ i k, i < k → k < cores → fieldAt b (entry i) 2 ≠ fieldAt b (entry k) 2)
    let prog (i : Nat) : Nat := fieldAt b 40 8 + 16 * i
    let words (i : Nat) : Nat := fieldAt b (prog i + 8) 4
    let placed (i : Nat) : Prop := fieldAt b (prog i) 8 % 8 = 0 ∧ 1 ≤ words i ∧ fieldAt b (prog i) 8 + 8 * words i ≤ size
    let passes (i : Nat) : Prop := placed i ∧ words i ≤ shareWords mode ∧ fieldAt b (prog i + 12) 4 = 0
    let sec (i : Nat) : Nat := fieldAt b 48 8 + 16 * i
    let data : Prop := ∀ i, i < ndata → 1 ≤ fieldAt b (sec i + 8) 4 ∧ fieldAt b (sec i) 8 + fieldAt b (sec i + 8) 4 ≤ size ∧
      fieldAt b (sec i + 12) 4 + fieldAt b (sec i + 8) 4 ≤ shareBytes mode
    let halo (i l : Nat) : Nat := fieldAt b 56 8 + (4 * i + l) * 16
    let agree (i l : Nat) : Prop :=
      let x := halo i l
      let peer := fieldAt b x 2
      let link := fieldAt b (x + 2) 1 / 2 % 4
      let y := halo peer link
      peer < cores ∧ link < links peer ∧ fieldAt b (x + 3) 1 = 0 ∧ fieldAt b (x + 2) 1 < 8 ∧ fieldAt b (x + 8) 4 % 64 = 0 ∧
        fieldAt b (x + 4) 4 + 2 * fieldAt b (x + 8) 4 ≤ shareBytes mode ∧
        fieldAt b y 2 = i ∧ fieldAt b (y + 2) 1 / 2 % 4 = l ∧ fieldAt b (y + 2) 1 % 2 ≠ fieldAt b (x + 2) 1 % 2 ∧
        (∀ o w, (o, w) ∈ [(4, 4), (8, 4), (12, 2), (14, 2)] → fieldAt b (x + o) w = fieldAt b (y + o) w)
    let halos : Prop := ((∃ i, i < cores ∧ links i ≠ 0) ↔ fieldAt b 56 8 ≠ 0) ∧ ∀ i l, i < cores → l < links i → agree i l
    ((n < 128 ∨ size ≠ n) → imageCheck b n = some stBadLength) ∧
    (128 ≤ n → size = n →
      (¬ header → imageCheck b n = some stBadField) ∧
      (header → ¬ map → imageCheck b n = some stBadField) ∧
      (header → map →
        (∀ i, i < nprog → (∀ k, k < i → passes k) →
          (¬ placed i → imageCheck b n = some stBadField) ∧
          (placed i → shareWords mode < words i → imageCheck b n = some stBadLength) ∧
          (placed i → words i ≤ shareWords mode → fieldAt b (prog i + 12) 4 ≠ 0 → imageCheck b n = some stBadField)) ∧
        ((∀ i, i < nprog → passes i) →
          (¬ (data ∧ halos) → imageCheck b n = some stBadField) ∧ (data ∧ halos → imageCheck b n = none))))

/-- The first check of R159, R388 and R266 that the image b fails for partition p, in their order: GENERATION, the mapped
cores' clusters and share mode, the first absent or failed core of the map, the clusters of the halo objects, cores
under test or reset, the context quota and a free share on each core; an image that passes them all may be admitted.
R158 has left every declared link a peer in the map. -/
def Claims.AdmissionChecks : Prop :=
  ∀ (p : Nat) (b : Bytes) (s : State),
    let m := imgMap b
    let state (e : MapEntry) : Nat := Tbl.get 0 s.coreMap e.core
    let fits (e : MapEntry) : Prop := (s.part p).owns (e.core / 64) = true ∧ (s.clu (e.core / 64)).mode = fieldAt b 8 1
    let home (i : Nat) : Nat := fieldAt b (fieldAt b 32 8 + 8 * i) 2 / 64
    let placed (i l : Nat) : Prop :=
      let x := fieldAt b 56 8 + (4 * i + l) * 16
      let peer := fieldAt b x 2
      fieldAt b (x + 12) 2 / 2048 = home (if fieldAt b (x + 2) 1 % 2 = 1 then i else peer) ∧
        fieldAt b (x + 14) 2 / 2048 = home (if fieldAt b (x + 2) 1 % 2 = 1 then peer else i)
    let declared (i l : Nat) : Prop := i < fieldAt b 6 2 ∧ l < fieldAt b (fieldAt b 32 8 + 8 * i + 7) 1
    let peers : Prop := ∀ i l, declared i l → fieldAt b (fieldAt b 56 8 + (4 * i + l) * 16) 2 < fieldAt b 6 2
    let halos : Prop := ∀ i l, declared i l → placed i l
    let tested (e : MapEntry) : Prop := (s.core e.core).testing = true ∨ (s.clu (e.core / 64)).testing = true
    let inReset (e : MapEntry) : Prop := (s.core e.core).resetting = true ∨ (s.clu (e.core / 64)).resetting = true
    let full (e : MapEntry) : Prop := ∀ j, j < shareCount (s.clu (e.core / 64)).mode → (s.share e.core j).ctx ≠ none
    let held : Nat := (s.ctxs.filter fun x => match x.2 with | some c => c.part == p | none => false).length
    (fieldAt b 12 4 ≠ s.generation.toNat → s.admitCheck p b = some stShapeMismatch) ∧
    (fieldAt b 12 4 = s.generation.toNat →
      ((∃ e ∈ m, ¬ fits e) → s.admitCheck p b = some stShapeMismatch) ∧
      ((∀ e ∈ m, fits e) →
        (∀ pre e post, m = pre ++ e :: post → (∀ x ∈ pre, state x = 0) → state e ≠ 0 →
          s.admitCheck p b = some (if state e = 1 then stUnitAbsent else stUnitFailed)) ∧
        ((∀ e ∈ m, state e = 0) → peers →
          (¬ halos → s.admitCheck p b = some stBadField) ∧
          (halos → (∃ e ∈ m, tested e) → s.admitCheck p b = some stUnitBusy) ∧
          (halos → (∀ e ∈ m, ¬ tested e) → (∃ e ∈ m, inReset e) → s.admitCheck p b = some stUnitResetting) ∧
          (halos → (∀ e ∈ m, ¬ tested e ∧ ¬ inReset e) →
            ((s.part p).ctxQuota ≤ held → s.admitCheck p b = some stPartitionFull) ∧
            (held < (s.part p).ctxQuota →
              ((∃ e ∈ m, full e) → s.admitCheck p b = some stNoShare) ∧
              ((∀ e ∈ m, ¬ full e) → s.admitCheck p b = none))))))

/-- LOAD_IMAGE of a range in the partition that passes R158 waits for lane 0 of the SHAKE engine, as does ADMIT_CONTEXT of
a recorded image that passes R159; each reads the image through the home caches and completes with the first check
that fails. MODE 1 unloads an image that no context uses. -/
def Claims.ImageCommands : Prop :=
  ∀ (src : Src) (hdr : Hdr) (b : Bytes) (s : State),
    let n := s.accepted src
    let p := hdr.part.val
    let lane (u : State) (op : Nat) (carry : Bytes) (o : Outcome) : Prop :=
      Waits s op src hdr { u with lane0 := s.lane0 ++ [s.nextCmd] } (.lane op (b ++ carry)) o
    (Taken s 0x20 loadImageSpec src hdr b →
      let A := fieldAt b 8 5
      let len := fieldAt b 16 8
      let i := fieldAt b 2 2
      let out := exec (.loadImage src hdr b) s
      let rd := n.readPart (s.part p) .normal A len
      (1 < fieldAt b 0 1 → Completes 0x20 src hdr n stBadField [] out) ∧
      (fieldAt b 0 1 = 0 →
        ((s.part p).inside A len = false → Completes 0x20 src hdr n stOutOfBounds [] out) ∧
        ((s.part p).inside A len = true →
          (∀ st, imageCheck rd.2.1 len = some st → Completes 0x20 src hdr rd.1 st [] out) ∧
          (imageCheck rd.2.1 len = none → lane rd.1 0x20 (s.part p).ownerBytes out))) ∧
      (fieldAt b 0 1 = 1 →
        ((256 ≤ i ∨ s.image (256 * p + i) = none) → Completes 0x20 src hdr n stBadField [] out) ∧
        (i < 256 → (s.image (256 * p + i)).isSome = true → s.imageUsed p i = true →
          Completes 0x20 src hdr n stWrongState [] out) ∧
        (i < 256 → (s.image (256 * p + i)).isSome = true → s.imageUsed p i = false →
          Completes 0x20 src hdr (n.setImage (256 * p + i) none) stOk [] out))) ∧
    (Taken s 0x21 admitContextSpec src hdr b →
      let i := fieldAt b 0 2
      let out := exec (.admitContext src hdr b) s
      ((128 < fieldAt b 3 1 ∧ fieldAt b 3 1 ≠ 255 ∨ 256 ≤ i) → Completes 0x21 src hdr n stBadField [] out) ∧
      ((fieldAt b 3 1 ≤ 128 ∨ fieldAt b 3 1 = 255) → i < 256 →
        (s.image (256 * p + i) = none → Completes 0x21 src hdr n stBadField [] out) ∧
        (∀ x, s.image (256 * p + i) = some x →
          let rd := n.readPart (s.part x.part) .normal x.addr x.bytes
          (∀ st, rd.1.admitCheck p rd.2.1 = some st → Completes 0x21 src hdr rd.1 st [] out) ∧
          (rd.1.admitCheck p rd.2.1 = none →
            lane rd.1 0x21 (leBytes 8 x.addr ++ leBytes 8 x.bytes ++ (imgMap rd.2.1).flatMap fun e => leBytes 2 e.core)
              out))))

/-- ADMISSION_PREPARED makes an admitted context resident and its shares live, and its ADMIT_CONTEXT completes with the
context id; SET_SHARES sets weight, borrow limit and starve limit of a resident context of the partition;
DEFINE_ROPEWALK defines a free id with a descriptor that keeps R208, SEQ and rotation 0, and each failure completes
with its status. -/
def Claims.ContextCommands : Prop :=
  (∀ (c : Fin 256) (x : Ctx) (s : State), s.ctx c.val = some x → x.preparing = true →
    let u := x.cores.foldl (fun t gj => t.modShare gj.1 gj.2 fun h => { h with live := true }) s
    let v := u.setCtx c.val (some { x with preparing := false, resident := true })
    exec (.admissionPrepared c) s =
      .next ((s.cmds.filter fun k => k.wait == .admission c.val).foldl (fun t k => t.finishCmd k.id stOk (leBytes 4 c.val)) v)) ∧
  (∀ (c : Fin 256) (s : State), (∀ x, s.ctx c.val = some x → x.preparing = false) →
    exec (.admissionPrepared c) s = .next s) ∧
  (∀ (src : Src) (hdr : Hdr) (b : Bytes) (s : State),
    let n := s.accepted src
    let c := fieldAt b 0 1
    (Taken s 0x23 setSharesSpec src hdr b → 128 < fieldAt b 2 1 → fieldAt b 2 1 ≠ 255 →
      Completes 0x23 src hdr n stBadField [] (exec (.setShares src hdr b) s)) ∧
    (Taken s 0x23 setSharesSpec src hdr b → (fieldAt b 2 1 ≤ 128 ∨ fieldAt b 2 1 = 255) →
      let out := exec (.setShares src hdr b) s
      (s.ctx c = none → Completes 0x23 src hdr n stWrongState [] out) ∧
      (∀ x, s.ctx c = some x →
        (x.part ≠ hdr.part.val → x.resident = true → Completes 0x23 src hdr n stNotPermitted [] out) ∧
        (x.resident = false → Completes 0x23 src hdr n stWrongState [] out) ∧
        (x.part = hdr.part.val → x.resident = true →
          Completes 0x23 src hdr (n.setCtx c (some { x with
            weight := fieldAt b 1 1,
            borrow := if fieldAt b 2 1 = 255 then 32 else fieldAt b 2 1,
            starve := if fieldAt b 4 2 = 0 then 100 else fieldAt b 4 2 })) stOk [] out))) ∧
    (Taken s 0x24 defineRopewalkSpec src hdr b →
      let d := b.drop 4
      let id := fieldAt d 0 1
      let out := exec (.defineRopewalk src hdr b) s
      (s.ctx c = none → Completes 0x24 src hdr n stWrongState [] out) ∧
      (∀ x, s.ctx c = some x → x.part ≠ hdr.part.val → x.resident = true →
        Completes 0x24 src hdr n stNotPermitted [] out) ∧
      (∀ x, s.ctx c = some x → (x.resident = false ∨ x.part = hdr.part.val ∧ (x.faulted = true ∨ x.retiring = true)) →
        Completes 0x24 src hdr n stWrongState [] out) ∧
      (∀ x, s.ctx c = some x → x.part = hdr.part.val → x.resident = true → x.faulted = false → x.retiring = false →
        ((s.rope id).isSome = true ∨ 64 ≤ s.ropeCount → Completes 0x24 src hdr n stNoRopewalk [] out) ∧
        (s.rope id = none → s.ropeCount < 64 → ∀ g j rest, x.cores = (g, j) :: rest →
          (s.ropeOk c x (s.shareSize g) d = false → Completes 0x24 src hdr n stBadField [] out) ∧
          (s.ropeOk c x (s.shareSize g) d = true →
            Completes 0x24 src hdr ((n.setRope id (some {
              ctx := c, stages := rwStages d, edges := rwEdges d,
              bmax := fieldAt d 4 1, inflight := fieldAt d 5 1, steps := fieldAt d 6 2, samples := fieldAt d 8 1,
              fb := fieldAt d 9 1 == 1, fbLen := fieldAt d 10 2, fbOff := fieldAt d 12 4, seq := 0, rot := 0 })).setReg
                (0x090400 + 4 * id) 0) stOk [] out)))))

/-- LOAD_IMAGE and ADMIT_CONTEXT with their checks in order, DEFINE_ROPEWALK and SET_SHARES: the conjunction of the parts
above. -/
def Obligations.ImageAndContextCommands : Prop :=
  Claims.ImageChecks ∧ Claims.AdmissionChecks ∧ Claims.ImageCommands ∧ Claims.ContextCommands

/-! ### RETIRE_CONTEXT, its limit, and what retirement frees -/

/-- RETIRE_CONTEXT: a faulted context leaves at once; the ABORT form stops the context, cancels its work and completes
ABORTED; the DRAIN form marks it and waits. QUIESCENT completes a draining retirement with DRAINED once nothing of the
context is in flight, and the time limit ends with ABORTED one that is not quiescent by then; LIMIT 0 is 10 ms. -/
def Claims.RetirementCommands : Prop :=
  (∀ (src : Src) (hdr : Hdr) (b : Bytes) (x : Ctx) (s : State), Taken s 0x22 retireContextSpec src hdr b →
    let n := s.accepted src
    let c := fieldAt b 0 1
    let out := exec (.retireContext src hdr b) s
    (1000000 < fieldAt b 4 4 → Completes 0x22 src hdr n stBadField [] out) ∧
    (fieldAt b 4 4 ≤ 1000000 → s.ctx c = some x → x.resident = true → x.part ≠ hdr.part.val →
      Completes 0x22 src hdr n stNotPermitted [] out) ∧
    (fieldAt b 4 4 ≤ 1000000 → (s.ctx c = none ∨ s.ctx c = some x ∧ x.resident = false) →
      Completes 0x22 src hdr n stWrongState [] out) ∧
    (fieldAt b 4 4 ≤ 1000000 → s.ctx c = some x → x.part = hdr.part.val → x.resident = true →
      (x.faulted = true → Completes 0x22 src hdr (n.completeRetire c (if hdr.form then stAborted else stDrained))
        (if hdr.form then stAborted else stDrained) [] out) ∧
      (x.faulted = false → hdr.form = true →
        Completes 0x22 src hdr (((n.setCtx c (some { x with retiring := true })).abortContext c).completeRetire c stAborted)
          stAborted [] out) ∧
      (x.faulted = false → hdr.form = false →
        Waits s 0x22 src hdr (n.setCtx c (some { x with retiring := true })) (.retire c true (if fieldAt b 4 4 = 0 then 10000 else fieldAt b 4 4)) out))) ∧
  (∀ (c : Fin 256) (x : Ctx) (s : State), s.ctx c.val = some x → x.retiring = true →
    (x.faulted = false → s.quiescent c.val x = true →
      exec (.quiescent c) s = .next (s.completeRetire c.val stDrained)) ∧
    ((x.faulted = true ∨ s.quiescent c.val x = false) → exec (.quiescent c) s = .next s) ∧
    (s.quiescent c.val x = false →
      exec (.retireLimitExpiry c) s = .next ((s.abortContext c.val).completeRetire c.val stAborted)) ∧
    (s.quiescent c.val x = true → exec (.retireLimitExpiry c) s = .next s)) ∧
  (∀ (c : Fin 256) (s : State), (∀ x, s.ctx c.val = some x → x.retiring = false) →
    exec (.quiescent c) s = .next s ∧ exec (.retireLimitExpiry c) s = .next s)

/-- What a retirement leaves (R281): from a canonical state the context's id, shares and Ropewalks are free, its Tally
counters keep their values, and no retirement of it waits any more. -/
def Claims.RetirementFrees : Prop :=
  ∀ (c : Fin 256) (x : Ctx) (s : State), s.Inv → s.ctx c.val = some x → x.retiring = true →
    s.quiescent c.val x = false →
    ∃ t, exec (.retireLimitExpiry c) s = .next t ∧ t.ctx c.val = none ∧ (∀ r y, t.rope r = some y → y.ctx ≠ c.val) ∧
      (∀ gj ∈ x.cores, (t.share gj.1 gj.2).ctx = none ∧ (t.share gj.1 gj.2).program = [] ∧
        (t.share gj.1 gj.2).scratch = [] ∧ (t.share gj.1 gj.2).tallyFe = (s.share gj.1 gj.2).tallyFe ∧
        (t.share gj.1 gj.2).tallyVx = (s.share gj.1 gj.2).tallyVx) ∧
      (∀ k ∈ t.cmds, ∀ d, ∀ n, k.wait ≠ .retire c.val d n)

/-- RETIRE_CONTEXT, its limit, and what retirement frees: the conjunction of the parts above. -/
def Obligations.Retirement : Prop :=
  Claims.RetirementCommands ∧ Claims.RetirementFrees

/-! ### OPEN_STREAM and its checks in order -/

/-- Items 1 to 6 of R363, in their order, on the parameters b of OPEN_STREAM by partition p: a foreign context or
Ropewalk, Table 18.7, an undefined or alien Ropewalk, a faulted or retiring context, the shape of the chain (R215),
and a region outside the partition. -/
def Claims.OpenStreamChecks : Prop :=
  ∀ (p : Nat) (b : Bytes) (s : State),
    let a := openArgs b
    let out := s.openChecks p a
    let foreign (c : Nat) : Prop := ∃ x, s.ctx c = some x ∧ x.resident = true ∧ x.part ≠ p
    let alien : Prop := foreign a.ctx ∨ ∃ r ∈ a.chain, ∃ y, s.rope r = some y ∧ foreign y.ctx
    let last (P : Rope → Prop) : Prop := ∀ r y, a.chain.getLast? = some r → s.rope r = some y → P y
    let fields : Prop := a.size % 64 = 0 ∧ 1 ≤ a.iqSlot ∧ 1 ≤ a.iqDepth ∧ a.iqDepth ≤ 1024 ∧
      (a.chain.length = 1 → a.cqFrame = 0) ∧ a.orFmt ≤ 4 ∧ last (fun y => 2 * y.samples ≤ a.orSize) ∧
      8000 * 256 ≤ a.rate ∧ a.rate ≤ 198000 * 256
    let own : Prop := ∀ r ∈ a.chain, ∃ y, s.rope r = some y ∧ y.ctx = a.ctx
    let shape : Prop := (∀ r ∈ a.chain.dropLast, ∀ y, s.rope r = some y → y.steps = 1 ∧ y.samples = 0 ∧ y.fb = false) ∧
      last (fun y => 0 < y.samples ∧ y.fbOff + y.fbLen ≤ a.size)
    let within (A n : Nat) : Prop := (s.part p).inside A n = true
    let regions : Prop := within a.state a.size ∧ within a.init a.size ∧ within a.iqBase (a.iqDepth * (64 * a.iqSlot)) ∧
      within a.cqBase ((a.chain.length - 1) * 16 * (64 * a.cqFrame)) ∧ within a.orBase (a.orSize * audioBytes a.orFmt)
    (alien → out = some stNotPermitted) ∧
    (¬ alien → ¬ fields → out = some stBadField) ∧
    (¬ alien → fields → ¬ own → out = some stNoRopewalk) ∧
    (¬ alien → fields → own → ∀ x, s.ctx a.ctx = some x →
      (x.faulted = true → out = some stProgramFault) ∧
      (x.faulted = false → x.retiring = true → out = some stWrongState) ∧
      (x.faulted = false → x.retiring = false →
        (¬ shape → out = some stBadField) ∧
        (shape → ¬ regions → out = some stOutOfBounds) ∧
        (shape → regions → out = none)))

/-- OPEN_STREAM: the first check of R363 that fails completes the command; otherwise the INIT region is copied to STATE
and the lowest free entry opens with the fields of Table 18.7, position 0 and its source as owner, and its id is
returned; an uncorrectable error in the copy completes it with ECC_UNCORRECTABLE and opens nothing. -/
def Claims.OpenStreamEffect : Prop :=
  ∀ (src : Src) (hdr : Hdr) (b : Bytes) (s : State), Taken s 0x30 openStreamSpec src hdr b →
    let n := s.accepted src
    let p := hdr.part.val
    let a := openArgs b
    let out := exec (.openStream src hdr b) s
    (∀ st, s.openChecks p a = some st → Completes 0x30 src hdr n st [] out) ∧
    (s.openChecks p a = none →
      let ly := n.layoutAt p a.init
      let ok := layoutOk ly.2.1 a.size && feedbackOk ly.2.1 (s.chainFeedback a.chain)
      (ok = false → Completes 0x30 src hdr ly.1 stBadField [] out) ∧
      (ok = true →
        (s.stateOverlap p a.state a.size true = true → Completes 0x30 src hdr ly.1 stStateBusy [] out) ∧
        (s.stateOverlap p a.state a.size true = false →
          (s.freeEntry p = none → Completes 0x30 src hdr ly.1 stNoStreamEntry [] out) ∧
          (∀ i, s.freeEntry p = some i →
            let rd := ly.1.readPart (s.part p) .normal a.init a.size
            let wr := rd.1.writeWholly (s.part p) .normal a.state rd.2.1
            (rd.2.2 ≠ [] → Completes 0x30 src hdr rd.1 stEccUncorrectable [] out) ∧
            (rd.2.2 = [] → wr.2 = true → Completes 0x30 src hdr wr.1 stEccUncorrectable [] out) ∧
            (rd.2.2 = [] → wr.2 = false →
              ∃ u, Completes 0x30 src hdr u stOk (leBytes 4 i) out ∧ u.mem = wr.1.mem ∧
                (∀ k, k ≠ i → u.entry k = s.entry k) ∧
                u.entry i = { a.entry p with
                  status := .opened, fresh := true, owner := s.srcId src, ownerSelf := deviceSource src,
                  credits := a.iqDepth, prov := s.provStart i 0 })))))

/-- OPEN_STREAM and its checks in order: the conjunction of the parts above. -/
def Obligations.OpenStreamCommand : Prop :=
  Claims.OpenStreamChecks ∧ Claims.OpenStreamEffect

/-! ### PARK_STREAM, UNPARK_STREAM and CLOSE_STREAM -/

/-- PARK_STREAM of an active stream waits with PARKING set, and completes, the stream PARKED, once no Docket carries it;
of a PARKED stream it completes OK, of any other WRONG_STATE. UNPARK_STREAM of a PARKED stream whose chain is usable
makes it active again. A stream of another partition is NOT_PERMITTED. -/
def Claims.ParkingCommands : Prop :=
  (∀ (src : Src) (hdr : Hdr) (b : Bytes) (s : State),
    let n := s.accepted src
    let i := fieldAt b 0 2
    let e := s.entry i
    (Taken s 0x31 parkStreamSpec src hdr b →
      let out := exec (.parkStream src hdr b) s
      (s.foreignStream hdr.part.val i = true → Completes 0x31 src hdr n stNotPermitted [] out) ∧
      (s.foreignStream hdr.part.val i = false →
        (e.status.active = true → Waits s 0x31 src hdr (n.setEntry i { e with parking := true }) (.park i) out) ∧
        (e.status = .parked → Completes 0x31 src hdr n stOk [] out) ∧
        ((e.status = .closed ∨ e.status = .draining ∨ e.status = .faulted) →
          Completes 0x31 src hdr n stWrongState [] out))) ∧
    (Taken s 0x32 unparkStreamSpec src hdr b →
      let out := exec (.unparkStream src hdr b) s
      (s.foreignStream hdr.part.val i = true → Completes 0x32 src hdr n stNotPermitted [] out) ∧
      (s.foreignStream hdr.part.val i = false →
        (e.status ≠ .parked → Completes 0x32 src hdr n stWrongState [] out) ∧
        (e.status = .parked → e.moving = true → Completes 0x32 src hdr n stStateBusy [] out) ∧
        (e.status = .parked → e.moving = false → s.chainUsable e = false →
          Completes 0x32 src hdr n stNoRopewalk [] out) ∧
        (e.status = .parked → e.moving = false → s.chainUsable e = true →
          Completes 0x32 src hdr (((n.setEntry i { e with
            status := if e.fresh then .opened else .waitingInput }).reval i).urgency i) stOk [] out)))) ∧
  (∀ (i : Fin 4096) (s : State), ((s.entry i.val).parking = false ∨ s.carried i.val = true) →
    exec (.parkComplete i) s = .next s) ∧
  (∀ (i : Fin 4096) (s : State), (s.entry i.val).parking = true → s.carried i.val = false →
    ∃ t, exec (.parkComplete i) s = .next t ∧ (t.entry i.val).status = .parked ∧ (t.entry i.val).parking = false ∧
      (t.entry i.val).pos = (s.entry i.val).pos ∧ (t.entry i.val).orWr = (s.entry i.val).orWr ∧
      (∀ k, k ≠ i.val → t.entry k = s.entry k) ∧ (∀ c ∈ t.cmds, c.wait ≠ .park i.val))

/-- CLOSE_STREAM: the ABORT form drops the stream's steps, ring and chunks and closes it with ABORTED; the DRAIN form
makes it DRAINING and completes at once with DRAINED when no drain can serve it, else waits. DRAIN_CLOSE_COMPLETE ends
that wait, and DRAINING_CLOSE closes a drained stream that no command waits for; a closed entry keeps its partition
only while a Docket carries it. -/
def Claims.ClosingCommands : Prop :=
  (∀ (src : Src) (hdr : Hdr) (b : Bytes) (s : State), Taken s 0x34 closeStreamSpec src hdr b →
    let n := s.accepted src
    let i := fieldAt b 0 2
    let d := if (s.entry i).status = .draining then n else n.startDraining i
    let out := exec (.closeStream src hdr b) s
    (s.foreignStream hdr.part.val i = true → Completes 0x34 src hdr n stNotPermitted [] out) ∧
    (s.foreignStream hdr.part.val i = false →
      ((s.entry i).status = .closed → Completes 0x34 src hdr n stWrongState [] out) ∧
      ((s.entry i).status ≠ .closed → hdr.form = true → Completes 0x34 src hdr (n.closeAbort i) stAborted [] out) ∧
      ((s.entry i).status ≠ .closed → hdr.form = false → d.drained i = true →
        Completes 0x34 src hdr (d.closeUndrained i) stDrained [] out) ∧
      ((s.entry i).status ≠ .closed → hdr.form = false → d.drained i = false →
        Waits s 0x34 src hdr d (.closeDrain i) out))) ∧
  (∀ (i : Fin 4096) (s : State) (c : Instr), s.Inv → s.drained i.val = true →
    (c = .drainCloseComplete i ∧ (∃ k ∈ s.cmds, k.wait = .closeDrain i.val) ∨
      c = .drainingClose i ∧ ∀ k ∈ s.cmds, k.wait ≠ .closeDrain i.val) →
    ∃ t, exec c s = .next t ∧ (t.entry i.val).status = .closed ∧ (t.entry i.val).orRd = (s.entry i.val).orWr ∧
      (t.entry i.val).bind = 0xFFFF ∧ (t.entry i.val).part = (if s.carried i.val then (s.entry i.val).part else none) ∧
      (t.entry i.val).held = s.carried i.val ∧ (∀ k ∈ t.cmds, k.wait ≠ .closeDrain i.val)) ∧
  (∀ (i : Fin 4096) (s : State), s.drained i.val = false →
    exec (.drainCloseComplete i) s = .next s ∧ exec (.drainingClose i) s = .next s)

/-- PARK_STREAM, UNPARK_STREAM and CLOSE_STREAM: the conjunction of the parts above. -/
def Obligations.StreamEndings : Prop :=
  Claims.ParkingCommands ∧ Claims.ClosingCommands

/-! ### BIND_OUTPUT and SET_SLOT_MASK -/

/-- BIND_OUTPUT: another partition's stream or output is NOT_PERMITTED; 0xFFFF unbinds at the next frame start, a waiting
successor too; a stream that may be bound is queued for an AES3 channel or slot that nothing holds, its group opening
with the given fields; an output held by a stream DRAINING at its sequence end takes it as successor at once, itself
DRAINING or not, and any other holder is UNIT_BUSY. A closed or bound stream is WRONG_STATE, as is a DRAINING one that
would be no successor; a parked or faulted one has its own status. -/
def Claims.BindOutputCommand : Prop :=
  ∀ (src : Src) (hdr : Hdr) (b : Bytes) (s : State), Taken s 0x40 bindOutputSpec src hdr b →
    let n := s.accepted src
    let p := hdr.part.val
    let i := fieldAt b 0 2
    let w := BitVec.ofNat 16 (fieldAt b 2 2)
    let t := bindTo w
    let out := exec (.bindOutput src hdr b) s
    ((s.foreignStream p i = true ∨ s.foreignOutput p t = true) → Completes 0x40 src hdr n stNotPermitted [] out) ∧
    (s.foreignStream p i = false → s.foreignOutput p t = false →
      (s.groupFieldsOk t b = false → Completes 0x40 src hdr n stBadField [] out) ∧
      (s.groupFieldsOk t b = true → w = 0xFFFF →
        ((s.entry i).status = .closed → Completes 0x40 src hdr n stWrongState [] out) ∧
        ((s.entry i).status ≠ .closed → Completes 0x40 src hdr
          (if s.willBind i = 0xFFFF then n else { n with changes := s.changes ++ [.unbind i] }) stOk [] out)) ∧
      (s.groupFieldsOk t b = true → w ≠ 0xFFFF →
        ((s.entry i).status = .closed → Completes 0x40 src hdr n stWrongState [] out) ∧
        (s.isBound i = true → Completes 0x40 src hdr n stWrongState [] out) ∧
        ((s.entry i).status = .draining → s.succeeds w = false → Completes 0x40 src hdr n stWrongState [] out) ∧
        ((s.entry i).status = .parked → s.isBound i = false → Completes 0x40 src hdr n stStreamParked [] out) ∧
        ((s.entry i).status = .faulted → s.isBound i = false → Completes 0x40 src hdr n stStreamFaulted [] out) ∧
        (s.isBound i = false → ((s.entry i).status.active = true ∨ (s.entry i).status = .draining ∧ s.succeeds w = true) →
          (∀ st, s.outputCheck i t b = some st → Completes 0x40 src hdr n st [] out) ∧
          (s.outputCheck i t b = none →
            (s.holders w = [] →
              ∃ u, Completes 0x40 src hdr u stOk [] out ∧ u.changes = s.changes ++ [.bind i w] ∧
                { u with groups := n.groups, changes := n.changes } = n ∧
                ((∀ g k, t ≠ .slot g k) → u.groups = s.groups) ∧
                ∀ g k, t = .slot g k → (s.group g).active = false →
                  u.group g = { active := true, part := p, clk := Fin.ofNat 8 (fieldAt b 8 1),
                                fmt := Fin.ofNat 4 (fieldAt b 7 1), vc := fieldAt b 6 1,
                                dest := BitVec.ofNat 12 (fieldAt b 4 2) }) ∧
            (∀ k, s.holders w = [k] → s.succeedable k = true → Completes 0x40 src hdr (n.attach i w) stOk [] out) ∧
            (∀ k, s.holders w = [k] → s.succeedable k = false → Completes 0x40 src hdr n stUnitBusy [] out)))))

/-- SET_SLOT_MASK queues a mask for its next frame start: of group 0, the bits of the partition's own outputs alone, and
BAD_FIELD for a channel of a disabled output, NOT_PERMITTED for another partition's; of a free group, OK for a zero
mask and BAD_FIELD for another; of another partition's group, NOT_PERMITTED. -/
def Claims.SlotMaskCommand : Prop :=
  ∀ (src : Src) (hdr : Hdr) (b : Bytes) (s : State), Taken s 0x41 slotMaskSpec src hdr b →
    let n := s.accepted src
    let p := hdr.part.val
    let g := fieldAt b 0 1
    let m := fieldAt b 4 8
    let own := channelsOf fun o => (s.out o).part == some p
    let out := exec (.setSlotMask src hdr b) s
    (15 < g → Completes 0x41 src hdr n stBadField [] out) ∧
    (g = 0 →
      (m &&& channelsOf (fun o => !(s.out o).en) ≠ 0 → Completes 0x41 src hdr n stBadField [] out) ∧
      (m &&& channelsOf (fun o => !(s.out o).en) = 0 →
        (m &&& channelsOf (fun o => (s.out o).part != some p) ≠ 0 → Completes 0x41 src hdr n stNotPermitted [] out) ∧
        (m &&& channelsOf (fun o => (s.out o).part != some p) = 0 → Completes 0x41 src hdr
          { n with changes := s.changes ++ [.mask 0 (BitVec.ofNat 64 own) (BitVec.ofNat 64 m)] } stOk [] out))) ∧
    (1 ≤ g → g ≤ 15 →
      ((s.group g).active = false → Completes 0x41 src hdr n (if m = 0 then stOk else stBadField) [] out) ∧
      ((s.group g).active = true → (s.group g).part ≠ p → Completes 0x41 src hdr n stNotPermitted [] out) ∧
      ((s.group g).active = true → (s.group g).part = p → Completes 0x41 src hdr
        { n with changes := s.changes ++ [.mask g (BitVec.allOnes 64) (BitVec.ofNat 64 m)] } stOk [] out))

/-- BIND_OUTPUT and SET_SLOT_MASK: the conjunction of the parts above. -/
def Obligations.OutputBinding : Prop :=
  Claims.BindOutputCommand ∧ Claims.SlotMaskCommand

/-! ### SET_TIMEBASE, CONFIG_AES_OUT and CONFIG_AES_IN -/

/-- SET_TIMEBASE with fields in range selects the source and the frame length: another F is due at the first multiple of
768 strictly above the counter; a changed internal source or rate runs LOCKED at RATE, another external source begins
ACQUIRE, and the source already selected leaves the timebase as it is. The count never jumps. -/
def Claims.SetTimebaseCommand : Prop :=
  ∀ (src : Src) (hdr : Hdr) (b : Bytes) (s : State), Taken s 0x42 setTimebaseSpec src hdr b →
    let n := s.accepted src
    let sel := fieldAt b 0 1
    let f := fieldAt b 1 1
    let rate := fieldAt b 4 4
    let out := exec (.setTimebase src hdr b) s
    ((3 < sel ∨ 7 < f ∨ sel = 0 ∧ (rate < 31000 * 256 ∨ 198000 * 256 < rate)) →
      Completes 0x42 src hdr n stBadField [] out) ∧
    (sel ≤ 3 → f ≤ 7 → (sel = 0 → 31000 * 256 ≤ rate ∧ rate ≤ 198000 * 256) →
      ∃ u, Completes 0x42 src hdr u stOk [] out ∧ u.tb.src.val = sel ∧ u.tb.frameSel.val = f ∧
        u.tb.count = s.tb.count ∧ u.tb.frameEff = s.tb.frameEff ∧
        (sel = 0 → (s.tb.src ≠ 0 ∨ s.tb.intRate ≠ BitVec.ofNat 32 rate) →
          u.tb.st = .locked ∧ u.tb.rate = BitVec.ofNat 32 rate ∧ u.tb.intRate = BitVec.ofNat 32 rate) ∧
        (sel = s.tb.src.val → (sel = 0 → s.tb.intRate = BitVec.ofNat 32 rate) →
          u.tb = { s.tb with frameSel := u.tb.frameSel, fAt := u.tb.fAt }) ∧
        (sel ≠ 0 → sel ≠ s.tb.src.val → u.tb.st = .acquire ∧ u.tb.miss = 0 ∧ u.tb.periods = []) ∧
        u.tb.fAt = (if f = s.tb.frameEff.val then none
          else some (BitVec.ofNat 48 ((s.tb.count.toNat / 768 + 1) * 768))))

/-- CONFIG_AES_OUT enables a disabled output that no other partition owns with its fields; disabling stops it at once in
the ABORT form and waits for its channels to drain in the DRAIN form, which AES_DRAIN_COMPLETE ends with DRAINED.
CONFIG_AES_IN starts capture into a ring of the partition, or releases an input. -/
def Claims.AesCommands : Prop :=
  (∀ (src : Src) (hdr : Hdr) (b : Bytes) (s : State),
    let n := s.accepted src
    let p := hdr.part.val
    (Taken s 0x43 aesOutSpec src hdr b →
      let o := fieldAt b 0 1
      let out := exec (.configAesOut src hdr b) s
      (7 < o → Completes 0x43 src hdr n stBadField [] out) ∧
      (o ≤ 7 → fieldAt b 1 1 ≤ 1 → fieldAt b 2 1 ≤ 1 → fieldAt b 3 1 ≤ 2 → fieldAt b 4 1 ≤ 6 →
        ((∃ q, (s.out o).part = some q ∧ q ≠ p) → Completes 0x43 src hdr n stNotPermitted [] out) ∧
        (((s.out o).part = none ∨ (s.out o).part = some p) →
          (fieldAt b 1 1 = 0 → (s.out o).en = true → Completes 0x43 src hdr n stWrongState [] out) ∧
          (fieldAt b 1 1 = 0 → (s.out o).en = false →
            Completes 0x43 src hdr ((n.setOut o {
              en := true, consumer := fieldAt b 2 1 == 1,
              wlen := Fin.ofNat 4 (fieldAt b 3 1), clk := Fin.ofNat 8 (fieldAt b 4 1), part := some p,
              category := BitVec.ofNat 8 (fieldAt b 5 1), copyOk := bitOf (fieldAt b 6 1) 0,
              origin := BitVec.ofNat 32 (fieldAt b 8 4), destn := BitVec.ofNat 32 (fieldAt b 12 4) }).outCheck o)
              stOk [] out) ∧
          (fieldAt b 1 1 = 1 → (s.out o).en = false → Completes 0x43 src hdr n stWrongState [] out) ∧
          (fieldAt b 1 1 = 1 → (s.out o).en = true → hdr.form = true →
            Completes 0x43 src hdr ((n.stopOutput o true).finishWhere (waitsOut o) stAborted) stAborted [] out) ∧
          (fieldAt b 1 1 = 1 → (s.out o).en = true → hdr.form = false →
            Waits s 0x43 src hdr (n.modOut o fun x => { x with draining := true })
              (.aesDrain o (s.drainGoal (2 * o)) (s.drainGoal (2 * o + 1))) out)))) ∧
    (Taken s 0x44 aesInSpec src hdr b →
      let i := fieldAt b 0 1
      let frames := fieldAt b 4 4
      let ring := fieldAt b 8 5
      let sync := fieldAt b 2 2
      let out := exec (.configAesIn src hdr b) s
      (1 < i → Completes 0x44 src hdr n stBadField [] out) ∧
      (i ≤ 1 → fieldAt b 1 1 ≤ 1 → (∃ q, (s.ain i).part = some q ∧ q ≠ p) →
        Completes 0x44 src hdr n stNotPermitted [] out) ∧
      (i ≤ 1 → ((s.ain i).part = none ∨ (s.ain i).part = some p) →
        (fieldAt b 1 1 = 0 → Completes 0x44 src hdr (n.modAin i fun x =>
          { x with capture := false, capBlock := false, part := none, sync := 0, ringFrames := 0, ring := 0 }) stOk [] out) ∧
        (fieldAt b 1 1 = 1 → frames % 192 = 0 → 192 ≤ frames → frames ≤ 3145728 →
          ((s.part p).owns (sync / 2048) = false → Completes 0x44 src hdr n stNotPermitted [] out) ∧
          ((s.part p).owns (sync / 2048) = true → (s.part p).inside ring (8 * frames) = false →
            Completes 0x44 src hdr n stOutOfBounds [] out) ∧
          ((s.part p).owns (sync / 2048) = true → (s.part p).inside ring (8 * frames) = true →
            Completes 0x44 src hdr (n.modAin i fun x => { x with
              capture := true, capBlock := false, part := some p, sync := sync, ringFrames := frames, ring := ring,
              place := x.wr.toNat % frames }) stOk [] out))))) ∧
  (∀ (o : Fin 8) (s : State), (s.out o.val).draining = true → s.channelDone (2 * o.val) = true →
    s.channelDone (2 * o.val + 1) = true →
    exec (.aesDrainComplete o) s = .next ((s.stopOutput o.val false).finishWhere (waitsOut o.val) stDrained)) ∧
  (∀ (o : Fin 8) (s : State), ((s.out o.val).draining = false ∨ s.channelDone (2 * o.val) = false ∨
    s.channelDone (2 * o.val + 1) = false) → exec (.aesDrainComplete o) s = .next s)

/-- SET_TIMEBASE, CONFIG_AES_OUT and CONFIG_AES_IN: the conjunction of the parts above. -/
def Obligations.TimeAndAesCommands : Prop :=
  Claims.SetTimebaseCommand ∧ Claims.AesCommands

/-! ### WRITE_MEMORY, its data packets, FILL_MEMORY and READ_MEMORY -/

/-- The checks of a write, in order, and its frame: WRITE_MEMORY inline and FILL_MEMORY write their range, in order and
line by line, and no byte outside it changes; a refused range, and one whose write a line refuses (R99), completes
with its status and changes no byte of memory. -/
def Claims.MemoryWriteCommands : Prop :=
  ∀ (src : Src) (hdr : Hdr) (b : Bytes) (s : State),
    let n := s.accepted src
    let p := hdr.part.val
    let A := fieldAt b 0 5
    let check (op len : Nat) (out : Outcome) : Prop :=
      (len = 0 → Completes op src hdr n stBadField [] out) ∧
      (len ≠ 0 → (s.stateOverlap p A len false || s.imageOverlap p A len || s.laneProtects p A len) = true →
        Completes op src hdr n stStateBusy [] out) ∧
      (len ≠ 0 → (s.stateOverlap p A len false || s.imageOverlap p A len || s.laneProtects p A len) = false →
        (s.part p).inside A len = false → Completes op src hdr n stOutOfBounds [] out)
    let writes (op : Nat) (data : Bytes) (dcrc : Option (BitVec 16)) (out : Outcome) : Prop :=
      let w := n.writeWholly (s.part p) .normal A data
      let v := n.writePart (s.part p) .normal A data
      let outside (a : Nat) : Prop := ∀ i, i < data.length → (s.part p).phys (A + i) ≠ a
      (dcrc.isSome = true → dcrc ≠ some (crc16 data) → Completes op src hdr v.1 stLinkCrc [] out ∧
        ∀ a, outside a → v.1.byteAt a = s.byteAt a) ∧
      ((dcrc = none ∨ dcrc = some (crc16 data)) →
        Completes op src hdr w.1 (if w.2 then stEccUncorrectable else stOk) [] out ∧
        (∀ a, outside a → w.1.byteAt a = s.byteAt a) ∧ (w.2 = true → w.1.mem = s.mem) ∧ (s.badLines = [] → w.2 = false))
    (Taken s 0x50 writeMemorySpec src hdr b →
      let out := exec (.writeMemory src hdr b []) s
      let len := fieldAt b 8 4
      (inlineFlag b = true → check 0x50 len out ∧
        (s.writeChecks p A len = none → writes 0x50 (b.drop 16) (dcrcOf b) out)) ∧
      (inlineFlag b = false → (src = .i3c ∨ s.tagPending src hdr.tag = true) →
        Completes 0x50 src hdr n stBadField [] out) ∧
      (inlineFlag b = false → src ≠ .i3c → s.tagPending src hdr.tag = false → check 0x50 len out ∧
        (s.writeChecks p A len = none → Waits s 0x50 src hdr n (.writeData A len [] [] (dcrcOf b) false) out))) ∧
    (Taken s 0x52 fillMemorySpec src hdr b →
      let out := exec (.fillMemory src hdr b) s
      let len := fieldAt b 8 8
      check 0x52 len out ∧
        (s.writeChecks p A len = none → writes 0x52 (fillBytes (fieldAt b 16 4) len) none out))

/-- Data of a WRITE_MEMORY in packets: bytes are written as they arrive; the command completes when its range is covered,
with LINK_CRC where its check fails; data of no command, empty or beyond the range is discarded and counted; 100 ms
without data end it with LINK_CRC. -/
def Claims.MemoryDataPackets : Prop :=
  (∀ (port : Fin 3) (src : BitVec 12) (vc : Nat) (b : Bytes) (s : State), vc ≠ 11 →
    let from_ : Src := if port.val = 2 then .spur else .dev src
    let off := fieldAt b 4 4
    let d := b.drop 16
    let tag := BitVec.ofNat 16 (fieldAt b 0 2)
    let out := exec (.memoryWriteData port src vc b) s
    (s.writer from_ tag = none → out = .next (s.bump (0x030000 + 0x100 * port.val + 0x1C) 0 32 1)) ∧
    (∀ c A n got data check bad, s.writer from_ tag = some c → c.wait = .writeData A n got data check bad →
      ((d = [] ∨ n < off + d.length) → out = .next (s.bump (0x030000 + 0x100 * port.val + 0x1C) 0 32 1)) ∧
      (d ≠ [] → off + d.length ≤ n →
        let w := s.writePart (s.part c.part) .normal (A + off) d
        let all := writeBytes data off d
        let refused := bad || !w.2.isEmpty
        (covered ((off, d.length) :: got) 0 n = true →
          out = .next (w.1.finishCmd c.id (if check.isSome = true ∧ check ≠ some (crc16 (readBytes all 0 n)) then stLinkCrc
            else if refused then stEccUncorrectable else stOk))) ∧
        (covered ((off, d.length) :: got) 0 n = false →
          out = .next (w.1.setWait c.id (.writeData A n ((off, d.length) :: got) all check refused)))))) ∧
  (∀ (c : Cmd) (s : State), s.cmds.find? (·.id == c.id) = some c →
    (∀ A n got data check bad, c.wait = .writeData A n got data check bad →
      exec (.writeDataTimeout c.id) s = .next (s.ended c stLinkCrc [])) ∧
    ((∀ A n got data check bad, c.wait ≠ .writeData A n got data check bad) →
      exec (.writeDataTimeout c.id) s = .next s))

/-- READ_MEMORY inline returns the CRC and the bytes of its range as memory holds them; not inline it sends them in 0x35
packets in ascending offset and waits for their acknowledgement; a line that reads with an uncorrectable error ends
the read there. It changes no byte of memory. -/
def Claims.MemoryReadCommand : Prop :=
  ∀ (src : Src) (hdr : Hdr) (b : Bytes) (s : State), Taken s 0x51 readMemorySpec src hdr b →
    let n := s.accepted src
    let p := s.part hdr.part.val
    let A := fieldAt b 0 5
    let len := fieldAt b 8 4
    let most := if src = .i3c then 236 else 65483
    let out := exec (.readMemory src hdr b []) s
    let rd := n.readUntil p A len
    ((len = 0 ∨ inlineFlag b = false ∧ src = .i3c) → Completes 0x51 src hdr n stBadField [] out) ∧
    (len ≠ 0 → inlineFlag b = true → most < len → Completes 0x51 src hdr n stBadLength [] out) ∧
    (len ≠ 0 → (inlineFlag b = true → len ≤ most) → (inlineFlag b = false → src ≠ .i3c) →
      (p.inside A len = false → Completes 0x51 src hdr n stOutOfBounds [] out) ∧
      (p.inside A len = true → rd.1.mem = s.mem ∧
        (rd.2.2 = none → rd.2.1 = (List.range len).map (fun i => s.byteAt (p.phys (A + i))) ∧
          (inlineFlag b = true →
            Completes 0x51 src hdr rd.1 stOk (leBytes 2 (crc16 rd.2.1).toNat ++ leBytes 2 0 ++ rd.2.1) out) ∧
          (inlineFlag b = false →
            Waits s 0x51 src hdr (rd.1.sendReadData (s.request 0x51 src hdr b) (len / dataMax + 1) 0 rd.2.1)
              (.readData stOk (leBytes 2 (crc16 rd.2.1).toNat ++ leBytes 2 0)) out)) ∧
        (∀ off, rd.2.2 = some off → (inlineFlag b = true ∨ rd.2.1 = []) →
          Completes 0x51 src hdr rd.1 stEccUncorrectable (leBytes 4 off) out) ∧
        (∀ off, rd.2.2 = some off → inlineFlag b = false → rd.2.1 ≠ [] →
          Waits s 0x51 src hdr (rd.1.sendReadData (s.request 0x51 src hdr b) (len / dataMax + 1) 0 rd.2.1)
            (.readData stEccUncorrectable (leBytes 4 off)) out)))

/-- WRITE_MEMORY, its data packets, FILL_MEMORY and READ_MEMORY: the conjunction of the parts above. -/
def Obligations.MemoryCommands : Prop :=
  Claims.MemoryWriteCommands ∧ Claims.MemoryDataPackets ∧ Claims.MemoryReadCommand

/-! ### SIGNAL_SYNC, WAIT_SYNC and FENCE -/

/-- SIGNAL_SYNC sets or adds to an object of the partition and tests its waiters; WAIT_SYNC completes at once where the
condition holds, else waits, and ends with EMPTY at its limit; FENCE waits for every command received before it from
its source for its partition. -/
def Obligations.SyncCommands : Prop :=
  (∀ (src : Src) (hdr : Hdr) (b : Bytes) (s : State),
    let n := s.accepted src
    let obj := fieldAt b 0 2
    let v : Word := BitVec.ofNat 32 (fieldAt b 4 4)
    let owned := (s.part hdr.part.val).owns (obj / 2048)
    (Taken s 0x53 signalSyncSpec src hdr b →
      let out := exec (.signalSync src hdr b) s
      (1 < fieldAt b 2 1 → Completes 0x53 src hdr n stBadField [] out) ∧
      (fieldAt b 2 1 ≤ 1 → owned = false → Completes 0x53 src hdr n stNotPermitted [] out) ∧
      (fieldAt b 2 1 ≤ 1 → owned = true → Completes 0x53 src hdr
        ({ n with sync := Tbl.set 0 s.sync obj (if fieldAt b 2 1 = 0 then v else s.syncVal obj + v) }.testWaiters obj)
        stOk [] out)) ∧
    (Taken s 0x54 waitSyncSpec src hdr b →
      let out := exec (.waitSync src hdr b) s
      let limit := fieldAt b 8 4
      (owned = false → Completes 0x54 src hdr n stNotPermitted [] out) ∧
      (owned = true → (s.syncVal obj - v).toNat < 2 ^ 31 →
        Completes 0x54 src hdr n stOk (leBytes 4 (s.syncVal obj).toNat) out) ∧
      (owned = true → 2 ^ 31 ≤ (s.syncVal obj - v).toNat → 256 ≤ s.syncWaits →
        Completes 0x54 src hdr n stNoSyncObject [] out) ∧
      (owned = true → 2 ^ 31 ≤ (s.syncVal obj - v).toNat → s.syncWaits < 256 →
        Waits s 0x54 src hdr { n with waiters := s.waiters ++ [.steward obj v s.nextCmd] }
          (.sync obj (if limit = 0 then none else some (s.now + limit))) out)) ∧
    (Taken s 0x55 fenceSpec src hdr b →
      let out := exec (.fence src hdr b) s
      let ids := (s.before src hdr.part.val).filter (fun i => decide (i < s.nextCmd))
      (ids = [] → Completes 0x55 src hdr n stOk [] out) ∧ (ids ≠ [] → Waits s 0x55 src hdr n (.fence ids) out))) ∧
  (∀ (c : Cmd) (obj T : Nat) (s : State), s.cmds.find? (·.id == c.id) = some c → c.wait = .sync obj (some T) →
    (s.now < T → exec (.waitSyncTimeout c.id) s = .next s) ∧
    (T ≤ s.now → ∃ w, exec (.waitSyncTimeout c.id) s =
      .next ({ s with waiters := w }.ended c stEmpty (leBytes 4 (s.syncVal obj).toNat)) ∧
      ∀ x, x ∈ w ↔ x ∈ s.waiters ∧ ∀ o t, x ≠ .steward o t c.id))

/-! ### Commands of the security engine -/

/-- The six commands of the security chapter at their start: each refusal completes with its status and changes nothing; a
later window of a report or manifest answers from the kept result; PROVENANCE waits for lane 1 of the SHAKE engine and
anything else for lane 0, behind the commands before it; an UNLOCK_DEBUG that passes its fields ends the challenge's
validity and, of OP 1, carries it. -/
def Obligations.SecurityCommands : Prop :=
  ∀ (src : Src) (hdr : Hdr) (b : Bytes) (s : State),
    let n := s.accepted src
    let x := s.part hdr.part.val
    let lane (op : Nat) (carry : Bytes) (out : Outcome) : Prop :=
      Waits s op src hdr { n with lane0 := s.lane0 ++ [s.nextCmd] } (.lane op (b ++ carry)) out
    let windowed (op : Nat) (out : Outcome) : Prop :=
      let res := s.keptResult src op
      let off := fieldAt b 0 4
      let w := (res.drop off).take (resultLimit src)
      (res.length ≤ off → Completes op src hdr n stEmpty [] out) ∧
      (off < res.length → out = .next ((n.reply src op hdr.tag hdr.part.val stOk w
        (decide (off + w.length < res.length))).settleFences))
    (Taken s 0x70 attestSpec src hdr b →
      let out := exec (.attest src hdr b) s
      let all := bitOf (fieldAt b 4 1) 0
      (all = true → deviceSource src = false → Completes 0x70 src hdr n stNotPermitted [] out) ∧
      ((all = true → deviceSource src = true) → fieldAt b 0 4 ≠ 0 → windowed 0x70 out) ∧
      ((all = true → deviceSource src = true) → fieldAt b 0 4 = 0 →
        lane 0x70 (n.attestBody (if all then s.partIds else [hdr.part.val]) all (slice b 8 32)) out)) ∧
    (Taken s 0x71 packageSpec src hdr b →
      let out := exec (.verifyPackage src hdr b) s
      (1 < fieldAt b 0 1 → Completes 0x71 src hdr n stBadField [] out) ∧
      (fieldAt b 0 1 ≤ 1 → x.owner = none → Completes 0x71 src hdr n stWrongState [] out) ∧
      (fieldAt b 0 1 ≤ 1 → x.owner ≠ none → lane 0x71 x.ownerBytes out)) ∧
    (Taken s 0x72 ownerKeySpec src hdr b →
      let out := exec (.registerOwnerKey src hdr b) s
      let fields := fieldAt b 1 1 ≤ 2 ∧ allZero ((b.drop 16).drop (keyBytes (fieldAt b 1 1))) = true ∧
        (x.owner = none ↔ fieldAt b 8 5 = 0)
      let recorded := ∃ i m, (i, some m) ∈ s.images ∧ m.part = hdr.part.val
      (¬ fields → Completes 0x72 src hdr n stBadField [] out) ∧
      (fields → bitOf (fieldAt b 0 1) 0 = true → recorded → Completes 0x72 src hdr n stWrongState [] out) ∧
      (fields → (bitOf (fieldAt b 0 1) 0 = false ∨ ¬ recorded) → lane 0x72 x.ownerBytes out)) ∧
    (Taken s 0x73 patchSpec src hdr b →
      let out := exec (.installPatch src hdr b) s
      let len := fieldAt b 8 4
      ((len = 0 ∨ 2 ^ 20 < len) → Completes 0x73 src hdr n stBadField [] out) ∧
      (0 < len → len ≤ 2 ^ 20 → x.exists_ = false → Completes 0x73 src hdr n stWrongState [] out) ∧
      (0 < len → len ≤ 2 ^ 20 → x.exists_ = true → lane 0x73 [] out)) ∧
    (Taken s 0x74 provenanceSpec src hdr b →
      let out := exec (.provenance src hdr b) s
      let e := s.entry (fieldAt b 4 2)
      (fieldAt b 0 4 ≠ 0 → windowed 0x74 out) ∧
      (fieldAt b 0 4 = 0 → s.foreignStream hdr.part.val (fieldAt b 4 2) = true →
        Completes 0x74 src hdr n stNotPermitted [] out) ∧
      (fieldAt b 0 4 = 0 → s.foreignStream hdr.part.val (fieldAt b 4 2) = false →
        (e.status = .closed → Completes 0x74 src hdr n stWrongState [] out) ∧
        (e.status ≠ .closed → Waits s 0x74 src hdr { n with lane1 := s.lane1 ++ [s.nextCmd] }
          (.lane 0x74 (b ++ leBytes 4 (e.prov.frames + e.prov.waiting.length))) out))) ∧
    (Taken s 0x75 unlockSpec src hdr b →
      let out := exec (.unlockDebug src hdr b) s
      (1 < fieldAt b 0 1 → Completes 0x75 src hdr n stBadField [] out) ∧
      let u := { n with challenge := none }
      let alone := x.exists_ = true ∧ ∀ q ∈ s.partIds, q = hdr.part.val
      let unlocks (carry : Bytes) : Prop :=
        Waits s 0x75 src hdr { u with lane0 := s.lane0 ++ [s.nextCmd] } (.lane 0x75 (b ++ carry)) out
      (fieldAt b 0 1 = 0 → (s.entropyFail = true → Completes 0x75 src hdr u stUnitFailed [] out) ∧
        (s.entropyFail = false → unlocks [])) ∧
      (fieldAt b 0 1 = 1 → (s.challenge = none ∨ ¬ alone) → Completes 0x75 src hdr u stWrongState [] out) ∧
      (∀ ch, fieldAt b 0 1 = 1 → s.challenge = some ch → alone → unlocks ch))

/-! ### The hash lanes, provenance and the entropy source -/

/-- A lane of the SHAKE engine finishes its first command and turns to the next still in progress. A verified package is
recorded and its digest returned; a verified key replaces the owner key; a newer signed patch is installed; OP 0 of
UNLOCK_DEBUG draws a challenge, and an envelope signed over it unlocks debug; a failed envelope is counted in
SEC.VERIFY_FAIL. -/
def Claims.ShakeLane : Prop :=
  ∀ (c : Cmd) (b : Bytes) (s : State), c.opcode ≠ 0x74 →
    (s.lane0.filterMap fun id => s.cmds.find? (·.id == id)).head? = some c → c.wait = .lane c.opcode b →
    let ends (u : State) (st : BitVec 16) (res : Bytes) : Prop := exec .shakeLaneDone s =
      .next { (u.ended c st res) with
        lane0 := (s.lane0.filterMap fun id => s.cmds.find? (·.id == id)).tail.map (·.id) }
    let p := s.part c.part
    let verdict (u : State) (A : Nat) (claim : Claim) (ok : State → Prop) : Prop :=
      let e := u.readEnv p A
      (∀ st, envCheck p A claim e.2.1 e.2.2 = some st → ends (e.1.bump (secBase + 8) 0 32 1) st []) ∧
      (envCheck p A claim e.2.1 e.2.2 = none → ok e.1)
    let content (u : State) (A n : Nat) : State × Bytes × List Nat :=
      if p.inside A n then u.readPart p .normal A n else (u, [], [])
    (c.opcode = 0x71 →
      let A := fieldAt b 8 5
      let n := fieldAt b 16 8
      let rd := content s A n
      let d := digest rd.2.1
      let keep := fieldAt b 0 1 = 0 ∧ p.packages.length < 64
      verdict rd.1 (fieldAt b 24 5) { kind := 2, len := n, content := rd.2.1, outside := !p.inside A n,
                                      bad := !rd.2.2.isEmpty, signer := carriedKey b 32 } fun u =>
        (keep → ends (u.modPart c.part fun x => { x with packages := p.packages ++ [d] }) stOk
          (d ++ leBytes 1 1 ++ leBytes 3 0)) ∧
        (¬ keep → ends u stOk (d ++ leBytes 1 0 ++ leBytes 3 0))) ∧
    (c.opcode = 0x72 →
      let key := (fieldAt b 1 1, slice b 16 64)
      let registers (u : State) : Prop := ends (u.modPart c.part fun x =>
        { x with owner := some key, signedOnly := x.signedOnly || bitOf (fieldAt b 0 1) 0 }) stOk []
      (carriedKey b 80 = none → registers s) ∧
      (∀ k, carriedKey b 80 = some k → verdict s (fieldAt b 8 5)
        { kind := 1, len := 65, content := keyRecord key.1 key.2, signer := some k } registers)) ∧
    (c.opcode = 0x73 →
      let A := fieldAt b 0 5
      let n := fieldAt b 8 4
      let env := fieldAt b 16 5
      let ch := s.readChain p (fieldAt b 24 5) (fieldAt b 32 4)
      (∀ st, ch.2 = .inl st → ends ch.1 st []) ∧
      (∀ k, ch.2 = .inr k →
        let rd := content ch.1 A n
        verdict rd.1 env { kind := 0, len := n, content := rd.2.1, outside := !p.inside A n, bad := !rd.2.2.isEmpty,
                           signer := some k } fun u =>
          let version := BitVec.ofNat 32 (leNat (s.partBytes p (env + 16) 4))
          (version ≤ s.patchVersion → ends u stNotPermitted []) ∧
          (s.patchVersion < version →
            ends { u with patchVersion := version, patchDigest := digest rd.2.1 } stOk []))) ∧
    (c.opcode = 0x75 →
      (fieldAt b 0 1 = 0 →
        (s.entropyFail = true → ends s stUnitFailed []) ∧
        (s.entropyFail = false →
          let ch := leBytes 16 s.draw.1.toNat ++ leBytes 16 s.draw.2.draw.1.toNat
          ends { s.draw.2.draw.2 with challenge := some ch } stOk ch)) ∧
      (fieldAt b 0 1 ≠ 0 →
        let ch := s.readChain p (fieldAt b 12 5) (fieldAt b 20 4)
        (∀ st, ch.2 = .inl st → ends ch.1 st []) ∧
        (∀ k, ch.2 = .inr k → verdict ch.1 (fieldAt b 4 5)
          { kind := 4, len := 0, content := [], signer := some k, nonce := some (b.drop 24) } fun u =>
            ends { u with debug := true } stOk [])))

/-- Lane 0 ends LOAD_IMAGE: the image is checked again, its signature too in a signed-only partition, and it is recorded
under the lowest free id with its digest, which are returned. It ends ADMIT_CONTEXT: the places and the digest are
checked again, and the context takes the lowest free id and the lowest free share of each mapped core, which prepares
it; the halo objects are 0, and the command waits for the cores. -/
def Claims.ImageLaneEnds : Prop :=
  ∀ (c : Cmd) (b : Bytes) (s : State),
    (s.lane0.filterMap fun id => s.cmds.find? (·.id == id)).head? = some c → c.wait = .lane c.opcode b →
    let turned (u : State) : State := { u with
      lane0 := (s.lane0.filterMap fun id => s.cmds.find? (·.id == id)).tail.map (·.id) }
    let out := exec .shakeLaneDone s
    let ends (u : State) (st : BitVec 16) (res : Bytes) : Prop := out = .next (turned (u.ended c st res))
    let p := s.part c.part
    let image (i : Nat) : Option Image := s.image (256 * c.part + i)
    (c.opcode = 0x20 →
      let A := fieldAt b 8 5
      let n := fieldAt b 16 8
      let rd := s.readPart p .normal A n
      let d := digest rd.2.1
      let records (u : State) : Prop :=
        ((∀ i, i < 256 → image i ≠ none) → ends u stPartitionFull []) ∧
        (∀ i, i < 256 → image i = none → (∀ k, k < i → image k ≠ none) →
          ends (u.setImage (256 * c.part + i) (some { part := c.part, addr := A, bytes := n, digest := d })) stOk
            (leBytes 4 i ++ d))
      (∀ st, imageCheck rd.2.1 n = some st → ends rd.1 st []) ∧
      (imageCheck rd.2.1 n = none → carriedSigned b 24 = false →
        (rd.2.2 ≠ [] → ends rd.1 stEccUncorrectable []) ∧ (rd.2.2 = [] → records rd.1)) ∧
      (imageCheck rd.2.1 n = none → carriedSigned b 24 = true →
        let e := rd.1.readEnv p (imageEnv A n)
        let claim : Claim := { kind := 3, len := n, content := rd.2.1, bad := !rd.2.2.isEmpty, signer := carriedKey b 24 }
        (∀ st, envCheck p (imageEnv A n) claim e.2.1 e.2.2 = some st → ends (e.1.bump (secBase + 8) 0 32 1) st []) ∧
        (envCheck p (imageEnv A n) claim e.2.1 e.2.2 = none → records e.1))) ∧
    (c.opcode = 0x21 →
      let i := fieldAt b 0 2
      (image i = none → ends s stBadField []) ∧
      (∀ x, image i = some x →
        let rd := s.readPart (s.part x.part) .normal x.addr x.bytes
        let m := imgMap rd.2.1
        (∀ st, s.placeCheck c.part rd.2.1 = some st → ends rd.1 st []) ∧
        (s.placeCheck c.part rd.2.1 = none →
          (rd.2.2 ≠ [] → ends rd.1 stEccUncorrectable []) ∧
          (rd.2.2 = [] → digest rd.2.1 ≠ x.digest → ends rd.1 stSignatureInvalid []) ∧
          (rd.2.2 = [] → digest rd.2.1 = x.digest →
            ((∀ k, k < 256 → s.ctx k ≠ none) → ends rd.1 stPartitionFull []) ∧
            (∀ k, k < 256 → s.ctx k = none → (∀ l, l < k → s.ctx l ≠ none) →
              let a := rd.1.admitCtx c.part i k x rd.2.1 b
              let borrow := if fieldAt b 3 1 = 255 ∨ 128 < fieldAt b 3 1 then 32 else fieldAt b 3 1
              let starve := if fieldAt b 4 2 = 0 then 100 else fieldAt b 4 2
              out = .next (turned { a with
                cmds := a.cmds.map fun y => if y.id == c.id then { y with wait := .admission k } else y }) ∧
              a.ctx k = some { part := c.part, image := i, digest := x.digest,
                               cores := m.map fun e => (e.core, (s.freeShare e.core).getD 0),
                               weight := fieldAt b 2 1, borrow := borrow, starve := starve } ∧
              (∀ y ∈ allHalos rd.2.1, a.syncVal y.2.data = 0 ∧ a.syncVal y.2.free = 0) ∧
              ((m.map MapEntry.core).Nodup → ∀ e l, (e, l) ∈ m.zipIdx →
                let h := a.share e.core ((s.freeShare e.core).getD 0)
                h.ctx = some k ∧ h.live = false ∧ h.logical = l ∧ h.pc = 0 ∧
                h.program = programWords rd.2.1 (imgHead rd.2.1) e.prog ∧
                h.scratch = (dataSections rd.2.1 (imgHead rd.2.1) e).foldl (fun z d => writeBytes z d.1 d.2) []))))))

/-- A lane ends ATTEST (lane 0) or PROVENANCE (lane 1, once every frame that the manifest covers is hashed): the report or
manifest is signed, SEC.SIGNATURES counts it, it is kept for later windows, and its first window is returned, with
TRUNC when more follows. That PROVENANCE_HASH ends a PROVENANCE is the model's choice (log entry 107). -/
def Claims.SigningLaneEnds : Prop :=
  ∀ (c : Cmd) (b : Bytes) (s : State), c.wait = .lane c.opcode b →
    let signs (u : State) (rest : State → State) (report : Bytes) (out : Outcome) : Prop :=
      let sig := slhSign (otp 64 Config.idSeed) ((otp 48 Config.idPk).drop 24) report
      let res := report ++ sig
      let w := res.take (resultLimit c.src)
      let v := (u.bump (secBase + 4) 0 32 1).keepResult c.src c.opcode res
      (report ≠ [] → w.length < res.length → out = .next (rest (({ v with cmds := v.cmds.filter (·.id != c.id) }.reply c.src c.opcode c.tag
        c.part stOk w true).settleFences))) ∧
      (report ≠ [] → w.length = res.length → out = .next (rest (v.ended c stOk w)))
    (c.opcode = 0x70 → (s.lane0.filterMap fun id => s.cmds.find? (·.id == id)).head? = some c →
      signs s (fun u => { u with lane0 := (s.lane0.filterMap fun id => s.cmds.find? (·.id == id)).tail.map (·.id) })
        (b.drop 40) (exec .shakeLaneDone s)) ∧
    (s.lane0 = [] → exec .shakeLaneDone s = .next s) ∧
    (c.opcode = 0x74 → (s.lane1.filterMap fun id => s.cmds.find? (·.id == id)).head? = some c →
      ∀ i : Fin 4096, fieldAt b 4 2 = i.val →
        let v := (s.entry i.val).prov
        let m := s.manifest i.val (slice b 8 32)
        (v.waiting = [] ∨ fieldAt b 40 4 ≤ v.frames) →
          signs m.2 (fun u => { u with lane1 := (s.lane1.filterMap fun id => s.cmds.find? (·.id == id)).tail.map (·.id) })
            m.1 (exec (.provenanceHash i) s))

/-- Unless the first PROVENANCE of its lane waits for nothing more of the stream, lane 1 hashes a waiting frame into the
stream's chain digest, and does nothing where none waits; a failing entropy source stops and is counted, and a passing
retest clears it. -/
def Claims.ProvenanceAndEntropy : Prop :=
  (∀ (i : Fin 4096) (s : State),
    let v := (s.entry i.val).prov
    let due : Prop := ∃ (c : Cmd) (op : Nat) (b : Bytes),
      (s.lane1.filterMap fun id => s.cmds.find? (·.id == id)).head? = some c ∧ c.wait = .lane op b ∧
      fieldAt b 4 2 = i.val ∧ (v.waiting = [] ∨ fieldAt b 40 4 ≤ v.frames)
    (¬ due → v.waiting = [] → exec (.provenanceHash i) s = .next s) ∧
    (∀ (pos : Nat) (samples : Bytes) (time : Time) (rest : List (Nat × Bytes × Time)), ¬ due →
      v.waiting = (pos, samples, time) :: rest →
      exec (.provenanceHash i) s = .next (s.setEntry i.val { s.entry i.val with
        prov := { v with chain := digest (v.chain ++ leBytes 4 pos ++ samples), frames := v.frames + 1, endTime := time,
                         endPos := pos + 1, waiting := rest } }))) ∧
  (∀ s : State, ∃ t, exec .entropyHealthFail s = .next t ∧ t.entropyFail = true ∧
    fld (t.reg 0x07000C).toNat 0 16 = min (fld (s.reg 0x07000C).toNat 0 16 + 1) 0xFFFF ∧
    { t with entropyFail := s.entropyFail, regs := s.regs } = s ∧ ∀ a, a ≠ 0x07000C → t.reg a = s.reg a) ∧
  (∀ s : State, exec (.entropyRetest true) s = .next { s with entropyFail := false } ∧
    exec (.entropyRetest false) s = .next s)

/-- The hash lanes, provenance and the entropy source: the conjunction of the parts above. -/
def Obligations.SecurityLanes : Prop :=
  Claims.ShakeLane ∧ Claims.ImageLaneEnds ∧ Claims.SigningLaneEnds ∧ Claims.ProvenanceAndEntropy

/-! ### MOVE_STREAM and the Steward commands of a move -/

/-- MOVE_RESERVE, MOVE_OPEN and MOVE_RELEASE are taken only from a Steward that the partition admits. RESERVE holds the
lowest free entry with the stream's fields and returns its number; OPEN, once the copy is complete and correct, makes
the entry PARKED with the fields sent; RELEASE, and 1 s without an end, free the entry. No entry but the one concerned
and no memory changes. -/
def Claims.MoveStewardCommands : Prop :=
  (∀ (src : Src) (hdr : Hdr) (b : Bytes) (s : State),
    let n := s.accepted src
    let p := hdr.part.val
    let steward (d : BitVec 12) : Prop := src = .dev d ∧ 0xF000 ≤ hdr.tag.toNat ∧
      ((s.part p).exists_ = false ∨ (s.part p).sources = [] ∨ d ∈ (s.part p).sources)
    let common (op : Nat) (out : Outcome) : Prop :=
      ((∀ d, ¬ steward d) → Completes op src hdr n stNotPermitted [] out) ∧
      ((∃ d, steward d) → (s.part p).exists_ = false → Completes op src hdr n stWrongState [] out)
    let i := fieldAt b 0 2
    let e := s.entry i
    let freed := n.setEntry i { e with held := false, reserved := none, part := none }
    (Taken s 0xF0 moveReserveSpec src hdr b →
      let out := exec (.moveReserve src hdr b) s
      let a := openArgs b
      common 0xF0 out ∧ (∀ d, steward d → (s.part p).exists_ = true →
        (∀ st, n.openChecks p a = some st → Completes 0xF0 src hdr n st [] out) ∧
        (n.openChecks p a = none →
          (n.stateOverlap p a.state a.size true = true → Completes 0xF0 src hdr n stStateBusy [] out) ∧
          (n.stateOverlap p a.state a.size true = false →
            (n.freeEntry p = none → Completes 0xF0 src hdr n stNoStreamEntry [] out) ∧
            (∀ k, n.freeEntry p = some k →
              (a.init ≠ a.state → Completes 0xF0 src hdr n stBadField [] out) ∧
              (a.init = a.state → Completes 0xF0 src hdr
                (n.setEntry k { a.entry p with held := true, reserved := some { tag := hdr.tag, src := d } })
                stOk (leBytes 4 k) out)))))) ∧
    (Taken s 0xF1 moveOpenSpec src hdr b →
      let out := exec (.moveOpen src hdr b) s
      let f := moveFieldsOf b
      common 0xF1 out ∧ (∀ d, steward d → (s.part p).exists_ = true →
        (s.holdsReserve p i d = none → Completes 0xF1 src hdr n stWrongState [] out) ∧
        (∀ v, s.holdsReserve p i d = some v → (e.iqDepth < f.fill ∨ ∃ j, j < 3 ∧ 16 < fld f.cq (9 * j) 5) →
          Completes 0xF1 src hdr freed stBadField [] out) ∧
        (∀ v, s.holdsReserve p i d = some v → f.fill ≤ e.iqDepth → (∀ j, j < 3 → fld f.cq (9 * j) 5 ≤ 16) →
          (v.bad = true → Completes 0xF1 src hdr freed stEccUncorrectable [] out) ∧
          (v.bad = false → e.copied v f = false → Completes 0xF1 src hdr freed stLinkCrc [] out) ∧
          (∀ st, v.bad = false → e.copied v f = true → (n.movedCheck i).2 = some st → Completes 0xF1 src hdr
            ((n.movedCheck i).1.setEntry i { e with held := false, reserved := none, part := none }) st [] out) ∧
          (v.bad = false → e.copied v f = true → (n.movedCheck i).2 = none → ∃ u, Completes 0xF1 src hdr u stOk [] out ∧
            u.mem = s.mem ∧ (∀ k, k ≠ i → u.entry k = s.entry k) ∧ (u.entry i).status = .parked ∧
            (u.entry i).held = false ∧ (u.entry i).pos = f.pos ∧ (u.entry i).step = f.step ∧
            (u.entry i).iqCount = f.fill ∧ (u.entry i).chunk = BitVec.ofNat 32 f.chunk ∧ (u.entry i).owner = f.owner ∧
            (u.entry i).resetPend = f.resetPend ∧ (u.entry i).credits = e.iqDepth - f.fill ∧
            (u.entry i).state = e.state)))) ∧
    (Taken s 0xF2 moveReleaseSpec src hdr b →
      let out := exec (.moveRelease src hdr b) s
      common 0xF2 out ∧ (∀ d, steward d → (s.part p).exists_ = true →
        (s.holdsReserve p i d = none → Completes 0xF2 src hdr n stWrongState [] out) ∧
        (∀ v, s.holdsReserve p i d = some v → Completes 0xF2 src hdr freed stOk [] out)))) ∧
  (∀ (i : Fin 4096) (s : State),
    ((s.entry i.val).reserved = none → exec (.reservationTimeout i) s = .next s) ∧
    ((s.entry i.val).reserved ≠ none → exec (.reservationTimeout i) s = .next (s.setEntry i.val
      { s.entry i.val with held := false, reserved := none, part := none })))

/-- MOVE_STREAM: a stream of another partition, not PARKED, or already moving is refused, changing nothing. Within its
partition it copies the state to its new place, byte for byte, and replaces the place and the chain; to another
partition of the device the destination is checked as MOVE_RESERVE checks it; to another device the stream is marked
MOVING, MOVE_RESERVE goes out and the command waits. -/
def Claims.MoveStreamCommand : Prop :=
  ∀ (src : Src) (hdr : Hdr) (b : Bytes) (s : State), Taken s 0x33 moveStreamSpec src hdr b →
    let n := s.accepted src
    let p := hdr.part.val
    let i := fieldAt b 0 2
    let e := s.entry i
    let here := destDev b = s.net.id
    let inPlace := here ∧ destPart b = hdr.part
    let r := s.request 0x33 src hdr b
    let out := exec (.moveStream src hdr b) s
    (¬ inPlace → (newChain b = false ∨ newState b = false) → Completes 0x33 src hdr n stBadField [] out) ∧
    ((¬ inPlace → newChain b = true ∧ newState b = true) →
      (s.foreignStream p i = true → Completes 0x33 src hdr n stNotPermitted [] out) ∧
      (s.foreignStream p i = false →
        (e.status ≠ .parked → Completes 0x33 src hdr n stWrongState [] out) ∧
        (e.status = .parked → e.moving = true → Completes 0x33 src hdr n stStateBusy [] out) ∧
        (e.status = .parked → e.moving = false → here → (s.part (destPart b).val).exists_ = false →
          Completes 0x33 src hdr n stWrongState [] out) ∧
        (e.status = .parked → e.moving = false → (here → (s.part (destPart b).val).exists_ = true) →
          ((newChain b = true ∧ (chainOf (fieldAt b 8 4)).length ≠ e.links ∧ e.cqHolds = true) →
            Completes 0x33 src hdr n stBadField [] out) ∧
          (¬ (newChain b = true ∧ (chainOf (fieldAt b 8 4)).length ≠ e.links ∧ e.cqHolds = true) →
            (¬ here → ∃ u, Waits s 0x33 src hdr u (.transfer i b 0 (moveTag s.nextCmd 0) 0 0) out ∧ u.mem = s.mem ∧
              (∀ k, u.entry k = if k = i then { e with moving := true } else s.entry k)) ∧
            (here → ¬ inPlace → s.admits (destPart b).val (.dev s.net.id) = false →
              Completes 0x33 src hdr n stNotPermitted [] out) ∧
            (here → ¬ inPlace → s.admits (destPart b).val (.dev s.net.id) = true →
              (∀ st, n.reservePlace (destPart b).val (moveArgs e b) = .inl st → Completes 0x33 src hdr n st [] out) ∧
              (∀ k, n.reservePlace (destPart b).val (moveArgs e b) = .inr k → ∃ u st res,
                n.moveLocal r i (destPart b).val = .done u st res ∧ Completes 0x33 src hdr u st res out ∧
                (st = stOk → res = leBytes 4 k) ∧ (st ≠ stOk → st = stEccUncorrectable ∨ st = stBadField))) ∧
            (inPlace →
              let ck := n.inPlaceChecks r i
              (∀ st, ck.2 = some st → Completes 0x33 src hdr ck.1 st [] out) ∧
              (ck.2 = none → newState b = false → Completes 0x33 src hdr (ck.1.setEntry i
                { e with context := moveCtx e b, chain := moveChain e b }) stOk (leBytes 4 i) out) ∧
              (ck.2 = none → newState b = true →
                let P := s.part p
                let rd := ck.1.readPart P .normal e.state.toNat e.stateSize.toNat
                let wr := rd.1.writeWholly P .normal (fieldAt b 16 5) rd.2.1
                rd.2.1 = (List.range e.stateSize.toNat).map (fun k => s.byteAt (P.phys (e.state.toNat + k))) ∧
                (rd.2.2 ≠ [] → Completes 0x33 src hdr rd.1 stEccUncorrectable [] out) ∧
                (rd.2.2 = [] → wr.2 = true → Completes 0x33 src hdr wr.1 stEccUncorrectable [] out) ∧
                (rd.2.2 = [] → wr.2 = false →
                  (∀ a, (∀ k, k < e.stateSize.toNat → P.phys (fieldAt b 16 5 + k) ≠ a) → wr.1.byteAt a = s.byteAt a) ∧
                  let x := { e with context := moveCtx e b, chain := moveChain e b }
                  Completes 0x33 src hdr (wr.1.setEntry i { x with state := BitVec.ofNat 40 (fieldAt b 16 5) }) stOk
                    (leBytes 4 i) out)))))))

/-- MOVE_STREAM and the Steward commands of a move: the conjunction of the parts above. -/
def Obligations.MoveCommands : Prop :=
  Claims.MoveStewardCommands ∧ Claims.MoveStreamCommand

/-! ### Composing a Docket and committing an entry -/

/-- A builder visits its eight Ropewalks in turn. It composes nothing for one that is not defined, has no waiting take,
has its limit in flight, or has no ready stream; else it composes one Docket of the most urgent ready streams, at most
BMAX, numbered by the Ropewalk's sequence and stamped with the counter. -/
def Claims.DocketComposition : Prop :=
  ∀ (b : Fin 8) (s : State),
    let k := Tbl.get 0 s.builders b.val
    let r := 8 * k + b.val
    let v := { s with builders := Tbl.set 0 s.builders b.val ((k + 1) % 8) }
    let cand := v.candidates r
    (s.rope r = none → exec (.docketBuilderVisit b) s = .next v) ∧
    (∀ rp, s.rope r = some rp →
      ((v.mayCompose r rp = false ∨ cand = []) → exec (.docketBuilderVisit b) s = .next v) ∧
      (v.mayCompose r rp = true → cand ≠ [] → ∃ t d, exec (.docketBuilderVisit b) s = .next t ∧
        t.dockets = s.dockets ++ [d] ∧ d.rope = r ∧ d.seq = rp.seq ∧ d.builder = b.val ∧ d.time = s.tb.count ∧
        d.entries.length = min rp.bmax cand.length ∧ (∀ x ∈ d.entries, x ∈ cand) ∧
        d.entries.Pairwise (fun x y => candLess rp.rot y x = false) ∧
        (∀ y ∈ cand, y ∉ d.entries → ∀ x ∈ d.entries, candLess rp.rot y x = false) ∧
        (∃ rot, t.rope r = some { rp with seq := rp.seq + 1, rot := rot } ∧
          ∀ x, d.entries.getLast? = some x → rot = (x.stream + 1) % 4096) ∧
        t.mem = s.mem ∧ t.cores = s.cores ∧ (∀ q, q ≠ r → t.rope q = s.rope q)))

/-- A returned, unresolved entry of a Docket: dropped, it resolves without commit; a last link with samples waits for its
pending step. Else it commits: the stores made for it are written to its state and no other byte but its ring's
changes; an inner link moves one frame on to the next chain queue; the last link advances OR_WR by SAMPLES and uses up
the pending step, and at FRAME or the last step the frame is consumed, POS advances and STEP restarts. Where a line
with an uncorrectable error would refuse its part of the commit, nothing is committed and the stream is FAULTED with
ECC_UNCORRECTABLE (log entry 105). -/
def Claims.EntryCommit : Prop :=
  ∀ (rw : Fin 64) (seq : Word) (k : Fin 128) (rp : Rope) (d : Docket) (x : DEntry) (s : State),
    s.rope rw.val = some rp → s.docket rw.val seq = some d → d.entries[k.val]? = some x → x.resolved = false →
    x.returned ≠ none →
    let i := x.stream
    let e := s.entry i
    let p := s.part (e.part.getD 0)
    let last := x.link + 1 = e.links
    let out := exec (.entryCommit rw seq k) s
    ((x.dropped = true ∨ e.status = .closed) → out = .next (s.resolveEntry rw.val seq k.val)) ∧
    (x.dropped = false → e.status ≠ .closed → e.fault ≠ 0 →
      out = .next ((if x.link + 1 = e.links then s.dropPend i else s).resolveEntry rw.val seq k.val)) ∧
    (x.dropped = false → e.status ≠ .closed → e.fault = 0 → last → 0 < rp.samples → e.pend = none → out = .next s) ∧
    (x.dropped = false → e.status ≠ .closed → e.fault = 0 → e.part ≠ none →
      (last → e.pend ≠ none ∨ rp.samples = 0) → s.refusingLines rp x ≠ [] →
      ∃ u : State, out = .next (u.resolveEntry rw.val seq k.val) ∧ u.mem = s.mem ∧
        (∀ j, j ≠ i → u.entry j = s.entry j) ∧
        u.entry i = { e with fault := stEccUncorrectable, status := .faulted, urgent := false, pend := none,
                             parking := false }) ∧
    (x.dropped = false → e.status ≠ .closed → e.fault = 0 → e.part ≠ none → ¬ last → s.refusingLines rp x = [] →
      ∃ u : State, out = .next (u.resolveEntry rw.val seq k.val) ∧
      (∀ a, (∀ st ∈ x.stores, ∀ j, j < st.2.length → p.phys (x.state.toNat + st.1 + j) ≠ a) → u.byteAt a = s.byteAt a) ∧
      (u.entry i).commits = e.commits + 1 ∧
      (u.entry i).cq = ((e.consume x.link).produce x.link (e.frontMark x.link)).cq ∧
      (u.entry i).iqCount = (e.consume x.link).iqCount ∧ (u.entry i).credits = (e.consume x.link).credits ∧
      (u.entry i).pos = e.pos ∧ (u.entry i).step = e.step ∧ (u.entry i).orWr = e.orWr ∧ (u.entry i).pend = e.pend) ∧
    (x.dropped = false → e.status ≠ .closed → e.fault = 0 → e.part ≠ none → last → (e.pend ≠ none ∨ rp.samples = 0) →
      s.refusingLines rp x = [] →
      e.pos + 1 < posLimit → ∃ u : State, out = .next (u.resolveEntry rw.val seq k.val) ∧
      (∀ a, (∀ st ∈ x.stores, ∀ j, j < st.2.length → p.phys (x.state.toNat + st.1 + j) ≠ a) →
        (∀ m, m < rp.samples → ∀ j, j < e.sampleBytes →
          p.phys (e.sampleAddr (e.orWr + BitVec.ofNat 32 m).toNat + j) ≠ a) → u.byteAt a = s.byteAt a) ∧
      (u.entry i).commits = e.commits + 1 ∧ (u.entry i).orWr = e.orWr + BitVec.ofNat 32 rp.samples ∧
      (u.entry i).pend = none ∧
      ((x.returned = some true ∨ rp.steps ≤ e.step + 1) →
        (u.entry i).pos = e.pos + 1 ∧ (u.entry i).step = 0 ∧ (u.entry i).iqCount = (e.consume x.link).iqCount) ∧
      (¬ (x.returned = some true ∨ rp.steps ≤ e.step + 1) →
        (u.entry i).pos = e.pos ∧ (u.entry i).step = min (e.step + 1) 0xFFFF ∧ (u.entry i).iqCount = e.iqCount))

/-- Composing a Docket and committing an entry: the conjunction of the parts above. -/
def Obligations.Dockets : Prop :=
  Claims.DocketComposition ∧ Claims.EntryCommit

/-! ### Stream input fragments and credits -/

/-- A stream input fragment: one that continues its chunk rightly lands in slot IQ_WR, and LAST makes the chunk present;
any other ends its chunk, which is discarded and counted once, as does one whose partition is not the stream's. One
that a line refuses (R99) ends its chunk and faults the stream (log entry 105). -/
def Claims.StreamInputFragments : Prop :=
  ∀ (port : Fin 3) (part : Fin 16) (vc : Nat) (b : Bytes) (s : State),
    let f := fragmentOf b
    let e := s.entry f.stream
    let p := s.part (e.part.getD 0)
    let out := exec (.streamInputFragment port part vc b) s
    let closed := e.status = .closed ∨ e.status = .draining
    let accepts (got : Nat) (mark : Bool) : Prop :=
      let w := s.writeWholly p .normal (e.iqBase.toNat + e.iqWr * e.slotBytes + got) f.data
      (w.2 = true → w.1.mem = s.mem ∧
        out = .next ((w.1.endChunk port.val f).faultStream f.stream stEccUncorrectable)) ∧
      (w.2 = false → ∃ t, out = .next t ∧
        (∀ a, (∀ j, j < f.data.length → p.phys (e.iqBase.toNat + e.iqWr * e.slotBytes + got + j) ≠ a) →
          t.byteAt a = s.byteAt a) ∧
        (∀ k, k ≠ f.stream → t.entry k = s.entry k) ∧
        (f.last = false →
          t.entry f.stream = { e with partialChunk := some (vc, got + f.data.length, mark), badChunk := none }) ∧
        (f.last = true → (t.entry f.stream).iqCount = e.iqCount + 1 ∧ (t.entry f.stream).chunk = e.chunk + 1 ∧
          (t.entry f.stream).iqWr = (e.iqWr + 1) % e.iqDepth ∧ (t.entry f.stream).marks = e.marks ++ [mark] ∧
          (t.entry f.stream).partialChunk = none ∧ (t.entry f.stream).status ≠ .opened))
    let goesOn : Prop := f.first = false ∧ f.chunk = e.chunk ∧ ∃ got mark, e.partialChunk = some (vc, got, mark)
    (b.length < 16 → out = .next (s.bump (0x030000 + 0x100 * port.val + 0x1C) 0 32 1)) ∧
    (16 ≤ b.length →
      (e.belongs part.val = false → goesOn → out = .next (s.endChunk port.val f)) ∧
      (e.belongs part.val = false → ¬ goesOn →
        let u := if f.first = false ∧ e.badChunk = some f.chunk then s else s.chunkDiscard port.val f.stream
        out = .next (u.modEntry f.stream fun x => { x with badChunk := if f.last then none else some f.chunk })) ∧
      (e.belongs part.val = true → f.first = true → e.partialChunk = none →
        let good := ¬ closed ∧ e.iqCount < e.iqDepth ∧ f.chunk = e.chunk ∧ f.offset = 0 ∧ f.data.length ≤ e.slotBytes
        (good → accepts 0 f.mark) ∧ (¬ good → out = .next (s.endChunk port.val f))) ∧
      (e.belongs part.val = true → f.first = true → e.partialChunk ≠ none →
        out = exec (.streamInputFragment port part vc b) (s.endChunk port.val f)) ∧
      (e.belongs part.val = true → f.first = false →
        (e.partialChunk = none → e.badChunk ≠ some f.chunk → out = .next (s.endChunk port.val f)) ∧
        (e.partialChunk = none → e.badChunk = some f.chunk →
          out = .next (if f.last then s.modEntry f.stream fun x => { x with badChunk := none } else s)) ∧
        (∀ v got mark, e.partialChunk = some (v, got, mark) →
          let good := ¬ closed ∧ v = vc ∧ f.chunk = e.chunk ∧ f.offset = got ∧ got + f.data.length ≤ e.slotBytes
          (good → accepts got mark) ∧ (¬ good → out = .next (s.endChunk port.val f)))))

/-- Stream credits: nothing goes out while none are owed; else a 0x36 packet goes to each owner that credits are owed to,
and up to 0xFFFF of each stream's are paid. Memory does not change. -/
def Claims.StreamCredits : Prop :=
  (∀ s : State, (∀ x ∈ s.entries, x.2.credits = 0) → exec .streamCredit s = .next s) ∧
  (∀ s : State, s.Inv → (∀ x ∈ s.entries, x.1 < 4096) → ∃ t, exec .streamCredit s = .next t ∧ t.mem = s.mem ∧
    (∀ i, (t.entry i).credits = (s.entry i).credits - 0xFFFF) ∧
    (∀ i, 0 < (s.entry i).credits → (s.entry i).ownerSelf = false → (s.entry i).owner ≠ s.net.id →
      ∃ q ∈ t.net.ctl, q.1 = none ∧ q.2.dt = 0x36 ∧ q.2.dst = (s.entry i).owner))

/-- Stream input fragments and credits: the conjunction of the parts above. -/
def Obligations.StreamInput : Prop :=
  Claims.StreamInputFragments ∧ Claims.StreamCredits

/-! ### Draining a ring to an output, underruns, and AES3 frames sent (channel-status bits: log entry 31) -/

/-- One output sample period: a channel of a disabled output, at no instant of its clock mode, or with its word supplied,
drains nothing, as does a slot that has its frame's samples; at a ratio of 1 a stream's ring gives up its oldest
sample, converted to the output's word length, or, empty, counts an underrun and a slip, leaves the read index and
gives a zero marked invalid; a slot without a stream carries zeros with UNDER. No byte of memory changes. -/
def Claims.OutputDrains : Prop :=
  (∀ (c : Fin 16) (s : State),
    let u := s.applyDue (c.val / 2)
    let o := u.out (c.val / 2)
    let out := exec (.outputDrain (.aes c)) s
    let free := o.en = true ∧ u.frameFits (c.val / 2) = true ∧ (if c.val % 2 = 0 then o.a.set else o.b.set) = false
    (¬ free → out = .next u) ∧
    (free → u.channelLive c.val = none →
      out = .next (u.putWord c.val { muted := u.clockMuted o.clk.val || u.chanRange c.val })) ∧
    (∀ i, free → u.channelLive c.val = some i → (u.entry i).part ≠ none →
      (u.rhoOf (u.fOut o.clk.val) i).1 = (u.rhoOf (u.fOut o.clk.val) i).2 →
      let e := u.entry i
      ∃ t w, out = .next t ∧ t.mem = u.mem ∧ (∀ k, k ≠ i → t.entry k = u.entry k) ∧
        (t.out (c.val / 2)) = (if c.val % 2 = 0 then { o with a := w } else { o with b := w }) ∧
        (e.fill = 0 → (t.entry i).orRd = e.orRd ∧ (t.entry i).underruns = satAdd32 e.underruns 1 ∧
          (t.entry i).slip = satAdd32 e.slip 1 ∧ w = { word := 0, v := true, inserted := true, set := true }) ∧
        (e.fill ≠ 0 → (t.entry i).orRd = e.orRd + 1 ∧ (t.entry i).underruns = e.underruns ∧ (t.entry i).slip = e.slip ∧
          w = { word := aesWord o.wlen (ofAudio e.orFmt.toNat
            (leNat (u.partBytes (u.part (e.part.getD 0)) (e.sampleAddr e.orRd.toNat) e.sampleBytes))),
                v := false, set := true }))) ∧
  (∀ (g : Fin 16) (k : Fin 64) (s : State),
    let x := s.group g.val
    let out := exec (.outputDrain (.slot g k)) s
    let full := groupSamples x.clk.val s.frameF * audioBytes x.fmt.val ≤ (Tbl.get [] x.samples k.val).length
    ((x.active = false ∨ bitOf x.mask.toNat k.val = false ∨ full) → out = .next s) ∧
    (x.active = true → bitOf x.mask.toNat k.val = true → ¬ full → Tbl.get none x.slots k.val = none →
      out = .next (s.setGroup g.val { x with
        samples := Tbl.set [] x.samples k.val (Tbl.get [] x.samples k.val ++ leBytes (audioBytes x.fmt.val) 0),
        under := x.under ||| BitVec.ofNat 64 (2 ^ k.val) })) ∧
    (∀ i, x.active = true → bitOf x.mask.toNat k.val = true → ¬ full → Tbl.get none x.slots k.val = some i →
      (s.entry i).part ≠ none →
      ∃ t y, out = .next t ∧ t.mem = s.mem ∧ y.length = audioBytes x.fmt.val ∧
        (t.group g.val).samples = Tbl.set [] x.samples k.val (Tbl.get [] x.samples k.val ++ y) ∧
        (∀ j, j ≠ i → t.entry j = s.entry j) ∧
        (s.slotRange g.val k.val = true → (t.entry i).orRd = (s.entry i).orRd ∧
          (t.group g.val).mute = x.mute ||| BitVec.ofNat 64 (2 ^ k.val))))

/-- An enabled output sends a frame at an instant of its clock mode (Table 15.2): one per increment of the counter, two or
four in modes 1 and 2, one at even counts or multiples of 4 in modes 3 and 4. A channel that has not supplied its word
does so; the frame has two subframes, each the channel's 24-bit word, its V, U and C bits and even parity; FRAMES
counts it, the block number advances after 192, and the words are used up. Otherwise nothing is sent. No other output
and no byte of memory changes by it. -/
def Claims.AesOutputFrames : Prop :=
  ∀ (o : Fin 8) (s : State),
    let u := s.applyDue o.val
    let x := u.out o.val
    let n := if x.sentAt = some u.tb.count then x.sent else 0
    let fits := (x.clk = 0 → n = 0) ∧ (x.clk = 1 → n < 2) ∧ (x.clk = 2 → n < 4) ∧
      (x.clk = 3 → u.tb.count.toNat % 2 = 0 ∧ n = 0) ∧ (x.clk = 4 → u.tb.count.toNat % 4 = 0 ∧ n = 0)
    let d := (u.drainChannel (2 * o.val)).drainChannel (2 * o.val + 1)
    let y := d.out o.val
    let f := y.place
    ((x.en = false ∨ ¬ fits) → exec (.aes3OutputFrame o) s = .next u) ∧
    (x.en = true → fits → ∃ t, exec (.aes3OutputFrame o) s = .next t ∧ t.mem = d.mem ∧ t.entries = d.entries ∧
      (∀ k, k ≠ o.val → t.out k = d.out k) ∧ (t.out o.val).frames = y.frames + 1 ∧ (t.out o.val).lastZ = (f == 0) ∧
      (t.out o.val).place = (f + 1) % 192 ∧ (t.out o.val).block = (if f = 191 then y.block + 1 else y.block) ∧
      (t.out o.val).a = {} ∧ (t.out o.val).b = {} ∧
      ∃ ua ub ca cb, (t.out o.val).last = [subframe y.a ua ca, subframe y.b ub cb] ∧
        (subframe y.a ua ca).toNat % 2 ^ 24 = y.a.word.toNat ∧ (subframe y.a ua ca).getLsbD 24 = y.a.v ∧
        (subframe y.a ua ca).getLsbD 25 = ua ∧ (subframe y.a ua ca).getLsbD 26 = ca ∧
        popcount 28 (subframe y.a ua ca).toNat % 2 = 0)

/-- Draining a ring to an output, underruns, and AES3 frames sent (channel-status bits: log entry 31): the conjunction of
the parts above. -/
def Obligations.AudioOutputs : Prop :=
  Claims.OutputDrains ∧ Claims.AesOutputFrames

/-! ### AES3 frames received and AUD_MCLK_IN -/

/-- A received AES3 frame: before the counter runs it changes nothing. An unlocked input counts good frames in a row and
locks at the eighth; a locked one unlocks at the fourth frame in a row with a coding error, abandoning its block; a
frame inside a captured block is written to its place in the ring and to no other byte of memory. -/
def Claims.AesInputFrames : Prop :=
  ∀ (i : Fin 2) (f : InFrame) (s : State), s.Inv →
    let x := s.ain i.val
    let out := exec (.aes3InputFrame i f) s
    (s.tb.running = false → out = .next s) ∧
    (s.tb.running = true →
      (x.locked = false → goodFrame f = false → ∃ t, out = .next t ∧ t.mem = s.mem ∧ t.ain i.val = { x with good := 0 }) ∧
      (x.locked = false → goodFrame f = true → x.good < 7 →
        ∃ t, out = .next t ∧ t.mem = s.mem ∧ t.ain i.val = { x with good := x.good + 1 }) ∧
      (x.locked = false → goodFrame f = true → 7 ≤ x.good →
        ∃ t, out = .next t ∧ (t.ain i.val).locked = true ∧ (t.ain i.val).rate = f.rate ∧
          (t.reg (0x020200 + 0x40 * i.val + 0x1C)).getLsbD 0 = true) ∧
      (x.locked = true → f.codingBad = true → 3 ≤ x.bad → ∃ t, out = .next t ∧ t.mem = s.mem ∧
        t.ain i.val = { x with locked := false, bad := 0, good := 0, rate := 0, inBlock := false, capBlock := false,
                               frame := 0, cbits := [] } ∧
        (t.reg (0x020200 + 0x40 * i.val + 0x1C)).getLsbD 1 = true) ∧
      (x.locked = true → (f.codingBad = false ∨ x.bad < 3) → f.blockStart = false → x.inBlock = true → x.frame < 191 →
        ∃ t, out = .next t ∧ (t.ain i.val).locked = true ∧ (t.ain i.val).frame = x.frame + 1 ∧
          (t.ain i.val).cbits = x.cbits ++ [f.a.cBit] ∧ (t.ain i.val).wr = x.wr ∧
          (x.capture = false → t.mem = s.mem) ∧
          (∀ a, (∀ j, j < 8 → (s.part (x.part.getD 0)).phys
              (x.ring + (x.place + x.frame) % x.ringFrames * 8 + j) ≠ a) → t.byteAt a = s.byteAt a)))

/-- An edge of AUD_MCLK_IN: the gap since the last is one period; 256 consecutive periods, each within 0.1 % of their
mean, accept the clock and measure its rate; more than four missed edges end the acceptance. The converter ratios of
the outputs are judged anew. -/
def Claims.AudioClockEdges : Prop :=
  ∀ (t : Nat) (s : State), ∃ u, exec (.audMclkInEdge t) s = .next u ∧ u.mem = s.mem ∧ u.entries = s.entries ∧
    u = ({ s with mclk := u.mclk } : State).rangeCheck ∧
    (s.mclk.lastEdge = none → u.mclk = { s.mclk with lastEdge := some t }) ∧
    (∀ e, s.mclk.lastEdge = some e →
      let gap := t - e
      let miss := if s.mclk.accepted then s.mclk.missed gap else 0
      let p := if miss = 0 then (gap :: s.mclk.periods).take 256 else []
      u.mclk.lastEdge = some t ∧ u.mclk.miss = miss ∧
      (4 < miss → u.mclk.accepted = false) ∧
      (miss ≤ 4 → acquired p = none → u.mclk.accepted = s.mclk.accepted ∧ u.mclk.periods = p ∧ u.mclk.rate = s.mclk.rate) ∧
      (∀ sum, miss ≤ 4 → acquired p = some sum →
        u.mclk.accepted = true ∧ u.mclk.periods = [] ∧ u.mclk.rate = roundDiv rateNum sum))

/-- AES3 frames received and AUD_MCLK_IN: the conjunction of the parts above. -/
def Obligations.AudioInputs : Prop :=
  Claims.AesInputFrames ∧ Claims.AudioClockEdges

/-! ### The stream engine fetches descriptors and completes their transfers -/

/-- DESCRIPTOR_FETCH: nothing happens while the cluster is stopped, 512 descriptors are held, or the share is not the one
whose turn it is: that of the burst under way, up to 16 descriptors, while it may fetch, else the next in rotation
that may, having a list with one to fetch and fewer than 64 held. A descriptor that breaks Table 5.6 or leaves its
bounds is refused with its record, its signal and the fault of its list's word; any other is held, and slots then land
and lines are granted. -/
def Claims.DescriptorFetches : Prop :=
  (∀ (site : Site) (moved landed : Nat) (s : State),
    let g := site.core.val
    let j := site.share.val
    let n := g / 64
    let k := s.clu n
    let out := exec (.descriptorFetch site ⟨moved, landed⟩ []) s
    let open_ := s.clusterUp n = true ∧ k.held.length < 512 ∧ k.fetchTurn = some (siteKey site)
    (¬ open_ → out = .next s) ∧
    (open_ → k.lists.find? (k.fetchable site) = none → out = .next s) ∧
    (∀ l, open_ → k.lists.find? (k.fetchable site) = some l →
      let raw := (s.share g j).read (l.base + 64 * l.next) 64
      let b := (s.modClu n fun k => { k with burst := k.burstOn (siteKey site) }).advanceList n l (dBoundary raw)
      let bad := dBad l.get raw = true ∨ s.fusedBoundary g j l raw = true
      let out_ := dOut raw (s.shareSize g) (s.partOf g).limit = true
      let refused (st : BitVec 16) (cause : Nat) : Prop := out = .next ((((b.crecAndSig g j (dCrec raw) (dCrecAddr raw)
        (crecBytes (fieldAt raw 48 2) st 0) (dSig raw) (dSync raw)).countDesc n l.ctx).endLists n).progFault g j cause
        (engineOf 3) l.index)
      (bad → refused stBadField 0x21) ∧ (¬ bad → out_ → refused stOutOfBounds 0x22) ∧
      (¬ bad → ¬ out_ →
        let d : HeldDesc := { id := k.nextId, list := l.id, site := site, ctx := l.ctx, index := l.index, raw := raw,
                              serves := b.servesOf g j (fieldAt raw 22 2) }
        let u := b.modClu n fun k => { k with held := k.held ++ [d], nextId := k.nextId + 1 }
        (u.clu n).held = k.held ++ [d] ∧ u.mem = s.mem ∧
        out = .next ((List.range moved).foldl (fun v _ => v.grantLine n)
          ((List.range landed).foldl (fun v _ => v.landOldest n) u))))) ∧
  (∀ k : CluSt,
    let may (q : Nat) : Prop := ∃ l ∈ k.lists, siteKey l.site = q ∧ k.fetchable l.site l = true ∧
      (k.held.filter fun d => d.site == l.site).length < 64
    (∀ q, k.fetchTurn = some q → may q) ∧
    (k.burst.2 ≠ 0 → may k.burst.1 → k.fetchTurn = some k.burst.1) ∧
    (k.burst.2 = 0 → k.burst.1 < 256 → ∀ q, k.fetchTurn = some q → ∀ x, x < 256 → may x →
      (q + 255 - k.burst.1) % 256 ≤ (x + 255 - k.burst.1) % 256)) ∧
  (∀ (n : Nat) (s : State),
    (2048 ≤ (s.clu n).txns.length → s.grantLine n = s) ∧
    (∀ d, (s.clu n).grantee = some d → d ∈ (s.clu n).held ∧ d.run < dCnt1 d.raw * dCnt2 d.raw ∧
      (s.clu n).started d = true ∧ (s.clu n).inOrder d = true ∧
      ((s.clu n).txns.length < 2048 → s.grantLine n = s.issueLine n d)))

/-- DESCRIPTOR_COMPLETION: a held descriptor behind no fence has the lines it has left issued, in rotation with those of
the others, and landed; it leaves its queue, writes its record and signals, and counts; one that is not held, or must
wait, changes nothing. No byte of memory changes but in the destination runs of held PUT, COPY and FILL descriptors; a
GET of one run held alone brings its bytes into the share. -/
def Claims.DescriptorCompletes : Prop :=
  ∀ (c : Fin 32) (id : Nat) (s : State),
    let n := c.val
    let k := s.clu n
    let out := exec (.descriptorCompletion c id []) s
    (k.held.find? (fun d => d.id == id) = none → out = .next s) ∧
    (∀ d, k.held.find? (fun d => d.id == id) = some d →
      ((s.clusterUp n = false ∨ k.started d = false) → out = .next s) ∧
      (s.clusterUp n = true → k.started d = true →
        let g := d.site.core.val
        let j := d.site.share.val
        let p := s.partOf g
        let r := (s.issueAll n id ((k.held.map HeldDesc.mostLines).foldl (· + ·) 0)).landAll n id
        let bad := match (r.clu n).held.find? fun d => d.id == id with | some d => d.bad | none => 0
        let u := r.modClu n fun k => { k with held := k.held.filter fun x => x.id != id }
        let st := if bad = 0 then stOk else stEccUncorrectable
        out = .next ((((if bad = 0 then u else u.faultServed d.serves).crecAndSig g j (dCrec d.raw) (dCrecAddr d.raw)
          (crecBytes (fieldAt d.raw 48 2) st bad) (dSig d.raw) (dSync d.raw)).countDesc n d.ctx).endLists n) ∧
        (∀ a, (∀ x ∈ k.held, (dOp x.raw = 1 ∨ dOp x.raw = 2 ∨ dOp x.raw = 3) → ∀ run m, run < dCnt1 x.raw * dCnt2 x.raw →
          m < dLen x.raw → (s.partOf x.site.core.val).phys (runDst x.raw run + m) ≠ a) → r.byteAt a = s.byteAt a) ∧
        (k.held = [d] → k.txns = [] → d.run = 0 → d.line = 0 → dOp d.raw = 0 → dCnt1 d.raw = 1 → dCnt2 d.raw = 1 →
          0 < dLen d.raw → runDst d.raw 0 + dLen d.raw ≤ s.shareSize g →
          r.mem = s.mem ∧ (r.share g j).read (runDst d.raw 0) (dLen d.raw) = s.partBytes p (runSrc d.raw 0) (dLen d.raw) ∧
          (s.badLines = [] → bad = d.bad))))

/-- The stream engine fetches descriptors and completes their transfers: the conjunction of the parts above. -/
def Obligations.StreamEngineDescriptors : Prop :=
  Claims.DescriptorFetches ∧ Claims.DescriptorCompletes

/-! ### Mill requests are queued, chosen in rotation and served -/

/-- MILL_ROUTE hands the oldest submitted descriptor to the cluster that holds its key, which wakes and queues it, once
every earlier one of its context bound there is routed, or, under reset or without a present Mill, completes it with
UNIT_RESETTING or UNIT_ABSENT. MILL_GRANT serves the next context in rotation, refusing a descriptor with bad fields
or out of bounds as it starts. -/
def Claims.MillQueues : Prop :=
  (∀ (c : Fin 32) (s : State),
    let out := exec (.millRoute c) s
    ((s.clu c.val).millSub = [] → out = .next s) ∧
    (∀ d rest, (s.clu c.val).millSub = d :: rest →
      let p := s.millPart d
      let dest := p.serving c.val d.raw
      let earlier := ∃ m ∈ p.clusters, ∃ x ∈ (s.clu m).millSub, x.ctx = d.ctx ∧ x.id < d.id ∧ p.serving m x.raw = dest
      let u := (s.wakeCluster dest).modClu c.val fun k => { k with millSub := rest }
      (earlier → out = .next s) ∧ (¬ earlier →
      ((u.clu dest).resetting = true → out = .next (u.completeMill dest d stUnitResetting 0)) ∧
      ((u.clu dest).resetting = false → (∀ i, i < 8 → u.millPresent dest i = false) →
        out = .next (u.completeMill dest d stUnitAbsent 0)) ∧
      ((u.clu dest).resetting = false → (∃ i, i < 8 ∧ u.millPresent dest i = true) →
        out = .next (u.modClu dest fun k => { k with millQ := k.millQ ++ [d] }))))) ∧
  (∀ (c : Fin 32) (s : State),
    let n := c.val
    let k := s.clu n
    let out := exec (.millGrant c []) s
    let free := k.millCur = none ∧ s.clusterUp n = true ∧ ∃ i, i < 8 ∧ s.millUp n i = true
    ((¬ free ∨ k.millNext = none) → out = .next s) ∧
    (∀ x d, free → k.millNext = some x → k.millQ.find? (fun d => d.ctx == x) = some d →
      let u := s.modClu n fun k => { k with millLast := some x }
      let p := u.millPart d
      let refused (st : BitVec 16) (cause : Nat) : Prop := out = .next (((u.modClu n fun k => k.dropMill d.id).completeMill
        n d st 0).progFault d.site.core.val d.site.share.val cause (engineOf 3) d.index)
      (d.started = true → out = .next (u.modClu n fun k => { k with millCur := some d.id })) ∧
      (d.started = false → mBad d.op d.raw p = true → refused stBadField 0x24) ∧
      (d.started = false → mBad d.op d.raw p = false → u.mOut d p = true → refused stOutOfBounds 0x25) ∧
      (d.started = false → mBad d.op d.raw p = false → u.mOut d p = false →
        out = .next (u.modClu n fun k =>
          { k.setMill { d with started := true, idx := u.mIndices d } with millCur := some d.id }))))

/-- GRANT_EXPIRY does the rows granted, at least one, and gives the queue up, short of the last row; MILL_COMPLETION does
the rows that are left and completes the descriptor, with ECC_UNCORRECTABLE where a line failed. With nothing in
service, or a stopped cluster, nothing happens. -/
def Claims.MillService : Prop :=
  ∀ (c : Fin 32) (rows : Nat) (s : State),
    let n := c.val
    (((s.clu n).serving = none ∨ s.clusterUp n = false) →
      exec (.grantExpiry c rows) s = .next s ∧ exec (.millCompletion c) s = .next s) ∧
    (∀ d, (s.clu n).serving = some d → s.clusterUp n = true →
      ((rows = 0 ∨ mTotal d ≤ d.rows + rows) → exec (.grantExpiry c rows) s = .next s) ∧
      (0 < rows → d.rows + rows < mTotal d →
        let r := s.millRows (s.millPart d) d d.rows (d.rows + rows)
        exec (.grantExpiry c rows) s = .next (r.1.modClu n fun k =>
          { k.setMill { d with rows := d.rows + rows, bad := d.bad + r.2 } with millCur := none })) ∧
      (let r := s.millRows (s.millPart d) d d.rows (mTotal d)
       let bad := d.bad + r.2
       exec (.millCompletion c) s = .next ((r.1.modClu n fun k => k.dropMill d.id).completeMill n d
         (if bad = 0 then stOk else stEccUncorrectable) bad)))

/-- Mill requests are queued, chosen in rotation and served: the conjunction of the parts above. -/
def Obligations.MillRequests : Prop :=
  Claims.MillQueues ∧ Claims.MillService

/-! ### The narrow engine (request faults of operand checks: log entries 26 to 28) -/

/-- The narrow engine serves the head of its queue: a request that breaks Table 4.5 faults its context; SYNTH, and CONVERT
to the ring, hold their samples pending for the stream, wait while a step is pending, and have no effect on a stream
with nothing to commit; ANALYSIS, CONV1D and CONVERT write DST and nothing else of memory. Each completion signals and
counts. -/
def Obligations.NarrowRequests : Prop :=
  ∀ (c : Fin 32) (op : Nat) (i : Instr) (s : State),
    (op = 0 ∧ i = .synth c [] ∨ op = 1 ∧ i = .analysis c [] ∨ op = 2 ∧ i = .conv1d c [] ∨ op = 3 ∧ i = .convert c []) →
    let n := c.val
    ((s.clu n).narQ = [] → exec i s = .next s) ∧
    (∀ r rest, (s.clu n).narQ = r :: rest →
      let pid := (s.clu n).part.getD 0
      let p := s.part pid
      let t := s.readLayout r pid p
      let ends (u : State) : State := (u.narPop n).narDone n r
      ((s.narUp n = false ∨ (r.op ≠ op ∧ r.op < 4)) → exec i s = .next s) ∧
      (s.narUp n = true → (r.op = op ∨ 4 ≤ r.op) →
        t.mem = s.mem ∧
        (∀ cause, t.narCauses r pid p = [cause] → exec i s = .next ((t.narPop n).narFault r cause)) ∧
        (∀ c1 c2, t.narCauses r pid p = [c1, c2] →
          ∃ cause, (cause = c1 ∨ cause = c2) ∧ exec i s = .next ((t.draw.2.narPop n).narFault r cause)) ∧
        (t.narCauses r pid p = [] → r.named = true →
          (s.committable r.stream = false → exec i s = .next (ends t)) ∧
          (s.committable r.stream = true → (s.entry r.stream).pend ≠ none → exec i s = .next s) ∧
          (s.committable r.stream = true → (s.entry r.stream).pend = none → op = 0 →
            (∀ v, t.synthRun n r p = some v → exec i s = .next (ends v)) ∧
            (t.synthRun n r p = none → exec i s = .next s)) ∧
          (s.committable r.stream = true → (s.entry r.stream).pend = none → op = 3 → s.badLines = [] →
            let x := t.narRead r p (r.space 0) r.src r.srcLen
            x.1.mem = s.mem ∧ exec i s = .next (ends (x.1.modEntry r.stream fun e =>
              { e with pend := some { samples := r.samples x.2.1, count := r.count, hist := none, engine := r.site.core.val / 64 } })))) ∧
        (t.narCauses r pid p = [] → r.named = false → s.badLines = [] →
          let x := t.narRead r p (r.space 0) r.src r.srcLen
          let h := x.1.narRead r p (r.space 2) r.coef r.coefLen
          let bytes : Bytes :=
            if op = 1 then wordBytes ((List.range r.count).flatMap fun j => (List.range r.bands).map fun k =>
              analysisSample r.bands r.taps x.2.1 h.2.1 j k)
            else if op = 2 then wordBytes ((List.range r.count).flatMap fun q => (List.range 16).map fun j =>
              if j < r.couts then convSample r.bands r.taps x.2.1 h.2.1 q j else 0)
            else r.samples x.2.1
          let w := ((if op = 3 then x.1 else h.1).narWrite r p bytes).1
          exec i s = .next (ends w) ∧
          (∀ a, (∀ k, k < bytes.length → r.space 1 = true → p.phys (r.dst + k) ≠ a) → w.byteAt a = s.byteAt a))))

/-! ### Generators reseed, window boundaries pass, and a starving share is reported -/

/-- RESEED mixes a filled buffer into a generator whose draw counter has wrapped, empties the buffer and starts the
counter anew; otherwise nothing happens. The Steward refills an empty buffer with a value of its entropy source while
that is healthy. Only that core changes. -/
def Claims.GeneratorReseeds : Prop :=
  ∀ (g : Fin 2048) (s : State), s.Inv →
    let c := s.core g.val
    (∀ r, c.reseedBuf = some r → c.due = true → ∃ t, exec (.reseed g) s = .next t ∧
      t.core g.val = { c with rng := Config.rngMix c.rng r, draws := 0, due := false, reseedBuf := none, overdue := false } ∧
      (∀ k, k ≠ g.val → t.core k = s.core k) ∧ t.mem = s.mem) ∧
    ((c.reseedBuf = none ∨ c.due = false) → exec (.reseed g) s = .next s) ∧
    (c.reseedBuf = none → s.entropyFail = false → ∃ t, exec (.reseedBufferRefill g) s = .next t ∧
      t.core g.val = { c with reseedBuf := some s.draw.1 } ∧ (∀ k, k ≠ g.val → t.core k = s.core k) ∧
      { t with cores := s.cores, free := s.free } = s) ∧
    ((c.reseedBuf ≠ none ∨ s.entropyFail = true) → exec (.reseedBufferRefill g) s = .next s)

/-- A window boundary gives each share of a resident context its weight, borrow and starve limits, its quota of 16,384
engine-cycles by weight among the shares that count, and its deficit for the window, repaying debt by at most half its
quota; a background share has none. A core whose clock is stopped has no window, and nothing but the core's shares
changes. -/
def Claims.WindowBoundaries : Prop :=
  ∀ (g : Fin 2048) (s : State),
    let out := exec (.windowBoundary g) s
    let weighs (j : Nat) : Nat := if (s.share g.val j).live = true ∧ (s.share g.val j).stopped = false ∧
      (s.share g.val j).faulted = false then (s.setting (s.share g.val j)).weight else 0
    let W := weighs 0 + weighs 1 + weighs 2 + weighs 3
    (((s.core g.val).gated = true ∨ (s.clu (g.val / 64)).power ≠ 0) → out = .next s) ∧
    ((s.core g.val).gated = false → (s.clu (g.val / 64)).power = 0 → ∃ t, out = .next t ∧ { t with cores := s.cores } = s ∧
      (∀ k, k ≠ g.val → t.core k = s.core k) ∧
      (∀ j, j < 4 → (s.share g.val j).live = false → t.share g.val j = s.share g.val j) ∧
      (∀ j c x, j < 4 → (s.share g.val j).live = true → (s.share g.val j).ctx = some c → s.ctx c = some x →
        let h := s.share g.val j
        let u := t.share g.val j
        let w := x.weight
        let q := if h.stopped = true ∨ h.faulted = true ∨ W = 0 then 0 else 16384 * w / W
        let r := min h.debt (q / 2)
        u.weight = w ∧ u.borrow = (if w = 0 then 0 else x.borrow) ∧ u.starve = x.starve ∧ u.borrowed = 0 ∧ u.scratch = h.scratch ∧ u.s = h.s ∧ u.a = h.a ∧ u.p = h.p ∧ u.pc = h.pc ∧
          (w = 0 → u.quota = 0 ∧ u.debt = 0 ∧ u.deficit = h.deficit) ∧
          (w ≠ 0 → u.quota = q ∧ u.debt = h.debt - r ∧ u.deficit = min (max h.deficit 0) (q : Int) + q - r)))

/-- A background share whose starvation has lasted its starve limit is marked starving, once; its context's STARVED is
counted and raised unless it was within the last limit. A share that is not background, is marked already, has nothing
to dispatch, or has not starved so long does not. -/
def Claims.Starvation : Prop :=
  ∀ (site : Site) (c : Nat) (x : Ctx) (s : State),
    let h := s.at site
    let g := site.core.val
    h.ctx = some c → s.ctx c = some x →
    let out := exec (.starved site) s
    let long := ∃ t, Tbl.get none (s.core g).starveFrom site.share.val = some t ∧
      h.starve * s.tb.rate.toNat / 256000 ≤ (s.tb.count - t).toNat
    ((h.weight ≠ 0 ∨ h.starving = true ∨ s.dispatchable g site.share.val = false ∨ ¬ long) → out = .next s) ∧
    (h.weight = 0 → h.starving = false → s.dispatchable g site.share.val = true → long →
      let u := s.modShare g site.share.val fun h => { h with starving := true }
      let recent := ∃ t, x.lastStarved = some t ∧ (s.tb.count - t).toNat < h.starve * s.tb.rate.toNat / 256000
      (recent → out = .next u) ∧
      (¬ recent → out = .next (((u.setCtx c (some { x with
        lastStarved := some s.tb.count, starvedEvents := satAdd32 x.starvedEvents 1 })).bump
          (0x100000 + 0x10000 * (g / 64) + 0xD00) 0 32 1).raiseEvent evStarved (some x.part) stOk c g)))

/-- Generators reseed, window boundaries pass, and a starving share is reported: the conjunction of the parts above. -/
def Obligations.SharesInTime : Prop :=
  Claims.GeneratorReseeds ∧ Claims.WindowBoundaries ∧ Claims.Starvation

/-! ### Sensor reads, gating, self-refresh and unit failures -/

/-- Sensor readings: each cluster read takes its throttle level by Table 21.4 with its hysteresis; a DRAM die read sets,
by the hottest of its stack's 16, the refresh and issue rates of the stack's channels, and the Steward its
temperature; a first reading of 110 °C or more trips the device: every cluster's clock stops and every channel
refreshes itself. Before start-up nothing is read. No byte of memory changes. -/
def Claims.SensorReads : Prop :=
  (∀ (m : Temps) (s : State), s.started = false → exec (.sensorRead m) s = .next s) ∧
  (∀ (n : Fin 32) (b d : Byte) (s : State), s.started = true → s.Inv → b.toInt < 110 → d.toInt < 110 →
    let old := (s.clu n.val).throttle
    let t := b.toInt
    let new := if 105 < t ∨ 3 ≤ old ∧ 102 ≤ t then 3 else if 100 < t ∨ 2 ≤ old ∧ 97 ≤ t then 2
      else if 92 < t ∨ 1 ≤ old ∧ 89 ≤ t then 1 else 0
    ∃ u, exec (.sensorRead { cluster := [(n, b)], die := [], steward := d }) s = .next u ∧
      u.clu n.val = { s.clu n.val with temp := b, throttle := new } ∧
      (old = 0 → new ≠ 0 → (u.reg 0x060004).getLsbD 0 = true) ∧
      u.stewardTemp = d ∧ (∀ k, k ≠ n.val → u.clu k = s.clu k) ∧ u.mem = s.mem ∧ u.chans = s.chans) ∧
  (∀ (e : Fin 64) (b d : Byte) (s : State), s.started = true → s.Inv → b.toInt < 110 → d.toInt < 110 →
    let k := e.val / 16
    ∃ u m, exec (.sensorRead { cluster := [], die := [(e, b)], steward := d }) s = .next u ∧
      (∀ x, Tbl.get 0 u.dies x = if x = e.val then b else Tbl.get 0 s.dies x) ∧
      (∀ x, x / 16 = k → (Tbl.get 0 u.dies x).toInt ≤ m.toInt) ∧ (∃ x, x / 16 = k ∧ Tbl.get 0 u.dies x = m) ∧
      (∀ c, c / 64 = k → u.chan c = { s.chan c with
        temp := m, hot := decide (85 < m.toInt) || ((s.chan c).hot && decide (82 ≤ m.toInt)),
        halved := decide (95 < m.toInt) || ((s.chan c).halved && decide (92 ≤ m.toInt)) }) ∧
      (∀ c, c / 64 ≠ k → u.chan c = s.chan c) ∧ u.mem = s.mem ∧ u.clusters = s.clusters) ∧
  (∀ (m : Temps) (s : State), s.started = true → s.tripped = false →
    ((∃ x ∈ m.cluster, 110 ≤ x.2.toInt) ∨ (∃ x ∈ m.die, 110 ≤ x.2.toInt) ∨ 110 ≤ m.steward.toInt) →
    ∃ u, exec (.sensorRead m) s = .next u ∧ u.tripped = true ∧ u.mem = s.mem ∧
      (∀ n, n < 32 → (u.clu n).power = 3) ∧ (∀ c, c < 256 → (u.chan c).selfRefresh = true))

/-- Refresh and recalibration of a channel are counted, one due in self-refresh when it ends; an idle channel may enter
self-refresh; it leaves it unless tripped. An idle present core may be gated, an idle cluster's clock may stop and
then its power; work wakes the core and its cluster, counted, unless tripped. No byte of memory changes. -/
def Claims.GatingAndRefresh : Prop :=
  (∀ (c : Fin 256) (s : State), s.Inv →
    let h := s.chan c.val
    exec (.channelRefresh c) s = .next (s.setChan c.val { h with refreshes := h.refreshes + 1 }) ∧
    exec (.channelRecalibration c) s = .next (s.setChan c.val
      (if h.selfRefresh then { h with recalDue := true } else { h with recals := h.recals + 1 })) ∧
    (s.channelIdle c.val = true → exec (.selfRefreshEntry c) s = .next (s.setChan c.val { h with selfRefresh := true })) ∧
    (s.channelIdle c.val = false → exec (.selfRefreshEntry c) s = .next s) ∧
    ((h.selfRefresh = false ∨ s.tripped = true) → exec (.selfRefreshExit c) s = .next s) ∧
    (h.selfRefresh = true → s.tripped = false → ∃ t, exec (.selfRefreshExit c) s = .next t ∧ t.mem = s.mem ∧
      t.chan c.val = { h with selfRefresh := false, recalDue := false,
                              recals := if h.recalDue then h.recals + 1 else h.recals } ∧
      (t.reg 0x060300).toNat = min ((s.reg 0x060300).toNat + 1) 0xFFFFFFFF)) ∧
  (∀ (g : Fin 2048) (s : State),
    let may := s.corePresent g.val = true ∧ s.coreIdle g.val = true ∧ (s.core g.val).testing = false ∧
      (s.core g.val).resetting = false
    (may → exec (.coreGate g) s = .next (s.setCore g.val { s.core g.val with gated := true })) ∧
    (¬ may → exec (.coreGate g) s = .next s)) ∧
  (∀ (n : Fin 32) (s : State), s.Inv →
    let k := s.clu n.val
    (k.power = 0 → s.clusterIdle n.val = true → exec (.clusterClockStop n) s = .next (s.setClu n.val { k with power := 1 })) ∧
    ((k.power ≠ 0 ∨ s.clusterIdle n.val = false) → exec (.clusterClockStop n) s = .next s) ∧
    (k.power = 1 → exec (.clusterPowerGate n) s = .next (s.setClu n.val { k with power := 2 })) ∧
    (k.power ≠ 1 → exec (.clusterPowerGate n) s = .next s) ∧
    (s.tripped = false → (k.power = 1 ∨ k.power = 2) → ∃ t, exec (.wake (.cluster n)) s = .next t ∧ t.mem = s.mem ∧
      t.clu n.val = { k with power := 0 } ∧
      (t.reg (0x060104 + 0x10 * n.val)).toNat = min ((s.reg (0x060104 + 0x10 * n.val)).toNat + 1) 0xFFFFFFFF) ∧
    ((s.tripped = true ∨ (k.power ≠ 1 ∧ k.power ≠ 2)) → exec (.wake (.cluster n)) s = .next s)) ∧
  (∀ (g : Fin 2048) (s : State), s.Inv → s.tripped = false → s.corePresent g.val = true →
    ∃ t, exec (.wake (.core g)) s = .next t ∧ t.mem = s.mem ∧ t.core g.val = { s.core g.val with gated := false } ∧
      ((s.clu (g.val / 64)).power ≤ 2 → (t.clu (g.val / 64)).power = 0))

/-- A corrected SRAM error is counted and nothing else changes. An uncorrectable one in a clean cache line drops the line;
in a dirty one it drops the line, which DRAM then holds with an uncorrectable error and of which nothing is known, no
other byte changing; in a unit it counts and fails the unit; a core that does not answer its probe, and a Mill granule
or a narrow request over its limit, fail their units. A unit that fails is marked so, whatever else follows; before
stage 4 has ended, and for a unit absent or failed already, nothing does. -/
def Claims.UnitFailures : Prop :=
  (∀ s : State, ∃ t, exec (.sramEccError .corrected) s = .next t ∧ { t with regs := s.regs } = s ∧
    fld (t.reg 0x200).toNat 0 16 = min (fld (s.reg 0x200).toNat 0 16 + 1) 0xFFFF ∧
    fld (t.reg 0x200).toNat 16 16 = fld (s.reg 0x200).toNat 16 16 ∧ ∀ a, a ≠ 0x200 → t.reg a = s.reg a) ∧
  (∀ (phys : Nat) (l : CacheLine) (s : State), s.Inv → phys < 2 ^ 39 → phys % 2 ^ 31 < chanBytes → s.watching = true →
    (s.clu (phys / 2 ^ 31 / 8)).cache.find? (fun l => l.chan == phys / 2 ^ 31 && l.line == phys % 2 ^ 31 / 128) = some l →
    (l.dirty = false → ∃ t, exec (.sramEccError (.cacheLine phys)) s = .next t ∧ t.mem = s.mem ∧
      ∀ x ∈ (t.clu (phys / 2 ^ 31 / 8)).cache, ¬ (x.chan = phys / 2 ^ 31 ∧ x.line = phys % 2 ^ 31 / 128)) ∧
    (l.dirty = true → ∃ t, exec (.sramEccError (.cacheLine phys)) s = .next t ∧ phys / 128 ∈ t.badLines ∧
      (∀ x, x ∈ t.badLines ↔ x ∈ s.badLines ∨ x = phys / 128) ∧ (∀ a, a / 128 ≠ phys / 128 → t.byteAt a = s.byteAt a) ∧
      fld (t.reg 0x200).toNat 16 16 = min (fld (s.reg 0x200).toNat 16 16 + 1) 0xFFFF ∧
      ∀ x ∈ (t.clu (phys / 2 ^ 31 / 8)).cache, ¬ (x.chan = phys / 2 ^ 31 ∧ x.line = phys % 2 ^ 31 / 128))) ∧
  (∀ (phys : Nat) (s : State), (2 ^ 39 ≤ phys ∨ chanBytes ≤ phys % 2 ^ 31) →
    exec (.sramEccError (.cacheLine phys)) s = .fault .unassignedPhysical) ∧
  (∀ (u : UnitId) (s : State), s.watching = true → s.unitState u = 0 →
    (∃ t, exec (.sramEccError (.unit u)) s = .next t ∧ t.unitState u = 2) ∧
    (s.mayOverrun u = true → ∃ t, exec (.unitTimeout u) s = .next t ∧ t.unitState u = 2) ∧
    (s.mayOverrun u = false → exec (.unitTimeout u) s = .next s) ∧
    (∀ g, u = .core g → (∃ t, exec (.coreProbe g false) s = .next t ∧ t.unitState u = 2) ∧
      exec (.coreProbe g true) s = .next s)) ∧
  (∀ (u : UnitId) (s : State), (s.watching = false ∨ s.unitState u ≠ 0) →
    exec (.sramEccError (.unit u)) s = .next s ∧ exec (.unitTimeout u) s = .next s ∧
    (∀ g a, u = .core g → exec (.coreProbe g a) s = .next s))

/-- Sensor reads, gating, self-refresh and unit failures: the conjunction of the parts above. -/
def Obligations.PowerAndFailures : Prop :=
  Claims.SensorReads ∧ Claims.GatingAndRefresh ∧ Claims.UnitFailures

/-! ### Port states, and the checks of a received packet -/

/-- A port that trains, from stage 6 on, comes UP or waits without a peer; nothing happens to one that is UP or before. A
port that goes down is OFF, with its event, and a ring port marks its ring broken. A spur that goes down loses its
host: what was bound for it is discarded and counted, and nothing of it is held for the next host. -/
def Claims.PortStates : Prop :=
  (∀ (p : Fin 6) (up : Bool) (s : State),
    let trains := (Tbl.get {} s.stages 6).result ≠ 0
    ((¬ trains ∨ (s.port p.val).state = 2) → exec (.portTraining p up) s = .next s) ∧
    (trains → (s.port p.val).state ≠ 2 → ∃ t, exec (.portTraining p up) s = .next t ∧ t.mem = s.mem ∧
      (t.port p.val).state = (if up then 2 else 3) ∧ (∀ q, q ≠ p.val → (t.port q).state = (s.port q).state) ∧
      (up = true → (t.reg (0x03002C + 0x100 * p.val)).getLsbD 1 = true))) ∧
  (∀ (p : Fin 6) (s : State),
    ((s.port p.val).state ≠ 2 → exec (.portDown p) s = .next s) ∧
    ((s.port p.val).state = 2 → ∃ t, exec (.portDown p) s = .next t ∧ t.mem = s.mem ∧
      (∀ q, q ≠ p.val → (t.port q).state = (s.port q).state) ∧ (t.reg (0x03002C + 0x100 * p.val)).getLsbD 0 = true ∧
      (Tbl.wf {} s.net.ports = true → (t.port p.val).state = 0) ∧
      (p.val = 0 ∨ p.val = 3 → t.net.xWhole = false) ∧ (p.val = 1 ∨ p.val = 4 → t.net.yWhole = false))) ∧
  (∀ s : State, s.Inv → (s.port 5).state = 2 →
    let v := s.portLeaves 5 0
    let gone := (s.net.out.filter (·.spur)).length + ((s.net.snd.filter (·.spur)).map fun x => x.held.length).sum +
      (s.net.ctl.filter fun x => x.1 == some 2).length
    exec (.portDown 5) s = .next v.packetsDone ∧ (∀ o ∈ v.net.out ++ v.net.retx, o.spur = false) ∧
    (∀ x ∈ v.net.snd, x.spur = false) ∧ (∀ x ∈ v.net.ctl, x.1 ≠ some 2) ∧
    (v.reg 0x03051C).toNat = min ((s.reg 0x03051C).toNat + gone) 0xFFFFFFFF)

/-- The checks of a received long packet, in order: an uncorrectable packet header, a wrong CRC, a data type off its
virtual channel, and a wrong HCHK or length are each counted and discarded, changing nothing else; then the fields.
One that passes for another device goes on; a broadcast goes on round its ring and is taken here too; the host's
packets carry the own id and are no broadcasts. What is for this device passes the sequence check before it is
delivered. -/
def Claims.PacketChecks : Prop :=
  ∀ (p : Fin 3) (x : RawPkt) (s : State),
    let out := exec (.longPacketReceive p x) s
    let base := 0x030000 + 0x100 * p.val
    let n := s.bumpWide (base + 0x0C) 1
    let counted (u : State) (off : Nat) : Prop :=
      out = .next ((u.bump (base + off) 0 32 1).setBits (base + 0x2C) 4)
    let discarded : Prop := out = .next (n.bump (base + 0x1C) 0 32 1)
    let k := rawParse x
    let own : Prop := s.net.idValid = true ∧ k.dst = s.net.id
    let taken (u : State) : Prop :=
      ((u.seqCheck p.val k).2 = false → out = .next (u.seqCheck p.val k).1) ∧
      ((u.seqCheck p.val k).2 = true →
        ((s.ready = true ∨ k.rel = false ∨ k.dt = 0x30) → out = .next ((u.seqCheck p.val k).1.deliver p.val k)) ∧
        (s.ready = false → k.rel = true → k.dt ≠ 0x30 → out = .next ((u.seqCheck p.val k).1.leaveRx
          { pkt := k, spur := false, rx := k.rxPlace (p.val == 2) })))
    ((s.port p.val).state ≠ 2 → out = .next s) ∧
    ((s.port p.val).state = 2 →
      (x.hdrBad = true → counted s 0x18) ∧
      (x.hdrBad = false → x.crcBad = true → counted n 0x14) ∧
      (x.hdrBad = false → x.crcBad = false → typeOk x.dt x.vc = false → discarded) ∧
      (x.hdrBad = false → x.crcBad = false → typeOk x.dt x.vc = true → rawChecked x = false → counted n 0x18) ∧
      (x.hdrBad = false → x.crcBad = false → typeOk x.dt x.vc = true → rawChecked x = true →
        (p.val ≠ 2 → k.dst ≠ 0xFFF → ¬ own → out = .next (n.forward p.val k)) ∧
        (p.val ≠ 2 → k.dst ≠ 0xFFF → own →
          (rawFieldsOk x k = false → discarded) ∧ (rawFieldsOk x k = true → taken n)) ∧
        (p.val ≠ 2 → k.dst = 0xFFF →
          (rawFieldsOk x k = false → discarded) ∧
          (rawFieldsOk x k = true → k.dt = 0x36 → s.net.idValid = true → k.src = s.net.id → out = .next n) ∧
          (rawFieldsOk x k = true → ¬ (k.dt = 0x36 ∧ s.net.idValid = true ∧ k.src = s.net.id) →
            taken (n.passOn p.val k))) ∧
        (p.val = 2 → (s.net.idValid = false ∨ k.src ≠ s.net.id ∨ k.dst = 0xFFF) → discarded) ∧
        (p.val = 2 → s.net.idValid = true → k.src = s.net.id → k.dst ≠ 0xFFF →
          (rawFieldsOk x k = false → discarded) ∧
          (rawFieldsOk x k = true → own → taken n) ∧
          (rawFieldsOk x k = true → ¬ own → out = .next
            (if (n.seqCheck 2 k).2 then (n.seqCheck 2 k).1.relayOut k else (n.seqCheck 2 k).1)))))

/-- Port states, and the checks of a received packet: the conjunction of the parts above. -/
def Obligations.PortsAndChecks : Prop :=
  Claims.PortStates ∧ Claims.PacketChecks

/-! ### Acknowledgement, retransmission and transmission with credits (log entries 33, 34 and 40) -/

/-- Acknowledgement: ACK frees the held packets up to its SEQ; NAK retransmits from its SEQ on and is counted; RX_CREDIT
returns credits; a timeout retransmits all that is held, and the eighth abandons the space; the acknowledgement and
NAK timers act only on a space with an unacknowledged packet or a gap. -/
def Claims.Acknowledgements : Prop :=
  (∀ (p : Fin 3) (src : BitVec 12) (vc : Nat) (seq : BitVec 16) (s : State),
    let spur := p.val == 2
    let c := s.bump (0x030020 + 0x100 * p.val) 16 16 1
    (s.net.snd.find? (fun x => x.keyed src spur vc true) = none →
      exec (.ack p src vc seq) s = .next s ∧ exec (.nak p src vc seq) s = .next c) ∧
    (∀ x, s.net.snd.find? (fun x => x.keyed src spur vc true) = some x →
      let kept := x.held.filter fun o => !seqLe o.pkt.seq seq
      let u := (s.setSnd { x with held := kept, timeouts := if kept.length < x.held.length then 0 else x.timeouts }).modNet
        fun n => { n with retx := n.retx.filter fun o => !(x.owns o && seqLe o.pkt.seq seq) }
      exec (.ack p src vc seq) s = .next (if kept.length < x.held.length then u.packetsDone else u) ∧
      exec (.nak p src vc seq) s = .next (c.modNet fun n =>
        { n with retx := n.retx.filter (fun o => !x.owns o) ++ x.held.filter fun o => seqLe seq o.pkt.seq })) ∧
    (∀ count : BitVec 16,
      let give (x : Snd) : Snd := if x.keyed src spur vc true then { x with credits := x.credits + count.toNat } else x
      exec (.rxCredit p src vc count) s = .next (s.modNet fun n => { n with snd := n.snd.map give }))) ∧
  (∀ (d : BitVec 12) (spur : Bool) (vc : Nat) (s : State),
    let r := s.rcvOf d spur false vc true
    (r.since = 0 → exec (.ackTimer d spur vc) s = .next s) ∧
    (0 < r.since → exec (.ackTimer d spur vc) s = .next ((s.setRcv { r with since := 0 }).sendControl r.src r.spur
      [ctlRecord 0 r.vc (r.expect - 1).toNat 0 0])) ∧
    (r.gap = false → exec (.nakRepeat d spur vc) s = .next s) ∧
    (r.gap = true → exec (.nakRepeat d spur vc) s =
      .next (s.sendControl r.src r.spur [ctlRecord 1 r.vc r.expect.toNat 0 0])) ∧
    (s.net.snd.find? (fun x => x.keyed d spur vc true) = none → exec (.retransmitTimeout d spur vc) s = .next s) ∧
    (∀ x, s.net.snd.find? (fun x => x.keyed d spur vc true) = some x →
      (x.held = [] → exec (.retransmitTimeout d spur vc) s = .next s) ∧
      (x.held ≠ [] → x.timeouts < 7 → exec (.retransmitTimeout d spur vc) s =
        .next ((s.setSnd { x with timeouts := x.timeouts + 1 }).resend x x.held)) ∧
      (x.held ≠ [] → 7 ≤ x.timeouts → exec (.retransmitTimeout d spur vc) s = .next (s.abandon x))))

/-- A transmit port that is UP sends first what passes through it, then turned traffic, link control, retransmissions and
its own packets, each with its space's next SEQ, in rotation among partitions: the first partition after the port's
last one that has a packet which may go, charged for it. A ring port that is not UP drops what passes, and a spur
without a host what is bound for it. Credits owed to each sender are returned, up to 0xFFFF. Memory does not change. -/
def Claims.Transmission : Prop :=
  (∀ (p : Fin 6) (s : State),
    let out := exec (.packetTransmit p) s
    let passing := if p.val = 5 then none else s.sendPassing p.val
    (p.val < 3 → out = .next s) ∧
    (p.val = 5 → (s.port 5).state = 1 → out = .next s) ∧
    (p.val = 5 → (s.port 5).state ≠ 2 → (s.port 5).state ≠ 1 → out = .next s.closeSpur.packetsDone) ∧
    (3 ≤ p.val → p.val ≠ 5 → (s.port p.val).state ≠ 2 → out = .next (s.dropPassing p.val)) ∧
    (3 ≤ p.val → (s.port p.val).state = 2 →
      (∀ t, passing = some t → out = .next t) ∧
      (∀ t, passing = none → s.sendCtl p.val = some t → out = .next t) ∧
      (∀ t, passing = none → s.sendCtl p.val = none → s.sendRetx p.val = some t → out = .next t) ∧
      (passing = none → s.sendCtl p.val = none → s.sendRetx p.val = none → out = .next (s.sendOwn p.val))) ∧
    (∀ t, out = .next t → t.mem = s.mem)) ∧
  (∀ (q : Fin 2) (k : Pkt) (s : State), (s.port (3 + q.val)).state = 2 → Tbl.get none s.net.thru q.val = some k →
    ∃ t, exec (.packetTransmit ⟨3 + q.val, by omega⟩) s = .next t ∧ (t.port (3 + q.val)).last = some k) ∧
  (∀ (port m k : Nat) (o : OutPkt) (s : State),
    let turn (i : Nat) : Nat := (Tbl.get 15 s.net.lastPart port + 1 + i) % 16
    let first (i : Nat) : Option (Nat × Bool) :=
      if s.mayInsert port (turn i) then s.firstOf port (turn i) [] s.net.out.zipIdx else none
    let u := ((s.modNet fun n => { n with out := n.out.eraseIdx k, lastPart := Tbl.set 15 n.lastPart port o.charge }).leaveRx
      o).sendIn port o
    ((∀ i, i < 16 → first i = none) → s.sendOwn port = s) ∧
    (m < 16 → first m = some (k, true) → (∀ i, i < m → first i = none) → s.net.out[k]? = some o → o.charge = turn m ∧
      (o.frame = none → s.sendOwn port = u.chargeQuota port o.charge o.pkt.size) ∧
      (∀ g f, o.frame = some (g, f) → s.sendOwn port =
        (u.chargeQuota port o.charge o.pkt.size).bump (0x031018 + 0x20 * g) 0 32 1))) ∧
  (∀ (port : Nat) (o : OutPkt) (s : State),
    let x := s.sndOf o.pkt.dst o.spur o.pkt.vc o.pkt.rel
    ((s.sendIn port o).port port).last = some { o.pkt with seq := x.next, sync := x.fresh, retx := false } ∧
    ((s.sendIn port o).sndOf o.pkt.dst o.spur o.pkt.vc o.pkt.rel).next = x.next + 1) ∧
  (∀ s : State, ∃ t, exec .rxCreditReturn s = .next t ∧ t.mem = s.mem ∧ t.entries = s.entries ∧
    t.net.rcv = s.net.rcv.map fun x => { x with owed := x.owed - 0xFFFF })

/-- Acknowledgement, retransmission and transmission with credits (log entries 33, 34 and 40): the conjunction of the
parts above. -/
def Obligations.ReliableDelivery : Prop :=
  Claims.Acknowledgements ∧ Claims.Transmission

/-! ### Discovery -/

/-- Discovery: while none runs nothing rolls; a whole ring not yet rolled gets this device's roll, one alone is done at
once as a ring of one; a roll or call that is not well formed is discarded and counted; a roll goes on with this
device's record, which is all that happens until ready; a call of this device's own roll ends it and is counted, one
that comes late marks its ring whole; two lap times without a call end the ring's part. -/
def Obligations.Discovery : Prop :=
  (∀ s : State, s.net.disc ≠ 1 → exec .discovery s = .next s) ∧
  (∀ s : State, s.net.disc = 1 →
    let x := s.net.ring 0
    let y := s.net.ring 1
    (x.done = false → (x.mine = true ∨ x.wait = true) → exec .discovery s = .next s) ∧
    (x.done = false → x.mine = false → x.wait = false →
      (s.ringUp 0 = true → exec .discovery s = .next (s.startRoll 0)) ∧
      (s.ringUp 0 = false → s.ringAlone 0 = true → exec .discovery s = .next (s.ringDone 0 [s.ownRecord] false)) ∧
      (s.ringUp 0 = false → s.ringAlone 0 = false → exec .discovery s = .next (s.ringDone 0 [] false))) ∧
    (x.done = true → y.mine = false → y.wait = false → s.ringUp 1 = true → exec .discovery s = .next (s.startRoll 1))) ∧
  (∀ (r : Fin 2) (b : Bytes) (s : State), rollOk r.val b = true →
    let mine := ∃ x ∈ rollRecords b, rSerial x = Config.serial.toNat
    (rollCount b < 64 → ¬ mine → s.joined r.val b =
      rollPayload (rollOrigin b) r.val (rollRound b) (rollRecords b ++ [s.ownRecord])) ∧
    ((rollCount b = 64 ∨ mine) → s.joined r.val b = b)) ∧
  (∀ (r : Fin 2) (b : Bytes) (s : State),
    let own := rollOrigin b = Config.serial.toNat
    (rollOk r.val b = false → exec (.roll r b) s = .next (s.bump (0x03001C + 0x100 * r.val) 0 32 1)) ∧
    (rollOk r.val b = true → s.ready = true → s.net.disc = 1 → rollRound b = s.net.round →
      (¬ own → ¬ ((s.net.ring r.val).mine = true ∧ Config.serial.toNat < rollOrigin b) → rollCount b < 64 →
        exec (.roll r b) s = .next ((s.drover r.val 0 0xFFF (s.joined r.val b)).modRing r.val
          fun x => { x with mine := false, wait := !x.done })) ∧
      (own → (s.net.ring r.val).mine = true →
        exec (.roll r b) s = .next (s.drover r.val 1 0xFFF b) ∧
        exec (.call r b) s = .next ((s.bump 0x050038 0 32 1).ringDone r.val (rollRecords b) true))) ∧
    (rollOk r.val b = true → s.ready = true → s.net.disc = 1 → rollRound b < s.net.round → own →
      exec (.call r b) s = .next (s.setWhole r.val true)) ∧
    (rollOk r.val b = true → s.ready = false →
      (own → exec (.roll r b) s = .next s) ∧
      (¬ own → exec (.roll r b) s = .next (s.drover r.val 0 0xFFF (s.joined r.val b))))) ∧
  (∀ (r : Fin 2) (s : State),
    let x := s.net.ring r.val
    ((s.net.disc ≠ 1 ∨ (x.mine = false ∧ x.wait = false)) → exec (.callTimeout r) s = .next s) ∧
    (s.net.disc = 1 → (x.mine = true ∨ x.wait = true) → exec (.callTimeout r) s = .next (s.ringDone r.val [] false)))

/-! ### Sub-byte packing, which encodings are special, and E8M0 scales -/

/-- Number encodings (R42, R45, R49): where the elements of a sub-byte tensor lie, which encodings are infinities, NaNs
and zeros, and what an E8M0 scale stands for. -/
def Obligations.NumberEncodings : Prop :=
  (∀ (b : Bytes) (i : Nat), packedAt b 4 (2 * i) = (b.getD i 0).toNat % 16 ∧
    packedAt b 4 (2 * i + 1) = (b.getD i 0).toNat / 16) ∧
  (∀ (b : Bytes) (i j : Nat), j < 4 → packedAt b 6 (4 * i + j) =
    ((b.getD (3 * i) 0).toNat + 256 * (b.getD (3 * i + 1) 0).toNat + 65536 * (b.getD (3 * i + 2) 0).toNat) /
      2 ^ (6 * j) % 64) ∧
  (∀ f ∈ [fp32, bf16, fp16, e5m2], ∀ w : Nat,
    (fld w f.mbits f.ebits = 2 ^ f.ebits - 1 → fld w 0 f.mbits = 0 → f.value w = .inf (bitOf w (f.ebits + f.mbits))) ∧
    (fld w f.mbits f.ebits = 2 ^ f.ebits - 1 → fld w 0 f.mbits ≠ 0 → f.value w = .nan) ∧
    (fld w f.mbits f.ebits ≠ 2 ^ f.ebits - 1 → ∃ m e, f.value w = .fin (bitOf w (f.ebits + f.mbits)) m e)) ∧
  (∀ w : Nat, w < 256 → (e4m3.value w = .nan ↔ w = 0x7F ∨ w = 0xFF) ∧
    (w ≠ 0x7F → w ≠ 0xFF → ∃ m e, e4m3.value w = .fin (bitOf w 7) m e ∧ -9 ≤ e ∧ m * 2 ^ (e + 9).toNat ≤ 14 * 2 ^ 14)) ∧
  e4m3.value 0x7E = .fin false 14 5 ∧
  (∀ f ∈ [e3m2, e2m3, e2m1], ∀ w : Nat, ∃ n m e, f.value w = .fin n m e) ∧
  (∀ f ∈ [fp32, bf16, fp16, e5m2, e4m3, e3m2, e2m3, e2m1],
    (∃ e, f.value 0 = .fin false 0 e) ∧ ∃ e, f.value (2 ^ (f.ebits + f.mbits)) = .fin true 0 e) ∧
  (∀ (code x w : Nat), x < 255 → mxValue code x w = (elemValue code w).scale ((x : Int) - 127)) ∧
  (∀ (code w : Nat), mxValue code 255 w = .nan) ∧
  (∀ (x : Nat), x < 255 → (Num.fin false 1 0).scale ((x : Int) - 127) = .fin false 1 ((x : Int) - 127))

/-! ### The comparison of a received Frame Start -/

/-- A port's comparison of a received Frame Start with its own frame number (R305): a difference of more than 1 is counted
in LNK.FS_MISMATCH, and nothing else changes; long packets are accepted whether or not one has come. -/
def Obligations.FrameStartCompare : Prop :=
  ∀ (p : Fin 3) (k : BitVec 16) (s : State),
    let d := k - BitVec.ofNat 16 s.frameNo
    let near := d = 0 ∨ d = 1 ∨ d = 0xFFFF
    ((s.port p.val).state = 2 → near → exec (.frameStartReceive p k) s = .next s) ∧
    ((s.port p.val).state = 2 → ¬ near → ∃ t, exec (.frameStartReceive p k) s = .next t ∧
      fld (t.reg (0x030028 + 0x100 * p.val)).toNat 0 16 =
        min (fld (s.reg (0x030028 + 0x100 * p.val)).toNat 0 16 + 1) 0xFFFF ∧
      fld (t.reg (0x030028 + 0x100 * p.val)).toNat 16 16 = fld (s.reg (0x030028 + 0x100 * p.val)).toNat 16 16 ∧
      (∀ a, a ≠ 0x030028 + 0x100 * p.val → t.reg a = s.reg a) ∧ { t with regs := s.regs } = s) ∧
    (∀ (x : RawPkt) (t : State), exec (.frameStartReceive p k) s = .next t → (s.port p.val).state = 2 →
      p.val ≠ 2 → x.hdrBad = false → x.crcBad = false → typeOk x.dt x.vc = true → rawChecked x = true →
      rawFieldsOk x (rawParse x) = true → s.net.idValid = true → (rawParse x).dst = s.net.id →
      s.net.id ≠ 0xFFF → exec (.longPacketReceive p x) t =
        .next ((t.bumpWide (0x03000C + 0x100 * p.val) 1).checkDeliver p.val (rawParse x)))

/-! ### A taken branch and the loops it leaves -/

/-- A taken branch (R141): inside the program it goes to its target and closes, from the innermost outward, the open loops
whose bodies do not contain it, so that where loops nest those left open all contain it, and it opens none; outside
the program it faults with cause 0x30. -/
def Obligations.TakenBranches : Prop :=
  ∀ (site : Site) (w : W64) (s : State), Issues s site w 0x02 →
    let target : Int := ((s.at site).pc : Int) + signed 24 (fld w.toNat 0 24)
    let n := target.toNat
    let inside := 0 ≤ target ∧ n < (s.at site).program.length
    let out := exec (.br site w) s
    (inside → ∃ t, out = .next t ∧ OnlyShare s t site ∧ FrontFrame (s.at site) (t.at site) ∧ (t.at site).pc = n ∧
      (t.at site).s = (s.at site).s ∧ (t.at site).a = (s.at site).a ∧ (t.at site).p = (s.at site).p ∧
      (t.at site).loops = (s.at site).loops.dropWhile (fun l => decide (n < l.first ∨ l.last < n)) ∧
      ((s.at site).loops.Pairwise (fun inner outer => outer.first ≤ inner.first ∧ inner.last ≤ outer.last) →
        ∀ l ∈ (t.at site).loops, l.first ≤ n ∧ n ≤ l.last)) ∧
    (¬ inside → out = .next ((s.dispatched site.core.val site.share.val).progFault site.core.val site.share.val 0x30
      engFront (s.at site).pc))

/-! ### The receiver of a reliable space accepts each packet once, in order -/

/-- The receiver of a reliable space (R318): the expected SEQ is accepted and E advances, every 32nd acceptance being
acknowledged at once; a later SEQ is discarded and answered by NAK(E), repeated while the gap persists; an earlier one
is a duplicate, discarded and answered by ACK(E - 1); the timer acknowledges what is not yet acknowledged; a packet
accepted once is never accepted again when it is retransmitted. Buffer space is as R335 has it. -/
def Obligations.ReliableReceiver : Prop :=
  (∀ (p : Fin 3) (k : Pkt) (s : State), k.rel = true → (k.dt = 0x32 ∨ s.net.rxFill + k.size ≤ bufferBytes) →
    let spur := p.val == 2
    let bc := k.dst == 0xFFF
    let x := s.rcvOf k.src spur bc k.vc true
    let e := x.expected k
    let r := s.seqCheck p.val k
    let y := r.1.rcvOf k.src spur bc k.vc true
    (k.seq = e → r.2 = true ∧ y.expect = e + 1 ∧ y.gap = false ∧ y.since = (if 31 ≤ x.since then 0 else x.since + 1) ∧
      (31 ≤ x.since → ∃ u : State, u.net.rcv = r.1.net.rcv ∧ r.1 = u.sendControl x.src x.spur [ctlRecord 0 x.vc e.toNat 0 0]) ∧
      (x.since < 31 → r.1.net.ctl = s.net.ctl) ∧ (r.1.seqCheck p.val { k with retx := true }).2 = false) ∧
    (0 < (k.seq - e).toNat → (k.seq - e).toNat < 32768 → r.2 = false ∧
      r.1 = ((s.setRcv { x with expect := e, gap := true }).sendControl x.src x.spur [ctlRecord 1 x.vc e.toNat 0 0])) ∧
    (32768 ≤ (k.seq - e).toNat → r.2 = false ∧
      r.1 = ((s.setRcv { x with expect := e, since := 0 }).sendControl x.src x.spur
        [ctlRecord 0 x.vc (e - 1).toNat 0 0]))) ∧
  (∀ (d : BitVec 12) (spur : Bool) (vc : Nat) (s : State),
    let x := s.rcvOf d spur false vc true
    (x.gap = true → exec (.nakRepeat d spur vc) s = .next (s.sendControl x.src x.spur [ctlRecord 1 x.vc x.expect.toNat 0 0])) ∧
    (x.gap = false → exec (.nakRepeat d spur vc) s = .next s) ∧
    (0 < x.since → exec (.ackTimer d spur vc) s = .next ((s.setRcv { x with since := 0 }).sendControl x.src x.spur
      [ctlRecord 0 x.vc (x.expect - 1).toNat 0 0])) ∧
    (x.since = 0 → exec (.ackTimer d spur vc) s = .next s))

/-! ### The partition address map is one to one, onto, and spreads the granules of a row over its channels -/

/-- The partition address map (R91): the spread region and the locality windows as the function gives them; one to one and
onto the partition's channels; the N granules of a row lie on N different channels, and of any N in a row no three on
one; likewise the 8 of a window's row. -/
def Obligations.PartitionAddresses : Prop :=
  ∀ p : Part, p.clusters ≠ [] → p.clusters.Nodup → p.localBytes ≤ chanBytes → p.localBytes % 256 = 0 →
    let N := p.nch
    let m := 2 * p.salt.toNat + 1
    let fold (x : Nat) : Nat := x % 2 ^ 16 ^^^ x / 2 ^ 16 % 2 ^ 8
    let h (r : Nat) : Nat := fold (r * m % 2 ^ 24) ^^^ p.salt.toNat
    let chan (A : Nat) : Nat := p.phys A / 2 ^ 31
    (∀ A, A < N * p.spreadCh →
      let c := (A / 256 % N + h (A / 256 / N)) % N
      p.phys A = (8 * p.cluster (c / 8) + c % 8) * 2 ^ 31 + (A / 256 / N * 256 + A % 256)) ∧
    (∀ i B, i < p.clusters.length → B < 8 * p.localBytes →
      let k := (B / 256 % 8 + h (B / 256 / 8)) % 8
      p.phys (N * p.spreadCh + i * (8 * p.localBytes) + B) =
        (8 * p.cluster i + k) * 2 ^ 31 + (p.spreadCh + B / 256 / 8 * 256 + B % 256)) ∧
    (∀ A B, A < p.limit → B < p.limit → p.phys A = p.phys B → A = B) ∧
    (∀ A, A < p.limit → chan A / 8 ∈ p.clusters ∧ p.phys A % 2 ^ 31 < chanBytes) ∧
    (∀ n ∈ p.clusters, ∀ k off, k < 8 → off < chanBytes → ∃ A, A < p.limit ∧ p.phys A = (8 * n + k) * 2 ^ 31 + off) ∧
    (∀ A B, A < N * p.spreadCh → B < N * p.spreadCh → A / 256 / N = B / 256 / N → A / 256 ≠ B / 256 → chan A ≠ chan B) ∧
    (∀ A B C, C < N * p.spreadCh → A / 256 < B / 256 → B / 256 < C / 256 → C / 256 < A / 256 + N →
      ¬ (chan A = chan B ∧ chan B = chan C)) ∧
    (∀ i A B, i < p.clusters.length → A < 8 * p.localBytes → B < 8 * p.localBytes → A / 256 / 8 = B / 256 / 8 →
      A / 256 ≠ B / 256 → chan (N * p.spreadCh + i * (8 * p.localBytes) + A) ≠ chan (N * p.spreadCh + i * (8 * p.localBytes) + B))
end

