-- ==== Sys2Proof/Laws/Tbl.lean ====
section
/-! SUPPORT. Laws of tables: reading after writing, and what keeps the canonical form. -/

namespace Sys2Proof

theorem Tbl.get_put_self {α : Type} (d v : α) (t : Tbl α) (k : Nat) : Tbl.get d (Tbl.put t k v) k = v := by
  induction t with
  | nil => simp [Tbl.put, Tbl.get]
  | cons x t ih =>
    obtain ⟨j, w⟩ := x
    simp only [Tbl.put]
    split
    · simp [Tbl.get]
    · split
      · simp [Tbl.get]
      · next h => simp [Tbl.get, h, ih]

theorem Tbl.get_put_ne {α : Type} (d v : α) (t : Tbl α) {k i : Nat} (h : i ≠ k) :
    Tbl.get d (Tbl.put t k v) i = Tbl.get d t i := by
  induction t with
  | nil => simp [Tbl.put, Tbl.get, Ne.symm h]
  | cons x t ih =>
    obtain ⟨j, w⟩ := x
    simp only [Tbl.put]
    split
    · simp [Tbl.get, Ne.symm h]
    · split
      · next e => subst e; simp [Tbl.get, Ne.symm h]
      · simp [Tbl.get, ih]

theorem Tbl.get_erase_ne {α : Type} (d : α) (t : Tbl α) {k i : Nat} (h : i ≠ k) :
    Tbl.get d (Tbl.erase t k) i = Tbl.get d t i := by
  induction t with
  | nil => rfl
  | cons x t ih =>
    obtain ⟨j, w⟩ := x
    simp only [Tbl.erase]
    split
    · next e => subst e; simp [Tbl.get, Ne.symm h, ih]
    · simp [Tbl.get, ih]

/-- Another key reads as before. -/
theorem Tbl.get_set_ne {α : Type} [DecidableEq α] (d v : α) (t : Tbl α) {k i : Nat} (h : i ≠ k) :
    Tbl.get d (Tbl.set d t k v) i = Tbl.get d t i := by
  unfold Tbl.set
  split
  · exact Tbl.get_erase_ne d t h
  · exact Tbl.get_put_ne d v t h

theorem Tbl.get_erase_self {α : Type} (d : α) (t : Tbl α) (k : Nat) : Tbl.get d (Tbl.erase t k) k = d := by
  induction t with
  | nil => rfl
  | cons x t ih =>
    obtain ⟨j, v⟩ := x
    simp only [Tbl.erase]
    split
    · exact ih
    · next e => simp [Tbl.get, e, ih]

/-- A key reads as what was written there. -/
theorem Tbl.get_set_self {α : Type} [DecidableEq α] (d v : α) (t : Tbl α) (k : Nat) :
    Tbl.get d (Tbl.set d t k v) k = v := by
  unfold Tbl.set
  split
  · next e => rw [Tbl.get_erase_self, e]
  · exact Tbl.get_put_self d v t k

theorem Tbl.above_mono {α : Type} {a b : Nat} (t : Tbl α) (h : a ≤ b) (w : Tbl.above b t = true) :
    Tbl.above a t = true := by
  induction t with
  | nil => rfl
  | cons x t ih =>
    obtain ⟨j, v⟩ := x
    simp only [Tbl.above, Bool.and_eq_true, decide_eq_true_eq] at w ⊢
    exact ⟨by omega, ih w.2⟩

theorem Tbl.get_above {α : Type} (d : α) {b k : Nat} (t : Tbl α) (w : Tbl.above b t = true) (h : k ≤ b) :
    Tbl.get d t k = d := by
  induction t with
  | nil => rfl
  | cons x t ih =>
    obtain ⟨j, v⟩ := x
    simp only [Tbl.above, Bool.and_eq_true, decide_eq_true_eq] at w
    rw [Tbl.get, if_neg (by omega)]
    exact ih w.2

theorem Tbl.above_erase {α : Type} {b : Nat} (t : Tbl α) (k : Nat) (w : Tbl.above b t = true) :
    Tbl.above b (Tbl.erase t k) = true := by
  induction t with
  | nil => rfl
  | cons x t ih =>
    obtain ⟨j, v⟩ := x
    simp only [Tbl.above, Bool.and_eq_true, decide_eq_true_eq] at w
    simp only [Tbl.erase]
    split
    · exact ih w.2
    · simpa [Tbl.above, w.1] using ih w.2

theorem Tbl.above_put {α : Type} {b : Nat} (t : Tbl α) (k : Nat) (v : α) (h : b < k) (w : Tbl.above b t = true) :
    Tbl.above b (Tbl.put t k v) = true := by
  induction t with
  | nil => simp [Tbl.put, Tbl.above, h]
  | cons x t ih =>
    obtain ⟨j, u⟩ := x
    simp only [Tbl.above, Bool.and_eq_true, decide_eq_true_eq] at w
    simp only [Tbl.put]
    split
    · simp [Tbl.above, h, w]
    · split
      · simp [Tbl.above, h, w]
      · simp [Tbl.above, w.1, ih w.2]

/-- Erasing keeps the canonical form. -/
theorem Tbl.wf_erase {α : Type} [DecidableEq α] (d : α) (t : Tbl α) (k : Nat) (w : Tbl.wf d t = true) :
    Tbl.wf d (Tbl.erase t k) = true := by
  induction t with
  | nil => rfl
  | cons x t ih =>
    obtain ⟨j, v⟩ := x
    simp only [Tbl.wf, Bool.and_eq_true, decide_eq_true_eq] at w
    simp only [Tbl.erase]
    split
    · exact ih w.2
    · simp only [Tbl.wf, Bool.and_eq_true, decide_eq_true_eq]
      exact ⟨⟨w.1.1, Tbl.above_erase t k w.1.2⟩, ih w.2⟩

theorem Tbl.wf_put {α : Type} [DecidableEq α] (d : α) (t : Tbl α) (k : Nat) (v : α) (h : v ≠ d)
    (w : Tbl.wf d t = true) : Tbl.wf d (Tbl.put t k v) = true := by
  induction t with
  | nil => simp [Tbl.put, Tbl.wf, Tbl.above, h]
  | cons x t ih =>
    obtain ⟨j, u⟩ := x
    simp only [Tbl.wf, Bool.and_eq_true, decide_eq_true_eq] at w
    simp only [Tbl.put]
    split
    · next lt =>
      simp only [Tbl.wf, Tbl.above, Bool.and_eq_true, decide_eq_true_eq]
      exact ⟨⟨h, lt, Tbl.above_mono t (by omega) w.1.2⟩, w⟩
    · split
      · next e => subst e; simpa [Tbl.wf, h] using ⟨w.1.2, w.2⟩
      · simp only [Tbl.wf, Bool.and_eq_true, decide_eq_true_eq]
        exact ⟨⟨w.1.1, Tbl.above_put t k v (by omega) w.1.2⟩, ih w.2⟩

/-- A write keeps the canonical form. -/
theorem Tbl.wf_set {α : Type} [DecidableEq α] (d : α) (t : Tbl α) (k : Nat) (v : α) (w : Tbl.wf d t = true) :
    Tbl.wf d (Tbl.set d t k v) = true := by
  unfold Tbl.set
  split
  · exact Tbl.wf_erase d t k w
  · next h => exact Tbl.wf_put d t k v h w

theorem Tbl.above_filter {α : Type} {b : Nat} (p : Nat × α → Bool) (t : Tbl α) (w : Tbl.above b t = true) :
    Tbl.above b (t.filter p) = true := by
  induction t with
  | nil => rfl
  | cons x t ih =>
    obtain ⟨j, v⟩ := x
    simp only [Tbl.above, Bool.and_eq_true, decide_eq_true_eq] at w
    rw [List.filter_cons]
    split
    · simp [Tbl.above, w.1, ih w.2]
    · exact ih w.2

/-- Dropping entries keeps the canonical form. -/
theorem Tbl.wf_filter {α : Type} [DecidableEq α] (d : α) (p : Nat × α → Bool) (t : Tbl α) (w : Tbl.wf d t = true) :
    Tbl.wf d (t.filter p) = true := by
  induction t with
  | nil => rfl
  | cons x t ih =>
    obtain ⟨j, v⟩ := x
    simp only [Tbl.wf, Bool.and_eq_true, decide_eq_true_eq] at w
    rw [List.filter_cons]
    split
    · simp only [Tbl.wf, Bool.and_eq_true, decide_eq_true_eq]
      exact ⟨⟨w.1.1, Tbl.above_filter p t w.1.2⟩, ih w.2⟩
    · exact ih w.2

end Sys2Proof
end

