-- ==== Sys2Proof/Laws/State.lean ====
section
/-! SUPPORT. Laws of the updates of Machine/Ops.lean: one lemma per table read or field per update that leaves it alone,
true by rfl, and for each update what reading back gives. The updates by a function (modCore and the like) are first
rewritten as the update of the value read. -/

namespace Sys2Proof.Machine

/-! ### Updates by a function -/

theorem modCore_eq (s : State) (g : Nat) (f : CoreSt → CoreSt) : s.modCore g f = s.setCore g (f (s.core g)) := rfl
theorem modShare_eq (s : State) (g j : Nat) (f : ShareSt → ShareSt) : s.modShare g j f = s.setShare g j (f (s.share g j)) := rfl
theorem modClu_eq (s : State) (n : Nat) (f : CluSt → CluSt) : s.modClu n f = s.setClu n (f (s.clu n)) := rfl
theorem modChan_eq (s : State) (c : Nat) (f : ChanSt → ChanSt) : s.modChan c f = s.setChan c (f (s.chan c)) := rfl
theorem modEntry_eq (s : State) (i : Nat) (f : Entry → Entry) : s.modEntry i f = s.setEntry i (f (s.entry i)) := rfl
theorem modPart_eq (s : State) (p : Nat) (f : Part → Part) : s.modPart p f = s.setPart p (f (s.part p)) := rfl
theorem modCtx_eq (s : State) (c : Nat) (f : Ctx → Ctx) : s.modCtx c f = s.setCtx c ((s.ctx c).map f) := rfl
theorem modRope_eq (s : State) (r : Nat) (f : Rope → Rope) : s.modRope r f = s.setRope r ((s.rope r).map f) := rfl
theorem modOut_eq (s : State) (o : Nat) (f : AesOut → AesOut) : s.modOut o f = s.setOut o (f (s.out o)) := rfl
theorem modAchan_eq (s : State) (c : Nat) (f : Chan → Chan) : s.modAchan c f = s.setAchan c (f (s.achan c)) := rfl
theorem modAin_eq (s : State) (i : Nat) (f : AesIn → AesIn) : s.modAin i f = s.setAin i (f (s.ain i)) := rfl
theorem modGroup_eq (s : State) (g : Nat) (f : Group → Group) : s.modGroup g f = s.setGroup g (f (s.group g)) := rfl

/-! ### Reading back -/

@[simp] theorem clu_setClu_self (s : State) (n : Nat) (c : CluSt) : (s.setClu n c).clu n = c := Tbl.get_set_self _ _ _ _
theorem clu_setClu_ne (s : State) (n : Nat) (c : CluSt) {y : Nat} (ne : y ≠ n) : (s.setClu n c).clu y = s.clu y :=
  Tbl.get_set_ne _ _ _ ne
@[simp] theorem chan_setChan_self (s : State) (n : Nat) (h : ChanSt) : (s.setChan n h).chan n = h := Tbl.get_set_self _ _ _ _
theorem chan_setChan_ne (s : State) (n : Nat) (h : ChanSt) {y : Nat} (ne : y ≠ n) : (s.setChan n h).chan y = s.chan y :=
  Tbl.get_set_ne _ _ _ ne
@[simp] theorem entry_setEntry_self (s : State) (i : Nat) (e : Entry) : (s.setEntry i e).entry i = e := Tbl.get_set_self _ _ _ _
theorem entry_setEntry_ne (s : State) (i : Nat) (e : Entry) {y : Nat} (ne : y ≠ i) : (s.setEntry i e).entry y = s.entry y :=
  Tbl.get_set_ne _ _ _ ne
@[simp] theorem part_setPart_self (s : State) (p : Nat) (x : Part) : (s.setPart p x).part p = x := Tbl.get_set_self _ _ _ _
theorem part_setPart_ne (s : State) (p : Nat) (x : Part) {y : Nat} (ne : y ≠ p) : (s.setPart p x).part y = s.part y :=
  Tbl.get_set_ne _ _ _ ne
@[simp] theorem ctx_setCtx_self (s : State) (c : Nat) (x : Option Ctx) : (s.setCtx c x).ctx c = x := Tbl.get_set_self _ _ _ _
theorem ctx_setCtx_ne (s : State) (c : Nat) (x : Option Ctx) {y : Nat} (ne : y ≠ c) : (s.setCtx c x).ctx y = s.ctx y :=
  Tbl.get_set_ne _ _ _ ne
@[simp] theorem rope_setRope_self (s : State) (r : Nat) (x : Option Rope) : (s.setRope r x).rope r = x := Tbl.get_set_self _ _ _ _
theorem rope_setRope_ne (s : State) (r : Nat) (x : Option Rope) {y : Nat} (ne : y ≠ r) : (s.setRope r x).rope y = s.rope y :=
  Tbl.get_set_ne _ _ _ ne
@[simp] theorem image_setImage_self (s : State) (i : Nat) (x : Option Image) : (s.setImage i x).image i = x := Tbl.get_set_self _ _ _ _
theorem image_setImage_ne (s : State) (i : Nat) (x : Option Image) {y : Nat} (ne : y ≠ i) : (s.setImage i x).image y = s.image y :=
  Tbl.get_set_ne _ _ _ ne
@[simp] theorem out_setOut_self (s : State) (o : Nat) (x : AesOut) : (s.setOut o x).out o = x := Tbl.get_set_self _ _ _ _
theorem out_setOut_ne (s : State) (o : Nat) (x : AesOut) {y : Nat} (ne : y ≠ o) : (s.setOut o x).out y = s.out y :=
  Tbl.get_set_ne _ _ _ ne
@[simp] theorem achan_setAchan_self (s : State) (c : Nat) (x : Chan) : (s.setAchan c x).achan c = x := Tbl.get_set_self _ _ _ _
theorem achan_setAchan_ne (s : State) (c : Nat) (x : Chan) {y : Nat} (ne : y ≠ c) : (s.setAchan c x).achan y = s.achan y :=
  Tbl.get_set_ne _ _ _ ne
@[simp] theorem ain_setAin_self (s : State) (i : Nat) (x : AesIn) : (s.setAin i x).ain i = x := Tbl.get_set_self _ _ _ _
theorem ain_setAin_ne (s : State) (i : Nat) (x : AesIn) {y : Nat} (ne : y ≠ i) : (s.setAin i x).ain y = s.ain y :=
  Tbl.get_set_ne _ _ _ ne
@[simp] theorem group_setGroup_self (s : State) (g : Nat) (x : Group) : (s.setGroup g x).group g = x := Tbl.get_set_self _ _ _ _
theorem group_setGroup_ne (s : State) (g : Nat) (x : Group) {y : Nat} (ne : y ≠ g) : (s.setGroup g x).group y = s.group y :=
  Tbl.get_set_ne _ _ _ ne
@[simp] theorem reg_setReg_self (s : State) (a : Nat) (w : Word) : (s.setReg a w).reg a = w := Tbl.get_set_self _ _ _ _
theorem reg_setReg_ne (s : State) (a : Nat) (w : Word) {y : Nat} (ne : y ≠ a) : (s.setReg a w).reg y = s.reg y :=
  Tbl.get_set_ne _ _ _ ne
@[simp] theorem wide64_bumpWide_self (s : State) (a n : Nat) : (s.bumpWide a n).wide64 a = s.wide64 a + BitVec.ofNat 64 n :=
  Tbl.get_set_self _ _ _ _
theorem bump_eq (s : State) (a lo n m : Nat) : s.bump a lo n m = s.setReg a (BitVec.ofNat 32 ((s.reg a).toNat -
    fld (s.reg a).toNat lo n * 2 ^ lo + min (fld (s.reg a).toNat lo n + m) (2 ^ n - 1) * 2 ^ lo)) := rfl
theorem setBits_eq (s : State) (a m : Nat) : s.setBits a m = s.setReg a (s.reg a ||| BitVec.ofNat 32 m) := rfl
theorem setShare_eq (s : State) (g j : Nat) (h : ShareSt) :
    s.setShare g j h = s.setCore g { s.core g with shares := Tbl.set {} (s.core g).shares j h } := rfl

/-! ### setCore leaves these alone -/

@[simp] theorem clu_setCore (s : State) (g : Nat) (c : CoreSt) (y : Nat) : (s.setCore g c).clu y = s.clu y := rfl
@[simp] theorem chan_setCore (s : State) (g : Nat) (c : CoreSt) (y : Nat) : (s.setCore g c).chan y = s.chan y := rfl
@[simp] theorem entry_setCore (s : State) (g : Nat) (c : CoreSt) (y : Nat) : (s.setCore g c).entry y = s.entry y := rfl
@[simp] theorem part_setCore (s : State) (g : Nat) (c : CoreSt) (y : Nat) : (s.setCore g c).part y = s.part y := rfl
@[simp] theorem ctx_setCore (s : State) (g : Nat) (c : CoreSt) (y : Nat) : (s.setCore g c).ctx y = s.ctx y := rfl
@[simp] theorem rope_setCore (s : State) (g : Nat) (c : CoreSt) (y : Nat) : (s.setCore g c).rope y = s.rope y := rfl
@[simp] theorem image_setCore (s : State) (g : Nat) (c : CoreSt) (y : Nat) : (s.setCore g c).image y = s.image y := rfl
@[simp] theorem out_setCore (s : State) (g : Nat) (c : CoreSt) (y : Nat) : (s.setCore g c).out y = s.out y := rfl
@[simp] theorem achan_setCore (s : State) (g : Nat) (c : CoreSt) (y : Nat) : (s.setCore g c).achan y = s.achan y := rfl
@[simp] theorem ain_setCore (s : State) (g : Nat) (c : CoreSt) (y : Nat) : (s.setCore g c).ain y = s.ain y := rfl
@[simp] theorem group_setCore (s : State) (g : Nat) (c : CoreSt) (y : Nat) : (s.setCore g c).group y = s.group y := rfl
@[simp] theorem reg_setCore (s : State) (g : Nat) (c : CoreSt) (y : Nat) : (s.setCore g c).reg y = s.reg y := rfl
@[simp] theorem wide64_setCore (s : State) (g : Nat) (c : CoreSt) (y : Nat) : (s.setCore g c).wide64 y = s.wide64 y := rfl
@[simp] theorem pending_setCore (s : State) (g : Nat) (c : CoreSt) : (s.setCore g c).pending = s.pending := rfl
@[simp] theorem free_setCore (s : State) (g : Nat) (c : CoreSt) : (s.setCore g c).free = s.free := rfl
@[simp] theorem mem_setCore (s : State) (g : Nat) (c : CoreSt) : (s.setCore g c).mem = s.mem := rfl
@[simp] theorem sync_setCore (s : State) (g : Nat) (c : CoreSt) : (s.setCore g c).sync = s.sync := rfl
@[simp] theorem dockets_setCore (s : State) (g : Nat) (c : CoreSt) : (s.setCore g c).dockets = s.dockets := rfl
@[simp] theorem cmds_setCore (s : State) (g : Nat) (c : CoreSt) : (s.setCore g c).cmds = s.cmds := rfl
@[simp] theorem tb_setCore (s : State) (g : Nat) (c : CoreSt) : (s.setCore g c).tb = s.tb := rfl
@[simp] theorem net_setCore (s : State) (g : Nat) (c : CoreSt) : (s.setCore g c).net = s.net := rfl
@[simp] theorem i3c_setCore (s : State) (g : Nat) (c : CoreSt) : (s.setCore g c).i3c = s.i3c := rfl
@[simp] theorem parts_setCore (s : State) (g : Nat) (c : CoreSt) : (s.setCore g c).parts = s.parts := rfl
@[simp] theorem entries_setCore (s : State) (g : Nat) (c : CoreSt) : (s.setCore g c).entries = s.entries := rfl
@[simp] theorem clusters_setCore (s : State) (g : Nat) (c : CoreSt) : (s.setCore g c).clusters = s.clusters := rfl
@[simp] theorem groups_setCore (s : State) (g : Nat) (c : CoreSt) : (s.setCore g c).groups = s.groups := rfl
@[simp] theorem outs_setCore (s : State) (g : Nat) (c : CoreSt) : (s.setCore g c).outs = s.outs := rfl

/-! ### setClu leaves these alone -/

@[simp] theorem core_setClu (s : State) (n : Nat) (c : CluSt) (y : Nat) : (s.setClu n c).core y = s.core y := rfl
@[simp] theorem chan_setClu (s : State) (n : Nat) (c : CluSt) (y : Nat) : (s.setClu n c).chan y = s.chan y := rfl
@[simp] theorem entry_setClu (s : State) (n : Nat) (c : CluSt) (y : Nat) : (s.setClu n c).entry y = s.entry y := rfl
@[simp] theorem part_setClu (s : State) (n : Nat) (c : CluSt) (y : Nat) : (s.setClu n c).part y = s.part y := rfl
@[simp] theorem ctx_setClu (s : State) (n : Nat) (c : CluSt) (y : Nat) : (s.setClu n c).ctx y = s.ctx y := rfl
@[simp] theorem rope_setClu (s : State) (n : Nat) (c : CluSt) (y : Nat) : (s.setClu n c).rope y = s.rope y := rfl
@[simp] theorem image_setClu (s : State) (n : Nat) (c : CluSt) (y : Nat) : (s.setClu n c).image y = s.image y := rfl
@[simp] theorem out_setClu (s : State) (n : Nat) (c : CluSt) (y : Nat) : (s.setClu n c).out y = s.out y := rfl
@[simp] theorem achan_setClu (s : State) (n : Nat) (c : CluSt) (y : Nat) : (s.setClu n c).achan y = s.achan y := rfl
@[simp] theorem ain_setClu (s : State) (n : Nat) (c : CluSt) (y : Nat) : (s.setClu n c).ain y = s.ain y := rfl
@[simp] theorem group_setClu (s : State) (n : Nat) (c : CluSt) (y : Nat) : (s.setClu n c).group y = s.group y := rfl
@[simp] theorem reg_setClu (s : State) (n : Nat) (c : CluSt) (y : Nat) : (s.setClu n c).reg y = s.reg y := rfl
@[simp] theorem wide64_setClu (s : State) (n : Nat) (c : CluSt) (y : Nat) : (s.setClu n c).wide64 y = s.wide64 y := rfl
@[simp] theorem pending_setClu (s : State) (n : Nat) (c : CluSt) : (s.setClu n c).pending = s.pending := rfl
@[simp] theorem free_setClu (s : State) (n : Nat) (c : CluSt) : (s.setClu n c).free = s.free := rfl
@[simp] theorem mem_setClu (s : State) (n : Nat) (c : CluSt) : (s.setClu n c).mem = s.mem := rfl
@[simp] theorem sync_setClu (s : State) (n : Nat) (c : CluSt) : (s.setClu n c).sync = s.sync := rfl
@[simp] theorem dockets_setClu (s : State) (n : Nat) (c : CluSt) : (s.setClu n c).dockets = s.dockets := rfl
@[simp] theorem cmds_setClu (s : State) (n : Nat) (c : CluSt) : (s.setClu n c).cmds = s.cmds := rfl
@[simp] theorem tb_setClu (s : State) (n : Nat) (c : CluSt) : (s.setClu n c).tb = s.tb := rfl
@[simp] theorem net_setClu (s : State) (n : Nat) (c : CluSt) : (s.setClu n c).net = s.net := rfl
@[simp] theorem i3c_setClu (s : State) (n : Nat) (c : CluSt) : (s.setClu n c).i3c = s.i3c := rfl
@[simp] theorem parts_setClu (s : State) (n : Nat) (c : CluSt) : (s.setClu n c).parts = s.parts := rfl
@[simp] theorem entries_setClu (s : State) (n : Nat) (c : CluSt) : (s.setClu n c).entries = s.entries := rfl
@[simp] theorem cores_setClu (s : State) (n : Nat) (c : CluSt) : (s.setClu n c).cores = s.cores := rfl
@[simp] theorem groups_setClu (s : State) (n : Nat) (c : CluSt) : (s.setClu n c).groups = s.groups := rfl
@[simp] theorem outs_setClu (s : State) (n : Nat) (c : CluSt) : (s.setClu n c).outs = s.outs := rfl

/-! ### setChan leaves these alone -/

@[simp] theorem core_setChan (s : State) (n : Nat) (h : ChanSt) (y : Nat) : (s.setChan n h).core y = s.core y := rfl
@[simp] theorem clu_setChan (s : State) (n : Nat) (h : ChanSt) (y : Nat) : (s.setChan n h).clu y = s.clu y := rfl
@[simp] theorem entry_setChan (s : State) (n : Nat) (h : ChanSt) (y : Nat) : (s.setChan n h).entry y = s.entry y := rfl
@[simp] theorem part_setChan (s : State) (n : Nat) (h : ChanSt) (y : Nat) : (s.setChan n h).part y = s.part y := rfl
@[simp] theorem ctx_setChan (s : State) (n : Nat) (h : ChanSt) (y : Nat) : (s.setChan n h).ctx y = s.ctx y := rfl
@[simp] theorem rope_setChan (s : State) (n : Nat) (h : ChanSt) (y : Nat) : (s.setChan n h).rope y = s.rope y := rfl
@[simp] theorem image_setChan (s : State) (n : Nat) (h : ChanSt) (y : Nat) : (s.setChan n h).image y = s.image y := rfl
@[simp] theorem out_setChan (s : State) (n : Nat) (h : ChanSt) (y : Nat) : (s.setChan n h).out y = s.out y := rfl
@[simp] theorem achan_setChan (s : State) (n : Nat) (h : ChanSt) (y : Nat) : (s.setChan n h).achan y = s.achan y := rfl
@[simp] theorem ain_setChan (s : State) (n : Nat) (h : ChanSt) (y : Nat) : (s.setChan n h).ain y = s.ain y := rfl
@[simp] theorem group_setChan (s : State) (n : Nat) (h : ChanSt) (y : Nat) : (s.setChan n h).group y = s.group y := rfl
@[simp] theorem reg_setChan (s : State) (n : Nat) (h : ChanSt) (y : Nat) : (s.setChan n h).reg y = s.reg y := rfl
@[simp] theorem wide64_setChan (s : State) (n : Nat) (h : ChanSt) (y : Nat) : (s.setChan n h).wide64 y = s.wide64 y := rfl
@[simp] theorem pending_setChan (s : State) (n : Nat) (h : ChanSt) : (s.setChan n h).pending = s.pending := rfl
@[simp] theorem free_setChan (s : State) (n : Nat) (h : ChanSt) : (s.setChan n h).free = s.free := rfl
@[simp] theorem mem_setChan (s : State) (n : Nat) (h : ChanSt) : (s.setChan n h).mem = s.mem := rfl
@[simp] theorem sync_setChan (s : State) (n : Nat) (h : ChanSt) : (s.setChan n h).sync = s.sync := rfl
@[simp] theorem dockets_setChan (s : State) (n : Nat) (h : ChanSt) : (s.setChan n h).dockets = s.dockets := rfl
@[simp] theorem cmds_setChan (s : State) (n : Nat) (h : ChanSt) : (s.setChan n h).cmds = s.cmds := rfl
@[simp] theorem tb_setChan (s : State) (n : Nat) (h : ChanSt) : (s.setChan n h).tb = s.tb := rfl
@[simp] theorem net_setChan (s : State) (n : Nat) (h : ChanSt) : (s.setChan n h).net = s.net := rfl
@[simp] theorem i3c_setChan (s : State) (n : Nat) (h : ChanSt) : (s.setChan n h).i3c = s.i3c := rfl
@[simp] theorem parts_setChan (s : State) (n : Nat) (h : ChanSt) : (s.setChan n h).parts = s.parts := rfl
@[simp] theorem entries_setChan (s : State) (n : Nat) (h : ChanSt) : (s.setChan n h).entries = s.entries := rfl
@[simp] theorem clusters_setChan (s : State) (n : Nat) (h : ChanSt) : (s.setChan n h).clusters = s.clusters := rfl
@[simp] theorem cores_setChan (s : State) (n : Nat) (h : ChanSt) : (s.setChan n h).cores = s.cores := rfl
@[simp] theorem groups_setChan (s : State) (n : Nat) (h : ChanSt) : (s.setChan n h).groups = s.groups := rfl
@[simp] theorem outs_setChan (s : State) (n : Nat) (h : ChanSt) : (s.setChan n h).outs = s.outs := rfl

/-! ### setEntry leaves these alone -/

@[simp] theorem core_setEntry (s : State) (i : Nat) (e : Entry) (y : Nat) : (s.setEntry i e).core y = s.core y := rfl
@[simp] theorem clu_setEntry (s : State) (i : Nat) (e : Entry) (y : Nat) : (s.setEntry i e).clu y = s.clu y := rfl
@[simp] theorem chan_setEntry (s : State) (i : Nat) (e : Entry) (y : Nat) : (s.setEntry i e).chan y = s.chan y := rfl
@[simp] theorem part_setEntry (s : State) (i : Nat) (e : Entry) (y : Nat) : (s.setEntry i e).part y = s.part y := rfl
@[simp] theorem ctx_setEntry (s : State) (i : Nat) (e : Entry) (y : Nat) : (s.setEntry i e).ctx y = s.ctx y := rfl
@[simp] theorem rope_setEntry (s : State) (i : Nat) (e : Entry) (y : Nat) : (s.setEntry i e).rope y = s.rope y := rfl
@[simp] theorem image_setEntry (s : State) (i : Nat) (e : Entry) (y : Nat) : (s.setEntry i e).image y = s.image y := rfl
@[simp] theorem out_setEntry (s : State) (i : Nat) (e : Entry) (y : Nat) : (s.setEntry i e).out y = s.out y := rfl
@[simp] theorem achan_setEntry (s : State) (i : Nat) (e : Entry) (y : Nat) : (s.setEntry i e).achan y = s.achan y := rfl
@[simp] theorem ain_setEntry (s : State) (i : Nat) (e : Entry) (y : Nat) : (s.setEntry i e).ain y = s.ain y := rfl
@[simp] theorem group_setEntry (s : State) (i : Nat) (e : Entry) (y : Nat) : (s.setEntry i e).group y = s.group y := rfl
@[simp] theorem reg_setEntry (s : State) (i : Nat) (e : Entry) (y : Nat) : (s.setEntry i e).reg y = s.reg y := rfl
@[simp] theorem wide64_setEntry (s : State) (i : Nat) (e : Entry) (y : Nat) : (s.setEntry i e).wide64 y = s.wide64 y := rfl
@[simp] theorem pending_setEntry (s : State) (i : Nat) (e : Entry) : (s.setEntry i e).pending = s.pending := rfl
@[simp] theorem free_setEntry (s : State) (i : Nat) (e : Entry) : (s.setEntry i e).free = s.free := rfl
@[simp] theorem mem_setEntry (s : State) (i : Nat) (e : Entry) : (s.setEntry i e).mem = s.mem := rfl
@[simp] theorem sync_setEntry (s : State) (i : Nat) (e : Entry) : (s.setEntry i e).sync = s.sync := rfl
@[simp] theorem dockets_setEntry (s : State) (i : Nat) (e : Entry) : (s.setEntry i e).dockets = s.dockets := rfl
@[simp] theorem cmds_setEntry (s : State) (i : Nat) (e : Entry) : (s.setEntry i e).cmds = s.cmds := rfl
@[simp] theorem tb_setEntry (s : State) (i : Nat) (e : Entry) : (s.setEntry i e).tb = s.tb := rfl
@[simp] theorem net_setEntry (s : State) (i : Nat) (e : Entry) : (s.setEntry i e).net = s.net := rfl
@[simp] theorem i3c_setEntry (s : State) (i : Nat) (e : Entry) : (s.setEntry i e).i3c = s.i3c := rfl
@[simp] theorem parts_setEntry (s : State) (i : Nat) (e : Entry) : (s.setEntry i e).parts = s.parts := rfl
@[simp] theorem clusters_setEntry (s : State) (i : Nat) (e : Entry) : (s.setEntry i e).clusters = s.clusters := rfl
@[simp] theorem cores_setEntry (s : State) (i : Nat) (e : Entry) : (s.setEntry i e).cores = s.cores := rfl
@[simp] theorem groups_setEntry (s : State) (i : Nat) (e : Entry) : (s.setEntry i e).groups = s.groups := rfl
@[simp] theorem outs_setEntry (s : State) (i : Nat) (e : Entry) : (s.setEntry i e).outs = s.outs := rfl

/-! ### setPart leaves these alone -/

@[simp] theorem core_setPart (s : State) (p : Nat) (x : Part) (y : Nat) : (s.setPart p x).core y = s.core y := rfl
@[simp] theorem clu_setPart (s : State) (p : Nat) (x : Part) (y : Nat) : (s.setPart p x).clu y = s.clu y := rfl
@[simp] theorem chan_setPart (s : State) (p : Nat) (x : Part) (y : Nat) : (s.setPart p x).chan y = s.chan y := rfl
@[simp] theorem entry_setPart (s : State) (p : Nat) (x : Part) (y : Nat) : (s.setPart p x).entry y = s.entry y := rfl
@[simp] theorem ctx_setPart (s : State) (p : Nat) (x : Part) (y : Nat) : (s.setPart p x).ctx y = s.ctx y := rfl
@[simp] theorem rope_setPart (s : State) (p : Nat) (x : Part) (y : Nat) : (s.setPart p x).rope y = s.rope y := rfl
@[simp] theorem image_setPart (s : State) (p : Nat) (x : Part) (y : Nat) : (s.setPart p x).image y = s.image y := rfl
@[simp] theorem out_setPart (s : State) (p : Nat) (x : Part) (y : Nat) : (s.setPart p x).out y = s.out y := rfl
@[simp] theorem achan_setPart (s : State) (p : Nat) (x : Part) (y : Nat) : (s.setPart p x).achan y = s.achan y := rfl
@[simp] theorem ain_setPart (s : State) (p : Nat) (x : Part) (y : Nat) : (s.setPart p x).ain y = s.ain y := rfl
@[simp] theorem group_setPart (s : State) (p : Nat) (x : Part) (y : Nat) : (s.setPart p x).group y = s.group y := rfl
@[simp] theorem reg_setPart (s : State) (p : Nat) (x : Part) (y : Nat) : (s.setPart p x).reg y = s.reg y := rfl
@[simp] theorem wide64_setPart (s : State) (p : Nat) (x : Part) (y : Nat) : (s.setPart p x).wide64 y = s.wide64 y := rfl
@[simp] theorem pending_setPart (s : State) (p : Nat) (x : Part) : (s.setPart p x).pending = s.pending := rfl
@[simp] theorem free_setPart (s : State) (p : Nat) (x : Part) : (s.setPart p x).free = s.free := rfl
@[simp] theorem mem_setPart (s : State) (p : Nat) (x : Part) : (s.setPart p x).mem = s.mem := rfl
@[simp] theorem sync_setPart (s : State) (p : Nat) (x : Part) : (s.setPart p x).sync = s.sync := rfl
@[simp] theorem dockets_setPart (s : State) (p : Nat) (x : Part) : (s.setPart p x).dockets = s.dockets := rfl
@[simp] theorem cmds_setPart (s : State) (p : Nat) (x : Part) : (s.setPart p x).cmds = s.cmds := rfl
@[simp] theorem tb_setPart (s : State) (p : Nat) (x : Part) : (s.setPart p x).tb = s.tb := rfl
@[simp] theorem net_setPart (s : State) (p : Nat) (x : Part) : (s.setPart p x).net = s.net := rfl
@[simp] theorem i3c_setPart (s : State) (p : Nat) (x : Part) : (s.setPart p x).i3c = s.i3c := rfl
@[simp] theorem entries_setPart (s : State) (p : Nat) (x : Part) : (s.setPart p x).entries = s.entries := rfl
@[simp] theorem clusters_setPart (s : State) (p : Nat) (x : Part) : (s.setPart p x).clusters = s.clusters := rfl
@[simp] theorem cores_setPart (s : State) (p : Nat) (x : Part) : (s.setPart p x).cores = s.cores := rfl
@[simp] theorem groups_setPart (s : State) (p : Nat) (x : Part) : (s.setPart p x).groups = s.groups := rfl
@[simp] theorem outs_setPart (s : State) (p : Nat) (x : Part) : (s.setPart p x).outs = s.outs := rfl

/-! ### setCtx leaves these alone -/

@[simp] theorem core_setCtx (s : State) (c : Nat) (x : Option Ctx) (y : Nat) : (s.setCtx c x).core y = s.core y := rfl
@[simp] theorem clu_setCtx (s : State) (c : Nat) (x : Option Ctx) (y : Nat) : (s.setCtx c x).clu y = s.clu y := rfl
@[simp] theorem chan_setCtx (s : State) (c : Nat) (x : Option Ctx) (y : Nat) : (s.setCtx c x).chan y = s.chan y := rfl
@[simp] theorem entry_setCtx (s : State) (c : Nat) (x : Option Ctx) (y : Nat) : (s.setCtx c x).entry y = s.entry y := rfl
@[simp] theorem part_setCtx (s : State) (c : Nat) (x : Option Ctx) (y : Nat) : (s.setCtx c x).part y = s.part y := rfl
@[simp] theorem rope_setCtx (s : State) (c : Nat) (x : Option Ctx) (y : Nat) : (s.setCtx c x).rope y = s.rope y := rfl
@[simp] theorem image_setCtx (s : State) (c : Nat) (x : Option Ctx) (y : Nat) : (s.setCtx c x).image y = s.image y := rfl
@[simp] theorem out_setCtx (s : State) (c : Nat) (x : Option Ctx) (y : Nat) : (s.setCtx c x).out y = s.out y := rfl
@[simp] theorem achan_setCtx (s : State) (c : Nat) (x : Option Ctx) (y : Nat) : (s.setCtx c x).achan y = s.achan y := rfl
@[simp] theorem ain_setCtx (s : State) (c : Nat) (x : Option Ctx) (y : Nat) : (s.setCtx c x).ain y = s.ain y := rfl
@[simp] theorem group_setCtx (s : State) (c : Nat) (x : Option Ctx) (y : Nat) : (s.setCtx c x).group y = s.group y := rfl
@[simp] theorem reg_setCtx (s : State) (c : Nat) (x : Option Ctx) (y : Nat) : (s.setCtx c x).reg y = s.reg y := rfl
@[simp] theorem wide64_setCtx (s : State) (c : Nat) (x : Option Ctx) (y : Nat) : (s.setCtx c x).wide64 y = s.wide64 y := rfl
@[simp] theorem pending_setCtx (s : State) (c : Nat) (x : Option Ctx) : (s.setCtx c x).pending = s.pending := rfl
@[simp] theorem free_setCtx (s : State) (c : Nat) (x : Option Ctx) : (s.setCtx c x).free = s.free := rfl
@[simp] theorem mem_setCtx (s : State) (c : Nat) (x : Option Ctx) : (s.setCtx c x).mem = s.mem := rfl
@[simp] theorem sync_setCtx (s : State) (c : Nat) (x : Option Ctx) : (s.setCtx c x).sync = s.sync := rfl
@[simp] theorem dockets_setCtx (s : State) (c : Nat) (x : Option Ctx) : (s.setCtx c x).dockets = s.dockets := rfl
@[simp] theorem cmds_setCtx (s : State) (c : Nat) (x : Option Ctx) : (s.setCtx c x).cmds = s.cmds := rfl
@[simp] theorem tb_setCtx (s : State) (c : Nat) (x : Option Ctx) : (s.setCtx c x).tb = s.tb := rfl
@[simp] theorem net_setCtx (s : State) (c : Nat) (x : Option Ctx) : (s.setCtx c x).net = s.net := rfl
@[simp] theorem i3c_setCtx (s : State) (c : Nat) (x : Option Ctx) : (s.setCtx c x).i3c = s.i3c := rfl
@[simp] theorem parts_setCtx (s : State) (c : Nat) (x : Option Ctx) : (s.setCtx c x).parts = s.parts := rfl
@[simp] theorem entries_setCtx (s : State) (c : Nat) (x : Option Ctx) : (s.setCtx c x).entries = s.entries := rfl
@[simp] theorem clusters_setCtx (s : State) (c : Nat) (x : Option Ctx) : (s.setCtx c x).clusters = s.clusters := rfl
@[simp] theorem cores_setCtx (s : State) (c : Nat) (x : Option Ctx) : (s.setCtx c x).cores = s.cores := rfl
@[simp] theorem groups_setCtx (s : State) (c : Nat) (x : Option Ctx) : (s.setCtx c x).groups = s.groups := rfl
@[simp] theorem outs_setCtx (s : State) (c : Nat) (x : Option Ctx) : (s.setCtx c x).outs = s.outs := rfl

/-! ### setRope leaves these alone -/

@[simp] theorem core_setRope (s : State) (r : Nat) (x : Option Rope) (y : Nat) : (s.setRope r x).core y = s.core y := rfl
@[simp] theorem clu_setRope (s : State) (r : Nat) (x : Option Rope) (y : Nat) : (s.setRope r x).clu y = s.clu y := rfl
@[simp] theorem chan_setRope (s : State) (r : Nat) (x : Option Rope) (y : Nat) : (s.setRope r x).chan y = s.chan y := rfl
@[simp] theorem entry_setRope (s : State) (r : Nat) (x : Option Rope) (y : Nat) : (s.setRope r x).entry y = s.entry y := rfl
@[simp] theorem part_setRope (s : State) (r : Nat) (x : Option Rope) (y : Nat) : (s.setRope r x).part y = s.part y := rfl
@[simp] theorem ctx_setRope (s : State) (r : Nat) (x : Option Rope) (y : Nat) : (s.setRope r x).ctx y = s.ctx y := rfl
@[simp] theorem image_setRope (s : State) (r : Nat) (x : Option Rope) (y : Nat) : (s.setRope r x).image y = s.image y := rfl
@[simp] theorem out_setRope (s : State) (r : Nat) (x : Option Rope) (y : Nat) : (s.setRope r x).out y = s.out y := rfl
@[simp] theorem achan_setRope (s : State) (r : Nat) (x : Option Rope) (y : Nat) : (s.setRope r x).achan y = s.achan y := rfl
@[simp] theorem ain_setRope (s : State) (r : Nat) (x : Option Rope) (y : Nat) : (s.setRope r x).ain y = s.ain y := rfl
@[simp] theorem group_setRope (s : State) (r : Nat) (x : Option Rope) (y : Nat) : (s.setRope r x).group y = s.group y := rfl
@[simp] theorem reg_setRope (s : State) (r : Nat) (x : Option Rope) (y : Nat) : (s.setRope r x).reg y = s.reg y := rfl
@[simp] theorem wide64_setRope (s : State) (r : Nat) (x : Option Rope) (y : Nat) : (s.setRope r x).wide64 y = s.wide64 y := rfl
@[simp] theorem pending_setRope (s : State) (r : Nat) (x : Option Rope) : (s.setRope r x).pending = s.pending := rfl
@[simp] theorem free_setRope (s : State) (r : Nat) (x : Option Rope) : (s.setRope r x).free = s.free := rfl
@[simp] theorem mem_setRope (s : State) (r : Nat) (x : Option Rope) : (s.setRope r x).mem = s.mem := rfl
@[simp] theorem sync_setRope (s : State) (r : Nat) (x : Option Rope) : (s.setRope r x).sync = s.sync := rfl
@[simp] theorem dockets_setRope (s : State) (r : Nat) (x : Option Rope) : (s.setRope r x).dockets = s.dockets := rfl
@[simp] theorem cmds_setRope (s : State) (r : Nat) (x : Option Rope) : (s.setRope r x).cmds = s.cmds := rfl
@[simp] theorem tb_setRope (s : State) (r : Nat) (x : Option Rope) : (s.setRope r x).tb = s.tb := rfl
@[simp] theorem net_setRope (s : State) (r : Nat) (x : Option Rope) : (s.setRope r x).net = s.net := rfl
@[simp] theorem i3c_setRope (s : State) (r : Nat) (x : Option Rope) : (s.setRope r x).i3c = s.i3c := rfl
@[simp] theorem parts_setRope (s : State) (r : Nat) (x : Option Rope) : (s.setRope r x).parts = s.parts := rfl
@[simp] theorem entries_setRope (s : State) (r : Nat) (x : Option Rope) : (s.setRope r x).entries = s.entries := rfl
@[simp] theorem clusters_setRope (s : State) (r : Nat) (x : Option Rope) : (s.setRope r x).clusters = s.clusters := rfl
@[simp] theorem cores_setRope (s : State) (r : Nat) (x : Option Rope) : (s.setRope r x).cores = s.cores := rfl
@[simp] theorem groups_setRope (s : State) (r : Nat) (x : Option Rope) : (s.setRope r x).groups = s.groups := rfl
@[simp] theorem outs_setRope (s : State) (r : Nat) (x : Option Rope) : (s.setRope r x).outs = s.outs := rfl

/-! ### setImage leaves these alone -/

@[simp] theorem core_setImage (s : State) (i : Nat) (x : Option Image) (y : Nat) : (s.setImage i x).core y = s.core y := rfl
@[simp] theorem clu_setImage (s : State) (i : Nat) (x : Option Image) (y : Nat) : (s.setImage i x).clu y = s.clu y := rfl
@[simp] theorem chan_setImage (s : State) (i : Nat) (x : Option Image) (y : Nat) : (s.setImage i x).chan y = s.chan y := rfl
@[simp] theorem entry_setImage (s : State) (i : Nat) (x : Option Image) (y : Nat) : (s.setImage i x).entry y = s.entry y := rfl
@[simp] theorem part_setImage (s : State) (i : Nat) (x : Option Image) (y : Nat) : (s.setImage i x).part y = s.part y := rfl
@[simp] theorem ctx_setImage (s : State) (i : Nat) (x : Option Image) (y : Nat) : (s.setImage i x).ctx y = s.ctx y := rfl
@[simp] theorem rope_setImage (s : State) (i : Nat) (x : Option Image) (y : Nat) : (s.setImage i x).rope y = s.rope y := rfl
@[simp] theorem out_setImage (s : State) (i : Nat) (x : Option Image) (y : Nat) : (s.setImage i x).out y = s.out y := rfl
@[simp] theorem achan_setImage (s : State) (i : Nat) (x : Option Image) (y : Nat) : (s.setImage i x).achan y = s.achan y := rfl
@[simp] theorem ain_setImage (s : State) (i : Nat) (x : Option Image) (y : Nat) : (s.setImage i x).ain y = s.ain y := rfl
@[simp] theorem group_setImage (s : State) (i : Nat) (x : Option Image) (y : Nat) : (s.setImage i x).group y = s.group y := rfl
@[simp] theorem reg_setImage (s : State) (i : Nat) (x : Option Image) (y : Nat) : (s.setImage i x).reg y = s.reg y := rfl
@[simp] theorem wide64_setImage (s : State) (i : Nat) (x : Option Image) (y : Nat) : (s.setImage i x).wide64 y = s.wide64 y := rfl
@[simp] theorem pending_setImage (s : State) (i : Nat) (x : Option Image) : (s.setImage i x).pending = s.pending := rfl
@[simp] theorem free_setImage (s : State) (i : Nat) (x : Option Image) : (s.setImage i x).free = s.free := rfl
@[simp] theorem mem_setImage (s : State) (i : Nat) (x : Option Image) : (s.setImage i x).mem = s.mem := rfl
@[simp] theorem sync_setImage (s : State) (i : Nat) (x : Option Image) : (s.setImage i x).sync = s.sync := rfl
@[simp] theorem dockets_setImage (s : State) (i : Nat) (x : Option Image) : (s.setImage i x).dockets = s.dockets := rfl
@[simp] theorem cmds_setImage (s : State) (i : Nat) (x : Option Image) : (s.setImage i x).cmds = s.cmds := rfl
@[simp] theorem tb_setImage (s : State) (i : Nat) (x : Option Image) : (s.setImage i x).tb = s.tb := rfl
@[simp] theorem net_setImage (s : State) (i : Nat) (x : Option Image) : (s.setImage i x).net = s.net := rfl
@[simp] theorem i3c_setImage (s : State) (i : Nat) (x : Option Image) : (s.setImage i x).i3c = s.i3c := rfl
@[simp] theorem parts_setImage (s : State) (i : Nat) (x : Option Image) : (s.setImage i x).parts = s.parts := rfl
@[simp] theorem entries_setImage (s : State) (i : Nat) (x : Option Image) : (s.setImage i x).entries = s.entries := rfl
@[simp] theorem clusters_setImage (s : State) (i : Nat) (x : Option Image) : (s.setImage i x).clusters = s.clusters := rfl
@[simp] theorem cores_setImage (s : State) (i : Nat) (x : Option Image) : (s.setImage i x).cores = s.cores := rfl
@[simp] theorem groups_setImage (s : State) (i : Nat) (x : Option Image) : (s.setImage i x).groups = s.groups := rfl
@[simp] theorem outs_setImage (s : State) (i : Nat) (x : Option Image) : (s.setImage i x).outs = s.outs := rfl

/-! ### setOut leaves these alone -/

@[simp] theorem core_setOut (s : State) (o : Nat) (x : AesOut) (y : Nat) : (s.setOut o x).core y = s.core y := rfl
@[simp] theorem clu_setOut (s : State) (o : Nat) (x : AesOut) (y : Nat) : (s.setOut o x).clu y = s.clu y := rfl
@[simp] theorem chan_setOut (s : State) (o : Nat) (x : AesOut) (y : Nat) : (s.setOut o x).chan y = s.chan y := rfl
@[simp] theorem entry_setOut (s : State) (o : Nat) (x : AesOut) (y : Nat) : (s.setOut o x).entry y = s.entry y := rfl
@[simp] theorem part_setOut (s : State) (o : Nat) (x : AesOut) (y : Nat) : (s.setOut o x).part y = s.part y := rfl
@[simp] theorem ctx_setOut (s : State) (o : Nat) (x : AesOut) (y : Nat) : (s.setOut o x).ctx y = s.ctx y := rfl
@[simp] theorem rope_setOut (s : State) (o : Nat) (x : AesOut) (y : Nat) : (s.setOut o x).rope y = s.rope y := rfl
@[simp] theorem image_setOut (s : State) (o : Nat) (x : AesOut) (y : Nat) : (s.setOut o x).image y = s.image y := rfl
@[simp] theorem achan_setOut (s : State) (o : Nat) (x : AesOut) (y : Nat) : (s.setOut o x).achan y = s.achan y := rfl
@[simp] theorem ain_setOut (s : State) (o : Nat) (x : AesOut) (y : Nat) : (s.setOut o x).ain y = s.ain y := rfl
@[simp] theorem group_setOut (s : State) (o : Nat) (x : AesOut) (y : Nat) : (s.setOut o x).group y = s.group y := rfl
@[simp] theorem reg_setOut (s : State) (o : Nat) (x : AesOut) (y : Nat) : (s.setOut o x).reg y = s.reg y := rfl
@[simp] theorem wide64_setOut (s : State) (o : Nat) (x : AesOut) (y : Nat) : (s.setOut o x).wide64 y = s.wide64 y := rfl
@[simp] theorem pending_setOut (s : State) (o : Nat) (x : AesOut) : (s.setOut o x).pending = s.pending := rfl
@[simp] theorem free_setOut (s : State) (o : Nat) (x : AesOut) : (s.setOut o x).free = s.free := rfl
@[simp] theorem mem_setOut (s : State) (o : Nat) (x : AesOut) : (s.setOut o x).mem = s.mem := rfl
@[simp] theorem sync_setOut (s : State) (o : Nat) (x : AesOut) : (s.setOut o x).sync = s.sync := rfl
@[simp] theorem dockets_setOut (s : State) (o : Nat) (x : AesOut) : (s.setOut o x).dockets = s.dockets := rfl
@[simp] theorem cmds_setOut (s : State) (o : Nat) (x : AesOut) : (s.setOut o x).cmds = s.cmds := rfl
@[simp] theorem tb_setOut (s : State) (o : Nat) (x : AesOut) : (s.setOut o x).tb = s.tb := rfl
@[simp] theorem net_setOut (s : State) (o : Nat) (x : AesOut) : (s.setOut o x).net = s.net := rfl
@[simp] theorem i3c_setOut (s : State) (o : Nat) (x : AesOut) : (s.setOut o x).i3c = s.i3c := rfl
@[simp] theorem parts_setOut (s : State) (o : Nat) (x : AesOut) : (s.setOut o x).parts = s.parts := rfl
@[simp] theorem entries_setOut (s : State) (o : Nat) (x : AesOut) : (s.setOut o x).entries = s.entries := rfl
@[simp] theorem clusters_setOut (s : State) (o : Nat) (x : AesOut) : (s.setOut o x).clusters = s.clusters := rfl
@[simp] theorem cores_setOut (s : State) (o : Nat) (x : AesOut) : (s.setOut o x).cores = s.cores := rfl
@[simp] theorem groups_setOut (s : State) (o : Nat) (x : AesOut) : (s.setOut o x).groups = s.groups := rfl

/-! ### setAchan leaves these alone -/

@[simp] theorem core_setAchan (s : State) (c : Nat) (x : Chan) (y : Nat) : (s.setAchan c x).core y = s.core y := rfl
@[simp] theorem clu_setAchan (s : State) (c : Nat) (x : Chan) (y : Nat) : (s.setAchan c x).clu y = s.clu y := rfl
@[simp] theorem chan_setAchan (s : State) (c : Nat) (x : Chan) (y : Nat) : (s.setAchan c x).chan y = s.chan y := rfl
@[simp] theorem entry_setAchan (s : State) (c : Nat) (x : Chan) (y : Nat) : (s.setAchan c x).entry y = s.entry y := rfl
@[simp] theorem part_setAchan (s : State) (c : Nat) (x : Chan) (y : Nat) : (s.setAchan c x).part y = s.part y := rfl
@[simp] theorem ctx_setAchan (s : State) (c : Nat) (x : Chan) (y : Nat) : (s.setAchan c x).ctx y = s.ctx y := rfl
@[simp] theorem rope_setAchan (s : State) (c : Nat) (x : Chan) (y : Nat) : (s.setAchan c x).rope y = s.rope y := rfl
@[simp] theorem image_setAchan (s : State) (c : Nat) (x : Chan) (y : Nat) : (s.setAchan c x).image y = s.image y := rfl
@[simp] theorem out_setAchan (s : State) (c : Nat) (x : Chan) (y : Nat) : (s.setAchan c x).out y = s.out y := rfl
@[simp] theorem ain_setAchan (s : State) (c : Nat) (x : Chan) (y : Nat) : (s.setAchan c x).ain y = s.ain y := rfl
@[simp] theorem group_setAchan (s : State) (c : Nat) (x : Chan) (y : Nat) : (s.setAchan c x).group y = s.group y := rfl
@[simp] theorem reg_setAchan (s : State) (c : Nat) (x : Chan) (y : Nat) : (s.setAchan c x).reg y = s.reg y := rfl
@[simp] theorem wide64_setAchan (s : State) (c : Nat) (x : Chan) (y : Nat) : (s.setAchan c x).wide64 y = s.wide64 y := rfl
@[simp] theorem pending_setAchan (s : State) (c : Nat) (x : Chan) : (s.setAchan c x).pending = s.pending := rfl
@[simp] theorem free_setAchan (s : State) (c : Nat) (x : Chan) : (s.setAchan c x).free = s.free := rfl
@[simp] theorem mem_setAchan (s : State) (c : Nat) (x : Chan) : (s.setAchan c x).mem = s.mem := rfl
@[simp] theorem sync_setAchan (s : State) (c : Nat) (x : Chan) : (s.setAchan c x).sync = s.sync := rfl
@[simp] theorem dockets_setAchan (s : State) (c : Nat) (x : Chan) : (s.setAchan c x).dockets = s.dockets := rfl
@[simp] theorem cmds_setAchan (s : State) (c : Nat) (x : Chan) : (s.setAchan c x).cmds = s.cmds := rfl
@[simp] theorem tb_setAchan (s : State) (c : Nat) (x : Chan) : (s.setAchan c x).tb = s.tb := rfl
@[simp] theorem net_setAchan (s : State) (c : Nat) (x : Chan) : (s.setAchan c x).net = s.net := rfl
@[simp] theorem i3c_setAchan (s : State) (c : Nat) (x : Chan) : (s.setAchan c x).i3c = s.i3c := rfl
@[simp] theorem parts_setAchan (s : State) (c : Nat) (x : Chan) : (s.setAchan c x).parts = s.parts := rfl
@[simp] theorem entries_setAchan (s : State) (c : Nat) (x : Chan) : (s.setAchan c x).entries = s.entries := rfl
@[simp] theorem clusters_setAchan (s : State) (c : Nat) (x : Chan) : (s.setAchan c x).clusters = s.clusters := rfl
@[simp] theorem cores_setAchan (s : State) (c : Nat) (x : Chan) : (s.setAchan c x).cores = s.cores := rfl
@[simp] theorem groups_setAchan (s : State) (c : Nat) (x : Chan) : (s.setAchan c x).groups = s.groups := rfl
@[simp] theorem outs_setAchan (s : State) (c : Nat) (x : Chan) : (s.setAchan c x).outs = s.outs := rfl

/-! ### setAin leaves these alone -/

@[simp] theorem core_setAin (s : State) (i : Nat) (x : AesIn) (y : Nat) : (s.setAin i x).core y = s.core y := rfl
@[simp] theorem clu_setAin (s : State) (i : Nat) (x : AesIn) (y : Nat) : (s.setAin i x).clu y = s.clu y := rfl
@[simp] theorem chan_setAin (s : State) (i : Nat) (x : AesIn) (y : Nat) : (s.setAin i x).chan y = s.chan y := rfl
@[simp] theorem entry_setAin (s : State) (i : Nat) (x : AesIn) (y : Nat) : (s.setAin i x).entry y = s.entry y := rfl
@[simp] theorem part_setAin (s : State) (i : Nat) (x : AesIn) (y : Nat) : (s.setAin i x).part y = s.part y := rfl
@[simp] theorem ctx_setAin (s : State) (i : Nat) (x : AesIn) (y : Nat) : (s.setAin i x).ctx y = s.ctx y := rfl
@[simp] theorem rope_setAin (s : State) (i : Nat) (x : AesIn) (y : Nat) : (s.setAin i x).rope y = s.rope y := rfl
@[simp] theorem image_setAin (s : State) (i : Nat) (x : AesIn) (y : Nat) : (s.setAin i x).image y = s.image y := rfl
@[simp] theorem out_setAin (s : State) (i : Nat) (x : AesIn) (y : Nat) : (s.setAin i x).out y = s.out y := rfl
@[simp] theorem achan_setAin (s : State) (i : Nat) (x : AesIn) (y : Nat) : (s.setAin i x).achan y = s.achan y := rfl
@[simp] theorem group_setAin (s : State) (i : Nat) (x : AesIn) (y : Nat) : (s.setAin i x).group y = s.group y := rfl
@[simp] theorem reg_setAin (s : State) (i : Nat) (x : AesIn) (y : Nat) : (s.setAin i x).reg y = s.reg y := rfl
@[simp] theorem wide64_setAin (s : State) (i : Nat) (x : AesIn) (y : Nat) : (s.setAin i x).wide64 y = s.wide64 y := rfl
@[simp] theorem pending_setAin (s : State) (i : Nat) (x : AesIn) : (s.setAin i x).pending = s.pending := rfl
@[simp] theorem free_setAin (s : State) (i : Nat) (x : AesIn) : (s.setAin i x).free = s.free := rfl
@[simp] theorem mem_setAin (s : State) (i : Nat) (x : AesIn) : (s.setAin i x).mem = s.mem := rfl
@[simp] theorem sync_setAin (s : State) (i : Nat) (x : AesIn) : (s.setAin i x).sync = s.sync := rfl
@[simp] theorem dockets_setAin (s : State) (i : Nat) (x : AesIn) : (s.setAin i x).dockets = s.dockets := rfl
@[simp] theorem cmds_setAin (s : State) (i : Nat) (x : AesIn) : (s.setAin i x).cmds = s.cmds := rfl
@[simp] theorem tb_setAin (s : State) (i : Nat) (x : AesIn) : (s.setAin i x).tb = s.tb := rfl
@[simp] theorem net_setAin (s : State) (i : Nat) (x : AesIn) : (s.setAin i x).net = s.net := rfl
@[simp] theorem i3c_setAin (s : State) (i : Nat) (x : AesIn) : (s.setAin i x).i3c = s.i3c := rfl
@[simp] theorem parts_setAin (s : State) (i : Nat) (x : AesIn) : (s.setAin i x).parts = s.parts := rfl
@[simp] theorem entries_setAin (s : State) (i : Nat) (x : AesIn) : (s.setAin i x).entries = s.entries := rfl
@[simp] theorem clusters_setAin (s : State) (i : Nat) (x : AesIn) : (s.setAin i x).clusters = s.clusters := rfl
@[simp] theorem cores_setAin (s : State) (i : Nat) (x : AesIn) : (s.setAin i x).cores = s.cores := rfl
@[simp] theorem groups_setAin (s : State) (i : Nat) (x : AesIn) : (s.setAin i x).groups = s.groups := rfl
@[simp] theorem outs_setAin (s : State) (i : Nat) (x : AesIn) : (s.setAin i x).outs = s.outs := rfl

/-! ### setGroup leaves these alone -/

@[simp] theorem core_setGroup (s : State) (g : Nat) (x : Group) (y : Nat) : (s.setGroup g x).core y = s.core y := rfl
@[simp] theorem clu_setGroup (s : State) (g : Nat) (x : Group) (y : Nat) : (s.setGroup g x).clu y = s.clu y := rfl
@[simp] theorem chan_setGroup (s : State) (g : Nat) (x : Group) (y : Nat) : (s.setGroup g x).chan y = s.chan y := rfl
@[simp] theorem entry_setGroup (s : State) (g : Nat) (x : Group) (y : Nat) : (s.setGroup g x).entry y = s.entry y := rfl
@[simp] theorem part_setGroup (s : State) (g : Nat) (x : Group) (y : Nat) : (s.setGroup g x).part y = s.part y := rfl
@[simp] theorem ctx_setGroup (s : State) (g : Nat) (x : Group) (y : Nat) : (s.setGroup g x).ctx y = s.ctx y := rfl
@[simp] theorem rope_setGroup (s : State) (g : Nat) (x : Group) (y : Nat) : (s.setGroup g x).rope y = s.rope y := rfl
@[simp] theorem image_setGroup (s : State) (g : Nat) (x : Group) (y : Nat) : (s.setGroup g x).image y = s.image y := rfl
@[simp] theorem out_setGroup (s : State) (g : Nat) (x : Group) (y : Nat) : (s.setGroup g x).out y = s.out y := rfl
@[simp] theorem achan_setGroup (s : State) (g : Nat) (x : Group) (y : Nat) : (s.setGroup g x).achan y = s.achan y := rfl
@[simp] theorem ain_setGroup (s : State) (g : Nat) (x : Group) (y : Nat) : (s.setGroup g x).ain y = s.ain y := rfl
@[simp] theorem reg_setGroup (s : State) (g : Nat) (x : Group) (y : Nat) : (s.setGroup g x).reg y = s.reg y := rfl
@[simp] theorem wide64_setGroup (s : State) (g : Nat) (x : Group) (y : Nat) : (s.setGroup g x).wide64 y = s.wide64 y := rfl
@[simp] theorem pending_setGroup (s : State) (g : Nat) (x : Group) : (s.setGroup g x).pending = s.pending := rfl
@[simp] theorem free_setGroup (s : State) (g : Nat) (x : Group) : (s.setGroup g x).free = s.free := rfl
@[simp] theorem mem_setGroup (s : State) (g : Nat) (x : Group) : (s.setGroup g x).mem = s.mem := rfl
@[simp] theorem sync_setGroup (s : State) (g : Nat) (x : Group) : (s.setGroup g x).sync = s.sync := rfl
@[simp] theorem dockets_setGroup (s : State) (g : Nat) (x : Group) : (s.setGroup g x).dockets = s.dockets := rfl
@[simp] theorem cmds_setGroup (s : State) (g : Nat) (x : Group) : (s.setGroup g x).cmds = s.cmds := rfl
@[simp] theorem tb_setGroup (s : State) (g : Nat) (x : Group) : (s.setGroup g x).tb = s.tb := rfl
@[simp] theorem net_setGroup (s : State) (g : Nat) (x : Group) : (s.setGroup g x).net = s.net := rfl
@[simp] theorem i3c_setGroup (s : State) (g : Nat) (x : Group) : (s.setGroup g x).i3c = s.i3c := rfl
@[simp] theorem parts_setGroup (s : State) (g : Nat) (x : Group) : (s.setGroup g x).parts = s.parts := rfl
@[simp] theorem entries_setGroup (s : State) (g : Nat) (x : Group) : (s.setGroup g x).entries = s.entries := rfl
@[simp] theorem clusters_setGroup (s : State) (g : Nat) (x : Group) : (s.setGroup g x).clusters = s.clusters := rfl
@[simp] theorem cores_setGroup (s : State) (g : Nat) (x : Group) : (s.setGroup g x).cores = s.cores := rfl
@[simp] theorem outs_setGroup (s : State) (g : Nat) (x : Group) : (s.setGroup g x).outs = s.outs := rfl

/-! ### setReg leaves these alone -/

@[simp] theorem core_setReg (s : State) (a : Nat) (w : Word) (y : Nat) : (s.setReg a w).core y = s.core y := rfl
@[simp] theorem clu_setReg (s : State) (a : Nat) (w : Word) (y : Nat) : (s.setReg a w).clu y = s.clu y := rfl
@[simp] theorem chan_setReg (s : State) (a : Nat) (w : Word) (y : Nat) : (s.setReg a w).chan y = s.chan y := rfl
@[simp] theorem entry_setReg (s : State) (a : Nat) (w : Word) (y : Nat) : (s.setReg a w).entry y = s.entry y := rfl
@[simp] theorem part_setReg (s : State) (a : Nat) (w : Word) (y : Nat) : (s.setReg a w).part y = s.part y := rfl
@[simp] theorem ctx_setReg (s : State) (a : Nat) (w : Word) (y : Nat) : (s.setReg a w).ctx y = s.ctx y := rfl
@[simp] theorem rope_setReg (s : State) (a : Nat) (w : Word) (y : Nat) : (s.setReg a w).rope y = s.rope y := rfl
@[simp] theorem image_setReg (s : State) (a : Nat) (w : Word) (y : Nat) : (s.setReg a w).image y = s.image y := rfl
@[simp] theorem out_setReg (s : State) (a : Nat) (w : Word) (y : Nat) : (s.setReg a w).out y = s.out y := rfl
@[simp] theorem achan_setReg (s : State) (a : Nat) (w : Word) (y : Nat) : (s.setReg a w).achan y = s.achan y := rfl
@[simp] theorem ain_setReg (s : State) (a : Nat) (w : Word) (y : Nat) : (s.setReg a w).ain y = s.ain y := rfl
@[simp] theorem group_setReg (s : State) (a : Nat) (w : Word) (y : Nat) : (s.setReg a w).group y = s.group y := rfl
@[simp] theorem wide64_setReg (s : State) (a : Nat) (w : Word) (y : Nat) : (s.setReg a w).wide64 y = s.wide64 y := rfl
@[simp] theorem pending_setReg (s : State) (a : Nat) (w : Word) : (s.setReg a w).pending = s.pending := rfl
@[simp] theorem free_setReg (s : State) (a : Nat) (w : Word) : (s.setReg a w).free = s.free := rfl
@[simp] theorem mem_setReg (s : State) (a : Nat) (w : Word) : (s.setReg a w).mem = s.mem := rfl
@[simp] theorem sync_setReg (s : State) (a : Nat) (w : Word) : (s.setReg a w).sync = s.sync := rfl
@[simp] theorem dockets_setReg (s : State) (a : Nat) (w : Word) : (s.setReg a w).dockets = s.dockets := rfl
@[simp] theorem cmds_setReg (s : State) (a : Nat) (w : Word) : (s.setReg a w).cmds = s.cmds := rfl
@[simp] theorem tb_setReg (s : State) (a : Nat) (w : Word) : (s.setReg a w).tb = s.tb := rfl
@[simp] theorem net_setReg (s : State) (a : Nat) (w : Word) : (s.setReg a w).net = s.net := rfl
@[simp] theorem i3c_setReg (s : State) (a : Nat) (w : Word) : (s.setReg a w).i3c = s.i3c := rfl
@[simp] theorem parts_setReg (s : State) (a : Nat) (w : Word) : (s.setReg a w).parts = s.parts := rfl
@[simp] theorem entries_setReg (s : State) (a : Nat) (w : Word) : (s.setReg a w).entries = s.entries := rfl
@[simp] theorem clusters_setReg (s : State) (a : Nat) (w : Word) : (s.setReg a w).clusters = s.clusters := rfl
@[simp] theorem cores_setReg (s : State) (a : Nat) (w : Word) : (s.setReg a w).cores = s.cores := rfl
@[simp] theorem groups_setReg (s : State) (a : Nat) (w : Word) : (s.setReg a w).groups = s.groups := rfl
@[simp] theorem outs_setReg (s : State) (a : Nat) (w : Word) : (s.setReg a w).outs = s.outs := rfl

/-! ### bumpWide leaves these alone -/

@[simp] theorem core_bumpWide (s : State) (a n : Nat) (y : Nat) : (s.bumpWide a n).core y = s.core y := rfl
@[simp] theorem clu_bumpWide (s : State) (a n : Nat) (y : Nat) : (s.bumpWide a n).clu y = s.clu y := rfl
@[simp] theorem chan_bumpWide (s : State) (a n : Nat) (y : Nat) : (s.bumpWide a n).chan y = s.chan y := rfl
@[simp] theorem entry_bumpWide (s : State) (a n : Nat) (y : Nat) : (s.bumpWide a n).entry y = s.entry y := rfl
@[simp] theorem part_bumpWide (s : State) (a n : Nat) (y : Nat) : (s.bumpWide a n).part y = s.part y := rfl
@[simp] theorem ctx_bumpWide (s : State) (a n : Nat) (y : Nat) : (s.bumpWide a n).ctx y = s.ctx y := rfl
@[simp] theorem rope_bumpWide (s : State) (a n : Nat) (y : Nat) : (s.bumpWide a n).rope y = s.rope y := rfl
@[simp] theorem image_bumpWide (s : State) (a n : Nat) (y : Nat) : (s.bumpWide a n).image y = s.image y := rfl
@[simp] theorem out_bumpWide (s : State) (a n : Nat) (y : Nat) : (s.bumpWide a n).out y = s.out y := rfl
@[simp] theorem achan_bumpWide (s : State) (a n : Nat) (y : Nat) : (s.bumpWide a n).achan y = s.achan y := rfl
@[simp] theorem ain_bumpWide (s : State) (a n : Nat) (y : Nat) : (s.bumpWide a n).ain y = s.ain y := rfl
@[simp] theorem group_bumpWide (s : State) (a n : Nat) (y : Nat) : (s.bumpWide a n).group y = s.group y := rfl
@[simp] theorem reg_bumpWide (s : State) (a n : Nat) (y : Nat) : (s.bumpWide a n).reg y = s.reg y := rfl
@[simp] theorem pending_bumpWide (s : State) (a n : Nat) : (s.bumpWide a n).pending = s.pending := rfl
@[simp] theorem free_bumpWide (s : State) (a n : Nat) : (s.bumpWide a n).free = s.free := rfl
@[simp] theorem mem_bumpWide (s : State) (a n : Nat) : (s.bumpWide a n).mem = s.mem := rfl
@[simp] theorem sync_bumpWide (s : State) (a n : Nat) : (s.bumpWide a n).sync = s.sync := rfl
@[simp] theorem dockets_bumpWide (s : State) (a n : Nat) : (s.bumpWide a n).dockets = s.dockets := rfl
@[simp] theorem cmds_bumpWide (s : State) (a n : Nat) : (s.bumpWide a n).cmds = s.cmds := rfl
@[simp] theorem tb_bumpWide (s : State) (a n : Nat) : (s.bumpWide a n).tb = s.tb := rfl
@[simp] theorem net_bumpWide (s : State) (a n : Nat) : (s.bumpWide a n).net = s.net := rfl
@[simp] theorem i3c_bumpWide (s : State) (a n : Nat) : (s.bumpWide a n).i3c = s.i3c := rfl
@[simp] theorem parts_bumpWide (s : State) (a n : Nat) : (s.bumpWide a n).parts = s.parts := rfl
@[simp] theorem entries_bumpWide (s : State) (a n : Nat) : (s.bumpWide a n).entries = s.entries := rfl
@[simp] theorem clusters_bumpWide (s : State) (a n : Nat) : (s.bumpWide a n).clusters = s.clusters := rfl
@[simp] theorem cores_bumpWide (s : State) (a n : Nat) : (s.bumpWide a n).cores = s.cores := rfl
@[simp] theorem groups_bumpWide (s : State) (a n : Nat) : (s.bumpWide a n).groups = s.groups := rfl
@[simp] theorem outs_bumpWide (s : State) (a n : Nat) : (s.bumpWide a n).outs = s.outs := rfl

/-! ### modNet leaves these alone -/

@[simp] theorem core_modNet (s : State) (f : Net → Net) (y : Nat) : (s.modNet f).core y = s.core y := rfl
@[simp] theorem clu_modNet (s : State) (f : Net → Net) (y : Nat) : (s.modNet f).clu y = s.clu y := rfl
@[simp] theorem chan_modNet (s : State) (f : Net → Net) (y : Nat) : (s.modNet f).chan y = s.chan y := rfl
@[simp] theorem entry_modNet (s : State) (f : Net → Net) (y : Nat) : (s.modNet f).entry y = s.entry y := rfl
@[simp] theorem part_modNet (s : State) (f : Net → Net) (y : Nat) : (s.modNet f).part y = s.part y := rfl
@[simp] theorem ctx_modNet (s : State) (f : Net → Net) (y : Nat) : (s.modNet f).ctx y = s.ctx y := rfl
@[simp] theorem rope_modNet (s : State) (f : Net → Net) (y : Nat) : (s.modNet f).rope y = s.rope y := rfl
@[simp] theorem image_modNet (s : State) (f : Net → Net) (y : Nat) : (s.modNet f).image y = s.image y := rfl
@[simp] theorem out_modNet (s : State) (f : Net → Net) (y : Nat) : (s.modNet f).out y = s.out y := rfl
@[simp] theorem achan_modNet (s : State) (f : Net → Net) (y : Nat) : (s.modNet f).achan y = s.achan y := rfl
@[simp] theorem ain_modNet (s : State) (f : Net → Net) (y : Nat) : (s.modNet f).ain y = s.ain y := rfl
@[simp] theorem group_modNet (s : State) (f : Net → Net) (y : Nat) : (s.modNet f).group y = s.group y := rfl
@[simp] theorem reg_modNet (s : State) (f : Net → Net) (y : Nat) : (s.modNet f).reg y = s.reg y := rfl
@[simp] theorem wide64_modNet (s : State) (f : Net → Net) (y : Nat) : (s.modNet f).wide64 y = s.wide64 y := rfl
@[simp] theorem pending_modNet (s : State) (f : Net → Net) : (s.modNet f).pending = s.pending := rfl
@[simp] theorem free_modNet (s : State) (f : Net → Net) : (s.modNet f).free = s.free := rfl
@[simp] theorem mem_modNet (s : State) (f : Net → Net) : (s.modNet f).mem = s.mem := rfl
@[simp] theorem sync_modNet (s : State) (f : Net → Net) : (s.modNet f).sync = s.sync := rfl
@[simp] theorem dockets_modNet (s : State) (f : Net → Net) : (s.modNet f).dockets = s.dockets := rfl
@[simp] theorem cmds_modNet (s : State) (f : Net → Net) : (s.modNet f).cmds = s.cmds := rfl
@[simp] theorem tb_modNet (s : State) (f : Net → Net) : (s.modNet f).tb = s.tb := rfl
@[simp] theorem i3c_modNet (s : State) (f : Net → Net) : (s.modNet f).i3c = s.i3c := rfl
@[simp] theorem parts_modNet (s : State) (f : Net → Net) : (s.modNet f).parts = s.parts := rfl
@[simp] theorem entries_modNet (s : State) (f : Net → Net) : (s.modNet f).entries = s.entries := rfl
@[simp] theorem clusters_modNet (s : State) (f : Net → Net) : (s.modNet f).clusters = s.clusters := rfl
@[simp] theorem cores_modNet (s : State) (f : Net → Net) : (s.modNet f).cores = s.cores := rfl
@[simp] theorem groups_modNet (s : State) (f : Net → Net) : (s.modNet f).groups = s.groups := rfl
@[simp] theorem outs_modNet (s : State) (f : Net → Net) : (s.modNet f).outs = s.outs := rfl

/-! ### modTb leaves these alone -/

@[simp] theorem core_modTb (s : State) (f : Tb → Tb) (y : Nat) : (s.modTb f).core y = s.core y := rfl
@[simp] theorem clu_modTb (s : State) (f : Tb → Tb) (y : Nat) : (s.modTb f).clu y = s.clu y := rfl
@[simp] theorem chan_modTb (s : State) (f : Tb → Tb) (y : Nat) : (s.modTb f).chan y = s.chan y := rfl
@[simp] theorem entry_modTb (s : State) (f : Tb → Tb) (y : Nat) : (s.modTb f).entry y = s.entry y := rfl
@[simp] theorem part_modTb (s : State) (f : Tb → Tb) (y : Nat) : (s.modTb f).part y = s.part y := rfl
@[simp] theorem ctx_modTb (s : State) (f : Tb → Tb) (y : Nat) : (s.modTb f).ctx y = s.ctx y := rfl
@[simp] theorem rope_modTb (s : State) (f : Tb → Tb) (y : Nat) : (s.modTb f).rope y = s.rope y := rfl
@[simp] theorem image_modTb (s : State) (f : Tb → Tb) (y : Nat) : (s.modTb f).image y = s.image y := rfl
@[simp] theorem out_modTb (s : State) (f : Tb → Tb) (y : Nat) : (s.modTb f).out y = s.out y := rfl
@[simp] theorem achan_modTb (s : State) (f : Tb → Tb) (y : Nat) : (s.modTb f).achan y = s.achan y := rfl
@[simp] theorem ain_modTb (s : State) (f : Tb → Tb) (y : Nat) : (s.modTb f).ain y = s.ain y := rfl
@[simp] theorem group_modTb (s : State) (f : Tb → Tb) (y : Nat) : (s.modTb f).group y = s.group y := rfl
@[simp] theorem reg_modTb (s : State) (f : Tb → Tb) (y : Nat) : (s.modTb f).reg y = s.reg y := rfl
@[simp] theorem wide64_modTb (s : State) (f : Tb → Tb) (y : Nat) : (s.modTb f).wide64 y = s.wide64 y := rfl
@[simp] theorem pending_modTb (s : State) (f : Tb → Tb) : (s.modTb f).pending = s.pending := rfl
@[simp] theorem free_modTb (s : State) (f : Tb → Tb) : (s.modTb f).free = s.free := rfl
@[simp] theorem mem_modTb (s : State) (f : Tb → Tb) : (s.modTb f).mem = s.mem := rfl
@[simp] theorem sync_modTb (s : State) (f : Tb → Tb) : (s.modTb f).sync = s.sync := rfl
@[simp] theorem dockets_modTb (s : State) (f : Tb → Tb) : (s.modTb f).dockets = s.dockets := rfl
@[simp] theorem cmds_modTb (s : State) (f : Tb → Tb) : (s.modTb f).cmds = s.cmds := rfl
@[simp] theorem net_modTb (s : State) (f : Tb → Tb) : (s.modTb f).net = s.net := rfl
@[simp] theorem i3c_modTb (s : State) (f : Tb → Tb) : (s.modTb f).i3c = s.i3c := rfl
@[simp] theorem parts_modTb (s : State) (f : Tb → Tb) : (s.modTb f).parts = s.parts := rfl
@[simp] theorem entries_modTb (s : State) (f : Tb → Tb) : (s.modTb f).entries = s.entries := rfl
@[simp] theorem clusters_modTb (s : State) (f : Tb → Tb) : (s.modTb f).clusters = s.clusters := rfl
@[simp] theorem cores_modTb (s : State) (f : Tb → Tb) : (s.modTb f).cores = s.cores := rfl
@[simp] theorem groups_modTb (s : State) (f : Tb → Tb) : (s.modTb f).groups = s.groups := rfl
@[simp] theorem outs_modTb (s : State) (f : Tb → Tb) : (s.modTb f).outs = s.outs := rfl

/-! ### modI3c leaves these alone -/

@[simp] theorem core_modI3c (s : State) (f : I3c → I3c) (y : Nat) : (s.modI3c f).core y = s.core y := rfl
@[simp] theorem clu_modI3c (s : State) (f : I3c → I3c) (y : Nat) : (s.modI3c f).clu y = s.clu y := rfl
@[simp] theorem chan_modI3c (s : State) (f : I3c → I3c) (y : Nat) : (s.modI3c f).chan y = s.chan y := rfl
@[simp] theorem entry_modI3c (s : State) (f : I3c → I3c) (y : Nat) : (s.modI3c f).entry y = s.entry y := rfl
@[simp] theorem part_modI3c (s : State) (f : I3c → I3c) (y : Nat) : (s.modI3c f).part y = s.part y := rfl
@[simp] theorem ctx_modI3c (s : State) (f : I3c → I3c) (y : Nat) : (s.modI3c f).ctx y = s.ctx y := rfl
@[simp] theorem rope_modI3c (s : State) (f : I3c → I3c) (y : Nat) : (s.modI3c f).rope y = s.rope y := rfl
@[simp] theorem image_modI3c (s : State) (f : I3c → I3c) (y : Nat) : (s.modI3c f).image y = s.image y := rfl
@[simp] theorem out_modI3c (s : State) (f : I3c → I3c) (y : Nat) : (s.modI3c f).out y = s.out y := rfl
@[simp] theorem achan_modI3c (s : State) (f : I3c → I3c) (y : Nat) : (s.modI3c f).achan y = s.achan y := rfl
@[simp] theorem ain_modI3c (s : State) (f : I3c → I3c) (y : Nat) : (s.modI3c f).ain y = s.ain y := rfl
@[simp] theorem group_modI3c (s : State) (f : I3c → I3c) (y : Nat) : (s.modI3c f).group y = s.group y := rfl
@[simp] theorem reg_modI3c (s : State) (f : I3c → I3c) (y : Nat) : (s.modI3c f).reg y = s.reg y := rfl
@[simp] theorem wide64_modI3c (s : State) (f : I3c → I3c) (y : Nat) : (s.modI3c f).wide64 y = s.wide64 y := rfl
@[simp] theorem pending_modI3c (s : State) (f : I3c → I3c) : (s.modI3c f).pending = s.pending := rfl
@[simp] theorem free_modI3c (s : State) (f : I3c → I3c) : (s.modI3c f).free = s.free := rfl
@[simp] theorem mem_modI3c (s : State) (f : I3c → I3c) : (s.modI3c f).mem = s.mem := rfl
@[simp] theorem sync_modI3c (s : State) (f : I3c → I3c) : (s.modI3c f).sync = s.sync := rfl
@[simp] theorem dockets_modI3c (s : State) (f : I3c → I3c) : (s.modI3c f).dockets = s.dockets := rfl
@[simp] theorem cmds_modI3c (s : State) (f : I3c → I3c) : (s.modI3c f).cmds = s.cmds := rfl
@[simp] theorem tb_modI3c (s : State) (f : I3c → I3c) : (s.modI3c f).tb = s.tb := rfl
@[simp] theorem net_modI3c (s : State) (f : I3c → I3c) : (s.modI3c f).net = s.net := rfl
@[simp] theorem parts_modI3c (s : State) (f : I3c → I3c) : (s.modI3c f).parts = s.parts := rfl
@[simp] theorem entries_modI3c (s : State) (f : I3c → I3c) : (s.modI3c f).entries = s.entries := rfl
@[simp] theorem clusters_modI3c (s : State) (f : I3c → I3c) : (s.modI3c f).clusters = s.clusters := rfl
@[simp] theorem cores_modI3c (s : State) (f : I3c → I3c) : (s.modI3c f).cores = s.cores := rfl
@[simp] theorem groups_modI3c (s : State) (f : I3c → I3c) : (s.modI3c f).groups = s.groups := rfl
@[simp] theorem outs_modI3c (s : State) (f : I3c → I3c) : (s.modI3c f).outs = s.outs := rfl

/-! ### setShare leaves these alone -/

@[simp] theorem clu_setShare (s : State) (g j : Nat) (h : ShareSt) (y : Nat) : (s.setShare g j h).clu y = s.clu y := rfl
@[simp] theorem chan_setShare (s : State) (g j : Nat) (h : ShareSt) (y : Nat) : (s.setShare g j h).chan y = s.chan y := rfl
@[simp] theorem entry_setShare (s : State) (g j : Nat) (h : ShareSt) (y : Nat) : (s.setShare g j h).entry y = s.entry y := rfl
@[simp] theorem part_setShare (s : State) (g j : Nat) (h : ShareSt) (y : Nat) : (s.setShare g j h).part y = s.part y := rfl
@[simp] theorem ctx_setShare (s : State) (g j : Nat) (h : ShareSt) (y : Nat) : (s.setShare g j h).ctx y = s.ctx y := rfl
@[simp] theorem rope_setShare (s : State) (g j : Nat) (h : ShareSt) (y : Nat) : (s.setShare g j h).rope y = s.rope y := rfl
@[simp] theorem image_setShare (s : State) (g j : Nat) (h : ShareSt) (y : Nat) : (s.setShare g j h).image y = s.image y := rfl
@[simp] theorem out_setShare (s : State) (g j : Nat) (h : ShareSt) (y : Nat) : (s.setShare g j h).out y = s.out y := rfl
@[simp] theorem achan_setShare (s : State) (g j : Nat) (h : ShareSt) (y : Nat) : (s.setShare g j h).achan y = s.achan y := rfl
@[simp] theorem ain_setShare (s : State) (g j : Nat) (h : ShareSt) (y : Nat) : (s.setShare g j h).ain y = s.ain y := rfl
@[simp] theorem group_setShare (s : State) (g j : Nat) (h : ShareSt) (y : Nat) : (s.setShare g j h).group y = s.group y := rfl
@[simp] theorem reg_setShare (s : State) (g j : Nat) (h : ShareSt) (y : Nat) : (s.setShare g j h).reg y = s.reg y := rfl
@[simp] theorem wide64_setShare (s : State) (g j : Nat) (h : ShareSt) (y : Nat) : (s.setShare g j h).wide64 y = s.wide64 y := rfl
@[simp] theorem pending_setShare (s : State) (g j : Nat) (h : ShareSt) : (s.setShare g j h).pending = s.pending := rfl
@[simp] theorem free_setShare (s : State) (g j : Nat) (h : ShareSt) : (s.setShare g j h).free = s.free := rfl
@[simp] theorem mem_setShare (s : State) (g j : Nat) (h : ShareSt) : (s.setShare g j h).mem = s.mem := rfl
@[simp] theorem sync_setShare (s : State) (g j : Nat) (h : ShareSt) : (s.setShare g j h).sync = s.sync := rfl
@[simp] theorem dockets_setShare (s : State) (g j : Nat) (h : ShareSt) : (s.setShare g j h).dockets = s.dockets := rfl
@[simp] theorem cmds_setShare (s : State) (g j : Nat) (h : ShareSt) : (s.setShare g j h).cmds = s.cmds := rfl
@[simp] theorem tb_setShare (s : State) (g j : Nat) (h : ShareSt) : (s.setShare g j h).tb = s.tb := rfl
@[simp] theorem net_setShare (s : State) (g j : Nat) (h : ShareSt) : (s.setShare g j h).net = s.net := rfl
@[simp] theorem i3c_setShare (s : State) (g j : Nat) (h : ShareSt) : (s.setShare g j h).i3c = s.i3c := rfl
@[simp] theorem parts_setShare (s : State) (g j : Nat) (h : ShareSt) : (s.setShare g j h).parts = s.parts := rfl
@[simp] theorem entries_setShare (s : State) (g j : Nat) (h : ShareSt) : (s.setShare g j h).entries = s.entries := rfl
@[simp] theorem clusters_setShare (s : State) (g j : Nat) (h : ShareSt) : (s.setShare g j h).clusters = s.clusters := rfl
@[simp] theorem groups_setShare (s : State) (g j : Nat) (h : ShareSt) : (s.setShare g j h).groups = s.groups := rfl
@[simp] theorem outs_setShare (s : State) (g j : Nat) (h : ShareSt) : (s.setShare g j h).outs = s.outs := rfl

/-! ### bump leaves these alone -/

@[simp] theorem core_bump (s : State) (a lo n m : Nat) (y : Nat) : (s.bump a lo n m).core y = s.core y := rfl
@[simp] theorem clu_bump (s : State) (a lo n m : Nat) (y : Nat) : (s.bump a lo n m).clu y = s.clu y := rfl
@[simp] theorem chan_bump (s : State) (a lo n m : Nat) (y : Nat) : (s.bump a lo n m).chan y = s.chan y := rfl
@[simp] theorem entry_bump (s : State) (a lo n m : Nat) (y : Nat) : (s.bump a lo n m).entry y = s.entry y := rfl
@[simp] theorem part_bump (s : State) (a lo n m : Nat) (y : Nat) : (s.bump a lo n m).part y = s.part y := rfl
@[simp] theorem ctx_bump (s : State) (a lo n m : Nat) (y : Nat) : (s.bump a lo n m).ctx y = s.ctx y := rfl
@[simp] theorem rope_bump (s : State) (a lo n m : Nat) (y : Nat) : (s.bump a lo n m).rope y = s.rope y := rfl
@[simp] theorem image_bump (s : State) (a lo n m : Nat) (y : Nat) : (s.bump a lo n m).image y = s.image y := rfl
@[simp] theorem out_bump (s : State) (a lo n m : Nat) (y : Nat) : (s.bump a lo n m).out y = s.out y := rfl
@[simp] theorem achan_bump (s : State) (a lo n m : Nat) (y : Nat) : (s.bump a lo n m).achan y = s.achan y := rfl
@[simp] theorem ain_bump (s : State) (a lo n m : Nat) (y : Nat) : (s.bump a lo n m).ain y = s.ain y := rfl
@[simp] theorem group_bump (s : State) (a lo n m : Nat) (y : Nat) : (s.bump a lo n m).group y = s.group y := rfl
@[simp] theorem wide64_bump (s : State) (a lo n m : Nat) (y : Nat) : (s.bump a lo n m).wide64 y = s.wide64 y := rfl
@[simp] theorem pending_bump (s : State) (a lo n m : Nat) : (s.bump a lo n m).pending = s.pending := rfl
@[simp] theorem free_bump (s : State) (a lo n m : Nat) : (s.bump a lo n m).free = s.free := rfl
@[simp] theorem mem_bump (s : State) (a lo n m : Nat) : (s.bump a lo n m).mem = s.mem := rfl
@[simp] theorem sync_bump (s : State) (a lo n m : Nat) : (s.bump a lo n m).sync = s.sync := rfl
@[simp] theorem dockets_bump (s : State) (a lo n m : Nat) : (s.bump a lo n m).dockets = s.dockets := rfl
@[simp] theorem cmds_bump (s : State) (a lo n m : Nat) : (s.bump a lo n m).cmds = s.cmds := rfl
@[simp] theorem tb_bump (s : State) (a lo n m : Nat) : (s.bump a lo n m).tb = s.tb := rfl
@[simp] theorem net_bump (s : State) (a lo n m : Nat) : (s.bump a lo n m).net = s.net := rfl
@[simp] theorem i3c_bump (s : State) (a lo n m : Nat) : (s.bump a lo n m).i3c = s.i3c := rfl
@[simp] theorem parts_bump (s : State) (a lo n m : Nat) : (s.bump a lo n m).parts = s.parts := rfl
@[simp] theorem entries_bump (s : State) (a lo n m : Nat) : (s.bump a lo n m).entries = s.entries := rfl
@[simp] theorem clusters_bump (s : State) (a lo n m : Nat) : (s.bump a lo n m).clusters = s.clusters := rfl
@[simp] theorem cores_bump (s : State) (a lo n m : Nat) : (s.bump a lo n m).cores = s.cores := rfl
@[simp] theorem groups_bump (s : State) (a lo n m : Nat) : (s.bump a lo n m).groups = s.groups := rfl
@[simp] theorem outs_bump (s : State) (a lo n m : Nat) : (s.bump a lo n m).outs = s.outs := rfl

/-! ### setBits leaves these alone -/

@[simp] theorem core_setBits (s : State) (a m : Nat) (y : Nat) : (s.setBits a m).core y = s.core y := rfl
@[simp] theorem clu_setBits (s : State) (a m : Nat) (y : Nat) : (s.setBits a m).clu y = s.clu y := rfl
@[simp] theorem chan_setBits (s : State) (a m : Nat) (y : Nat) : (s.setBits a m).chan y = s.chan y := rfl
@[simp] theorem entry_setBits (s : State) (a m : Nat) (y : Nat) : (s.setBits a m).entry y = s.entry y := rfl
@[simp] theorem part_setBits (s : State) (a m : Nat) (y : Nat) : (s.setBits a m).part y = s.part y := rfl
@[simp] theorem ctx_setBits (s : State) (a m : Nat) (y : Nat) : (s.setBits a m).ctx y = s.ctx y := rfl
@[simp] theorem rope_setBits (s : State) (a m : Nat) (y : Nat) : (s.setBits a m).rope y = s.rope y := rfl
@[simp] theorem image_setBits (s : State) (a m : Nat) (y : Nat) : (s.setBits a m).image y = s.image y := rfl
@[simp] theorem out_setBits (s : State) (a m : Nat) (y : Nat) : (s.setBits a m).out y = s.out y := rfl
@[simp] theorem achan_setBits (s : State) (a m : Nat) (y : Nat) : (s.setBits a m).achan y = s.achan y := rfl
@[simp] theorem ain_setBits (s : State) (a m : Nat) (y : Nat) : (s.setBits a m).ain y = s.ain y := rfl
@[simp] theorem group_setBits (s : State) (a m : Nat) (y : Nat) : (s.setBits a m).group y = s.group y := rfl
@[simp] theorem wide64_setBits (s : State) (a m : Nat) (y : Nat) : (s.setBits a m).wide64 y = s.wide64 y := rfl
@[simp] theorem pending_setBits (s : State) (a m : Nat) : (s.setBits a m).pending = s.pending := rfl
@[simp] theorem free_setBits (s : State) (a m : Nat) : (s.setBits a m).free = s.free := rfl
@[simp] theorem mem_setBits (s : State) (a m : Nat) : (s.setBits a m).mem = s.mem := rfl
@[simp] theorem sync_setBits (s : State) (a m : Nat) : (s.setBits a m).sync = s.sync := rfl
@[simp] theorem dockets_setBits (s : State) (a m : Nat) : (s.setBits a m).dockets = s.dockets := rfl
@[simp] theorem cmds_setBits (s : State) (a m : Nat) : (s.setBits a m).cmds = s.cmds := rfl
@[simp] theorem tb_setBits (s : State) (a m : Nat) : (s.setBits a m).tb = s.tb := rfl
@[simp] theorem net_setBits (s : State) (a m : Nat) : (s.setBits a m).net = s.net := rfl
@[simp] theorem i3c_setBits (s : State) (a m : Nat) : (s.setBits a m).i3c = s.i3c := rfl
@[simp] theorem parts_setBits (s : State) (a m : Nat) : (s.setBits a m).parts = s.parts := rfl
@[simp] theorem entries_setBits (s : State) (a m : Nat) : (s.setBits a m).entries = s.entries := rfl
@[simp] theorem clusters_setBits (s : State) (a m : Nat) : (s.setBits a m).clusters = s.clusters := rfl
@[simp] theorem cores_setBits (s : State) (a m : Nat) : (s.setBits a m).cores = s.cores := rfl
@[simp] theorem groups_setBits (s : State) (a m : Nat) : (s.setBits a m).groups = s.groups := rfl
@[simp] theorem outs_setBits (s : State) (a m : Nat) : (s.setBits a m).outs = s.outs := rfl

end Sys2Proof.Machine
end

