-- ==== Sys2Proof/Laws/Kept.lean ====
section
/-! SUPPORT. What every command but the ones that move or clear the sample-time counter does to a state: the relation Kept,
and its laws for the updates of Machine/Ops.lean. -/

namespace Sys2Proof.Machine

/-- From s to t the queue of waiting commands and the sample-time counter stay, and the invariant is kept. -/
structure Kept (s t : State) : Prop where
  pending : t.pending = s.pending
  count : t.tb.count = s.tb.count
  inv : s.Inv → t.Inv

theorem Kept.refl (s : State) : Kept s s := ⟨rfl, rfl, id⟩

theorem Kept.trans {s t u : State} (a : Kept s t) (b : Kept t u) : Kept s u :=
  ⟨b.pending.trans a.pending, b.count.trans a.count, fun h => b.inv (a.inv h)⟩


/-- A record update of the fields that the invariant does not concern. -/
theorem Kept.mk' {s0 s : State} {free : Nat} {millNext : Nat} {rdata : Word} {regs : Tbl Word} {wide : Tbl W64} {latch
    : Tbl Word} {snaps : Tbl Snap} {badLines : List Nat} {waiters : List Waiter} {dockets : List Docket} {builders :
    Tbl Nat} {cmds : List Cmd} {delayed : List Delayed} {rx : List RxCmd} {nextCmd : Nat} {results : List (Src × Nat ×
    Bytes)} {orphans : List (Nat × Nat × Bytes)} {lane0 : List Nat} {lane1 : List Nat} {tb : Tb} {slotMask : BitVec
    16} {changes : List Change} {due : List Change} {mclk : Mclk} {net : Net} {i3c : I3c} {eventSeq : BitVec 16}
    {lastEvent : Bytes} {lastCpl : Bytes} {stages : Tbl Stage} {halted : Bool} {ready : Bool} {resetReq : Bool}
    {started : Bool} {resetCause : Nat} {resets : Word} {phyMode : BitVec 6} {i3cSa : BitVec 2} {badRails : List (Fin
    7)} {coreMap : Tbl Nat} {millMap : Tbl Nat} {narrowMap : Tbl Nat} {planned : Bool} {generation : Word} {planTime :
    Time} {tripped : Bool} {hotStart : Option (BitVec 16)} {stewardTemp : Byte} {dies : Tbl Byte} {debug : Bool}
    {entropyFail : Bool} {challenge : Option Bytes} {patchVersion : Word} {patchDigest : Bytes} (h : Kept s0 s) (c :
    tb.count = s.tb.count) : Kept s0 (State.mk s.pending free millNext rdata regs wide latch snaps s.mem badLines
    s.cores s.clusters s.chans s.sync waiters s.entries s.ropes dockets builders s.parts s.images s.ctxs cmds delayed
    rx nextCmd results orphans lane0 lane1 tb s.outs s.ains s.achans slotMask s.groups changes due mclk net i3c
    eventSeq lastEvent lastCpl stages halted ready resetReq started resetCause resets phyMode i3cSa badRails coreMap
    millMap narrowMap planned generation planTime tripped hotStart stewardTemp dies debug entropyFail challenge
    patchVersion patchDigest) :=
  ⟨h.pending, c.trans h.count, fun w => let v := h.inv w
    ⟨v.mem, v.cores, v.clusters, v.chans, v.sync, v.entries, v.ropes, v.parts, v.images, v.ctxs, v.outs, v.ains, v.achans, v.groups, v.shares⟩⟩

section
variable {s0 s : State}

theorem kept_setClu {n : Nat} {c : CluSt} (h : Kept s0 s) : Kept s0 (s.setClu n c) :=
  ⟨h.pending, h.count, fun w => let v := h.inv w
    ⟨v.mem, v.cores, Tbl.wf_set _ _ _ _ v.clusters, v.chans, v.sync, v.entries, v.ropes, v.parts, v.images, v.ctxs, v.outs, v.ains, v.achans, v.groups, v.shares⟩⟩
theorem kept_setChan {n : Nat} {c : ChanSt} (h : Kept s0 s) : Kept s0 (s.setChan n c) :=
  ⟨h.pending, h.count, fun w => let v := h.inv w
    ⟨v.mem, v.cores, v.clusters, Tbl.wf_set _ _ _ _ v.chans, v.sync, v.entries, v.ropes, v.parts, v.images, v.ctxs, v.outs, v.ains, v.achans, v.groups, v.shares⟩⟩
theorem kept_setEntry {n : Nat} {c : Entry} (h : Kept s0 s) : Kept s0 (s.setEntry n c) :=
  ⟨h.pending, h.count, fun w => let v := h.inv w
    ⟨v.mem, v.cores, v.clusters, v.chans, v.sync, Tbl.wf_set _ _ _ _ v.entries, v.ropes, v.parts, v.images, v.ctxs, v.outs, v.ains, v.achans, v.groups, v.shares⟩⟩
theorem kept_setPart {n : Nat} {c : Part} (h : Kept s0 s) : Kept s0 (s.setPart n c) :=
  ⟨h.pending, h.count, fun w => let v := h.inv w
    ⟨v.mem, v.cores, v.clusters, v.chans, v.sync, v.entries, v.ropes, Tbl.wf_set _ _ _ _ v.parts, v.images, v.ctxs, v.outs, v.ains, v.achans, v.groups, v.shares⟩⟩
theorem kept_setCtx {n : Nat} {c : Option Ctx} (h : Kept s0 s) : Kept s0 (s.setCtx n c) :=
  ⟨h.pending, h.count, fun w => let v := h.inv w
    ⟨v.mem, v.cores, v.clusters, v.chans, v.sync, v.entries, v.ropes, v.parts, v.images, Tbl.wf_set _ _ _ _ v.ctxs, v.outs, v.ains, v.achans, v.groups, v.shares⟩⟩
theorem kept_setRope {n : Nat} {c : Option Rope} (h : Kept s0 s) : Kept s0 (s.setRope n c) :=
  ⟨h.pending, h.count, fun w => let v := h.inv w
    ⟨v.mem, v.cores, v.clusters, v.chans, v.sync, v.entries, Tbl.wf_set _ _ _ _ v.ropes, v.parts, v.images, v.ctxs, v.outs, v.ains, v.achans, v.groups, v.shares⟩⟩
theorem kept_setImage {n : Nat} {c : Option Image} (h : Kept s0 s) : Kept s0 (s.setImage n c) :=
  ⟨h.pending, h.count, fun w => let v := h.inv w
    ⟨v.mem, v.cores, v.clusters, v.chans, v.sync, v.entries, v.ropes, v.parts, Tbl.wf_set _ _ _ _ v.images, v.ctxs, v.outs, v.ains, v.achans, v.groups, v.shares⟩⟩
theorem kept_setOut {n : Nat} {c : AesOut} (h : Kept s0 s) : Kept s0 (s.setOut n c) :=
  ⟨h.pending, h.count, fun w => let v := h.inv w
    ⟨v.mem, v.cores, v.clusters, v.chans, v.sync, v.entries, v.ropes, v.parts, v.images, v.ctxs, Tbl.wf_set _ _ _ _ v.outs, v.ains, v.achans, v.groups, v.shares⟩⟩
theorem kept_setAchan {n : Nat} {c : Chan} (h : Kept s0 s) : Kept s0 (s.setAchan n c) :=
  ⟨h.pending, h.count, fun w => let v := h.inv w
    ⟨v.mem, v.cores, v.clusters, v.chans, v.sync, v.entries, v.ropes, v.parts, v.images, v.ctxs, v.outs, v.ains, Tbl.wf_set _ _ _ _ v.achans, v.groups, v.shares⟩⟩
theorem kept_setAin {n : Nat} {c : AesIn} (h : Kept s0 s) : Kept s0 (s.setAin n c) :=
  ⟨h.pending, h.count, fun w => let v := h.inv w
    ⟨v.mem, v.cores, v.clusters, v.chans, v.sync, v.entries, v.ropes, v.parts, v.images, v.ctxs, v.outs, Tbl.wf_set _ _ _ _ v.ains, v.achans, v.groups, v.shares⟩⟩
theorem kept_setGroup {n : Nat} {c : Group} (h : Kept s0 s) : Kept s0 (s.setGroup n c) :=
  ⟨h.pending, h.count, fun w => let v := h.inv w
    ⟨v.mem, v.cores, v.clusters, v.chans, v.sync, v.entries, v.ropes, v.parts, v.images, v.ctxs, v.outs, v.ains, v.achans, Tbl.wf_set _ _ _ _ v.groups, v.shares⟩⟩

/-- Writing a core keeps the invariant when its table of shares is in canonical form. -/
theorem kept_setCore {g : Nat} {c : CoreSt} (h : Kept s0 s) (hc : s.Inv → Tbl.wf {} c.shares = true) :
    Kept s0 (s.setCore g c) :=
  ⟨h.pending, h.count, fun w => let v := h.inv w
    ⟨v.mem, Tbl.wf_set _ _ _ _ v.cores, v.clusters, v.chans, v.sync, v.entries, v.ropes, v.parts, v.images, v.ctxs, v.outs,
      v.ains, v.achans, v.groups, fun i => by
        by_cases e : i = g
        · subst e; rw [State.core, State.setCore, Tbl.get_set_self]; exact hc v
        · rw [State.core, State.setCore, Tbl.get_set_ne _ _ _ e]; exact v.shares i⟩⟩

theorem kept_modCore {g : Nat} {f : CoreSt → CoreSt} (h : Kept s0 s) (hf : ∀ c, (f c).shares = c.shares) :
    Kept s0 (s.modCore g f) :=
  kept_setCore h fun v => by rw [hf]; exact v.shares g

theorem kept_setShare {g j : Nat} {x : ShareSt} (h : Kept s0 s) : Kept s0 (s.setShare g j x) :=
  kept_setCore h fun v => Tbl.wf_set _ _ _ _ (v.shares g)

theorem kept_modShare {g j : Nat} {f : ShareSt → ShareSt} (h : Kept s0 s) : Kept s0 (s.modShare g j f) := kept_setShare h

theorem kept_modClu {n : Nat} {f : CluSt → CluSt} (h : Kept s0 s) : Kept s0 (s.modClu n f) := kept_setClu h
theorem kept_modChan {n : Nat} {f : ChanSt → ChanSt} (h : Kept s0 s) : Kept s0 (s.modChan n f) := kept_setChan h
theorem kept_modEntry {n : Nat} {f : Entry → Entry} (h : Kept s0 s) : Kept s0 (s.modEntry n f) := kept_setEntry h
theorem kept_modPart {n : Nat} {f : Part → Part} (h : Kept s0 s) : Kept s0 (s.modPart n f) := kept_setPart h
theorem kept_modCtx {n : Nat} {f : Ctx → Ctx} (h : Kept s0 s) : Kept s0 (s.modCtx n f) := kept_setCtx h
theorem kept_modRope {n : Nat} {f : Rope → Rope} (h : Kept s0 s) : Kept s0 (s.modRope n f) := kept_setRope h
theorem kept_modOut {n : Nat} {f : AesOut → AesOut} (h : Kept s0 s) : Kept s0 (s.modOut n f) := kept_setOut h
theorem kept_modAchan {n : Nat} {f : Chan → Chan} (h : Kept s0 s) : Kept s0 (s.modAchan n f) := kept_setAchan h
theorem kept_modAin {n : Nat} {f : AesIn → AesIn} (h : Kept s0 s) : Kept s0 (s.modAin n f) := kept_setAin h
theorem kept_modGroup {n : Nat} {f : Group → Group} (h : Kept s0 s) : Kept s0 (s.modGroup n f) := kept_setGroup h

theorem kept_modNet {f : Net → Net} (h : Kept s0 s) : Kept s0 (s.modNet f) := Kept.mk' h rfl
theorem kept_modI3c {f : I3c → I3c} (h : Kept s0 s) : Kept s0 (s.modI3c f) := Kept.mk' h rfl
theorem kept_modPort {p : Nat} {f : Port → Port} (h : Kept s0 s) : Kept s0 (s.modPort p f) := Kept.mk' h rfl
theorem kept_setReg {a : Nat} {w : Word} (h : Kept s0 s) : Kept s0 (s.setReg a w) := Kept.mk' h rfl
theorem kept_setBits {a m : Nat} (h : Kept s0 s) : Kept s0 (s.setBits a m) := Kept.mk' h rfl
theorem kept_bump {a lo n m : Nat} (h : Kept s0 s) : Kept s0 (s.bump a lo n m) := Kept.mk' h rfl
theorem kept_bumpWide {a m : Nat} (h : Kept s0 s) : Kept s0 (s.bumpWide a m) := Kept.mk' h rfl
theorem kept_draw (h : Kept s0 s) : Kept s0 s.draw.2 := Kept.mk' h rfl

theorem kept_modTb {f : Tb → Tb} (h : Kept s0 s) (hf : (f s.tb).count = s.tb.count) : Kept s0 (s.modTb f) :=
  Kept.mk' h hf

/-! ### Answers that hold a state -/

/-- A state and more. -/
def KeptP {α : Type} (s : State) (x : State × α) : Prop := Kept s x.1
/-- More and a state. -/
def KeptQ {α : Type} (s : State) (x : α × State) : Prop := Kept s x.2
/-- A state if there is one. -/
structure KeptO (s : State) (x : Option State) : Prop where
  of : ∀ t, x = some t → Kept s t

theorem KeptP.mk {α : Type} {a : α} (h : Kept s0 s) : KeptP s0 (s, a) := h
theorem KeptQ.mk {α : Type} {a : α} (h : Kept s0 s) : KeptQ s0 (a, s) := h
theorem KeptO.none : KeptO s0 none := ⟨fun _ e => (Option.some_ne_none _ e.symm).elim⟩
theorem KeptO.some (h : Kept s0 s) : KeptO s0 (some s) := ⟨by rintro t ⟨⟩; exact h⟩
theorem KeptP.fst {α : Type} {x : State × α} (h : KeptP s0 x) : Kept s0 x.1 := h
theorem KeptQ.snd {α : Type} {x : α × State} (h : KeptQ s0 x) : Kept s0 x.2 := h

/-- What a command's body answers. -/
def CmdRes.Kept (s : State) : CmdRes → Prop
  | .done t _ _ => Machine.Kept s t
  | .trunc t _ => Machine.Kept s t
  | .wait t _ => Machine.Kept s t
  | .silent t => Machine.Kept s t

/-- What a started word answers. -/
def StartRes.Kept (s : State) : StartRes → Prop
  | .done t _ => Machine.Kept s t
  | .later t => Machine.Kept s t
  | .keep t => Machine.Kept s t
  | .fault t _ => Machine.Kept s t

theorem CmdRes.kept_done {a : BitVec 16} {b : Bytes} (h : Machine.Kept s0 s) : (CmdRes.done s a b).Kept s0 := h
theorem CmdRes.kept_trunc {b : Bytes} (h : Machine.Kept s0 s) : (CmdRes.trunc s b).Kept s0 := h
theorem CmdRes.kept_wait {w : Wait} (h : Machine.Kept s0 s) : (CmdRes.wait s w).Kept s0 := h
theorem CmdRes.kept_silent (h : Machine.Kept s0 s) : (CmdRes.silent s).Kept s0 := h
theorem StartRes.kept_done {n : Nat} (h : Machine.Kept s0 s) : (StartRes.done s n).Kept s0 := h
theorem StartRes.kept_later (h : Machine.Kept s0 s) : (StartRes.later s).Kept s0 := h
theorem StartRes.kept_keep (h : Machine.Kept s0 s) : (StartRes.keep s).Kept s0 := h
theorem StartRes.kept_fault {n : Nat} (h : Machine.Kept s0 s) : (StartRes.fault s n).Kept s0 := h

/-! ### Memory -/

/-- Storing bytes keeps memory's canonical form. -/
theorem wf_writeBytes (bs : Bytes) : ∀ (m : List Host.Cell) (a : Nat), Memory.wf m → Memory.wf (writeBytes m a bs) := by
  induction bs with
  | nil => exact fun _ _ h => h
  | cons b bs ih => exact fun m a h => ih _ _ (Tbl.wf_set _ _ _ _ h)

/-- An update of memory, and of the list of failing lines, that keeps memory's canonical form. -/
theorem kept_mem {m : List Host.Cell} {b : List Nat} (h : Kept s0 s) (hm : Memory.wf s.mem → Memory.wf m) :
    Kept s0 { s with mem := m, badLines := b } :=
  ⟨h.pending, h.count, fun w => let v := h.inv w
    ⟨hm v.mem, v.cores, v.clusters, v.chans, v.sync, v.entries, v.ropes, v.parts, v.images, v.ctxs, v.outs,
      v.ains, v.achans, v.groups, v.shares⟩⟩

/-- An update of the synchronisation objects. -/
theorem kept_sync {x : Tbl Word} (h : Kept s0 s) (hx : Tbl.wf 0 s.sync = true → Tbl.wf 0 x = true) :
    Kept s0 { s with sync := x } :=
  ⟨h.pending, h.count, fun w => let v := h.inv w
    ⟨v.mem, v.cores, v.clusters, v.chans, hx v.sync, v.entries, v.ropes, v.parts, v.images, v.ctxs, v.outs,
      v.ains, v.achans, v.groups, v.shares⟩⟩

/-- A fold of updates, with a state as its accumulator or in it. -/
theorem kept_foldl {α : Type} {l : List α} {f : State → α → State} (h : Kept s0 s)
    (hf : ∀ s x, Kept s0 s → Kept s0 (f s x)) : Kept s0 (l.foldl f s) := by
  induction l generalizing s with
  | nil => exact h
  | cons x l ih => exact ih (hf s x h)

theorem keptp_foldl {α β : Type} {l : List α} {f : State × β → α → State × β} {b : State × β} (h : KeptP s0 b)
    (hf : ∀ b x, KeptP s0 b → KeptP s0 (f b x)) : KeptP s0 (l.foldl f b) := by
  induction l generalizing b with
  | nil => exact h
  | cons x l ih => exact ih (hf b x h)

theorem keptq_foldl {α β : Type} {l : List α} {f : β × State → α → β × State} {b : β × State} (h : KeptQ s0 b)
    (hf : ∀ b x, KeptQ s0 b → KeptQ s0 (f b x)) : KeptQ s0 (l.foldl f b) := by
  induction l generalizing b with
  | nil => exact h
  | cons x l ih => exact ih (hf b x h)

theorem kept_each {α : Type} {l : List α} {f : State → α → State} (h : Kept s0 s)
    (hf : ∀ s x, Kept s0 s → Kept s0 (f s x)) : Kept s0 (s.each l f) := kept_foldl h hf

theorem kept_when {c : Bool} {f : State → State} (h : Kept s0 s) (hf : Kept s0 s → Kept s0 (f s)) : Kept s0 (s.when c f) := by
  unfold State.when; split
  · exact hf h
  · exact h

end

end Sys2Proof.Machine
end

