-- ==== Sys2Proof/Laws/Share.lean ====
section
/-! SUPPORT. Laws of shares: reading a share after a write, and what one front-end dispatch does. -/

namespace Sys2Proof.Machine

@[simp] theorem core_setCore_self (s : State) (g : Nat) (c : CoreSt) : (s.setCore g c).core g = c :=
  Tbl.get_set_self _ _ _ _

theorem core_setCore_ne (s : State) (g i : Nat) (c : CoreSt) (h : i ≠ g) : (s.setCore g c).core i = s.core i :=
  Tbl.get_set_ne _ _ _ h

/-- A share reads back as written. -/
@[simp] theorem share_setShare_self (s : State) (g j : Nat) (h : ShareSt) : (s.setShare g j h).share g j = h := by
  unfold State.share State.setShare
  rw [core_setCore_self]
  exact Tbl.get_set_self _ _ _ _

theorem share_setShare_ne (s : State) (g j a b : Nat) (h : ShareSt) (n : ¬ (a = g ∧ b = j)) :
    (s.setShare g j h).share a b = s.share a b := by
  unfold State.share State.setShare
  by_cases e : a = g
  · subst e
    rw [core_setCore_self]
    exact Tbl.get_set_ne _ _ _ (fun x => n ⟨rfl, x⟩)
  · rw [core_setCore_ne _ _ _ _ e]

/-- Writing a share changes nothing but that share. -/
theorem onlyShare_setShare (s : State) (site : Site) (h : ShareSt) :
    OnlyShare s (s.setShare site.core.val site.share.val h) site := by
  refine ⟨rfl, fun g => ?_, fun g j n => share_setShare_ne s _ _ _ _ h n⟩
  by_cases e : g = site.core.val
  · subst e
    rw [State.setShare, core_setCore_self]
  · rw [State.setShare, core_setCore_ne _ _ _ _ e]

theorem OnlyShare.trans {s t u : State} {site : Site} (a : OnlyShare s t site) (b : OnlyShare t u site) :
    OnlyShare s u site := by
  refine ⟨?_, fun g => ?_, fun g j n => (b.2.2 g j n).trans (a.2.2 g j n)⟩
  · rw [← b.1, ← a.1]
  · have h1 := a.2.1 g
    have h2 := b.2.1 g
    rw [← h1, ← h2]

theorem onlyShare_refl (s : State) (site : Site) : OnlyShare s s site := ⟨rfl, fun _ => rfl, fun _ _ _ => rfl⟩

theorem onlyShare_modShare (s : State) (site : Site) (f : ShareSt → ShareSt) :
    OnlyShare s (s.modShare site.core.val site.share.val f) site :=
  onlyShare_setShare s site _

/-- An update of a core that leaves its shares, and all but its rotation, starvations and gate, as they were. -/
theorem onlyShare_core (s : State) (site : Site) (c : CoreSt)
    (h : { c with
        shares := (s.core site.core.val).shares, bgLast := (s.core site.core.val).bgLast,
        starveFrom := (s.core site.core.val).starveFrom, gated := (s.core site.core.val).gated } =
      s.core site.core.val) (hs : c.shares = (s.core site.core.val).shares) :
    OnlyShare s (s.setCore site.core.val c) site ∧ (s.setCore site.core.val c).at site = s.at site := by
  have key : ∀ a b, (s.setCore site.core.val c).share a b = s.share a b := by
    intro a b
    unfold State.share
    by_cases e : a = site.core.val
    · subst e; rw [core_setCore_self, hs]
    · rw [core_setCore_ne _ _ _ _ e]
  refine ⟨⟨rfl, fun g => ?_, fun a b _ => key a b⟩, key _ _⟩
  by_cases e : g = site.core.val
  · subst e; rw [core_setCore_self]; exact h
  · rw [core_setCore_ne _ _ _ _ e]

/-- The rotation changes nothing else. -/
theorem onlyShare_rotate (s : State) (site : Site) (u : Nat) :
    OnlyShare s (s.rotate site.core.val u site.share.val) site ∧
      (s.rotate site.core.val u site.share.val).at site = s.at site := by
  unfold State.rotate
  split
  · exact onlyShare_core s site _ rfl rfl
  · exact ⟨onlyShare_refl s site, rfl⟩

/-- A gated core's clock runs again; nothing else changes. -/
theorem onlyShare_wakeCore (s : State) (site : Site) :
    OnlyShare s (s.wakeCore site.core.val) site ∧ (s.wakeCore site.core.val).at site = s.at site := by
  unfold State.wakeCore
  split
  · exact onlyShare_core s site _ rfl rfl
  · exact ⟨onlyShare_refl s site, rfl⟩

theorem charge_frame (h : ShareSt) (u : Bool) (n : Nat) :
    ∃ d b e, h.charge u n = { h with deficit := d, borrowed := b, debt := e } := by
  unfold ShareSt.charge
  split
  · exact ⟨h.deficit, h.borrowed, h.debt, rfl⟩
  · split
    · exact ⟨_, _, _, rfl⟩
    · exact ⟨_, h.borrowed, h.debt, rfl⟩

/-- One dispatch: the share is charged one front-end cycle, it no longer starves, and the ticket wait of a fused command
is over; nothing else changes. -/
theorem dispatched_spec (s : State) (site : Site) :
    OnlyShare s (s.dispatched site.core.val site.share.val) site ∧
      ∃ d b e, (s.dispatched site.core.val site.share.val).at site =
        { s.at site with tallyFe := (s.at site).tallyFe + 1, deficit := d, borrowed := b, debt := e, starving := false,
                         fused := (s.at site).fused.map fun f => { f with wait := none } } := by
  obtain ⟨p1, p2⟩ := onlyShare_core s site
    { s.core site.core.val with starveFrom := s.starvations site.core.val site.share.val } rfl rfl
  simp only [State.dispatched, State.chargeUnit, State.modCore, if_neg (show ¬ 4 = 3 by decide)]
  generalize s.setCore site.core.val _ = x at p1 p2 ⊢
  obtain ⟨q1, q2⟩ := onlyShare_wakeCore x site
  generalize x.wakeCore site.core.val = y at q1 q2 ⊢
  obtain ⟨r1, r2⟩ := onlyShare_rotate y site 4
  replace r1 := (p1.trans q1).trans r1
  replace r2 := r2.trans (q2.trans p2)
  generalize y.rotate site.core.val 4 site.share.val = t at r1 r2 ⊢
  generalize t.isUrgent (t.share site.core.val site.share.val) = u
  obtain ⟨d, b, e, hc⟩ := charge_frame ((s.at site).count 4 1) u 1
  have a1 := onlyShare_modShare t site (fun h => (h.count 4 1).charge u 1)
  have v1 : (t.modShare site.core.val site.share.val fun h => (h.count 4 1).charge u 1).at site =
      { (s.at site).count 4 1 with deficit := d, borrowed := b, debt := e } := by
    rw [← hc, ← r2]; exact share_setShare_self _ _ _ _
  generalize (t.modShare site.core.val site.share.val fun h => (h.count 4 1).charge u 1) = v at a1 v1
  refine ⟨(r1.trans a1).trans (onlyShare_modShare v site _), d, b, e, ?_⟩
  refine (share_setShare_self _ _ _ _).trans ?_
  show ({ v.at site with starving := false, fused := (v.at site).fused.map fun f => { f with wait := none } } : ShareSt) = _
  rw [v1]
  rfl

/-- A front-end word that issues and succeeds on the share h as its dispatch leaves it: what the share becomes, and that
nothing else changes. -/
theorem dispatchFront_spec (s : State) (site : Site) (w : W64) (op : Nat) (f : ShareSt → FrontRes) (i : Issues s site w op) :
    ∃ h : ShareSt, (∃ d b e, h =
        { s.at site with tallyFe := (s.at site).tallyFe + 1, deficit := d, borrowed := b, debt := e, starving := false,
                         fused := (s.at site).fused.map fun f => { f with wait := none } }) ∧
      ∀ u : ShareSt, ((∃ x, f h = .ok x ∧ u = x.advance h.pc) ∨ f h = .go u) →
        OnlyShare s (s.dispatchFront site w op f) site ∧ (s.dispatchFront site w op f).at site = u := by
  obtain ⟨i1, i2, i3, i4, i5⟩ := i
  obtain ⟨o, d, b, e, hd⟩ := dispatched_spec s site
  refine ⟨(s.dispatched site.core.val site.share.val).at site, ⟨d, b, e, hd⟩, ?_⟩
  intro u hf
  have hh : (s.dispatched site.core.val site.share.val).share site.core.val site.share.val =
    (s.dispatched site.core.val site.share.val).at site := rfl
  generalize (s.dispatched site.core.val site.share.val).at site = h at hf hh hd
  have g1 : h.guardOff w.toNat = false := by rw [hd]; exact i4
  have g2 : (h.fusedLoop.isSome && fuseForbids op) = false := by rw [hd]; exact i5
  have res : s.dispatchFront site w op f = (s.dispatched site.core.val site.share.val).setShare site.core.val site.share.val u := by
    unfold State.dispatchFront
    simp only [i1, i2, beq_self_eq_true, Bool.and_self, if_true, hh, i3, Bool.not_true, Bool.false_eq_true, if_false, g1, g2]
    rcases hf with ⟨x, hx, rfl⟩ | hx <;> rw [hx]
  rw [res]
  exact ⟨o.trans (onlyShare_setShare _ site u), share_setShare_self _ _ _ _⟩

/-- A straight word goes on to the next one. -/
theorem straight_advance (s : State) (site : Site) (st : Straight s site) (h : ShareSt)
    (hl : h.loops = (s.at site).loops) : h.advance (s.at site).pc = { h with pc := (s.at site).pc + 1 } := by
  unfold ShareSt.advance
  cases e : h.loops with
  | nil => simp only [ShareSt.closeLoops, ← e]
  | cons l r =>
    have := st l (by rw [← hl, e]; rfl)
    simp only [ShareSt.closeLoops, if_neg this, ← e]

/-- A straight front-end word whose effect is to leave the registers as S, A and P. -/
theorem dispatchFront_sets (s : State) (site : Site) (w : W64) (op : Nat) (f : ShareSt → FrontRes) (i : Issues s site w op)
    (st : Straight s site) (S : Tbl Word) (A : Tbl Addr) (P : Tbl Bool)
    (hf : ∀ h : ShareSt, h.s = (s.at site).s → h.a = (s.at site).a → h.p = (s.at site).p → h.logical = (s.at site).logical → h.ctx = (s.at site).ctx → f h = .ok { h with s := S, a := A, p := P }) :
    FrontSets s (s.dispatchFront site w op f) site S A P := by
  obtain ⟨h, ⟨d, b, e, eq⟩, hd⟩ := dispatchFront_spec s site w op f i
  have r := hf h (by rw [eq]) (by rw [eq]) (by rw [eq]) (by rw [eq]) (by rw [eq])
  have adv := straight_advance s site st { h with s := S, a := A, p := P } (by rw [eq])
  have pc : h.pc = (s.at site).pc := by rw [eq]
  obtain ⟨o, a⟩ := hd _ (Or.inl ⟨_, r, ((congrArg (ShareSt.advance _) pc).trans adv).symm⟩)
  refine ⟨o, ?_⟩
  rw [a, eq]
  exact ⟨rfl, rfl, rfl, rfl, rfl, rfl, rfl, rfl, rfl, rfl⟩

end Sys2Proof.Machine
end

