-- ==== Sys2Proof/Tests/Slice0.lean ====
section
/-! SUPPORT. The model's own tests: a witness wit_<statement> for the hypotheses of each statement of
Certificates/Slice0/Obligations.lean, an ill-formed command for each check of WellFormed.lean, the worked examples of the
spec, and a few single steps. -/

namespace Sys2Proof.Tests

open Sys2Proof Sys2Proof.Machine

-- one theorem at a time: checked side by side they would hold a stack each
set_option Elab.async false

/-! ### Small states -/

/-- Start-up done, the counter running at sample time n. -/
def runAt (n : Nat) : State := { started := true, ready := true, tb := { running := true, count := BitVec.ofNat 48 n } }

/-- An I3C target that is live and holds a dynamic address. -/
def live : State := { i3c := { live := true, daValid := true, enint := true, ibi := 7 } }

/-- A LOCKED word-clock source of 48 kHz, its last edge at instant 0. -/
def lockedTb : Tb := { running := true, src := 3 }

/-! ### Witnesses: the machine, registers, I3C, start-up, timebase -/

theorem wit_StepRunsFrontCommand : State.reset.pending = [] := rfl

theorem wit_CommandsAnswer : (∀ p, Instr.sramEccError .corrected ≠ .sramEccError (.cacheLine p)) ∧
    ((0x47FFFFFF : Nat) < 2 ^ 39 ∧ (0x47FFFFFF : Nat) % 2 ^ 31 < 0x48000000) := ⟨nofun, by decide⟩

theorem wit_StepConsumesFrontOnly :
    exec .ibiRetry { pending := [.ibiRetry] } = .next { pending := [.ibiRetry] } ∧
      step { pending := [.ibiRetry, .fChange] } = .next { pending := [.fChange] } :=
  ⟨rfl, rfl⟩

theorem wit_StepKeepsCanonical : State.reset.Inv := ⟨rfl, rfl, rfl, rfl, rfl, rfl, rfl, rfl, rfl, rfl, rfl, rfl, rfl, rfl, fun _ => rfl⟩

theorem wit_CounterMovesByPeriods :
    (State.reset.powerOn.stage 0).result = 1 ∧ State.reset.powerOn.halted = false ∧
    ((runAt 0).tb.running = true ∧ (runAt 0).tb.counting = false) ∧
    (lockedTb.counting = true ∧ lockedTb.counted = false ∧ lockedTb.inWindow 0x0208D555 = true ∧ lockedTb.accepted = none) ∧
    { lockedTb with counted := true }.counting = true ∧ { State.reset with resetReq := true }.resetReq = true ∧
    State.reset.powerOn.mustFail 0 = none := by decide +kernel

theorem wit_RegisterAccess :
    State.reset.regValue 16 2 = none ∧ State.reset.regValue 16 0x0A0000 = none ∧ State.reset.regValue 16 0xFFFFFC = none ∧
    State.reset.mayWrite (.cmd 0 false) 0x20 1 = false ∧ w1cMask 0x010000 = 0 ∧
    (w1cMask 0x20 ≠ 0 ∧ (State.reset.regValue 16 0x20).isSome = true ∧ State.reset.mayWrite .i3c 0x20 1 = true) ∧
    (({ entries := [(4095, { part := some 3 })] } : State).entry 4095).belongs 3 = true := by decide

theorem wit_RegisterReads :
    (State.reset.regValue 16 0x00000C = some 0 ∧ State.reset.mayRead .i3c 0x00000C = true ∧
      State.reset.pairValue 16 0x00000C = none ∧ rcMask 0x00000C = 0 ∧
      timedReg 0x00000C = false) ∧
    (State.reset.regValue 16 0x010034 = some 0 ∧ State.reset.mayRead .i3c 0x010034 = true ∧
      State.reset.pairValue 16 0x010034 = none ∧ rcMask 0x010034 ≠ 0 ∧ timedReg 0x010034 = false) ∧
    (State.reset.regValue 16 0x100C10 = some 0 ∧ State.reset.mayRead .i3c 0x100C10 = true ∧ timedReg 0x100C10 = true ∧
      timedWide 0x100C10 = false) ∧
    timedWide 0x060010 = true ∧ (State.reset.clu 31).throttle = 0 := by decide

theorem wit_I3cCodes : live.i3c.live = true ∧ live.i3c.daValid = true ∧ ({ i3c := { live := true } } : State).i3c.daValid = false ∧
    (0x58 : BitVec 7).toNat = 0x58 + live.i3cSa.toNat := by decide

theorem wit_I3cTransfers :
    (live.i3c.live = true ∧ live.i3c.daValid = true ∧ live.i3c.hdr = false ∧ 7 ≤ live.i3c.mwl) ∧
    (leNat [0xFC, 0x0F, 0x04] % 4 = 0 ∧ leNat [0xFC, 0x0F, 0x04] < 0x041000 ∧ 0x042000 ≤ leNat [0x00, 0x20, 0x04]) ∧
    (4 ≤ live.i3c.mrl ∧ live.i3c.ptr.toNat % 4 = 0 ∧ (live.readReg 16 live.i3c.ptr.toNat).isSome = true) ∧
    (([0, 0, 0, 0] : Bytes) ≠ [] ∧ ([0, 0, 0, 0] : Bytes).length % 4 = 0 ∧ (if live.i3c.hdr then 4 else 3) + 4 ≤ live.i3c.mwl ∧
      live.i3c.outstanding + live.i3c.cpl.length < 16) ∧
    16 ≤ 15 + ([[]] : List Bytes).length ∧
    (live.i3c.enint = true ∧ live.i3c.ibi.getLsbD 2 = true ∧ live.i3c.nacked = none) ∧
    ({ live with i3c := { live.i3c with nacked := some 2 } } : State).i3c.nacked = some 2 ∧ live.badRails = [] := by decide

theorem wit_StartUpAndResets :
    State.reset.started = false ∧
    ((State.reset.beginStage 7 0).stage 7).result = 1 ∧ ((State.reset.beginStage 4 0).stage 4).result = 1 ∧
    ((State.reset.beginStage 5 0).stage 5).result = 1 ∧
    (State.reset.powerOn.mustFail 0 = none ∧ (State.reset.beginStage 7 0).mustFail 7 = none ∧
      { State.reset.powerOn with hotStart := some 3 }.hotNow = some 3) ∧
    (let s := { State.reset.powerOn with badRails := [6, 2] }
     s.hotNow = none ∧ 2 ∈ s.badRails ∧ ∀ q ∈ s.badRails, 2 ≤ q) ∧
    { State.reset.beginStage 4 0 with entropyFail := true }.entropyFail = true ∧
    (railPhy ∈ { State.reset with badRails := [railPhy] }.badRails ∧ railNet ∉ { State.reset with badRails := [railPhy] }.badRails) ∧
    railNet ∉ State.reset.badRails ∧ railPhy ∉ State.reset.badRails ∧ { State.reset with resetReq := true }.resetReq = true := by
  decide +kernel

theorem wit_TimebaseCounting :
    (lockedTb.counting = true ∧ lockedTb.accepted = none ∧ lockedTb.inWindow (0x0208D555 - 2047999) = true ∧
      lockedTb.inWindow (0x0208D555 - 2048000) = false ∧ lockedTb.inWindow (0x0208D555 + 2047999) = true ∧ lockedTb.counted = false) ∧
    { lockedTb with accepted := some 1 }.accepted ≠ none ∧ (2 : Fin 4) ≠ lockedTb.src ∧
    { lockedTb with counted := true, miss := 3 }.miss < 4 ∧
    ((runAt 0).tb.running = true ∧ (runAt 0).tb.counting = false) := by decide

theorem wit_TimebaseMeasurement :
    ({ lockedTb with st := .acquire, miss := 3 } : Tb).miss < 4 ∧
    ({ lockedTb with st := .relock, miss := 4 } : Tb).running = true ∧ lockedTb.src ≠ 0 ∧
    ({ lockedTb with miss := 4, counted := true } : Tb).counting = true ∧
    (({ lockedTb with st := .holdover, lastEdge := some 0, periods := List.replicate 255 0x0208D555 } : Tb).lastEdge = some 0 ∧
      0x0208D555 - 0 ≤ 807 * 65536) ∧
    acquired (List.replicate 256 0x0208D555) = some (256 * 0x0208D555) ∧
    meanRate (256 * 0x0208D555) 256 = some (0x00BB8000, 0x0208D555) ∧
    { lockedTb with measured := some (256 * 0x0208D555) }.measured = some (256 * 0x0208D555) := by decide +kernel

theorem wit_FrameStarts :
    ({ (runAt 768).tb with fAt := some 768 }.fAt = some 768 ∧ ((runAt 768).tb.count - 768).toNat < 2 ^ 47) ∧
    2 ^ 47 ≤ ((runAt 767).tb.count - 768).toNat ∧
    ((runAt 96).tb.running = true ∧ (runAt 96).tb.fAt = none ∧ (runAt 96).now % (runAt 96).frameF = 0 ∧
      (runAt 96).tb.frameAt ≠ some (runAt 96).tb.count) ∧ (runAt 97).now % (runAt 97).frameF ≠ 0 := by decide

/-! ### Witnesses: Jatrum words -/

def site0 : Site := { core := 0, share := 0 }

/-- Core 0 holds context 0 alone, in share 0, with program p, and may issue. -/
def front (p : List W64) (h : ShareSt := {}) : State :=
  { cores := [(0, { shares := [(0, { h with ctx := some 0, live := true, program := p })] })] }

/-- A word of opcode op whose other bits are x. -/
def word (op x : Nat) : W64 := BitVec.ofNat 64 (op * 2 ^ 56 + x)

/-- Word w as its queue holds it, with captured registers. -/
def queuedWord (w : W64) (s : Tbl Word := []) (a : Tbl Addr := []) : QEntry :=
  { word := w, off := false, index := 0, s := s, a := a }

/-- Share 0 of core 0 with that word alone in queue q. -/
def queued (q : Nat) (w : W64) (s : Tbl Word := []) (a : Tbl Addr := []) (h : ShareSt := {}) : State :=
  { cores := [(0, { heads := [(q, 0)], shares := [(0,
      { h with ctx := some 0, live := true, program := [w], queues := [(q, [queuedWord w s a])] })] })] }

theorem issues_of {s : State} {site : Site} {w : W64} {op : Nat}
    (h : s.dispatches site w = true ∧ wOp w.toNat = op ∧ wordOk w.toNat = true ∧ (s.at site).guardOff w.toNat = false ∧
      ((s.at site).fusedLoop.isSome && fuseForbids op) = false) : Issues s site w op := h

theorem straight_of {s : State} {site : Site} (h : (s.at site).loops = []) : Straight s site := by
  intro l e; rw [h] at e; cases e

theorem starts_of {s : State} {site : Site} {w : W64} {q op : Nat} {e : QEntry}
    (h : (s.at site).queue q = [e] ∧ e.word = w ∧ wOp w.toNat = op ∧ e.off = false ∧
      s.startable site.core.val q site.share.val = true ∧
      s.chooses site.core.val q (s.startable site.core.val q) = some site.share.val) : Starts s site w q op e :=
  ⟨⟨[], h.1⟩, h.2⟩

theorem wit_RegisterWords : ∀ op ∈ [0x10, 0x11, 0x12, 0x13, 0x14, 0x15, 0x16, 0x17, 0x18, 0x19, 0x1A, 0x1B, 0x1F, 0x1C, 0x1D,
    0x1E, 0x20, 0x21, 0x22, 0x23, 0x24, 0x25, 0x26, 0x27, 0x28, 0x29, 0x2A],
    Issues (front [word op 0]) site0 (word op 0) op ∧ Straight (front [word op 0]) site0 := by
  intro op h
  exact ⟨issues_of (by revert op; decide), straight_of rfl⟩

/-- Context 0 of `front` has its record. -/
def latched : State :=
  { front [word 5 (7 * 2 ^ 40)] with
    ctxs := [(0, some { part := 0, image := 0, digest := [], cores := [(0, 0)], weight := 0, borrow := 0, starve := 1 })] }

theorem wit_ControlWords :
    (Issues (front [word 0 0]) site0 (word 0 0) 0 ∧ Straight (front [word 0 0]) site0) ∧
    Issues (front [word 4 0]) site0 (word 4 0) 4 ∧
    ticketReady (Tbl.get 0 ((front [word 4 0] { s := [(0, 1)] }).at site0).k 0) ((1 : Word).truncate 16) = false ∧
    Issues (front [word 1 0]) site0 (word 1 0) 1 ∧
    (Issues (front [word 2 0]) site0 (word 2 0) 2 ∧ (0 : Int) + signed 24 (fld (word 2 0).toNat 0 24) = 0) ∧
    (Issues (front [word 3 (2 ^ 50 + 1 * 2 ^ 27 + 0xFFFF), 0]) site0 (word 3 (2 ^ 50 + 1 * 2 ^ 27 + 0xFFFF)) 3 ∧
      ((front [word 3 0, 0]).at site0).bodyTooLong 1 = false ∧ ((front [word 3 0, 0]).at site0).loops.length < 4) ∧
    (Issues (front [word 3 (2 ^ 50 + 1 * 2 ^ 27), 0]) site0 (word 3 (2 ^ 50 + 1 * 2 ^ 27)) 3 ∧
      fld (word 3 (2 ^ 50 + 1 * 2 ^ 27)).toNat 0 16 = 0) ∧
    (∀ n ∈ [0, 1, 2, 3, 4, 5, 6, 8], Issues (front [word 5 (n * 2 ^ 40)]) site0 (word 5 (n * 2 ^ 40)) 5) ∧
    (Issues latched site0 (word 5 (7 * 2 ^ 40)) 5 ∧ ((latched.at site0).ctx.bind latched.ctx).isSome = true) :=
  ⟨⟨issues_of (by decide), straight_of rfl⟩, issues_of (by decide), by decide, issues_of (by decide),
    ⟨issues_of (by decide), by decide⟩, ⟨issues_of (by decide), by decide⟩, ⟨issues_of (by decide), by decide⟩,
    fun n h => issues_of (by revert n; decide), issues_of (by decide), by decide⟩

/-- The fused body of one vector word: NST 1, E0 the vector engine, CIMM 1. -/
def fuseW : W64 := word 0xD0 (1 * 2 ^ 26 + 2 ^ 25 + 1 * 2 ^ 8)

def fuseEndW : W64 := word 0xD1 (2 ^ 40 + 15 * 2 ^ 36)

/-- A fused command of one vector word, begun and with `done` of its words finished, at word w. -/
def fuse0 (done : Tbl Nat) : Fused := { engines := [1], words := [1], iters := 1, done := done }
def fuseState (w : W64) (done : Tbl Nat) : State := front [w] { fused := [fuse0 done] }

theorem wit_FuseWords :
    (Issues (front [fuseW, word 0x70 0, word 0xD1 0]) site0 fuseW 0xD0 ∧ wWE fuseW.toNat = false ∧
      fuseBody [word 0x70 0, word 0xD1 0] = some [word 0x70 0] ∧ stagesOk [1] (bodyQueues [word 0x70 0]) = true) ∧
    (Issues (fuseState (word 0xD1 0) []) site0 (word 0xD1 0) 0xD1 ∧ Straight (fuseState (word 0xD1 0) []) site0 ∧
      ((fuseState 0 []).at site0).fused.find? (fun f => !f.closed) = some (fuse0 []) ∧
      { fuse0 [] with closed := true }.complete = false) ∧
    (Issues (fuseState fuseEndW [(0, 1)]) site0 fuseEndW 0xD1 ∧ Straight (fuseState fuseEndW [(0, 1)]) site0 ∧
      wPost fuseEndW.toNat = some 15 ∧
      ((fuseState 0 [(0, 1)]).at site0).fused.find? (fun f => !f.closed) = some (fuse0 [(0, 1)]) ∧
      { fuse0 [(0, 1)] with closed := true }.complete = true ∧ ((front []).at site0).fused.find? (fun f => !f.closed) = none) :=
  ⟨⟨issues_of (by decide), by decide⟩, ⟨issues_of (by decide), straight_of rfl, by decide⟩, issues_of (by decide),
    straight_of rfl, by decide⟩

theorem wit_GuardedOffWords :
    (∀ op ∈ [0x01, 0x10, 0x1B, 0x1D, 0x20, 0x2A], let w := word op (2 ^ 55)
      (front [w]).dispatches site0 w = true ∧ wOp w.toNat = op ∧ wordOk w.toNat = true ∧
        ((front [w]).at site0).guardOff w.toNat = true) ∧
    (let w := word 0x70 (2 ^ 55)
     let e := { queuedWord w with off := true }
     let s := front [w] { queues := [(1, [e])] }
     engineInstr 0x70 site0 .start w = some (.vAdd site0 .start w) ∧ queueOf 0x70 = some 1 ∧ wOp w.toNat = 0x70 ∧
       (s.at site0).queue 1 = [e] ∧ e.off = true ∧ s.startable 0 1 0 = true ∧
       s.chooses 0 1 (s.startable 0 1) = some 0) := by decide

theorem wit_DispatchFaults :
    ((front [word 0x06 0]).dispatches site0 (word 0x06 0) = true ∧ wordOk (word 0x06 0).toNat = false) ∧
    ((front []).dispatchable 0 0 = true ∧ ((front []).at site0).next = none ∧
      (front []).chooses 0 4 ((front []).dispatchable 0) = some 0) ∧
    (Issues (front [word 2 1]) site0 (word 2 1) 2 ∧ ¬ (0 + 1 : Nat) < ((front [word 2 1]).at site0).program.length) :=
  ⟨by decide, by decide, issues_of (by decide), by decide⟩

theorem wit_EngineWordsEnterQueues : ∀ op ∈ [0x30, 0x40, 0x50, 0x58, 0x60, 0x70, 0x80, 0x90, 0xA0, 0xB0, 0xC0],
    (engineInstr op site0 .dispatch (word op 0)).isSome = true ∧ (queueOf op).isSome = true ∧
      (op = 0x90 ∨ op = 0x60 ∨ (wordOk (word op 0).toNat = true ∧ (front [word op 0]).dispatches site0 (word op 0) = true)) := by
  decide

theorem wit_VectorEngineWords : ∀ op ∈ [0x70, 0x71, 0x72, 0x73, 0x74, 0x75, 0x76, 0x77, 0x78, 0x79, 0x7A, 0x7B, 0x7C, 0x7D,
    0x7E, 0x7F], Starts (queued 1 (word op 0)) site0 (word op 0) 1 op (queuedWord (word op 0)) := by
  intro op h
  exact starts_of (by revert op; decide)

theorem wit_ConversionWords :
    (Starts (queued 1 (word 0x82 (0xD * 2 ^ 18))) site0 (word 0x82 (0xD * 2 ^ 18)) 1 0x82 (queuedWord (word 0x82 (0xD * 2 ^ 18))) ∧
      actFmt 0xD = true) ∧
    (Starts (queued 1 (word 0x83 0)) site0 (word 0x83 0) 1 0x83 (queuedWord (word 0x83 0)) ∧ cvtBits 0xF 2 ≠ 0 ∧ cvtBits 0xD 0 ≠ 0) ∧
    (Starts (queued 1 (word 0x84 0)) site0 (word 0x84 0) 1 0x84 (queuedWord (word 0x84 0)) ∧ isWideFloat 0xD = true ∧
      Fits (queued 1 0) site0 0 (256 * elemBits 0xD / 8 * 16) 4) ∧
    (Starts (queued 1 (word 0x85 0)) site0 (word 0x85 0) 1 0x85 (queuedWord (word 0x85 0)) ∧ cvtlExact 0 0xD = true) :=
  ⟨⟨starts_of (by decide), by decide⟩, ⟨starts_of (by decide), by decide⟩, ⟨starts_of (by decide), by decide, by unfold Fits; decide⟩,
    starts_of (by decide), by decide⟩

theorem wit_LoadStoreWords : (∀ op ∈ [0x30, 0x31, 0x80, 0x81],
      Starts (queued 1 (word op 0)) site0 (word op 0) 1 op (queuedWord (word op 0))) ∧
    Fits (queued 1 0) site0 262140 4 4 ∧ Fits (queued 1 0) site0 (262144 - 4096) (256 * 16) 4 :=
  ⟨fun op h => starts_of (by revert op; decide), by unfold Fits; decide, by unfold Fits; decide⟩

theorem wit_MatrixAndScanWords :
    (∀ op ∈ [0x60, 0x61, 0x62, 0x63], Starts (queued 0 (word op 0)) site0 (word op 0) 0 op (queuedWord (word op 0))) ∧
    (isIntOperand 1 = true ∧ (0 + (32 - 1) * 4096 + 4096 * elemBits 1 / 8 ≤ (queued 0 0).shareSize 0)) ∧
    (ldClass 0xD ≠ .none ∧ stFmtOk .none 0xD = true ∧ (262144 - 32 * 128) + (32 - 1) * 128 + 32 * 4 ≤ (queued 0 0).shareSize 0) ∧
    (∀ op ∈ [0x90, 0x91, 0x92], Starts (queued 2 (word op 0)) site0 (word op 0) 2 op (queuedWord (word op 0))) ∧
    Fits (queued 2 0) site0 0 (64 * 64 * 4) 4 :=
  ⟨fun op h => starts_of (by revert op; decide), by decide, by decide, fun op h => starts_of (by revert op; decide),
    by unfold Fits; decide⟩

/-- The smallest Loom descriptor in a share's first 64 bytes: BF16, one block of 16 channels, a 1 x 1 window on 1 x 1. -/
def loomBytes (up grp : Nat) : List Host.Cell :=
  [(1, 0x0B), (2, 1), (3, 1), (4, 1), (5, 1), (6, 1), (7, 1), (8, 1), (10, 1), (12, 1)] ++
    (if up = 0 then [] else [(18, BitVec.ofNat 8 up)]) ++ (if grp = 0 then [] else [(19, BitVec.ofNat 8 grp)])

/-- A class 0xA word that takes one position (SN in s0, S0 in s1), its output at a1, the rest at a0 = 0. -/
def loomState (w : W64) (up grp out : Nat) : State :=
  queued 1 w [(0, 1)] [(1, BitVec.ofNat 40 out)] { scratch := loomBytes up grp }
def loomEntry (w : W64) (out : Nat) : QEntry := queuedWord w [(0, 1)] [(1, BitVec.ofNat 40 out)]

def expandW : W64 := word 0xA0 (1 * 2 ^ 24 + 1 * 2 ^ 9)
def transposeW : W64 := word 0xA1 (1 * 2 ^ 24 + 1 * 2 ^ 9)
def dwW : W64 := word 0xA2 (1 * 2 ^ 20 + 1 * 2 ^ 10 + 0xB * 2 ^ 6)
def poolW (op : Nat) : W64 := word op (1 * 2 ^ 24 + 1 * 2 ^ 14 + 0xB * 2 ^ 10)
def gpoolW : W64 := word 0xA5 (1 * 2 ^ 24 + 0xB * 2 ^ 20)

theorem loomOk_of {s : State} {site : Site} {a : Nat} {u : LoomUse} {raw : Bytes} {d : Loom} (hr : raw = (s.at site).read a 64)
    (hd : d = loomOf raw (u = .transpose))
    (h : (a + 64 ≤ s.shareSize site.core.val ∧ a % 64 = 0) ∧ d.broken raw u = false ∧ d.tooLarge u = false ∧
      d.padTooLarge = false) : LoomOk s site a u d := by
  subst hr
  exact ⟨h.1, hd, h.2⟩

theorem wit_ConvolutionWords_expansion : ∀ x ∈ [(expandW, 0xA0, LoomUse.expand, 0), (transposeW, 0xA1, LoomUse.transpose, 16)],
    let s := loomState x.1 x.2.2.2 0 (262144 - 64)
    let d := loomOf ((s.at site0).read 0 64) (x.2.2.1 = .transpose)
    Starts s site0 x.1 1 x.2.1 (loomEntry x.1 (262144 - 64)) ∧ LoomOk s site0 0 x.2.2.1 d ∧ d.count 1 0 = 1 ∧
      32 * ceilDiv (d.kh * d.kw * d.nb * d.bw) 32 * d.es = 64 ∧
      ∀ k, k < 16 → d.addr 0 (d.rowElem 0 0 k).1 0 0 + d.es ≤ s.shareSize 0 := by
  intro x hx
  exact ⟨starts_of (by revert x; decide), loomOk_of rfl rfl (by revert x; decide), by revert x; decide⟩

theorem wit_ConvolutionWords_pooling :
    (Starts (loomState dwW 0 1 (262144 - 32)) site0 dwW 1 0xA2 (loomEntry dwW (262144 - 32)) ∧
      LoomOk (loomState dwW 0 1 0) site0 0 .depthwise (loomOf ((loomState dwW 0 1 0).at site0 |>.read 0 64) false)) ∧
    (∀ op ∈ [0xA3, 0xA4], Starts (loomState (poolW op) 0 0 (262144 - 32)) site0 (poolW op) 1 op (loomEntry (poolW op) (262144 - 32))) ∧
    LoomOk (loomState 0 0 0 0) site0 0 .pool (loomOf ((loomState 0 0 0 0).at site0 |>.read 0 64) false) ∧
    (Starts (loomState gpoolW 0 0 (262144 - 32)) site0 gpoolW 1 0xA5 (loomEntry gpoolW (262144 - 32)) ∧
      LoomOk (loomState 0 0 0 0) site0 0 .gpool (loomOf ((loomState 0 0 0 0).at site0 |>.read 0 64) false)) :=
  ⟨⟨starts_of (by decide), loomOk_of rfl rfl (by decide)⟩, fun op h => starts_of (by revert op; decide),
    loomOk_of rfl rfl (by decide), starts_of (by decide), loomOk_of rfl rfl (by decide)⟩

theorem wit_ConvolutionWords_poolingReads : let d := loomOf (((loomState 0 0 1 0).at site0).read 0 64) false
    (∀ ch, ch < 16 → d.addr 0 ch 0 0 + d.es ≤ 262144) ∧ 16 * 1 * d.grp * d.es ≤ 262144 ∧
      (262144 - 32) + ((15 / d.bw * d.positions + 0) * d.bw + 15 % d.bw) * 2 + 2 ≤ 262144 := by decide

theorem wit_SegmentWords :
    Starts (queued 1 (word 0xA6 0) [(0, 1)]) site0 (word 0xA6 0) 1 0xA6 (queuedWord (word 0xA6 0) [(0, 1)]) ∧
    Starts (queued 1 (word 0xA7 0) [(0, 1)]) site0 (word 0xA7 0) 1 0xA7 (queuedWord (word 0xA7 0) [(0, 1)]) ∧
    segCountBad false 4096 = false ∧ segCountBad true 1024 = false ∧ segCountBad true 1 = false ∧
    Fits (queued 1 0) site0 0 (1024 * 32) 4 :=
  ⟨starts_of (by decide), starts_of (by decide), by decide, by decide, by decide, by unfold Fits; decide⟩

theorem wit_RandomWords :
    (∀ op ∈ [0xB0, 0xB1, 0xB2, 0xB3], Starts (queued 1 (word op 0)) site0 (word op 0) 1 op (queuedWord (word op 0))) ∧
    Fits (queued 1 0) site0 0 (64 * 1024 * 4) 4 ∧ Fits (queued 1 0) site0 (262144 - 4096) (4 * 1024) 4 :=
  ⟨fun op h => starts_of (by revert op; decide), by unfold Fits; decide, by unfold Fits; decide⟩

/-- Partition 0 owns cluster 0, and core 0 runs context 0 of it with Ropewalk 0: one stage, one edge to itself. -/
def edge0 (sent recv rel : Nat) : Edge :=
  { pfirst := 0, pnum := 1, pport := 0, cfirst := 0, cnum := 1, cport := 1, slot := 64, unit := 0, rounds := 2, buf := 0,
    sent := if sent = 0 then [] else [(0, sent)], recv := if recv = 0 then [] else [(0, recv)],
    rel := if rel = 0 then [] else [(0, rel)] }
def rope0 (e : Edge) : Rope :=
  { ctx := 0, stages := [(0, 1)], edges := [e], bmax := 128, inflight := 4, steps := 1, samples := 8, fb := false,
    fbLen := 0, fbOff := 0 }
def inPart (s : State) (e : Edge := edge0 0 0 0) : State :=
  { s with clusters := [(0, { part := some 0 })], parts := [(0, { exists_ := true, clusters := [0] })],
           ropes := [(0, some (rope0 e))],
           ctxs := [(0, some { part := 0, image := 0, digest := [], cores := [(0, 0)], weight := 0, borrow := 0, starve := 1000 })] }
/-- A movement word in its queue there. -/
def moving (w : W64) (s : Tbl Word := []) (e : Edge := edge0 0 0 0) (h : ShareSt := {}) : State := inPart (queued 3 w s [] h) e

theorem wit_SyncWords :
    (∀ op ∈ [0x40, 0x41, 0x42, 0x43], Starts (moving (word op 0)) site0 (word op 0) 3 op (queuedWord (word op 0)) ∧
      (moving (word op 0)).ownsObj 0 2047 = true ∧ (moving (word op 0)).ownsObj 0 2048 = false) ∧
    (syncReady 0 0x80000000 = false ∧ syncReady 0 0x80000001 = true) :=
  ⟨fun op h => ⟨starts_of (by revert op; decide), by revert op; decide⟩, by decide⟩

theorem wit_RequestWords :
    (∀ op ∈ [0x50, 0x51], Starts (moving (word op (2 ^ 31 + 0xFFF * 2 ^ 14))) site0 (word op (2 ^ 31 + 0xFFF * 2 ^ 14)) 3 op
      (queuedWord (word op (2 ^ 31 + 0xFFF * 2 ^ 14)))) ∧ 0 + 64 * (fld (2 ^ 31 + 0xFFF * 2 ^ 14) 14 12 + 1) ≤ (moving 0).shareSize 0 ∧
    (∀ op ∈ [0x57, 0x58, 0x59, 0x5A, 0x5B, 0x5C, 0x5D],
      Starts (moving (word op 0)) site0 (word op 0) 3 op (queuedWord (word op 0))) ∧
    Tbl.get 0 (moving 0).narrowMap 0 ≠ 2 ∧ ((moving 0).clu 0).narQ.length < 256 ∧
    ((moving 0).millBound ((moving 0).partOf 0) 0).length < 256 :=
  ⟨fun op h => starts_of (by revert op; decide), by decide, fun op h => starts_of (by revert op; decide), by decide, by decide,
    by decide⟩

/-- A halo link of the share to itself, and its other end. -/
def haloOut : Halo := { peer := 0, incoming := false, peerLink := 1, buf := 0, size := 64, data := 0, free := 1, count := 2 }
def haloIn : Halo := { peer := 0, incoming := true, peerLink := 0, buf := 0, size := 64, data := 0, free := 1, count := 1 }
def haloShare : ShareSt := { halos := [(0, some haloOut), (1, some haloIn)] }

theorem wit_HaloAndQueueWords :
    (Starts (moving (word 0x52 0) [(0, 64)] (edge0 0 0 0) haloShare) site0 (word 0x52 0) 3 0x52 (queuedWord (word 0x52 0) [(0, 64)]) ∧
      (let s := moving (word 0x52 0) [(0, 64)] (edge0 0 0 0) haloShare
       (s.at site0).halo 0 = some haloOut ∧ s.unreleased 0 0 haloOut = 1 ∧ s.peerOf 0 0 0 = some (0, 0))) ∧
    (Starts (moving (word 0x53 (2 ^ 34)) [] (edge0 0 0 0) haloShare) site0 (word 0x53 (2 ^ 34)) 3 0x53 (queuedWord (word 0x53 (2 ^ 34))) ∧
      (let s := moving (word 0x53 (2 ^ 34)) [] (edge0 0 0 0) haloShare
       (s.at site0).halo 1 = some haloIn ∧ (s.share 0 0).halo 0 = some haloOut ∧ haloIn.count < haloOut.count)) ∧
    (Starts (moving (word 0x54 0) [(0, 64)] (edge0 1 0 0)) site0 (word 0x54 0) 3 0x54 (queuedWord (word 0x54 0) [(0, 64)]) ∧
      (moving (word 0x54 0) [(0, 64)] (edge0 1 0 0)).findPort 0 0 0 Edge.producer = some (0, 0, edge0 1 0 0, 0) ∧
      (edge0 1 0 0).inUse 0 = 1 ∧ (edge0 2 0 0).inUse 0 = 2) ∧
    (Starts (moving (word 0x55 (2 ^ 33)) [] (edge0 1 0 0)) site0 (word 0x55 (2 ^ 33)) 3 0x55 (queuedWord (word 0x55 (2 ^ 33))) ∧
      (moving (word 0x55 (2 ^ 33)) [] (edge0 1 0 0)).findPort 0 0 1 Edge.consumer = some (0, 0, edge0 1 0 0, 0) ∧
      Tbl.get 0 (edge0 1 0 0).recv 0 < Tbl.get 0 (edge0 1 0 0).sent 0) ∧
    (Starts (moving (word 0x56 (2 ^ 33)) [] (edge0 1 1 0)) site0 (word 0x56 (2 ^ 33)) 3 0x56 (queuedWord (word 0x56 (2 ^ 33))) ∧
      (moving (word 0x56 (2 ^ 33)) [] (edge0 1 1 0)).findPort 0 0 1 Edge.consumer = some (0, 0, edge0 1 1 0, 0) ∧
      Tbl.get 0 (edge0 1 1 0).rel 0 < Tbl.get 0 (edge0 1 1 0).recv 0) :=
  ⟨⟨starts_of (by decide), by decide⟩, ⟨starts_of (by decide), by decide⟩, ⟨starts_of (by decide), by decide⟩,
    ⟨starts_of (by decide), by decide⟩, starts_of (by decide), by decide⟩

/-- One Docket in flight, of one entry of stream 5, as stage core 0 has or has not taken it. -/
def dentry0 : DEntry :=
  { stream := 5, reset := false, first := true, unbound := true, link := 0, pos := 0, step := 0, headroom := 0, inAddr := 0,
    outAddr := 0, state := 4096 }
def withDocket (taken : List Nat) (s : State) : State :=
  { s with dockets := [{ rope := 0, seq := 0, builder := 0, time := 0, entries := [dentry0], taken := taken }],
           entries := [(5, { part := some 0, status := .ready, chain := [0], state := 4096, stateSize := 64 })] }

theorem wit_StreamStateWords :
    (let regs : Tbl Word := [(1, 64)]
     let w (op : Nat) := word op (1 * 2 ^ 12)
     ∀ op ∈ [0xC0, 0xC1], Starts (withDocket [0] (moving (w op) regs)) site0 (w op) 3 op (queuedWord (w op) regs) ∧
      (withDocket [0] (moving (w op) regs)).namedEntry 0 0 0 0 = some (0, dentry0) ∧
      0 + 64 ≤ ((withDocket [0] (moving (w op) regs)).entry 5).stateSize.toNat) ∧
    (Starts (withDocket [] (moving (word 0xC2 0))) site0 (word 0xC2 0) 3 0xC2 (queuedWord (word 0xC2 0)) ∧
      (withDocket [] (moving (word 0xC2 0))).ropeOf 0 0 = some (0, rope0 (edge0 0 0 0)) ∧
      (rope0 (edge0 0 0 0)).atFirst 0 = true ∧ ((withDocket [] (moving (word 0xC2 0))).nextDocket 0 0).isSome = true) ∧
    (let regs : Tbl Word := [(0, 1)]
     let w := word 0xC3 (1 * 2 ^ 22)
     Starts (withDocket [0] (moving w regs)) site0 w 3 0xC3 (queuedWord w regs) ∧ (rope0 (edge0 0 0 0)).atLast 0 = true ∧
      ((withDocket [0] (moving w regs)).docket 0 0).isSome = true ∧
      doneEntries (((withDocket [0] (moving w regs)).at site0).read 0 4) 1 = [(0, false, true)]) :=
  ⟨fun op h => ⟨starts_of (by revert op; decide), by revert op; decide⟩, ⟨starts_of (by decide), by decide⟩,
    starts_of (by decide), by decide⟩

/-! ### Witnesses: commands -/

/-- A ready device in which partition 0 owns cluster 0. -/
def ready : State :=
  { started := true, ready := true, tb := { running := true, count := 1000 }, clusters := [(0, { part := some 0 })],
    parts := [(0, { exists_ := true, clusters := [0], ledgerQuota := 4, ctxQuota := 4 })] }

/-- n parameter bytes with the fields (offset, size, value). -/
def params (n : Nat) (l : List (Nat × Nat × Nat)) : Bytes :=
  (List.range n).map fun i => match l.find? fun x => decide (x.1 ≤ i) && decide (i < x.1 + x.2.1) with
    | some x => BitVec.ofNat 8 (x.2.2 / 256 ^ (i - x.1))
    | none => 0

theorem taken_of {s : State} {op : Nat} {sp : CmdSpec} {hdr : Hdr} {p : Bytes}
    (h : s.stewardFree = true ∧ (s.accepted .spur).receiptCheck op sp .spur hdr p true true = none ∧
      hdr.start.toNat ≤ s.now) : Taken s op sp .spur hdr p :=
  ⟨nofun, h⟩

theorem wit_CommandPath :
    (commandInstr 0x01 .i3c {} [] [] = some (.identify .i3c {} []) ∧ (specOf 0x01).isSome = true ∧
      ({ ready with i3c := { live := true, outstanding := 16 } } : State).i3c.busy = 16 ∧
      ({ ready with i3c := { live := true, outstanding := 15 } } : State).i3c.busy < 16) ∧
    (({ ready with rx := [{ src := .spur, part := none, bytes := [] }] } : State).stewardFree = false ∧
      ready.stewardFree = true) ∧
    ((ready.accepted .spur).receiptCheck 0x01 identifySpec .spur {} [0] true true = some stBadLength ∧
      (ready.accepted .spur).receiptCheck 0x01 identifySpec .spur {} [] true true = none) ∧
    (({ start := 1000 } : Hdr).start.toNat ≤ ready.now ∧ ready.now < ({ start := 1001 } : Hdr).start.toNat) ∧
    ready.delayed.length < 256 := by decide

theorem wit_CommandPath_full : 256 ≤ ({ ready with
    delayed := List.replicate 256 { id := 0, start := 0, src := .spur, opcode := 0, hdr := {}, params := [] } } : State).delayed.length :=
  Nat.le_of_eq List.length_replicate.symm

theorem wit_CommandQueue :
    specOf 0x04 = none ∧ (ready.cmds.length < 512) ∧
    ({ ready with delayed := [{ id := 1, start := 1000, src := .spur, opcode := 0x01, hdr := {}, params := [] },
      { id := 0, start := 1001, src := .spur, opcode := 0x01, hdr := {}, params := [] }] } : State).now < (1001 : Time).toNat ∧
    (1000 : Time).toNat ≤ ready.now ∧ (specOf 0x01).isSome = true :=
  ⟨rfl, by decide, by decide, by decide, rfl⟩

theorem wit_CommandChecks :
    identifySpec.length [0] = false ∧ (stageReportSpec.length (params 4 [(1, 1, 1)]) = true ∧
      stageReportSpec.reserved (params 4 [(1, 1, 1)]) = false) ∧
    ((1000 + 2 ^ 32 : Nat) ≤ ready.now + 2 ^ 32 ∧ ¬ (1001 + 2 ^ 32 : Nat) ≤ ready.now + 2 ^ 32) ∧ State.reset.ready = false ∧
    setTimebaseSpec.scope [] = .device ∧ ({ ready with parts := [] } : State).part 0 = {} ∧
    ({ ready with parts := [(0, { exists_ := true, sources := [3] })] } : State).admits 0 (.dev 2) = false ∧
    ({ ready with parts := [(0, { exists_ := true, resetting := true })] } : State).admits 0 .spur = true := by decide

theorem wit_ReportCommands :
    Taken ready 0x01 identifySpec .spur {} [] ∧ Taken ready 0x02 stageReportSpec .spur {} (params 4 [(0, 1, 254)]) ∧
    Taken ready 0x03 floorPlanSpec .spur {} (params 4 []) ∧
    Taken ready 0x60 readRegisterSpec .spur {} (params 4 [(0, 3, 0x010000), (3, 1, 2)]) ∧
    ((ready.accepted .spur).regValue 0 0x010004).isSome = true ∧
    Taken ready 0x61 writeRegisterSpec .spur {} (params 8 [(0, 3, 0x10), (3, 1, 1)]) ∧
    Taken ready 0x62 getCountersSpec .spur {} (params 4 []) ∧ Taken ready 0x80 discoverSpec .spur {} [] ∧
    Taken ready 0x81 setFabricQuotaSpec .spur {} (params 8 [(0, 1, 1), (4, 4, 16777216)]) :=
  ⟨taken_of (by decide), taken_of (by decide), taken_of (by decide), taken_of (by decide), by decide, taken_of (by decide),
    taken_of (by decide), taken_of (by decide), taken_of (by decide)⟩

/-- CREATE_PARTITION of cluster 1 with a given salt. -/
def createParams : Bytes := params 104 [(0, 4, 2), (5, 1, 1), (6, 2, 0x1234), (8, 2, 4092), (10, 2, 252)]

theorem wit_PartitionCommands :
    (Taken ready 0x10 createPartitionSpec .spur { part := 1 } createParams ∧ createFields createParams = true ∧
      (ready.part 1).exists_ = false ∧ (ready.clu 1).part = none ∧ ready.clusterTesting 1 = false ∧
      ready.granted Part.ledgerQuota + 4092 = 4096 ∧ ready.granted Part.ctxQuota + 252 = 256 ∧ ready.entropyFail = false) ∧
    createFields (params 104 []) = false ∧
    (Taken ready 0x11 destroyPartitionSpec .spur {} [] ∧ (ready.part 0).exists_ = true ∧ (ready.part 0).destroying = false ∧
      ready.inUse 0 = false) ∧
    (ready.entries = [] ∧ ({ ready with parts := [(0, { exists_ := true, destroying := true })] } : State).part 0 ≠ {}) :=
  ⟨⟨taken_of (by decide), by decide⟩, by decide, ⟨taken_of (by decide), by decide⟩, by decide⟩

theorem wit_UnitCommands :
    (Taken ready 0x12 resetUnitSpec .spur {} (params 4 [(2, 2, 63)]) ∧ (ready.part 0).owns (63 / 64) = true ∧
      (ready.part 0).owns (64 / 64) = false ∧ Tbl.get 0 ready.coreMap 63 = 0 ∧ ready.coreBusy 63 = false) ∧
    (Taken ready 0x12 resetUnitSpec .spur {} (params 4 [(0, 1, 1)]) ∧ ready.unitTesting 0 = false ∧ ready.clusterBusy 0 = false) ∧
    Taken ready 0x12 resetUnitSpec .spur {} (params 4 [(0, 1, 2)]) ∧ Taken ready 0x12 resetUnitSpec .spur {} (params 4 [(0, 1, 3)]) ∧
    (let c : Cmd := { id := 7, src := .spur, opcode := 0x12, form := false, tag := 0, part := 0, wait := .reset 0 63 }
     ({ ready with cmds := [c] } : State).cmds.find? (fun x => x.id == c.id) = some c) ∧
    (Taken ready 0x13 selfTestSpec .spur {} (params 4 [(2, 2, 2047)]) ∧ testCount 0 = 2048 ∧ ready.underWork 0 2047 = false ∧
      ready.testBusy 0 2047 = false ∧ UnitId.core 2047 ∈ testedUnits 0 2047) :=
  ⟨⟨taken_of (by decide), by decide⟩, ⟨taken_of (by decide), by decide⟩, taken_of (by decide), taken_of (by decide), by decide,
    taken_of (by decide), by decide⟩

/-- Memory that holds these bytes from physical address A upward. -/
def memOf (A : Nat) (b : Bytes) : List Host.Cell := (b.zipIdx.filter fun x => x.1 != 0).map fun x => (A + x.2, x.1)

/-- An image of one core and one program, of the one word nop. -/
def imageBytes : Bytes := params 216 [(0, 4, 0x4D52544A), (4, 2, 1), (6, 2, 1), (16, 4, 1), (24, 8, 216), (32, 8, 128),
  (40, 8, 192), (132, 2, 0xFFFF), (192, 8, 208), (200, 4, 1)]

/-- Context 0 of partition 0 resident on core 0, stopped. -/
def ctx0 : Ctx :=
  { part := 0, image := 0, digest := [], cores := [(0, 0)], weight := 0, borrow := 0, starve := 1000, resident := true,
    preparing := false }
def resident (x : Ctx) : State :=
  { ready with cores := [(0, { shares := [(0, { ctx := some 0, live := true, stopped := true })] })], ctxs := [(0, some x)] }

/-- The same while its share still dispatches. -/
def working (x : Ctx) : State :=
  { resident x with cores := [(0, { shares := [(0, { ctx := some 0, live := true, program := [word 0 0] })] })] }

/-- The image passes R158 and, with more words or a byte more than it says, breaks one of its lengths. -/
theorem wit_ImageChecks :
    imageCheck imageBytes 216 = none ∧ imageCheck imageBytes 217 = some stBadLength ∧
    imageCheck (imageBytes.set 132 0) 216 = some stBadField ∧ imageCheck (imageBytes.set 4 0) 216 = some stBadField ∧
    (let b := params 216 [(0, 4, 0x4D52544A), (4, 2, 1), (6, 2, 1), (16, 4, 1), (24, 8, 2 ^ 24), (32, 8, 128), (40, 8, 192),
      (132, 2, 0xFFFF), (192, 8, 208), (200, 4, shareWords 0 + 1)]
     imageCheck b (2 ^ 24) = some stBadLength) := by decide +kernel

/-- Admission fails first at the GENERATION, then at the core, then at the quota, then for want of a share. -/
theorem wit_AdmissionChecks :
    imgMap imageBytes = [{ core := 0, prog := 0, data := 0xFFFF, ndata := 0, halo := 0 }] ∧ ready.admitCheck 0 imageBytes = none ∧
    ready.admitCheck 0 (imageBytes.set 12 1) = some stShapeMismatch ∧ ready.admitCheck 1 imageBytes = some stShapeMismatch ∧
    { ready with coreMap := [(0, 2)] }.admitCheck 0 imageBytes = some stUnitFailed ∧
    { ready with clusters := [(0, { part := some 0, testing := true })] }.admitCheck 0 imageBytes = some stUnitBusy ∧
    { ready with clusters := [(0, { part := some 0, resetting := true })] }.admitCheck 0 imageBytes = some stUnitResetting ∧
    { ready with parts := [(0, { exists_ := true, clusters := [0] })] }.admitCheck 0 imageBytes = some stPartitionFull ∧
    (resident ctx0).admitCheck 0 imageBytes = some stNoShare := by decide +kernel

theorem wit_ImageCommands :
    (Taken { ready with mem := memOf 0 imageBytes } 0x20 loadImageSpec .spur {} (params 24 [(16, 8, 216)]) ∧
      (ready.part 0).inside 0 216 = true ∧ (ready.part 0).inside 0 (9 * 2 ^ 30 + 1) = false ∧
      imageCheck (({ ready with mem := memOf 0 imageBytes } : State).partBytes (ready.part 0) 0 216) 216 = none) ∧
    (Taken ready 0x20 loadImageSpec .spur {} (params 24 [(0, 1, 1), (2, 2, 255)]) ∧
      (let s : State := { ready with images := [(255, some { part := 0, addr := 0, bytes := 216, digest := [] })] }
       (s.image 255).isSome = true ∧ s.imageUsed 0 255 = false)) ∧
    (Taken ready 0x21 admitContextSpec .spur {} (params 8 [(3, 1, 128)]) ∧
      ready.admitCheck 0 imageBytes = none) :=
  ⟨⟨taken_of (by decide), by decide +kernel⟩, ⟨taken_of (by decide), by decide⟩, taken_of (by decide), by decide +kernel⟩

theorem wit_ContextCommands :
    ((resident { ctx0 with resident := false, preparing := true }).ctx 0 = some { ctx0 with resident := false, preparing := true }) ∧
    (Taken (resident ctx0) 0x23 setSharesSpec .spur {} (params 8 [(2, 1, 255)]) ∧ (resident ctx0).ctx 0 = some ctx0) ∧
    (let d := params 228 [(5, 1, 1), (8, 1, 128), (9, 1, 16), (10, 2, 1), (12, 1, 64)]
     Taken (resident ctx0) 0x24 defineRopewalkSpec .spur {} d ∧ (resident ctx0).rope 0 = none ∧ (resident ctx0).ropeCount < 64 ∧
      (resident ctx0).ropeOk 0 ctx0 ((resident ctx0).shareSize 0) (d.drop 4) = true) :=
  ⟨by decide, ⟨taken_of (by decide), by decide⟩, taken_of (by decide +kernel), by decide +kernel⟩

theorem wit_Retirement :
    (Taken (resident ctx0) 0x22 retireContextSpec .spur { form := true } (params 8 [(4, 4, 1000000)])) ∧
    Taken (resident ctx0) 0x22 retireContextSpec .spur {} (params 8 [(4, 4, 1000001)]) ∧
    ((resident { ctx0 with retiring := true }).quiescent 0 { ctx0 with retiring := true } = true) ∧
    (resident { ctx0 with retiring := true, faulted := true }).ctx 0 = some { ctx0 with retiring := true, faulted := true } ∧
    ((working { ctx0 with retiring := true }).ctx 0 = some { ctx0 with retiring := true } ∧
      (working { ctx0 with retiring := true }).quiescent 0 { ctx0 with retiring := true } = false) :=
  ⟨taken_of (by decide), taken_of (by decide), by decide, by decide, by decide⟩

theorem inv_of {s : State} (h : Tbl.wf 0 s.mem = true ∧ Tbl.wf {} s.cores = true ∧ Tbl.wf {} s.clusters = true ∧
    Tbl.wf {} s.chans = true ∧ Tbl.wf 0 s.sync = true ∧ Tbl.wf {} s.entries = true ∧ Tbl.wf none s.ropes = true ∧
    Tbl.wf {} s.parts = true ∧ Tbl.wf none s.images = true ∧ Tbl.wf none s.ctxs = true ∧ Tbl.wf {} s.outs = true ∧
    Tbl.wf {} s.ains = true ∧ Tbl.wf {} s.achans = true ∧ Tbl.wf {} s.groups = true)
    (hs : ∀ x ∈ s.cores, Tbl.wf {} x.2.shares = true) : s.Inv := by
  obtain ⟨h1, h2, h3, h4, h5, h6, h7, h8, h9, h10, h11, h12, h13, h14⟩ := h
  refine ⟨h1, h2, h3, h4, h5, h6, h7, h8, h9, h10, h11, h12, h13, h14, fun g => ?_⟩
  unfold State.core
  generalize s.cores = l at hs
  induction l with
  | nil => rfl
  | cons x l ih =>
    obtain ⟨j, c⟩ := x
    simp only [Tbl.get]
    split
    · exact hs (j, c) (List.mem_cons_self ..)
    · exact ih fun y hy => hs y (List.mem_cons_of_mem _ hy)

theorem wit_RetirementFrees : (working { ctx0 with retiring := true }).Inv := inv_of (by decide) (by decide)

/-- A state layout of one section, as the INIT region's first 80 bytes. -/
def layoutBytes : Bytes :=
  params 80 [(0, 4, 0x54534D42), (4, 2, 1), (6, 2, 1), (8, 4, 192), (12, 4, 0xFFFFFFFF), (65, 1, 1), (66, 2, 1), (68, 4, 8), (72, 4, 128)]

/-- Context 0 with Ropewalk 0, and the layout at partition address 0. -/
def opening : State := { resident ctx0 with ropes := [(0, some (rope0 (edge0 0 0 0)))], mem := memOf 0 layoutBytes }
def openParams : Bytes :=
  params 72 [(8, 5, 256), (16, 4, 192), (38, 2, 1), (40, 2, 1024), (60, 4, 16), (64, 4, 198000 * 256)]

theorem wit_OpenStreamCommand :
    Taken opening 0x30 openStreamSpec .spur {} openParams ∧ opening.openChecks 0 (openArgs openParams) = none ∧
    layoutOk (opening.layoutAt 0 0).2.1 192 = true ∧
    feedbackOk (opening.layoutAt 0 0).2.1 (opening.chainFeedback [0]) = true ∧
    opening.stateOverlap 0 256 192 true = false ∧ opening.freeEntry 0 = some 0 ∧
    (opening.readPart (opening.part 0) .normal 0 192).2.2 = [] ∧
    ((opening.readPart (opening.part 0) .normal 0 192).1.writeWholly (opening.part 0) .normal 256
      (List.replicate 192 0)).2 = false ∧
    (let line (A : Nat) : State := { opening with badLines := [(opening.part 0).phys A / 128] }
     ((line 0).readPart (opening.part 0) .normal 0 192).2.2 ≠ [] ∧
      ((line 384).readPart (opening.part 0) .normal 0 192).2.2 = [] ∧
      ((line 384).writeWholly (opening.part 0) .normal 256 (List.replicate 192 0)).2 = true) :=
  ⟨taken_of (by decide), by decide +kernel⟩

/-- The checks of R363 one by one: an alien context, the fields, the Ropewalk, the context, the shape and the regions. -/
theorem wit_OpenStreamChecks :
    opening.openChecks 1 (openArgs openParams) = some stNotPermitted ∧
    opening.openChecks 0 { openArgs openParams with size := 65 } = some stBadField ∧
    { opening with ropes := [] }.openChecks 0 (openArgs openParams) = some stNoRopewalk ∧
    { opening with ctxs := [(0, some { ctx0 with faulted := true })] }.openChecks 0 (openArgs openParams) = some stProgramFault ∧
    { opening with ctxs := [(0, some { ctx0 with retiring := true })] }.openChecks 0 (openArgs openParams) = some stWrongState ∧
    { opening with ropes := [(0, some { rope0 (edge0 0 0 0) with samples := 0 })] }.openChecks 0 (openArgs openParams) =
      some stBadField ∧
    opening.openChecks 0 { openArgs openParams with state := 9 * 2 ^ 30 - 64 } = some stOutOfBounds := by decide +kernel

/-- Stream 4095 of partition 0, on Ropewalk 0 of context 0. -/
def streamOf (st : StStatus) : Entry :=
  { part := some 0, status := st, chain := [0], state := 4096, stateSize := 64, orSize := 16, ringRate := 0x00BB8000 }
def withStream (e : Entry) : State := { opening with entries := [(4095, e)] }

theorem wit_StreamEndings :
    (Taken (withStream (streamOf .ready)) 0x31 parkStreamSpec .spur {} (params 4 [(0, 2, 4095)]) ∧
      (withStream (streamOf .ready)).foreignStream 0 4095 = false ∧ (withStream (streamOf .ready)).foreignStream 1 4095 = true ∧
      (streamOf .ready).status.active = true ∧ (streamOf .parked).status = .parked) ∧
    (Taken (withStream (streamOf .parked)) 0x32 unparkStreamSpec .spur {} (params 4 [(0, 2, 4095)]) ∧
      (withStream (streamOf .parked)).chainUsable (streamOf .parked) = true ∧ (streamOf .parked).moving = false) ∧
    (((withStream { streamOf .ready with parking := true }).entry 4095).parking = true ∧
      (withStream { streamOf .ready with parking := true }).carried 4095 = false) ∧
    Taken (withStream (streamOf .ready)) 0x34 closeStreamSpec .spur { form := true } (params 4 [(0, 2, 4095)]) ∧
    ((withStream (streamOf .draining)).drained 4095 = true ∧ (withStream (streamOf .ready)).drained 4095 = false ∧
      (let c : Cmd := { id := 1, src := .spur, opcode := 0x34, form := false, tag := 0, part := 0, wait := .closeDrain 4095 }
       ∃ k ∈ ({ withStream (streamOf .draining) with cmds := [c] } : State).cmds, k.wait = .closeDrain 4095) ∧
      ∀ k ∈ (withStream (streamOf .draining)).cmds, k.wait ≠ .closeDrain 4095) :=
  ⟨⟨taken_of (by decide), by decide⟩, ⟨taken_of (by decide), by decide⟩, by decide, taken_of (by decide), by decide⟩

theorem wit_StreamEndings_inv : (withStream (streamOf .draining)).Inv := inv_of (by decide) (by decide)

/-- Output 0 enabled for partition 0. -/
def withOut (s : State) : State := { s with outs := [(0, { en := true, part := some 0 })] }

theorem wit_OutputBinding :
    (let b := params 12 [(0, 2, 4095), (2, 2, 0)]
     let s := withOut (withStream (streamOf .ready))
     Taken s 0x40 bindOutputSpec .spur {} b ∧ s.foreignOutput 0 (bindTo 0) = false ∧ s.groupFieldsOk (bindTo 0) b = true ∧
      s.isBound 4095 = false ∧ (s.entry 4095).status.active = true ∧ s.outputCheck 4095 (bindTo 0) b = none ∧
      s.holders 0 = [] ∧ s.succeeds 0 = false) ∧
    (let b := params 12 [(0, 2, 4095), (2, 2, 0x4000 + 15 * 64 + 63), (6, 1, 9), (7, 1, 2), (8, 1, 4)]
     let s := withStream (streamOf .ready)
     Taken s 0x40 bindOutputSpec .spur {} b ∧ s.groupFieldsOk (bindTo (BitVec.ofNat 16 (fieldAt b 2 2))) b = true ∧
      s.outputCheck 4095 (bindTo (BitVec.ofNat 16 (fieldAt b 2 2))) b = none) ∧
    (let s : State := { withOut (withStream { streamOf .draining with seqend := true, bind := 0 }) with achans := [(0, { stream := some 4095 })] }
     s.holders 0 = [4095] ∧ s.succeedable 4095 = true ∧ s.succeeds 0 = true) ∧
    (withOut (withStream { streamOf .ready with bind := 0 })).succeedable 4095 = false ∧
    (Taken (withOut ready) 0x41 slotMaskSpec .spur {} (params 12 [(4, 8, 3)]) ∧
      3 &&& channelsOf (fun o => !((withOut ready).out o).en) = 0 ∧ 4 &&& channelsOf (fun o => !((withOut ready).out o).en) ≠ 0 ∧
      3 &&& channelsOf (fun o => ((withOut ready).out o).part != some 0) = 0) ∧
    Taken ready 0x41 slotMaskSpec .spur {} (params 12 [(0, 1, 15)]) ∧ Taken ready 0x41 slotMaskSpec .spur {} (params 12 [(0, 1, 16)]) ∧
    (({ ready with groups := [(15, { active := true, part := 0 })] } : State).group 15).active = true :=
  ⟨⟨taken_of (by decide), by decide⟩, ⟨taken_of (by decide), by decide⟩, by decide, by decide, ⟨taken_of (by decide), by decide⟩,
    taken_of (by decide), taken_of (by decide), by decide⟩

theorem wit_TimeAndAesCommands :
    Taken ready 0x42 setTimebaseSpec .spur {} (params 8 [(1, 1, 7), (4, 4, 31000 * 256)]) ∧
    Taken ready 0x42 setTimebaseSpec .spur {} (params 8 [(0, 1, 3)]) ∧ Taken ready 0x42 setTimebaseSpec .spur {} (params 8 [(0, 1, 4)]) ∧
    Taken ready 0x43 aesOutSpec .spur {} (params 16 [(0, 1, 7), (2, 1, 1), (3, 1, 2), (4, 1, 6)]) ∧
    Taken (withOut ready) 0x43 aesOutSpec .spur { form := true } (params 16 [(1, 1, 1)]) ∧
    Taken ready 0x44 aesInSpec .spur {} (params 16 [(0, 1, 1), (1, 1, 1), (2, 2, 2047), (4, 4, 192)]) ∧
    ((ready.part 0).owns (2047 / 2048) = true ∧ (ready.part 0).owns (2048 / 2048) = false ∧
      (ready.part 0).inside (9 * 2 ^ 30 - 1536) (8 * 192) = true) ∧
    (let s : State := { ready with outs := [(7, { en := true, part := some 0, draining := true })] }
     (s.out 7).draining = true ∧ s.channelDone 14 = true ∧ s.channelDone 15 = true) :=
  ⟨taken_of (by decide), taken_of (by decide), taken_of (by decide), taken_of (by decide), taken_of (by decide), taken_of (by decide),
    by decide, by decide⟩

/-- A command in progress. -/
def cmdOf (op : Nat) (w : Wait) : Cmd :=
  { id := 7, src := .spur, opcode := op, form := false, tag := 3, part := 0, wait := w }
def withCmd (s : State) (op : Nat) (w : Wait) : State := { s with cmds := [cmdOf op w] }

theorem wit_MemoryCommands :
    (Taken ready 0x50 writeMemorySpec .spur {} (params 20 [(5, 1, 1), (8, 4, 4)]) ∧
      inlineFlag (params 20 [(5, 1, 1), (8, 4, 4)]) = true ∧ ready.writeChecks 0 0 4 = none) ∧
    (Taken ready 0x50 writeMemorySpec .spur {} (params 16 [(8, 4, 4)]) ∧ ready.tagPending .spur 0 = false) ∧
    (Taken ready 0x52 fillMemorySpec .spur {} (params 24 [(8, 8, 1)]) ∧ ready.writeChecks 0 (9 * 2 ^ 30 - 1) 1 = none ∧
      (ready.part 0).inside (9 * 2 ^ 30) 1 = false ∧ ready.badLines = []) ∧
    ((withCmd ready 0x50 (.writeData 0 8 [] [] none false)).writer .spur 3 = some (cmdOf 0x50 (.writeData 0 8 [] [] none false)) ∧
      covered [(0, 8)] 0 8 = true ∧ covered [(0, 7)] 0 8 = false ∧ ready.writer .spur 3 = none ∧
      (withCmd ready 0x50 (.writeData 0 8 [] [] none false)).cmds.find? (·.id == 7) =
        some (cmdOf 0x50 (.writeData 0 8 [] [] none false))) ∧
    (Taken ready 0x51 readMemorySpec .spur {} (params 12 [(5, 1, 1), (8, 4, 65483)]) ∧
      ((ready.accepted .spur).readUntil (ready.part 0) 0 4).2.2 = none) ∧
    Taken ready 0x51 readMemorySpec .spur {} (params 12 [(8, 4, 65484)]) ∧
    (let s : State := { ready with badLines := [0] }
     ((s.accepted .spur).readUntil (s.part 0) 0 4).2.2 = some 0) :=
  ⟨⟨taken_of (by decide), by decide⟩, ⟨taken_of (by decide), by decide⟩, ⟨taken_of (by decide), by decide⟩, by decide,
    ⟨taken_of (by decide), by decide⟩, taken_of (by decide), by decide⟩

theorem wit_SyncCommands :
    Taken ready 0x53 signalSyncSpec .spur {} (params 8 [(0, 2, 2047), (2, 1, 1)]) ∧
    (Taken ready 0x54 waitSyncSpec .spur {} (params 12 [(4, 4, 0x80000000), (8, 4, 1)]) ∧
      2 ^ 31 ≤ (ready.syncVal 0 - 0x80000000).toNat ∧ (ready.syncVal 0 - 0x80000001).toNat < 2 ^ 31 ∧ ready.syncWaits < 256) ∧
    (Taken ready 0x55 fenceSpec .spur {} [] ∧
      (({ withCmd ready 0x54 (.sync 0 none) with nextCmd := 8 } : State).before .spur 0).filter (fun i => decide (i < 8)) = [7] ∧
      ready.before .spur 0 = []) ∧
    ((withCmd ready 0x54 (.sync 0 (some 1000))).cmds.find? (·.id == 7) = some (cmdOf 0x54 (.sync 0 (some 1000))) ∧
      1000 ≤ ready.now ∧ ready.now < 1001) :=
  ⟨taken_of (by decide), ⟨taken_of (by decide), by decide⟩, ⟨taken_of (by decide), by decide⟩, by decide⟩

theorem wit_UnitCommands_test :
    (withCmd ready 0x13 (.test 0 2047)).cmds.filter (·.id == 7) = [cmdOf 0x13 (.test 0 2047)] ∧
    (withCmd ready 0x13 (.test 0 2047)).cmds.find? (·.id == 7) = some (cmdOf 0x13 (.test 0 2047)) ∧ 2047 < testCount 0 ∧
    UnitId.core 2047 ∈ testedUnits 0 2047 ∧ (∀ x ∈ testedUnits 0 2047, x ∉ [UnitId.core 5]) ∧
    ready.unitState (.core 2047) = 0 := by decide

/-- Partition 0 with an owner key. -/
def owned : State :=
  { ready with parts := [(0, { exists_ := true, clusters := [0], ledgerQuota := 4, ctxQuota := 4, owner := some (0, List.replicate 64 1) })] }

theorem wit_SecurityCommands :
    Taken ready 0x70 attestSpec .spur {} (params 40 [(4, 1, 1)]) ∧ Taken ready 0x70 attestSpec .spur {} (params 40 [(0, 4, 9)]) ∧
    (({ ready with results := [(.spur, 0x70, List.replicate 10 0)] } : State).keptResult .spur 0x70).length = 10 ∧
    (Taken owned 0x71 packageSpec .spur {} (params 32 []) ∧ (owned.part 0).owner ≠ none) ∧
    (Taken ready 0x72 ownerKeySpec .spur {} (params 80 []) ∧ allZero (((params 80 []).drop 16).drop (keyBytes 0)) = true) ∧
    Taken ready 0x73 patchSpec .spur {} (params 40 [(8, 4, 2 ^ 20)]) ∧
    (Taken (withStream (streamOf .ready)) 0x74 provenanceSpec .spur {} (params 40 [(4, 2, 4095)])) ∧
    Taken ready 0x75 unlockSpec .spur {} (params 24 [(0, 1, 1)]) :=
  ⟨taken_of (by decide), taken_of (by decide), by decide, ⟨taken_of (by decide), by decide⟩, ⟨taken_of (by decide), by decide⟩,
    taken_of (by decide), taken_of (by decide), taken_of (by decide)⟩

/-- Lane 0 runs the one command in progress. -/
def laneState (op : Nat) (b : Bytes) : State := { withCmd owned op (.lane op b) with lane0 := [7] }

theorem wit_SecurityLanes_front (op : Nat) (b : Bytes) :
    ((laneState op b).lane0.filterMap fun id => (laneState op b).cmds.find? (·.id == id)).head? = some (cmdOf op (.lane op b)) := by
  simp [laneState, withCmd, owned, cmdOf]

/-- The image of w11 lies recorded as image 0; LOAD_IMAGE and ADMIT_CONTEXT of it stand in lane 0. -/
def imageLane (op : Nat) (b : Bytes) : State :=
  { withCmd ready op (.lane op b) with lane0 := [7], mem := memOf 0 imageBytes,
                                       images := [(0, some { part := 0, addr := 0, bytes := 216, digest := digest imageBytes })] }

theorem wit_SecurityLanes_images :
    (let b := params 25 [(16, 8, 216)]
     let s := imageLane 0x20 b
     (s.lane0.filterMap fun id => s.cmds.find? (·.id == id)).head? = some (cmdOf 0x20 (.lane 0x20 b)) ∧
      imageCheck (s.readPart (s.part 0) .normal 0 216).2.1 216 = none ∧ carriedSigned b 24 = false ∧
      carriedSigned (params 25 [(24, 1, 1)]) 24 = true ∧ s.image 1 = none ∧ s.image 0 ≠ none) ∧
    (let s := imageLane 0x21 (params 8 [])
     (s.lane0.filterMap fun id => s.cmds.find? (·.id == id)).head? = some (cmdOf 0x21 (.lane 0x21 (params 8 []))) ∧
      s.image 1 = none ∧ s.image 0 = some { part := 0, addr := 0, bytes := 216, digest := digest imageBytes } ∧
      s.placeCheck 0 (s.readPart (s.part 0) .normal 0 216).2.1 = none ∧ (s.readPart (s.part 0) .normal 0 216).2.2 = [] ∧
      (s.readPart (s.part 0) .normal 0 216).2.1 = imageBytes ∧ (imgMap imageBytes).map MapEntry.core = [0] ∧ s.ctx 0 = none) := by
  decide +kernel

/-- A PROVENANCE of stream 4095 stands in lane 1, its frames hashed or waiting. -/
def manifestLane (waiting : List (Nat × Bytes × Time)) : State :=
  { withStream { streamOf .ready with prov := { waiting := waiting } } with
    cmds := [cmdOf 0x74 (.lane 0x74 (params 44 [(4, 2, 4095), (40, 1, 1)]))], lane1 := [7] }

theorem wit_SecurityLanes_signing :
    (laneState 0x70 (params 41 [])).lane0 ≠ [] ∧ (params 41 []).drop 40 ≠ [] ∧ ready.lane true = [] ∧
    (∀ w ∈ [[], [(0, [], 5)]],
      ((manifestLane w).lane1.filterMap fun id => (manifestLane w).cmds.find? (·.id == id)).head? =
        some (cmdOf 0x74 (.lane 0x74 (params 44 [(4, 2, 4095), (40, 1, 1)]))) ∧
      ((manifestLane w).entry 4095).prov.waiting = w ∧ ((manifestLane w).entry 4095).prov.frames < 1) := by
  decide +kernel

theorem wit_SecurityLanes_keys :
    (owned.part 0).inside 0 (9 * 2 ^ 30) = true ∧ (owned.part 0).inside (9 * 2 ^ 30) 4 = false ∧
    carriedKey (params 145 []) 80 = none ∧ (carriedKey (params 147 [(81, 1, 1)]) 80).isSome = true ∧
    (∀ q ∈ owned.partIds, q = 0) := by decide +kernel

theorem wit_SecurityLanes_waiting :
    (withStream { streamOf .ready with prov := { waiting := [(0, [], 5)] } }).entry 4095 =
      { streamOf .ready with prov := { waiting := [(0, [], 5)] } } := rfl

theorem moveTaken_of {s : State} {d : BitVec 12} {op : Nat} {sp : CmdSpec} {hdr : Hdr} {p : Bytes}
    (h : s.stewardFree = true ∧ (s.accepted (.dev d)).receiptCheck op sp (.dev d) hdr p true true = none ∧
      hdr.start.toNat ≤ s.now) : Taken s op sp (.dev d) hdr p :=
  ⟨nofun, h⟩

/-- A move's reservation of entry 4095 by device 2. -/
def reservedBy (v : Reserve) : State := withStream { streamOf .closed with held := true, reserved := some v, iqDepth := 1 }
def moveHdr : Hdr := { tag := 0xF000 }

theorem wit_MoveCommands :
    Taken opening 0xF0 moveReserveSpec (.dev 2) moveHdr openParams ∧ 0xF000 ≤ moveHdr.tag.toNat ∧
    (opening.openChecks 0 (openArgs openParams) = none ∧ opening.freeEntry 0 = some 0) ∧
    (Taken (reservedBy { tag := 0xF000, src := 2 }) 0xF1 moveOpenSpec (.dev 2) moveHdr (params 24 [(0, 2, 4095)]) ∧
      (reservedBy { tag := 0xF000, src := 2 }).holdsReserve 0 4095 2 = some { tag := 0xF000, src := 2 } ∧
      (moveFieldsOf (params 24 [(0, 2, 4095)])).fill ≤ 1) ∧
    Taken (reservedBy { tag := 0xF000, src := 2 }) 0xF2 moveReleaseSpec (.dev 2) moveHdr (params 4 [(0, 2, 4095)]) ∧
    ((reservedBy { tag := 0xF000, src := 2 }).entry 4095).reserved ≠ none ∧
    (Taken (withStream (streamOf .parked)) 0x33 moveStreamSpec .spur {} (params 48 [(0, 2, 4095)]) ∧
      destDev (params 48 [(0, 2, 4095)]) = (withStream (streamOf .parked)).net.id ∧ destPart (params 48 [(0, 2, 4095)]) = 0 ∧
      (withStream (streamOf .parked)).foreignStream 0 4095 = false) ∧
    (let b := params 48 [(0, 2, 4095), (2, 2, 5), (5, 1, 3)]
     Taken (withStream (streamOf .parked)) 0x33 moveStreamSpec .spur {} b ∧ destDev b ≠ (withStream (streamOf .parked)).net.id ∧
      newChain b = true ∧ newState b = true) :=
  ⟨moveTaken_of (by decide), by decide, by decide +kernel, ⟨moveTaken_of (by decide), by decide⟩, moveTaken_of (by decide), by decide,
    ⟨taken_of (by decide), by decide⟩, taken_of (by decide), by decide⟩

/-! ### Witnesses: Dockets, streams in and out, audio -/

/-- Core 0 has a word ldg.take waiting at the head of its queue on Ropewalk 0, and stream 4095 has a chunk to take. -/
def taking : State :=
  let s := moving (word 0xC2 0)
  { s with entries := [(4095, { streamOf .ready with iqDepth := 1, iqCount := 1 })],
           ctxs := [(0, some ctx0)] }

theorem wit_DocketComposition :
    (({} : State).rope 0 = none) ∧
    ((inPart {}).rope 0 = some (rope0 (edge0 0 0 0)) ∧ (inPart {}).mayCompose 0 (rope0 (edge0 0 0 0)) = false) ∧
    (taking.rope 0 = some (rope0 (edge0 0 0 0)) ∧ taking.mayCompose 0 (rope0 (edge0 0 0 0)) = true ∧
      (taking.candidates 0).length = 1) := by decide +kernel

/-- The one entry of a Docket, returned, for a stream of one link with pending step x. -/
def returned (x : DEntry) (pend : Option PendStep) : State :=
  let s := inPart {}
  { s with dockets := [{ rope := 0, seq := 0, builder := 0, time := 0, entries := [x] }],
           entries := [(5, { streamOf .ready with pend := pend })] }
def doneEntry : DEntry := { dentry0 with returned := some true }

theorem wit_EntryCommit :
    (∀ x ∈ [doneEntry, { doneEntry with dropped := true }, { doneEntry with link := 1 }],
      (returned x none).rope 0 = some (rope0 (edge0 0 0 0)) ∧ ((returned x none).docket 0 0).map Docket.entries = some [x] ∧
      x.resolved = false ∧ x.returned ≠ none) ∧
    ((returned doneEntry none).entry 5).fault = 0 ∧ ((returned doneEntry none).entry 5).status ≠ .closed ∧ ((returned doneEntry none).entry 5).part = some 0 ∧
    ((returned doneEntry none).entry 5).pend = none ∧ (rope0 (edge0 0 0 0)).samples = 8 ∧
    doneEntry.link + 1 = ((returned doneEntry none).entry 5).links ∧
    ((returned doneEntry (some { samples := [], count := 8, hist := none })).entry 5).pend ≠ none ∧
    (let x : DEntry := { doneEntry with stores := [(0, [1])] }
     let s := { returned x (some { samples := [], count := 8, hist := none }) with
                badLines := [((returned x none).part 0).phys 4096 / 128] }
     s.refusingLines (rope0 (edge0 0 0 0)) x ≠ []) ∧
    (returned doneEntry none).refusingLines (rope0 (edge0 0 0 0)) doneEntry = [] ∧
    ((returned doneEntry none).entry 5).pos + 1 < posLimit ∧ ¬ 2 = ((returned doneEntry none).entry 5).links := by
  decide +kernel

/-- Stream 0 takes chunks of 16 bytes from partition 0, of a chunk of which `p` has come. -/
def inputStream (p : Option (Nat × Nat × Bool)) (bad : Option Word) : State :=
  { ready with entries := [(0, { streamOf .opened with iqDepth := 1, iqSlot := 1, partialChunk := p, badChunk := bad })] }

theorem wit_StreamInputFragments :
    (let s := inputStream none none
     (s.entry 0).belongs 0 = true ∧ (s.entry 0).belongs 1 = false ∧ (s.entry 0).status ≠ .closed ∧
      (s.entry 0).status ≠ .draining ∧ (s.entry 0).iqCount < (s.entry 0).iqDepth ∧ (s.entry 0).chunk = 0 ∧
      (fragmentOf (params 20 [(2, 1, 3)])).first = true ∧ (fragmentOf (params 20 [(2, 1, 3)])).last = true ∧
      (fragmentOf (params 20 [(2, 1, 3)])).data.length ≤ (s.entry 0).slotBytes ∧
      ¬ (fragmentOf (params 81 [(2, 1, 3)])).data.length ≤ (s.entry 0).slotBytes) ∧
    ((inputStream (some (2, 4, false)) none).entry 0).partialChunk = some (2, 4, false) ∧
    (fragmentOf (params 20 [(8, 1, 4)])).first = false ∧ (fragmentOf (params 20 [(8, 1, 4)])).offset = 4 ∧
    ((inputStream none (some 0)).entry 0).badChunk = some (fragmentOf (params 20 [])).chunk ∧
    (let s := inputStream none none
     (s.writeWholly (s.part 0) .normal ((s.entry 0).iqBase.toNat) (params 4 [])).2 = false ∧
      ({ s with badLines := [(s.part 0).phys 0 / 128] }.writeWholly (s.part 0) .normal ((s.entry 0).iqBase.toNat)
        (params 4 [])).2 = true) := by decide +kernel

/-- Stream 5 owes device 3 one credit. -/
def owing : State := { entries := [(5, { credits := 1, owner := 3 })] }

theorem wit_StreamCredits :
    (∀ x ∈ ({} : State).entries, x.2.credits = 0) ∧ owing.Inv ∧ (∀ x ∈ owing.entries, x.1 < 4096) ∧
    0 < (owing.entry 5).credits ∧ (owing.entry 5).ownerSelf = false ∧ (owing.entry 5).owner ≠ owing.net.id :=
  ⟨by decide, inv_of (by decide) nofun, by decide +kernel⟩

/-- Output 0 runs at the internal rate, and channel 0 plays stream 4095, whose ring holds n samples. -/
def playing (n : Nat) : State :=
  { withStream { streamOf .ready with orWr := BitVec.ofNat 32 n } with
    outs := [(0, { en := true, part := some 0 })], achans := [(0, { stream := some 4095 })], slotMask := 1 }
def groupPlaying : State :=
  { playing 0 with groups := [(0, { active := true, mask := 3, slots := [(0, some 4095)] })] }

theorem wit_OutputDrains :
    ((({} : State).applyDue 0).out 0).en = false ∧
    (∀ n ∈ [0, 1], (((playing n).applyDue 0).out 0).en = true ∧ ((playing n).applyDue 0).frameFits 0 = true ∧
      (((playing n).applyDue 0).out 0).a.set = false ∧ ((playing n).applyDue 0).channelLive 0 = some 4095 ∧
      (((playing n).applyDue 0).entry 4095).part ≠ none ∧ (((playing n).applyDue 0).entry 4095).fill = n ∧
      (((playing n).applyDue 0).rhoOf (((playing n).applyDue 0).fOut 0) 4095).1 =
        (((playing n).applyDue 0).rhoOf (((playing n).applyDue 0).fOut 0) 4095).2) ∧
    ((withOut {}).applyDue 0).channelLive 0 = none ∧
    ((groupPlaying.group 0).active = true ∧ bitOf (groupPlaying.group 0).mask.toNat 1 = true ∧
      Tbl.get none (groupPlaying.group 0).slots 1 = none ∧ bitOf (groupPlaying.group 0).mask.toNat 2 = false ∧
      Tbl.get none (groupPlaying.group 0).slots 0 = some 4095 ∧ (groupPlaying.entry 4095).part ≠ none) ∧
    ({ groupPlaying with entries := [(4095, { streamOf .ready with ringRate := 1 })] } : State).slotRange 0 0 = true := by
  decide +kernel

theorem wit_AesOutputFrames :
    ((({} : State).applyDue 0).out 0).en = false ∧ (((withOut {}).applyDue 0).out 0).en = true ∧
    (((withOut {}).applyDue 0).out 0).clk = 0 ∧ (((withOut {}).applyDue 0).out 0).sentAt ≠ some ((withOut {}).applyDue 0).tb.count ∧
    (let s : State := { outs := [(0, { en := true, part := some 0, sentAt := some 0, sent := 1 })] }
     ((s.applyDue 0).out 0).sentAt = some (s.applyDue 0).tb.count ∧ ((s.applyDue 0).out 0).sent ≠ 0) := by decide +kernel

/-- AES3 input 0 as x says, while the counter runs. -/
def hearing (x : AesIn) : State := { ready with ains := [(0, x)] }
def goodIn : InFrame := { rate := 48000 * 256 }

theorem wit_AesInputFrames :
    (({} : State).Inv ∧ ({} : State).tb.running = false) ∧
    (∀ x ∈ [({ good := 6 } : AesIn), { good := 7 }, { locked := true, bad := 3 },
      { locked := true, inBlock := true, frame := 190, ringFrames := 192, capture := true, part := some 0 }],
      (hearing x).Inv ∧ (hearing x).tb.running = true ∧ (hearing x).ain 0 = x) ∧
    goodFrame goodIn = true ∧ goodFrame { goodIn with codingBad := true } = false ∧ goodIn.blockStart = false :=
  ⟨⟨inv_of (by decide) nofun, rfl⟩, fun x h => ⟨inv_of (by revert x; decide) nofun, rfl, rfl⟩, by decide⟩

theorem wit_AudioClockEdges :
    ({} : State).mclk.lastEdge = none ∧ ({ mclk := { lastEdge := some 5 } } : State).mclk.lastEdge = some 5 ∧
    acquired [1] = none ∧ acquired (List.replicate 256 100) = some 25600 ∧
    (4 < ({ accepted := true, periods := [100], lastEdge := some 0 } : Mclk).missed 100000 ∨
      4 < ({ accepted := true, lastEdge := some 0, rate := 12288000 * 256 } : Mclk).missed 10000000) := by decide +kernel

/-! ### Witnesses: stream engine, Mills, narrow engine -/

/-- A PUT descriptor of kind 3 (FILL): one run of 4 bytes at partition address 0. -/
def fillDesc : Bytes := params 64 [(0, 1, 3), (4, 3, 4), (8, 2, 1), (10, 2, 1)]
/-- A GET of one run of 4 bytes from partition address 0 to local address 0. -/
def getDesc : Bytes := params 64 [(4, 3, 4), (8, 2, 1), (10, 2, 1)]
/-- Share 0 of core 0 submitted a list of one descriptor at local address 0. -/
def listOf (raw : Bytes) (get : Bool) : State :=
  { inPart (front [] { scratch := memOf 0 raw }) with
    clusters := [(0, { part := some 0, nextId := 1, lists := [{ site := site0, ctx := 0, id := 0, index := 0, get := get, base := 0, count := 1 }] })] }
def heldDesc : HeldDesc := { id := 0, list := 0, site := site0, ctx := 0, index := 0, raw := fillDesc }
def holding : State := { inPart (front []) with clusters := [(0, { part := some 0, held := [heldDesc] })] }

theorem wit_DescriptorFetches :
    (let s := listOf fillDesc false
     s.clusterUp 0 = true ∧ (s.clu 0).held.length < 512 ∧ (s.clu 0).fetchTurn = some (siteKey site0) ∧
      ((s.clu 0).lists.find? ((s.clu 0).fetchable site0)).map (·.id) = some 0 ∧
      (s.share 0 0).read 0 64 = fillDesc ∧ dBad false fillDesc = false ∧
      s.fusedBoundary 0 0 { site := site0, ctx := 0, id := 0, index := 0, get := false, base := 0, count := 1 } fillDesc = false ∧
      dOut fillDesc (s.shareSize 0) (s.partOf 0).limit = false ∧ dOut fillDesc (s.shareSize 0) 3 = true ∧ dBad true fillDesc = true) ∧
    ({} : State).clusterUp 0 = true ∧ (({} : State).clu 0).lists.find? ((({} : State).clu 0).fetchable site0) = none ∧
    (let k := (listOf fillDesc false).clu 0
     k.burst.2 = 0 ∧ k.burst.1 < 256 ∧ { k with burst := (0, 15) }.fetchTurn = some 0) ∧
    ((holding.clu 0).grantee = some heldDesc ∧ (holding.clu 0).txns.length < 2048) := by
  decide +kernel

theorem wit_DescriptorCompletes :
    (holding.clu 0).held.find? (fun d => d.id == 0) = some heldDesc ∧ holding.clusterUp 0 = true ∧
    (holding.clu 0).started heldDesc = true ∧ (({} : State).clu 0).held.find? (fun d => d.id == 0) = none ∧
    (let d := { heldDesc with raw := getDesc }
     let s : State := { inPart (front []) with clusters := [(0, { part := some 0, held := [d] })] }
     s.clusterUp 0 = true ∧ (s.clu 0).started d = true ∧ (s.clu 0).held = [d] ∧ (s.clu 0).txns = [] ∧ d.run = 0 ∧ d.line = 0 ∧
      dOp d.raw = 0 ∧ dCnt1 d.raw = 1 ∧ dCnt2 d.raw = 1 ∧ 0 < dLen d.raw ∧ runDst d.raw 0 + dLen d.raw ≤ s.shareSize 0) := by
  decide +kernel

/-- A Mill FILL of two blocks at the start of the locality window of partition 0. -/
def millFillDesc : Bytes := params 64 [(0, 1, 5), (1, 1, 2), (12, 4, 65600)]
def millDesc (started : Bool) : MillDesc :=
  { id := 0, site := site0, ctx := 0, index := 0, op := 5, raw := millFillDesc, started := started }
/-- Cluster 0, wholly a locality window, with that descriptor submitted, queued or in service. -/
def milling (sub q : List MillDesc) (cur : Option Nat) : State :=
  { inPart (front []) with parts := [(0, { exists_ := true, clusters := [0], local_ := 18 })]
                           clusters := [(0, { part := some 0, millSub := sub, millQ := q, millCur := cur })] }

theorem wit_MillQueues :
    ((milling [millDesc false] [] none).clu 0).millSub = [millDesc false] ∧
    (let u := (milling [millDesc false] [] none).modClu 0 fun k => { k with millSub := [] }
     let dest := ((milling [millDesc false] [] none).millPart (millDesc false)).serving 0 millFillDesc
     (u.clu dest).resetting = false ∧ u.millPresent dest 0 = true) ∧
    (let s := milling [] [millDesc false] none
     (s.clu 0).millCur = none ∧ s.clusterUp 0 = true ∧ s.millUp 0 0 = true ∧ (s.clu 0).millNext = some 0 ∧
      (s.clu 0).millQ.find? (fun d => d.ctx == 0) = some (millDesc false)) ∧
    (let earlier (s : State) : Bool := (s.part 0).clusters.any fun m => (s.clu m).millSub.any fun x => decide (x.id < 1)
     earlier (milling [millDesc false] [] none) = true ∧ earlier (milling [] [] none) = false) ∧
    (let u := milling [] [millDesc false] none
     mBad (millDesc false).op millFillDesc (u.millPart (millDesc false)) = false ∧
      u.mOut (millDesc false) (u.millPart (millDesc false)) = false ∧
      mBad 5 (millFillDesc.set 61 1) (u.millPart (millDesc false)) = true) ∧
    (milling [] [millDesc true] none).clu 0 ≠ (milling [] [millDesc false] none).clu 0 := by decide +kernel

theorem wit_MillService :
    ((milling [] [millDesc true] (some 0)).clu 0).serving = some (millDesc true) ∧
    (milling [] [millDesc true] (some 0)).clusterUp 0 = true ∧ 0 + 1 < mTotal (millDesc true) ∧
    mTotal (millDesc true) ≤ 0 + mTotal (millDesc true) ∧ (({} : State).clu 0).serving = none := by decide +kernel

/-- A narrow CONVERT of one word from local 0 to local 64. -/
def convertReq (op : Nat) : NarReq :=
  { site := site0, ctx := 0, index := 0, raw := params 32 [(0, 1, op), (6, 2, 1), (13, 5, 64)] }
def narrowing (r : NarReq) : State :=
  { inPart (front []) with clusters := [(0, { part := some 0, narQ := [r] })] }

theorem wit_NarrowRequests :
    ((narrowing (convertReq 3)).clu 0).narQ = [convertReq 3] ∧ (narrowing (convertReq 3)).narUp 0 = true ∧
    (convertReq 3).op = 3 ∧ (narrowing (convertReq 3)).narCauses (convertReq 3) 0 ((narrowing (convertReq 3)).part 0) = [] ∧
    (convertReq 3).named = false ∧ (convertReq 0).named = true ∧ (narrowing (convertReq 3)).badLines = [] ∧
    (narrowing (convertReq 9)).narCauses (convertReq 9) 0 ((narrowing (convertReq 9)).part 0) = [9] ∧
    (withDocket [0] (narrowing (convertReq 3))).committable 5 = true ∧ (narrowing (convertReq 3)).committable 5 = false := by
  decide +kernel

/-! ### Witnesses: generators, windows, power, failures -/

theorem wit_GeneratorReseeds :
    (let s : State := { cores := [(0, { due := true, reseedBuf := some 5 })] }
     s.Inv ∧ (s.core 0).reseedBuf = some 5 ∧ (s.core 0).due = true) ∧
    (({} : State).Inv ∧ (({} : State).core 0).reseedBuf = none ∧ ({} : State).entropyFail = false) :=
  ⟨⟨inv_of (by decide) (by decide), rfl, rfl⟩, inv_of (by decide) nofun, rfl, rfl⟩

theorem wit_WindowBoundaries :
    ((front []).core 0).gated = false ∧ ((front []).clu 0).power = 0 ∧ ((front []).share 0 0).ctx ≠ none ∧
    ((front []).share 0 1).ctx = none := by decide +kernel

/-- The share of `front` has starved since the count was 0. -/
def starved : State :=
  let s := inPart (front [word 0 0])
  { s with cores := s.cores.map fun x => (x.1, { x.2 with starveFrom := [(0, some 0)] }), tb := { s.tb with count := 2 ^ 32 } }

theorem wit_Starvation :
    (let s := starved
     (s.at site0).ctx = some 0 ∧ (s.ctx 0).isSome = true ∧ (s.at site0).weight = 0 ∧ (s.at site0).starving = false ∧
      s.dispatchable 0 0 = true ∧ Tbl.get none (s.core 0).starveFrom 0 = some 0 ∧
      (s.at site0).starve * s.tb.rate.toNat / 256000 ≤ (s.tb.count - 0).toNat) ∧
    ((inPart (front [word 0 0] { weight := 1 })).at site0).weight ≠ 0 := by decide +kernel

theorem wit_SensorReads :
    ready.started = true ∧ ready.Inv ∧ ({} : State).started = false ∧ ready.tripped = false ∧
    (109 : Byte).toInt < 110 ∧ (0xFF : Byte).toInt < 110 ∧ 110 ≤ (110 : Byte).toInt ∧ 110 ≤ (127 : Byte).toInt :=
  ⟨rfl, inv_of (by decide) nofun, rfl, rfl, by decide⟩

theorem wit_GatingAndRefresh :
    (let s : State := {}
     s.Inv ∧ (s.chan 0).selfRefresh = true ∧ s.tripped = false ∧ s.channelIdle 0 = true) ∧
    ({ chans := [(0, { selfRefresh := false })] } : State).Inv ∧
    (({} : State).corePresent 0 = true ∧ ({} : State).coreIdle 0 = true) ∧
    (let s : State := { cores := (List.range 64).map fun g => (g, { gated := true }) }
     s.Inv ∧ (s.clu 0).power = 0 ∧ s.clusterIdle 0 = true) ∧ ({} : State).clusterIdle 0 = false ∧
    (({ clusters := [(0, { power := 1 })] } : State).clu 0).power = 1 :=
  ⟨⟨inv_of (by decide) nofun, by decide +kernel⟩, inv_of (by decide) nofun, by decide +kernel,
    ⟨inv_of (by decide +kernel) (by decide +kernel), by decide +kernel⟩, by decide +kernel, rfl⟩

/-- Start-up stage 4 has ended, and line 0 of channel 0 is cached. -/
def watched (dirty : Bool) : State :=
  { stages := [(4, { result := 2 })], clusters := [(0, { cache := [{ chan := 0, line := 0, dirty := dirty }],
                                                         narQ := [convertReq 3] })] }

theorem wit_UnitFailures :
    (watched false).Inv ∧ (watched true).Inv ∧ (watched false).watching = true ∧ ({} : State).watching = false ∧
    ((watched false).clu 0).cache.find? (fun l => l.chan == 0 && l.line == 0) = some { chan := 0, line := 0, dirty := false } ∧
    (watched false).unitState (.core 0) = 0 ∧ (watched false).unitState (.narrow 0) = 0 ∧
    (watched false).mayOverrun (.narrow 0) = true ∧ (watched false).mayOverrun (.core 0) = false ∧
    ((watched true).clu 0).cache.find? (fun l => l.chan == 0 && l.line == 0) = some { chan := 0, line := 0, dirty := true } ∧
    (watched true).watching = true ∧ chanBytes ≤ (2 ^ 31 - 1) % 2 ^ 31 :=
  ⟨inv_of (by decide) nofun, inv_of (by decide) nofun, by decide +kernel⟩

/-! ### Witnesses: links -/

/-- Port p is UP. -/
def portUp (p : Nat) (n : Net := {}) : State := { ready with net := { n with ports := [(p, { state := 2 })] } }

theorem wit_PortStates :
    ((ready.port 0).state ≠ 2 ∧ (Tbl.get {} ({} : State).stages 6).result = 0 ∧
      (Tbl.get {} ({ ready with stages := [(6, { result := 2 })] } : State).stages 6).result ≠ 0) ∧
    (((portUp 0).port 0).state = 2 ∧ Tbl.wf {} (portUp 0).net.ports = true) ∧ ((portUp 5).port 5).state = 2 := by
  decide +kernel

theorem wit_PortStates_inv : (portUp 5).Inv := inv_of (by decide) nofun

/-- A ping of the fabric, with a right header check: 32 bytes from device 2 to device 1. -/
def rawBytes (part : Nat) : Bytes :=
  let h := params 30 [(0, 2, part * 4096 + 1), (2, 2, 2), (5, 1, 5)]
  h ++ leBytes 2 (crc16 h).toNat
def rawPkt (dt vc : Nat) : RawPkt := { dt := dt, vc := vc, wc := 32, bytes := rawBytes 0 }
/-- A broadcast HELLO from device 2. -/
def broadcast : RawPkt :=
  let h := params 30 [(0, 2, 0xFFF), (2, 2, 2), (4, 1, 2), (5, 1, 4)]
  { dt := 0x37, vc := 12, wc := 32, bytes := h ++ leBytes 2 (crc16 h).toNat }

theorem wit_PacketChecks :
    typeOk 0x30 0 = true ∧ typeOk 0x30 1 = false ∧ rawChecked (rawPkt 0x30 0) = true ∧
    rawChecked { rawPkt 0x30 0 with wc := 33 } = false ∧ (rawParse (rawPkt 0x30 0)).dst = 1 ∧
    rawFieldsOk (rawPkt 0x30 0) (rawParse (rawPkt 0x30 0)) = true ∧
    rawFieldsOk { rawPkt 0x30 0 with bytes := slice (rawBytes 0) 0 5 ++ [8] ++ (rawBytes 0).drop 6 } (rawParse (rawPkt 0x30 0)) = false ∧
    (let s := portUp 0 { id := 1, idValid := true }
     s.net.idValid = true ∧ s.net.id = 1 ∧ (s.seqCheck 0 (rawParse (rawPkt 0x30 0))).2 = true ∧
      (s.seqCheck 0 { rawParse (rawPkt 0x30 0) with seq := 5, sync := false }).2 = false) ∧
    (typeOk 0x37 12 = true ∧ rawChecked broadcast = true ∧ (rawParse broadcast).dst = 0xFFF ∧
      rawFieldsOk broadcast (rawParse broadcast) = true ∧ (rawParse broadcast).dt ≠ 0x36 ∧
      ((portUp 0).seqCheck 0 (rawParse broadcast)).2 = true) ∧
    (∀ i ∈ [(1 : BitVec 12), 2], let s := portUp 2 { id := i, idValid := true }
      let k := { rawParse (rawPkt 0x30 0) with src := i }
      (s.port 2).state = 2 ∧ s.net.idValid = true ∧ k.src = s.net.id ∧ k.dst ≠ 0xFFF ∧ (k.dst = s.net.id ↔ i = 1) ∧
        (s.seqCheck 2 k).2 = true) := by decide +kernel

/-- A sender's space of VC 0 to device 2 that holds one packet. -/
def heldPkt : OutPkt := { pkt := { dt := 0x30, vc := 0, dst := 2, src := 1, rel := true, payload := [] }, spur := false }
def space (t : Nat) : Snd := { dst := 2, spur := false, vc := 0, rel := true, held := [heldPkt], timeouts := t }
def sending (t : Nat) : State := { ready with net := { snd := [space t] } }

theorem wit_Acknowledgements :
    ({} : State).net.snd.find? (fun x => x.keyed 2 false 0 true) = none ∧
    (∀ t ∈ [6, 7], (sending t).net.snd.find? (fun x => x.keyed 2 false 0 true) = some (space t) ∧ (space t).held ≠ [] ∧
      (space t).timeouts = t) ∧
    (({} : State).rcvOf 2 false false 0 true).since = 0 ∧ (({} : State).rcvOf 2 false false 0 true).gap = false ∧
    (let s : State := { net := { rcv := [{ src := 2, spur := false, vc := 0, rel := true, since := 1, gap := true }] } }
     0 < (s.rcvOf 2 false false 0 true).since ∧ (s.rcvOf 2 false false 0 true).gap = true) := by decide +kernel

theorem wit_Transmission :
    ((portUp 3).port 3).state = 2 ∧ ((portUp 5).port 5).state = 2 ∧ (ready.port 3).state ≠ 2 ∧
    (portUp 3).sendPassing 3 = none ∧ (portUp 3).sendCtl 3 = none ∧ (portUp 3).sendRetx 3 = none ∧
    Tbl.get none (portUp 3 { thru := [(0, some heldPkt.pkt)] }).net.thru 0 = some heldPkt.pkt ∧
    (ready.port 5).state ≠ 1 ∧ (({ ready with net := { ports := [(5, { state := 1 })] } } : State).port 5).state = 1 ∧
    (let s := portUp 5 { id := 2, idValid := true, out := [{ heldPkt with spur := true }] }
     s.mayInsert 5 0 = true ∧ s.firstOf 5 0 [] s.net.out.zipIdx = some (0, true) ∧
      (∀ i, i < 16 → (portUp 5).firstOf 5 i [] (portUp 5).net.out.zipIdx = none)) := by decide +kernel

/-- A ROLL of ring 0, round 1, with one record. -/
def rollBytes : Bytes := params 48 [(0, 8, Config.serial.toNat + 1), (9, 1, 1), (10, 2, 1)]
def discovering (x : RingDisc) : State := { ready with net := { disc := 1, round := 1, rings := [(0, x)] } }

theorem wit_Discovery :
    ready.net.disc ≠ 1 ∧ (discovering { mine := true }).net.disc = 1 ∧
    ((discovering { mine := true }).net.ring 0).mine = true ∧ ((discovering { done := true }).net.ring 0).done = true ∧
    (discovering {}).ringUp 0 = false ∧
    ({ ready with net := { disc := 1, ports := [(0, { state := 2 }), (3, { state := 2 })] } } : State).ringUp 0 = true ∧
    ({ ready with net := { disc := 1, ports := [(0, { state := 3 }), (3, { state := 3 })] } } : State).ringAlone 0 = true ∧
    (discovering {}).ringAlone 0 = false ∧
    rollOk 0 (params 48 [(0, 8, 5), (9, 1, 1), (10, 2, 1)]) = true ∧ rollOk 1 (params 48 [(0, 8, 5), (9, 1, 1), (10, 2, 1)]) = false ∧
    rollRound (params 48 [(9, 1, 1)]) = 1 ∧ rollCount (params 48 [(10, 2, 1)]) = 1 ∧ ({} : State).ready = false ∧
    rollOk 0 (params 2064 [(9, 1, 1), (10, 2, 64)]) = true ∧ rollCount (params 2064 [(10, 2, 64)]) = 64 ∧
    (let s := { discovering {} with net := { (discovering {}).net with round := 2 } }
     s.net.disc = 1 ∧ rollRound (params 48 [(9, 1, 1)]) < s.net.round) := by decide +kernel

/-- A roll's origin takes every value, this device's serial and others. -/
theorem wit_Discovery_origin (x : BitVec 64) : rollOrigin (leBytes 8 x.toNat) = x.toNat := by
  have := x.isLt
  simp [rollOrigin, fieldAt, leBytes, leNat]
  omega

/-- So does a record: this device's own, and others. -/
theorem wit_Discovery_record (x : BitVec 64) : rSerial (leBytes 8 x.toNat) = x.toNat := by
  have := x.isLt
  simp [rSerial, fieldAt, leBytes, leNat]
  omega

/-! ### Witnesses: the stated rules -/

theorem wit_NumberEncodings : fld 0x7F800000 fp32.mbits fp32.ebits = 2 ^ fp32.ebits - 1 ∧ fld 0x7F800000 0 fp32.mbits = 0 ∧
    fld 0x7F800001 0 fp32.mbits ≠ 0 ∧ fld 0x7F7FFFFF fp32.mbits fp32.ebits ≠ 2 ^ fp32.ebits - 1 := by decide

theorem wit_FrameStartCompare :
    ((portUp 0).port 0).state = 2 ∧ ((0xFFFF : BitVec 16) - BitVec.ofNat 16 ({} : State).frameNo = 0xFFFF) ∧
    ((1 : BitVec 16) - BitVec.ofNat 16 ({} : State).frameNo = 1) ∧ ((2 : BitVec 16) - BitVec.ofNat 16 ({} : State).frameNo = 2) ∧
    (let s := portUp 0 { id := 1, idValid := true }
     (rawPkt 0x30 0).hdrBad = false ∧ (rawPkt 0x30 0).crcBad = false ∧ (rawParse (rawPkt 0x30 0)).dst = s.net.id ∧ s.net.id ≠ 0xFFF) := by
  decide +kernel

theorem wit_TakenBranches :
    (let w := word 2 1
     let s := front [w, 0] { loops := [{ first := 0, last := 0, left := 1, iter := 0, xs := none }] }
     Issues s site0 w 2 ∧ (0 : Int) ≤ ((s.at site0).pc : Int) + signed 24 (fld w.toNat 0 24) ∧
      (((s.at site0).pc : Int) + signed 24 (fld w.toNat 0 24)).toNat < (s.at site0).program.length) ∧
    (Issues (front [word 2 1]) site0 (word 2 1) 2 ∧ ¬ 1 < ((front [word 2 1]).at site0).program.length) :=
  ⟨⟨issues_of (by decide), by decide⟩, issues_of (by decide), by decide⟩

theorem wit_ReliableReceiver_accepts :
    heldPkt.pkt.rel = true ∧ ready.net.rxFill + heldPkt.pkt.size ≤ bufferBytes ∧
      heldPkt.pkt.seq = (ready.rcvOf 2 false false 0 true).expected heldPkt.pkt := ⟨rfl, by decide +kernel, by decide +kernel⟩

/-- Sequence numbers next to 0 and at the boundary of R318's halves. -/
theorem wit_ReliableReceiver_halves :
    (∀ q ∈ [(1 : BitVec 16), 0x7FFF], 0 < (q - 0).toNat ∧ (q - 0).toNat < 32768) ∧
    (∀ q ∈ [(0x8000 : BitVec 16), 0xFFFF], 32768 ≤ (q - 0).toNat) := by simp

theorem wit_PartitionAddresses :
    let p : Part := { exists_ := true, clusters := [0, 3], salt := 0x1234, local_ := 8 }
    p.clusters ≠ [] ∧ p.clusters.Nodup ∧ p.localBytes ≤ chanBytes ∧ p.localBytes % 256 = 0 ∧ 0 < p.nch * p.spreadCh ∧
      0 < p.limit := by decide +kernel

/-! ### Ill-formed commands, one per check of WellFormed.lean -/

theorem test_wf_opcode : (Instr.sAdd site0 (word 0x10 0)).wf = true ∧ (Instr.sAdd site0 (word 0x11 0)).wf = false := by decide
theorem test_wf_length : (Instr.identify .spur {} (List.replicate 3 0)).wf = true ∧ (Instr.roll 0 []).wf = true := by decide
theorem test_wf_payload (b : Bytes) (h : b.length = 65536) : (Instr.roll 0 b).wf = false ∧ (Instr.identify .spur {} b).wf = false := by
  simp [Instr.wf, payloadFits, lengthFits, h]
theorem test_wf_vc : (Instr.ack 0 1 15 0).wf = true ∧ (Instr.ack 0 1 16 0).wf = false := by decide
theorem test_wf_event : eventOk { line := 2 ^ 32 - 1, err := .retries 4 } = true ∧
    eventOk { line := 2 ^ 32, err := .corrected } = false ∧ eventOk { line := 0, err := .retries 5 } = false ∧
    eventOk { line := 0, err := .uncorrectable [] } = false := by decide
theorem test_wf_raw : (Instr.longPacketReceive 0 { dt := 63, vc := 15, wc := 65535, bytes := [] }).wf = true ∧
    (Instr.longPacketReceive 0 { dt := 64, vc := 0, wc := 0, bytes := [] }).wf = false ∧
    (Instr.longPacketReceive 0 { dt := 0, vc := 16, wc := 0, bytes := [] }).wf = false ∧
    (Instr.longPacketReceive 0 { dt := 0, vc := 0, wc := 65536, bytes := [] }).wf = false := by decide
theorem test_wf_spot : (Instr.sramEccError (.cacheLine (2 ^ 39 - 2 ^ 31 + 0x47FFFFFF))).wf = true ∧
    (Instr.sramEccError (.cacheLine (2 ^ 39))).wf = false ∧ (Instr.sramEccError (.cacheLine 0x48000000)).wf = false := by decide
theorem test_wf_overrun : (Instr.unitTimeout (.mill 0)).wf = true ∧ (Instr.unitTimeout (.core 0)).wf = false := by decide

/-! ### The spec's worked examples -/

/-- The example of R91: A = 0x1_2345_6780 of a partition that owns clusters 4 and 5 with L = 4 and salt 0x5A3C. -/
theorem test_partition_address :
    ({ exists_ := true, clusters := [4, 5], local_ := 4, salt := 0x5A3C } : Part).phys 0x123456780 = 0x1212345680 := by decide +kernel

/-- Tables 3.7 and its block scale (R51): 21/64 and -3/64 as MXFP4, to nearest even, toward zero, and stochastically
with fields next to the limits. -/
theorem test_mx_block :
    let a : Machine.Num := .fin false 21 (-6)
    let b : Machine.Num := .fin true 3 (-6)
    mxBlock 9 none [(a, .rne), (b, .rne)] = (0x7B, [0x7, 0xA]) ∧ mxBlock 9 none [(a, .rtz), (b, .rtz)] = (0x7B, [0x6, 0x9]) ∧
    mxBlock 9 none [(a, .sr 24576), (b, .sr 32768)] = (0x7B, [0x7, 0xA]) ∧
    mxBlock 9 none [(a, .sr 24575), (b, .sr 32767)] = (0x7B, [0x6, 0x9]) := by decide +kernel

/-- The example of R256: the fields of one draw. -/
theorem test_draw_fields :
    ((List.range 8).map (fieldOf [0x0123456789ABCDEF] 8)) = [0xCDEF, 0xABCD, 0x89AB, 0x6789, 0x4567, 0x2345, 0x0123, 0xEF01] ∧
    ((List.range 4).map (fieldOf [0x0123456789ABCDEF] 4)) = [0xCDEF, 0x89AB, 0x4567, 0x0123] ∧
    ((List.range 2).map (fieldOf [0x0123456789ABCDEF] 2)) = [0xCDEF, 0x4567] := by decide +kernel

/-- Table 9.3: the order of six candidates at ROT 0x100, and the later tie at ROT 0x032. -/
theorem test_candidate_order :
    let x (i : Nat) (h : Word) : DEntry := { dentry0 with stream := i, headroom := h }
    let order (rot : Nat) (l : List DEntry) : List Nat := (l.foldl (fun l x => candInsert rot x l) []).map DEntry.stream
    order 0x100 [x 0x031 1200, x 0x0A0 0xFFFFFFFF, x 0x1F0 1200, x 0x2A7 2594, x 0x3C4 1200, x 0x500 8] =
      [0x500, 0x1F0, 0x3C4, 0x031, 0x2A7, 0x0A0] ∧
    order 0x032 [x 0x031 1200, x 0x1F0 1200, x 0x3C4 1200] = [0x1F0, 0x3C4, 0x031] := by decide +kernel

/-- The example of R277: weights 6, 2 and 0; D_A = 300, D_B = 0 and B has borrowed 1,700 at the boundary. -/
def sharing : State :=
  let c (w : Nat) : Ctx := { ctx0 with weight := w, borrow := 2048 }
  { ctxs := [(0, some (c 6)), (1, some (c 2)), (2, some (c 0))],
    cores := [(0, { shares := [(0, { ctx := some 0, live := true, deficit := 300 }),
                               (1, { ctx := some 1, live := true, debt := 1700, borrowed := 1700 }),
                               (2, { ctx := some 2, live := true })] })] }
theorem test_window_boundary :
    (match exec (.windowBoundary 0) sharing with
      | .next t => [(t.share 0 0).quota, (t.share 0 1).quota, (t.share 0 2).quota] == [12288, 4096, 0] &&
          [(t.share 0 0).deficit, (t.share 0 1).deficit] == [12588, 2396] && (t.share 0 1).debt == 0
      | _ => false) = true := by decide +kernel

/-- The example of R334: an 8 x 8 torus at 18 Gbps has Q = 31,616. -/
theorem test_device_quota :
    let rec_ := leBytes 24 0 ++ leBytes 2 18000 ++ leBytes 2 18000 ++ leBytes 4 0
    ({ net := { rings := [(0, { call := [rec_] }), (1, { call := [rec_] })] } } : State).computeQuota 8 8 = 31616 := by
  decide +kernel

/-! ### Steps -/

/-- s.add wraps at 32 bits and writes s1. -/
theorem test_s_add :
    (match exec (.sAdd site0 (word 0x10 0)) (front [word 0x10 0] { s := [(0, 0x80000001)] }) with
      | .next t => (t.at site0).s == [(0, 2)] && (t.at site0).pc == 1
      | _ => false) = true := by decide +kernel

/-- A command at the front of the queue runs and leaves the rest. -/
theorem test_step_queue :
    (match step { pending := [.registerWrite .i3c 0x20 1, .fChange], regs := [(0x20, 3)] } with
      | .next t => t.pending == [.fChange] && t.reg 0x20 == 2
      | _ => false) = true := by decide +kernel

/-- A step on an empty queue idles. -/
theorem test_step_idle : step State.reset = .next State.reset := rfl

end Sys2Proof.Tests
end

section
/-! PROOFS. Registers at reset and register accesses (R5 to R9, R40, R205, R300, R325): what a read returns and does and
what a write does, one rule per kind of register, and from these rules the statements ResetState and RegisterAccess. -/

namespace Sys2Proof.Machine

/-! ### The commands that read and write registers -/

theorem exec_registerWrite (via : Via) (a : BitVec 24) (v : Word) (s : State) :
    exec (.registerWrite via a v) s = .next (s.accessWrite via a.toNat v) := rfl

theorem exec_readClear (via : Via) (a : BitVec 24) (s : State) :
    exec (.readClear via a) s = .next (s.accessRead via a.toNat) := rfl

theorem exec_latchedPairRead (via : Via) (a : BitVec 24) (s : State) :
    exec (.latchedPairRead via a) s = .next (s.accessRead via a.toNat) := rfl

theorem exec_ldgSelWrite (via : Via) (v : Word) (s : State) :
    exec (.ldgSelWrite via v) s = .next (s.accessWrite via 0x090004 v) := rfl

theorem exec_txRateWrite (via : Via) (p : Fin 6) (v : Word) (s : State) :
    exec (.txRateWrite via p v) s = .next (s.accessWrite via (lnkReg p.val 8) v) := rfl

theorem exec_pop (v : Word) (s : State) : exec (.pop v) s = .next (s.accessWrite .i3c 0x040104 v) := rfl

/-! ### Values of registers -/

/-- The high half of a 64-bit or 48-bit value, as a latch keeps it. -/
theorem ofNat_toNat_div_eq_truncate {w : Nat} (x : BitVec w) :
    BitVec.ofNat 32 (x.toNat / 2 ^ 32) = (x >>> 32).truncate 32 := by
  apply BitVec.eq_of_toNat_eq
  simp [Nat.shiftRight_eq_div_pow]

/-- A register that is no half of a pair reads as its block's map says. -/
theorem regValue_eq_plainReg {s : State} {acc a : Nat} (aligned : a % 4 = 0) (serial : a ≠ 0x050014)
    (lo : s.pairValue acc a = none) (hi : s.pairValue acc (a - 4) = none) :
    s.regValue acc a = (s.plainReg acc a).map (BitVec.ofNat 32) := by
  simp [State.regValue, aligned, serial, lo, hi]

/-- LNK has its pairs at RX_BYTES alone (Table 16.10). -/
theorem pairValue_port (s : State) (acc : Nat) {p r : Nat} (hp : p < 6) (hr : r < 256) (ne : r ≠ 0x0C) :
    s.pairValue acc (lnkReg p r) = none := by
  have block : lnkReg p r / 65536 = 3 := by unfold lnkReg; omega
  have offset : lnkReg p r % 65536 = 256 * p + r := by unfold lnkReg; omega
  have low : 256 * p + r < 0x600 := by omega
  have place : r % 256 ≠ 0x0C := by omega
  simp [State.pairValue, block, offset, low, place, okIf]

theorem regValue_txRate (s : State) (acc : Nat) {p : Nat} (hp : p < 6) :
    s.regValue acc (lnkReg p 8) = some (BitVec.ofNat 32 (if p < 3 then 0 else (s.port p).rate)) := by
  have block : lnkReg p 8 / 65536 = 3 := by unfold lnkReg; omega
  have offset : lnkReg p 8 % 65536 = 256 * p + 8 := by unfold lnkReg; omega
  have low : 256 * p + 8 < 0x600 := by omega
  have port : (256 * p + 8) / 256 = p := by omega
  have place : (256 * p + 8) % 256 = 8 := by omega
  have before : lnkReg p 8 - 4 = lnkReg p 4 := by unfold lnkReg; omega
  rw [regValue_eq_plainReg (by unfold lnkReg; omega) (by unfold lnkReg; omega)
    (pairValue_port s acc hp (by decide) (by decide)) (before ▸ pairValue_port s acc hp (by decide) (by decide))]
  simp [State.plainReg, block, offset, State.lnkVal, low, port, place, State.portReg]

/-- PWR has its pairs at ENERGY alone, below offset 0x40 (Table 21.6). -/
theorem pairValue_power (s : State) (acc : Nat) {o : Nat} (h : 0x40 ≤ o) (ho : o < 65536) :
    s.pairValue acc (pwrBase + o) = none := by
  have block : (pwrBase + o) / 65536 = 6 := by unfold pwrBase; omega
  have offset : (pwrBase + o) % 65536 = o := by unfold pwrBase; omega
  have high : ¬ o < 0x40 := by omega
  simp [State.pairValue, block, offset, high, okIf]

/-! ### Writes -/

theorem accessWrite_of_unassigned {s : State} {via : Via} {a : Nat} (v : Word)
    (h : s.regValue (accOf via) a = none) : s.accessWrite via a v = s := by
  simp [State.accessWrite, h]

theorem accessWrite_of_denied {s : State} {via : Via} {a : Nat} {v : Word} (h : s.mayWrite via a v = false) :
    s.accessWrite via a v = s := by
  simp [State.accessWrite, h]

theorem accessWrite_of_allowed {s : State} {via : Via} {a : Nat} {v : Word}
    (assigned : (s.regValue (accOf via) a).isSome = true) (may : s.mayWrite via a v = true) :
    s.accessWrite via a v = s.writeReg (accOf via) a v := by
  simp [State.accessWrite, assigned, may]

/-- A register without W1C bits whose write does not act is read-only (R9). -/
theorem writeReg_readOnly (s : State) (acc : Nat) (v : Word) {a : Nat} (mask : w1cMask a = 0) (sel : a ≠ 0x090004)
    (rate : ¬ (0x030000 ≤ a ∧ a < 0x030600 ∧ a % 256 = 8)) (pop : a ≠ 0x040104) : s.writeReg acc a v = s := by
  simp [State.writeReg, ldgBase, i3cBase, sel, rate, pop, mask]

theorem w1cMask_txRate {a : Nat} (h : 0x030000 ≤ a ∧ a < 0x030600 ∧ a % 256 = 8) : w1cMask a = 0 := by
  have block : a / 65536 = 3 := by omega
  have place : ¬ (a % 65536 < 0x600 ∧ a % 65536 % 256 = 0x2C) := by omega
  simp only [w1cMask, block, if_neg place]

/-- No register that acts on a write holds W1C bits, so a register that holds some clears them. -/
theorem writeReg_w1c (s : State) (acc : Nat) (v : Word) {a : Nat} (mask : w1cMask a ≠ 0) :
    s.writeReg acc a v = s.setReg a (s.reg a &&& ~~~(v &&& BitVec.ofNat 32 (w1cMask a))) := by
  have sel : a ≠ 0x090004 := by rintro rfl; exact mask rfl
  have rate : ¬ (0x030000 ≤ a ∧ a < 0x030600 ∧ a % 256 = 8) := fun h => mask (w1cMask_txRate h)
  have pop : a ≠ 0x040104 := by rintro rfl; exact mask rfl
  simp [State.writeReg, ldgBase, i3cBase, sel, rate, pop, mask]

theorem writeReg_ldgSel (s : State) (acc : Nat) (v : Word) :
    s.writeReg acc 0x090004 v = s.select acc (v.toNat % 4096) := rfl

theorem writeReg_txRate (s : State) (acc : Nat) (v : Word) {p : Nat} (hp : p < 6) :
    s.writeReg acc (lnkReg p 8) v = s.writeTxRate p (v.toNat % 16) := by
  have sel : lnkReg p 8 ≠ ldgBase + 4 := by unfold lnkReg ldgBase; omega
  have rate : 0x030000 ≤ lnkReg p 8 ∧ lnkReg p 8 < 0x030600 ∧ lnkReg p 8 % 256 = 8 := by unfold lnkReg; omega
  have port : (lnkReg p 8 - 0x030000) / 256 = p := by unfold lnkReg; omega
  rw [State.writeReg, if_neg sel, if_pos rate, port]

theorem bitOf_toNat {w : Nat} (x : BitVec w) (i : Nat) : bitOf x.toNat i = x.getLsbD i := by
  simp [bitOf, BitVec.getLsbD, Nat.testBit, Nat.shiftRight_eq_div_pow, Nat.and_comm 1, Nat.and_one_is_mod]

theorem writeReg_cplStat (s : State) (acc : Nat) (v : Word) :
    s.writeReg acc 0x040104 v = if v.getLsbD 31 then s.popCpl else s := by
  rw [← bitOf_toNat]; rfl

/-- Selecting entry v mod 4096 latches the low 12 bits of v as LDG.SEL. -/
theorem select_word (s : State) (acc : Nat) (v : Word) :
    s.select acc (v.toNat % 4096) = { s with snaps := (Tbl.set {} s.snaps acc
      ({ sel := v.truncate 12,
         entry := (s.entry (v.toNat % 4096)).toBytes (v.toNat % 4096) (s.headroomShown (s.entry (v.toNat % 4096))),
         time := s.tb.count } : Snap)) } := by
  have sel : BitVec.ofNat 12 (v.toNat % 4096) = v.truncate 12 := by
    apply BitVec.eq_of_toNat_eq
    simp
  rw [State.select, sel]

/-- A command of partition p may write LDG.SEL just when it selects an entry of p (R205). -/
theorem mayWrite_ldgSel (s : State) (p : Fin 16) (dev : Bool) (v : Word) :
    s.mayWrite (.cmd p dev) 0x090004 v = (s.entry (v.toNat % 4096)).belongs p.val := by
  simp [State.mayWrite, State.foreignCluster, deviceBlock, ldgBase]

/-! ### A port that leaves UP keeps its rate -/

@[simp] theorem port_modPort_self (s : State) (p : Nat) (f : Port → Port) : (s.modPort p f).port p = f (s.port p) :=
  Tbl.get_set_self _ _ _ _

theorem ports_leaveRx (s : State) (o : OutPkt) : (s.leaveRx o).net.ports = s.net.ports := by
  unfold State.leaveRx
  split <;> rfl

theorem ports_each_leaveRx (s : State) (l : List OutPkt) : (s.each l State.leaveRx).net.ports = s.net.ports := by
  induction l generalizing s with
  | nil => rfl
  | cons o l ih => exact (ih (s.leaveRx o)).trans (ports_leaveRx s o)

theorem port_closeSpur (s : State) (p : Nat) : s.closeSpur.port p = s.port p := by
  have ports : s.closeSpur.net.ports = s.net.ports := by
    simp only [State.closeSpur, net_bump]
    exact ports_each_leaveRx s _
  rw [State.port, State.port, ports]

@[simp] theorem port_setBits (s : State) (a m p : Nat) : (s.setBits a m).port p = s.port p := rfl

/-- The test under which a port that leaves UP closes the spur does not matter to the ports. -/
@[simp] theorem port_ite_closeSpur (c : Prop) [Decidable c] (s : State) (p : Nat) :
    (if c then s.closeSpur else s).port p = s.port p := by
  split
  · exact port_closeSpur s p
  · rfl

theorem port_startDiscovery (s : State) (p : Nat) : s.startDiscovery.port p = s.port p := by
  unfold State.startDiscovery
  split <;> rfl

theorem port_setWhole (s : State) (ring : Nat) (v : Bool) (p : Nat) : (s.setWhole ring v).port p = s.port p := by
  unfold State.setWhole
  by_cases x : ring = 0
  · simp only [x, if_true]
    split <;> rfl
  · simp only [x, if_false]
    split <;> rfl

/-- A port that takes state st keeps everything else it holds. -/
theorem port_portLeaves_self (s : State) (p st : Nat) : (s.portLeaves p st).port p = { s.port p with state := st } := by
  by_cases up : (s.port p).state = 2
  · cases ring : ringPort p
    · simp [State.portLeaves, up, ring]
    · simp [State.portLeaves, up, ring, port_startDiscovery, port_setWhole]
  · simp [State.portLeaves, up]

theorem writeTxRate_ignored {s : State} {p v : Nat} (h : p < 3 ∨ s.maxRate p < v % 16) : s.writeTxRate p v = s :=
  if_pos h

theorem port_writeTxRate {s : State} {p v : Nat} (h : ¬ (p < 3 ∨ s.maxRate p < v % 16)) :
    (s.writeTxRate p v).port p = { s.port p with rate := v % 16, state := 1 } := by
  rw [State.writeTxRate, if_neg h, port_portLeaves_self, port_modPort_self]

/-! ### Reads -/

theorem accessRead_of_unassigned {s : State} {via : Via} {a : Nat} (h : s.regValue (accOf via) a = none) :
    s.accessRead via a = { s with rdata := 0 } := by
  simp [State.accessRead, State.readReg, h]

theorem accessRead_of_allowed {s : State} {via : Via} {a : Nat} {v : Word} (value : s.regValue (accOf via) a = some v)
    (may : s.mayRead via a = true) : s.accessRead via a = { s.afterRead (accOf via) a with rdata := v } := by
  simp [State.accessRead, State.readReg, value, may]

/-- Every path may read the registers outside the clusters' blocks. -/
theorem mayRead_of_lt (s : State) (via : Via) {a : Nat} (h : a < 0x100000) : s.mayRead via a = true := by
  have outside : ¬ 0x100000 ≤ a := by omega
  cases via <;> simp [State.mayRead, State.foreignCluster, outside]

/-- What a read does apart from the advance of a counter of time: the low half of a pair latches the high half, else RC
bits clear. `afterRead_untimed` and `afterRead_timed` tie it to the model. -/
def State.latchOrClear (s : State) (acc a : Nat) : State :=
  match s.pairValue acc a with
  | some v => { s with latch := Tbl.set 0 s.latch (latchKey acc a) (BitVec.ofNat 32 (v / 2 ^ 32)) }
  | none => if rcMask a = 0 then s else s.setReg a (s.reg a &&& ~~~(BitVec.ofNat 32 (rcMask a)))

section
variable {s : State} {acc a : Nat}

theorem latchOrClear_pair {n : Nat} (pair : s.pairValue acc a = some n) : s.latchOrClear acc a =
    { s with latch := Tbl.set 0 s.latch (latchKey acc a) (BitVec.ofNat 32 (n / 2 ^ 32)) } := by
  simp [State.latchOrClear, pair]

theorem latchOrClear_plain (pair : s.pairValue acc a = none) (mask : rcMask a = 0) : s.latchOrClear acc a = s := by
  simp [State.latchOrClear, pair, mask]

theorem latchOrClear_readClear (pair : s.pairValue acc a = none) (mask : rcMask a ≠ 0) :
    s.latchOrClear acc a = s.setReg a (s.reg a &&& ~~~(BitVec.ofNat 32 (rcMask a))) := by
  simp [State.latchOrClear, pair, mask]

theorem latchOrClear_frame (s : State) (acc a : Nat) : s.latchOrClear acc a =
    { s with latch := (s.latchOrClear acc a).latch, regs := (s.latchOrClear acc a).regs } := by
  cases pair : s.pairValue acc a with
  | some n => rw [latchOrClear_pair pair]
  | none =>
    by_cases mask : rcMask a = 0
    · rw [latchOrClear_plain pair mask]
    · rw [latchOrClear_readClear pair mask]; rfl

theorem regs_latchOrClear (s : State) (acc : Nat) (mask : rcMask a = 0) : (s.latchOrClear acc a).regs = s.regs := by
  cases pair : s.pairValue acc a with
  | some n => rw [latchOrClear_pair pair]
  | none => rw [latchOrClear_plain pair mask]

theorem afterRead_untimed (s : State) (acc : Nat) (timed : timedReg a = false) :
    s.afterRead acc a = s.latchOrClear acc a := by
  rw [State.afterRead, timed]
  rfl

theorem afterRead_timed (s : State) (acc : Nat) (timed : timedReg a = true) : s.afterRead acc a =
    { s.latchOrClear acc a with
      free := s.free + 1,
      wide := if timedWide a then Tbl.set 0 s.wide a (BitVec.ofNat 64 (s.timedValue a)) else s.wide } := by
  have free : (s.latchOrClear acc a).free = s.free := by rw [latchOrClear_frame]
  have table : (s.latchOrClear acc a).wide = s.wide := by rw [latchOrClear_frame]
  cases wide : timedWide a with
  | true =>
    rw [← free, ← table, State.afterRead, timed, wide]
    rfl
  | false =>
    rw [← free, ← table, State.afterRead, timed, wide]
    rfl

end

/-- The counters of time stand in PWR and in the clusters' blocks. -/
theorem cluster_of_timedReg {a : Nat} (h : timedReg a = true) (power : a / 65536 ≠ 6) : 16 ≤ a / 65536 := by
  simp [timedReg] at h
  omega

/-- No 64-bit counter of time has RC bits (R9). -/
theorem rcMask_of_timedWide {a : Nat} (h : timedWide a = true) : rcMask a = 0 := by
  by_cases power : a / 65536 = 6
  · simp [timedWide, timedReg, rcMask, power] at h ⊢
    omega
  · have timed : timedReg a = true := (Bool.and_eq_true_iff.mp h).1
    obtain ⟨n, block⟩ := Nat.exists_eq_add_of_le' (cluster_of_timedReg timed power)
    simp [timedWide, timedReg, rcMask, block] at h ⊢
    omega

/-! ### PWR.CLU_THROTTLED -/

theorem timedReg_cluThrottled (n : Fin 32) : timedReg (cluThrottled n.val) = true := by
  revert n; decide

theorem timedWide_cluThrottled (n : Fin 32) : timedWide (cluThrottled n.val) = false := by
  revert n; decide

theorem rcMask_cluThrottled (n : Fin 32) : rcMask (cluThrottled n.val) = 0xFFFFFFFF := by
  revert n; decide

theorem pairValue_cluThrottled (s : State) (acc : Nat) (n : Fin 32) : s.pairValue acc (cluThrottled n.val) = none := by
  have place : cluThrottled n.val = pwrBase + (0x108 + 0x10 * n.val) := by unfold cluThrottled pwrBase; omega
  rw [place]
  exact pairValue_power s acc (by omega) (by omega)

/-- The counter of a cluster that does not throttle stands still. -/
theorem timedValue_cluThrottled {s : State} {n : Fin 32} (still : (s.clu n.val).throttle = 0) :
    s.timedValue (cluThrottled n.val) = (s.reg (cluThrottled n.val)).toNat := by
  have block : cluThrottled n.val / 65536 = 6 := by unfold cluThrottled; omega
  have offset : cluThrottled n.val % 65536 = 0x108 + 16 * n.val := by unfold cluThrottled; omega
  have kind : (0x108 + 16 * n.val) % 16 = 8 := by omega
  have cluster : (0x108 + 16 * n.val - 0x100) / 16 = n.val := by omega
  have stands : s.counts (cluThrottled n.val) = false := by
    have low : 0x100 ≤ 0x108 + 16 * n.val := by omega
    simp [State.counts, block, offset, kind, cluster, still, low]
  have bound := (s.reg (cluThrottled n.val)).isLt
  simp only [State.timedValue, stands, timedWide_cluThrottled, Bool.false_eq_true, if_false]
  omega

theorem regValue_cluThrottled (s : State) (acc : Nat) (n : Fin 32) :
    s.regValue acc (cluThrottled n.val) = some (BitVec.ofNat 32 (s.timedValue (cluThrottled n.val))) := by
  have before : cluThrottled n.val - 4 = pwrBase + (0x104 + 0x10 * n.val) := by unfold cluThrottled pwrBase; omega
  have block : cluThrottled n.val / 65536 = 6 := by unfold cluThrottled; omega
  have offset : cluThrottled n.val % 65536 = 0x108 + 16 * n.val := by unfold cluThrottled; omega
  have place : pwrBase + (0x108 + 16 * n.val) = cluThrottled n.val := by unfold cluThrottled pwrBase; omega
  have first : 0x108 + 16 * n.val ≠ 4 ∧ 0x108 + 16 * n.val ≠ 8 ∧ 0x100 ≤ 0x108 + 16 * n.val := by omega
  have last : 0x108 + 16 * n.val < 0x300 := by omega
  have kind : (0x108 + 16 * n.val) % 16 = 8 := by omega
  rw [regValue_eq_plainReg (by unfold cluThrottled; omega) (by unfold cluThrottled; omega)
    (pairValue_cluThrottled s acc n) (before ▸ pairValue_power s acc (by omega) (by omega))]
  simp [State.plainReg, block, offset, State.pwrReg, first, last, kind, place]

/-! ### The pair TB.TIME -/

theorem accessRead_timeLow (s : State) (via : Via) :
    s.accessRead via 0x010000 =
      { s with rdata := s.tb.count.truncate 32,
               latch := Tbl.set 0 s.latch 0x010004 ((s.tb.count >>> 32).truncate 32) } := by
  have value : s.regValue (accOf via) 0x010000 = some (s.tb.count.truncate 32) := rfl
  have pair : s.pairValue (accOf via) 0x010000 = some s.tb.count.toNat := rfl
  rw [accessRead_of_allowed value (mayRead_of_lt s via (by decide)), afterRead_untimed s _ rfl,
    latchOrClear_pair pair, ofNat_toNat_div_eq_truncate]
  rfl

theorem accessRead_timeHigh (s : State) (via : Via) :
    s.accessRead via 0x010004 = { s with rdata := Tbl.get 0 s.latch 0x010004 } := by
  have value : s.regValue (accOf via) 0x010004 = some (Tbl.get 0 s.latch 0x010004) := by
    have latched : s.regValue (accOf via) 0x010004 = some (BitVec.ofNat 32 (Tbl.get 0 s.latch 0x010004).toNat) := rfl
    rw [latched, BitVec.ofNat_toNat, BitVec.setWidth_eq]
  rw [accessRead_of_allowed value (mayRead_of_lt s via (by decide)), afterRead_untimed s _ rfl,
    latchOrClear_plain rfl rfl]

/-! ### The machine at reset -/

theorem reset_inv : State.reset.Inv where
  mem := rfl
  cores := rfl
  clusters := rfl
  chans := rfl
  sync := rfl
  entries := rfl
  ropes := rfl
  parts := rfl
  images := rfl
  ctxs := rfl
  outs := rfl
  ains := rfl
  achans := rfl
  groups := rfl
  shares := fun _ => rfl

theorem regValue_serialHigh (s : State) (acc : Nat) :
    s.regValue acc 0x050014 = some ((Config.serial >>> 32).truncate 32) := by
  rw [← ofNat_toNat_div_eq_truncate]
  rfl

theorem resetRegisters : Claims.ResetRegisters := by
  intro acc
  exact ⟨rfl, rfl, rfl, rfl, rfl, rfl, rfl, rfl, rfl, rfl, rfl, rfl, rfl, rfl, rfl, rfl,
    regValue_serialHigh State.reset acc, rfl, rfl, rfl, rfl⟩

/-- Settles O4: the registers are evaluated (the fused serial's upper word stays symbolic), and the invariant holds
because every table is empty. -/
theorem resetState : Obligations.ResetState := ⟨resetRegisters, reset_inv⟩

/-! ### The claims of RegisterAccess -/

theorem registerWrites : Claims.RegisterWrites := by
  refine ⟨?unassigned, ?denied, ?readOnly, ?w1c, ?selI3c, ?selCommand, ?rate, ?pop⟩
  case unassigned =>
    intro via a v s h
    rw [exec_registerWrite, accessWrite_of_unassigned v h]
  case denied =>
    intro via a v s h
    rw [exec_registerWrite, accessWrite_of_denied h]
  case readOnly =>
    intro via a v s mask sel rate pop
    rw [exec_registerWrite, State.accessWrite, writeReg_readOnly s (accOf via) v mask sel rate pop, ite_self]
  case w1c =>
    intro via a v s mask assigned may
    rw [exec_registerWrite, accessWrite_of_allowed assigned may, writeReg_w1c s (accOf via) v mask]
  case selI3c =>
    intro v s
    rw [exec_ldgSelWrite, accessWrite_of_allowed rfl rfl, writeReg_ldgSel, select_word]
    rfl
  case selCommand =>
    intro p dev v s
    split
    case isTrue own =>
      have may := (mayWrite_ldgSel s p dev v).trans own
      rw [exec_ldgSelWrite, accessWrite_of_allowed rfl may, writeReg_ldgSel, select_word]
      rfl
    case isFalse other =>
      have denied := (mayWrite_ldgSel s p dev v).trans (eq_false_of_ne_true other)
      rw [exec_ldgSelWrite, accessWrite_of_denied denied]
  case rate =>
    intro p v s
    have write : exec (.txRateWrite .i3c p v) s = .next (s.writeTxRate p.val (v.toNat % 16)) := by
      have assigned : (s.regValue (accOf .i3c) (lnkReg p.val 8)).isSome = true := by
        rw [regValue_txRate s _ p.isLt]
        rfl
      rw [exec_txRateWrite, accessWrite_of_allowed assigned rfl, writeReg_txRate s _ v p.isLt]
    have narrow : v.toNat % 16 % 16 = v.toNat % 16 := Nat.mod_mod _ _
    rw [write]
    split
    case isTrue ignored => rw [writeTxRate_ignored (by rwa [narrow])]
    case isFalse taken =>
      refine ⟨_, rfl, ?_⟩
      rw [port_writeTxRate (by rwa [narrow]), narrow]
      exact ⟨rfl, rfl⟩
  case pop =>
    intro v s
    rw [exec_pop, accessWrite_of_allowed rfl rfl, writeReg_cplStat]
    rfl

theorem registerReads : Claims.RegisterReads := by
  refine ⟨?unassigned, ?plain, ?readClear, ?timed, ?throttled, ?low, ?high, ?pair⟩
  case unassigned =>
    intro via a s h
    rw [exec_readClear, accessRead_of_unassigned h]
  case plain =>
    intro via a s v value may pair mask timed
    rw [exec_readClear, accessRead_of_allowed value may, afterRead_untimed s _ timed, latchOrClear_plain pair mask]
  case readClear =>
    intro via a s v value may pair mask timed
    rw [exec_readClear, accessRead_of_allowed value may, afterRead_untimed s _ timed,
      latchOrClear_readClear pair mask]
  case timed =>
    intro via a s v value may timed
    rw [exec_readClear, accessRead_of_allowed value may, afterRead_timed s _ timed]
    refine ⟨_, rfl, rfl, rfl, ?wide, ?frame⟩
    case wide =>
      intro wide
      refine ⟨?_, regs_latchOrClear s _ (rcMask_of_timedWide wide)⟩
      simp [State.wide64, wide, Tbl.get_set_self]
    case frame => conv_lhs => rw [latchOrClear_frame]
  case throttled =>
    intro via n s still
    have address : (BitVec.ofNat 24 (cluThrottled n.val)).toNat = cluThrottled n.val :=
      Nat.mod_eq_of_lt (by unfold cluThrottled; omega)
    have mask := rcMask_cluThrottled n
    have low : cluThrottled n.val < 0x100000 := by unfold cluThrottled; omega
    rw [exec_readClear, address, accessRead_of_allowed (regValue_cluThrottled s _ n) (mayRead_of_lt s via low),
      afterRead_timed s _ (timedReg_cluThrottled n),
      latchOrClear_readClear (pairValue_cluThrottled s _ n) (by rw [mask]; decide)]
    refine ⟨_, rfl, ?value, ?cleared⟩
    case value =>
      show BitVec.ofNat 32 (s.timedValue (cluThrottled n.val)) = _
      rw [timedValue_cluThrottled still, BitVec.ofNat_toNat, BitVec.setWidth_eq]
    case cleared =>
      show (s.setReg _ _).reg _ = 0
      rw [reg_setReg_self, mask]
      exact BitVec.and_zero
  case low =>
    intro via s
    exact congrArg Host.Outcome.next (accessRead_timeLow s via)
  case high =>
    intro via s
    exact congrArg Host.Outcome.next (accessRead_timeHigh s via)
  case pair =>
    intro via s t u read kept
    have latched : t = _ := (Host.Outcome.next.inj read).symm.trans (accessRead_timeLow s via)
    have value : Tbl.get 0 u.latch 0x010004 = (s.tb.count >>> 32).truncate 32 := by
      rw [kept, latched]
      exact Tbl.get_set_self _ _ _ _
    rw [← value]
    exact congrArg Host.Outcome.next (accessRead_timeHigh u via)

/-- Settles O7: each kind of write and each kind of read follows from its own rule about accessWrite or accessRead. -/
theorem registerAccess : Obligations.RegisterAccess := ⟨registerWrites, registerReads⟩

end Sys2Proof.Machine
end

section
/-! PROOFS. Audio outputs (R19, R20, R287, R291 to R293, R298, R315): a read through the home caches changes neither memory
nor what an output holds, one rule for each way a channel or a slot supplies its sample, the bits of an AES3 subframe, and
from these rules the statement AudioOutputs. -/

namespace Sys2Proof.Machine

/-! ### What a read of memory leaves alone -/

/-- From s to t nothing changes but what a read through the home caches may: their directories, the channels' self-refresh,
and the counters (R94 to R100, R419, R420). -/
structure OnlyCaches (s t : State) : Prop where
  frame : t = { s with clusters := t.clusters, chans := t.chans, regs := t.regs, wide := t.wide, free := t.free }

theorem OnlyCaches.refl (s : State) : OnlyCaches s s := ⟨rfl⟩

theorem OnlyCaches.trans {s t u : State} (a : OnlyCaches s t) (b : OnlyCaches t u) : OnlyCaches s u := by
  have frame := b.frame
  rw [a.frame] at frame
  exact ⟨frame⟩

theorem OnlyCaches.mem {s t : State} (h : OnlyCaches s t) : t.mem = s.mem := by rw [h.frame]
theorem OnlyCaches.outs {s t : State} (h : OnlyCaches s t) : t.outs = s.outs := by rw [h.frame]
theorem OnlyCaches.groups {s t : State} (h : OnlyCaches s t) : t.groups = s.groups := by rw [h.frame]
theorem OnlyCaches.entry {s t : State} (h : OnlyCaches s t) (i : Nat) : t.entry i = s.entry i := by
  rw [h.frame]
  rfl

theorem onlyCaches_modClu (s : State) (n : Nat) (f : CluSt → CluSt) : OnlyCaches s (s.modClu n f) := ⟨rfl⟩
theorem onlyCaches_bumpWide (s : State) (a m : Nat) : OnlyCaches s (s.bumpWide a m) := ⟨rfl⟩
theorem onlyCaches_modChan (s : State) (ch : Nat) (f : ChanSt → ChanSt) : OnlyCaches s (s.modChan ch f) := ⟨rfl⟩
theorem onlyCaches_bump (s : State) (a lo n m : Nat) : OnlyCaches s (s.bump a lo n m) := ⟨rfl⟩
theorem onlyCaches_setBits (s : State) (a m : Nat) : OnlyCaches s (s.setBits a m) := ⟨rfl⟩
theorem onlyCaches_accrue (s : State) (a : Nat) : OnlyCaches s (s.accrue a) := ⟨rfl⟩

theorem onlyCaches_wakeCluster (s : State) (n : Nat) : OnlyCaches s (s.wakeCluster n) := by
  unfold State.wakeCluster
  split
  · exact ((onlyCaches_accrue s _).trans (onlyCaches_modClu _ _ _)).trans (onlyCaches_bump _ _ _ _ _)
  · exact .refl s

theorem onlyCaches_exitRefresh (s : State) (ch : Nat) : OnlyCaches s (s.exitRefresh ch) := by
  unfold State.exitRefresh
  split
  · exact (onlyCaches_modChan s ch _).trans (onlyCaches_bump _ _ _ _ _)
  · exact .refl s

theorem onlyCaches_logBad (s : State) (phys : Nat) : OnlyCaches s (s.logBad phys) := by
  simp only [State.logBad]
  refine (onlyCaches_bump s (chanReg (phys / 2 ^ 31) 0x918) 16 8 1).trans ?_
  split
  · exact .refl _
  · exact OnlyCaches.trans ⟨rfl⟩ (onlyCaches_setBits _ _ _)

theorem onlyCaches_hitLine (s : State) (ch line : Nat) (write : Bool) : OnlyCaches s (s.hitLine ch line write) := ⟨rfl⟩

/-- A channel leaves self-refresh for a transfer, which two counters count. -/
theorem onlyCaches_transfer (s : State) (ch a b : Nat) : OnlyCaches s (((s.exitRefresh ch).bumpWide a 1).bumpWide b 1) :=
  (onlyCaches_exitRefresh s ch).trans ((onlyCaches_bumpWide _ a 1).trans (onlyCaches_bumpWide _ b 1))

theorem onlyCaches_allocLine (s : State) (ch line : Nat) (dirty first : Bool) :
    OnlyCaches s (s.allocLine ch line dirty first) := by
  simp only [State.allocLine]
  split
  · exact .refl s
  · refine OnlyCaches.trans ?_ (onlyCaches_modClu _ _ _)
    split
    · exact .refl s
    · split
      · exact (onlyCaches_modClu s _ _).trans (onlyCaches_transfer _ _ _ _)
      · exact onlyCaches_modClu s _ _

theorem onlyCaches_readLine (s : State) (p : Part) (h : Hint) (A : Nat) : OnlyCaches s (s.readLine p h A).1 := by
  simp only [State.readLine]
  refine (onlyCaches_wakeCluster s ((p.place A).1 / 8)).trans ?_
  split
  · exact onlyCaches_hitLine _ _ _ _
  · refine (onlyCaches_transfer _ (p.place A).1 (cluBase ((p.place A).1 / 8) + 0x820) (chanReg (p.place A).1 0x900)).trans ?_
    split
    · exact onlyCaches_logBad _ _
    · cases h with
      | normal => exact onlyCaches_allocLine _ _ _ _ _
      | evictFirst => exact onlyCaches_allocLine _ _ _ _ _
      | noAllocate => exact .refl _

theorem onlyCaches_readPart (s : State) (p : Part) (h : Hint) (A n : Nat) : OnlyCaches s (s.readPart p h A n).1 :=
  List.foldlRecOn (motive := fun acc : State × List Nat => OnlyCaches s acc.1) (linesOf A n) _ (.refl s)
    fun _ before _ _ => before.trans (onlyCaches_readLine _ p h _)

/-! ### The ring gives up a sample (R20, R287) -/

/-- From s to t no byte of memory changes, no output or group, and no entry of the Ledger but that of stream i. -/
structure OnlyStream (i : Nat) (s t : State) : Prop where
  mem : t.mem = s.mem
  outs : t.outs = s.outs
  groups : t.groups = s.groups
  entry : ∀ k, k ≠ i → t.entry k = s.entry k

theorem OnlyStream.refl (i : Nat) (s : State) : OnlyStream i s s := ⟨rfl, rfl, rfl, fun _ _ => rfl⟩

theorem OnlyStream.trans {i : Nat} {s t u : State} (a : OnlyStream i s t) (b : OnlyStream i t u) : OnlyStream i s u :=
  ⟨b.mem.trans a.mem, b.outs.trans a.outs, b.groups.trans a.groups, fun k ne => (b.entry k ne).trans (a.entry k ne)⟩

theorem OnlyStream.out {i : Nat} {s t : State} (h : OnlyStream i s t) (o : Nat) : t.out o = s.out o := by
  rw [State.out, h.outs, State.out]

theorem OnlyStream.group {i : Nat} {s t : State} (h : OnlyStream i s t) (g : Nat) : t.group g = s.group g := by
  rw [State.group, h.groups, State.group]

theorem OnlyCaches.onlyStream {s t : State} (h : OnlyCaches s t) (i : Nat) : OnlyStream i s t :=
  ⟨h.mem, h.outs, h.groups, fun k _ => h.entry k⟩

theorem onlyStream_setEntry (s : State) (i : Nat) (e : Entry) : OnlyStream i s (s.setEntry i e) :=
  ⟨rfl, rfl, rfl, fun _ ne => entry_setEntry_ne s i e ne⟩

theorem takeRing_of_empty {s : State} {i : Nat} (empty : (s.entry i).fill = 0) :
    s.takeRing i = (s.setEntry i { s.entry i with underruns := satAdd32 (s.entry i).underruns 1,
                                                  slip := satAdd32 (s.entry i).slip 1 }, none) := by
  rw [State.takeRing, if_pos empty]

/-- A ring with samples gives up its oldest, the read index moving on by one. -/
theorem takeRing_of_filled {s : State} {i : Nat} (filled : (s.entry i).fill ≠ 0) :
    ∃ r, OnlyCaches s r ∧ s.takeRing i = (r.setEntry i { s.entry i with orRd := (s.entry i).orRd + 1 },
      some (leNat (s.partBytes (s.part ((s.entry i).part.getD 0)) ((s.entry i).sampleAddr (s.entry i).orRd.toNat)
        (s.entry i).sampleBytes))) := by
  have only := onlyCaches_readPart s (s.part ((s.entry i).part.getD 0)) .normal
    ((s.entry i).sampleAddr (s.entry i).orRd.toNat) (s.entry i).sampleBytes
  refine ⟨_, only, ?_⟩
  simp only [State.takeRing, if_neg filled, modEntry_eq, only.entry]
  rfl

theorem onlyStream_takeRing (s : State) (i : Nat) : OnlyStream i s (s.takeRing i).1 := by
  by_cases empty : (s.entry i).fill = 0
  · rw [takeRing_of_empty empty]
    exact onlyStream_setEntry s i _
  · obtain ⟨r, only, taken⟩ := takeRing_of_filled empty
    rw [taken]
    exact (only.onlyStream i).trans (onlyStream_setEntry r i _)

theorem onlyStream_feedConv (s : State) (i : Nat) (v : Conv) (n : Nat) : OnlyStream i s (s.feedConv i v n).1 := by
  induction n generalizing s v with
  | zero => exact .refl i s
  | succ n ih => exact (onlyStream_takeRing s i).trans (ih _ _)

/-- The value of what a ring gives: its sample's, or the zero inserted for want of one. -/
def ringValue (fmt : Nat) : Option Nat → Num
  | some w => ofAudio fmt w
  | none => .fin false 0 0

/-- At a ratio of 1 the output sample is the ring sample alone, or the zero inserted for want of one. -/
theorem drainSample_of_unit {s : State} {i : Nat} {rho : Nat × Nat} (unit : rho.1 = rho.2) (v : Conv) (cap : Nat) :
    s.drainSample i rho v cap = ((s.takeRing i).1, v.push (s.entry i).orFmt.toNat (s.takeRing i).2,
      ringValue (s.entry i).orFmt.toNat (s.takeRing i).2, (s.takeRing i).2.isNone) := by
  rw [State.drainSample, if_pos unit]
  rfl

theorem onlyStream_drainSample (s : State) (i : Nat) (rho : Nat × Nat) (v : Conv) (cap : Nat) :
    OnlyStream i s (s.drainSample i rho v cap).1 := by
  by_cases unit : rho.1 = rho.2
  · rw [drainSample_of_unit unit]
    exact onlyStream_takeRing s i
  · simp only [State.drainSample, if_neg unit]
    exact onlyStream_feedConv s i _ _

/-! ### A stream's entry after a drain (R21, R272) -/

theorem reval_cases (s : State) (i : Nat) :
    s.reval i = s ∨ ∃ st, s.reval i = s.setEntry i { s.entry i with status := st } := by
  simp only [State.reval]
  split
  · exact .inr ⟨_, rfl⟩
  · exact .inr ⟨_, rfl⟩
  · exact .inr ⟨_, rfl⟩
  · exact .inl rfl

theorem onlyStream_reval (s : State) (i : Nat) : OnlyStream i s (s.reval i) := by
  obtain same | ⟨st, judged⟩ := reval_cases s i
  · rw [same]
    exact .refl i s
  · rw [judged]
    exact onlyStream_setEntry s i _

theorem entry_reval (s : State) (i : Nat) : ∃ st, (s.reval i).entry i = { s.entry i with status := st } := by
  obtain same | ⟨st, judged⟩ := reval_cases s i
  · exact ⟨_, congrArg (State.entry · i) same⟩
  · exact ⟨st, by rw [judged, entry_setEntry_self]⟩

theorem onlyStream_afterDrain (s : State) (i : Nat) : OnlyStream i s (s.afterDrain i) :=
  (onlyStream_reval s i).trans (onlyStream_setEntry _ i _)

/-- A drain's last act judges the stream's status, headroom and urgency, and leaves the rest of its entry. -/
theorem entry_afterDrain (s : State) (i : Nat) :
    ∃ st room urgent, (s.afterDrain i).entry i = { s.entry i with status := st, headroom := room, urgent := urgent } := by
  obtain ⟨st, judged⟩ := entry_reval s i
  refine ⟨st, (s.reval i).headroomOf ((s.reval i).entry i), (s.reval i).streamUrgent ((s.reval i).entry i), ?_⟩
  rw [State.afterDrain, State.urgency, modEntry_eq, entry_setEntry_self, judged]

/-! ### A channel supplies its word (R19, R20, R287, R291) -/

theorem exec_outputDrain_aes (c : Fin 16) (s : State) : exec (.outputDrain (.aes c)) s = .next (s.drainChannel c.val) := rfl

/-- Channel c may supply a word: its output is enabled, at an instant of its clock mode, and has no word of the channel. -/
def State.mayDrain (s : State) (c : Nat) : Prop :=
  (s.out (c / 2)).en = true ∧ s.frameFits (c / 2) = true ∧ (s.out (c / 2)).supplied c = false

theorem not_mayDrain_iff (s : State) (c : Nat) : ¬ s.mayDrain c ↔
    (!(s.out (c / 2)).en || !s.frameFits (c / 2) || (s.out (c / 2)).supplied c) = true := by
  simp only [State.mayDrain, Bool.or_eq_true, Bool.not_eq_true', not_and_or, Bool.not_eq_true, Bool.not_eq_false, or_assoc]

/-- The word that a ring gives at a ratio of 1: its sample in the output's word length, or a zero marked invalid. -/
def ringWord (wlen : Fin 4) (fmt : Nat) : Option Nat → Word24
  | some w => { word := aesWord wlen (ofAudio fmt w), v := false }
  | none => { word := 0, v := true, inserted := true }

theorem mem_putWord (s : State) (c : Nat) (x : Word24) : (s.putWord c x).mem = s.mem := rfl
theorem entry_putWord (s : State) (c : Nat) (x : Word24) (i : Nat) : (s.putWord c x).entry i = s.entry i := rfl

theorem out_putWord (s : State) (c : Nat) (x : Word24) : (s.putWord c x).out (c / 2) =
    if c % 2 = 0 then { s.out (c / 2) with a := { x with set := true } }
    else { s.out (c / 2) with b := { x with set := true } } :=
  out_setOut_self s (c / 2) _

/-- A word put and the drain's stream judged, after a step that changed only that stream: memory and the other streams are
as before, the output has the word, and the stream's entry is as that step left it, but for status, headroom and urgency. -/
theorem frame_of_putWord {u r : State} {i : Nat} (taken : OnlyStream i u r) (c : Nat) (f : Chan → Chan) (w : Word24) :
    ∃ t, t = ((r.modAchan c f).putWord c w).afterDrain i ∧ t.mem = u.mem ∧ (∀ k, k ≠ i → t.entry k = u.entry k) ∧
      t.out (c / 2) = (if c % 2 = 0 then { u.out (c / 2) with a := { w with set := true } }
        else { u.out (c / 2) with b := { w with set := true } }) ∧
      ∃ st room urgent, t.entry i = { r.entry i with status := st, headroom := room, urgent := urgent } := by
  have last := onlyStream_afterDrain ((r.modAchan c f).putWord c w) i
  obtain ⟨st, room, urgent, entry⟩ := entry_afterDrain ((r.modAchan c f).putWord c w) i
  refine ⟨_, rfl, ?_, fun k ne => ?_, ?_, st, room, urgent, ?_⟩
  · rw [last.mem, mem_putWord, modAchan_eq, mem_setAchan, taken.mem]
  · rw [last.entry k ne, entry_putWord, modAchan_eq, entry_setAchan, taken.entry k ne]
  · rw [last.out, out_putWord, modAchan_eq, out_setAchan, taken.out]
  · rw [entry, entry_putWord, modAchan_eq, entry_setAchan]

section
variable {s u : State} {c i : Nat} (due : s.applyDue (c / 2) = u)
include due

theorem drainChannel_of_not_mayDrain (idle : ¬ u.mayDrain c) : s.drainChannel c = u := by
  simp only [State.drainChannel, due, (not_mayDrain_iff u c).1 idle, if_true]

theorem drainChannel_of_no_stream (free : u.mayDrain c) (none : u.channelLive c = none) :
    s.drainChannel c = u.putWord c { muted := u.clockMuted (u.out (c / 2)).clk.val || u.chanRange c } := by
  have guard := mt (not_mayDrain_iff u c).2 (not_not.2 free)
  simp only [State.drainChannel, due, if_neg guard, none]

/-- At a ratio of 1 the channel's stream gives up one ring sample, which becomes the word. -/
theorem drainChannel_of_unit (free : u.mayDrain c) (live : u.channelLive c = some i)
    (unit : (u.rhoOf (u.fOut (u.out (c / 2)).clk.val) i).1 = (u.rhoOf (u.fOut (u.out (c / 2)).clk.val) i).2) :
    s.drainChannel c = (((u.takeRing i).1.modAchan c fun x =>
      { x with conv := (u.achan c).conv.push (u.entry i).orFmt.toNat (u.takeRing i).2 }).putWord c
        (ringWord (u.out (c / 2)).wlen (u.entry i).orFmt.toNat (u.takeRing i).2)).afterDrain i := by
  have guard := mt (not_mayDrain_iff u c).2 (not_not.2 free)
  simp only [State.drainChannel, due, if_neg guard, live, drainSample_of_unit unit]
  cases (u.takeRing i).2 with
  | none => simp [ringWord, unit]
  | some w => simp [ringWord, ringValue]

end

/-! ### A slot of a group supplies a sample (R315) -/

theorem exec_outputDrain_slot (g : Fin 16) (k : Fin 64) (s : State) :
    exec (.outputDrain (.slot g k)) s = .next (s.drainSlot g.val k.val) := rfl

theorem length_leBytes (n v : Nat) : (leBytes n v).length = n := by
  induction n generalizing v with
  | zero => rfl
  | succ n ih => rw [leBytes, List.length_cons, ih]

/-- Slot k of group g may supply a sample: the group is active, the slot's mask bit set, and the frame's samples not all
there. -/
def State.maySupply (s : State) (g k : Nat) : Prop :=
  (s.group g).active = true ∧ bitOf (s.group g).mask.toNat k = true ∧
    ¬ groupSamples (s.group g).clk.val s.frameF * audioBytes (s.group g).fmt.val ≤ (Tbl.get [] (s.group g).samples k).length

theorem not_maySupply_iff (s : State) (g k : Nat) : ¬ s.maySupply g k ↔
    (!(s.group g).active || !bitOf (s.group g).mask.toNat k || decide (groupSamples (s.group g).clk.val s.frameF *
      audioBytes (s.group g).fmt.val ≤ (Tbl.get [] (s.group g).samples k).length)) = true := by
  simp only [State.maySupply, Bool.or_eq_true, Bool.not_eq_true', not_and_or, Bool.not_eq_true, decide_eq_true_eq,
    not_not, or_assoc]

/-- A sample joins those of slot k of group g, the slot's UNDER or MUTE bit with it. -/
def State.addSample (s : State) (g k : Nat) (bs : Bytes) (under mute : Bool) : State := s.modGroup g fun x =>
  { x with samples := Tbl.set [] x.samples k (Tbl.get [] x.samples k ++ bs),
           under := if under then x.under ||| BitVec.ofNat 64 (2 ^ k) else x.under,
           mute := if mute then x.mute ||| BitVec.ofNat 64 (2 ^ k) else x.mute }

theorem group_addSample (s : State) (g k : Nat) (bs : Bytes) (under mute : Bool) : (s.addSample g k bs under mute).group g =
    { s.group g with samples := Tbl.set [] (s.group g).samples k (Tbl.get [] (s.group g).samples k ++ bs),
                     under := if under then (s.group g).under ||| BitVec.ofNat 64 (2 ^ k) else (s.group g).under,
                     mute := if mute then (s.group g).mute ||| BitVec.ofNat 64 (2 ^ k) else (s.group g).mute } :=
  group_setGroup_self s g _

section
variable {s : State} {g k i : Nat}

theorem drainSlot_of_not_maySupply (idle : ¬ s.maySupply g k) : s.drainSlot g k = s := by
  simp only [State.drainSlot, (not_maySupply_iff s g k).1 idle, if_true]

theorem drainSlot_of_unbound (free : s.maySupply g k) (unbound : Tbl.get none (s.group g).slots k = none) :
    s.drainSlot g k = s.addSample g k (leBytes (audioBytes (s.group g).fmt.val) 0) true false := by
  have guard := mt (not_maySupply_iff s g k).2 (not_not.2 free)
  simp only [State.drainSlot, if_neg guard, unbound]
  rfl

theorem drainSlot_of_muted (free : s.maySupply g k) (bound : Tbl.get none (s.group g).slots k = some i)
    (muted : s.slotRange g k = true) :
    s.drainSlot g k = s.addSample g k (leBytes (audioBytes (s.group g).fmt.val) 0) false true := by
  have guard := mt (not_maySupply_iff s g k).2 (not_not.2 free)
  simp only [State.drainSlot, if_neg guard, bound, muted, if_true]
  rfl

/-- A slot's stream supplies its converter's output, in the group's format. -/
theorem drainSlot_of_bound (free : s.maySupply g k) (bound : Tbl.get none (s.group g).slots k = some i)
    (live : s.slotRange g k = false) :
    ∃ r, s.drainSample i (s.rhoOf (s.fOut (s.group g).clk.val) i) (Tbl.get {} (s.group g).convs k) 4 = r ∧
      s.drainSlot g k = ((r.1.modGroup g fun x => { x with convs := Tbl.set {} x.convs k r.2.1 }).addSample g k
        (leBytes (audioBytes (s.group g).fmt.val) (toAudio (s.group g).fmt.val .rne r.2.2.1)) r.2.2.2 false).afterDrain i := by
  have guard := mt (not_maySupply_iff s g k).2 (not_not.2 free)
  refine ⟨_, rfl, ?_⟩
  simp only [State.drainSlot, if_neg guard, bound, live]
  rfl

end

/-- A sample added and the slot's stream judged, after a step that changed only that stream. -/
theorem frame_of_addSample {s r : State} {i : Nat} (taken : OnlyStream i s r) (g k : Nat) (conv : Conv) (y : Bytes)
    (under : Bool) :
    ∃ t, t = ((r.modGroup g fun x => { x with convs := Tbl.set {} x.convs k conv }).addSample g k y under false).afterDrain i ∧
      t.mem = s.mem ∧
      (t.group g).samples = Tbl.set [] (s.group g).samples k (Tbl.get [] (s.group g).samples k ++ y) ∧
      (∀ j, j ≠ i → t.entry j = s.entry j) := by
  have last := onlyStream_afterDrain
    ((r.modGroup g fun x => { x with convs := Tbl.set {} x.convs k conv }).addSample g k y under false) i
  refine ⟨_, rfl, last.mem.trans taken.mem, ?_, fun j ne => (last.entry j ne).trans (taken.entry j ne)⟩
  rw [last.group, group_addSample, modGroup_eq, group_setGroup_self, taken.group]

/-! ### The claim of OutputDrains -/

theorem outputDrains : Claims.OutputDrains := by
  refine ⟨fun c s => ⟨?idle, ?silent, ?unit⟩, fun g k s => ⟨?full, ?unbound, ?bound⟩⟩
  case idle =>
    intro idle
    rw [exec_outputDrain_aes, drainChannel_of_not_mayDrain rfl idle]
  case silent =>
    intro free none
    rw [exec_outputDrain_aes, drainChannel_of_no_stream rfl free none]
  case unit =>
    intro i free live _ unit
    obtain ⟨t, drained, mem, others, out, st, room, urgent, entry⟩ :=
      frame_of_putWord (onlyStream_takeRing (s.applyDue (c.val / 2)) i) c.val _ _
    refine ⟨t, _, ?_, mem, others, out, ?empty, ?filled⟩
    · rw [exec_outputDrain_aes, drainChannel_of_unit rfl free live unit, drained]
    case empty =>
      intro empty
      rw [takeRing_of_empty empty, entry_setEntry_self] at entry
      rw [takeRing_of_empty empty, entry]
      exact ⟨rfl, rfl, rfl, rfl⟩
    case filled =>
      intro filled
      obtain ⟨r, -, taken⟩ := takeRing_of_filled filled
      rw [taken, entry_setEntry_self] at entry
      rw [taken, entry]
      exact ⟨rfl, rfl, rfl, rfl⟩
  case full =>
    intro full
    rw [exec_outputDrain_slot, drainSlot_of_not_maySupply]
    rintro ⟨active, masked, room⟩
    obtain inactive | unmasked | full := full
    · exact absurd active (Bool.eq_false_iff.1 inactive)
    · exact absurd masked (Bool.eq_false_iff.1 unmasked)
    · exact room full
  case unbound =>
    intro active masked room unbound
    rw [exec_outputDrain_slot, drainSlot_of_unbound ⟨active, masked, room⟩ unbound]
    rfl
  case bound =>
    intro i active masked room bound _
    have free : s.maySupply g.val k.val := ⟨active, masked, room⟩
    cases range : s.slotRange g.val k.val with
    | true =>
      refine ⟨_, _, congrArg Host.Outcome.next (drainSlot_of_muted free bound range), rfl, length_leBytes _ 0, ?_,
        fun _ _ => rfl, fun _ => ⟨rfl, ?_⟩⟩
      · rw [group_addSample]
      · rw [group_addSample]
        rfl
    | false =>
      obtain ⟨r, sample, drained⟩ := drainSlot_of_bound free bound range
      obtain ⟨t, final, mem, samples, others⟩ := frame_of_addSample (sample ▸ onlyStream_drainSample s i _ _ _) g.val k.val
        r.2.1 (leBytes (audioBytes (s.group g.val).fmt.val) (toAudio (s.group g.val).fmt.val .rne r.2.2.1)) r.2.2.2
      refine ⟨t, _, ?_, mem, length_leBytes _ _, samples, others, fun muted => absurd muted (by decide)⟩
      rw [exec_outputDrain_slot, drained, final]

/-! ### The bits of a subframe (R291) -/

theorem b2n_le_one (b : Bool) : b2n b ≤ 1 := by cases b <;> decide

theorem b2n_bitOf (w i : Nat) : b2n (bitOf w i) = w / 2 ^ i % 2 := by
  obtain clear | set := Nat.mod_two_eq_zero_or_one (w / 2 ^ i)
  · simp [bitOf, b2n, clear]
  · simp [bitOf, b2n, set]

theorem getLsbD_of_digit {n : Nat} {x : BitVec n} {i : Nat} {b : Bool} (digit : x.toNat / 2 ^ i % 2 = b2n b) :
    x.getLsbD i = b := by
  rw [← bitOf_toNat, bitOf, digit]
  cases b <;> rfl

theorem bitOf_eq_testBit (w i : Nat) : bitOf w i = w.testBit i := by
  rw [Nat.testBit_eq_decide_div_mod_eq]
  rfl

theorem popcount_succ (n w : Nat) : popcount (n + 1) w = popcount n w + b2n (bitOf w n) := by
  rw [popcount, maskList, List.range_succ, List.filter_append, List.length_append]
  cases set : bitOf w n with
  | false => simp [set, b2n, popcount, maskList]
  | true => simp [set, b2n, popcount, maskList]

/-- Bits from place n upward do not count among the low n. -/
theorem popcount_mod (n w : Nat) : popcount n (w % 2 ^ n) = popcount n w := by
  refine congrArg List.length (List.filter_congr fun i low => ?_)
  rw [bitOf_eq_testBit, bitOf_eq_testBit, Nat.testBit_mod_two_pow, decide_eq_true (List.mem_range.1 low), Bool.true_and]

/-- The bits of a subframe below its parity bit. -/
def subframeLow (w : Word24) (u c : Bool) : Nat := w.word.toNat + 2 ^ 24 * b2n w.v + 2 ^ 25 * b2n u + 2 ^ 26 * b2n c

theorem subframeLow_lt (w : Word24) (u c : Bool) : subframeLow w u c < 2 ^ 27 := by
  have word := w.word.isLt
  have v := b2n_le_one w.v
  have hu := b2n_le_one u
  have hc := b2n_le_one c
  unfold subframeLow
  omega

theorem toNat_subframe (w : Word24) (u c : Bool) : (subframe w u c).toNat =
    subframeLow w u c + 2 ^ 27 * (popcount 27 (subframeLow w u c) % 2) := by
  have low := subframeLow_lt w u c
  exact Nat.mod_eq_of_lt (show subframeLow w u c + 2 ^ 27 * (popcount 27 (subframeLow w u c) % 2) < 2 ^ 28 by omega)

/-- A subframe's fields: the word in its low 24 bits, then V, U and C. -/
theorem subframe_fields (w : Word24) (u c : Bool) : (subframe w u c).toNat % 2 ^ 24 = w.word.toNat ∧
    (subframe w u c).getLsbD 24 = w.v ∧ (subframe w u c).getLsbD 25 = u ∧ (subframe w u c).getLsbD 26 = c := by
  have word := w.word.isLt
  have v := b2n_le_one w.v
  have hu := b2n_le_one u
  have hc := b2n_le_one c
  refine ⟨?_, getLsbD_of_digit ?_, getLsbD_of_digit ?_, getLsbD_of_digit ?_⟩ <;>
  · rw [toNat_subframe, subframeLow]
    omega

/-- The parity bit makes the ones of a subframe even. -/
theorem subframe_parity (w : Word24) (u c : Bool) : popcount 28 (subframe w u c).toNat % 2 = 0 := by
  have low := subframeLow_lt w u c
  rw [popcount_succ, b2n_bitOf, ← popcount_mod, toNat_subframe, Nat.add_mul_mod_self_left, Nat.mod_eq_of_lt low]
  omega

/-! ### An output sends a frame (R285, R291 to R293, R298) -/

theorem exec_aes3OutputFrame (o : Fin 8) (s : State) : exec (.aes3OutputFrame o) s = .next (s.sendFrame o.val) := rfl

/-- Table 15.2: when an output's next frame may start, n frames having started at the counter's value. -/
theorem frameFits_iff (s : State) (o : Nat) : s.frameFits o = true ↔
    let x := s.out o
    let n := x.sentNow s.tb.count
    (x.clk = 0 → n = 0) ∧ (x.clk = 1 → n < 2) ∧ (x.clk = 2 → n < 4) ∧
      (x.clk = 3 → s.tb.count.toNat % 2 = 0 ∧ n = 0) ∧ (x.clk = 4 → s.tb.count.toNat % 4 = 0 ∧ n = 0) := by
  simp only [State.frameFits, State.now]
  generalize (s.out o).sentNow s.tb.count = n
  generalize (s.out o).clk = clk
  fin_cases clk <;> simp

/-- At a block's first frame its channel status and provenance records begin (R292, R293). -/
def State.openBlock (s : State) (o : Nat) : State :=
  if (s.out o).place ≠ 0 then s
  else
    let x := s.out o
    let fr := s.fOut x.clk.val
    s.setOut o { x with csA := if x.consumer then conStatus x fr 0 else proStatus x fr,
                        csB := if x.consumer then conStatus x fr 1 else proStatus x fr,
                        recA := { bytes := s.provRecord o 0 }, recB := { bytes := s.provRecord o 1 } }

/-- Opening a block changes nothing but the block's channel status and records. -/
theorem openBlock_frame (s : State) (o : Nat) :
    (s.openBlock o).mem = s.mem ∧ (s.openBlock o).entries = s.entries ∧ (∀ k, k ≠ o → (s.openBlock o).out k = s.out k) ∧
    ∃ csA csB recA recB, (s.openBlock o).out o = { s.out o with csA := csA, csB := csB, recA := recA, recB := recB } := by
  simp only [State.openBlock]
  split
  · exact ⟨rfl, rfl, fun _ _ => rfl, _, _, _, _, rfl⟩
  · exact ⟨rfl, rfl, fun k ne => out_setOut_ne s o _ ne, _, _, _, _, out_setOut_self s o _⟩

/-- An output after frame f of its block, sent at a value of the counter. -/
def AesOut.afterFrame (x : AesOut) (f : Nat) (count : Time) : AesOut :=
  let recA := x.recA.frame f x.a
  let recB := x.recB.frame f x.b
  let cBit (cs : Bytes) : Bool := bitOf (cs.getD (f / 8) 0).toNat (f % 8)
  { x with
    recA := recA, recB := recB, last := [subframe x.a (recA.uBit f) (cBit x.csA), subframe x.b (recB.uBit f) (cBit x.csB)],
    lastZ := f == 0, frames := x.frames + 1, block := if f = 191 then x.block + 1 else x.block, a := {}, b := {},
    place := (f + 1) % 192, sentAt := some count, sent := x.sentNow count + 1 }

/-- Frame f of a block leaves on output o, and the output's registers count the zeros inserted in it. -/
def State.emitFrame (s : State) (o f : Nat) : State :=
  let x := s.out o
  (((s.setOut o (x.afterFrame f s.tb.count)).bump (outReg o 0x18) 0 16 (b2n x.a.inserted)).bump (outReg o 0x18) 16 16
    (b2n x.b.inserted)).setBits (outReg o 0x1C) (2 * b2n (x.a.inserted || x.b.inserted))

theorem mem_emitFrame (s : State) (o f : Nat) : (s.emitFrame o f).mem = s.mem := by
  rw [State.emitFrame, mem_setBits, mem_bump, mem_bump, mem_setOut]

theorem entries_emitFrame (s : State) (o f : Nat) : (s.emitFrame o f).entries = s.entries := by
  rw [State.emitFrame, entries_setBits, entries_bump, entries_bump, entries_setOut]

theorem out_emitFrame_self (s : State) (o f : Nat) : (s.emitFrame o f).out o = (s.out o).afterFrame f s.tb.count := by
  rw [State.emitFrame, out_setBits, out_bump, out_bump, out_setOut_self]

theorem out_emitFrame_ne (s : State) (o f : Nat) {k : Nat} (ne : k ≠ o) : (s.emitFrame o f).out k = s.out k := by
  rw [State.emitFrame, out_setBits, out_bump, out_bump, out_setOut_ne s o _ ne]

theorem sendFrame_of_idle {s u : State} {o : Nat} (due : s.applyDue o = u)
    (idle : (u.out o).en = false ∨ u.frameFits o = false) : s.sendFrame o = u := by
  have guard : (!(u.out o).en || !u.frameFits o) = true := by simpa using idle
  simp only [State.sendFrame, due, guard, if_true]

/-- A frame that may start: both channels supply their words, and the frame at the output's place leaves. -/
theorem sendFrame_of_fits {s u d : State} {o : Nat} (due : s.applyDue o = u) (enabled : (u.out o).en = true)
    (fits : u.frameFits o = true) (supplied : (u.drainChannel (2 * o)).drainChannel (2 * o + 1) = d) :
    s.sendFrame o = (d.openBlock o).emitFrame o (d.out o).place := by
  have guard : (!(u.out o).en || !u.frameFits o) = false := by simp [enabled, fits]
  simp only [State.sendFrame, due, guard, supplied]
  rfl

theorem aesOutputFrames : Claims.AesOutputFrames := by
  intro o s
  refine ⟨?idle, ?sends⟩
  case idle =>
    intro idle
    rw [exec_aes3OutputFrame, sendFrame_of_idle rfl]
    exact idle.imp_right fun unfit => Bool.eq_false_iff.2 (mt (frameFits_iff _ o.val).1 unfit)
  case sends =>
    intro enabled fits
    have sent := sendFrame_of_fits rfl enabled ((frameFits_iff _ o.val).2 fits) rfl
    generalize ((s.applyDue o.val).drainChannel (2 * o.val)).drainChannel (2 * o.val + 1) = d at sent ⊢
    obtain ⟨mem, entries, others, csA, csB, recA, recB, opened⟩ := openBlock_frame d o.val
    refine ⟨_, congrArg Host.Outcome.next sent, (mem_emitFrame _ o.val _).trans mem,
      (entries_emitFrame _ o.val _).trans entries, fun k ne => (out_emitFrame_ne _ o.val _ ne).trans (others k ne), ?_⟩
    rw [out_emitFrame_self, opened]
    obtain ⟨word, validity, user, status⟩ := subframe_fields (d.out o.val).a _ _
    exact ⟨rfl, rfl, rfl, rfl, rfl, rfl, _, _, _, _, rfl, word, validity, user, status, subframe_parity _ _ _⟩

/-- Settles O46: each way a channel or slot supplies its sample, and the frame that is sent, follow from the rules above. -/
theorem audioOutputs : Obligations.AudioOutputs := ⟨outputDrains, aesOutputFrames⟩

end Sys2Proof.Machine
end

section
/-! PROOFS. What every command keeps: but for the commands that drive or clear the sample-time counter, each leaves the
queue of waiting commands and the counter, and keeps the invariant. One lemma per function of the model, in its order. -/

namespace Sys2Proof.Machine

/-! ### Answers, choices, and tables that lose entries -/

/-- What a command answers: a fault or a refusal holds no state. -/
def KeptR (s : State) : Outcome → Prop
  | .next t => Kept s t
  | .fault _ => True
  | .refused _ => True

section
variable {s0 s : State}

theorem KeptR.next (h : Kept s0 s) : KeptR s0 (.next s) := h

theorem KeptP.of_eq {α : Type} {x : State × α} {t : State} {a : α} (h : KeptP s0 x) (e : x = (t, a)) : Kept s0 t := by
  subst e
  exact h

/-! Of a choice it is enough that both alternatives are kept. -/

theorem kept_ite {c : Prop} [Decidable c] {a b : State} (ha : Kept s0 a) (hb : Kept s0 b) :
    Kept s0 (if c then a else b) := iteInduction (fun _ => ha) fun _ => hb

theorem keptp_ite {α : Type} {c : Prop} [Decidable c] {a b : State × α} (ha : KeptP s0 a) (hb : KeptP s0 b) :
    KeptP s0 (if c then a else b) := iteInduction (fun _ => ha) fun _ => hb

theorem keptq_ite {α : Type} {c : Prop} [Decidable c] {a b : α × State} (ha : KeptQ s0 a) (hb : KeptQ s0 b) :
    KeptQ s0 (if c then a else b) := iteInduction (fun _ => ha) fun _ => hb

theorem kepto_ite {c : Prop} [Decidable c] {a b : Option State} (ha : KeptO s0 a) (hb : KeptO s0 b) :
    KeptO s0 (if c then a else b) := iteInduction (fun _ => ha) fun _ => hb

theorem keptr_ite {c : Prop} [Decidable c] {a b : Outcome} (ha : KeptR s0 a) (hb : KeptR s0 b) :
    KeptR s0 (if c then a else b) := iteInduction (fun _ => ha) fun _ => hb

theorem CmdRes.kept_ite {c : Prop} [Decidable c] {a b : CmdRes} (ha : a.Kept s0) (hb : b.Kept s0) :
    (if c then a else b).Kept s0 := iteInduction (motive := CmdRes.Kept s0) (fun _ => ha) fun _ => hb

theorem StartRes.kept_ite {c : Prop} [Decidable c] {a b : StartRes} (ha : a.Kept s0) (hb : b.Kept s0) :
    (if c then a else b).Kept s0 := iteInduction (motive := StartRes.Kept s0) (fun _ => ha) fun _ => hb

/-- An update made only when a condition holds. -/
theorem kept_ifThen {c : Prop} [Decidable c] {t : State} (h : Kept s0 s) (ht : Kept s0 s → Kept s0 t) :
    Kept s0 (if c then t else s) := kept_ite (ht h) h

/-- An update made only when a condition does not hold. -/
theorem kept_unless {c : Prop} [Decidable c] {t : State} (h : Kept s0 s) (ht : Kept s0 s → Kept s0 t) :
    Kept s0 (if c then s else t) := kept_ite h (ht h)

theorem kept_images {x : Tbl (Option Image)} (h : Kept s0 s)
    (hx : Tbl.wf none s.images = true → Tbl.wf none x = true) : Kept s0 { s with images := x } :=
  ⟨h.pending, h.count, fun w => { h.inv w with images := hx (h.inv w).images }⟩

theorem kept_parts {x : Tbl Part} {y : Tbl Snap} (h : Kept s0 s)
    (hx : Tbl.wf {} s.parts = true → Tbl.wf {} x = true) : Kept s0 { s with parts := x, snaps := y } :=
  ⟨h.pending, h.count, fun w => { h.inv w with parts := hx (h.inv w).parts }⟩

theorem kept_groups {x : Tbl Group} {y : List Change} (h : Kept s0 s)
    (hx : Tbl.wf {} s.groups = true → Tbl.wf {} x = true) : Kept s0 { s with groups := x, changes := y } :=
  ⟨h.pending, h.count, fun w => { h.inv w with groups := hx (h.inv w).groups }⟩

/-- A pending F that takes effect leaves the counter. -/
theorem count_takeF (t : Tb) : t.takeF.count = t.count := by
  unfold Tb.takeF
  split
  · rfl
  · split <;> rfl

/-! ### Ops -/

theorem kept_accrue {a} (h : Kept s0 s) : Kept s0 (s.accrue a) := Kept.mk' (kept_setReg h) rfl

/-! ### Memory -/

theorem kept_wakeCluster {n} (h : Kept s0 s) : Kept s0 (s.wakeCluster n) :=
  kept_ite (kept_bump (kept_modClu (kept_accrue h))) h

theorem kept_exitRefresh {ch} (h : Kept s0 s) : Kept s0 (s.exitRefresh ch) := kept_ite (kept_bump (kept_modChan h)) h

theorem kept_allocLine {ch line dirty first} (h : Kept s0 s) : Kept s0 (s.allocLine ch line dirty first) := by
  refine kept_ite h (kept_modClu ?_)
  split
  · exact h
  · exact kept_ifThen (kept_modClu h) fun h => kept_bumpWide (kept_bumpWide (kept_exitRefresh h))

theorem kept_hitLine {ch line write} (h : Kept s0 s) : Kept s0 (s.hitLine ch line write) := by
  unfold State.hitLine
  exact kept_modClu (kept_bumpWide h)

theorem kept_logBad {phys} (h : Kept s0 s) : Kept s0 (s.logBad phys) :=
  kept_unless (kept_bump h) fun h => kept_setBits (Kept.mk' h rfl)

theorem kept_readLine {p h' A} (h : Kept s0 s) : KeptP s0 (s.readLine p h' A) := by
  refine keptp_ite
      (KeptP.mk (kept_hitLine (kept_wakeCluster h)))
      (keptp_ite (KeptP.mk (kept_logBad (kept_bumpWide (kept_bumpWide (kept_exitRefresh (kept_wakeCluster h)))))) ?_)
  split
  · exact KeptP.mk (kept_allocLine (kept_bumpWide (kept_bumpWide (kept_exitRefresh (kept_wakeCluster h)))))
  · exact KeptP.mk (kept_allocLine (kept_bumpWide (kept_bumpWide (kept_exitRefresh (kept_wakeCluster h)))))
  · exact KeptP.mk (kept_bumpWide (kept_bumpWide (kept_exitRefresh (kept_wakeCluster h))))

theorem kept_readLines {p h' A n} (h : Kept s0 s) : KeptP s0 (s.readLines p h' A n) :=
  keptp_foldl (KeptP.mk h) fun _ _ h => KeptP.mk (kept_readLine h.fst).fst

theorem kept_writeInLine {p h' A bs} (h : Kept s0 s) : KeptP s0 (s.writeInLine p h' A bs) :=
  keptp_ite
    (KeptP.mk (kept_logBad (kept_exitRefresh (kept_wakeCluster h))))
    (keptp_ite
       (KeptP.mk (kept_hitLine (kept_mem (kept_wakeCluster h) (wf_writeBytes _ _ _))))
       (keptp_ite
          (KeptP.mk
             (kept_bumpWide (kept_exitRefresh (kept_bumpWide (kept_mem (kept_wakeCluster h) (wf_writeBytes _ _ _))))))
          (KeptP.mk
             (kept_allocLine
                (kept_unless
                   (kept_bumpWide (kept_mem (kept_wakeCluster h) (wf_writeBytes _ _ _)))
                   fun h => kept_bumpWide (kept_exitRefresh h))))))

theorem kept_writeLines {p hint n A bs} (h : Kept s0 s) : KeptP s0 (s.writeLines p hint n A bs) := by
  induction n generalizing s A bs with
  | zero => exact KeptP.mk h
  | succ n ih => exact keptp_ite (KeptP.mk h) (KeptP.mk (ih (kept_writeInLine h).fst).fst)

theorem kept_writePart {p h' A bs} (h : Kept s0 s) : KeptP s0 (s.writePart p h' A bs) := kept_writeLines h

theorem kept_writeAll {p h' l} (h : Kept s0 s) : KeptP s0 (s.writeAll p h' l) :=
  keptp_ite
    (KeptP.mk (kept_each h fun _ _ h => (kept_writePart h).fst))
    (KeptP.mk (kept_each h fun _ _ h => (kept_readLine h).fst))

theorem kept_writeWholly {p h' A bs} (h : Kept s0 s) : KeptP s0 (s.writeWholly p h' A bs) := kept_writeAll h

theorem kept_readPart {p h' A n} (h : Kept s0 s) : KeptP s0 (s.readPart p h' A n) := KeptP.mk (kept_readLines h).fst

theorem kept_lineEvent {e} (h : Kept s0 s) : Kept s0 (s.lineEvent e) := by
  refine kept_ite h ?_
  split
  · exact kept_bump h
  · exact kept_bump h
  · exact kept_mem h (wf_writeBytes _ _ _)

theorem kept_lineEvents {ev} (h : Kept s0 s) : Kept s0 (s.lineEvents ev) := kept_foldl h fun _ _ => kept_lineEvent

theorem kept_writeShare {g j a bs} (h : Kept s0 s) : Kept s0 (s.writeShare g j a bs) := kept_modShare h

/-! ### Notify -/

theorem kept_raiseIbi {code} (h : Kept s0 s) : Kept s0 (s.raiseIbi code) := kept_modI3c h

theorem kept_discardOn {port} (h : Kept s0 s) : Kept s0 (s.discardOn port) := kept_bump h

theorem kept_queuePkt {p cmd frame} (h : Kept s0 s) : Kept s0 (s.queuePkt p cmd frame) :=
  kept_ite (kept_discardOn h) (kept_modNet h)

theorem kept_queueOwn {p} (h : Kept s0 s) : Kept s0 (s.queueOwn p) :=
  kept_ite (kept_queuePkt h) (kept_ite (kept_modNet h) (kept_discardOn h))

theorem kept_sendControl {dst spur records} (h : Kept s0 s) : Kept s0 (s.sendControl dst spur records) :=
  kept_ite (kept_queueOwn h) (kept_ite (kept_discardOn h) (kept_modNet h))

theorem kept_sendCompletion {src part bs} (h : Kept s0 s) : Kept s0 (s.sendCompletion src part bs) := by
  dsimp only [State.sendCompletion]
  split
  · exact kept_raiseIbi (kept_modI3c (Kept.mk' h rfl))
  · exact kept_queuePkt (Kept.mk' h rfl)
  · exact kept_queuePkt (Kept.mk' h rfl)

theorem kept_reply {src opcode tag part status results trunc} (h : Kept s0 s) :
      Kept s0 (s.reply src opcode tag part status results trunc) :=
  kept_sendCompletion h

theorem kept_endCmd {id status results} (h : Kept s0 s) : Kept s0 (s.endCmd id status results) := by
  unfold State.endCmd
  split
  · exact h
  · exact kept_reply (Kept.mk' h rfl)

theorem kept_settleFences_go {n} (h : Kept s0 s) : Kept s0 (State.settleFences.go s n) := by
  induction n generalizing s with
  | zero => exact h
  | succ n ih =>
    unfold State.settleFences.go
    split
    · exact h
    · exact ih (kept_endCmd h)

theorem kept_settleFences (h : Kept s0 s) : Kept s0 s.settleFences := kept_settleFences_go h

theorem kept_finishCmd {id status results} (h : Kept s0 s) : Kept s0 (s.finishCmd id status results) :=
  kept_settleFences (kept_endCmd h)

theorem kept_finishWhere {f status} (h : Kept s0 s) : Kept s0 (s.finishWhere f status) :=
  kept_each h fun _ _ => kept_finishCmd

theorem kept_raiseEvent {code part status subject detail owner} (h : Kept s0 s) :
      Kept s0 (s.raiseEvent code part status subject detail owner) :=
  kept_each (kept_raiseIbi (kept_queueOwn (Kept.mk' (kept_setBits (Kept.mk' h rfl)) rfl))) fun _ _ => kept_queuePkt

/-! ### Sync -/

theorem kept_wordDone {g j ticket st} (h : Kept s0 s) : Kept s0 (s.wordDone g j ticket st) := kept_modShare h

theorem kept_satisfy {value w} (h : Kept s0 s) : Kept s0 (s.satisfy value w) := by
  dsimp only [State.satisfy]
  split
  · exact kept_wordDone (kept_ifThen (kept_each h fun _ _ => kept_wakeCluster) kept_modShare)
  · exact kept_finishCmd (kept_each h fun _ _ => kept_wakeCluster)

theorem kept_testWaiters {obj} (h : Kept s0 s) : Kept s0 (s.testWaiters obj) :=
  kept_each (Kept.mk' h rfl) fun _ _ => kept_satisfy

theorem kept_syncSet {obj v} (h : Kept s0 s) : Kept s0 (s.syncSet obj v) :=
  kept_testWaiters (kept_sync h (Tbl.wf_set _ _ _ _))

theorem kept_syncAdd {obj v} (h : Kept s0 s) : Kept s0 (s.syncAdd obj v) := kept_syncSet h

/-! ### Ledger -/

theorem kept_modDocket {r seq f} (h : Kept s0 s) : Kept s0 (s.modDocket r seq f) := Kept.mk' h rfl

theorem kept_reval {i} (h : Kept s0 s) : Kept s0 (s.reval i) := by
  dsimp only [State.reval]
  split
  · exact kept_setEntry h
  · exact kept_setEntry h
  · exact kept_setEntry h
  · exact h

theorem kept_urgency {i} (h : Kept s0 s) : Kept s0 (s.urgency i) := kept_modEntry h

theorem kept_endPark {i status} (h : Kept s0 s) : Kept s0 (s.endPark i status) := kept_finishWhere (kept_modEntry h)

theorem kept_faultStream {i st} (h : Kept s0 s) : Kept s0 (s.faultStream i st) :=
  kept_ite h (kept_endPark (kept_setEntry h))

theorem kept_released {i} (h : Kept s0 s) : Kept s0 (s.released i) :=
  kept_ite (kept_ite (kept_setEntry h) h) (kept_reval h)

theorem kept_retireDocket {r seq} (h : Kept s0 s) : Kept s0 (s.retireDocket r seq) := by
  unfold State.retireDocket
  split
  · exact h
  · exact kept_each (Kept.mk' h rfl) fun _ _ => kept_released

theorem kept_retireDone {r} (h : Kept s0 s) : Kept s0 (s.retireDone r) := by
  unfold State.retireDone
  split
  · exact h
  · exact kept_each h fun _ _ => kept_retireDocket

theorem kept_dropPend {i} (h : Kept s0 s) : Kept s0 (s.dropPend i) := kept_modEntry h

theorem kept_dropDockets {r} (h : Kept s0 s) : Kept s0 (s.dropDockets r) :=
  kept_each h fun _ _ h => kept_retireDocket (kept_each h fun _ _ h => kept_ite (kept_dropPend h) h)

theorem kept_writeWhole {p A bs} (h : Kept s0 s) : Kept s0 (s.writeWhole p A bs) :=
  (kept_writePart (kept_each h fun _ _ h => (kept_readLine h).fst)).fst

theorem kept_synthAddr {e} (h : Kept s0 s) : KeptP s0 (s.synthAddr e) := KeptP.mk (kept_readPart h).fst

theorem kept_writeBack {n x} (h : Kept s0 s) : Kept s0 (s.writeBack n x) := by
  dsimp only [State.writeBack]
  split
  · exact h
  · exact kept_bump (kept_writeWhole (kept_synthAddr h).fst)

theorem kept_flushSlot {i} (h : Kept s0 s) : Kept s0 (s.flushSlot i) := by
  refine kept_each h (fun _ _ h => ?_)
  split
  · exact h
  · exact kept_modClu (kept_writeBack h)

theorem kept_resolveWords {r seq} (h : Kept s0 s) : Kept s0 (s.resolveWords r seq) := by
  dsimp only [State.resolveWords]
  split
  · exact h
  · split
    · exact h
    · exact kept_each h fun _ _ h => kept_each (kept_modShare h) fun _ _ => kept_wordDone

/-! ### Stop -/

theorem kept_cancelTransfers {c} (h : Kept s0 s) : Kept s0 (s.cancelTransfers c) :=
  kept_each h fun _ _ h => kept_ite h (kept_bump (kept_modClu h))

theorem kept_cancelMill {c} (h : Kept s0 s) : Kept s0 (s.cancelMill c) :=
  kept_each h fun _ _ h => kept_ite h (kept_bump (kept_modClu h))

theorem kept_dropContext {c} (h : Kept s0 s) : Kept s0 (s.dropContext c) := kept_each h fun _ _ => kept_dropDockets

theorem kept_stopContext {c spread st} (h : Kept s0 s) : Kept s0 (s.stopContext c spread st) := by
  unfold State.stopContext
  split
  · exact h
  · exact kept_ite
        h
        (kept_modCtx
           (kept_each
              (kept_dropContext (kept_cancelMill (kept_cancelTransfers (kept_each h fun _ _ => kept_modShare))))
              fun _ _ => kept_faultStream))

theorem kept_progFault {g j cause engine index} (h : Kept s0 s) : Kept s0 (s.progFault g j cause engine index) := by
  dsimp only [State.progFault]
  split
  · exact h
  · exact kept_stopContext (kept_ite (kept_modShare h) h)

theorem kept_markFailed {u} (h : Kept s0 s) : Kept s0 (s.markFailed u) := by
  unfold State.markFailed
  split <;> exact Kept.mk' h rfl

theorem kept_freeContext {c} (h : Kept s0 s) : Kept s0 (s.freeContext c) := by
  unfold State.freeContext
  split
  · exact h
  · exact kept_setCtx (kept_each (kept_each h fun _ _ => kept_modShare) fun _ _ h => kept_ite (kept_modClu h) h)

theorem kept_dropWaiters {c} (h : Kept s0 s) : Kept s0 (s.dropWaiters c) := by
  unfold State.dropWaiters
  split
  · exact h
  · exact Kept.mk' h rfl

theorem kept_parkRetired {i} (h : Kept s0 s) : Kept s0 (s.parkRetired i) :=
  kept_ite (kept_endPark (kept_modEntry (kept_flushSlot h))) h

theorem kept_completeRetire {c st} (h : Kept s0 s) : Kept s0 (s.completeRetire c st) :=
  kept_finishWhere
    (kept_freeContext
       (kept_dropWaiters (kept_each (kept_each h fun _ _ => kept_parkRetired) fun _ _ => kept_setRope)))

theorem kept_abortContext {c} (h : Kept s0 s) : Kept s0 (s.abortContext c) := by
  unfold State.abortContext
  exact kept_dropWaiters
      (kept_dropContext (kept_cancelMill (kept_cancelTransfers (kept_each h fun _ _ => kept_modShare))))

theorem kept_unitStops {c} (h : Kept s0 s) : Kept s0 (s.unitStops c) := by
  unfold State.unitStops
  split
  · exact h
  · exact kept_ite (kept_finishWhere (kept_freeContext h)) (kept_ifThen (kept_stopContext h) kept_completeRetire)

theorem kept_clearWork {w} (h : Kept s0 s) : Kept s0 (s.clearWork w) := by
  unfold State.clearWork
  split
  · exact kept_modCore h (fun _ => rfl)
  · exact kept_modClu h
  · exact kept_modClu h
  · exact kept_modClu h
  · exact kept_modCore h (fun _ => rfl)
  · exact kept_modClu h
  · exact kept_modPart h
  · exact h

theorem kept_failTests {u} (h : Kept s0 s) : Kept s0 (s.failTests u) :=
  kept_each h fun _ _ h => kept_finishCmd (kept_clearWork h)

theorem kept_unitFailure {u} (h : Kept s0 s) : Kept s0 (s.unitFailure u) := by
  refine kept_ite h (kept_ifThen ?_ fun h => kept_raiseEvent (kept_raiseEvent h))
  split
  · exact kept_finishWhere
        (kept_failTests
           (kept_each (kept_ifThen (kept_markFailed h) fun h => Kept.mk' h rfl) fun _ _ => kept_unitStops))
  · refine kept_failTests ?_
    split
    · exact kept_modClu
          (kept_each (kept_ifThen (kept_markFailed h) fun h => Kept.mk' h rfl) fun _ _ => kept_unitStops)
    · exact kept_each (kept_ifThen (kept_markFailed h) fun h => Kept.mk' h rfl) fun _ _ => kept_unitStops

/-! ### Range -/

theorem kept_muteConv {c m} (h : Kept s0 s) : Kept s0 (s.muteConv c m) := kept_ite (kept_modAchan h) h

theorem kept_outCheck {o} (h : Kept s0 s) : Kept s0 (s.outCheck o) :=
  kept_ite h (kept_muteConv (kept_muteConv (kept_setBits (kept_setBits (kept_setOut h)))))

theorem kept_groupCheck {g} (h : Kept s0 s) : Kept s0 (s.groupCheck g) := kept_ite h (kept_setBits (kept_setGroup h))

theorem kept_rangeCheck (h : Kept s0 s) : Kept s0 s.rangeCheck :=
  kept_each (kept_each h fun _ _ => kept_outCheck) fun _ _ => kept_groupCheck

/-! ### Timebase -/

theorem kept_acceptRate {rate ratio} (h : Kept s0 s) : Kept s0 (s.acceptRate rate ratio) :=
  kept_rangeCheck (kept_ifThen (kept_modTb h rfl) fun h => kept_setBits (kept_modTb h rfl))

theorem kept_enterHoldover (h : Kept s0 s) : Kept s0 s.enterHoldover :=
  kept_raiseEvent (kept_bump (kept_setBits (kept_modTb h rfl)))

theorem kept_leaveHoldover (h : Kept s0 s) : Kept s0 s.leaveHoldover := kept_ite (kept_setBits h) h

theorem kept_selectSource {src rate} (h : Kept s0 s) : Kept s0 (s.selectSource src rate) :=
  kept_ite
    (kept_ite h (kept_acceptRate (kept_modTb (kept_leaveHoldover h) rfl)))
    (kept_ite h (kept_modTb (kept_leaveHoldover h) rfl))

theorem kept_selectFrame {sel} (h : Kept s0 s) : Kept s0 (s.selectFrame sel) := kept_modTb h rfl

theorem kept_mclkCheck {now} (h : Kept s0 s) : Kept s0 (s.mclkCheck now) :=
  kept_ite (kept_rangeCheck (Kept.mk' h rfl)) h

theorem kept_execRemeasure (h : Kept s0 s) : KeptR s0 (execRemeasure s) := by
  refine KeptR.next (kept_when h (fun h => ?_))
  split
  · exact h
  · dsimp only
    split
    · exact kept_modTb h rfl
    · exact kept_acceptRate (kept_modTb h rfl)

/-! ### AudioIn -/

theorem kept_lockFrame {i f} (h : Kept s0 s) : Kept s0 (s.lockFrame i f) :=
  kept_ite
    (kept_ite (kept_setAin (kept_bump (kept_bump h))) (kept_setBits (kept_setAin (kept_bump (kept_bump h)))))
    (kept_ite (kept_setAin (kept_bump (kept_bump h))) (kept_setBits (kept_setAin (kept_bump (kept_bump h)))))

theorem kept_setNonAudio {i on} (h : Kept s0 s) : Kept s0 (s.setNonAudio i on) :=
  kept_ite h (kept_ifThen (kept_setBits (kept_setAin h)) kept_raiseEvent)

theorem kept_preamble {i f} (h : Kept s0 s) : Kept s0 (s.preamble i f) := kept_ifThen (kept_setAin h) kept_setNonAudio

theorem kept_blockEnd {i} (h : Kept s0 s) : Kept s0 (s.blockEnd i) :=
  kept_setNonAudio (kept_ifThen (kept_setAin h) kept_syncAdd)

theorem kept_decodeFrame {i f} (h : Kept s0 s) : Kept s0 (s.decodeFrame i f) :=
  kept_unless
    (kept_preamble (kept_ite (kept_modAin h) h))
    fun h => kept_ifThen (kept_setAin (kept_ifThen h fun h => (kept_writePart h).fst)) kept_blockEnd

/-! ### Closing -/

theorem kept_dropChunks {i owed} (h : Kept s0 s) : Kept s0 (s.dropChunks i owed) := kept_bump (kept_setEntry h)

theorem kept_freeGroup {g} (h : Kept s0 s) : Kept s0 (s.freeGroup g) := kept_ite (kept_setGroup h) h

theorem kept_boundCheck {t} (h : Kept s0 s) : Kept s0 (s.boundCheck t) := by
  unfold State.boundCheck
  split
  · exact kept_outCheck h
  · exact kept_groupCheck h
  · exact h

theorem kept_leaveOutput {i} (h : Kept s0 s) : Kept s0 (s.leaveOutput i) := by
  refine kept_boundCheck (kept_modEntry ?_)
  split
  · exact kept_ite
        (kept_setAchan (kept_each (Kept.mk' h rfl) fun _ _ => kept_freeGroup))
        (kept_ifThen (kept_each (Kept.mk' h rfl) fun _ _ => kept_freeGroup) kept_setAchan)
  · exact kept_freeGroup (kept_modGroup (kept_each (Kept.mk' h rfl) fun _ _ => kept_freeGroup))
  · exact kept_each (Kept.mk' h rfl) fun _ _ => kept_freeGroup

theorem kept_closeEntry {i st} (h : Kept s0 s) : Kept s0 (s.closeEntry i st) :=
  kept_finishWhere (kept_finishWhere (kept_modEntry (kept_leaveOutput (kept_dropPend (kept_flushSlot h)))))

theorem kept_closeUndrained {i} (h : Kept s0 s) : Kept s0 (s.closeUndrained i) := kept_closeEntry (kept_modEntry h)

theorem kept_startDraining {i} (h : Kept s0 s) : Kept s0 (s.startDraining i) := kept_endPark (kept_modEntry h)

theorem kept_sequenceEnd {i} (h : Kept s0 s) : Kept s0 (s.sequenceEnd i) :=
  kept_ifThen
    (kept_raiseEvent (kept_bump (kept_dropChunks (kept_startDraining (kept_modEntry h)))))
    kept_closeUndrained

theorem kept_freeBytes {n} (h : Kept s0 s) : KeptQ s0 (State.freeBytes n s) := by
  induction n generalizing s with
  | zero => exact KeptQ.mk h
  | succ n ih => exact KeptQ.mk (ih (kept_draw h)).snd

/-! ### Gen -/

theorem kept_genDraw {g n} (h : Kept s0 s) : KeptQ s0 (s.genDraw g n) :=
  KeptQ.mk (kept_bumpWide (kept_setCore h (fun v => v.shares _)))

theorem kept_roundings {g rm G n} (h : Kept s0 s) : KeptQ s0 (s.roundings g rm G n) := by
  unfold State.roundings
  split
  · exact KeptQ.mk h
  · exact KeptQ.mk h
  · exact KeptQ.mk (kept_genDraw h).snd

theorem kept_faultDraws {g e} (h : Kept s0 s) : Kept s0 (s.faultDraws g e) :=
  kept_ite h (kept_genDraw (Kept.mk' h rfl)).snd

theorem kept_execReseed {core} (h : Kept s0 s) : KeptR s0 (execReseed core s) := by
  refine KeptR.next ?_
  split
  · exact h
  · exact kept_when h fun h => kept_ifThen (kept_bump (kept_setCore h (fun v => v.shares _))) kept_bump

/-! ### Issue -/

theorem kept_chargeUnit {g j unit n} (h : Kept s0 s) : Kept s0 (s.chargeUnit g j unit n) :=
  kept_ite h (kept_modShare h)

theorem kept_rotate {g unit j} (h : Kept s0 s) : Kept s0 (s.rotate g unit j) :=
  kept_ite (kept_modCore h (fun _ => rfl)) h

theorem kept_wakeCore {g} (h : Kept s0 s) : Kept s0 (s.wakeCore g) := kept_ite (kept_modCore h (fun _ => rfl)) h

theorem kept_dispatched {g j} (h : Kept s0 s) : Kept s0 (s.dispatched g j) := by
  unfold State.dispatched
  exact kept_modShare (kept_chargeUnit (kept_rotate (kept_wakeCore (kept_modCore h (fun _ => rfl)))))

theorem kept_dispatchFront {site w op f} (h : Kept s0 s) : Kept s0 (s.dispatchFront site w op f) := by
  refine kept_ite
      (kept_ite
         (kept_progFault (kept_dispatched h))
         (kept_ite (kept_progFault (kept_dispatched h)) (kept_ite (kept_setShare (kept_dispatched h)) ?_)))
      h
  split
  · exact kept_setShare (kept_dispatched h)
  · exact kept_setShare (kept_dispatched h)
  · exact kept_progFault (kept_dispatched h)

theorem kept_newHead {g q j} (h : Kept s0 s) : Kept s0 (s.newHead g q j) := kept_modCore h (fun _ => rfl)

theorem kept_leave {g q j} (h : Kept s0 s) : Kept s0 (s.leave g q j) := kept_unless (kept_modShare h) kept_newHead

theorem kept_dispatchEngine {site w op} (h : Kept s0 s) : Kept s0 (s.dispatchEngine site w op) := by
  refine kept_ite (kept_ite (kept_progFault (kept_dispatched h)) (kept_ite (kept_progFault (kept_dispatched h)) ?_)) h
  split
  · exact kept_dispatched h
  · exact kept_ifThen (kept_setShare (kept_dispatched h)) kept_newHead

theorem kept_chargeWord {g j q e n} (h : Kept s0 s) : Kept s0 (s.chargeWord g j q e n) :=
  kept_ite (kept_chargeUnit h) (kept_chargeUnit (Kept.mk' h rfl))

theorem kept_finishWord {g j q e n} (h : Kept s0 s) : Kept s0 (s.finishWord g j q e n) :=
  kept_chargeWord (kept_wordDone (kept_leave h))

theorem kept_startEngine {site w q op f} (h : Kept s0 s) (hf : ∀ s g j e, Kept s0 s → (f s g j e).Kept s0) :
    Kept s0 (s.startEngine site w q op f) := by
  dsimp only [State.startEngine]
  split
  next => exact h
  next e _ _ =>
    refine kept_ite ?_ h
    have turned := kept_rotate (g := site.core.val) (unit := q) (j := site.share.val) (kept_wakeCore (g := site.core.val) h)
    refine kept_ite (kept_wordDone (kept_leave turned)) ?_
    have started := hf _ site.core.val site.share.val e turned
    generalize f _ _ _ e = r at started ⊢
    cases r with
    | done t n => exact kept_finishWord started
    | later t => exact kept_leave started
    | keep t => exact started
    | fault t c => exact kept_progFault (kept_chargeUnit (Kept.mk' (kept_faultDraws (kept_leave started)) rfl))

theorem kept_engineWord {site act w q op f} (h : Kept s0 s) (hf : ∀ s g j e, Kept s0 s → (f s g j e).Kept s0) :
    Kept s0 (s.engineWord site act w q op f) := by
  cases act with
  | dispatch => exact kept_dispatchEngine h
  | start => exact kept_startEngine h hf

/-! ### SyncOps -/

theorem kept_faultAny {l} (h : Kept s0 s) : (faultAny s l).Kept s0 := by
  unfold faultAny
  split
  · exact StartRes.kept_fault h
  · exact StartRes.kept_fault (kept_draw h)

theorem kept_checked {l k} (h : Kept s0 s) (hk : k.Kept s0) : (checked s l k).Kept s0 := by
  unfold checked
  split
  · exact hk
  · exact kept_faultAny h

theorem kept_sLdStart {g j e} (h : Kept s0 s) : (sLdStart s g j e).Kept s0 :=
  kept_checked h (StartRes.kept_done (kept_modShare h))

theorem kept_sStStart {g j e} (h : Kept s0 s) : (sStStart s g j e).Kept s0 :=
  kept_checked h (StartRes.kept_done (kept_writeShare h))

theorem kept_syncSignalStart {g _j e} (h : Kept s0 s) : (syncSignalStart s g _j e).Kept s0 :=
  StartRes.kept_ite (StartRes.kept_done (kept_syncSet h)) (StartRes.kept_fault h)

theorem kept_syncAddStart {g _j e} (h : Kept s0 s) : (syncAddStart s g _j e).Kept s0 :=
  StartRes.kept_ite (StartRes.kept_done (kept_syncAdd h)) (StartRes.kept_fault h)

theorem kept_syncRdStart {g j e} (h : Kept s0 s) : (syncRdStart s g j e).Kept s0 :=
  StartRes.kept_ite (StartRes.kept_done (kept_modShare h)) (StartRes.kept_fault h)

theorem kept_syncWaitStart {site g _j e} (h : Kept s0 s) : (syncWaitStart site s g _j e).Kept s0 :=
  StartRes.kept_ite
    (StartRes.kept_fault h)
    (StartRes.kept_ite
       (StartRes.kept_done h)
       (StartRes.kept_ite (StartRes.kept_keep (Kept.mk' h rfl)) (StartRes.kept_later (Kept.mk' h rfl))))

/-! ### Movement -/

theorem kept_submitted {e} (h : Kept s0 s) : (submitted e s).Kept s0 :=
  StartRes.kept_ite (StartRes.kept_done h) (StartRes.kept_later h)

theorem kept_dmaStart {get site g j e} (h : Kept s0 s) : (dmaStart get site s g j e).Kept s0 :=
  StartRes.kept_ite (StartRes.kept_fault h) (StartRes.kept_later (kept_modClu h))

theorem kept_haloSendStart {g j e} (h : Kept s0 s) : (haloSendStart s g j e).Kept s0 := by
  dsimp only [haloSendStart]
  split
  · exact StartRes.kept_fault h
  · refine StartRes.kept_ite (StartRes.kept_fault h) (kept_checked h ?_)
    split
    · exact StartRes.kept_fault h
    · exact StartRes.kept_done (kept_syncAdd (kept_modShare (kept_writeShare (kept_wakeCluster h))))

theorem kept_haloRecvStart {g j e} (h : Kept s0 s) : (haloRecvStart s g j e).Kept s0 := by
  dsimp only [haloRecvStart]
  split
  · exact StartRes.kept_fault h
  · exact StartRes.kept_ite (StartRes.kept_fault h) (StartRes.kept_done (kept_syncAdd (kept_modShare h)))

theorem kept_setEdge {r k x} (h : Kept s0 s) : Kept s0 (s.setEdge r k x) := kept_modRope h

theorem kept_qSendStart {g j e} (h : Kept s0 s) : (qSendStart s g j e).Kept s0 := by
  dsimp only [qSendStart]
  split
  · exact StartRes.kept_fault h
  · refine kept_checked h (StartRes.kept_done (kept_setEdge (kept_each h (fun _ _ h => ?_))))
    split
    · exact h
    · exact kept_modShare (kept_wakeCluster h)

theorem kept_qRecvStart {g j e} (h : Kept s0 s) : (qRecvStart s g j e).Kept s0 := by
  unfold qRecvStart
  split
  · exact StartRes.kept_fault h
  · exact StartRes.kept_done (kept_setEdge (kept_modShare h))

theorem kept_qRelStart {g j e} (h : Kept s0 s) : (qRelStart s g j e).Kept s0 := by
  unfold qRelStart
  split
  · exact StartRes.kept_fault h
  · exact StartRes.kept_ite (StartRes.kept_done (kept_setEdge h)) (StartRes.kept_fault h)

theorem kept_narReqStart {site g j e} (h : Kept s0 s) : (narReqStart site s g j e).Kept s0 :=
  StartRes.kept_ite
    (StartRes.kept_fault h)
    (StartRes.kept_ite (StartRes.kept_later (kept_unitStops h)) (kept_submitted (kept_modClu h)))

theorem kept_millStart {op site g j e} (h : Kept s0 s) : (millStart op site s g j e).Kept s0 :=
  StartRes.kept_ite (StartRes.kept_fault h) (kept_submitted (kept_modClu (Kept.mk' h rfl)))

/-! ### Docket -/

theorem kept_wakeRope {rp} (h : Kept s0 s) : Kept s0 (s.wakeRope rp) := by
  unfold State.wakeRope
  split
  · exact kept_each h fun _ _ => kept_wakeCluster
  · exact h

theorem kept_visit {b} (h : Kept s0 s) : Kept s0 (s.visit b) := by
  dsimp only [State.visit]
  split
  · exact Kept.mk' h rfl
  · exact kept_unless
        (Kept.mk' h rfl)
        fun h =>
          kept_each
            (kept_bump
               (kept_bump
                  (kept_setReg (kept_setRope (kept_wakeRope (Kept.mk' (kept_each h fun _ _ => kept_modEntry) rfl))))))
            fun _ _ => kept_reval

theorem kept_nameDocket {g j r seq} (h : Kept s0 s) : Kept s0 (s.nameDocket g j r seq) := kept_modShare h

theorem kept_frameCommit {i j} (h : Kept s0 s) : Kept s0 (s.frameCommit i j) :=
  kept_ifThen (kept_setEntry h) kept_sequenceEnd

theorem kept_pendSamples {i n} (h : Kept s0 s) : KeptQ s0 (s.pendSamples i n) := KeptQ.mk (kept_freeBytes h).snd

theorem kept_writeRing {i bs} (h : Kept s0 s) : Kept s0 (s.writeRing i bs) :=
  kept_each h fun _ _ h => (kept_writePart h).fst

theorem kept_refuseStep {i lines} (h : Kept s0 s) : Kept s0 (s.refuseStep i lines) :=
  kept_faultStream (kept_each h fun _ _ h => (kept_readLine h).fst)

theorem kept_promote {i} (h : Kept s0 s) : Kept s0 (s.promote i) := by
  unfold State.promote
  split
  · exact h
  · refine kept_dropPend ?_
    split
    · exact h
    · exact kept_each h fun _ _ h => kept_ite (kept_modClu h) h

theorem kept_commitStep {rp x} (h : Kept s0 s) : Kept s0 (s.commitStep rp x) :=
  kept_ifThen
    (kept_reval
       (kept_modCtx
          (kept_modEntry
             (kept_ite
                (kept_ifThen
                   (kept_modEntry
                      (kept_promote
                         (kept_writeRing (kept_pendSamples (kept_each h fun _ _ h => (kept_writePart h).fst)).snd)))
                   kept_frameCommit)
                (kept_modEntry (kept_each h fun _ _ h => (kept_writePart h).fst))))))
    kept_urgency

theorem kept_resolveEntry {r seq k} (h : Kept s0 s) : Kept s0 (s.resolveEntry r seq k) :=
  kept_retireDone (kept_resolveWords (kept_modDocket h))

theorem kept_tryEntry {r seq k} (h : Kept s0 s) : Kept s0 (s.tryEntry r seq k) := by
  unfold State.tryEntry
  split
  · split
    · exact h
    · exact kept_ite
          h
          (kept_ite
             (kept_resolveEntry h)
             (kept_ite
                (kept_resolveEntry (kept_ite (kept_dropPend h) h))
                (kept_ite
                   h
                   (kept_ite (kept_resolveEntry (kept_refuseStep h)) (kept_resolveEntry (kept_commitStep h))))))
  · exact h

theorem kept_stMoveStart {load g j e} (h : Kept s0 s) : (stMoveStart load s g j e).Kept s0 := by
  dsimp only [stMoveStart]
  split
  · exact StartRes.kept_fault h
  · exact kept_checked
        h
        (StartRes.kept_ite
           (StartRes.kept_done (kept_writeShare (kept_readPart (kept_nameDocket h)).fst))
           (StartRes.kept_ite
              (StartRes.kept_done (kept_nameDocket h))
              (StartRes.kept_done (kept_modDocket (kept_nameDocket h)))))

theorem kept_ldgTakeStart {g j e} (h : Kept s0 s) : (ldgTakeStart s g j e).Kept s0 := by
  dsimp only [ldgTakeStart]
  split
  · exact StartRes.kept_fault h
  · refine kept_checked h ?_
    split
    · exact StartRes.kept_keep h
    · exact StartRes.kept_done
          (kept_retireDone (kept_modDocket (kept_modShare (kept_nameDocket (kept_writeShare h)))))

theorem kept_ldgDoneStart {g j e} (h : Kept s0 s) : (ldgDoneStart s g j e).Kept s0 := by
  dsimp only [ldgDoneStart]
  split
  · exact StartRes.kept_fault h
  · refine StartRes.kept_ite (StartRes.kept_fault h) ?_
    split
    · exact StartRes.kept_fault h
    · exact kept_checked
          h
          (StartRes.kept_ite
             (StartRes.kept_fault h)
             (StartRes.kept_later
                (kept_each
                   (kept_modShare (kept_each (kept_nameDocket h) fun _ _ => kept_modDocket))
                   fun _ _ => kept_tryEntry)))

/-! ### Outputs -/

theorem kept_afterUnbind {i} (h : Kept s0 s) : Kept s0 (s.afterUnbind i) := kept_ite (kept_closeUndrained h) h

theorem kept_discardRing {i} (h : Kept s0 s) : Kept s0 (s.discardRing i) := kept_reval (kept_bump (kept_modEntry h))

theorem kept_attach {i t} (h : Kept s0 s) : Kept s0 (s.attach i t) := by
  refine kept_ite h (kept_urgency (kept_boundCheck (kept_modEntry ?_)))
  split
  · exact kept_modAchan h
  · exact kept_modGroup h
  · exact h

theorem kept_dropBind {t} (h : Kept s0 s) : Kept s0 (s.dropBind t) := by
  unfold State.dropBind
  split
  · exact kept_freeGroup h
  · exact h

theorem kept_applyChange {c} (h : Kept s0 s) : Kept s0 (s.applyChange c) := by
  unfold State.applyChange
  split
  · exact kept_ite (kept_dropBind h) (kept_attach h)
  · exact kept_afterUnbind (kept_leaveOutput h)
  · exact kept_each (kept_ite (Kept.mk' h rfl) (kept_freeGroup (kept_modGroup h))) fun _ _ => kept_discardRing

theorem kept_applyQueue {n} (h : Kept s0 s) : Kept s0 (State.applyQueue n s) := by
  induction n generalizing s with
  | zero => exact h
  | succ n ih =>
    unfold State.applyQueue
    split
    · exact h
    · exact ih (Kept.mk' (kept_each (Kept.mk' h rfl) fun _ _ => kept_applyChange) rfl)

theorem kept_frameChanges (h : Kept s0 s) : Kept s0 s.frameChanges := kept_applyQueue h

theorem kept_applyDue {o} (h : Kept s0 s) : Kept s0 (s.applyDue o) :=
  kept_each (Kept.mk' h rfl) fun _ _ => kept_applyChange

theorem kept_takeRing {i} (h : Kept s0 s) : KeptP s0 (s.takeRing i) :=
  keptp_ite (KeptP.mk (kept_setEntry h)) (KeptP.mk (kept_modEntry (kept_readPart h).fst))

theorem kept_feedConv {i v n} (h : Kept s0 s) : KeptP s0 (s.feedConv i v n) := by
  induction n generalizing s v with
  | zero => exact KeptP.mk h
  | succ n ih => exact ih (kept_takeRing h).fst

theorem kept_drainSample {i rho v cap} (h : Kept s0 s) : KeptP s0 (s.drainSample i rho v cap) :=
  keptp_ite (KeptP.mk (kept_takeRing h).fst) (KeptP.mk (kept_feedConv h).fst)

theorem kept_afterDrain {i} (h : Kept s0 s) : Kept s0 (s.afterDrain i) := kept_urgency (kept_reval h)

theorem kept_putWord {c x} (h : Kept s0 s) : Kept s0 (s.putWord c x) := kept_modOut h

theorem kept_drainChannel {c} (h : Kept s0 s) : Kept s0 (s.drainChannel c) := by
  refine kept_unless (kept_applyDue h) (fun h => ?_)
  split
  · exact kept_putWord h
  · exact kept_afterDrain (kept_putWord (kept_modAchan (kept_drainSample h).fst))

theorem kept_drainSlot {g k} (h : Kept s0 s) : Kept s0 (s.drainSlot g k) := by
  refine kept_ite h ?_
  dsimp only
  split
  · exact kept_modGroup h
  · exact kept_ite (kept_modGroup h) (kept_afterDrain (kept_modGroup (kept_modGroup (kept_drainSample h).fst)))

theorem kept_sendFrame {o} (h : Kept s0 s) : Kept s0 (s.sendFrame o) :=
  kept_unless
    (kept_applyDue h)
    fun h =>
      kept_setBits
        (kept_bump (kept_bump (kept_setOut (kept_unless (kept_drainChannel (kept_drainChannel h)) kept_setOut))))

theorem kept_stopOutput {o discard} (h : Kept s0 s) : Kept s0 (s.stopOutput o discard) :=
  kept_each
    (kept_modOut
       (Kept.mk' (kept_each (kept_ite (kept_each h fun _ _ => kept_discardRing) h) fun _ _ => kept_leaveOutput) rfl))
    fun _ _ => kept_afterUnbind

theorem kept_execOutputDrain {target} (h : Kept s0 s) : KeptR s0 (execOutputDrain target s) := by
  refine KeptR.next ?_
  split
  · exact kept_drainChannel h
  · exact kept_drainSlot h

/-! ### Frame -/

theorem kept_refreshAllowances (h : Kept s0 s) : Kept s0 s.refreshAllowances := kept_each h fun _ _ => kept_modPart

theorem kept_sendGroup {g t0 F} (h : Kept s0 s) : Kept s0 (s.sendGroup g t0 F) :=
  kept_unless (kept_setGroup h) fun h => kept_unless (kept_each h fun _ _ => kept_queuePkt) kept_bump

theorem kept_dropLate (h : Kept s0 s) : Kept s0 s.dropLate := kept_each (kept_modNet h) fun _ _ => kept_bump

theorem kept_frameStart (h : Kept s0 s) : Kept s0 s.frameStart := by
  unfold State.frameStart
  refine kept_modTb (kept_refreshAllowances (kept_each (kept_frameChanges ?_) fun _ _ => kept_modPort)) rfl
  split
  · exact kept_each (kept_dropLate h) fun _ _ => kept_sendGroup
  · exact h

/-! ### Matrix -/

theorem kept_mxMulStart {g j e} (h : Kept s0 s) : (mxMulStart s g j e).Kept s0 :=
  kept_checked h (kept_checked h (StartRes.kept_done (kept_modShare h)))

theorem kept_mxLdStart {g j e} (h : Kept s0 s) : (mxLdStart s g j e).Kept s0 :=
  kept_checked h (kept_checked h (StartRes.kept_done (kept_modShare h)))

theorem kept_mxStStart {g j e} (h : Kept s0 s) : (mxStStart s g j e).Kept s0 :=
  kept_checked h (kept_checked h (StartRes.kept_done (kept_modShare (kept_roundings h).snd)))

theorem kept_mxZeroStart {g j e} (h : Kept s0 s) : (mxZeroStart s g j e).Kept s0 :=
  StartRes.kept_done (kept_modShare h)

/-! ### StreamEngine -/

theorem kept_crecAndSig {g j crec addr rec_ sig obj} (h : Kept s0 s) :
      Kept s0 (s.crecAndSig g j crec addr rec_ sig obj) :=
  kept_ifThen (kept_ite (kept_writeShare h) h) kept_syncAdd

theorem kept_faultServed {l} (h : Kept s0 s) : Kept s0 (s.faultServed l) := kept_each h fun _ _ => kept_faultStream

theorem kept_issueLine {n d} (h : Kept s0 s) : Kept s0 (s.issueLine n d) :=
  kept_ite
    (kept_modClu (kept_writeShare h))
    (kept_ite (kept_modClu (kept_readLine h).fst) (kept_modClu (kept_writeInLine h).fst))

theorem kept_landTxn {n t} (h : Kept s0 s) : Kept s0 (s.landTxn n t) := by
  dsimp only [State.landTxn]
  split
  · exact kept_writeShare (kept_modClu h)
  · exact kept_modClu h

theorem kept_landOldest {n} (h : Kept s0 s) : Kept s0 (s.landOldest n) := by
  unfold State.landOldest
  split
  · exact h
  · exact kept_landTxn h

theorem kept_grantLine {n} (h : Kept s0 s) : Kept s0 (s.grantLine n) := by
  refine kept_ite h ?_
  split
  · exact h
  · exact kept_issueLine h

theorem kept_issueAll {n id fuel} (h : Kept s0 s) : Kept s0 (s.issueAll n id fuel) := by
  induction fuel generalizing s with
  | zero => exact h
  | succ fuel ih => exact kept_ite (ih (kept_grantLine (kept_ite (kept_landOldest h) h))) h

theorem kept_landAll {n id} (h : Kept s0 s) : Kept s0 (s.landAll n id) := kept_each h fun _ _ => kept_landTxn

theorem kept_countDesc {n c} (h : Kept s0 s) : Kept s0 (s.countDesc n c) := kept_modCtx (kept_bump h)

theorem kept_endLists {n} (h : Kept s0 s) : Kept s0 (s.endLists n) :=
  kept_each (kept_modClu h) fun _ _ => kept_wordDone

theorem kept_advanceList {n l boundary} (h : Kept s0 s) : Kept s0 (s.advanceList n l boundary) :=
  kept_ifThen (kept_modClu h) kept_wordDone

theorem kept_fetch {site moves ev} (h : Kept s0 s) : Kept s0 (s.fetch site moves ev) := by
  refine kept_ite h ?_
  split
  · exact h
  · dsimp only
    split
    · exact kept_progFault (kept_endLists (kept_countDesc (kept_crecAndSig (kept_advanceList (kept_modClu h)))))
    · exact kept_each
          (kept_each (kept_lineEvents (kept_modClu (kept_advanceList (kept_modClu h)))) fun _ _ => kept_landOldest)
          fun _ _ => kept_grantLine

theorem kept_completeDesc {n id ev} (h : Kept s0 s) : Kept s0 (s.completeDesc n id ev) := by
  dsimp only [State.completeDesc]
  split
  · exact h
  · exact kept_ite
        h
        (kept_endLists
           (kept_countDesc
              (kept_crecAndSig
                 (kept_unless (kept_modClu (kept_landAll (kept_issueAll (kept_lineEvents h)))) kept_faultServed))))

/-! ### Mill -/

theorem kept_millRead {p A n} (h : Kept s0 s) : KeptP s0 (s.millRead p A n) := by
  refine keptp_foldl (KeptP.mk h) (fun _ _ h => KeptP.mk ?_)
  split
  · exact kept_bump (kept_readLine h.fst).fst
  · exact (kept_readLine h.fst).fst

theorem kept_millWrite {p d off bs} (h : Kept s0 s) : KeptP s0 (s.millWrite p d off bs) :=
  keptp_ite (KeptP.mk (kept_writePart h).fst) (KeptP.mk (kept_writeShare h))

theorem kept_millX {p d off n} (h : Kept s0 s) : KeptP s0 (s.millX p d off n) :=
  keptp_ite (KeptP.mk (kept_millRead h).fst) (KeptP.mk h)

theorem kept_gemvRows {p d a b} (h : Kept s0 s) : KeptP s0 (s.gemvRows p d a b) :=
  keptp_foldl
    (KeptP.mk (kept_millX h).fst)
    fun _ _ h => keptp_foldl (KeptP.mk (kept_millRead h.fst).fst) fun _ _ h => KeptP.mk (kept_millWrite h.fst).fst

theorem kept_gatherRows {p d a b} (h : Kept s0 s) : KeptP s0 (s.gatherRows p d a b) :=
  keptp_foldl (KeptP.mk h) fun _ _ h => KeptP.mk (kept_millWrite (kept_millRead h.fst).fst).fst

theorem kept_scatterRows {p d a b} (h : Kept s0 s) : KeptP s0 (s.scatterRows p d a b) :=
  keptp_foldl
    (KeptP.mk h)
    fun _ _ h =>
      keptp_foldl
        (KeptP.mk (kept_millX h.fst).fst)
        fun _ _ h =>
          keptp_ite (KeptP.mk (kept_writePart (kept_millRead h.fst).fst).fst) (KeptP.mk (kept_millRead h.fst).fst)

theorem kept_reduceRow {p d} (h : Kept s0 s) : KeptP s0 (s.reduceRow p d) :=
  KeptP.mk (kept_millWrite (keptp_foldl (KeptP.mk h) fun _ _ h => KeptP.mk (kept_millRead h.fst).fst).fst).fst

theorem kept_blockRows {p d a b} (h : Kept s0 s) : KeptP s0 (s.blockRows p d a b) :=
  keptp_foldl
    (KeptP.mk h)
    fun _ _ h =>
      keptp_ite (KeptP.mk (kept_millWrite (kept_millRead h.fst).fst).fst) (KeptP.mk (kept_millWrite h.fst).fst)

theorem kept_millRows {p d a b} (h : Kept s0 s) : KeptP s0 (s.millRows p d a b) := by
  refine keptp_ite (KeptP.mk h) ?_
  split
  · exact kept_gemvRows h
  · exact kept_gatherRows h
  · exact kept_scatterRows h
  · exact kept_reduceRow h
  · exact kept_blockRows h

theorem kept_completeMill {n d st bad} (h : Kept s0 s) : Kept s0 (s.completeMill n d st bad) := by
  unfold State.completeMill
  exact kept_wordDone (kept_modCtx (kept_bump (kept_crecAndSig (kept_ite h (kept_faultServed h)))))

theorem kept_millRouteStep {n} (h : Kept s0 s) : Kept s0 (s.millRouteStep n) := by
  unfold State.millRouteStep
  split
  · exact h
  · exact kept_ite
        h
        (kept_ite
           (kept_completeMill (kept_modClu (kept_wakeCluster h)))
           (kept_ite
              (kept_completeMill (kept_modClu (kept_wakeCluster h)))
              (kept_modClu (kept_modClu (kept_wakeCluster h)))))

theorem kept_grant {n ev} (h : Kept s0 s) : Kept s0 (s.grant n ev) := by
  refine kept_ite h ?_
  split
  · exact h
  · split
    · exact h
    · exact kept_ite
          (kept_modClu (kept_modClu (kept_lineEvents h)))
          (kept_ite
             (kept_progFault (kept_completeMill (kept_modClu (kept_modClu (kept_lineEvents h)))))
             (kept_ite
                (kept_progFault (kept_completeMill (kept_modClu (kept_modClu (kept_lineEvents h)))))
                (kept_modClu (kept_modClu (kept_lineEvents h)))))

theorem kept_expireGrant {n rows} (h : Kept s0 s) : Kept s0 (s.expireGrant n rows) := by
  unfold State.expireGrant
  split
  · exact h
  · exact kept_ite h (kept_modClu (kept_millRows h).fst)

theorem kept_finishMill {n} (h : Kept s0 s) : Kept s0 (s.finishMill n) := by
  unfold State.finishMill
  split
  · exact h
  · exact kept_ite h (kept_completeMill (kept_modClu (kept_millRows h).fst))

/-! ### Ports -/

theorem kept_drover {port kind dst payload} (h : Kept s0 s) : Kept s0 (s.drover port kind dst payload) :=
  kept_ite (kept_discardOn h) (kept_modNet h)

theorem kept_hello (h : Kept s0 s) : Kept s0 s.hello := kept_drover h

theorem kept_startDiscovery (h : Kept s0 s) : Kept s0 s.startDiscovery := kept_ite h (kept_modNet h)

theorem kept_setMaps {x y} (h : Kept s0 s) : Kept s0 (s.setMaps x y) := kept_setBits (kept_modNet h)

theorem kept_setWhole {ring v} (h : Kept s0 s) : Kept s0 (s.setWhole ring v) := by
  dsimp only [State.setWhole]
  split
  · exact kept_modNet h
  · exact kept_ite (kept_setMaps (kept_modNet h)) (kept_setMaps (kept_modNet h))

theorem kept_releaseHeld (h : Kept s0 s) : Kept s0 s.releaseHeld := kept_ite (kept_modNet h) h

theorem kept_owe {src spur vc size} (h : Kept s0 s) : Kept s0 (s.owe src spur vc size) := kept_modNet h

theorem kept_leaveRx {o} (h : Kept s0 s) : Kept s0 (s.leaveRx o) := by
  unfold State.leaveRx
  split
  · exact kept_owe h
  · exact h

theorem kept_closeSpur (h : Kept s0 s) : Kept s0 s.closeSpur :=
  kept_bump (kept_modNet (kept_each h fun _ _ => kept_leaveRx))

theorem kept_portUp {p} (h : Kept s0 s) : Kept s0 (s.portUp p) :=
  kept_ite
    h
    (kept_ite
       (kept_startDiscovery (kept_ifThen (kept_setBits (kept_modPort (kept_ite (kept_closeSpur h) h))) kept_modNet))
       (kept_ifThen
          (kept_ifThen (kept_setBits (kept_modPort (kept_ite (kept_closeSpur h) h))) kept_modNet)
          fun h => kept_releaseHeld (kept_hello h)))

theorem kept_portLeaves {p st} (h : Kept s0 s) : Kept s0 (s.portLeaves p st) :=
  kept_unless
    (kept_ifThen (kept_modPort h) kept_closeSpur)
    fun h => kept_ifThen (kept_setBits h) fun h => kept_startDiscovery (kept_setWhole h)

theorem kept_writeTxRate {p v} (h : Kept s0 s) : Kept s0 (s.writeTxRate p v) :=
  kept_ite h (kept_portLeaves (kept_modPort h))

/-! ### Registers -/

theorem kept_select {acc i} (h : Kept s0 s) : Kept s0 (s.select acc i) := Kept.mk' h rfl

theorem kept_afterRead {acc a} (h : Kept s0 s) : Kept s0 (s.afterRead acc a) := by
  refine kept_unless ?_ fun h => kept_ite (Kept.mk' h rfl) (Kept.mk' h rfl)
  split
  · exact Kept.mk' h rfl
  · exact kept_ite h (kept_setReg h)

theorem kept_readReg {acc a v t} (h : Kept s0 s) (e : s.readReg acc a = some (v, t)) : Kept s0 t := by
  obtain ⟨w, -, hw⟩ := Option.map_eq_some_iff.mp e
  cases hw
  exact kept_afterRead h

theorem kept_popCpl (h : Kept s0 s) : Kept s0 s.popCpl := kept_modI3c h

theorem kept_writeReg {acc a v} (h : Kept s0 s) : Kept s0 (s.writeReg acc a v) :=
  kept_ite
    (kept_select h)
    (kept_ite (kept_writeTxRate h) (kept_ite (kept_ite (kept_popCpl h) h) (kept_ite h (kept_setReg h))))

theorem kept_accessRead {via a} (h : Kept s0 s) : Kept s0 (s.accessRead via a) := by
  unfold State.accessRead
  split
  next v t e => exact kept_ite (Kept.mk' (kept_readReg h e) rfl) (Kept.mk' h rfl)
  next => exact Kept.mk' h rfl

theorem kept_accessWrite {via a v} (h : Kept s0 s) : Kept s0 (s.accessWrite via a v) := kept_ite (kept_writeReg h) h

/-! ### Nechesha -/

theorem kept_answer {r st results trunc} (h : Kept s0 s) : Kept s0 (s.answer r st results trunc) :=
  kept_settleFences (kept_reply h)

/-- Every command of this row of Table 18.3 keeps the state as it starts. -/
def CmdSpec.Keeps (sp : CmdSpec) : Prop := ∀ (s0 s : State) (r : Req), Kept s0 s → (sp.body s r).Kept s0

theorem kept_startCmd {sp r} (hsp : sp.Keeps) (h : Kept s0 s) : Kept s0 (s.startCmd sp r) := by
  have body := hsp s0 s r h
  unfold State.startCmd
  cases e : sp.body s r with
  | done t st res => rw [e] at body; exact kept_answer body
  | trunc t res => rw [e] at body; exact kept_answer body
  | wait t w => rw [e] at body; exact Kept.mk' body rfl
  | silent t => rw [e] at body; exact body

theorem kept_holdOrStart {sp r} (hsp : sp.Keeps) (h : Kept s0 s) : Kept s0 (s.holdOrStart sp r) :=
  kept_ite (kept_startCmd hsp h) (kept_ite (kept_answer h) (Kept.mk' h rfl))

theorem kept_takeCmd {op sp src hdr p lenOk rsvdOk} (hsp : ∀ c, sp = some c → c.Keeps) (h : Kept s0 s) :
    Kept s0 (s.takeCmd op sp src hdr p lenOk rsvdOk) := by
  have next : Kept s0 { s with nextCmd := s.nextCmd + 1 } := Kept.mk' h rfl
  unfold State.takeCmd
  cases sp with
  | none => exact kept_answer next
  | some c =>
    dsimp only
    split
    · exact kept_answer next
    · exact kept_holdOrStart (hsp c rfl) next

theorem kept_arrives {src} (h : Kept s0 s) : KeptO s0 (s.arrives src) := by
  unfold State.arrives
  split
  · exact kepto_ite KeptO.none (kepto_ite (KeptO.some (kept_setBits h)) (KeptO.some (kept_modI3c h)))
  · exact KeptO.some h

theorem kept_command {op sp src hdr p} (hsp : sp.Keeps) (h : Kept s0 s) :
    Kept s0 (s.command op sp src hdr p) := by
  unfold State.command
  split
  next => exact h
  next t e =>
    have arrived := (kept_arrives h).of t e
    exact kept_ite arrived (kept_ite (kept_takeCmd (by rintro c ⟨⟩; exact hsp) arrived) (Kept.mk' arrived rfl))

theorem kept_submitI3c {bytes} (h : Kept s0 s) : Kept s0 (s.submitI3c bytes) := by
  unfold State.submitI3c
  split
  next => exact h
  next t e =>
    have arrived := (kept_arrives h).of t e
    exact kept_ite arrived (Kept.mk' arrived rfl)

theorem kept_window {src res off} (h : Kept s0 s) : (s.window src res off).Kept s0 :=
  CmdRes.kept_ite (CmdRes.kept_done h) (CmdRes.kept_ite (CmdRes.kept_trunc h) (CmdRes.kept_done h))

theorem kept_keepResult {src op res} (h : Kept s0 s) : Kept s0 (s.keepResult src op res) := Kept.mk' h rfl

/-! ### InfoCmds -/

theorem keeps_identifySpec : identifySpec.Keeps := fun _ _ _ => CmdRes.kept_done

theorem kept_stageReportBody {r} (h : Kept s0 s) : (stageReportBody s r).Kept s0 := by
  unfold stageReportBody
  split
  · exact CmdRes.kept_done h
  · exact CmdRes.kept_ite (CmdRes.kept_done h) (CmdRes.kept_done h)

theorem keeps_stageReportSpec : stageReportSpec.Keeps := fun _ _ _ => kept_stageReportBody

theorem kept_floorPlanBody {r} (h : Kept s0 s) : (floorPlanBody s r).Kept s0 :=
  CmdRes.kept_ite (kept_window (kept_keepResult h)) (kept_window h)

theorem keeps_floorPlanSpec : floorPlanSpec.Keeps := fun _ _ _ => kept_floorPlanBody

theorem kept_readRegs {acc l} (h : Kept s0 s) : KeptP s0 (s.readRegs acc l) := by
  induction l generalizing s with
  | nil => exact KeptP.mk h
  | cons a l ih =>
    unfold State.readRegs
    split
    next => exact KeptP.mk h
    next v t e => exact KeptP.mk (ih (kept_readReg h e)).fst

theorem kept_readRegisterBody {r} (h : Kept s0 s) : (readRegisterBody s r).Kept s0 := by
  dsimp only [readRegisterBody]
  split
  · exact CmdRes.kept_done h
  · exact CmdRes.kept_done (kept_readRegs h).fst

theorem keeps_readRegisterSpec : readRegisterSpec.Keeps := fun _ _ _ => kept_readRegisterBody

theorem kept_writeRegisterBody {r} (h : Kept s0 s) : (writeRegisterBody s r).Kept s0 := by
  dsimp only [writeRegisterBody]
  split
  · exact CmdRes.kept_done h
  · exact CmdRes.kept_done (kept_each h fun _ _ => kept_writeReg)

theorem keeps_writeRegisterSpec : writeRegisterSpec.Keeps := fun _ _ _ => kept_writeRegisterBody

theorem kept_getCountersBody {r} (h : Kept s0 s) : (getCountersBody s r).Kept s0 := by
  refine CmdRes.kept_ite (CmdRes.kept_done h) ?_
  split
  · exact CmdRes.kept_ite (CmdRes.kept_done h) (CmdRes.kept_done h)
  · exact CmdRes.kept_done h

theorem keeps_getCountersSpec : getCountersSpec.Keeps := fun _ _ _ => kept_getCountersBody

theorem keeps_discoverSpec : discoverSpec.Keeps :=
  fun _ _ _ h => CmdRes.kept_wait (kept_ite h (kept_startDiscovery h))

theorem kept_setFabricQuotaBody {r} (h : Kept s0 s) : (setFabricQuotaBody s r).Kept s0 :=
  CmdRes.kept_ite
    (CmdRes.kept_done h)
    (CmdRes.kept_ite
       (CmdRes.kept_done (kept_modNet h))
       (CmdRes.kept_ite (CmdRes.kept_done (kept_modPart h)) (CmdRes.kept_done h)))

theorem keeps_setFabricQuotaSpec : setFabricQuotaSpec.Keeps := fun _ _ _ => kept_setFabricQuotaBody

/-! ### StreamCheck -/

theorem kept_layoutAt {p A} (h : Kept s0 s) : KeptP s0 (s.layoutAt p A) :=
  KeptP.mk (kept_readPart (kept_readPart h).fst).fst

/-! ### StreamCmds -/

theorem kept_openEntry {r a i} (h : Kept s0 s) : (s.openEntry r a i).Kept s0 :=
  CmdRes.kept_ite
    (CmdRes.kept_done (kept_readPart h).fst)
    (CmdRes.kept_ite
       (CmdRes.kept_done (kept_writeWholly (kept_readPart h).fst).fst)
       (CmdRes.kept_done (kept_setEntry (kept_writeWholly (kept_readPart h).fst).fst)))

theorem kept_openStreamBody {r} (h : Kept s0 s) : (openStreamBody s r).Kept s0 := by
  dsimp only [openStreamBody]
  split
  · exact CmdRes.kept_done h
  · refine CmdRes.kept_ite (CmdRes.kept_done (kept_layoutAt h).fst) ?_
    split
    · exact CmdRes.kept_done (kept_layoutAt h).fst
    · exact kept_openEntry (kept_layoutAt h).fst

theorem keeps_openStreamSpec : openStreamSpec.Keeps := fun _ _ _ => kept_openStreamBody

theorem kept_onStream {r f} (h : Kept s0 s) (hf : ∀ s i, Kept s0 s → (f s i).Kept s0) : (onStream r f s).Kept s0 :=
  CmdRes.kept_ite (CmdRes.kept_done h) (hf _ _ h)

theorem kept_parkBody {r} (h : Kept s0 s) : (parkBody s r).Kept s0 :=
  kept_onStream
    h
    fun _ _ h =>
      CmdRes.kept_ite (CmdRes.kept_wait (kept_modEntry h)) (CmdRes.kept_ite (CmdRes.kept_done h) (CmdRes.kept_done h))

theorem kept_unparkBody {r} (h : Kept s0 s) : (unparkBody s r).Kept s0 :=
  kept_onStream
    h
    fun _ _ h =>
      CmdRes.kept_ite
        (CmdRes.kept_done h)
        (CmdRes.kept_ite
           (CmdRes.kept_done h)
           (CmdRes.kept_ite (CmdRes.kept_done h) (CmdRes.kept_done (kept_urgency (kept_reval (kept_modEntry h))))))

theorem keeps_parkStreamSpec : parkStreamSpec.Keeps := fun _ _ _ => kept_parkBody

theorem keeps_unparkStreamSpec : unparkStreamSpec.Keeps := fun _ _ _ => kept_unparkBody

theorem kept_dropSteps {i} (h : Kept s0 s) : Kept s0 (s.dropSteps i) :=
  kept_each (Kept.mk' h rfl) fun _ _ h => kept_each h fun _ _ h => kept_ite (kept_resolveEntry h) h

theorem kept_sendSteward {charge op cmd tag move params} (h : Kept s0 s) :
      Kept s0 (s.sendSteward charge op cmd tag move params) := by
  unfold State.sendSteward
  exact kept_modNet h

theorem kept_releaseMove {c} (h : Kept s0 s) : Kept s0 (s.releaseMove c) := by
  unfold State.releaseMove
  split
  · exact kept_ite (Kept.mk' h rfl) (kept_sendSteward h)
  · exact h

theorem kept_closeAbort {i} (h : Kept s0 s) : Kept s0 (s.closeAbort i) :=
  kept_closeEntry
    (kept_finishWhere
       (kept_finishWhere
          (kept_endPark
             (kept_each (kept_dropChunks (kept_modEntry (kept_dropSteps h))) fun _ _ => kept_releaseMove))))

theorem kept_closeDrain {i} (h : Kept s0 s) : (s.closeDrain i).Kept s0 :=
  CmdRes.kept_ite
    (CmdRes.kept_done (kept_closeUndrained (kept_ite h (kept_startDraining h))))
    (CmdRes.kept_wait (kept_ite h (kept_startDraining h)))

theorem kept_closeBody {r} (h : Kept s0 s) : (closeBody s r).Kept s0 :=
  kept_onStream
    h
    fun _ _ h =>
      CmdRes.kept_ite
        (CmdRes.kept_done h)
        (CmdRes.kept_ite (CmdRes.kept_done (kept_closeAbort h)) (kept_closeDrain h))

theorem keeps_closeStreamSpec : closeStreamSpec.Keeps := fun _ _ _ => kept_closeBody

/-! ### OutputCmds -/

theorem kept_openGroup {p t b} (h : Kept s0 s) : Kept s0 (s.openGroup p t b) := by
  unfold State.openGroup
  split
  · exact kept_ite h (kept_setGroup h)
  · exact h

theorem kept_bindStream {r i word} (h : Kept s0 s) : (s.bindStream r i word).Kept s0 := by
  dsimp only [State.bindStream]
  split
  · exact CmdRes.kept_done h
  · split
    · exact CmdRes.kept_done h
    · split
      · exact CmdRes.kept_done (Kept.mk' (kept_openGroup h) rfl)
      · exact CmdRes.kept_ite (CmdRes.kept_done (kept_attach h)) (CmdRes.kept_done h)
      · exact CmdRes.kept_done h

theorem kept_unbindStream {i} (h : Kept s0 s) : Kept s0 (s.unbindStream i) := kept_ite h (Kept.mk' h rfl)

theorem kept_bindOutputBody {r} (h : Kept s0 s) : (bindOutputBody s r).Kept s0 :=
  CmdRes.kept_ite
    (CmdRes.kept_done h)
    (CmdRes.kept_ite
       (CmdRes.kept_done h)
       (CmdRes.kept_ite
          (CmdRes.kept_ite (CmdRes.kept_done h) (CmdRes.kept_done (kept_unbindStream h)))
          (kept_bindStream h)))

theorem keeps_bindOutputSpec : bindOutputSpec.Keeps := fun _ _ _ => kept_bindOutputBody

theorem kept_slotMaskBody {r} (h : Kept s0 s) : (slotMaskBody s r).Kept s0 :=
  CmdRes.kept_ite
    (CmdRes.kept_done h)
    (CmdRes.kept_ite
       (CmdRes.kept_ite
          (CmdRes.kept_done h)
          (CmdRes.kept_ite (CmdRes.kept_done h) (CmdRes.kept_done (Kept.mk' h rfl))))
       (CmdRes.kept_ite
          (CmdRes.kept_ite (CmdRes.kept_done h) (CmdRes.kept_done h))
          (CmdRes.kept_ite (CmdRes.kept_done h) (CmdRes.kept_done (Kept.mk' h rfl)))))

theorem keeps_slotMaskSpec : slotMaskSpec.Keeps := fun _ _ _ => kept_slotMaskBody

theorem kept_setTimebaseBody {r} (h : Kept s0 s) : (setTimebaseBody s r).Kept s0 :=
  CmdRes.kept_ite (CmdRes.kept_done h) (CmdRes.kept_done (kept_selectFrame (kept_selectSource h)))

theorem keeps_setTimebaseSpec : setTimebaseSpec.Keeps := fun _ _ _ => kept_setTimebaseBody

theorem kept_enableOutput {o p b} (h : Kept s0 s) : Kept s0 (s.enableOutput o p b) := kept_outCheck (kept_setOut h)

theorem kept_abortOutput {o} (h : Kept s0 s) : Kept s0 (s.abortOutput o) := kept_finishWhere (kept_stopOutput h)

theorem kept_aesOutBody {r} (h : Kept s0 s) : (aesOutBody s r).Kept s0 :=
  CmdRes.kept_ite
    (CmdRes.kept_done h)
    (CmdRes.kept_ite
       (CmdRes.kept_done h)
       (CmdRes.kept_ite
          (CmdRes.kept_ite (CmdRes.kept_done h) (CmdRes.kept_done (kept_enableOutput h)))
          (CmdRes.kept_ite
             (CmdRes.kept_done h)
             (CmdRes.kept_ite (CmdRes.kept_done (kept_abortOutput h)) (CmdRes.kept_wait (kept_modOut h))))))

theorem keeps_aesOutSpec : aesOutSpec.Keeps := fun _ _ _ => kept_aesOutBody

theorem kept_releaseInput {i} (h : Kept s0 s) : Kept s0 (s.releaseInput i) := kept_modAin h

theorem kept_aesInBody {r} (h : Kept s0 s) : (aesInBody s r).Kept s0 :=
  CmdRes.kept_ite
    (CmdRes.kept_done h)
    (CmdRes.kept_ite
       (CmdRes.kept_done h)
       (CmdRes.kept_ite
          (CmdRes.kept_done (kept_releaseInput h))
          (CmdRes.kept_ite
             (CmdRes.kept_done h)
             (CmdRes.kept_ite
                (CmdRes.kept_done h)
                (CmdRes.kept_ite (CmdRes.kept_done h) (CmdRes.kept_done (kept_modAin h)))))))

theorem keeps_aesInSpec : aesInSpec.Keeps := fun _ _ _ => kept_aesInBody

/-! ### Startup -/

theorem kept_setStage {n x} (h : Kept s0 s) : Kept s0 (s.setStage n x) := Kept.mk' h rfl

theorem kept_beginStage {n us} (h : Kept s0 s) : Kept s0 (s.beginStage n us) := kept_setStage h

theorem kept_seedCore {g} (h : Kept s0 s) : Kept s0 (s.seedCore g) := by
  unfold State.seedCore
  exact kept_modCore (kept_draw h) (fun _ => rfl)

theorem kept_readFuses (h : Kept s0 s) : Kept s0 s.readFuses := Kept.mk' h rfl

theorem kept_resetRates (h : Kept s0 s) : Kept s0 s.resetRates := kept_each h fun _ _ h => kept_ite h (kept_modPort h)

theorem kept_stageWork {n r} (h : Kept s0 s) : Kept s0 (s.stageWork n r) := by
  unfold State.stageWork
  split
  · exact kept_resetRates (Kept.mk' h rfl)
  · exact kept_readFuses h
  · exact kept_modI3c h
  · exact kept_each (kept_mem h (fun _ => rfl)) fun _ _ => kept_modChan
  · exact kept_each (kept_each h fun _ _ => kept_markFailed) fun _ _ => kept_seedCore
  · exact Kept.mk' h rfl
  · exact kept_each h fun _ _ h => kept_ite (kept_portUp h) (kept_ite h (kept_modPort h))
  · exact kept_startDiscovery (kept_modNet (Kept.mk' h rfl))

theorem kept_stageWritten {n} (h : Kept s0 s) : Kept s0 (s.stageWritten n) :=
  kept_ifThen (kept_setBits h) kept_raiseIbi

theorem kept_stageFails {n cause kind unit us marked} (h : Kept s0 s) :
      Kept s0 (s.stageFails n cause kind unit us marked) :=
  kept_stageWritten (Kept.mk' (kept_setStage h) rfl)

theorem kept_stopAll (h : Kept s0 s) : Kept s0 s.stopAll :=
  kept_each (kept_each h fun _ _ => kept_modClu) fun _ _ => kept_modChan

theorem kept_endFailed {n r cause kind unit} (h : Kept s0 s) : Kept s0 (s.endFailed n r cause kind unit) :=
  kept_stageFails (kept_each h fun _ _ => kept_markFailed)

theorem kept_powerOn (h : Kept s0 s) : Kept s0 s.powerOn := kept_beginStage (Kept.mk' h rfl)

/-! ### Units -/

theorem kept_sweep (h : Kept s0 s) : Kept s0 s.sweep := Kept.mk' h rfl

theorem kept_abortCmds {f} (h : Kept s0 s) : Kept s0 (s.abortCmds f) :=
  kept_sweep (kept_finishWhere (kept_finishWhere (kept_each h fun _ _ => kept_clearWork)))

theorem kept_abortDelayed {p} (h : Kept s0 s) : Kept s0 (s.abortDelayed p) :=
  kept_settleFences (kept_each (Kept.mk' h rfl) fun _ _ => kept_reply)

theorem kept_abortPartition {p} (h : Kept s0 s) : Kept s0 (s.abortPartition p) :=
  kept_abortCmds (kept_abortDelayed (kept_finishWhere h))

theorem kept_clearObjects {n} (h : Kept s0 s) : Kept s0 (s.clearObjects n) := kept_sync h (Tbl.wf_filter _ _ _)

theorem kept_createPart {p b salt} (h : Kept s0 s) : Kept s0 (s.createPart p b salt) :=
  kept_each (kept_setPart h) fun _ _ h => kept_clearObjects (kept_modClu h)

theorem kept_createBody {r} (h : Kept s0 s) : (createBody s r).Kept s0 := by
  dsimp only [createBody]
  split
  · exact CmdRes.kept_done h
  · exact CmdRes.kept_done (kept_createPart (keptq_ite (KeptQ.mk h) (KeptQ.mk (kept_draw h))).snd)

theorem keeps_createPartitionSpec : createPartitionSpec.Keeps := fun _ _ _ => kept_createBody

theorem kept_releaseAudio {p} (h : Kept s0 s) : Kept s0 (s.releaseAudio p) :=
  kept_groups (kept_each (kept_each h fun _ _ h => kept_ite (kept_abortOutput h) h) fun _ _ h =>
    kept_ite (kept_releaseInput h) h) (Tbl.wf_filter _ _ _)

theorem kept_unloadImages {p} (h : Kept s0 s) : Kept s0 (s.unloadImages p) := kept_images h (Tbl.wf_filter _ _ _)

theorem kept_destroyBody {r} (h : Kept s0 s) : (destroyBody s r).Kept s0 :=
  CmdRes.kept_ite
    (CmdRes.kept_done h)
    (CmdRes.kept_ite
       (CmdRes.kept_wait h)
       (CmdRes.kept_ite
          (CmdRes.kept_done h)
          (CmdRes.kept_wait (kept_modPart (kept_releaseAudio (kept_abortPartition h))))))

theorem keeps_destroyPartitionSpec : destroyPartitionSpec.Keeps := fun _ _ _ => kept_destroyBody

theorem kept_zeroChannel {c} (h : Kept s0 s) : Kept s0 (s.zeroChannel c) :=
  kept_mem (kept_exitRefresh (kept_wakeCluster h)) (Tbl.wf_filter _ _ _)

theorem kept_releaseCluster {n} (h : Kept s0 s) : Kept s0 (s.releaseCluster n) :=
  kept_clearObjects (kept_modClu (kept_each h fun _ _ => kept_zeroChannel))

theorem kept_destroyDone {p} (h : Kept s0 s) : Kept s0 (s.destroyDone p) :=
  kept_finishWhere (kept_parts (kept_unloadImages (kept_each h fun _ _ => kept_releaseCluster)) (Tbl.wf_erase _ _ _))

theorem kept_resetCore {g} (h : Kept s0 s) : Kept s0 (s.resetCore g) := kept_seedCore (kept_setCore h (fun _ => rfl))

theorem kept_resetCluster {n} (h : Kept s0 s) : Kept s0 (s.resetCluster n) :=
  kept_each (kept_each (kept_modClu h) fun _ _ => kept_completeMill) fun _ _ => kept_resetCore

theorem kept_retireAll {p} (h : Kept s0 s) : Kept s0 (s.retireAll p) := by
  refine kept_each h (fun _ _ h => ?_)
  split
  · exact kept_ite h (kept_ite (kept_finishWhere (kept_freeContext h)) (kept_completeRetire (kept_abortContext h)))
  · exact h

theorem kept_closeAll {p} (h : Kept s0 s) : Kept s0 (s.closeAll p) :=
  kept_each h fun _ _ h => kept_ite h (kept_ite (kept_setEntry h) (kept_ite h (kept_closeAbort h)))

theorem kept_dropPackets {p} (h : Kept s0 s) : Kept s0 (s.dropPackets p) := kept_modNet h

theorem kept_resetPartition {p} (h : Kept s0 s) : Kept s0 (s.resetPartition p) :=
  kept_dropPackets
    (kept_unloadImages (kept_releaseAudio (kept_closeAll (kept_retireAll (kept_abortPartition (kept_modPart h))))))

theorem kept_resetPartitionDone {p} (h : Kept s0 s) : Kept s0 (s.resetPartitionDone p) :=
  kept_each h fun _ _ h => kept_clearObjects (kept_resetCluster (kept_wakeCluster h))

theorem kept_resetUnitBody {r} (h : Kept s0 s) : (resetUnitBody s r).Kept s0 := by
  dsimp only [resetUnitBody]
  split
  · split
    · exact CmdRes.kept_done h
    · exact CmdRes.kept_wait (kept_resetCore (kept_modCore (kept_wakeCluster h) (fun _ => rfl)))
  · split
    · exact CmdRes.kept_done h
    · exact CmdRes.kept_wait (kept_resetCluster (kept_modClu (kept_wakeCluster h)))
  · exact CmdRes.kept_wait (kept_resetPartition h)
  · exact CmdRes.kept_done (Kept.mk' h rfl)
  · exact CmdRes.kept_done h

theorem keeps_resetUnitSpec : resetUnitSpec.Keeps := fun _ _ _ => kept_resetUnitBody

theorem kept_resetDone {cmd} (h : Kept s0 s) : Kept s0 (s.resetDone cmd) := by
  unfold State.resetDone
  split
  · exact h
  · split
    · exact kept_ite h (kept_finishCmd (kept_clearWork (kept_resetPartitionDone h)))
    · exact kept_finishCmd (kept_clearWork h)
    · exact h

theorem kept_markTest {kind u} (h : Kept s0 s) : Kept s0 (s.markTest kind u) := by
  dsimp only [State.markTest]
  split
  · exact kept_modCore (kept_wakeCluster h) (fun _ => rfl)
  · exact kept_modClu (kept_wakeCluster h)
  · exact kept_modClu (kept_wakeCluster h)
  · exact kept_modClu (kept_wakeCluster h)

theorem kept_selfTestBody {r} (h : Kept s0 s) : (selfTestBody s r).Kept s0 := by
  refine CmdRes.kept_ite (CmdRes.kept_done h) ?_
  split
  · exact CmdRes.kept_done h
  · exact CmdRes.kept_ite (CmdRes.kept_done h) (CmdRes.kept_wait (kept_markTest h))

theorem keeps_selfTestSpec : selfTestSpec.Keeps := fun _ _ _ => kept_selfTestBody

theorem kept_testedCore {g} (h : Kept s0 s) : Kept s0 (s.testedCore g) :=
  kept_seedCore (kept_each h fun _ _ => kept_modShare)

theorem kept_testLeaves {kind u} (h : Kept s0 s) : Kept s0 (s.testLeaves kind u) := by
  unfold State.testLeaves
  split
  · exact kept_testedCore h
  · exact h
  · exact kept_unless (kept_modClu (kept_each h fun _ _ => kept_testedCore)) kept_modClu
  · exact kept_zeroChannel h

theorem kept_testDone {cmd failed other} (h : Kept s0 s) : Kept s0 (s.testDone cmd failed other) := by
  unfold State.testDone
  split
  · exact h
  · split
    · exact kept_ifThen
          (kept_each (kept_testLeaves h) fun _ _ => kept_unitFailure)
          fun h => kept_finishCmd (kept_clearWork h)
    · exact h

/-! ### Security -/

theorem kept_toLane {r carry} (h : Kept s0 s) : (s.toLane r carry).Kept s0 :=
  CmdRes.kept_ite (CmdRes.kept_wait (Kept.mk' h rfl)) (CmdRes.kept_wait (Kept.mk' h rfl))

theorem kept_readEnv {p A} (h : Kept s0 s) : KeptP s0 (s.readEnv p A) :=
  keptp_ite
    (KeptP.mk h)
    (keptp_ite (KeptP.mk (kept_readPart h).fst) (KeptP.mk (kept_readPart (kept_readPart h).fst).fst))

/-! The checker, comparing a body with what it unfolds to, would run the check of an envelope. So the body is taken from an
equation between functions, and the reads and the check it makes are named before its cases are split. -/

theorem kept_verify {p A c} (h : Kept s0 s) : KeptP s0 (s.verify p A c) := by
  have env := (kept_readEnv (p := p) (A := A) h).fst
  generalize unfolded : @State.verify = body
  delta State.verify at unfolded
  subst unfolded
  dsimp only
  generalize s.readEnv p A = e at env ⊢
  generalize envCheck p A c e.2.1 e.2.2 = bad
  cases bad with
  | none => exact KeptP.mk env
  | some st => exact KeptP.mk (kept_bump env)

theorem kept_readChain {p A n} (h : Kept s0 s) : KeptP s0 (s.readChain p A n) :=
  keptp_ite (KeptP.mk h) (KeptP.mk (kept_readPart h).fst)

theorem kept_ownerKeyBody {r} (h : Kept s0 s) : (ownerKeyBody s r).Kept s0 :=
  CmdRes.kept_ite (CmdRes.kept_done h) (CmdRes.kept_ite (CmdRes.kept_done h) (kept_toLane h))

theorem kept_ownerKeyDone {part b} (h : Kept s0 s) : (s.ownerKeyDone part b).Kept s0 := by
  have checked : ∀ {t p A c}, Kept s0 t → KeptP s0 (State.verify t p A c) := kept_verify
  generalize unfolded : @State.ownerKeyDone = body
  delta State.ownerKeyDone at unfolded
  obtain ⟨verify, named⟩ : ∃ f, @State.verify = f := exists_eq'
  rw [named] at checked unfolded
  subst unfolded
  dsimp only
  generalize carriedKey b 80 = key
  cases key with
  | none => exact kept_modPart h
  | some k =>
    dsimp only
    split
    · exact CmdRes.kept_done (checked h)
    · exact CmdRes.kept_done (kept_modPart (checked h))

theorem keeps_ownerKeySpec : ownerKeySpec.Keeps := fun _ _ _ => kept_ownerKeyBody

theorem kept_packageBody {r} (h : Kept s0 s) : (packageBody s r).Kept s0 :=
  CmdRes.kept_ite (CmdRes.kept_done h) (CmdRes.kept_ite (CmdRes.kept_done h) (kept_toLane h))

theorem kept_packageDone {part b} (h : Kept s0 s) : (s.packageDone part b).Kept s0 := by
  have checked : ∀ {t p A c}, Kept s0 t → KeptP s0 (State.verify t p A c) := kept_verify
  generalize unfolded : @State.packageDone = body
  delta State.packageDone at unfolded
  obtain ⟨verify, named⟩ : ∃ f, @State.verify = f := exists_eq'
  rw [named] at checked unfolded
  subst unfolded
  dsimp only
  split
  · exact CmdRes.kept_done (checked (keptp_ite (KeptP.mk h) (kept_readPart h)).fst).fst
  · exact CmdRes.kept_done (kept_ifThen (checked (keptp_ite (KeptP.mk h) (kept_readPart h)).fst).fst kept_modPart)

theorem keeps_packageSpec : packageSpec.Keeps := fun _ _ _ => kept_packageBody

theorem kept_patchBody {r} (h : Kept s0 s) : (patchBody s r).Kept s0 :=
  CmdRes.kept_ite (CmdRes.kept_done h) (CmdRes.kept_ite (CmdRes.kept_done h) (kept_toLane h))

theorem kept_patchDone {part b} (h : Kept s0 s) : (s.patchDone part b).Kept s0 := by
  have checked : ∀ {t p A c}, Kept s0 t → KeptP s0 (State.verify t p A c) := kept_verify
  have chain : ∀ {p A n}, KeptP s0 (State.readChain s p A n) := kept_readChain h
  generalize unfolded : @State.patchDone = body
  delta State.patchDone at unfolded
  obtain ⟨verify, named⟩ : ∃ f, @State.verify = f := exists_eq'
  rw [named] at checked unfolded
  obtain ⟨readChain, named'⟩ : ∃ f, @State.readChain = f := exists_eq'
  rw [named'] at chain unfolded
  subst unfolded
  dsimp only
  split
  next t st e => exact CmdRes.kept_done (chain.of_eq e)
  next t k e =>
    have kept := chain.of_eq e
    split
    · exact CmdRes.kept_done (checked (keptp_ite (KeptP.mk kept) (kept_readPart kept)).fst).fst
    · exact CmdRes.kept_ite (CmdRes.kept_done (checked (keptp_ite (KeptP.mk kept) (kept_readPart kept)).fst).fst)
        (CmdRes.kept_done (Kept.mk' (checked (keptp_ite (KeptP.mk kept) (kept_readPart kept)).fst).fst rfl))

theorem keeps_patchSpec : patchSpec.Keeps := fun _ _ _ => kept_patchBody

theorem kept_attestCmd {r} (h : Kept s0 s) : (attestCmd s r).Kept s0 :=
  CmdRes.kept_ite (CmdRes.kept_done h) (CmdRes.kept_ite (kept_window h) (kept_toLane h))

theorem keeps_attestSpec : attestSpec.Keeps := fun _ _ _ => kept_attestCmd

theorem kept_signDone {src op b} (h : Kept s0 s) : (s.signDone src op b).Kept s0 :=
  kept_window (kept_keepResult (kept_bump h))

theorem kept_manifest {i nonce} (h : Kept s0 s) : KeptQ s0 (s.manifest i nonce) := by
  refine KeptQ.mk (KeptQ.snd ?_)
  split
  · exact keptq_ite
        (KeptQ.mk (keptq_ite (kept_freeBytes h) (KeptQ.mk h)).snd)
        (kept_freeBytes (keptq_ite (kept_freeBytes h) (KeptQ.mk h)).snd)
  · exact kept_freeBytes (keptq_ite (kept_freeBytes h) (KeptQ.mk h)).snd

theorem kept_provenanceCmd {r} (h : Kept s0 s) : (provenanceCmd s r).Kept s0 :=
  CmdRes.kept_ite
    (kept_window h)
    (CmdRes.kept_ite (CmdRes.kept_done h) (CmdRes.kept_ite (CmdRes.kept_done h) (kept_toLane h)))

theorem keeps_provenanceSpec : provenanceSpec.Keeps := fun _ _ _ => kept_provenanceCmd

theorem kept_hashFrame {i} (h : Kept s0 s) : Kept s0 (s.hashFrame i) := by
  unfold State.hashFrame
  split
  · exact h
  · exact kept_modEntry h

theorem kept_unlockBody {r} (h : Kept s0 s) : (unlockBody s r).Kept s0 := by
  dsimp only [unlockBody]
  split
  · exact CmdRes.kept_ite (CmdRes.kept_done (Kept.mk' h rfl)) (kept_toLane (Kept.mk' h rfl))
  · refine CmdRes.kept_ite (CmdRes.kept_done (Kept.mk' h rfl)) ?_
    split
    · exact CmdRes.kept_done (Kept.mk' h rfl)
    · exact kept_toLane (Kept.mk' h rfl)
  · exact CmdRes.kept_done h

theorem kept_newChallenge (h : Kept s0 s) : s.newChallenge.Kept s0 :=
  CmdRes.kept_ite (CmdRes.kept_done h) (CmdRes.kept_done (Kept.mk' (kept_draw (kept_draw h)) rfl))

theorem kept_unlock {part b} (h : Kept s0 s) : (s.unlock part b).Kept s0 := by
  have checked : ∀ {t p A c}, Kept s0 t → KeptP s0 (State.verify t p A c) := kept_verify
  have chain : ∀ {p A n}, KeptP s0 (State.readChain s p A n) := kept_readChain h
  generalize unfolded : @State.unlock = body
  delta State.unlock at unfolded
  obtain ⟨verify, named⟩ : ∃ f, @State.verify = f := exists_eq'
  rw [named] at checked unfolded
  obtain ⟨readChain, named'⟩ : ∃ f, @State.readChain = f := exists_eq'
  rw [named'] at chain unfolded
  subst unfolded
  dsimp only
  split
  next t st e => exact CmdRes.kept_done (chain.of_eq e)
  next t k e =>
    split
    · exact CmdRes.kept_done (checked (chain.of_eq e)).fst
    · exact CmdRes.kept_done (Kept.mk' (checked (chain.of_eq e)).fst rfl)

theorem kept_unlockDone {part b} (h : Kept s0 s) : (s.unlockDone part b).Kept s0 :=
  CmdRes.kept_ite (kept_newChallenge h) (kept_unlock h)

theorem keeps_unlockSpec : unlockSpec.Keeps := fun _ _ _ => kept_unlockBody

/-! ### Tally -/

theorem kept_boundary {g} (h : Kept s0 s) : Kept s0 (s.boundary g) :=
  kept_each h fun _ _ h => kept_ite (kept_modShare h) h

theorem kept_starve {g j} (h : Kept s0 s) : Kept s0 (s.starve g j) := by
  dsimp only [State.starve]
  split
  · exact h
  · split
    · exact h
    · exact kept_ite h (kept_unless (kept_modShare h) fun h => kept_raiseEvent (kept_bump (kept_modCtx h)))

/-! ### Contexts -/

theorem kept_loadBody {r} (h : Kept s0 s) : (loadBody s r).Kept s0 := by
  dsimp only [loadBody]
  split
  · refine CmdRes.kept_ite (CmdRes.kept_done h) ?_
    split
    · exact CmdRes.kept_done (kept_readPart h).fst
    · exact kept_toLane (kept_readPart h).fst
  · exact CmdRes.kept_ite
        (CmdRes.kept_done h)
        (CmdRes.kept_ite (CmdRes.kept_done h) (CmdRes.kept_done (kept_setImage h)))
  · exact CmdRes.kept_done h

theorem keeps_loadImageSpec : loadImageSpec.Keeps := fun _ _ _ => kept_loadBody

theorem kept_loadDone {part b} (h : Kept s0 s) : (s.loadDone part b).Kept s0 := by
  dsimp only [State.loadDone]
  split
  · exact CmdRes.kept_done (kept_readPart h).fst
  · split
    · exact CmdRes.kept_done (keptp_ite (kept_verify (kept_readPart h).fst) (KeptP.mk (kept_readPart h).fst)).fst
    · exact CmdRes.kept_done (keptp_ite (kept_verify (kept_readPart h).fst) (KeptP.mk (kept_readPart h).fst)).fst
    · exact CmdRes.kept_done
          (kept_setImage (keptp_ite (kept_verify (kept_readPart h).fst) (KeptP.mk (kept_readPart h).fst)).fst)

theorem kept_readImage {x} (h : Kept s0 s) : KeptP s0 (s.readImage x) := KeptP.mk (kept_readPart h).fst

theorem kept_admitBody {r} (h : Kept s0 s) : (admitBody s r).Kept s0 := by
  refine CmdRes.kept_ite (CmdRes.kept_done h) ?_
  split
  · exact CmdRes.kept_done h
  · dsimp only
    split
    · exact CmdRes.kept_done (kept_readImage h).fst
    · exact kept_toLane (kept_readImage h).fst

theorem keeps_admitContextSpec : admitContextSpec.Keeps := fun _ _ _ => kept_admitBody

theorem kept_prepareShare {b c x i e j} (h : Kept s0 s) : Kept s0 (s.prepareShare b c x i e j) :=
  kept_setShare (kept_wakeCluster h)

theorem kept_admitCtx {p i c x b params} (h : Kept s0 s) : Kept s0 (s.admitCtx p i c x b params) :=
  kept_setCtx (kept_each (kept_each h fun _ _ => kept_prepareShare) fun _ _ h => kept_syncSet (kept_syncSet h))

theorem kept_admitDone {part b} (h : Kept s0 s) : (s.admitDone part b).Kept s0 := by
  dsimp only [State.admitDone]
  split
  · exact CmdRes.kept_done h
  · split
    · exact CmdRes.kept_done (kept_readImage h).fst
    · refine CmdRes.kept_ite
          (CmdRes.kept_done (kept_readImage h).fst)
          (CmdRes.kept_ite (CmdRes.kept_done (kept_readImage h).fst) ?_)
      split
      · exact CmdRes.kept_done (kept_readImage h).fst
      · exact CmdRes.kept_wait (kept_admitCtx (kept_readImage h).fst)

theorem kept_prepared {c} (h : Kept s0 s) : Kept s0 (s.prepared c) := by
  unfold State.prepared
  split
  · exact h
  · exact kept_ite h (kept_each (kept_modCtx (kept_each h fun _ _ => kept_modShare)) fun _ _ => kept_finishCmd)

theorem kept_onContext {r f} (h : Kept s0 s) (hf : ∀ s c x, Kept s0 s → (f s c x).Kept s0) :
    (onContext f s r).Kept s0 := by
  refine CmdRes.kept_ite (CmdRes.kept_done h) ?_
  split
  · exact CmdRes.kept_ite (hf _ _ _ h) (CmdRes.kept_done h)
  · exact CmdRes.kept_done h

theorem kept_setSharesBody {r} (h : Kept s0 s) : (setSharesBody s r).Kept s0 := by
  unfold setSharesBody
  split
  · exact CmdRes.kept_done h
  · exact kept_onContext h fun _ _ _ h => CmdRes.kept_done (kept_modCtx h)

theorem keeps_setSharesSpec : setSharesSpec.Keeps := fun _ _ _ => kept_setSharesBody

theorem kept_markRetiring {c} (h : Kept s0 s) : Kept s0 (s.markRetiring c) := kept_modCtx h

theorem kept_retireAbort {c} (h : Kept s0 s) : Kept s0 (s.retireAbort c) :=
  kept_completeRetire (kept_abortContext (kept_markRetiring h))

theorem kept_retireBody {r} (h : Kept s0 s) : (retireBody s r).Kept s0 :=
  CmdRes.kept_ite
    (CmdRes.kept_done h)
    (kept_onContext
       h
       fun _ _ _ h =>
         CmdRes.kept_ite
           (CmdRes.kept_done (kept_completeRetire h))
           (CmdRes.kept_ite (CmdRes.kept_done (kept_retireAbort h)) (CmdRes.kept_wait (kept_markRetiring h))))

theorem keeps_retireContextSpec : retireContextSpec.Keeps := fun _ _ _ => kept_retireBody

theorem kept_execQuiescent {ctx} (h : Kept s0 s) : KeptR s0 (execQuiescent ctx s) := by
  refine KeptR.next ?_
  split
  · exact kept_ite (kept_completeRetire h) h
  · exact h

theorem kept_execRetireLimitExpiry {ctx} (h : Kept s0 s) : KeptR s0 (execRetireLimitExpiry ctx s) := by
  refine KeptR.next ?_
  split
  · exact kept_ite h (kept_completeRetire (kept_abortContext h))
  · exact h

/-! ### ConvOps -/

theorem kept_streamStatus {g j st} (h : Kept s0 s) : Kept s0 (s.streamStatus g j st) := by
  unfold State.streamStatus
  split
  · exact h
  · exact kept_each h fun _ _ => kept_faultStream

theorem kept_withLoom {g j a u k} (h : Kept s0 s) (hk : ∀ d, (k d).Kept s0) : (withLoom s g j a u k).Kept s0 :=
  kept_checked h (StartRes.kept_ite (StartRes.kept_fault h) (StartRes.kept_ite (StartRes.kept_fault (kept_streamStatus h))
    (StartRes.kept_ite (StartRes.kept_fault (kept_streamStatus h)) (hk _))))

theorem kept_countEmpty {g} (h : Kept s0 s) : Kept s0 (s.countEmpty g) := kept_bump h

theorem kept_expandStart {u g j e} (h : Kept s0 s) : (expandStart u s g j e).Kept s0 :=
  kept_withLoom
    h
    fun _ =>
      StartRes.kept_ite
        (StartRes.kept_done (kept_bump (kept_countEmpty (kept_modShare h))))
        (StartRes.kept_ite
           (StartRes.kept_fault h)
           (kept_checked h (StartRes.kept_done (kept_bump (kept_bump (kept_modShare h))))))

theorem kept_dwConvStart {g j e} (h : Kept s0 s) : (dwConvStart s g j e).Kept s0 :=
  kept_checked
    h
    (kept_withLoom
       h
       fun _ =>
         StartRes.kept_ite
           (StartRes.kept_done (kept_countEmpty h))
           (kept_checked h (StartRes.kept_done (kept_modShare h))))

theorem kept_poolStart {max_ g j e} (h : Kept s0 s) : (poolStart max_ s g j e).Kept s0 :=
  kept_checked
    h
    (kept_withLoom
       h
       fun _ =>
         StartRes.kept_ite
           (StartRes.kept_done (kept_countEmpty h))
           (kept_checked h (StartRes.kept_done (kept_modShare h))))

theorem kept_gpoolStart {g j e} (h : Kept s0 s) : (gpoolStart s g j e).Kept s0 :=
  kept_checked h (kept_withLoom h fun _ => kept_checked h (StartRes.kept_done (kept_modShare h)))

theorem kept_segDecodeStart {g j e} (h : Kept s0 s) : (segDecodeStart s g j e).Kept s0 :=
  kept_checked h (kept_checked h (StartRes.kept_done (kept_modShare h)))

theorem kept_segSuppressStart {g j e} (h : Kept s0 s) : (segSuppressStart s g j e).Kept s0 :=
  kept_checked h (kept_checked h (StartRes.kept_done (kept_modShare h)))

/-! ### Lane -/

theorem CmdRes.kept_of_some {a r : CmdRes} (h : a.Kept s0) (e : some a = some r) : r.Kept s0 := Option.some.inj e ▸ h

theorem kept_laneResult {c b r} (h : Kept s0 s) (e : s.laneResult c b = some r) : r.Kept s0 := by
  unfold State.laneResult at e
  split at e
  · exact CmdRes.kept_of_some (kept_loadDone h) e
  · exact CmdRes.kept_of_some (kept_admitDone h) e
  · exact CmdRes.kept_of_some (kept_signDone h) e
  · exact CmdRes.kept_of_some (kept_packageDone h) e
  · exact CmdRes.kept_of_some (kept_ownerKeyDone h) e
  · exact CmdRes.kept_of_some (kept_patchDone h) e
  · split at e
    · exact CmdRes.kept_of_some (kept_signDone (kept_manifest h).snd) e
    · cases e
  · exact CmdRes.kept_of_some (kept_unlockDone h) e
  · cases e

theorem kept_laneEnds {c r} (h : CmdRes.Kept s0 r) : Kept s0 (laneEnds c r) := by
  cases r with
  | done t st res => exact kept_finishCmd h
  | trunc t res => exact kept_settleFences (kept_reply (Kept.mk' h rfl))
  | wait t w => exact Kept.mk' h rfl
  | silent t => exact Kept.mk' h rfl

theorem kept_setLane {provenance l} (h : Kept s0 s) : Kept s0 (s.setLane provenance l) :=
  kept_ite (Kept.mk' h rfl) (Kept.mk' h rfl)

theorem kept_laneDone {provenance} (h : Kept s0 s) : Kept s0 (s.laneDone provenance) := by
  unfold State.laneDone
  split
  · exact kept_setLane h
  · split
    · split
      next => exact h
      next r e => exact kept_setLane (kept_laneEnds (kept_laneResult h e))
    · exact kept_setLane h

/-! ### MemoryCmds -/

theorem kept_writeMemoryBody {r} (h : Kept s0 s) : (writeMemoryBody s r).Kept s0 := by
  refine CmdRes.kept_ite (CmdRes.kept_done h) ?_
  split
  · exact CmdRes.kept_done h
  · exact CmdRes.kept_ite
        (CmdRes.kept_ite (CmdRes.kept_done (kept_writePart h).fst) (CmdRes.kept_done (kept_writeWholly h).fst))
        (CmdRes.kept_wait h)

theorem keeps_writeMemorySpec : writeMemorySpec.Keeps := fun _ _ _ => kept_writeMemoryBody

theorem kept_writeArrives {port src b} (h : Kept s0 s) : Kept s0 (s.writeArrives port src b) := by
  dsimp only [State.writeArrives]
  split
  · exact kept_discardOn h
  · split
    · exact kept_ite
          (kept_discardOn h)
          (kept_ite (kept_finishCmd (kept_writePart h).fst) (Kept.mk' (kept_writePart h).fst rfl))
    · exact h

theorem kept_copyIn {p e n off d} (h : Kept s0 s) : KeptP s0 (s.copyIn p e n off d) := by
  induction n generalizing s off d with
  | zero => exact KeptP.mk h
  | succ n ih =>
    unfold State.copyIn
    refine keptp_ite (KeptP.mk h) ?_
    split
    · exact KeptP.mk h
    · exact KeptP.mk (ih (kept_writePart h).fst).fst

theorem kept_copyArrives {port src b} (h : Kept s0 s) : Kept s0 (s.copyArrives port src b) := by
  dsimp only [State.copyArrives]
  split
  · exact kept_discardOn h
  · exact kept_ite (kept_discardOn h) (kept_modEntry (kept_copyIn h).fst)

theorem kept_writeDataPacket {port src vc b} (h : Kept s0 s) : Kept s0 (s.writeDataPacket port src vc b) :=
  kept_ite (kept_copyArrives h) (kept_writeArrives h)

theorem kept_readUntil {p A n} (h : Kept s0 s) : KeptP s0 (s.readUntil p A n) := by
  refine KeptP.mk (KeptP.fst (keptp_foldl (KeptP.mk h) (fun _ _ h => ?_)))
  split
  · exact h
  · exact KeptP.mk (kept_readLine h.fst).fst

theorem kept_sendReadData {r n off d} (h : Kept s0 s) : Kept s0 (s.sendReadData r n off d) := by
  induction n generalizing s off d with
  | zero => exact h
  | succ n ih => exact kept_ite h (ih (kept_queuePkt h))

theorem kept_readMemoryBody {r} (h : Kept s0 s) : (readMemoryBody s r).Kept s0 :=
  CmdRes.kept_ite
    (CmdRes.kept_done h)
    (CmdRes.kept_ite
       (CmdRes.kept_done h)
       (CmdRes.kept_ite
          (CmdRes.kept_done h)
          (CmdRes.kept_ite
             (CmdRes.kept_done (kept_readUntil h).fst)
             (CmdRes.kept_ite
                (CmdRes.kept_done (kept_readUntil h).fst)
                (CmdRes.kept_wait (kept_sendReadData (kept_readUntil h).fst))))))

theorem keeps_readMemorySpec : readMemorySpec.Keeps := fun _ _ _ => kept_readMemoryBody

theorem kept_fillMemoryBody {r} (h : Kept s0 s) : (fillMemoryBody s r).Kept s0 := by
  dsimp only [fillMemoryBody]
  split
  · exact CmdRes.kept_done h
  · exact CmdRes.kept_done (kept_writeWholly h).fst

theorem keeps_fillMemorySpec : fillMemorySpec.Keeps := fun _ _ _ => kept_fillMemoryBody

theorem kept_signalSyncBody {r} (h : Kept s0 s) : (signalSyncBody s r).Kept s0 :=
  CmdRes.kept_ite
    (CmdRes.kept_done h)
    (CmdRes.kept_ite (CmdRes.kept_done h) (CmdRes.kept_done (kept_ite (kept_syncSet h) (kept_syncAdd h))))

theorem keeps_signalSyncSpec : signalSyncSpec.Keeps := fun _ _ _ => kept_signalSyncBody

theorem kept_waitSyncBody {r} (h : Kept s0 s) : (waitSyncBody s r).Kept s0 :=
  CmdRes.kept_ite
    (CmdRes.kept_done h)
    (CmdRes.kept_ite (CmdRes.kept_done h) (CmdRes.kept_ite (CmdRes.kept_done h) (CmdRes.kept_wait (Kept.mk' h rfl))))

theorem keeps_waitSyncSpec : waitSyncSpec.Keeps := fun _ _ _ => kept_waitSyncBody

theorem kept_syncTimeout {id} (h : Kept s0 s) : Kept s0 (s.syncTimeout id) := by
  unfold State.syncTimeout
  split
  · exact h
  · split
    · exact kept_ite (kept_finishCmd (Kept.mk' h rfl)) h
    · exact h

theorem kept_fenceBody {r} (h : Kept s0 s) : (fenceBody s r).Kept s0 :=
  CmdRes.kept_ite (CmdRes.kept_done h) (CmdRes.kept_wait h)

theorem keeps_fenceSpec : fenceSpec.Keeps := fun _ _ _ => kept_fenceBody

theorem kept_execWriteDataTimeout {cmd} (h : Kept s0 s) : KeptR s0 (execWriteDataTimeout cmd s) := by
  refine KeptR.next ?_
  split
  · split
    · exact kept_finishCmd h
    · exact h
  · exact h

/-! ### Moves -/

theorem kept_readRuns {p runs} (h : Kept s0 s) : KeptP s0 (s.readRuns p runs) :=
  keptp_foldl (KeptP.mk h) fun _ _ h => KeptP.mk (kept_readPart h.fst).fst

theorem kept_freeMarks {n} (h : Kept s0 s) : KeptQ s0 (State.freeMarks n s) := by
  induction n generalizing s with
  | zero => exact KeptQ.mk h
  | succ n ih => exact KeptQ.mk (ih (kept_draw h)).snd

theorem kept_openMoved {i f} (h : Kept s0 s) : Kept s0 (s.openMoved i f) := by
  unfold State.openMoved
  exact kept_modEntry (kept_freeMarks h).snd

theorem kept_feedbackCheck {p A chain} (h : Kept s0 s) : KeptP s0 (s.feedbackCheck p A chain) := by
  unfold State.feedbackCheck
  split
  · exact KeptP.mk h
  · exact KeptP.mk (kept_layoutAt h).fst

theorem kept_movedCheck {i} (h : Kept s0 s) : KeptP s0 (s.movedCheck i) := kept_feedbackCheck h

theorem kept_freeReserved {i} (h : Kept s0 s) : Kept s0 (s.freeReserved i) := kept_modEntry h

theorem kept_onSteward {r f} (h : Kept s0 s) (hf : ∀ s d, Kept s0 s → (f s d).Kept s0) :
    (onSteward f s r).Kept s0 := by
  unfold onSteward
  split
  · exact CmdRes.kept_done h
  · exact CmdRes.kept_ite (hf _ _ h) (CmdRes.kept_done h)

theorem kept_moveReserveBody {r} (h : Kept s0 s) : (moveReserveBody s r).Kept s0 := by
  refine kept_onSteward h (fun _ _ h => ?_)
  dsimp only
  split
  · exact CmdRes.kept_done h
  · exact CmdRes.kept_done (kept_setEntry h)

theorem keeps_moveReserveSpec : moveReserveSpec.Keeps := fun _ _ _ => kept_moveReserveBody

theorem kept_moveOpenBody {r} (h : Kept s0 s) : (moveOpenBody s r).Kept s0 := by
  refine kept_onSteward h fun s d h => ?_
  dsimp only
  split
  · exact CmdRes.kept_done h
  · refine CmdRes.kept_ite (CmdRes.kept_done (kept_freeReserved h)) ?_
    refine CmdRes.kept_ite (CmdRes.kept_done (kept_freeReserved h)) ?_
    refine CmdRes.kept_ite (CmdRes.kept_done (kept_freeReserved h)) ?_
    split
    next t st e => exact CmdRes.kept_done (kept_freeReserved ((kept_movedCheck h).of_eq e))
    next t e => exact CmdRes.kept_done (kept_openMoved ((kept_movedCheck h).of_eq e))

theorem keeps_moveOpenSpec : moveOpenSpec.Keeps := fun _ _ _ => kept_moveOpenBody

theorem kept_moveReleaseBody {r} (h : Kept s0 s) : (moveReleaseBody s r).Kept s0 := by
  refine kept_onSteward h (fun _ _ h => ?_)
  dsimp only
  split
  · exact CmdRes.kept_done h
  · exact CmdRes.kept_done (kept_freeReserved h)

theorem keeps_moveReleaseSpec : moveReleaseSpec.Keeps := fun _ _ _ => kept_moveReleaseBody

theorem kept_inPlaceChecks {r i} (h : Kept s0 s) : KeptP s0 (s.inPlaceChecks r i) := by
  refine keptp_ite (KeptP.mk h) ?_
  split
  · exact KeptP.mk h
  · split
    next t st e => exact KeptP.mk ((kept_feedbackCheck h).of_eq e)
    next t e =>
      have checked := (kept_feedbackCheck h).of_eq e
      exact keptp_ite (KeptP.mk checked) (keptp_ite (KeptP.mk checked) (KeptP.mk checked))

theorem kept_moveInPlace {r i} (h : Kept s0 s) : (s.moveInPlace r i).Kept s0 := by
  dsimp only [State.moveInPlace]
  split
  next t st e => exact CmdRes.kept_done ((kept_inPlaceChecks h).of_eq e)
  next t e =>
    have checked := (kept_inPlaceChecks h).of_eq e
    have read {A n} : Kept s0 (if newState r.p then t.readPart (s.part r.hdr.part.val) .normal A n else (t, [], [])).1 :=
      (keptp_ite (kept_readPart checked) (KeptP.mk checked)).fst
    exact CmdRes.kept_ite (CmdRes.kept_done read)
      (CmdRes.kept_ite (CmdRes.kept_done (keptp_ite (kept_writeWholly read) (KeptP.mk read)).fst)
        (CmdRes.kept_done (kept_modEntry (keptp_ite (kept_writeWholly read) (KeptP.mk read)).fst)))

theorem kept_moveAway {i} (h : Kept s0 s) : Kept s0 (s.moveAway i) :=
  kept_ifThen (kept_startDraining (kept_modEntry h)) kept_closeUndrained

theorem kept_moveLocal {r i q} (h : Kept s0 s) : (s.moveLocal r i q).Kept s0 := by
  refine CmdRes.kept_ite (CmdRes.kept_done h) ?_
  split
  · exact CmdRes.kept_done h
  · refine CmdRes.kept_ite (CmdRes.kept_done (kept_readRuns h).fst) ?_
    refine CmdRes.kept_ite (CmdRes.kept_done (kept_freeReserved (kept_writeAll (kept_setEntry (kept_readRuns h).fst)).fst)) ?_
    split
    next t st e =>
      have moved := (kept_movedCheck (kept_writeAll (kept_setEntry (kept_readRuns h).fst)).fst).of_eq e
      exact CmdRes.kept_done (kept_freeReserved moved)
    next t e =>
      have moved := (kept_movedCheck (kept_writeAll (kept_setEntry (kept_readRuns h).fst)).fst).of_eq e
      exact CmdRes.kept_done (kept_moveAway (kept_modEntry (kept_openMoved moved)))

theorem kept_moveRemote {r i} (h : Kept s0 s) : (s.moveRemote r i).Kept s0 :=
  CmdRes.kept_wait (kept_sendSteward (kept_modEntry h))

theorem kept_moveStreamBody {r} (h : Kept s0 s) : (moveStreamBody s r).Kept s0 := by
  refine CmdRes.kept_ite (CmdRes.kept_done h) ?_
  split
  · exact CmdRes.kept_done h
  · exact CmdRes.kept_ite (kept_moveInPlace h) (CmdRes.kept_ite (kept_moveLocal h) (kept_moveRemote h))

theorem keeps_moveStreamSpec : moveStreamSpec.Keeps := fun _ _ _ => kept_moveStreamBody

theorem kept_setWait {id w} (h : Kept s0 s) : Kept s0 (s.setWait id w) := Kept.mk' h rfl

theorem kept_moveFails {c i st} (h : Kept s0 s) : Kept s0 (s.moveFails c i st) := kept_finishCmd (kept_modEntry h)

theorem kept_sendCopy {c move tag n off d} (h : Kept s0 s) : Kept s0 (s.sendCopy c move tag n off d) := by
  induction n generalizing s off d with
  | zero => exact h
  | succ n ih => exact kept_ite h (ih (kept_queuePkt h))

theorem kept_moveCopy {c i params remote n} (h : Kept s0 s) : Kept s0 (s.moveCopy c i params remote n) :=
  kept_ite
    (kept_moveFails (kept_releaseMove h))
    (kept_ite
       (kept_setWait (kept_sendSteward h))
       (kept_ite
          (kept_moveFails (kept_releaseMove (kept_readRuns h).fst))
          (kept_setWait (kept_each (kept_readRuns h).fst fun _ _ => kept_sendCopy))))

theorem kept_moveAnswer {c i params phase remote n st res} (h : Kept s0 s) :
      Kept s0 (s.moveAnswer c i params phase remote n st res) :=
  kept_ite
    (kept_moveFails h)
    (kept_ite
       (kept_moveCopy (kept_setWait h))
       (kept_ite (kept_ite (kept_moveFails h) (kept_finishCmd (kept_moveAway h))) (kept_setWait h)))

theorem kept_orphanReply {src b} (h : Kept s0 s) : Kept s0 (s.orphanReply src b) := by
  dsimp only [State.orphanReply]
  split
  · exact h
  · exact kept_ifThen (Kept.mk' h rfl) kept_sendSteward

theorem kept_stewardReply {src b} (h : Kept s0 s) : Kept s0 (s.stewardReply src b) := by
  dsimp only [State.stewardReply]
  split
  · exact kept_orphanReply h
  · split
    · exact kept_moveAnswer h
    · exact h

theorem kept_packetsDone (h : Kept s0 s) : Kept s0 s.packetsDone := by
  refine kept_each h (fun _ _ h => kept_ite h ?_)
  split
  · exact kept_finishCmd h
  · exact kept_moveCopy h
  · exact h

theorem kept_cmdLost {id st} (h : Kept s0 s) : Kept s0 (s.cmdLost id st) := by
  unfold State.cmdLost
  split
  · exact h
  · split
    · exact kept_moveFails (kept_releaseMove h)
    · exact h

/-! ### Ropewalk -/

theorem kept_defineBody {r} (h : Kept s0 s) : (defineBody s r).Kept s0 := by
  unfold defineBody
  exact kept_onContext
      h
      fun _ _ _ h =>
        CmdRes.kept_ite
          (CmdRes.kept_done h)
          (CmdRes.kept_ite
             (CmdRes.kept_done h)
             (CmdRes.kept_ite (CmdRes.kept_done h) (CmdRes.kept_done (kept_setReg (kept_setRope h)))))

theorem keeps_defineRopewalkSpec : defineRopewalkSpec.Keeps := fun _ _ _ => kept_defineBody

/-! ### Steward -/

theorem keeps_specOf {op sp} (e : specOf op = some sp) : sp.Keeps := by
  unfold specOf at e
  split at e
  · cases e; exact keeps_identifySpec
  · cases e; exact keeps_stageReportSpec
  · cases e; exact keeps_floorPlanSpec
  · cases e; exact keeps_createPartitionSpec
  · cases e; exact keeps_destroyPartitionSpec
  · cases e; exact keeps_resetUnitSpec
  · cases e; exact keeps_selfTestSpec
  · cases e; exact keeps_loadImageSpec
  · cases e; exact keeps_admitContextSpec
  · cases e; exact keeps_retireContextSpec
  · cases e; exact keeps_setSharesSpec
  · cases e; exact keeps_defineRopewalkSpec
  · cases e; exact keeps_openStreamSpec
  · cases e; exact keeps_parkStreamSpec
  · cases e; exact keeps_unparkStreamSpec
  · cases e; exact keeps_moveStreamSpec
  · cases e; exact keeps_closeStreamSpec
  · cases e; exact keeps_bindOutputSpec
  · cases e; exact keeps_slotMaskSpec
  · cases e; exact keeps_setTimebaseSpec
  · cases e; exact keeps_aesOutSpec
  · cases e; exact keeps_aesInSpec
  · cases e; exact keeps_writeMemorySpec
  · cases e; exact keeps_readMemorySpec
  · cases e; exact keeps_fillMemorySpec
  · cases e; exact keeps_signalSyncSpec
  · cases e; exact keeps_waitSyncSpec
  · cases e; exact keeps_fenceSpec
  · cases e; exact keeps_readRegisterSpec
  · cases e; exact keeps_writeRegisterSpec
  · cases e; exact keeps_getCountersSpec
  · cases e; exact keeps_attestSpec
  · cases e; exact keeps_packageSpec
  · cases e; exact keeps_ownerKeySpec
  · cases e; exact keeps_patchSpec
  · cases e; exact keeps_provenanceSpec
  · cases e; exact keeps_unlockSpec
  · cases e; exact keeps_discoverSpec
  · cases e; exact keeps_setFabricQuotaSpec
  · cases e; exact keeps_moveReserveSpec
  · cases e; exact keeps_moveOpenSpec
  · cases e; exact keeps_moveReleaseSpec
  · cases e

theorem kept_oweCmd {c} (h : Kept s0 s) : Kept s0 (s.oweCmd c) := by
  unfold State.oweCmd
  split
  · exact kept_owe h
  · exact kept_owe h
  · exact h

theorem kept_receiveCmd (h : Kept s0 s) : Kept s0 s.receiveCmd := by
  unfold State.receiveCmd
  split
  · exact h
  · exact kept_ite h (kept_takeCmd (fun _ => keeps_specOf) (kept_oweCmd (Kept.mk' h rfl)))

theorem kept_startDelayed (h : Kept s0 s) : Kept s0 s.startDelayed := by
  unfold State.startDelayed
  split
  · exact h
  · refine kept_ite h ?_
    split
    next => exact h
    next sp e => exact kept_startCmd (keeps_specOf e) (Kept.mk' h rfl)

/-! ### Fabric -/

theorem kept_modRing {r f} (h : Kept s0 s) : Kept s0 (s.modRing r f) := kept_modNet h

theorem kept_changeId {id valid relay} (h : Kept s0 s) : Kept s0 (s.changeId id valid relay) :=
  kept_releaseHeld (kept_hello (kept_setBits (kept_modNet h)))

theorem kept_learn (h : Kept s0 s) : Kept s0 s.learn := kept_modNet h

theorem kept_mapRings (h : Kept s0 s) : Kept s0 s.mapRings := by
  dsimp only [State.mapRings]
  split <;> exact kept_setMaps h

theorem kept_endDiscovers (h : Kept s0 s) : Kept s0 s.endDiscovers := kept_each h fun _ _ => kept_finishCmd

theorem kept_noteF {call} (h : Kept s0 s) : Kept s0 (s.noteF call) := kept_ite (kept_setBits (kept_modNet h)) h

theorem kept_settle (h : Kept s0 s) : Kept s0 s.settle := kept_endDiscovers (kept_hello (kept_modNet h))

theorem kept_unsettled (h : Kept s0 s) : Kept s0 s.unsettled :=
  kept_endDiscovers (kept_hello (kept_setBits (kept_modNet h)))

theorem kept_endRound (h : Kept s0 s) : Kept s0 s.endRound :=
  kept_ite
    h
    (kept_ite
       (kept_settle (kept_mapRings (kept_ite (kept_changeId h) h)))
       (kept_ite
          (kept_unsettled (kept_mapRings (kept_ite (kept_changeId h) h)))
          (kept_modNet (kept_mapRings (kept_ite (kept_changeId h) h)))))

theorem kept_ringDone {r call whole} (h : Kept s0 s) : Kept s0 (s.ringDone r call whole) :=
  kept_endRound (kept_learn (kept_noteF (kept_setWhole (kept_modRing h))))

theorem kept_startRoll {r} (h : Kept s0 s) : Kept s0 (s.startRoll r) := kept_modRing (kept_drover h)

theorem kept_rollRing {r} (h : Kept s0 s) : Kept s0 (s.rollRing r) :=
  kept_ite (kept_startRoll h) (kept_ite (kept_ringDone h) (kept_ringDone h))

theorem kept_nextRoll (h : Kept s0 s) : Kept s0 s.nextRoll :=
  kept_ite h (kept_ite (kept_ite h (kept_rollRing h)) (kept_ite h (kept_rollRing h)))

theorem kept_joinRound {k} (h : Kept s0 s) : KeptO s0 (s.joinRound k) :=
  kepto_ite
    KeptO.none
    (kepto_ite
       (KeptO.some (kept_modNet (kept_ite h (kept_startDiscovery h))))
       (kepto_ite (KeptO.some (kept_modNet h)) (kepto_ite KeptO.none (KeptO.some h))))

theorem kept_rollArrives {r b} (h : Kept s0 s) : Kept s0 (s.rollArrives r b) := by
  refine kept_ite (kept_discardOn h) (kept_ite (kept_ite h (kept_drover h)) ?_)
  split
  next => exact h
  next t e =>
    have joined := (kept_joinRound h).of t e
    exact kept_ite (kept_ite (kept_drover joined) joined)
      (kept_ite joined (kept_ite (kept_discardOn joined) (kept_modRing (kept_drover joined))))

theorem kept_callArrives {r b} (h : Kept s0 s) : Kept s0 (s.callArrives r b) := by
  refine kept_ite (kept_discardOn h) ?_
  split
  next => exact kept_ite (kept_setWhole h) h
  next t e =>
    have joined := (kept_joinRound h).of t e
    exact kept_ite (kept_ite (kept_ringDone (kept_bump joined)) joined)
      (kept_ite joined (kept_ringDone joined))

/-! ### Fail -/

theorem kept_sramEcc {uncorr} (h : Kept s0 s) : Kept s0 (s.sramEcc uncorr) := kept_bump h

theorem kept_drawLine (h : Kept s0 s) : KeptQ s0 s.drawLine :=
  keptq_foldl (KeptQ.mk h) fun _ _ h => KeptQ.mk (kept_draw h.snd)

theorem kept_cacheLineFails {phys} (h : Kept s0 s) : Kept s0 (s.cacheLineFails phys) := by
  dsimp only [State.cacheLineFails]
  split
  · exact h
  · exact kept_ifThen (kept_modClu (kept_sramEcc h)) fun h => kept_lineEvent (kept_drawLine h).snd

theorem kept_execSramEccError {spot} (h : Kept s0 s) : KeptR s0 (execSramEccError spot s) := by
  cases spot with
  | corrected => exact KeptR.next (kept_sramEcc h)
  | cacheLine phys =>
    exact keptr_ite (show KeptR s0 (.fault .unassignedPhysical) from trivial) (KeptR.next (kept_when h kept_cacheLineFails))
  | unit u => exact KeptR.next (kept_when h fun h => kept_unitFailure (kept_sramEcc h))

/-! ### Front -/

theorem kept_execSysRd {at_ w} (h : Kept s0 s) : KeptR s0 (execSysRd at_ w s) := by
  refine KeptR.next (kept_ifThen (kept_dispatchFront h) (fun h => ?_))
  split
  · exact kept_modCtx h
  · exact h

/-! ### I3cTarget -/

theorem kept_i3cError (h : Kept s0 s) : Kept s0 s.i3cError := kept_modI3c (kept_bump h)

theorem kept_i3cAccess (h : Kept s0 s) : Kept s0 s.i3cAccess := kept_bump h

theorem kept_i3cWords {n a b} (h : Kept s0 s) : Kept s0 (s.i3cWords n a b) := by
  induction n generalizing s a b with
  | zero => exact h
  | succ n ih => exact kept_ite h (ih (kept_accessWrite h))

theorem kept_winWrite {off b} (h : Kept s0 s) : Kept s0 (s.winWrite off b) :=
  kept_ifThen (kept_ite (kept_i3cAccess h) h) kept_submitI3c

theorem kept_i3cWrite {a b} (h : Kept s0 s) : Kept s0 (s.i3cWrite a b) :=
  kept_ite
    (kept_i3cAccess (kept_modI3c h))
    (kept_ite
       (kept_unless (kept_modI3c h) kept_winWrite)
       (kept_i3cWords (kept_unless (kept_modI3c h) kept_i3cAccess)))

theorem kept_privateWrite {bytes bad} (h : Kept s0 s) : Kept s0 (s.privateWrite bytes bad) :=
  kept_ite
    (kept_unless (kept_ifThen (kept_ite (kept_modI3c h) h) kept_i3cError) kept_i3cError)
    (kept_i3cWrite (kept_ifThen (kept_ite (kept_modI3c h) h) kept_i3cError))

theorem kept_i3cReadWords {n a} (h : Kept s0 s) : KeptP s0 (s.i3cReadWords n a) := by
  induction n generalizing s a with
  | zero => exact KeptP.mk h
  | succ n ih =>
    refine KeptP.mk (ih (KeptP.fst ?_)).fst
    split
    next v t e => exact KeptP.mk (kept_readReg h e)
    next => exact KeptP.mk h

theorem kept_privateRead {count bad} (h : Kept s0 s) : Kept s0 (s.privateRead count bad) :=
  kept_ite
    (kept_modI3c (kept_i3cError h))
    (kept_modI3c (keptp_ite (kept_i3cReadWords h) (KeptP.mk (kept_i3cAccess h))).fst)

theorem kept_ccc {f} (h : Kept s0 s) : Kept s0 (s.ccc f) := kept_ite (kept_modI3c h) h

theorem kept_directed {f} (h : Kept s0 s) : Kept s0 (s.directed f) := kept_ite (kept_modI3c h) (kept_modI3c h)

theorem kept_getCode {b} (h : Kept s0 s) : Kept s0 (s.getCode b) := kept_directed h

theorem kept_i3cReset (h : Kept s0 s) : Kept s0 s.i3cReset := by
  unfold State.i3cReset
  exact kept_modI3c (kept_setReg (kept_setReg h))

/-! ### StreamInput -/

theorem kept_chunkDiscard {port i} (h : Kept s0 s) : Kept s0 (s.chunkDiscard port i) := kept_bump (kept_modEntry h)

theorem kept_endChunk {port f} (h : Kept s0 s) : Kept s0 (s.endChunk port f) := by
  unfold State.endChunk
  exact kept_modEntry (kept_chunkDiscard (kept_bump h))

theorem kept_acceptFragment {port vc got mark f} (h : Kept s0 s) : Kept s0 (s.acceptFragment port vc got mark f) :=
  kept_ite
    (kept_faultStream (kept_endChunk (kept_writeWholly h).fst))
    (kept_ite (kept_reval (kept_modEntry (kept_writeWholly h).fst)) (kept_modEntry (kept_writeWholly h).fst))

theorem kept_strayChunk {port f} (h : Kept s0 s) : Kept s0 (s.strayChunk port f) := by
  unfold State.strayChunk
  exact kept_modEntry (kept_ite h (kept_chunkDiscard h))

theorem kept_fragment {port part vc f} (h : Kept s0 s) : Kept s0 (s.fragment port part vc f) := by
  refine kept_ite
      (kept_ite (kept_endChunk h) (kept_strayChunk h))
      (kept_ite
         (kept_ite
            (kept_endChunk (kept_ite (kept_endChunk h) h))
            (kept_acceptFragment (kept_ite (kept_endChunk h) h)))
         ?_)
  split
  · exact kept_ite
        (kept_ifThen (kept_ite (kept_endChunk h) h) kept_modEntry)
        (kept_endChunk (kept_ite (kept_endChunk h) h))
  · exact kept_ite (kept_endChunk (kept_ite (kept_endChunk h) h)) (kept_acceptFragment (kept_ite (kept_endChunk h) h))

theorem kept_streamInput {port part vc payload} (h : Kept s0 s) : Kept s0 (s.streamInput port part vc payload) :=
  kept_ite (kept_bump h) (kept_fragment h)

theorem kept_creditRecords {streams} (h : Kept s0 s) : KeptQ s0 (s.creditRecords streams) :=
  keptq_foldl (KeptQ.mk h) fun _ _ h => KeptQ.mk (kept_draw h.snd)

theorem kept_sendCredits (h : Kept s0 s) : Kept s0 s.sendCredits :=
  kept_each
    h
    fun _ _ h =>
      kept_each h fun _ _ h => kept_each (kept_sendControl (kept_creditRecords h).snd) fun _ _ => kept_modEntry

/-! ### Link -/

theorem kept_sendAck {x} (h : Kept s0 s) : Kept s0 (s.sendAck x) := kept_sendControl h

theorem kept_sendNak {x} (h : Kept s0 s) : Kept s0 (s.sendNak x) := kept_sendControl h

theorem kept_setRcv {x} (h : Kept s0 s) : Kept s0 (s.setRcv x) := kept_modNet h

theorem kept_heardFrom {x} (h : Kept s0 s) : Kept s0 (s.heardFrom x) := kept_modNet h

theorem kept_acceptRel {x p} (h : Kept s0 s) : Kept s0 (s.acceptRel x p) :=
  kept_ite (kept_sendAck (kept_setRcv (kept_modNet h))) (kept_setRcv (kept_modNet h))

theorem kept_seqCheck {port p} (h : Kept s0 s) : KeptP s0 (s.seqCheck port p) :=
  keptp_ite
    (KeptP.mk (kept_heardFrom (kept_setRcv (kept_ite h (kept_bump h)))))
    (keptp_ite
       (keptp_ite (KeptP.mk h) (KeptP.mk (kept_heardFrom (kept_acceptRel h))))
       (keptp_ite (KeptP.mk (kept_sendNak (kept_setRcv h))) (KeptP.mk (kept_sendAck (kept_setRcv h)))))

theorem kept_setSnd {x} (h : Kept s0 s) : Kept s0 (s.setSnd x) := kept_modNet h

theorem kept_resend {x l} (h : Kept s0 s) : Kept s0 (s.resend x l) := kept_modNet h

theorem kept_ackIn {src spur vc seq} (h : Kept s0 s) : Kept s0 (s.ackIn src spur vc seq) := by
  unfold State.ackIn
  split
  · exact h
  · exact kept_ifThen (kept_modNet (kept_setSnd h)) kept_packetsDone

theorem kept_nakIn {src spur vc seq} (h : Kept s0 s) : Kept s0 (s.nakIn src spur vc seq) := by
  unfold State.nakIn
  split
  · exact h
  · exact kept_resend h

theorem kept_creditIn {src spur vc count} (h : Kept s0 s) : Kept s0 (s.creditIn src spur vc count) := by
  unfold State.creditIn
  exact kept_modNet h

theorem kept_packetLost {o st} (h : Kept s0 s) : Kept s0 (s.packetLost o st) := by
  refine kept_ite (kept_ite (kept_reply h) h) ?_
  split
  · exact kept_cmdLost h
  · exact h

theorem kept_abandon {x} (h : Kept s0 s) : Kept s0 (s.abandon x) :=
  kept_packetsDone
    (kept_unless
       (kept_unless
          (kept_each (kept_setBits (kept_modNet (kept_resend (kept_setSnd h)))) fun _ _ => kept_packetLost)
          fun h => kept_each h fun _ _ => kept_cmdLost)
       fun h => kept_raiseEvent (kept_modNet h))

theorem kept_timeoutIn {dst spur vc} (h : Kept s0 s) : Kept s0 (s.timeoutIn dst spur vc) := by
  unfold State.timeoutIn
  split
  · exact h
  · exact kept_ite h (kept_ite (kept_abandon h) (kept_resend (kept_setSnd h)))

theorem kept_toSpur {port p} (h : Kept s0 s) : Kept s0 (s.toSpur port p) :=
  kept_ite (kept_modNet h) (kept_leaveRx (kept_discardOn h))

theorem kept_recordIn {port src b} (h : Kept s0 s) : Kept s0 (s.recordIn port src b) := by
  dsimp only [State.recordIn]
  split
  · exact kept_ackIn h
  · exact kept_nakIn (kept_bump h)
  · exact h
  · exact kept_creditIn h
  · exact kept_discardOn h

theorem kept_controlIn {port p} (h : Kept s0 s) : Kept s0 (s.controlIn port p) :=
  kept_unless (kept_each h fun _ _ => kept_recordIn) fun h => kept_ite (kept_modNet h) (kept_discardOn h)

theorem kept_droverIn {port p} (h : Kept s0 s) : Kept s0 (s.droverIn port p) := by
  refine kept_ite h ?_
  split
  · exact kept_rollArrives h
  · exact kept_callArrives h
  · exact h

theorem kept_deliver {port p} (h : Kept s0 s) : Kept s0 (s.deliver port p) := by
  dsimp only [State.deliver]
  split
  · exact Kept.mk' h rfl
  · exact kept_ite (kept_owe (kept_stewardReply h)) (kept_toSpur h)
  · exact kept_streamInput h
  · exact kept_toSpur h
  · exact kept_owe (kept_writeDataPacket h)
  · exact kept_toSpur h
  · exact kept_controlIn h
  · exact kept_droverIn h

theorem kept_fabDrop {off} (h : Kept s0 s) : Kept s0 (s.fabDrop off) := kept_bump h

theorem kept_through {r p} (h : Kept s0 s) : Kept s0 (s.through r p) :=
  kept_ite (kept_fabDrop h) (kept_ite (kept_fabDrop h) (kept_modNet h))

theorem kept_turnTo {out p} (h : Kept s0 s) : Kept s0 (s.turnTo out p) :=
  kept_ite (kept_fabDrop h) (kept_ite (kept_setBits (kept_fabDrop h)) (kept_ifThen (kept_modNet h) kept_setReg))

theorem kept_forward {r p} (h : Kept s0 s) : Kept s0 (s.forward r p) := by
  dsimp only [State.forward]
  split
  · exact kept_through h
  · exact kept_ite
        (kept_ite (kept_through h) (kept_ite (kept_turnTo h) h))
        (kept_ite (kept_through h) (kept_ite (kept_turnTo h) h))

theorem kept_checkDeliver {port p} (h : Kept s0 s) : Kept s0 (s.checkDeliver port p) :=
  kept_unless (kept_seqCheck h).fst fun h => kept_ite (kept_leaveRx h) (kept_deliver h)

theorem kept_relayOut {p} (h : Kept s0 s) : Kept s0 (s.relayOut p) :=
  kept_ite (kept_leaveRx h) (kept_ite (kept_reply (kept_leaveRx h)) (kept_modNet h))

theorem kept_fromSpur {x p} (h : Kept s0 s) : Kept s0 (s.fromSpur x p) :=
  kept_ite
    (kept_discardOn h)
    (kept_ite (kept_discardOn h) (kept_ite (kept_checkDeliver h) (kept_ifThen (kept_seqCheck h).fst kept_relayOut)))

theorem kept_passOn {r p} (h : Kept s0 s) : Kept s0 (s.passOn r p) :=
  kept_ite (kept_ite h (kept_through h)) (kept_ite h (kept_through h))

theorem kept_fromRing {r x p} (h : Kept s0 s) : Kept s0 (s.fromRing r x p) :=
  kept_ite
    (kept_ite (kept_discardOn h) (kept_ite h (kept_checkDeliver (kept_passOn h))))
    (kept_ite (kept_ite (kept_checkDeliver h) (kept_discardOn h)) (kept_forward h))

theorem kept_linkError {port off} (h : Kept s0 s) : Kept s0 (s.linkError port off) := kept_setBits (kept_bump h)

theorem kept_receivePkt {port x} (h : Kept s0 s) : Kept s0 (s.receivePkt port x) :=
  kept_ite
    (kept_linkError h)
    (kept_ite
       (kept_linkError (kept_bumpWide h))
       (kept_ite
          (kept_discardOn (kept_bumpWide h))
          (kept_ite
             (kept_linkError (kept_bumpWide h))
             (kept_ite (kept_fromSpur (kept_bumpWide h)) (kept_fromRing (kept_bumpWide h))))))

theorem kept_emit {port p} (h : Kept s0 s) : Kept s0 (s.emit port p) := kept_bump (kept_bumpWide (kept_modPort h))

theorem kept_sendIn {port o} (h : Kept s0 s) : Kept s0 (s.sendIn port o) := kept_emit (kept_setSnd h)

theorem kept_chargeQuota {port part n} (h : Kept s0 s) : Kept s0 (s.chargeQuota port part n) :=
  kept_ite h (kept_modPart h)

theorem kept_unrouted {o} (h : Kept s0 s) : Kept s0 (s.unrouted o) :=
  kept_packetsDone (kept_packetLost (kept_ite h (kept_fabDrop h)))

theorem kept_sendOwn {port} (h : Kept s0 s) : Kept s0 (s.sendOwn port) := by
  dsimp only [State.sendOwn]
  split
  · exact h
  · split
    · exact h
    · refine kept_ite (kept_unrouted (kept_leaveRx (kept_modNet h))) ?_
      split
      · exact kept_bump (kept_chargeQuota (kept_sendIn (kept_leaveRx (kept_modNet h))))
      · exact kept_chargeQuota (kept_sendIn (kept_leaveRx (kept_modNet h)))

theorem kept_sendRetx {port} (h : Kept s0 s) : KeptO s0 (s.sendRetx port) := by
  unfold State.sendRetx
  split
  · exact KeptO.none
  · exact kepto_ite (KeptO.some (kept_bump (kept_emit (kept_modNet h)))) (KeptO.some (kept_fabDrop (kept_modNet h)))

theorem kept_sendCtl {port} (h : Kept s0 s) : KeptO s0 (s.sendCtl port) := by
  unfold State.sendCtl
  split
  · exact KeptO.none
  · exact kepto_ite (KeptO.some (kept_sendIn (kept_modNet h))) (KeptO.some (kept_fabDrop (kept_modNet h)))

theorem kept_sendPassing {port} (h : Kept s0 s) : KeptO s0 (s.sendPassing port) := by
  unfold State.sendPassing
  split
  · exact KeptO.some (kept_emit (kept_modNet h))
  · split
    · exact KeptO.some (kept_emit (kept_modNet h))
    · exact KeptO.none

theorem kept_dropPassing {port} (h : Kept s0 s) : Kept s0 (s.dropPassing port) := kept_bump (kept_modNet h)

theorem kept_transmit {port} (h : Kept s0 s) : Kept s0 (s.transmit port) := by
  refine kept_ite h (kept_ite (kept_ite (kept_dropPassing h) (kept_ite h (kept_packetsDone (kept_closeSpur h)))) ?_)
  split
  next t e => exact (kepto_ite KeptO.none (kept_sendPassing h)).of t e
  next =>
    split
    next t e => exact (kept_sendCtl h).of t e
    next =>
      split
      next t e => exact (kept_sendRetx h).of t e
      next => exact kept_sendOwn h

theorem kept_returnCredits (h : Kept s0 s) : Kept s0 s.returnCredits := by
  unfold State.returnCredits
  exact kept_modNet (kept_each h fun _ _ h => kept_each h fun _ _ => kept_sendControl)

/-! ### Narrow -/

theorem kept_readLayout {r pid p} (h : Kept s0 s) : Kept s0 (s.readLayout r pid p) :=
  kept_ite (kept_readLines h).fst h

theorem kept_narRead {r p space a n} (h : Kept s0 s) : KeptP s0 (s.narRead r p space a n) :=
  keptp_ite (KeptP.mk (kept_readPart h).fst) (KeptP.mk h)

theorem kept_narWrite {r p bs} (h : Kept s0 s) : KeptP s0 (s.narWrite r p bs) :=
  keptp_ite (KeptP.mk (kept_writePart h).fst) (KeptP.mk (kept_writeShare h))

theorem kept_takeSlot {n i len t x} (h : Kept s0 s) (e : s.takeSlot n i len = some (t, x)) : Kept s0 t := by
  dsimp only [State.takeSlot] at e
  split at e
  · cases e; exact kept_modClu h
  · split at e
    · cases e; exact kept_modClu (kept_readPart (kept_synthAddr h).fst).fst
    · split at e
      · cases e
      · cases e; exact kept_modClu (kept_readPart (kept_synthAddr (kept_modClu (kept_writeBack h))).fst).fst

theorem kept_narPop {n} (h : Kept s0 s) : Kept s0 (s.narPop n) := kept_modClu h

theorem kept_narDone {n r} (h : Kept s0 s) : Kept s0 (s.narDone n r) := by
  unfold State.narDone
  exact kept_wordDone (kept_bump (kept_syncAdd h))

theorem kept_narFault {r cause} (h : Kept s0 s) : Kept s0 (s.narFault r cause) := kept_progFault h

theorem kept_holdStep {r bad samples count hist} (h : Kept s0 s) : Kept s0 (s.holdStep r bad samples count hist) :=
  kept_ite (kept_faultStream h) (kept_modEntry h)

theorem kept_synthRun {n r p} (h : Kept s0 s) : KeptO s0 (s.synthRun n r p) := by
  unfold State.synthRun
  split
  next => exact KeptO.none
  next t _ _ e =>
    have read {f a n g b m} := (kept_narRead (r := r) (p := p) (space := g) (a := b) (n := m)
      (kept_narRead (r := r) (p := p) (space := f) (a := a) (n := n) (kept_takeSlot h e)).fst).fst
    exact KeptO.some (kept_holdStep (keptp_ite (KeptP.mk read) (kept_narWrite read)).fst)

theorem kept_convertRun {r p} (h : Kept s0 s) : KeptP s0 (s.convertRun r p) :=
  keptp_ite (KeptP.mk (kept_holdStep (kept_narRead h).fst)) (KeptP.mk (kept_narWrite (kept_narRead h).fst).fst)

theorem kept_analysisRun {r p} (h : Kept s0 s) : KeptP s0 (s.analysisRun r p) :=
  KeptP.mk (kept_narWrite (kept_narRead (kept_narRead h).fst).fst).fst

theorem kept_conv1dRun {r p} (h : Kept s0 s) : KeptP s0 (s.conv1dRun r p) :=
  KeptP.mk (kept_narWrite (kept_narRead (kept_narRead h).fst).fst).fst

theorem kept_serveNarrow {n op ev} (h : Kept s0 s) : Kept s0 (s.serveNarrow n op ev) := by
  dsimp only [State.serveNarrow]
  split
  · exact h
  · refine kept_ite h ?_
    have ready {r pid p} := kept_readLayout (r := r) (pid := pid) (p := p) (kept_lineEvents (ev := ev) h)
    split
    · exact kept_narFault (kept_narPop ready)
    · exact kept_narFault (kept_narPop (kept_draw ready))
    · refine kept_ite (kept_ite (kept_narDone (kept_narPop ready)) (kept_ite h (kept_ite ?_
        (kept_narDone (kept_narPop (kept_convertRun ready).fst))))) ?_
      · split
        next => exact h
        next t e => exact kept_narDone (kept_narPop ((kept_synthRun ready).of t e))
      · exact kept_ifThen (kept_narDone (kept_narPop (keptp_ite (kept_analysisRun ready)
          (keptp_ite (kept_conv1dRun ready) (kept_convertRun ready))).fst)) kept_narFault

/-! ### Power -/

theorem kept_clusterTemp {n t} (h : Kept s0 s) : Kept s0 (s.clusterTemp n t) :=
  kept_ifThen (kept_modClu (kept_ite h (kept_accrue h))) kept_setBits

theorem kept_dieTemps {l} (h : Kept s0 s) : Kept s0 (s.dieTemps l) :=
  kept_each (kept_each h fun _ _ h => Kept.mk' h rfl) fun _ _ h => kept_each h fun _ _ => kept_modChan

theorem kept_trip (h : Kept s0 s) : Kept s0 s.trip := kept_stopAll (kept_setBits (Kept.mk' h rfl))

theorem kept_execSensorRead {temps} (h : Kept s0 s) : KeptR s0 (execSensorRead temps s) :=
  KeptR.next
    (kept_when
       h
       fun h => kept_when (Kept.mk' (kept_dieTemps (kept_each h fun _ _ => kept_clusterTemp)) rfl) kept_trip)

theorem kept_execWake {target} (h : Kept s0 s) : KeptR s0 (execWake target s) := by
  refine KeptR.next (kept_when h (fun h => ?_))
  split
  · exact kept_wakeCluster h
  · exact kept_ite (kept_modCore (kept_wakeCluster h) (fun _ => rfl)) h

/-! ### Random -/

theorem kept_rngDrawStart {g j e} (h : Kept s0 s) : (rngDrawStart s g j e).Kept s0 :=
  StartRes.kept_done (kept_modShare (kept_genDraw h).snd)

theorem kept_rngSeedStart {g _j e} (h : Kept s0 s) : (rngSeedStart s g _j e).Kept s0 :=
  StartRes.kept_done (kept_modCore h (fun _ => rfl))

theorem kept_vsampleCatStart {g j e} (h : Kept s0 s) : (vsampleCatStart s g j e).Kept s0 :=
  kept_checked
    h
    (kept_checked
       h
       (StartRes.kept_done
          (kept_modShare (keptp_foldl (KeptP.mk h) fun _ _ h => KeptP.mk (kept_genDraw h.fst).snd).fst)))

theorem kept_vsampleMolStart {g j e} (h : Kept s0 s) : (vsampleMolStart s g j e).Kept s0 :=
  kept_checked
    h
    (kept_checked
       h
       (StartRes.kept_done
          (kept_modShare (keptp_foldl (KeptP.mk h) fun _ _ h => KeptP.mk (kept_draw (kept_genDraw h.fst).snd)).fst)))

/-! ### Scan -/

theorem kept_scanStart {op g j e} (h : Kept s0 s) : (scanStart op s g j e).Kept s0 :=
  kept_checked h (kept_checked h (StartRes.kept_done (kept_modShare h)))

/-! ### Vector -/

theorem kept_vecStart {f efOk g j e} (h : Kept s0 s) : (vecStart f efOk s g j e).Kept s0 :=
  kept_checked h (StartRes.kept_done (kept_modShare h))

theorem kept_vRedStart {g j e} (h : Kept s0 s) : (vRedStart s g j e).Kept s0 :=
  kept_checked h (StartRes.kept_done (kept_modShare h))

theorem kept_vRqStart {g j e} (h : Kept s0 s) : (vRqStart s g j e).Kept s0 :=
  kept_checked h (StartRes.kept_done (kept_modShare (kept_roundings h).snd))

theorem kept_vLdStart {g j e} (h : Kept s0 s) : (vLdStart s g j e).Kept s0 :=
  kept_checked h (StartRes.kept_done (kept_modShare h))

theorem kept_vStStart {g j e} (h : Kept s0 s) : (vStStart s g j e).Kept s0 :=
  kept_checked h (StartRes.kept_done (kept_modShare h))

theorem kept_vActStart {g j e} (h : Kept s0 s) : (vActStart s g j e).Kept s0 :=
  kept_checked h (StartRes.kept_done (kept_modShare (kept_roundings h).snd))

theorem kept_vCvtStart {g j e} (h : Kept s0 s) : (vCvtStart s g j e).Kept s0 :=
  kept_checked h (StartRes.kept_done (kept_modShare (kept_roundings h).snd))

theorem kept_vCvtsStart {g j e} (h : Kept s0 s) : (vCvtsStart s g j e).Kept s0 :=
  kept_checked h (kept_checked h (StartRes.kept_done (kept_modShare (kept_roundings h).snd)))

theorem kept_vCvtlStart {g j e} (h : Kept s0 s) : (vCvtlStart s g j e).Kept s0 :=
  kept_checked h (kept_checked h (StartRes.kept_done (kept_modShare h)))

end

/-! ### Every command -/

/-- The commands that may move or clear the sample-time counter. -/
def Instr.movesCount : Instr → Bool
  | .referenceEdge _ _ => true
  | .predictedInstant => true
  | .windowClose => true
  | .internalPeriod => true
  | .stageComplete _ _ => true
  | .resetNLow => true
  | .pwrOkLow => true
  | .wholeDeviceReset => true
  | .rstact _ => true
  | .vddNetLoss => true
  | .railExcursion _ => true
  | _ => false

/-- Every other command leaves the queue and the counter and keeps the invariant. -/
theorem kept_exec {s0 s : State} (c : Instr) (steady : Instr.movesCount c = false) (h : Kept s0 s) :
    KeptR s0 (exec c s) := by
  cases c with
  | registerWrite => exact KeptR.next (kept_accessWrite h)
  | latchedPairRead => exact KeptR.next (kept_accessRead h)
  | readClear => exact KeptR.next (kept_accessRead h)
  | ldgSelWrite => exact KeptR.next (kept_accessWrite h)
  | txRateWrite => exact KeptR.next (kept_accessWrite h)
  | cmdWinWrite => exact KeptR.next (kept_when h kept_privateWrite)
  | pop => exact KeptR.next (kept_accessWrite h)
  | i3cPrivateWrite => exact KeptR.next (kept_when h kept_privateWrite)
  | i3cPrivateRead => exact KeptR.next (kept_when h kept_privateRead)
  | enec => exact KeptR.next (kept_ccc h)
  | disec => exact KeptR.next (kept_ccc h)
  | rstdaa => exact KeptR.next (kept_ccc h)
  | entdaa => exact KeptR.next (kept_ccc h)
  | setdasa => exact KeptR.next (kept_ccc h)
  | setnewda => exact KeptR.next (kept_directed h)
  | setmwl => exact KeptR.next (kept_ccc h)
  | getmwl => exact KeptR.next (kept_getCode h)
  | setmrl => exact KeptR.next (kept_ccc h)
  | getmrl => exact KeptR.next (kept_getCode h)
  | getpid => exact KeptR.next (kept_getCode h)
  | getbcr => exact KeptR.next (kept_getCode h)
  | getdcr => exact KeptR.next (kept_getCode h)
  | getstatus => exact KeptR.next (kept_directed h)
  | getmxds => exact KeptR.next (kept_getCode h)
  | rstact => cases steady
  | enthdr0 => exact KeptR.next (kept_ccc h)
  | ibiRetry => exact KeptR.next (kept_when h kept_modI3c)
  | hotJoin => exact KeptR.next (kept_when h kept_modI3c)
  | ibi => exact KeptR.next (kept_when h kept_modI3c)
  | startUp => exact KeptR.next (kept_when h kept_powerOn)
  | stageComplete => cases steady
  | stageTimeout => exact KeptR.next (kept_when h kept_stageFails)
  | resetNLow => cases steady
  | pwrOkLow => cases steady
  | wholeDeviceReset => cases steady
  | railExcursion => cases steady
  | referenceEdge => cases steady
  | predictedInstant => cases steady
  | windowClose => cases steady
  | missingSpan => exact KeptR.next (kept_when h fun h => kept_unless (kept_modTb h rfl) kept_enterHoldover)
  | internalPeriod => cases steady
  | remeasure => exact kept_execRemeasure h
  | frameStart => exact KeptR.next (kept_when h fun h => kept_ifThen (kept_modTb h (count_takeF _)) kept_frameStart)
  | fChange => exact KeptR.next (kept_modTb h (count_takeF _))
  | delayedStart => exact KeptR.next (kept_startDelayed h)
  | identify => exact KeptR.next (kept_command keeps_identifySpec h)
  | getStageReport => exact KeptR.next (kept_command keeps_stageReportSpec h)
  | getFloorPlan => exact KeptR.next (kept_command keeps_floorPlanSpec h)
  | createPartition => exact KeptR.next (kept_command keeps_createPartitionSpec h)
  | destroyPartition => exact KeptR.next (kept_command keeps_destroyPartitionSpec h)
  | resetUnit => exact KeptR.next (kept_command keeps_resetUnitSpec h)
  | selfTest => exact KeptR.next (kept_command keeps_selfTestSpec h)
  | testComplete => exact KeptR.next (kept_testDone h)
  | loadImage => exact KeptR.next (kept_command keeps_loadImageSpec h)
  | admitContext => exact KeptR.next (kept_command keeps_admitContextSpec h)
  | retireContext => exact KeptR.next (kept_command keeps_retireContextSpec h)
  | quiescent => exact kept_execQuiescent h
  | retireLimitExpiry => exact kept_execRetireLimitExpiry h
  | setShares => exact KeptR.next (kept_command keeps_setSharesSpec h)
  | defineRopewalk => exact KeptR.next (kept_command keeps_defineRopewalkSpec h)
  | openStream => exact KeptR.next (kept_command keeps_openStreamSpec h)
  | parkStream => exact KeptR.next (kept_command keeps_parkStreamSpec h)
  | parkComplete => exact KeptR.next (kept_when h fun h => kept_endPark (kept_modEntry (kept_flushSlot h)))
  | unparkStream => exact KeptR.next (kept_command keeps_unparkStreamSpec h)
  | moveStream => exact KeptR.next (kept_command keeps_moveStreamSpec h)
  | moveReserve => exact KeptR.next (kept_command keeps_moveReserveSpec h)
  | moveOpen => exact KeptR.next (kept_command keeps_moveOpenSpec h)
  | moveRelease => exact KeptR.next (kept_command keeps_moveReleaseSpec h)
  | reservationTimeout => exact KeptR.next (kept_when h kept_freeReserved)
  | closeStream => exact KeptR.next (kept_command keeps_closeStreamSpec h)
  | drainCloseComplete => exact KeptR.next (kept_when h kept_closeUndrained)
  | drainingClose => exact KeptR.next (kept_when h kept_closeUndrained)
  | bindOutput => exact KeptR.next (kept_command keeps_bindOutputSpec h)
  | setSlotMask => exact KeptR.next (kept_command keeps_slotMaskSpec h)
  | setTimebase => exact KeptR.next (kept_command keeps_setTimebaseSpec h)
  | configAesOut => exact KeptR.next (kept_command keeps_aesOutSpec h)
  | aesDrainComplete => exact KeptR.next (kept_when h fun h => kept_finishWhere (kept_stopOutput h))
  | configAesIn => exact KeptR.next (kept_command keeps_aesInSpec h)
  | writeMemory => exact KeptR.next (kept_command keeps_writeMemorySpec (kept_lineEvents h))
  | writeDataTimeout => exact kept_execWriteDataTimeout h
  | readMemory => exact KeptR.next (kept_command keeps_readMemorySpec (kept_lineEvents h))
  | fillMemory => exact KeptR.next (kept_command keeps_fillMemorySpec h)
  | signalSync => exact KeptR.next (kept_command keeps_signalSyncSpec h)
  | waitSync => exact KeptR.next (kept_command keeps_waitSyncSpec h)
  | waitSyncTimeout => exact KeptR.next (kept_syncTimeout h)
  | fence => exact KeptR.next (kept_command keeps_fenceSpec h)
  | readRegister => exact KeptR.next (kept_command keeps_readRegisterSpec h)
  | writeRegister => exact KeptR.next (kept_command keeps_writeRegisterSpec h)
  | getCounters => exact KeptR.next (kept_command keeps_getCountersSpec h)
  | attest => exact KeptR.next (kept_command keeps_attestSpec h)
  | verifyPackage => exact KeptR.next (kept_command keeps_packageSpec h)
  | registerOwnerKey => exact KeptR.next (kept_command keeps_ownerKeySpec h)
  | installPatch => exact KeptR.next (kept_command keeps_patchSpec h)
  | provenance => exact KeptR.next (kept_command keeps_provenanceSpec h)
  | unlockDebug => exact KeptR.next (kept_command keeps_unlockSpec h)
  | discover => exact KeptR.next (kept_command keeps_discoverSpec h)
  | setFabricQuota => exact KeptR.next (kept_command keeps_setFabricQuotaSpec h)
  | commandReceive => exact KeptR.next (kept_receiveCmd h)
  | nop => exact KeptR.next (kept_dispatchFront h)
  | stop => exact KeptR.next (kept_dispatchFront h)
  | br => exact KeptR.next (kept_dispatchFront h)
  | lpBegin => exact KeptR.next (kept_dispatchFront h)
  | tkWait => exact KeptR.next (kept_dispatchFront h)
  | sysRd => exact kept_execSysRd h
  | sAdd => exact KeptR.next (kept_dispatchFront h)
  | sSub => exact KeptR.next (kept_dispatchFront h)
  | sMul => exact KeptR.next (kept_dispatchFront h)
  | sAnd => exact KeptR.next (kept_dispatchFront h)
  | sOr => exact KeptR.next (kept_dispatchFront h)
  | sXor => exact KeptR.next (kept_dispatchFront h)
  | sShl => exact KeptR.next (kept_dispatchFront h)
  | sShr => exact KeptR.next (kept_dispatchFront h)
  | sSra => exact KeptR.next (kept_dispatchFront h)
  | sMin => exact KeptR.next (kept_dispatchFront h)
  | sMax => exact KeptR.next (kept_dispatchFront h)
  | sLi => exact KeptR.next (kept_dispatchFront h)
  | aLi => exact KeptR.next (kept_dispatchFront h)
  | aAddi => exact KeptR.next (kept_dispatchFront h)
  | aAdds => exact KeptR.next (kept_dispatchFront h)
  | sFra => exact KeptR.next (kept_dispatchFront h)
  | pEq => exact KeptR.next (kept_dispatchFront h)
  | pNe => exact KeptR.next (kept_dispatchFront h)
  | pLt => exact KeptR.next (kept_dispatchFront h)
  | pGe => exact KeptR.next (kept_dispatchFront h)
  | pLtu => exact KeptR.next (kept_dispatchFront h)
  | pGeu => exact KeptR.next (kept_dispatchFront h)
  | pAnd => exact KeptR.next (kept_dispatchFront h)
  | pOr => exact KeptR.next (kept_dispatchFront h)
  | pXor => exact KeptR.next (kept_dispatchFront h)
  | pAndn => exact KeptR.next (kept_dispatchFront h)
  | pSet => exact KeptR.next (kept_dispatchFront h)
  | sLd => exact KeptR.next (kept_engineWord h fun _ _ _ _ => kept_sLdStart)
  | sSt => exact KeptR.next (kept_engineWord h fun _ _ _ _ => kept_sStStart)
  | syncSignal => exact KeptR.next (kept_engineWord h fun _ _ _ _ => kept_syncSignalStart)
  | syncAdd => exact KeptR.next (kept_engineWord h fun _ _ _ _ => kept_syncAddStart)
  | syncWait => exact KeptR.next (kept_engineWord h fun _ _ _ _ => kept_syncWaitStart)
  | syncRd => exact KeptR.next (kept_engineWord h fun _ _ _ _ => kept_syncRdStart)
  | dmaGet => exact KeptR.next (kept_engineWord h fun _ _ _ _ => kept_dmaStart)
  | dmaPut => exact KeptR.next (kept_engineWord h fun _ _ _ _ => kept_dmaStart)
  | haloSend => exact KeptR.next (kept_engineWord h fun _ _ _ _ => kept_haloSendStart)
  | haloRecv => exact KeptR.next (kept_engineWord h fun _ _ _ _ => kept_haloRecvStart)
  | qSend => exact KeptR.next (kept_engineWord h fun _ _ _ _ => kept_qSendStart)
  | qRecv => exact KeptR.next (kept_engineWord h fun _ _ _ _ => kept_qRecvStart)
  | qRel => exact KeptR.next (kept_engineWord h fun _ _ _ _ => kept_qRelStart)
  | narReq => exact KeptR.next (kept_engineWord h fun _ _ _ _ => kept_narReqStart)
  | millGemv => exact KeptR.next (kept_engineWord h fun _ _ _ _ => kept_millStart)
  | millGather => exact KeptR.next (kept_engineWord h fun _ _ _ _ => kept_millStart)
  | millScatterAdd => exact KeptR.next (kept_engineWord h fun _ _ _ _ => kept_millStart)
  | millReduce => exact KeptR.next (kept_engineWord h fun _ _ _ _ => kept_millStart)
  | millCopy => exact KeptR.next (kept_engineWord h fun _ _ _ _ => kept_millStart)
  | millFill => exact KeptR.next (kept_engineWord h fun _ _ _ _ => kept_millStart)
  | mxMul => exact KeptR.next (kept_engineWord h fun _ _ _ _ => kept_mxMulStart)
  | mxLd => exact KeptR.next (kept_engineWord h fun _ _ _ _ => kept_mxLdStart)
  | mxSt => exact KeptR.next (kept_engineWord h fun _ _ _ _ => kept_mxStStart)
  | mxZero => exact KeptR.next (kept_engineWord h fun _ _ _ _ => kept_mxZeroStart)
  | vAdd => exact KeptR.next (kept_engineWord h fun _ _ _ _ => kept_vecStart)
  | vSub => exact KeptR.next (kept_engineWord h fun _ _ _ _ => kept_vecStart)
  | vMul => exact KeptR.next (kept_engineWord h fun _ _ _ _ => kept_vecStart)
  | vFma => exact KeptR.next (kept_engineWord h fun _ _ _ _ => kept_vecStart)
  | vMin => exact KeptR.next (kept_engineWord h fun _ _ _ _ => kept_vecStart)
  | vMax => exact KeptR.next (kept_engineWord h fun _ _ _ _ => kept_vecStart)
  | vCmplt => exact KeptR.next (kept_engineWord h fun _ _ _ _ => kept_vecStart)
  | vCmpeq => exact KeptR.next (kept_engineWord h fun _ _ _ _ => kept_vecStart)
  | vSel => exact KeptR.next (kept_engineWord h fun _ _ _ _ => kept_vecStart)
  | vShl => exact KeptR.next (kept_engineWord h fun _ _ _ _ => kept_vecStart)
  | vShr => exact KeptR.next (kept_engineWord h fun _ _ _ _ => kept_vecStart)
  | vSra => exact KeptR.next (kept_engineWord h fun _ _ _ _ => kept_vecStart)
  | vGtan => exact KeptR.next (kept_engineWord h fun _ _ _ _ => kept_vecStart)
  | vGlerp => exact KeptR.next (kept_engineWord h fun _ _ _ _ => kept_vecStart)
  | vRed => exact KeptR.next (kept_engineWord h fun _ _ _ _ => kept_vRedStart)
  | vRq => exact KeptR.next (kept_engineWord h fun _ _ _ _ => kept_vRqStart)
  | vLd => exact KeptR.next (kept_engineWord h fun _ _ _ _ => kept_vLdStart)
  | vSt => exact KeptR.next (kept_engineWord h fun _ _ _ _ => kept_vStStart)
  | vAct => exact KeptR.next (kept_engineWord h fun _ _ _ _ => kept_vActStart)
  | vCvt => exact KeptR.next (kept_engineWord h fun _ _ _ _ => kept_vCvtStart)
  | vCvts => exact KeptR.next (kept_engineWord h fun _ _ _ _ => kept_vCvtsStart)
  | vCvtl => exact KeptR.next (kept_engineWord h fun _ _ _ _ => kept_vCvtlStart)
  | scF1 => exact KeptR.next (kept_engineWord h fun _ _ _ _ => kept_scanStart)
  | scF2 => exact KeptR.next (kept_engineWord h fun _ _ _ _ => kept_scanStart)
  | scEma => exact KeptR.next (kept_engineWord h fun _ _ _ _ => kept_scanStart)
  | convExpand => exact KeptR.next (kept_engineWord h fun _ _ _ _ => kept_expandStart)
  | convTransposeExpand => exact KeptR.next (kept_engineWord h fun _ _ _ _ => kept_expandStart)
  | dwConv => exact KeptR.next (kept_engineWord h fun _ _ _ _ => kept_dwConvStart)
  | poolMax => exact KeptR.next (kept_engineWord h fun _ _ _ _ => kept_poolStart)
  | poolAvg => exact KeptR.next (kept_engineWord h fun _ _ _ _ => kept_poolStart)
  | gpoolAvg => exact KeptR.next (kept_engineWord h fun _ _ _ _ => kept_gpoolStart)
  | segDecode => exact KeptR.next (kept_engineWord h fun _ _ _ _ => kept_segDecodeStart)
  | segSuppress => exact KeptR.next (kept_engineWord h fun _ _ _ _ => kept_segSuppressStart)
  | rngDraw => exact KeptR.next (kept_engineWord h fun _ _ _ _ => kept_rngDrawStart)
  | rngSeed => exact KeptR.next (kept_engineWord h fun _ _ _ _ => kept_rngSeedStart)
  | vsampleCat => exact KeptR.next (kept_engineWord h fun _ _ _ _ => kept_vsampleCatStart)
  | vsampleMol => exact KeptR.next (kept_engineWord h fun _ _ _ _ => kept_vsampleMolStart)
  | stLoad => exact KeptR.next (kept_engineWord h fun _ _ _ _ => kept_stMoveStart)
  | stStore => exact KeptR.next (kept_engineWord h fun _ _ _ _ => kept_stMoveStart)
  | ldgTake => exact KeptR.next (kept_engineWord h fun _ _ _ _ => kept_ldgTakeStart)
  | ldgDone => exact KeptR.next (kept_engineWord h fun _ _ _ _ => kept_ldgDoneStart)
  | fuseBegin => exact KeptR.next (kept_dispatchFront h)
  | fuseEnd => exact KeptR.next (kept_dispatchFront h)
  | docketBuilderVisit => exact KeptR.next (kept_visit h)
  | entryCommit => exact KeptR.next (kept_tryEntry h)
  | streamInputFragment => exact KeptR.next (kept_streamInput h)
  | streamCredit => exact KeptR.next (kept_sendCredits h)
  | outputDrain => exact kept_execOutputDrain h
  | synth => exact KeptR.next (kept_serveNarrow h)
  | analysis => exact KeptR.next (kept_serveNarrow h)
  | conv1d => exact KeptR.next (kept_serveNarrow h)
  | convert => exact KeptR.next (kept_serveNarrow h)
  | descriptorFetch => exact KeptR.next (kept_fetch h)
  | descriptorCompletion => exact KeptR.next (kept_completeDesc h)
  | millRoute => exact KeptR.next (kept_millRouteStep h)
  | millGrant => exact KeptR.next (kept_grant h)
  | grantExpiry => exact KeptR.next (kept_expireGrant h)
  | millCompletion => exact KeptR.next (kept_finishMill h)
  | reseed => exact kept_execReseed h
  | reseedBufferRefill => exact KeptR.next (kept_when h fun h => kept_modCore (kept_draw h) (fun _ => rfl))
  | windowBoundary => exact KeptR.next (kept_when h kept_boundary)
  | starved => exact KeptR.next (kept_starve h)
  | aes3OutputFrame => exact KeptR.next (kept_sendFrame h)
  | aes3InputFrame => exact KeptR.next (kept_when h fun h => kept_ifThen (kept_lockFrame h) kept_decodeFrame)
  | portTraining =>
    exact KeptR.next (kept_when h fun h => kept_ite (kept_packetsDone (kept_portUp h)) (kept_packetsDone (kept_portLeaves h)))
  | portDown => exact KeptR.next (kept_when h fun h => kept_packetsDone (kept_portLeaves h))
  | longPacketReceive => exact KeptR.next (kept_when h kept_receivePkt)
  | frameStartReceive => exact KeptR.next (kept_when h fun h => kept_ite h (kept_bump h))
  | memoryWriteData => exact KeptR.next (kept_writeDataPacket h)
  | ack => exact KeptR.next (kept_ackIn h)
  | nak => exact KeptR.next (kept_nakIn (kept_bump h))
  | rxCredit => exact KeptR.next (kept_creditIn h)
  | ackTimer => exact KeptR.next (kept_when h fun h => kept_sendAck (kept_setRcv h))
  | nakRepeat => exact KeptR.next (kept_when h kept_sendNak)
  | retransmitTimeout => exact KeptR.next (kept_timeoutIn h)
  | packetTransmit => exact KeptR.next (kept_transmit h)
  | discovery => exact KeptR.next (kept_nextRoll h)
  | roll => exact KeptR.next (kept_rollArrives h)
  | call => exact KeptR.next (kept_callArrives (kept_passOn h))
  | callTimeout => exact KeptR.next (kept_when h kept_ringDone)
  | sensorRead => exact kept_execSensorRead h
  | channelRecalibration => exact KeptR.next (kept_modChan h)
  | coreGate => exact KeptR.next (kept_when h fun h => kept_modCore h (fun _ => rfl))
  | clusterClockStop => exact KeptR.next (kept_when h kept_modClu)
  | clusterPowerGate => exact KeptR.next (kept_when h kept_modClu)
  | selfRefreshEntry => exact KeptR.next (kept_when h kept_modChan)
  | wake => exact kept_execWake h
  | selfRefreshExit => exact KeptR.next (kept_exitRefresh h)
  | sramEccError => exact kept_execSramEccError h
  | coreProbe => exact KeptR.next (kept_when h kept_unitFailure)
  | unitTimeout => exact KeptR.next (kept_when h kept_unitFailure)
  | entropyHealthFail => exact KeptR.next (kept_bump (Kept.mk' h rfl))
  | entropyRetest => exact KeptR.next (kept_when h fun h => Kept.mk' h rfl)
  | provenanceHash => exact KeptR.next (kept_ite (kept_laneDone h) (kept_hashFrame h))
  | undecodableWord => exact KeptR.next (kept_when h fun h => kept_progFault (kept_dispatched h))
  | dispatchPastProgramEnd => exact KeptR.next (kept_when h kept_progFault)
  | audMclkInEdge => exact KeptR.next (kept_rangeCheck (Kept.mk' h rfl))
  | channelRefresh => exact KeptR.next (kept_modChan h)
  | rxCreditReturn => exact KeptR.next (kept_returnCredits h)
  | railReturn => exact KeptR.next (Kept.mk' h rfl)
  | vddNetLoss => cases steady
  | channelZeroingDone => exact KeptR.next (kept_when h kept_destroyDone)
  | shakeLaneDone => exact KeptR.next (kept_laneDone h)
  | admissionPrepared => exact KeptR.next (kept_prepared h)
  | unitResetDone => exact KeptR.next (kept_resetDone h)

end Sys2Proof.Machine
end

section
/-! PROOFS. The timebase and its counter (R25 to R37, R285): what the range checks and an event leave unchanged, the
instants that drive the counter, and from these rules the statements CounterMovesByPeriods, TimebaseCounting,
TimebaseMeasurement and FrameStarts. -/

namespace Sys2Proof.Machine

/-! ### Folds and conditions -/

theorem when_true {s : State} {c : Bool} {f : State → State} (h : c = true) : s.when c f = f s := by
  rw [State.when, if_pos h]

theorem when_false {s : State} {c : Bool} {f : State → State} (h : c = false) : s.when c f = s := by
  rw [State.when, if_neg (Bool.eq_false_iff.1 h)]

theorem each_of_step {α : Type} {P : State → Prop} {f : State → α → State} (step : ∀ s x, P s → P (f s x)) (l : List α)
    {s : State} (h : P s) : P (s.each l f) := by
  induction l generalizing s with
  | nil => exact h
  | cons x l ih => exact ih (step s x h)

/-- What the update for one element of a list brings about, and each update keeps, holds after the fold. -/
theorem each_of_mem {α : Type} {P : State → Prop} {f : State → α → State} {x : α} (makes : ∀ s, P (f s x))
    (step : ∀ s y, P s → P (f s y)) {l : List α} (hx : x ∈ l) (s : State) : P (s.each l f) := by
  induction hx generalizing s with
  | head l => exact each_of_step step l (makes s)
  | tail y _ ih => exact ih (f s y)

/-! ### Register bits that only set -/

theorem getLsbD_reg_setBits {s : State} {a b m i : Nat} (h : (s.reg b).getLsbD i = true) :
    ((s.setBits a m).reg b).getLsbD i = true := by
  rw [setBits_eq]
  by_cases e : b = a
  · subst e
    rw [reg_setReg_self, BitVec.getLsbD_or, h, Bool.true_or]
  · rw [reg_setReg_ne s a _ e]
    exact h

theorem reg_setBits_self (s : State) (a m : Nat) : (s.setBits a m).reg a = s.reg a ||| BitVec.ofNat 32 m := by
  rw [setBits_eq, reg_setReg_self]

theorem reg_setBits_ne (s : State) (m : Nat) {a b : Nat} (ne : b ≠ a) : (s.setBits a m).reg b = s.reg b := by
  rw [setBits_eq, reg_setReg_ne s a _ ne]

theorem getLsbD_reg_setBits_self (s : State) {a m i : Nat} (lt : i < 32) (set : m.testBit i = true) :
    ((s.setBits a m).reg a).getLsbD i = true := by
  rw [reg_setBits_self, BitVec.getLsbD_or, BitVec.getLsbD_ofNat, set]
  simp [lt]

/-! ### The range checks (R35, R285) -/

/-- What the range checks leave: the timebase, AUD_MCLK_IN, every register bit that is set, the count of rejected edges,
and each output's enable and clock. -/
structure RangeOnly (s t : State) : Prop where
  tb : t.tb = s.tb
  mclk : t.mclk = s.mclk
  bits : ∀ a i, (s.reg a).getLsbD i = true → (t.reg a).getLsbD i = true
  rejects : t.reg 0x010030 = s.reg 0x010030
  outs : ∀ o, (t.out o).en = (s.out o).en ∧ (t.out o).clk = (s.out o).clk

theorem RangeOnly.refl (s : State) : RangeOnly s s := ⟨rfl, rfl, fun _ _ h => h, rfl, fun _ => ⟨rfl, rfl⟩⟩

theorem RangeOnly.trans {s t u : State} (a : RangeOnly s t) (b : RangeOnly t u) : RangeOnly s u where
  tb := b.tb.trans a.tb
  mclk := b.mclk.trans a.mclk
  bits := fun x i h => b.bits x i (a.bits x i h)
  rejects := b.rejects.trans a.rejects
  outs := fun o => ⟨(b.outs o).1.trans (a.outs o).1, (b.outs o).2.trans (a.outs o).2⟩

theorem rangeOnly_setBits (s : State) {a : Nat} (m : Nat) (ne : 0x010030 ≠ a) : RangeOnly s (s.setBits a m) :=
  ⟨rfl, rfl, fun _ _ => getLsbD_reg_setBits, reg_setBits_ne s m ne, fun _ => ⟨rfl, rfl⟩⟩

theorem rangeOnly_muteConv (s : State) (c : Nat) (m : Bool) : RangeOnly s (s.muteConv c m) := by
  cases m with
  | false => exact .refl s
  | true => exact ⟨rfl, rfl, fun _ _ h => h, rfl, fun _ => ⟨rfl, rfl⟩⟩

theorem rangeOnly_setGroup (s : State) (g : Nat) (x : Group) : RangeOnly s (s.setGroup g x) :=
  ⟨rfl, rfl, fun _ _ h => h, rfl, fun _ => ⟨rfl, rfl⟩⟩

theorem rangeOnly_setOut (s : State) (o : Nat) {x : AesOut} (en : x.en = (s.out o).en) (clk : x.clk = (s.out o).clk) :
    RangeOnly s (s.setOut o x) :=
  ⟨rfl, rfl, fun _ _ h => h, rfl, fun k => by
    by_cases e : k = o
    · subst e
      rw [out_setOut_self]
      exact ⟨en, clk⟩
    · rw [out_setOut_ne s o x e]
      exact ⟨rfl, rfl⟩⟩

theorem outReg_ne_rejects (o off : Nat) : 0x010030 ≠ outReg o off := by
  unfold outReg audBase
  omega

theorem rejects_ne_status : 0x010030 ≠ tbBase + 0x14 := by decide

theorem rangeOnly_outCheck (s : State) (o : Nat) : RangeOnly s (s.outCheck o) := by
  unfold State.outCheck
  dsimp only
  split
  · exact .refl s
  · refine .trans (t := State.setBits _ _ _) ?_ (.trans (rangeOnly_muteConv _ _ _) (rangeOnly_muteConv _ _ _))
    refine .trans ?_ (rangeOnly_setBits _ _ rejects_ne_status)
    exact .trans (t := s.setOut o _) (rangeOnly_setOut s o (by rfl) (by rfl)) (rangeOnly_setBits _ _ (outReg_ne_rejects o _))

theorem rangeOnly_groupCheck (s : State) (g : Nat) : RangeOnly s (s.groupCheck g) := by
  unfold State.groupCheck
  dsimp only
  split
  · exact .refl s
  · exact (rangeOnly_setGroup s g _).trans (rangeOnly_setBits _ _ rejects_ne_status)

theorem rangeOnly_each {α : Type} {f : State → α → State} (step : ∀ s x, RangeOnly s (f s x)) (l : List α) (s : State) :
    RangeOnly s (s.each l f) :=
  each_of_step (P := RangeOnly s) (fun t x h => h.trans (step t x)) l (.refl s)

theorem rangeOnly_rangeCheck (s : State) : RangeOnly s s.rangeCheck :=
  (rangeOnly_each rangeOnly_outCheck _ s).trans (rangeOnly_each rangeOnly_groupCheck _ _)

/-! ### A clock that is not accepted mutes its outputs (R285) -/

/-- Output o, if it is enabled with AUD_MCLK_IN as its clock, is muted while that clock is not accepted. -/
def State.mclkMuted (s : State) (o : Nat) : Prop :=
  s.mclk.accepted = false → (s.out o).en = true → (s.out o).clk = 5 → (s.out o).clkMute = true

theorem clockMuted_of_rejected {s : State} (h : s.mclk.accepted = false) : s.clockMuted 5 = true := by
  simp [State.clockMuted, h]

theorem out_muteConv (s : State) (c : Nat) (m : Bool) (k : Nat) : (s.muteConv c m).out k = s.out k := by
  cases m <;> rfl

theorem clkMute_outCheck (s : State) (o : Nat) :
    ((s.outCheck o).out o).clkMute = ((s.out o).en && s.clockMuted (s.out o).clk.val) := by
  unfold State.outCheck
  dsimp only
  split
  next same => exact same.2.2
  next => rw [out_muteConv, out_muteConv, out_setBits, out_setBits, out_setOut_self]

theorem out_outCheck_ne (s : State) {o k : Nat} (ne : k ≠ o) : (s.outCheck o).out k = s.out k := by
  unfold State.outCheck
  dsimp only
  split
  · rfl
  · rw [out_muteConv, out_muteConv, out_setBits, out_setBits, out_setOut_ne s o _ ne]

theorem mclkMuted_outCheck_self (s : State) (o : Nat) : (s.outCheck o).mclkMuted o := by
  intro rejected en clk
  have only := rangeOnly_outCheck s o
  obtain ⟨sameEn, sameClk⟩ := only.outs o
  rw [only.mclk] at rejected
  rw [clkMute_outCheck, ← sameEn, ← sameClk, en, clk]
  exact clockMuted_of_rejected rejected

theorem mclkMuted_outCheck (s : State) (k : Nat) {o : Nat} (h : s.mclkMuted o) : (s.outCheck k).mclkMuted o := by
  by_cases e : o = k
  · subst e
    exact mclkMuted_outCheck_self s o
  · intro rejected
    rw [(rangeOnly_outCheck s k).mclk] at rejected
    rw [out_outCheck_ne s e]
    exact h rejected

theorem out_groupCheck (s : State) (g k : Nat) : (s.groupCheck g).out k = s.out k := by
  unfold State.groupCheck
  dsimp only
  split <;> rfl

theorem mclkMuted_groupCheck (s : State) (g : Nat) {o : Nat} (h : s.mclkMuted o) : (s.groupCheck g).mclkMuted o := by
  intro rejected
  rw [(rangeOnly_groupCheck s g).mclk] at rejected
  rw [out_groupCheck]
  exact h rejected

theorem mclkMuted_rangeCheck (s : State) {o : Nat} (ho : o < 8) : s.rangeCheck.mclkMuted o :=
  each_of_step (P := fun t => t.mclkMuted o) (fun t g => mclkMuted_groupCheck t g) _
    (each_of_mem (P := fun t => t.mclkMuted o) (fun t => mclkMuted_outCheck_self t o) (fun t k => mclkMuted_outCheck t k)
      (List.mem_range.2 ho) s)

/-! ### AUD_MCLK_IN at an instant of the counter -/

theorem mclkCheck_of_fresh {s : State} {now : Nat} (h : s.mclk.stale now = false) : s.mclkCheck now = s := by
  rw [State.mclkCheck, h]
  rfl

/-- AUD_MCLK_IN that is no longer accepted. -/
def Mclk.stopped (m : Mclk) : Mclk := { m with accepted := false, miss := 5, periods := [] }

theorem mclkCheck_of_stale {s : State} {now : Nat} (h : s.mclk.stale now = true) :
    s.mclkCheck now = ({ s with mclk := s.mclk.stopped } : State).rangeCheck := by
  rw [State.mclkCheck, h]
  rfl

/-- What a check of AUD_MCLK_IN leaves unchanged, whatever it finds. -/
theorem mclkCheck_kept (s : State) (now : Nat) : (s.mclkCheck now).tb = s.tb ∧
    (∀ a i, (s.reg a).getLsbD i = true → ((s.mclkCheck now).reg a).getLsbD i = true) ∧
    (s.mclkCheck now).reg 0x010030 = s.reg 0x010030 := by
  cases stale : s.mclk.stale now with
  | false =>
    rw [mclkCheck_of_fresh stale]
    exact ⟨rfl, fun _ _ h => h, rfl⟩
  | true =>
    rw [mclkCheck_of_stale stale]
    have only := rangeOnly_rangeCheck { s with mclk := s.mclk.stopped }
    exact ⟨only.tb, only.bits, only.rejects⟩

theorem tb_mclkCheck (s : State) (now : Nat) : (s.mclkCheck now).tb = s.tb := (mclkCheck_kept s now).1

/-! ### The commands of the counter -/

theorem exec_referenceEdge (src : Fin 4) (t : Nat) (s : State) : exec (.referenceEdge src t) s =
    .next (s.when (s.tb.running && src != 0 && src == s.tb.src) fun s =>
      (if s.tb.counting then s.countEdge t else s.measureEdge t).mclkCheck t) := rfl

theorem exec_predictedInstant (s : State) : exec .predictedInstant s =
    .next (s.when (s.tb.counting && !s.tb.counted) fun s =>
      (s.modTb fun t => { t.tick t.predicted with counted := true }).mclkCheck s.tb.predicted) := rfl

theorem exec_internalPeriod (s : State) : exec .internalPeriod s =
    .next (s.when (s.tb.running && !s.tb.counting) fun s =>
      (s.modTb fun t => t.tick (t.lastInc + t.ratio.toNat)).mclkCheck (s.tb.lastInc + s.tb.ratio.toNat)) := rfl

/-- The prediction counts at the end of a window in which nothing was counted (R30). -/
def Tb.countPrediction (t : Tb) : Tb := if t.counted then t else t.tick t.predicted

/-- The accepted edge, or else the prediction, is the new anchor; without an edge one more is missing (R30). -/
def Tb.reanchor (t : Tb) : Tb :=
  match t.accepted with
  | some e => { t with anchor := e, miss := 0 }
  | none => { t with anchor := t.predicted, miss := min 15 (t.miss + 1) }

/-- A window ends; the 256th since the last measurement gives a new one (R33). -/
def Tb.closeWindow (t : Tb) : Tb :=
  let n := t.sinceMeasure + 1
  let t := { t with accepted := none, counted := false, sinceMeasure := n }
  if n = 256 then { t with measured := some (t.anchor - t.measureFrom), sinceMeasure := 0, measureFrom := t.anchor }
  else t

def Tb.endWindow (t : Tb) : Tb := t.countPrediction.reanchor.closeWindow

theorem exec_windowClose (s : State) : exec .windowClose s =
    .next (s.when s.tb.counting fun s =>
      if (s.modTb Tb.endWindow).tb.miss < 5 then s.modTb Tb.endWindow else (s.modTb Tb.endWindow).enterHoldover) := rfl

theorem exec_stageComplete (n : Fin 8) (r : StageEnd) (s : State) : exec (.stageComplete n r) s =
    .next (s.when ((s.stage n.val).result == 1) fun s => s.endStage n.val r) := rfl

/-- The counter is driven by edges: it runs, from an external source, and the timebase is LOCKED. -/
theorem counting_iff (t : Tb) : t.counting = true ↔ t.running = true ∧ t.src ≠ 0 ∧ t.st = .locked := by
  simp [Tb.counting, and_assoc]

/-- An edge of the selected external source is taken. -/
theorem exec_referenceEdge_of_running {s : State} (t : Nat) (running : s.tb.running = true) (ext : s.tb.src ≠ 0) :
    exec (.referenceEdge s.tb.src t) s =
      .next ((if s.tb.counting then s.countEdge t else s.measureEdge t).mclkCheck t) := by
  rw [exec_referenceEdge, when_true (by simp [running, ext])]

theorem exec_referenceEdge_of_counting {s : State} (t : Nat) (h : s.tb.counting = true) :
    exec (.referenceEdge s.tb.src t) s = .next ((s.countEdge t).mclkCheck t) := by
  obtain ⟨running, ext, _⟩ := (counting_iff _).1 h
  rw [exec_referenceEdge_of_running t running ext, if_pos h]

/-! ### Each instant moves the counter by one at most -/

/-- The counter stays or moves on by one. -/
def Moved (s t : State) : Prop := t.tb.count = s.tb.count ∨ t.tb.count = s.tb.count + 1

theorem Moved.refl (s : State) : Moved s s := .inl rfl

theorem Kept.moved {s t : State} (h : Kept s t) : Moved s t := .inl h.count

theorem Moved.kept {s t u : State} (m : Moved s t) (k : Kept t u) : Moved s u := by
  unfold Moved
  rw [k.count]
  exact m

theorem moved_when {s : State} {c : Bool} {f : State → State} (h : c = true → Moved s (f s)) : Moved s (s.when c f) := by
  cases c with
  | false => exact .refl s
  | true => exact h rfl

/-- What counts unless an increment was made already. -/
theorem moved_of_counted {s t : State} (h : t.tb.count = if s.tb.counted then s.tb.count else s.tb.count + 1) :
    Moved s t := by
  cases counted : s.tb.counted with
  | false => exact .inr (by rw [h, counted]; rfl)
  | true => exact .inl (by rw [h, counted]; rfl)

/-- An edge while the source is only measured: the period since the edge before it is added to the last 256. -/
def Tb.noteEdge (t : Tb) (at_ : Nat) : Tb :=
  let t := match t.lastEdge with
    | none => { t with periods := [] }
    | some e => { t with periods := ((at_ - e) :: t.periods).take 256 }
  { t with lastEdge := some at_, miss := if t.st = .holdover then t.miss else 0 }

/-- Acquisition completes at an edge, which is counted unless an increment came just before it (log entry 30). -/
def Tb.lock (t : Tb) (tick : Bool) (at_ : Nat) : Tb :=
  { (if tick then t.tick at_ else t).clearMeasure with
    st := .locked, miss := 0, rej := 0, anchor := at_, accepted := none, counted := false, sinceMeasure := 0,
    measureFrom := at_, measured := none }

theorem measureEdge_of_acquired {s : State} {t sum : Nat} {rate ratio : Word}
    (periods : acquired (s.tb.noteEdge t).periods = some sum) (mean : meanRate sum 256 = some (rate, ratio)) :
    s.measureEdge t = ((s.modTb fun x => x.noteEdge t).leaveHoldover.modTb fun x =>
      x.lock (decide (ratio.toNat ≤ 2 * (t - (s.tb.noteEdge t).lastInc))) t).acceptRate rate ratio := by
  change (match acquired (s.tb.noteEdge t).periods with | none => _ | some sum => _) = _
  rw [periods]
  change (match meanRate sum 256 with | none => _ | some (rate, ratio) => _) = _
  rw [mean]
  rfl

theorem measureEdge_of_measuring {s : State} {t : Nat}
    (h : ∀ sum, acquired (s.tb.noteEdge t).periods = some sum → meanRate sum 256 = none) :
    s.measureEdge t = s.modTb fun x => x.noteEdge t := by
  change (match acquired (s.tb.noteEdge t).periods with | none => _ | some sum => _) = _
  cases periods : acquired (s.tb.noteEdge t).periods with
  | none => rfl
  | some sum =>
    change (match meanRate sum 256 with | none => _ | some (rate, ratio) => _) = _
    rw [h sum periods]
    rfl

theorem count_noteEdge (t : Tb) (at_ : Nat) : (t.noteEdge at_).count = t.count := by
  unfold Tb.noteEdge
  cases t.lastEdge <;> rfl

theorem count_lock (t : Tb) (tick : Bool) (at_ : Nat) :
    (t.lock tick at_).count = t.count ∨ (t.lock tick at_).count = t.count + 1 := by
  cases tick with
  | false => exact .inl rfl
  | true => exact .inr rfl

theorem tb_modTb (s : State) (f : Tb → Tb) : (s.modTb f).tb = f s.tb := rfl

theorem tb_leaveHoldover (s : State) : s.leaveHoldover.tb = s.tb := by
  unfold State.leaveHoldover
  split <;> rfl

theorem moved_measureEdge (s : State) (t : Nat) : Moved s (s.measureEdge t) := by
  by_cases h : ∀ sum, acquired (s.tb.noteEdge t).periods = some sum → meanRate sum 256 = none
  · rw [measureEdge_of_measuring h]
    exact .inl (count_noteEdge s.tb t)
  · push Not at h
    obtain ⟨sum, periods, mean⟩ := h
    obtain ⟨⟨rate, ratio⟩, mean⟩ := Option.ne_none_iff_exists'.1 mean
    rw [measureEdge_of_acquired periods mean]
    refine Moved.kept ?_ (kept_acceptRate (.refl _))
    rw [Moved, tb_modTb, tb_leaveHoldover, ← count_noteEdge s.tb t]
    exact count_lock _ _ _

/-- The first edge in the window is accepted, and counts unless the prediction has. -/
def Tb.acceptEdge (t : Tb) (at_ : Nat) : Tb :=
  { (if t.counted then t else t.tick (min at_ t.predicted)) with accepted := some at_, counted := true, rej := 0 }

theorem countEdge_of_accepted {s : State} {t : Nat} (first : s.tb.accepted = none) (inside : s.tb.inWindow t = true) :
    s.countEdge t = s.modTb fun x => x.acceptEdge t := by
  have guard : (s.tb.accepted.isNone && s.tb.inWindow t) = true := by rw [first, inside]; rfl
  rw [State.countEdge]
  dsimp only
  rw [if_pos guard]
  rfl

theorem count_acceptEdge (t : Tb) (at_ : Nat) : (t.acceptEdge at_).count = if t.counted then t.count else t.count + 1 := by
  unfold Tb.acceptEdge
  cases t.counted <;> rfl

/-- Any other edge is rejected; the third in a row enters RELOCK. -/
def State.rejectEdge (s : State) : State :=
  ((s.modTb fun t => { t with rej := min 3 (t.rej + 1) }).bump (tbBase + 0x30) 0 32 1).setBits (tbBase + 0x14) 8

theorem countEdge_of_rejected {s : State} {t : Nat} (h : s.tb.accepted ≠ none ∨ s.tb.inWindow t = false) :
    s.countEdge t = if s.rejectEdge.tb.rej < 3 then s.rejectEdge
      else s.rejectEdge.modTb fun x => { x with st := .relock, miss := 0, periods := [], lastEdge := some t } := by
  have guard : (s.tb.accepted.isNone && s.tb.inWindow t) = false := by
    cases e : s.tb.accepted with
    | none => simpa [e] using h
    | some _ => rfl
  simp only [State.countEdge, guard]
  rfl

theorem count_countEdge_of_rejected {s : State} {t : Nat} (h : s.tb.accepted ≠ none ∨ s.tb.inWindow t = false) :
    (s.countEdge t).tb.count = s.tb.count := by
  rw [countEdge_of_rejected h]
  split <;> rfl

theorem moved_countEdge (s : State) (t : Nat) : Moved s (s.countEdge t) := by
  by_cases h : s.tb.accepted = none ∧ s.tb.inWindow t = true
  · obtain ⟨first, inside⟩ := h
    rw [countEdge_of_accepted first inside]
    exact moved_of_counted (count_acceptEdge s.tb t)
  · refine .inl (count_countEdge_of_rejected ?_)
    rw [not_and_or, Bool.not_eq_true] at h
    exact h

theorem count_reanchor (t : Tb) : t.reanchor.count = t.count := by
  unfold Tb.reanchor
  cases t.accepted <;> rfl

/-- The end of a window leaves the counter, the anchor, the count of missing edges and the state. -/
theorem closeWindow_kept (t : Tb) : t.closeWindow.count = t.count ∧ t.closeWindow.anchor = t.anchor ∧
    t.closeWindow.miss = t.miss ∧ t.closeWindow.st = t.st ∧ t.closeWindow.accepted = none ∧
    t.closeWindow.counted = false := by
  unfold Tb.closeWindow
  dsimp only
  split <;> exact ⟨rfl, rfl, rfl, rfl, rfl, rfl⟩

theorem count_endWindow (t : Tb) : t.endWindow.count = if t.counted then t.count else t.count + 1 := by
  rw [Tb.endWindow, (closeWindow_kept _).1, count_reanchor, Tb.countPrediction]
  cases t.counted <;> rfl

theorem moved_windowClose (s : State) : ∀ t, exec .windowClose s = .next t → Moved s t := by
  rw [exec_windowClose]
  rintro t ⟨⟩
  refine moved_when fun _ => ?_
  have ended : Moved s (s.modTb Tb.endWindow) := moved_of_counted (count_endWindow s.tb)
  split
  · exact ended
  · exact ended.kept (kept_enterHoldover (.refl _))

theorem moved_referenceEdge (src : Fin 4) (e : Nat) (s : State) :
    ∀ t, exec (.referenceEdge src e) s = .next t → Moved s t := by
  rintro t ⟨⟩
  refine moved_when fun _ => Moved.kept ?_ (kept_mclkCheck (.refl _))
  split
  · exact moved_countEdge s e
  · exact moved_measureEdge s e

theorem moved_predictedInstant (s : State) : ∀ t, exec .predictedInstant s = .next t → Moved s t := by
  rintro t ⟨⟩
  refine moved_when fun _ => Moved.kept ?_ (kept_mclkCheck (.refl _))
  exact .inr rfl

theorem moved_internalPeriod (s : State) : ∀ t, exec .internalPeriod s = .next t → Moved s t := by
  rintro t ⟨⟩
  refine moved_when fun _ => Moved.kept ?_ (kept_mclkCheck (.refl _))
  exact .inr rfl

/-! ### Start-up and resets clear the counter -/

/-- The counter stays or is 0. -/
def Cleared (s t : State) : Prop := t.tb.count = s.tb.count ∨ t.tb.count = 0

theorem Kept.cleared {s t : State} (h : Kept s t) : Cleared s t := .inl h.count

/-- Only the end of stage 0 sets the counter. -/
theorem kept_nextStages {s0 s : State} {n : Nat} {us : Word} (ne : n ≠ 0) (h : Kept s0 s) : Kept s0 (s.nextStages n us) := by
  unfold State.nextStages
  split
  · exact absurd rfl ne
  · exact kept_beginStage (kept_beginStage (kept_beginStage h))
  · exact kept_ifThen h kept_beginStage
  · exact kept_ifThen h kept_beginStage
  · exact kept_each (kept_beginStage h) fun _ _ h => kept_unless h kept_modPort
  · exact kept_beginStage h
  · exact h

/-- A stage that is done, before the stages after it begin. -/
def State.stageReported (s : State) (n : Nat) (r : StageEnd) : State :=
  let marked := if n = 4 then (s.stageMarks r).length else 0
  let s := s.stageWork n r
  let x := s.stage n
  let time := if n = 0 then 0 else s.tb.count
  (s.setStage n { x with result := 2, endUs := r.endUs, time := time, marked := marked,
                         detail := s.stageDetail n }).stageWritten n

theorem stageDone_eq (s : State) (n : Nat) (r : StageEnd) : s.stageDone n r =
    if (s.stageReported n r).halted then s.stageReported n r else (s.stageReported n r).nextStages n r.endUs := rfl

theorem kept_stageReported {s0 s : State} {n : Nat} {r : StageEnd} (h : Kept s0 s) : Kept s0 (s.stageReported n r) :=
  kept_stageWritten (kept_setStage (kept_stageWork h))

theorem kept_stageDone {s0 s : State} {n : Nat} {r : StageEnd} (ne : n ≠ 0) (h : Kept s0 s) : Kept s0 (s.stageDone n r) := by
  rw [stageDone_eq]
  exact kept_unless (kept_stageReported h) (kept_nextStages ne)

theorem cleared_stageDone (s : State) (r : StageEnd) : Cleared s (s.stageDone 0 r) := by
  rw [stageDone_eq]
  split
  · exact (kept_stageReported (.refl s)).cleared
  · exact .inr rfl

/-- A stage ends failed, falls short of the grade, or is done. -/
theorem endStage_cases {P : State → Prop} {s : State} {n : Nat} {r : StageEnd}
    (failed : ∀ cause kind unit, P (s.endFailed n r cause kind unit))
    (short : P ((s.stageWork 5 r).stageFails 5 0x0B 0 0 r.endUs 0)) (done : P (s.stageDone n r)) : P (s.endStage n r) := by
  unfold State.endStage
  split
  · exact failed _ _ _
  · split
    next five =>
      subst five
      split
      · exact done
      · exact short
    next =>
      split
      · exact failed _ _ _
      · exact done

theorem kept_endStage {s : State} {n : Nat} {r : StageEnd} (ne : n ≠ 0) : Kept s (s.endStage n r) :=
  endStage_cases (fun _ _ _ => kept_endFailed (.refl s)) (kept_stageFails (kept_stageWork (.refl s)))
    (kept_stageDone ne (.refl s))

theorem cleared_endStage (s : State) (r : StageEnd) : Cleared s (s.endStage 0 r) :=
  endStage_cases (fun _ _ _ => (kept_endFailed (.refl s)).cleared)
    (kept_stageFails (kept_stageWork (.refl s))).cleared (cleared_stageDone s r)

/-- Nothing of the timebase is kept by a whole-device reset. -/
theorem count_warmKept (s : State) (cause : Nat) : (s.warmKept cause).tb.count = 0 := by
  unfold State.warmKept
  split <;> rfl

theorem count_warmReset (s : State) (cause : Nat) : (s.warmReset cause).tb.count = 0 := by
  unfold State.warmReset
  dsimp only
  split
  · exact (kept_stopAll (.refl _)).count.trans (count_warmKept s cause)
  · exact count_warmKept s cause

theorem count_powerOn (s : State) : s.powerOn.tb.count = s.tb.count := rfl


/-! ### The statement -/

theorem next_of_keptR {s t : State} {x : Outcome} (h : KeptR s x) (e : x = .next t) : Kept s t := by
  subst e
  exact h

theorem count_execRstact {action : Byte} {s t : State} (e : exec (.rstact action) s = .next t) :
    t.tb.count = s.tb.count ∨ t.tb.count = 0 ∧ action = 2 := by
  change Host.Outcome.next (State.when _ _ _) = _ at e
  cases e
  cases live : s.i3c.live with
  | false => exact .inl rfl
  | true =>
    rw [when_true rfl]
    split
    · exact .inl (kept_ccc (.refl s)).count
    · split
      · exact .inl (kept_i3cReset (.refl s)).count
      · split
        next two => exact .inr ⟨(count_powerOn _).trans (count_warmReset s 3), two⟩
        next => exact .inl rfl

/-- A rail joins those outside their range. -/
def State.loseRail (s : State) (rail : Fin 7) : State :=
  { s with badRails := if s.badRails.contains rail then s.badRails else rail :: s.badRails }

theorem exec_railExcursion (rail : Fin 7) (s : State) : exec (.railExcursion rail) s =
    .next (if s.started then s.loseRail rail else if rail = railNet then (s.loseRail rail).netLost
      else if rail = railPhy then (s.loseRail rail).modNet Net.idKept else s.loseRail rail) := rfl

theorem count_execRailExcursion {rail : Fin 7} {s t : State} (e : exec (.railExcursion rail) s = .next t) :
    t.tb.count = s.tb.count ∨ t.tb.count = 0 ∧ rail = 2 := by
  rw [exec_railExcursion] at e
  cases e
  split
  · exact .inl rfl
  · split
    next net => exact .inr ⟨rfl, net⟩
    next => split <;> exact .inl rfl

theorem count_execStageComplete {n : Fin 8} {r : StageEnd} {s t : State} (e : exec (.stageComplete n r) s = .next t) :
    t.tb.count = s.tb.count ∨ t.tb.count = 0 ∧ n = 0 := by
  rw [exec_stageComplete] at e
  cases e
  cases due : (s.stage n.val).result == 1 with
  | false => exact .inl rfl
  | true =>
    rw [when_true rfl]
    by_cases zero : n = 0
    · subst zero
      exact (cleared_endStage s r).imp_right fun c => ⟨c, rfl⟩
    · exact .inl (kept_endStage fun h => zero (Fin.ext h)).count

theorem count_execWholeDeviceReset {s t : State} (e : exec .wholeDeviceReset s = .next t) : Cleared s t := by
  change Host.Outcome.next (State.when _ _ _) = _ at e
  cases e
  cases due : s.resetReq with
  | false => exact .inl rfl
  | true => exact .inr ((count_powerOn _).trans (count_warmReset s 2))

/-- What one command does to the counter. -/
theorem count_exec (c : Instr) (s t : State) (e : exec c s = .next t) : t.tb.count = s.tb.count ∨
    t.tb.count = s.tb.count + 1 ∧ ((∃ src e, c = .referenceEdge src e) ∨ c = .predictedInstant ∨ c = .windowClose ∨
      c = .internalPeriod) ∨
    t.tb.count = 0 ∧ ((∃ r, c = .stageComplete 0 r) ∨ c = .resetNLow ∨ c = .pwrOkLow ∨ c = .wholeDeviceReset ∨
      c = .rstact 2 ∨ c = .vddNetLoss ∨ c = .railExcursion 2) := by
  cases steady : Instr.movesCount c with
  | false => exact .inl (next_of_keptR (kept_exec c steady (.refl s)) e).count
  | true =>
    cases c with
    | referenceEdge src at_ =>
      exact (moved_referenceEdge src at_ s t e).imp_right fun m => .inl ⟨m, .inl ⟨src, at_, rfl⟩⟩
    | predictedInstant => exact (moved_predictedInstant s t e).imp_right fun m => .inl ⟨m, .inr (.inl rfl)⟩
    | windowClose => exact (moved_windowClose s t e).imp_right fun m => .inl ⟨m, .inr (.inr (.inl rfl))⟩
    | internalPeriod => exact (moved_internalPeriod s t e).imp_right fun m => .inl ⟨m, .inr (.inr (.inr rfl))⟩
    | stageComplete n r =>
      exact (count_execStageComplete e).imp_right fun ⟨m, zero⟩ => .inr ⟨m, .inl ⟨r, by rw [zero]⟩⟩
    | resetNLow => cases e; exact .inr (.inr ⟨count_warmReset s 1, .inr (.inl rfl)⟩)
    | pwrOkLow => cases e; exact .inr (.inr ⟨count_warmReset s 1, .inr (.inr (.inl rfl))⟩)
    | wholeDeviceReset => exact (count_execWholeDeviceReset e).imp_right fun m => .inr ⟨m, by simp⟩
    | rstact action => exact (count_execRstact e).imp_right fun ⟨m, two⟩ => .inr ⟨m, by simp [two]⟩
    | vddNetLoss => cases e; exact .inr (.inr ⟨rfl, by simp⟩)
    | railExcursion rail => exact (count_execRailExcursion e).imp_right fun ⟨m, net⟩ => .inr ⟨m, by simp [net]⟩
    | _ => cases steady

theorem halted_resetRates (s : State) : s.resetRates.halted = s.halted :=
  each_of_step (P := fun t => t.halted = s.halted) (fun t p h => by split <;> exact h) _ rfl

theorem halted_stageWritten (s : State) (n : Nat) : (s.stageWritten n).halted = s.halted := by
  unfold State.stageWritten
  split <;> rfl

theorem halted_stageReported (s : State) (n : Nat) (r : StageEnd) :
    (s.stageReported n r).halted = (s.stageWork n r).halted := by
  unfold State.stageReported
  dsimp only
  rw [halted_stageWritten]
  rfl

theorem halted_stageWork_zero (s : State) (r : StageEnd) : (s.stageWork 0 r).halted = s.halted := by
  simp only [State.stageWork, halted_resetRates]

/-- Stage 1 begins as stage 0 is done, with the counter at 0 (R25). -/
theorem nextStages_zero (s : State) (us : Word) : (s.nextStages 0 us).tb.count = 0 ∧
    (s.nextStages 0 us).tb.running = true ∧ ((s.nextStages 0 us).stage 1).result = 1 :=
  ⟨rfl, rfl, congrArg Stage.result (Tbl.get_set_self ({} : Stage) { result := 1, startUs := us } s.stages 1)⟩

theorem stageDone_zero {s : State} {r : StageEnd} (running : s.halted = false) :
    s.stageDone 0 r = (s.stageReported 0 r).nextStages 0 r.endUs := by
  have kept : (s.stageReported 0 r).halted = false := by
    rw [halted_stageReported, halted_stageWork_zero, running]
  rw [stageDone_eq, kept]
  rfl

theorem endStage_of_done {s : State} {n : Nat} {r : StageEnd} (must : s.mustFail n = none) (ne : n ≠ 5)
    (ok : r.failed = false) : s.endStage n r = s.stageDone n r := by
  rw [State.endStage, must]
  dsimp only
  rw [if_neg ne, ok]
  rfl

theorem exec_predictedInstant_of_uncounted {s : State} (h : s.tb.counting = true) (fresh : s.tb.counted = false) :
    exec .predictedInstant s = .next ((s.modTb fun t => { t.tick t.predicted with counted := true }).mclkCheck
      s.tb.predicted) := by
  rw [exec_predictedInstant, when_true (by rw [h, fresh]; rfl)]

theorem exec_internalPeriod_of_free {s : State} (running : s.tb.running = true) (free : s.tb.counting = false) :
    exec .internalPeriod s = .next ((s.modTb fun t => t.tick (t.lastInc + t.ratio.toNat)).mclkCheck
      (s.tb.lastInc + s.tb.ratio.toNat)) := by
  rw [exec_internalPeriod, when_true (by rw [running, free]; rfl)]

/-- One increment per period: an accepted edge or the prediction, whichever comes first. -/
theorem counts_once (e : Nat) (c : Instr) (s : State) (h : s.tb.counting = true) (fresh : s.tb.counted = false)
    (ev : c = .referenceEdge s.tb.src e ∧ s.tb.accepted = none ∧ s.tb.inWindow e = true ∨ c = .predictedInstant) :
    ∃ t, exec c s = .next t ∧ t.tb.count = s.tb.count + 1 ∧ t.tb.counted = true := by
  rcases ev with ⟨rfl, first, inside⟩ | rfl
  · refine ⟨_, exec_referenceEdge_of_counting e h, ?_⟩
    rw [tb_mclkCheck, countEdge_of_accepted first inside, tb_modTb, count_acceptEdge, fresh]
    exact ⟨rfl, rfl⟩
  · refine ⟨_, exec_predictedInstant_of_uncounted h fresh, ?_⟩
    rw [tb_mclkCheck]
    exact ⟨rfl, rfl⟩

/-- A period that has been counted is not counted again. -/
theorem counts_no_more (e : Nat) (c : Instr) (s : State) (h : s.tb.counting = true) (counted : s.tb.counted = true)
    (ev : c = .referenceEdge s.tb.src e ∨ c = .predictedInstant ∨ c = .windowClose) :
    ∃ t, exec c s = .next t ∧ t.tb.count = s.tb.count := by
  rcases ev with rfl | rfl | rfl
  · refine ⟨_, exec_referenceEdge_of_counting e h, ?_⟩
    rw [tb_mclkCheck]
    by_cases inside : s.tb.accepted = none ∧ s.tb.inWindow e = true
    · rw [countEdge_of_accepted inside.1 inside.2, tb_modTb, count_acceptEdge, counted]
      rfl
    · rw [not_and_or, Bool.not_eq_true] at inside
      exact count_countEdge_of_rejected inside
  · refine ⟨s, ?_, rfl⟩
    rw [exec_predictedInstant, when_false (by simp [counted])]
  · refine ⟨_, exec_windowClose s, ?_⟩
    rw [when_true h]
    have count : (s.modTb Tb.endWindow).tb.count = s.tb.count := by
      rw [tb_modTb, count_endWindow, counted]
      rfl
    split
    · exact count
    · exact (kept_enterHoldover (.refl _)).count.trans count

/-- Settles O6: no command but those of a period, of stage 0's end and of a whole-device reset moves the counter
(`count_exec`, from what every other command keeps), and each period counts once. -/
theorem counterMovesByPeriods : Obligations.CounterMovesByPeriods := by
  refine ⟨count_exec, ?stage1, ?internal, counts_once, counts_no_more, ?resets, rfl, by decide⟩
  case stage1 =>
    intro r s due ok running must
    refine ⟨_, ?_, nextStages_zero (s.stageReported 0 r) r.endUs⟩
    rw [exec_stageComplete, when_true (by simpa using due), ← stageDone_zero running]
    exact congrArg Host.Outcome.next (endStage_of_done must (by decide) ok)
  case internal =>
    intro s running free
    refine ⟨_, exec_internalPeriod_of_free running free, ?_⟩
    rw [tb_mclkCheck]
    rfl
  case resets =>
    rintro c s (rfl | rfl | ⟨rfl, due⟩ | rfl)
    · exact ⟨_, rfl, count_warmReset s 1⟩
    · exact ⟨_, rfl, count_warmReset s 1⟩
    · refine ⟨_, congrArg Host.Outcome.next (when_true due), ?_⟩
      exact (count_powerOn _).trans (count_warmReset s 2)
    · exact ⟨_, rfl, rfl⟩

/-! ### Counting a LOCKED external source -/

theorem acceptEdge_of_uncounted {t : Tb} (at_ : Nat) (fresh : t.counted = false) : t.acceptEdge at_ =
    { t with count := t.count + 1, wclk := t.wclk + 1, lastInc := min at_ t.predicted, accepted := some at_,
             counted := true, rej := 0 } := by
  rw [Tb.acceptEdge, fresh]
  rfl

theorem fld_word (w : Word) : fld w.toNat 0 32 = w.toNat := by
  have bound := w.isLt
  unfold fld
  omega

/-- A counter that fills its register saturates at 32 bits. -/
theorem reg_bump_word (s : State) (a k : Nat) : (s.bump a 0 32 k).reg a = satAdd32 (s.reg a) k := by
  rw [bump_eq, reg_setReg_self, fld_word, satAdd32]
  congr 1
  omega

theorem tb_rejectEdge (s : State) : s.rejectEdge.tb = { s.tb with rej := min 3 (s.tb.rej + 1) } := by
  rw [State.rejectEdge, tb_setBits, tb_bump, tb_modTb]

/-- A rejected edge is counted in TB.REJECTS and sets its bit of TB.STATUS, and changes nothing else but the timebase. -/
theorem rejectEdge_facts (s : State) : s.rejectEdge.tb.count = s.tb.count ∧
    s.rejectEdge.tb.rej = min 3 (s.tb.rej + 1) ∧ s.rejectEdge.tb.st = s.tb.st ∧
    s.rejectEdge.reg 0x010030 = satAdd32 (s.reg 0x010030) 1 ∧ (s.rejectEdge.reg 0x010014).getLsbD 3 = true ∧
    s.rejectEdge.mclk = s.mclk ∧ { s.rejectEdge with tb := s.tb, regs := s.regs } = s := by
  rw [tb_rejectEdge]
  refine ⟨rfl, rfl, rfl, ?rejects, ?bit, rfl, ?frame⟩
  case rejects =>
    rw [State.rejectEdge, reg_setBits_ne _ _ rejects_ne_status]
    exact reg_bump_word _ _ _
  case bit =>
    exact getLsbD_reg_setBits_self _ (a := tbBase + 0x14) (by decide) (by decide)
  case frame => dsimp only [State.rejectEdge, State.setBits, State.bump, State.setReg, State.modTb]

theorem countEdge_rejected (t : Nat) (s : State) (h : s.tb.counting = true)
    (rejected : s.tb.accepted ≠ none ∨ s.tb.inWindow t = false) :
    (s.countEdge t).tb.count = s.tb.count ∧ (s.countEdge t).tb.rej = min 3 (s.tb.rej + 1) ∧
      (s.countEdge t).tb.st = (if 2 ≤ s.tb.rej then .relock else .locked) ∧
      (s.countEdge t).reg 0x010030 = satAdd32 (s.reg 0x010030) 1 ∧ ((s.countEdge t).reg 0x010014).getLsbD 3 = true ∧
      (s.countEdge t).mclk = s.mclk ∧ { s.countEdge t with tb := s.tb, regs := s.regs } = s := by
  obtain ⟨count, rej, st, rejects, bit, mclk, frame⟩ := rejectEdge_facts s
  obtain ⟨_, _, locked⟩ := (counting_iff _).1 h
  rw [countEdge_of_rejected rejected]
  by_cases third : 2 ≤ s.tb.rej
  · rw [if_neg (by rw [rej]; omega), if_pos third]
    exact ⟨count, rej, rfl, rejects, bit, mclk, frame⟩
  · rw [if_pos (by rw [rej]; omega), if_neg third]
    exact ⟨count, rej, st.trans locked, rejects, bit, mclk, frame⟩

theorem referenceEdge_rejected (t : Nat) (s : State) (h : s.tb.counting = true)
    (rejected : s.tb.accepted ≠ none ∨ s.tb.inWindow t = false) :
    ∃ u, exec (.referenceEdge s.tb.src t) s = .next u ∧ u.tb.count = s.tb.count ∧ u.tb.rej = min 3 (s.tb.rej + 1) ∧
      u.tb.st = (if 2 ≤ s.tb.rej then .relock else .locked) ∧ u.reg 0x010030 = satAdd32 (s.reg 0x010030) 1 ∧
      (u.reg 0x010014).getLsbD 3 = true ∧ (s.mclk.stale t = false → { u with tb := s.tb, regs := s.regs } = s) := by
  obtain ⟨count, rej, st, rejects, bit, mclk, frame⟩ := countEdge_rejected t s h rejected
  obtain ⟨tb, bits, kept⟩ := mclkCheck_kept (s.countEdge t) t
  refine ⟨_, exec_referenceEdge_of_counting t h, ?_⟩
  rw [tb, kept]
  refine ⟨count, rej, st, rejects, bits _ _ bit, fun fresh => ?_⟩
  rw [mclkCheck_of_fresh (by rw [mclk]; exact fresh)]
  exact frame

/-! ### The end of a window -/

theorem reanchor_facts (t : Tb) : t.reanchor.anchor = t.accepted.getD t.predicted ∧
    t.reanchor.miss = (if t.accepted = none then min 15 (t.miss + 1) else 0) ∧ t.reanchor.st = t.st := by
  unfold Tb.reanchor
  cases accepted : t.accepted with
  | none => exact ⟨rfl, rfl, rfl⟩
  | some e => exact ⟨rfl, rfl, rfl⟩

/-- A window of a period that has been counted ends. -/
theorem endWindow_of_counted {t : Tb} (counted : t.counted = true) : t.endWindow.count = t.count ∧
    t.endWindow.anchor = t.accepted.getD t.predicted ∧
    t.endWindow.miss = (if t.accepted = none then min 15 (t.miss + 1) else 0) ∧ t.endWindow.st = t.st ∧
    t.endWindow.accepted = none ∧ t.endWindow.counted = false := by
  have stays : t.countPrediction = t := by rw [Tb.countPrediction, if_pos counted]
  obtain ⟨anchor, miss, st⟩ := reanchor_facts t
  obtain ⟨closedCount, closedAnchor, closedMiss, closedSt, accepted, uncounted⟩ := closeWindow_kept t.reanchor
  rw [Tb.endWindow, stays]
  exact ⟨closedCount.trans (count_reanchor t), closedAnchor.trans anchor, closedMiss.trans miss, closedSt.trans st,
    accepted, uncounted⟩

theorem windowClose_below_five (s : State) (h : s.tb.counting = true) (counted : s.tb.counted = true)
    (few : s.tb.accepted ≠ none ∨ s.tb.miss < 4) :
    ∃ u, exec .windowClose s = .next u ∧ u.tb.count = s.tb.count ∧ u.tb.anchor = s.tb.accepted.getD s.tb.predicted ∧
      u.tb.miss = (if s.tb.accepted = none then s.tb.miss + 1 else 0) ∧ u.tb.accepted = none ∧ u.tb.counted = false ∧
      { u with tb := s.tb } = s := by
  obtain ⟨count, anchor, miss, _, accepted, uncounted⟩ := endWindow_of_counted counted
  have miss' : s.tb.endWindow.miss = (if s.tb.accepted = none then s.tb.miss + 1 else 0) := by
    rw [miss]
    split
    next none => have := few.resolve_left (absurd none); omega
    next => rfl
  have below : (s.modTb Tb.endWindow).tb.miss < 5 := by
    rw [tb_modTb, miss']
    split
    next none => have := few.resolve_left (absurd none); omega
    next => omega
  refine ⟨s.modTb Tb.endWindow, ?_, count, anchor, miss', accepted, uncounted, rfl⟩
  rw [exec_windowClose, when_true h, if_pos below]

/-! ### AUD_MCLK_IN at the counter's instants -/

theorem mclkCheck_facts (now : Nat) (s : State) : (s.mclkCheck now).tb = s.tb ∧
    if s.mclk.stale now then (s.mclkCheck now).mclk.accepted = false ∧
      ∀ o : Fin 8, (s.out o.val).en = true → (s.out o.val).clk = 5 → ((s.mclkCheck now).out o.val).clkMute = true
    else s.mclkCheck now = s := by
  refine ⟨tb_mclkCheck s now, ?_⟩
  cases stale : s.mclk.stale now with
  | false => exact mclkCheck_of_fresh stale
  | true =>
    rw [mclkCheck_of_stale stale]
    have only := rangeOnly_rangeCheck { s with mclk := s.mclk.stopped }
    have rejected : (State.rangeCheck { s with mclk := s.mclk.stopped }).mclk.accepted = false := by rw [only.mclk]; rfl
    refine ⟨rejected, fun o en clk => mclkMuted_rangeCheck _ o.isLt rejected ?_ ?_⟩
    · rw [(only.outs o.val).1]
      exact en
    · rw [(only.outs o.val).2]
      exact clk

/-- Settles O11: each instant of the counter is one update of the timebase and one check of AUD_MCLK_IN. -/
theorem timebaseCounting : Obligations.TimebaseCounting := by
  refine ⟨?accepted, referenceEdge_rejected, ?other, ?predicted, windowClose_below_five, ?internal, mclkCheck_facts⟩
  case accepted =>
    intro t s h first inside fresh
    rw [exec_referenceEdge_of_counting t h, countEdge_of_accepted first inside, State.modTb, acceptEdge_of_uncounted t fresh]
  case other =>
    intro src t s ne
    rw [exec_referenceEdge, when_false (by simp [ne])]
  case predicted =>
    intro s h fresh
    exact exec_predictedInstant_of_uncounted h fresh
  case internal =>
    intro s running free
    exact exec_internalPeriod_of_free running free

/-! ### An event (R371, R372) -/

/-- What the queueing of a packet leaves: the timebase, the sequence number of events, and every register but the count of
packets that SOUT discards. -/
structure Queued (s t : State) : Prop where
  tb : t.tb = s.tb
  eventSeq : t.eventSeq = s.eventSeq
  reg : ∀ a, a ≠ lnkReg 5 0x1C → t.reg a = s.reg a

theorem Queued.refl (s : State) : Queued s s := ⟨rfl, rfl, fun _ _ => rfl⟩

theorem Queued.trans {s t u : State} (a : Queued s t) (b : Queued t u) : Queued s u :=
  ⟨b.tb.trans a.tb, b.eventSeq.trans a.eventSeq, fun x ne => (b.reg x ne).trans (a.reg x ne)⟩

theorem queued_discardOn (s : State) : Queued s (s.discardOn 5) :=
  ⟨rfl, rfl, fun a ne => by rw [State.discardOn, bump_eq, reg_setReg_ne s _ _ ne]⟩

theorem queued_queuePkt (s : State) (p : Pkt) : Queued s (s.queuePkt p) := by
  unfold State.queuePkt
  split
  · exact queued_discardOn s
  · exact ⟨rfl, rfl, fun _ _ => rfl⟩

theorem queued_queueOwn (s : State) (p : Pkt) : Queued s (s.queueOwn p) := by
  unfold State.queueOwn
  split
  · exact queued_queuePkt s p
  · split
    · exact ⟨rfl, rfl, fun _ _ => rfl⟩
    · exact queued_discardOn s

theorem queued_raiseIbi (s : State) (code : Nat) : Queued s (s.raiseIbi code) := ⟨rfl, rfl, fun _ _ => rfl⟩

/-- The packets of an event: to the own id, and to every other recipient. -/
def State.sendEvent (s : State) (code : Nat) (part : Option Nat) (status : BitVec 16) (subject detail : Nat)
    (owner : Option (BitVec 12)) : State :=
  let pn := part.getD 0
  let bs := completionBytes 0 1 0 pn status s.tb.count (eventBytes code part subject detail s.tb.count s.eventSeq)
  let s := { s with lastEvent := bs }
  let s := (s.queueOwn (s.buildPkt 0x31 1 s.net.id pn true bs)).raiseIbi 2
  let named := (match part with | some p => (s.part p).sources | none => []) ++ owner.toList
  let others := (named.filter (· != s.net.id)).eraseDups
  s.each others fun s d => s.queuePkt (s.buildPkt 0x31 1 d pn true bs)

theorem raiseEvent_eq (s : State) (code : Nat) (part : Option Nat) (status : BitVec 16) (subject detail : Nat)
    (owner : Option (BitVec 12)) : s.raiseEvent code part status subject detail owner =
      (({ s with eventSeq := s.eventSeq + 1 } : State).setBits 0x20 (2 ^ (code - 1))).sendEvent code part status subject
        detail owner := rfl

theorem queued_sendEvent (s : State) (code : Nat) (part : Option Nat) (status : BitVec 16) (subject detail : Nat)
    (owner : Option (BitVec 12)) : Queued s (s.sendEvent code part status subject detail owner) := by
  refine each_of_step (P := Queued s) (fun t d h => h.trans (queued_queuePkt t _)) _ ?_
  refine .trans (.trans ?_ (queued_queueOwn _ _)) (queued_raiseIbi _ 2)
  exact ⟨rfl, rfl, fun _ _ => rfl⟩

/-- An event of code `code`: one more in the sequence, and its bit of SYS.EVENTS. -/
theorem raiseEvent_facts (s : State) {code : Nat} (low : code - 1 < 32) (part : Option Nat) (status : BitVec 16)
    (subject detail : Nat) (owner : Option (BitVec 12)) :
    let u := s.raiseEvent code part status subject detail owner
    u.tb = s.tb ∧ u.eventSeq = s.eventSeq + 1 ∧ (u.reg 0x20).getLsbD (code - 1) = true ∧
      ∀ a, a ≠ lnkReg 5 0x1C → a ≠ 0x20 → u.reg a = s.reg a := by
  intro u
  have sent := queued_sendEvent (({ s with eventSeq := s.eventSeq + 1 } : State).setBits 0x20 (2 ^ (code - 1))) code part
    status subject detail owner
  rw [← raiseEvent_eq] at sent
  refine ⟨sent.tb, sent.eventSeq, ?_, fun a discards events => ?_⟩
  · rw [sent.reg 0x20 (by decide)]
    exact getLsbD_reg_setBits_self _ low (by simp)
  · rw [sent.reg a discards, reg_setBits_ne _ _ events]
    rfl

/-! ### HOLDOVER (R32) -/

theorem enterHoldover_facts (s : State) : s.enterHoldover.tb = { s.tb.clearMeasure with st := .holdover } ∧
    (s.enterHoldover.reg 0x010014).getLsbD 0 = true ∧ s.enterHoldover.eventSeq = s.eventSeq + 1 ∧
    (s.enterHoldover.reg 0x20).getLsbD 1 = true := by
  obtain ⟨tb, seq, bit, regs⟩ := raiseEvent_facts
    (((s.modTb fun t => { t.clearMeasure with st := .holdover }).setBits (tbBase + 0x14) 1).bump (tbBase + 0x34) 0 16 1)
    (code := evTimebaseLost) (by decide) none stTimebaseLost s.tb.src.val s.tb.rate.toNat none
  refine ⟨tb, ?_, seq, bit⟩
  refine (congrArg (BitVec.getLsbD · 0) (regs 0x010014 (by decide) (by decide))).trans ?_
  rw [bump_eq, reg_setReg_ne _ _ _ (by decide)]
  exact getLsbD_reg_setBits_self _ (a := tbBase + 0x14) (by decide) (by decide)

/-- One more expected edge has not come. -/
def Tb.missEdge (t : Tb) : Tb := { t with miss := min 15 (t.miss + 1) }

theorem exec_missingSpan {s : State} (running : s.tb.running = true) (ext : s.tb.src ≠ 0)
    (measuring : s.tb.st = .acquire ∨ s.tb.st = .relock) : exec .missingSpan s =
      .next (if (s.modTb Tb.missEdge).tb.miss < 5 then s.modTb Tb.missEdge else (s.modTb Tb.missEdge).enterHoldover) := by
  have due : (s.tb.running && s.tb.src != 0 && (s.tb.st == .acquire || s.tb.st == .relock)) = true := by
    simpa [running, ext] using measuring
  exact congrArg Host.Outcome.next (when_true due)

/-- What the fifth missing edge in a row leaves, whichever instant finds it. -/
theorem holdover_of_fifth {s : State} {f : Tb → Tb} (miss : (f s.tb).miss = 5) (count : (f s.tb).count = s.tb.count) :
    let u := (s.modTb f).enterHoldover
    u.tb.st = .holdover ∧ u.tb.miss = 5 ∧ u.tb.count = s.tb.count ∧ (u.reg 0x010014).getLsbD 0 = true ∧
      u.eventSeq = s.eventSeq + 1 ∧ (u.reg 0x20).getLsbD 1 = true := by
  intro u
  obtain ⟨tb, lost, seq, event⟩ := enterHoldover_facts (s.modTb f)
  refine ⟨?_, ?_, ?_, lost, seq, event⟩
  · rw [tb]
  · rw [tb]
    exact miss
  · rw [tb]
    exact count

theorem timebaseHoldover : Claims.TimebaseHoldover := by
  refine ⟨?below, ?fifth⟩
  case below =>
    intro s running ext measuring few
    have miss : s.tb.missEdge = { s.tb with miss := s.tb.miss + 1 } := by
      rw [Tb.missEdge, show min 15 (s.tb.miss + 1) = s.tb.miss + 1 by omega]
    rw [exec_missingSpan running ext measuring, tb_modTb, miss, if_pos (show s.tb.miss + 1 < 5 by omega), State.modTb, miss]
  case fifth =>
    rintro c s running ext four (⟨rfl, measuring⟩ | ⟨rfl, counting, counted, missing⟩)
    · have miss : s.tb.missEdge.miss = 5 := by rw [Tb.missEdge, four]; rfl
      refine ⟨_, ?_, holdover_of_fifth (f := Tb.missEdge) miss rfl⟩
      rw [exec_missingSpan running ext measuring, tb_modTb, miss, if_neg (by decide)]
    · obtain ⟨count, _, miss, _⟩ := endWindow_of_counted counted
      have miss : s.tb.endWindow.miss = 5 := by rw [miss, if_pos missing, four]; rfl
      refine ⟨_, ?_, holdover_of_fifth miss count⟩
      rw [exec_windowClose, when_true counting, tb_modTb, miss, if_neg (by decide)]

/-! ### Acquisition and re-measurement (R29, R33) -/

/-- An accepted rate differs from the one before it by more than 0.1 %. -/
def Tb.changesTo (t : Tb) (rate : Word) : Bool :=
  decide (t.rate.toNat < 1000 * ((rate.toNat : Int) - (t.rate.toNat : Int)).natAbs)

/-- The timebase at an accepted rate, the change recorded when it is one. -/
def Tb.acceptRate (t : Tb) (rate ratio : Word) : Tb :=
  if t.changesTo rate then { t with rate := rate, ratio := ratio, chgTime := t.count, chgOld := t.rate, chgNew := rate }
  else { t with rate := rate, ratio := ratio }

theorem acceptRate_facts (s : State) (rate ratio : Word) :
    (s.acceptRate rate ratio).tb = s.tb.acceptRate rate ratio ∧
    (∀ a i, (s.reg a).getLsbD i = true → ((s.acceptRate rate ratio).reg a).getLsbD i = true) ∧
    (s.tb.changesTo rate = true → ((s.acceptRate rate ratio).reg 0x010014).getLsbD 2 = true) := by
  have only := rangeOnly_rangeCheck (if s.tb.changesTo rate then
    ((s.modTb fun t => { t with rate := rate, ratio := ratio }).modTb fun x =>
      { x with chgTime := s.tb.count, chgOld := s.tb.rate, chgNew := rate }).setBits (tbBase + 0x14) 4
    else s.modTb fun t => { t with rate := rate, ratio := ratio })
  change RangeOnly _ (s.acceptRate rate ratio) at only
  rw [Tb.acceptRate]
  cases changes : s.tb.changesTo rate with
  | false =>
    rw [changes] at only
    exact ⟨only.tb, only.bits, fun h => absurd h (by decide)⟩
  | true =>
    rw [changes] at only
    exact ⟨only.tb, fun a i h => only.bits a i (getLsbD_reg_setBits h),
      fun _ => only.bits _ _ (getLsbD_reg_setBits_self _ (a := tbBase + 0x14) (by decide) (by decide))⟩

/-- An accepted rate leaves the state of the timebase. -/
theorem acceptRate_kept (t : Tb) (rate ratio : Word) :
    let u := t.acceptRate rate ratio
    u.rate = rate ∧ u.ratio = ratio ∧ u.st = t.st ∧ u.anchor = t.anchor ∧ u.miss = t.miss ∧ u.rej = t.rej ∧
      u.count = t.count ∧ u.measured = t.measured := by
  unfold Tb.acceptRate
  split <;> exact ⟨rfl, rfl, rfl, rfl, rfl, rfl, rfl, rfl⟩

theorem noteEdge_facts {t : Tb} {e : Nat} (at_ : Nat) (last : t.lastEdge = some e) :
    (t.noteEdge at_).periods = ((at_ - e) :: t.periods).take 256 ∧ (t.noteEdge at_).st = t.st := by
  rw [Tb.noteEdge, last]
  exact ⟨rfl, rfl⟩

theorem lock_facts (t : Tb) (tick : Bool) (at_ : Nat) : let u := t.lock tick at_
    u.st = .locked ∧ u.anchor = at_ ∧ u.miss = 0 ∧ u.rej = 0 := by
  cases tick <;> exact ⟨rfl, rfl, rfl, rfl⟩

/-- Leaving HOLDOVER sets RELOCKED. -/
theorem relocked_leaveHoldover {s : State} (h : s.tb.st = .holdover) :
    (s.leaveHoldover.reg 0x010014).getLsbD 1 = true := by
  rw [State.leaveHoldover, if_pos h]
  exact getLsbD_reg_setBits_self _ (a := tbBase + 0x14) (by decide) (by decide)

theorem acquisition_locks (t e : Nat) (rate ratio : Word) (sum : Nat) (s : State) (running : s.tb.running = true)
    (ext : s.tb.src ≠ 0) (unlocked : s.tb.st ≠ .locked) (last : s.tb.lastEdge = some e)
    (periods : acquired (((t - e) :: s.tb.periods).take 256) = some sum) (mean : meanRate sum 256 = some (rate, ratio)) :
    ∃ u, exec (.referenceEdge s.tb.src t) s = .next u ∧ u.tb.st = .locked ∧ u.tb.rate = rate ∧ u.tb.ratio = ratio ∧
      u.tb.anchor = t ∧ u.tb.miss = 0 ∧ u.tb.rej = 0 ∧ (s.tb.st = .holdover → (u.reg 0x010014).getLsbD 1 = true) := by
  obtain ⟨noted, st⟩ := noteEdge_facts t last
  rw [← noted] at periods
  have free : s.tb.counting = false := by
    rw [Bool.eq_false_iff, Ne, counting_iff]
    exact fun h => unlocked h.2.2
  refine ⟨_, (exec_referenceEdge_of_running t running ext), ?_⟩
  rw [free, if_neg Bool.false_ne_true, measureEdge_of_acquired periods mean]
  generalize decide (ratio.toNat ≤ 2 * (t - (s.tb.noteEdge t).lastInc)) = tick
  generalize locks : (s.modTb fun x => x.noteEdge t).leaveHoldover.modTb (fun x => x.lock tick t) = v
  have tb : v.tb = (s.tb.noteEdge t).lock tick t := by rw [← locks, tb_modTb, tb_leaveHoldover, tb_modTb]
  obtain ⟨locked, anchor, miss, rej⟩ := lock_facts (s.tb.noteEdge t) tick t
  obtain ⟨checkedTb, checkedBits, _⟩ := mclkCheck_kept (v.acceptRate rate ratio) t
  obtain ⟨acceptedTb, acceptedBits, _⟩ := acceptRate_facts v rate ratio
  obtain ⟨newRate, newRatio, sameSt, sameAnchor, sameMiss, sameRej, _, _⟩ := acceptRate_kept v.tb rate ratio
  rw [checkedTb, acceptedTb]
  rw [tb] at sameSt sameAnchor sameMiss sameRej newRate newRatio ⊢
  refine ⟨sameSt.trans locked, newRate, newRatio, sameAnchor.trans anchor, sameMiss.trans miss, sameRej.trans rej,
    fun held => checkedBits _ _ (acceptedBits _ _ ?_)⟩
  rw [← locks, reg_modTb]
  exact relocked_leaveHoldover (st.trans held)

theorem exec_remeasure {s : State} {sum : Nat} {rate ratio : Word} (counting : s.tb.counting = true)
    (measured : s.tb.measured = some sum) (mean : meanRate sum 256 = some (rate, ratio)) :
    exec .remeasure s = .next ((s.modTb fun t => { t with measured := none }).acceptRate rate ratio) := by
  refine congrArg Host.Outcome.next ((when_true counting).trans ?_)
  dsimp only
  rw [measured]
  dsimp only
  rw [mean]

theorem remeasurement (sum : Nat) (rate ratio : Word) (s : State) (counting : s.tb.counting = true)
    (measured : s.tb.measured = some sum) (mean : meanRate sum 256 = some (rate, ratio)) :
    ∃ u, exec .remeasure s = .next u ∧ u.tb.rate = rate ∧ u.tb.ratio = ratio ∧ u.tb.measured = none ∧
      u.tb.count = s.tb.count ∧
      (if s.tb.rate.toNat < 1000 * ((rate.toNat : Int) - (s.tb.rate.toNat : Int)).natAbs
       then u.tb.chgTime = s.tb.count ∧ u.tb.chgOld = s.tb.rate ∧ u.tb.chgNew = rate ∧ (u.reg 0x010014).getLsbD 2 = true
       else u.tb.chgTime = s.tb.chgTime ∧ u.tb.chgOld = s.tb.chgOld ∧ u.tb.chgNew = s.tb.chgNew) := by
  obtain ⟨tb, _, bit⟩ := acceptRate_facts (s.modTb fun t => { t with measured := none }) rate ratio
  obtain ⟨newRate, newRatio, _, _, _, _, count, none_⟩ :=
    acceptRate_kept (s.modTb fun t => { t with measured := none }).tb rate ratio
  refine ⟨_, exec_remeasure counting measured mean, ?_⟩
  rw [tb]
  refine ⟨newRate, newRatio, none_, count, ?_⟩
  by_cases changes : s.tb.rate.toNat < 1000 * ((rate.toNat : Int) - (s.tb.rate.toNat : Int)).natAbs
  · have changed : (s.modTb fun t => { t with measured := none }).tb.changesTo rate = true := decide_eq_true changes
    rw [if_pos changes, Tb.acceptRate, if_pos changed]
    exact ⟨rfl, rfl, rfl, bit changed⟩
  · have same : ¬ (s.modTb fun t => { t with measured := none }).tb.changesTo rate = true :=
      fun h => changes (of_decide_eq_true h)
    rw [if_neg changes, Tb.acceptRate, if_neg same]
    exact ⟨rfl, rfl, rfl⟩

/-- Settles O12: missing edges and HOLDOVER, then acquisition and re-measurement. -/
theorem timebaseMeasurement : Obligations.TimebaseMeasurement := ⟨timebaseHoldover, acquisition_locks, remeasurement⟩

/-! ### A frame start that closes a stream (R84, R203, R290) -/

/-- A frame is due, and the UNBIND_OUTPUT of stream 0 is queued for it. Stream 0 is DRAINING with an empty ring and nothing
to commit, and cluster 0 holds its synthesis history. -/
def unbindDue : State :=
  { tb := { running := true }
    parts := [(0, { exists_ := true, clusters := [0], local_ := 1 })]
    clusters := [(0, { part := some 0, slots := [{ stream := 0, hist := [1] }] })]
    entries := [(0, { part := some 0, status := .draining, bind := 0 })]
    achans := [(0, { stream := some 0 })]
    changes := [.unbind 0] }

/-- Unbound, the stream closes at the frame start, and its history is written back to memory. -/
theorem mem_frameStart_unbindDue : ∃ u, exec .frameStart unbindDue = .next u ∧ u.mem = [(0, 1)] :=
  ⟨_, rfl, by decide +kernel⟩

/-- Refutes O13: a frame start may change memory. In `unbindDue` the queued change closes the stream, and closing it writes
its synthesis history back. -/
theorem not_frameStarts : ¬ Obligations.FrameStarts := by
  rintro ⟨_, _, starts, _⟩
  obtain ⟨u, next, _, _, _, _, same⟩ := starts unbindDue rfl rfl rfl (by decide)
  obtain ⟨v, next', written⟩ := mem_frameStart_unbindDue
  cases next.symm.trans next'
  exact absurd (same.symm.trans written) (by decide)

end Sys2Proof.Machine
end

section
/-! PROOFS. The path of a command (R38, R349 to R356): what its receipt, its checks and its start come to, and from these
rules the statements CommandPath and TimeAndAesCommands. -/

namespace Sys2Proof.Machine

/-! ### Receipt -/

/-- Every command of Table 18.3 arrives by `State.command`; the line errors of a memory command's run come first. -/
theorem exec_of_commandInstr {op : Nat} {src : Src} {hdr : Hdr} {p : Bytes} {ev : List LineEvent} {c : Instr} {sp : CmdSpec}
    (instr : commandInstr op src hdr p ev = some c) (spec : specOf op = some sp) (s : State) :
    exec c s = .next ((if op = 0x50 ∨ op = 0x51 then s.lineEvents ev else s).command op sp src hdr p) := by
  unfold commandInstr at instr
  split at instr
  case h_43 => cases instr
  all_goals
    obtain rfl := Option.some.inj instr
    obtain rfl := Option.some.inj spec
    rfl

/-- The state once a command has arrived: over I3C one more is outstanding. -/
def State.arrived (s : State) (src : Src) : State :=
  if src = .i3c then s.modI3c fun x => { x with outstanding := x.outstanding + 1 } else s

theorem arrived_facts (s : State) (src : Src) : (s.arrived src).nextCmd = s.nextCmd ∧ (s.arrived src).rx = s.rx ∧
    (s.arrived src).cmds = s.cmds ∧ (s.arrived src).delayed = s.delayed ∧ (s.arrived src).tb = s.tb := by
  cases src <;> exact ⟨rfl, rfl, rfl, rfl, rfl⟩

theorem accepted_eq (s : State) (src : Src) : s.accepted src = { s.arrived src with nextCmd := s.nextCmd + 1 } := rfl

theorem command_of_overrun {s : State} {op : Nat} {sp : CmdSpec} {hdr : Hdr} {p : Bytes} (live : s.i3c.live = true)
    (full : 16 ≤ s.i3c.busy) : s.command op sp .i3c hdr p = s.setBits 0x040100 0x20 := by
  have arrives : s.arrives .i3c = some (s.setBits 0x040100 0x20) := by
    simp only [State.arrives, live, full, if_true]
    rfl
  simp only [State.command, arrives, full, and_true, if_true]

/-- A command that may arrive is taken when the Steward is free, and waits otherwise. -/
theorem command_of_canArrive {s : State} {op : Nat} {sp : CmdSpec} {src : Src} {hdr : Hdr} {p : Bytes}
    (can : s.canArrive src) : s.command op sp src hdr p =
      if s.stewardFree then (s.arrived src).takeCmd op (some sp) src hdr p true true
      else { s.arrived src with
        rx := s.rx ++ [{ src := src, part := some hdr.part.val, bytes := commandBytes op hdr p }] } := by
  cases src with
  | i3c =>
    obtain ⟨live, room⟩ := can rfl
    have arrives : s.arrives .i3c = some (s.arrived .i3c) := by
      simp only [State.arrives, live, Nat.not_le.2 room, if_false]
      rfl
    simp only [State.command, arrives, Nat.not_le.2 room, and_false, if_false]
    rfl
  | spur => rfl
  | dev d => rfl

/-! ### The checks on receipt, and the start -/

theorem takeCmd_of_unassigned (s : State) (op : Nat) (src : Src) (hdr : Hdr) (p : Bytes) (lenOk rsvdOk : Bool) :
    Completes op src hdr { s with nextCmd := s.nextCmd + 1 } stBadOpcode []
      (.next (s.takeCmd op none src hdr p lenOk rsvdOk)) := rfl

theorem takeCmd_of_refused {s : State} {op : Nat} {sp : CmdSpec} {src : Src} {hdr : Hdr} {p : Bytes} {lenOk rsvdOk : Bool}
    {st : BitVec 16}
    (refused : ({ s with nextCmd := s.nextCmd + 1 } : State).receiptCheck op sp src hdr p lenOk rsvdOk = some st) :
    Completes op src hdr { s with nextCmd := s.nextCmd + 1 } st []
      (.next (s.takeCmd op (some sp) src hdr p lenOk rsvdOk)) := by
  simp only [State.takeCmd, refused]
  rfl

theorem takeCmd_of_passed {s : State} {op : Nat} {sp : CmdSpec} {src : Src} {hdr : Hdr} {p : Bytes} {lenOk rsvdOk : Bool}
    (passed : ({ s with nextCmd := s.nextCmd + 1 } : State).receiptCheck op sp src hdr p lenOk rsvdOk = none) :
    s.takeCmd op (some sp) src hdr p lenOk rsvdOk =
      ({ s with nextCmd := s.nextCmd + 1 } : State).holdOrStart sp (s.request op src hdr p) := by
  simp only [State.takeCmd, passed]
  rfl

theorem holdOrStart_of_due {s : State} {sp : CmdSpec} {r : Req} (due : r.hdr.start.toNat ≤ s.now) :
    s.holdOrStart sp r = s.startCmd sp r := if_pos due

/-- No command more is held: 256 in all, or 64 of the partition's own scope (R38). -/
def State.holdFull (s : State) (sp : CmdSpec) (hdr : Hdr) (p : Bytes) : Bool :=
  decide (256 ≤ s.delayed.length) ||
    (sp.scope p != .device && decide (64 ≤ s.delayedOf scopeOfOpcode hdr.part.val))

theorem holdFull_iff (s : State) (sp : CmdSpec) (hdr : Hdr) (p : Bytes) : s.holdFull sp hdr p = true ↔
    256 ≤ s.delayed.length ∨ (sp.scope p ≠ .device ∧ 64 ≤ s.delayedOf scopeOfOpcode hdr.part.val) := by
  simp [State.holdFull]

theorem holdOrStart_of_full {s : State} {sp : CmdSpec} {r : Req} (ahead : s.now < r.hdr.start.toNat)
    (full : s.holdFull sp r.hdr r.p = true) : s.holdOrStart sp r = s.answer r stPartitionFull [] false := by
  rw [State.holdOrStart, if_neg (Nat.not_le.2 ahead), if_pos ((holdFull_iff s sp r.hdr r.p).1 full)]

theorem holdOrStart_of_room {s : State} {sp : CmdSpec} {r : Req} (ahead : s.now < r.hdr.start.toNat)
    (room : s.holdFull sp r.hdr r.p = false) : s.holdOrStart sp r =
      { s with delayed := s.delayed ++ [{ id := r.id, start := r.hdr.start, src := r.src, opcode := r.op, hdr := r.hdr,
                                          params := r.p }] } := by
  rw [State.holdOrStart, if_neg (Nat.not_le.2 ahead), if_neg (mt (holdFull_iff s sp r.hdr r.p).2 (Bool.eq_false_iff.1 room))]

/-! ### The receipt of the 42 commands -/

/-- What the Steward does with a command it takes as it arrives. -/
theorem command_taken {t : State} {op : Nat} {sp : CmdSpec} {src : Src} {hdr : Hdr} {p : Bytes} (can : t.canArrive src)
    (free : t.stewardFree = true) :
    let n := t.accepted src
    let out : Outcome := .next (t.command op sp src hdr p)
    (∀ st, n.receiptCheck op sp src hdr p true true = some st → Completes op src hdr n st [] out) ∧
    (n.receiptCheck op sp src hdr p true true = none →
      (hdr.start.toNat ≤ t.now → out = .next (n.startCmd sp (t.request op src hdr p))) ∧
      (t.now < hdr.start.toNat → t.holdFull sp hdr p = true → Completes op src hdr n stPartitionFull [] out) ∧
      (t.now < hdr.start.toNat → t.holdFull sp hdr p = false → out = .next { n with delayed := t.delayed ++
        [{ id := t.nextCmd, start := hdr.start, src := src, opcode := op, hdr := hdr, params := p }] })) := by
  obtain ⟨number, _, _, held, tb⟩ := arrived_facts t src
  have next : ({ t.arrived src with nextCmd := (t.arrived src).nextCmd + 1 } : State) = t.accepted src := by
    rw [number, accepted_eq]
  have now : (t.accepted src).now = t.now := congrArg (fun x : Tb => x.count.toNat) tb
  have fullness : (t.accepted src).holdFull sp hdr p = t.holdFull sp hdr p := by
    rw [State.holdFull, State.holdFull, State.delayedOf, State.delayedOf, accepted_eq, held]
  have request : (t.arrived src).request op src hdr p = t.request op src hdr p := by
    rw [State.request, number, State.request]
  intro n out
  have taken : out = .next ((t.arrived src).takeCmd op (some sp) src hdr p true true) := by
    rw [show out = .next (t.command op sp src hdr p) from rfl, command_of_canArrive can, if_pos free]
  rw [taken]
  refine ⟨fun st refused => ?_, fun passed => ?_⟩
  · rw [show n = t.accepted src from rfl, ← next] at refused ⊢
    exact takeCmd_of_refused refused
  · rw [show n = t.accepted src from rfl, ← next] at passed
    rw [takeCmd_of_passed passed, next, request]
    refine ⟨fun due => ?_, fun ahead full => ?_, fun ahead room => ?_⟩
    · rw [holdOrStart_of_due (due.trans_eq now.symm)]
    · rw [holdOrStart_of_full (now.trans_lt ahead) (fullness.trans full)]
      rfl
    · rw [holdOrStart_of_room (now.trans_lt ahead) (fullness.trans room), accepted_eq, held]
      rfl

theorem commandReceipt : Claims.CommandReceipt := by
  intro op src hdr p ev c sp s instr spec t n full
  rw [exec_of_commandInstr instr spec s]
  refine ⟨?overrun, ?waits, fun can free => command_taken can free⟩
  case overrun =>
    rintro rfl live busy
    exact congrArg Host.Outcome.next (command_of_overrun live busy)
  case waits =>
    intro can busy
    refine congrArg Host.Outcome.next ((command_of_canArrive can).trans ?_)
    rw [busy]
    cases src <;> rfl

/-! ### COMMAND_RECEIVE and DELAYED_START -/

theorem exec_commandReceive (s : State) : exec .commandReceive s = .next s.receiveCmd := rfl

theorem exec_delayedStart (s : State) : exec .delayedStart s = .next s.startDelayed := rfl

theorem receiveCmd_of_received {s : State} {c : RxCmd} {rest : List RxCmd} (rx : s.rx = c :: rest)
    (room : s.cmds.length < 512) : s.receiveCmd =
      (({ s with rx := rest } : State).oweCmd c).takeCmd (fieldAt c.bytes 0 1) (specOf (fieldAt c.bytes 0 1)) c.src
        (headerOf c.bytes) (c.bytes.drop 16) (lengthOk c.bytes) (headerRsvd c.part c.bytes) := by
  simp only [State.receiveCmd, rx, Nat.not_le.2 room, if_false]

theorem receiveCmd_of_idle {s : State} (h : s.rx = [] ∨ 512 ≤ s.cmds.length) : s.receiveCmd = s := by
  cases rx : s.rx with
  | nil => simp only [State.receiveCmd, rx]
  | cons c rest =>
    have full : 512 ≤ s.cmds.length := h.resolve_left (by simp [rx])
    simp only [State.receiveCmd, rx, full, if_true]

/-- Of two held commands that are due, the one of the lesser T, the first received of equals (R38). -/
def sooner (best : Option Delayed) (d : Delayed) : Option Delayed :=
  match best with
  | none => some d
  | some b => if d.start < b.start then some d else some b

/-- The counter has reached the T of a held command. -/
def State.hasCome (s : State) (d : Delayed) : Bool := decide (d.start.toNat ≤ s.now)

theorem dueCmd_eq (s : State) : s.dueCmd = (s.delayed.filter s.hasCome).foldl sooner none := rfl

/-- Nothing that comes later takes the place of a command of the least T. -/
theorem foldl_sooner_of_least {d : Delayed} {l : List Delayed} (least : ∀ x ∈ l, d.start.toNat ≤ x.start.toNat) :
    l.foldl sooner (some d) = some d := by
  induction l with
  | nil => rfl
  | cons x l ih =>
    obtain ⟨first, rest⟩ := List.forall_mem_cons.1 least
    have stays : sooner (some d) x = some d := if_neg (Nat.not_lt.2 first)
    rw [List.foldl_cons, stays]
    exact ih rest

/-- A command of a lesser T than all before it is chosen when it comes. -/
theorem sooner_foldl_of_less {d : Delayed} {l : List Delayed} {best : Option Delayed}
    (start : ∀ b, best = some b → d.start.toNat < b.start.toNat) (less : ∀ x ∈ l, d.start.toNat < x.start.toNat) :
    sooner (l.foldl sooner best) d = some d := by
  induction l generalizing best with
  | nil =>
    cases best with
    | none => rfl
    | some b => exact if_pos (start b rfl)
  | cons x l ih =>
    obtain ⟨first, rest⟩ := List.forall_mem_cons.1 less
    refine ih (fun b chosen => ?_) rest
    cases best with
    | none => exact Option.some.inj chosen ▸ first
    | some y =>
      rw [sooner] at chosen
      split at chosen
      · exact Option.some.inj chosen ▸ first
      · exact Option.some.inj chosen ▸ start y rfl

theorem dueCmd_of_first {s : State} {a b : List Delayed} {d : Delayed} (held : s.delayed = a ++ d :: b)
    (due : d.start.toNat ≤ s.now) (before : ∀ x ∈ a, x.start.toNat ≤ s.now → d.start.toNat < x.start.toNat)
    (after : ∀ x ∈ b, x.start.toNat ≤ s.now → d.start.toNat ≤ x.start.toNat) : s.dueCmd = some d := by
  have less : ∀ x ∈ a.filter s.hasCome, d.start.toNat < x.start.toNat := fun x h =>
    before x (List.mem_filter.1 h).1 (of_decide_eq_true (List.mem_filter.1 h).2)
  have least : ∀ x ∈ b.filter s.hasCome, d.start.toNat ≤ x.start.toNat := fun x h =>
    after x (List.mem_filter.1 h).1 (of_decide_eq_true (List.mem_filter.1 h).2)
  have come : s.hasCome d = true := decide_eq_true due
  rw [dueCmd_eq, held, List.filter_append, List.filter_cons_of_pos come, List.foldl_append, List.foldl_cons,
    sooner_foldl_of_less (best := none) nofun less]
  exact foldl_sooner_of_least least

theorem filter_id_ne {a b : List Delayed} {d : Delayed} (others : ∀ x ∈ a ++ b, x.id ≠ d.id) :
    (a ++ d :: b).filter (·.id != d.id) = a ++ b := by
  have kept : (a ++ b).filter (·.id != d.id) = a ++ b := List.filter_eq_self.2 fun x h => bne_iff_ne.2 (others x h)
  rw [List.filter_append, List.filter_cons_of_neg (by simp), ← List.filter_append, kept]

theorem startDelayed_of_due {s : State} {d : Delayed} {sp : CmdSpec} (first : s.dueCmd = some d)
    (room : s.cmds.length < 512) (spec : specOf d.opcode = some sp) : s.startDelayed =
      ({ s with delayed := s.delayed.filter (·.id != d.id) } : State).startCmd sp
        { id := d.id, src := d.src, op := d.opcode, hdr := d.hdr, p := d.params } := by
  simp only [State.startDelayed, first, Nat.not_le.2 room, if_false, spec]

theorem startDelayed_of_ahead {s : State} (ahead : ∀ x ∈ s.delayed, s.now < x.start.toNat) : s.startDelayed = s := by
  have none_ : s.dueCmd = none := by
    rw [dueCmd_eq, List.filter_eq_nil_iff.2 fun x h => by simpa [State.hasCome] using ahead x h]
    rfl
  simp only [State.startDelayed, none_]

theorem commandQueue : Claims.CommandQueue := by
  refine ⟨?receives, fun s idle => congrArg Host.Outcome.next (receiveCmd_of_idle idle), ?starts,
    fun s ahead => congrArg Host.Outcome.next (startDelayed_of_ahead ahead)⟩
  case receives =>
    intro c rest s rx room t n op hdr p
    rw [exec_commandReceive, receiveCmd_of_received rx room]
    refine ⟨fun spec => ?_, fun sp spec => ⟨fun st refused => ?_, fun passed due => ?_⟩⟩
    · rw [show specOf (fieldAt c.bytes 0 1) = none from spec]
      exact takeCmd_of_unassigned t op c.src hdr p _ _
    · rw [show specOf (fieldAt c.bytes 0 1) = some sp from spec]
      exact takeCmd_of_refused refused
    · rw [show specOf (fieldAt c.bytes 0 1) = some sp from spec, takeCmd_of_passed passed, holdOrStart_of_due due]
  case starts =>
    intro a b d sp s held room others spec due before after
    rw [exec_delayedStart, startDelayed_of_due (dueCmd_of_first held due before after) room spec, held, filter_id_ne others]

/-- Settles O28: the path of a command on receipt, and the Steward's two events. -/
theorem commandPath : Obligations.CommandPath := ⟨commandReceipt, commandQueue⟩

/-! ### A command that is taken and starts -/

/-- A command that is taken starts at once, in the state that has accepted it. -/
theorem exec_of_taken {op : Nat} {src : Src} {hdr : Hdr} {p : Bytes} {c : Instr} {sp : CmdSpec} {s : State}
    (instr : commandInstr op src hdr p [] = some c) (spec : specOf op = some sp) (taken : Taken s op sp src hdr p) :
    exec c s = .next ((s.accepted src).startCmd sp (s.request op src hdr p)) := by
  obtain ⟨can, free, passed, due⟩ := taken
  rw [exec_of_commandInstr instr spec s, show s.lineEvents [] = s from rfl, ite_self]
  exact ((command_taken can free).2 passed).1 due

theorem startCmd_of_done {s t : State} {sp : CmdSpec} {r : Req} {st : BitVec 16} {res : Bytes}
    (body : sp.body s r = .done t st res) :
    Completes r.op r.src r.hdr t st res (.next (s.startCmd sp r)) := by
  rw [State.startCmd, body]
  rfl

theorem startCmd_of_wait {s t : State} {sp : CmdSpec} {r : Req} {w : Wait} (body : sp.body s r = .wait t w) :
    s.startCmd sp r = { t with cmds := t.cmds ++ [{ id := r.id, src := r.src, opcode := r.op, form := r.hdr.form,
                                                    tag := r.hdr.tag, part := r.hdr.part.val, wait := w }] } := by
  rw [State.startCmd, body]

/-- What acceptance leaves of the state: the timebase, the outputs and the inputs, and the partitions. -/
theorem accepted_facts (s : State) (src : Src) : (s.accepted src).tb = s.tb ∧ (∀ o, (s.accepted src).out o = s.out o) ∧
    (∀ i, (s.accepted src).ain i = s.ain i) ∧ (∀ p, (s.accepted src).part p = s.part p) ∧
    (∀ c, (s.accepted src).drainGoal c = s.drainGoal c) := by
  cases src <;> exact ⟨rfl, fun _ => rfl, fun _ => rfl, fun _ => rfl, fun _ => rfl⟩

/-! ### SET_TIMEBASE (R28, R37) -/

theorem internalRateOk_iff (rate : Nat) : internalRateOk rate = true ↔ 31000 * 256 ≤ rate ∧ rate ≤ 198000 * 256 := by
  simp [internalRateOk]

theorem setTimebaseBody_of_bad {s : State} {r : Req}
    (bad : 3 < fieldAt r.p 0 1 ∨ 7 < fieldAt r.p 1 1 ∨ (fieldAt r.p 0 1 = 0 ∧ !internalRateOk (fieldAt r.p 4 4))) :
    setTimebaseBody s r = .done s stBadField [] := if_pos bad

theorem setTimebaseBody_of_ok {s : State} {r : Req}
    (ok : ¬ (3 < fieldAt r.p 0 1 ∨ 7 < fieldAt r.p 1 1 ∨ (fieldAt r.p 0 1 = 0 ∧ !internalRateOk (fieldAt r.p 4 4)))) :
    setTimebaseBody s r = .done ((s.selectSource (Fin.ofNat 4 (fieldAt r.p 0 1))
      (BitVec.ofNat 32 (fieldAt r.p 4 4))).selectFrame (Fin.ofNat 8 (fieldAt r.p 1 1))) stOk [] := if_neg ok

/-- The internal source at a programmed rate, before the rate is accepted. -/
def Tb.internal (t : Tb) (rate : Word) : Tb :=
  { t.clearMeasure with src := 0, intRate := rate, st := .locked, miss := 0, rej := 0 }

/-- Another external source begins to be acquired. -/
def Tb.acquire (t : Tb) (src : Fin 4) : Tb :=
  { t.clearMeasure with src := src, st := .acquire, miss := 0, rej := 0, accepted := none, counted := false }

theorem tb_selectSource_same {s : State} {src : Fin 4} {rate : Word} (same : s.tb.src = src)
    (internal : src = 0 → s.tb.intRate = rate) : (s.selectSource src rate).tb = s.tb := by
  unfold State.selectSource
  by_cases zero : src = 0
  · rw [if_pos zero, if_pos ⟨same.trans zero, internal zero⟩]
  · rw [if_neg zero, if_pos same]

theorem tb_selectSource_internal {s : State} {rate : Word} (changed : s.tb.src ≠ 0 ∨ s.tb.intRate ≠ rate) :
    (s.selectSource 0 rate).tb = (s.tb.internal rate).acceptRate rate (internalRatio rate) := by
  unfold State.selectSource
  rw [if_pos rfl, if_neg (not_and_or.2 changed)]
  refine (acceptRate_facts _ _ _).1.trans ?_
  rw [tb_modTb, tb_leaveHoldover]
  rfl

theorem tb_selectSource_external {s : State} {src : Fin 4} {rate : Word} (ext : src ≠ 0) (other : s.tb.src ≠ src) :
    (s.selectSource src rate).tb = s.tb.acquire src := by
  unfold State.selectSource
  rw [if_neg ext, if_neg other, tb_modTb, tb_leaveHoldover]
  rfl

theorem acceptRate_selection (t : Tb) (rate ratio : Word) : (t.acceptRate rate ratio).src = t.src ∧
    (t.acceptRate rate ratio).frameEff = t.frameEff ∧ (t.acceptRate rate ratio).intRate = t.intRate := by
  unfold Tb.acceptRate
  split <;> exact ⟨rfl, rfl, rfl⟩

/-- What the source and rate part of SET_TIMEBASE makes of the timebase. -/
theorem selectSource_facts (s : State) (src : Fin 4) (rate : Word) :
    let t := (s.selectSource src rate).tb
    t.src = src ∧ t.count = s.tb.count ∧ t.frameEff = s.tb.frameEff ∧
    (src = 0 → (s.tb.src ≠ 0 ∨ s.tb.intRate ≠ rate) → t.st = .locked ∧ t.rate = rate ∧ t.intRate = rate) ∧
    (s.tb.src = src → (src = 0 → s.tb.intRate = rate) → t = s.tb) ∧
    (src ≠ 0 → s.tb.src ≠ src → t.st = .acquire ∧ t.miss = 0 ∧ t.periods = []) := by
  by_cases same : s.tb.src = src ∧ (src = 0 → s.tb.intRate = rate)
  case pos =>
    obtain ⟨selected, internal⟩ := same
    rw [tb_selectSource_same selected internal]
    refine ⟨selected, rfl, rfl, fun zero changed => ?_, fun _ _ => rfl, fun _ other => absurd selected other⟩
    exact absurd ⟨selected.trans zero, internal zero⟩ (not_and_or.2 changed)
  case neg =>
    by_cases zero : src = 0
    · subst zero
      have changed : s.tb.src ≠ 0 ∨ s.tb.intRate ≠ rate := not_and_or.1 fun h => same ⟨h.1, fun _ => h.2⟩
      rw [tb_selectSource_internal changed]
      obtain ⟨newRate, _, st, _, _, _, count, _⟩ := acceptRate_kept (s.tb.internal rate) rate (internalRatio rate)
      obtain ⟨source, eff, intRate⟩ := acceptRate_selection (s.tb.internal rate) rate (internalRatio rate)
      exact ⟨source, count, eff, fun _ _ => ⟨st, newRate, intRate⟩, fun a b => absurd ⟨a, b⟩ same,
        fun ext => absurd rfl ext⟩
    · have other : s.tb.src ≠ src := fun h => same ⟨h, fun z => absurd z zero⟩
      rw [tb_selectSource_external zero other]
      exact ⟨rfl, rfl, rfl, fun z => absurd z zero, fun h => absurd h other, fun _ _ => ⟨rfl, rfl, rfl⟩⟩

theorem tb_selectFrame (s : State) (sel : Fin 8) : (s.selectFrame sel).tb =
    { s.tb with frameSel := sel, fAt := if sel = s.tb.frameEff then none
                                         else some (BitVec.ofNat 48 ((s.tb.count.toNat / 768 + 1) * 768)) } := rfl

theorem tb_selectFrame_same {s : State} {t : Tb} (same : s.tb = t) (sel : Fin 8) : (s.selectFrame sel).tb =
    { t with frameSel := (s.selectFrame sel).tb.frameSel, fAt := (s.selectFrame sel).tb.fAt } := by
  subst same
  rfl

theorem setTimebaseCommand : Claims.SetTimebaseCommand := by
  intro src hdr b s taken n sel f rate out
  have started : out = .next (n.startCmd setTimebaseSpec (s.request 0x42 src hdr b)) := exec_of_taken rfl rfl taken
  have tb : n.tb = s.tb := (accepted_facts s src).1
  rw [started]
  refine ⟨fun bad => startCmd_of_done (setTimebaseBody_of_bad ?_), fun selOk fOk rateOk => ?_⟩
  · refine bad.imp_right (Or.imp_right (And.imp_right fun range => ?_))
    rw [Bool.not_eq_true', Bool.eq_false_iff, Ne, internalRateOk_iff, not_and_or]
    exact range.imp Nat.not_le.2 Nat.not_le.2
  · have inRange : ¬ (3 < sel ∨ 7 < f ∨ (sel = 0 ∧ !internalRateOk rate)) := by
      rw [not_or, not_or, not_and, Bool.not_eq_true', Bool.not_eq_false]
      exact ⟨Nat.not_lt.2 selOk, Nat.not_lt.2 fOk, fun zero => (internalRateOk_iff rate).2 (rateOk zero)⟩
    have selVal : (Fin.ofNat 4 sel).val = sel := Nat.mod_eq_of_lt (Nat.lt_succ_of_le selOk)
    have fVal : (Fin.ofNat 8 f).val = f := Nat.mod_eq_of_lt (Nat.lt_succ_of_le fOk)
    have zeroIff : Fin.ofNat 4 sel = 0 ↔ sel = 0 := by rw [Fin.ext_iff, selVal]; rfl
    have sameIff : s.tb.src = Fin.ofNat 4 sel ↔ sel = s.tb.src.val := by rw [Fin.ext_iff, selVal, eq_comm]
    have effIff : Fin.ofNat 8 f = s.tb.frameEff ↔ f = s.tb.frameEff.val := by rw [Fin.ext_iff, fVal]
    obtain ⟨source, count, eff, internal, same, acquires⟩ := selectSource_facts n (Fin.ofNat 4 sel) (BitVec.ofNat 32 rate)
    rw [tb] at count eff internal same acquires
    refine ⟨(n.selectSource (Fin.ofNat 4 sel) (BitVec.ofNat 32 rate)).selectFrame (Fin.ofNat 8 f),
      startCmd_of_done (setTimebaseBody_of_ok inRange), ?_⟩
    generalize n.selectSource (Fin.ofNat 4 sel) (BitVec.ofNat 32 rate) = v at source count eff internal same acquires ⊢
    refine ⟨(congrArg Fin.val source).trans selVal, fVal, count, eff, fun zero => internal (zeroIff.2 zero),
      fun selected rates => tb_selectFrame_same (same (sameIff.2 selected) fun zero => rates (zeroIff.1 zero)) _,
      fun ext other => acquires (mt zeroIff.1 ext) (mt sameIff.1 other), ?_⟩
    rw [tb_selectFrame, eff, count]
    exact if_congr effIff rfl rfl

/-! ### CONFIG_AES_OUT (R285, R289, R294) -/

theorem not_bnot {b : Bool} (h : b = true) : ¬ (!b) = true := by rw [h]; decide

/-- An output or an input that another partition owns. -/
theorem foreign_iff (owner : Option Nat) (p : Nat) :
    (owner.isSome && owner != some p) = true ↔ ∃ q, owner = some q ∧ q ≠ p := by
  cases owner <;> simp

theorem not_foreign {owner : Option Nat} {p : Nat} (h : owner = none ∨ owner = some p) :
    (owner.isSome && owner != some p) = false := by
  rcases h with rfl | rfl <;> simp

theorem aesOutBody_of_output {s : State} {r : Req} (range : 7 < fieldAt r.p 0 1) :
    aesOutBody s r = .done s stBadField [] := if_pos (.inl range)

/-- The fields of CONFIG_AES_OUT are in range (Table 18.9). -/
def aesOutInRange (b : Bytes) : Prop :=
  fieldAt b 0 1 ≤ 7 ∧ fieldAt b 1 1 ≤ 1 ∧ fieldAt b 2 1 ≤ 1 ∧ fieldAt b 3 1 ≤ 2 ∧ fieldAt b 4 1 ≤ 6

theorem not_outOfRange {b : Bytes} (h : aesOutInRange b) :
    ¬ (7 < fieldAt b 0 1 ∨ 1 < fieldAt b 1 1 ∨ 1 < fieldAt b 2 1 ∨ 2 < fieldAt b 3 1 ∨ 6 < fieldAt b 4 1) := by
  obtain ⟨o, op, fmt, wlen, clk⟩ := h
  omega

theorem aesOutBody_of_foreign {s : State} {r : Req} (range : aesOutInRange r.p)
    (foreign : ∃ q, (s.out (fieldAt r.p 0 1)).part = some q ∧ q ≠ r.hdr.part.val) :
    aesOutBody s r = .done s stNotPermitted [] := by
  simp only [aesOutBody, not_outOfRange range, (foreign_iff _ _).2 foreign, if_false, if_true]

/-- An output that no other partition owns: what OP and the output's state choose. -/
theorem aesOutBody_of_own {s : State} {r : Req} (range : aesOutInRange r.p)
    (own : (s.out (fieldAt r.p 0 1)).part = none ∨ (s.out (fieldAt r.p 0 1)).part = some r.hdr.part.val) :
    aesOutBody s r =
      let o := fieldAt r.p 0 1
      if fieldAt r.p 1 1 = 0 then
        if (s.out o).en then .done s stWrongState [] else .done (s.enableOutput o r.hdr.part.val r.p) stOk []
      else if !(s.out o).en then .done s stWrongState []
      else if r.hdr.form then .done (s.abortOutput o) stAborted []
      else .wait (s.modOut o fun x => { x with draining := true })
        (.aesDrain o (s.drainGoal (2 * o)) (s.drainGoal (2 * o + 1))) := by
  simp only [aesOutBody, not_outOfRange range, not_foreign own, if_false, Bool.false_eq_true]

theorem configAesOut (src : Src) (hdr : Hdr) (b : Bytes) (s : State) (taken : Taken s 0x43 aesOutSpec src hdr b) :
    let n := s.accepted src
    let p := hdr.part.val
    let o := fieldAt b 0 1
    let out := exec (.configAesOut src hdr b) s
    (7 < o → Completes 0x43 src hdr n stBadField [] out) ∧
    (o ≤ 7 → fieldAt b 1 1 ≤ 1 → fieldAt b 2 1 ≤ 1 → fieldAt b 3 1 ≤ 2 → fieldAt b 4 1 ≤ 6 →
      ((∃ q, (s.out o).part = some q ∧ q ≠ p) → Completes 0x43 src hdr n stNotPermitted [] out) ∧
      (((s.out o).part = none ∨ (s.out o).part = some p) →
        (fieldAt b 1 1 = 0 → (s.out o).en = true → Completes 0x43 src hdr n stWrongState [] out) ∧
        (fieldAt b 1 1 = 0 → (s.out o).en = false → Completes 0x43 src hdr (n.enableOutput o p b) stOk [] out) ∧
        (fieldAt b 1 1 = 1 → (s.out o).en = false → Completes 0x43 src hdr n stWrongState [] out) ∧
        (fieldAt b 1 1 = 1 → (s.out o).en = true → hdr.form = true →
          Completes 0x43 src hdr (n.abortOutput o) stAborted [] out) ∧
        (fieldAt b 1 1 = 1 → (s.out o).en = true → hdr.form = false →
          Waits s 0x43 src hdr (n.modOut o fun x => { x with draining := true })
            (.aesDrain o (s.drainGoal (2 * o)) (s.drainGoal (2 * o + 1))) out))) := by
  intro n p o out
  have started : out = .next (n.startCmd aesOutSpec (s.request 0x43 src hdr b)) := exec_of_taken rfl rfl taken
  obtain ⟨_, outs, _, _, goals⟩ := accepted_facts s src
  rw [started]
  refine ⟨fun range => startCmd_of_done (aesOutBody_of_output range), fun output op fmt wlen clk => ?_⟩
  have range : aesOutInRange (s.request 0x43 src hdr b).p := ⟨output, op, fmt, wlen, clk⟩
  rw [← outs o]
  refine ⟨fun foreign => startCmd_of_done (aesOutBody_of_foreign range foreign), fun own => ?_⟩
  have body := aesOutBody_of_own range own
  refine ⟨fun enable on => ?_, fun enable off => ?_, fun disable off => ?_, fun disable on abort => ?_,
    fun disable on drain => ?_⟩
  · exact startCmd_of_done (body.trans ((if_pos enable).trans (if_pos on)))
  · exact startCmd_of_done (body.trans ((if_pos enable).trans (if_neg (Bool.eq_false_iff.1 off))))
  all_goals
    have kept : fieldAt (s.request 0x43 src hdr b).p 1 1 ≠ 0 := fun zero => absurd (disable.symm.trans zero) (by decide)
  · exact startCmd_of_done (body.trans ((if_neg kept).trans (if_pos ((Bool.not_eq_true' _).mpr off))))
  · exact startCmd_of_done (body.trans ((if_neg kept).trans ((if_neg (not_bnot on)).trans (if_pos abort))))
  · refine congrArg Host.Outcome.next (startCmd_of_wait ?_)
    rw [← goals, ← goals]
    exact body.trans ((if_neg kept).trans ((if_neg (not_bnot on)).trans (if_neg (Bool.eq_false_iff.1 drain))))

/-! ### CONFIG_AES_IN (R289, R296) -/

/-- What capture from the next block on makes of an input. -/
def State.startCapture (s : State) (i p sync frames ring : Nat) : State :=
  s.modAin i fun x => { x with capture := true, capBlock := false, part := some p, sync := sync, ringFrames := frames,
                               ring := ring, place := x.wr.toNat % frames }

theorem aesInBody_of_input {s : State} {r : Req} (range : 1 < fieldAt r.p 0 1) : aesInBody s r = .done s stBadField [] :=
  if_pos (.inl range)

theorem aesInBody_of_foreign {s : State} {r : Req} (input : fieldAt r.p 0 1 ≤ 1) (on : fieldAt r.p 1 1 ≤ 1)
    (foreign : ∃ q, (s.ain (fieldAt r.p 0 1)).part = some q ∧ q ≠ r.hdr.part.val) :
    aesInBody s r = .done s stNotPermitted [] := by
  simp only [aesInBody, Nat.not_lt.2 input, Nat.not_lt.2 on, or_self, (foreign_iff _ _).2 foreign, if_false, if_true]

theorem aesInBody_of_own {s : State} {r : Req} (input : fieldAt r.p 0 1 ≤ 1) (on : fieldAt r.p 1 1 ≤ 1)
    (own : (s.ain (fieldAt r.p 0 1)).part = none ∨ (s.ain (fieldAt r.p 0 1)).part = some r.hdr.part.val) :
    aesInBody s r =
      let p := r.hdr.part.val
      let frames := fieldAt r.p 4 4
      if fieldAt r.p 1 1 = 0 then .done (s.releaseInput (fieldAt r.p 0 1)) stOk []
      else if frames % 192 ≠ 0 ∨ frames < 192 ∨ 3145728 < frames then .done s stBadField []
      else if !s.ownsObject p (fieldAt r.p 2 2) then .done s stNotPermitted []
      else if !(s.part p).inside (fieldAt r.p 8 5) (8 * frames) then .done s stOutOfBounds []
      else .done (s.startCapture (fieldAt r.p 0 1) p (fieldAt r.p 2 2) frames (fieldAt r.p 8 5)) stOk [] := by
  simp only [aesInBody, Nat.not_lt.2 input, Nat.not_lt.2 on, or_self, not_foreign own, if_false, Bool.false_eq_true,
    State.startCapture]

theorem configAesIn (src : Src) (hdr : Hdr) (b : Bytes) (s : State) (taken : Taken s 0x44 aesInSpec src hdr b) :
    let n := s.accepted src
    let p := hdr.part.val
    let i := fieldAt b 0 1
    let frames := fieldAt b 4 4
    let ring := fieldAt b 8 5
    let sync := fieldAt b 2 2
    let out := exec (.configAesIn src hdr b) s
    (1 < i → Completes 0x44 src hdr n stBadField [] out) ∧
    (i ≤ 1 → fieldAt b 1 1 ≤ 1 → (∃ q, (s.ain i).part = some q ∧ q ≠ p) →
      Completes 0x44 src hdr n stNotPermitted [] out) ∧
    (i ≤ 1 → ((s.ain i).part = none ∨ (s.ain i).part = some p) →
      (fieldAt b 1 1 = 0 → Completes 0x44 src hdr (n.releaseInput i) stOk [] out) ∧
      (fieldAt b 1 1 = 1 → frames % 192 = 0 → 192 ≤ frames → frames ≤ 3145728 →
        ((s.part p).owns (sync / 2048) = false → Completes 0x44 src hdr n stNotPermitted [] out) ∧
        ((s.part p).owns (sync / 2048) = true → (s.part p).inside ring (8 * frames) = false →
          Completes 0x44 src hdr n stOutOfBounds [] out) ∧
        ((s.part p).owns (sync / 2048) = true → (s.part p).inside ring (8 * frames) = true →
          Completes 0x44 src hdr (n.startCapture i p sync frames ring) stOk [] out))) := by
  intro n p i frames ring sync out
  have started : out = .next (n.startCmd aesInSpec (s.request 0x44 src hdr b)) := exec_of_taken rfl rfl taken
  obtain ⟨_, _, ains, parts, _⟩ := accepted_facts s src
  rw [started, ← ains i, ← parts p]
  refine ⟨fun range => startCmd_of_done (aesInBody_of_input range),
    fun input on foreign => startCmd_of_done (aesInBody_of_foreign input on foreign), fun input own => ⟨?release, ?capture⟩⟩
  case release =>
    intro off
    exact startCmd_of_done ((aesInBody_of_own input (off.trans_le (Nat.zero_le 1)) own).trans (if_pos off))
  case capture =>
    intro on block some_ most
    have fits : ¬ (frames % 192 ≠ 0 ∨ frames < 192 ∨ 3145728 < frames) := by omega
    have starts : fieldAt b 1 1 ≠ 0 := fun zero => absurd (on.symm.trans zero) (by decide)
    have body := (aesInBody_of_own (s := n) (r := s.request 0x44 src hdr b) input on.le own).trans
      ((if_neg starts).trans (if_neg fits))
    refine ⟨fun other => ?_, fun owns outside => ?_, fun owns inside => ?_⟩
    · exact startCmd_of_done (body.trans (if_pos ((Bool.not_eq_true' _).mpr other)))
    · exact startCmd_of_done (body.trans ((if_neg (not_bnot owns)).trans
        (if_pos ((Bool.not_eq_true' _).mpr outside))))
    · exact startCmd_of_done (body.trans ((if_neg (not_bnot owns)).trans
        (if_neg (not_bnot inside))))

/-! ### AES_DRAIN_COMPLETE (R294) -/

theorem exec_aesDrainComplete (o : Fin 8) (s : State) : exec (.aesDrainComplete o) s =
    .next (s.when ((s.out o.val).draining && s.channelDone (2 * o.val) && s.channelDone (2 * o.val + 1)) fun s =>
      (s.stopOutput o.val false).finishWhere (waitsOut o.val) stDrained) := rfl

theorem aesCommands : Claims.AesCommands := by
  refine ⟨fun src hdr b s => ⟨configAesOut src hdr b s, configAesIn src hdr b s⟩, ?drained, ?waiting⟩
  case drained =>
    intro o s draining left right
    rw [exec_aesDrainComplete, when_true (by rw [draining, left, right]; rfl)]
  case waiting =>
    intro o s h
    rw [exec_aesDrainComplete, when_false]
    rcases h with h | h | h <;> simp [h]

/-- Settles O38: each command's own checks choose what its body makes of the state that accepted it. -/
theorem timeAndAesCommands : Obligations.TimeAndAesCommands := ⟨setTimebaseCommand, aesCommands⟩

end Sys2Proof.Machine
end

section
/-! PROOFS. Number encodings (chapter 3): what the bytes of a packed string give at each place (R42), the value of an
encoding in each of its kinds (R44, R45), the element of a block under its scale (R49), and from these rules the
statement NumberEncodings. -/

namespace Sys2Proof.Machine

/-! ### Fields of byte strings -/

theorem fieldAt_zero (b : Bytes) (off : Nat) : fieldAt b off 0 = 0 := by
  rw [fieldAt, List.take_zero, leNat]

/-- A little-endian field is its lowest byte and the field above it; past the end of the string both are 0. -/
theorem fieldAt_succ (b : Bytes) (off n : Nat) :
    fieldAt b off (n + 1) = (b.getD off 0).toNat + 256 * fieldAt b (off + 1) n := by
  by_cases inside : off < b.length
  · rw [fieldAt, fieldAt, List.drop_eq_getElem_cons inside, List.take_succ_cons, leNat, List.getD_eq_getElem _ _ inside]
  · have ended : b.length ≤ off := Nat.le_of_not_lt inside
    rw [fieldAt, fieldAt, List.drop_eq_nil_of_le ended, List.drop_eq_nil_of_le (ended.trans (Nat.le_succ off)),
      List.getD_eq_default _ _ ended, List.take_nil, List.take_nil]
    rfl

theorem fieldAt_one (b : Bytes) (off : Nat) : fieldAt b off 1 = (b.getD off 0).toNat := by
  rw [fieldAt_succ, fieldAt_zero, Nat.mul_zero, Nat.add_zero]

theorem fieldAt_three (b : Bytes) (off : Nat) : fieldAt b off 3 =
    (b.getD off 0).toNat + 256 * (b.getD (off + 1) 0).toNat + 65536 * (b.getD (off + 2) 0).toNat := by
  rw [fieldAt_succ, fieldAt_succ, fieldAt_one]
  ring

/-! ### Sub-byte packing (R42) -/

theorem packedAt_four (b : Bytes) (i : Nat) : packedAt b 4 i = (b.getD (i / 2) 0).toNat / 2 ^ (4 * (i % 2)) % 16 := by
  rw [packedAt, fieldAt_one]
  rfl

theorem packedAt_six (b : Bytes) (i : Nat) :
    packedAt b 6 i = fieldAt b (3 * (i / 4)) 3 / 2 ^ (6 * (i % 4)) % 64 := rfl

theorem packedAt_four_even_odd (b : Bytes) (i : Nat) : packedAt b 4 (2 * i) = (b.getD i 0).toNat % 16 ∧
    packedAt b 4 (2 * i + 1) = (b.getD i 0).toNat / 16 := by
  have byte : (b.getD i 0).toNat < 256 := (b.getD i 0).isLt
  constructor
  · rw [packedAt_four, Nat.mul_mod_right, Nat.mul_div_cancel_left i Nat.two_pos, Nat.mul_zero, Nat.pow_zero, Nat.div_one]
  · have upper : (b.getD i 0).toNat / 16 < 16 := by omega
    rw [packedAt_four, Nat.mul_add_mod, show (2 * i + 1) / 2 = i by omega]
    exact Nat.mod_eq_of_lt upper

theorem packedAt_six_group (b : Bytes) (i j : Nat) (place : j < 4) : packedAt b 6 (4 * i + j) =
    ((b.getD (3 * i) 0).toNat + 256 * (b.getD (3 * i + 1) 0).toNat + 65536 * (b.getD (3 * i + 2) 0).toNat) /
      2 ^ (6 * j) % 64 := by
  have group : (4 * i + j) / 4 = i := by omega
  have element : (4 * i + j) % 4 = j := by omega
  rw [packedAt_six, group, element, fieldAt_three]

/-- The low bits of a word are two adjacent fields: of a magnitude, the exponent field above the mantissa. -/
theorem fld_append (w hi lo : Nat) : fld w 0 (hi + lo) = fld w 0 lo + 2 ^ lo * fld w lo hi := by
  rw [fld, fld, fld, Nat.pow_zero, Nat.div_one, Nat.add_comm hi lo, Nat.pow_add, Nat.mod_mul]

/-! ### The value of an encoding (R44, R45) -/

section value
variable {f : Fmt} {w : Nat}

/-- An encoding that stands for an infinity or a NaN of its format (R45). -/
def Fmt.Special (f : Fmt) (w : Nat) : Prop :=
  (f.top = .ieee ∧ fld w f.mbits f.ebits = 2 ^ f.ebits - 1) ∨ (f.top = .e4m3 ∧ fld w 0 (f.ebits + f.mbits) = f.nanBits)

/-- The integer significand of a number: the hidden bit stands above the mantissa unless the exponent field is 0 (R44). -/
def Fmt.significand (f : Fmt) (w : Nat) : Nat := (if fld w f.mbits f.ebits = 0 then 0 else 2 ^ f.mbits) + fld w 0 f.mbits

/-- The exponent of a number's last mantissa bit; exponent fields 0 and 1 share the smallest quantum (R44). -/
def Fmt.exponent (f : Fmt) (w : Nat) : Int := f.qmin + ((fld w f.mbits f.ebits - 1 : Nat) : Int)

theorem Fmt.value_of_inf (top : f.top = .ieee) (ones : fld w f.mbits f.ebits = 2 ^ f.ebits - 1)
    (zero : fld w 0 f.mbits = 0) : f.value w = .inf (bitOf w (f.ebits + f.mbits)) :=
  (if_pos ⟨top, ones⟩).trans (if_pos zero)

theorem Fmt.value_of_ieee_nan (top : f.top = .ieee) (ones : fld w f.mbits f.ebits = 2 ^ f.ebits - 1)
    (payload : fld w 0 f.mbits ≠ 0) : f.value w = .nan :=
  (if_pos ⟨top, ones⟩).trans (if_neg payload)

theorem Fmt.value_of_e4m3_nan (top : f.top = .e4m3) (ones : fld w 0 (f.ebits + f.mbits) = f.nanBits) : f.value w = .nan :=
  (if_neg fun ieee => absurd (top.symm.trans ieee.1) (by decide)).trans (if_pos ⟨top, ones⟩)

/-- Every encoding that is not special is a number. -/
theorem Fmt.value_of_number (number : ¬ f.Special w) :
    f.value w = .fin (bitOf w (f.ebits + f.mbits)) (f.significand w) (f.exponent w) := by
  obtain ⟨notIeee, notE4m3⟩ := not_or.mp number
  refine (if_neg notIeee).trans ((if_neg notE4m3).trans ?_)
  by_cases subnormal : fld w f.mbits f.ebits = 0
  · simp [subnormal, Fmt.significand, Fmt.exponent]
  · have quantum : f.qmin + (fld w f.mbits f.ebits : Int) - 1 = f.exponent w := by
      rw [Fmt.exponent]
      omega
    rw [if_neg subnormal, quantum, Fmt.significand, if_neg subnormal]

theorem Fmt.significand_le : f.significand w ≤ 2 ^ f.mbits + fld w 0 f.mbits := by
  refine Nat.add_le_add_right ?_ _
  split
  · exact Nat.zero_le _
  · exact le_rfl

theorem Fmt.special_iff_of_ieee (top : f.top = .ieee) : f.Special w ↔ fld w f.mbits f.ebits = 2 ^ f.ebits - 1 := by
  simp [Fmt.Special, top]

theorem Fmt.special_iff_of_e4m3 (top : f.top = .e4m3) : f.Special w ↔ fld w 0 (f.ebits + f.mbits) = f.nanBits := by
  simp [Fmt.Special, top]

theorem Fmt.not_special_of_plain (top : f.top = .plain) : ¬ f.Special w := by
  simp [Fmt.Special, top]

end value

theorem ieee_encodings (f : Fmt) (top : f.top = .ieee) (w : Nat) :
    (fld w f.mbits f.ebits = 2 ^ f.ebits - 1 → fld w 0 f.mbits = 0 → f.value w = .inf (bitOf w (f.ebits + f.mbits))) ∧
    (fld w f.mbits f.ebits = 2 ^ f.ebits - 1 → fld w 0 f.mbits ≠ 0 → f.value w = .nan) ∧
    (fld w f.mbits f.ebits ≠ 2 ^ f.ebits - 1 → ∃ m e, f.value w = .fin (bitOf w (f.ebits + f.mbits)) m e) :=
  ⟨Fmt.value_of_inf top, Fmt.value_of_ieee_nan top, fun finite =>
    ⟨_, _, Fmt.value_of_number fun special => finite ((Fmt.special_iff_of_ieee top).mp special)⟩⟩

/-! ### E4M3 (R45) -/

theorem e4m3_special_iff {w : Nat} (byte : w < 256) : e4m3.Special w ↔ w = 0x7F ∨ w = 0xFF := by
  have ones : fld w 0 (e4m3.ebits + e4m3.mbits) = w % 128 := by simp [fld, e4m3]
  rw [Fmt.special_iff_of_e4m3 rfl, ones, show e4m3.nanBits = 127 from rfl]
  omega

theorem e4m3_value_eq_nan_iff (w : Nat) : e4m3.value w = .nan ↔ e4m3.Special w := by
  constructor
  · intro nan
    by_contra number
    exact Num.noConfusion ((Fmt.value_of_number number).symm.trans nan)
  · exact fun special => Fmt.value_of_e4m3_nan rfl ((Fmt.special_iff_of_e4m3 rfl).mp special)

/-- No number of E4M3 exceeds 448 = 14 × 2^5 (R45): in the top binade, mantissa 111 is the NaN. -/
theorem e4m3_significand_le {w : Nat} (number : ¬ e4m3.Special w) :
    e4m3.significand w * 2 ^ (fld w e4m3.mbits e4m3.ebits - 1) ≤ 14 * 2 ^ 14 := by
  have hidden : e4m3.significand w ≤ 8 + fld w 0 3 := Fmt.significand_le
  have mantissa : fld w 0 3 < 8 := Nat.mod_lt _ (by decide)
  have field : fld w 3 4 < 16 := Nat.mod_lt _ (by decide)
  have notOnes : fld w 0 3 + 8 * fld w 3 4 ≠ 127 := fun ones =>
    number ((Fmt.special_iff_of_e4m3 rfl).mpr ((fld_append w 4 3).trans ones))
  change e4m3.significand w * 2 ^ (fld w 3 4 - 1) ≤ 14 * 2 ^ 14
  by_cases top : fld w 3 4 = 15
  · rw [top]
    exact Nat.mul_le_mul_right _ (by omega)
  · have lower : 2 ^ (fld w 3 4 - 1) ≤ 2 ^ 13 := Nat.pow_le_pow_right Nat.two_pos (by omega)
    calc e4m3.significand w * 2 ^ (fld w 3 4 - 1) ≤ 15 * 2 ^ 13 := Nat.mul_le_mul (by omega) lower
      _ ≤ 14 * 2 ^ 14 := by decide

theorem e4m3_encodings (w : Nat) (byte : w < 256) : (e4m3.value w = .nan ↔ w = 0x7F ∨ w = 0xFF) ∧
    (w ≠ 0x7F → w ≠ 0xFF →
      ∃ m e, e4m3.value w = .fin (bitOf w 7) m e ∧ -9 ≤ e ∧ m * 2 ^ (e + 9).toNat ≤ 14 * 2 ^ 14) := by
  refine ⟨(e4m3_value_eq_nan_iff w).trans (e4m3_special_iff byte), fun notPos notNeg => ?_⟩
  have number : ¬ e4m3.Special w := fun special => ((e4m3_special_iff byte).mp special).elim notPos notNeg
  have quantum : e4m3.exponent w = -9 + ((fld w e4m3.mbits e4m3.ebits - 1 : Nat) : Int) := rfl
  have steps : (e4m3.exponent w + 9).toNat = fld w e4m3.mbits e4m3.ebits - 1 := by omega
  refine ⟨_, _, Fmt.value_of_number number, by omega, ?_⟩
  rw [steps]
  exact e4m3_significand_le number

/-! ### Zeros (R45) -/

/-- The two zeros of a format: the sign bit in place and nothing else. -/
theorem Fmt.value_signBit {f : Fmt} (exponent : 0 < f.ebits) (neg : Bool) :
    f.value (f.signBit neg) = .fin neg 0 f.qmin := by
  have sign : bitOf (f.signBit neg) (f.ebits + f.mbits) = neg := by cases neg <;> simp [Fmt.signBit, bitOf]
  have magnitude : fld (f.signBit neg) 0 (f.ebits + f.mbits) = 0 := by cases neg <;> simp [Fmt.signBit, fld]
  have mantissa : fld (f.signBit neg) 0 f.mbits = 0 := by cases neg <;> simp [Fmt.signBit, fld, Nat.pow_add]
  have field : fld (f.signBit neg) f.mbits f.ebits = 0 := by cases neg <;> simp [Fmt.signBit, fld, Nat.pow_add]
  have wide : 2 ≤ 2 ^ f.ebits := Nat.le_self_pow exponent.ne' 2
  have number : ¬ f.Special (f.signBit neg) := by
    rintro (⟨-, ones⟩ | ⟨top, ones⟩)
    · omega
    · have wider : 2 ^ f.ebits ≤ 2 ^ (f.ebits + f.mbits) := Nat.pow_le_pow_right Nat.two_pos (Nat.le_add_right _ _)
      rw [magnitude, Fmt.nanBits, top] at ones
      dsimp only at ones
      omega
  rw [Fmt.value_of_number number, sign, Fmt.significand, Fmt.exponent, field, mantissa]
  simp

/-! ### Scales of blocks (R49) -/

theorem mxValue_of_scale (code x w : Nat) (finite : x < 255) :
    mxValue code x w = (elemValue code w).scale ((x : Int) - 127) := if_neg finite.ne

theorem mxValue_of_nan (code w : Nat) : mxValue code 255 w = .nan := if_pos rfl

theorem Num.scale_one (k : Int) : (Num.fin false 1 0).scale k = .fin false 1 k := by
  rw [Num.scale, Int.zero_add]

/-- Settles O56: each rule above at the formats of Table 3.2. -/
theorem numberEncodings : Obligations.NumberEncodings := by
  have ieee : ∀ f ∈ [fp32, bf16, fp16, e5m2], f.top = .ieee := by decide
  have plain : ∀ f ∈ [e3m2, e2m3, e2m1], f.top = .plain := by decide
  have exponents : ∀ f ∈ [fp32, bf16, fp16, e5m2, e4m3, e3m2, e2m3, e2m1], 0 < f.ebits := by decide
  refine ⟨packedAt_four_even_odd, packedAt_six_group, fun f mem => ieee_encodings f (ieee f mem), e4m3_encodings, rfl,
    fun f mem w => ⟨_, _, _, Fmt.value_of_number (Fmt.not_special_of_plain (plain f mem))⟩, fun f mem => ?zeros,
    mxValue_of_scale, mxValue_of_nan, fun x _ => Num.scale_one _⟩
  case zeros => exact ⟨⟨_, Fmt.value_signBit (exponents f mem) false⟩, _, Fmt.value_signBit (exponents f mem) true⟩

end Sys2Proof.Machine
end

section
/-! PROOFS. The start of an engine word (R69, R72, R136, R269): what the state in which its effect begins has in common with
the one before, how a word that passes its checks completes, and what its writes of a scratchpad leave alone. -/

namespace Sys2Proof.Machine

/-! ### The state in which a word's effect begins -/

/-- From s to t only the table of cores may change. -/
def OnlyCores (s t : State) : Prop := { s with cores := t.cores } = t

/-- From s to t every share stays as it is. -/
def SameShares (s t : State) : Prop := ∀ g j, t.share g j = s.share g j

theorem SameShares.trans {s t u : State} (a : SameShares s t) (b : SameShares t u) : SameShares s u :=
  fun g j => (b g j).trans (a g j)

theorem OnlyShare.onlyCores {s t : State} {site : Site} (h : OnlyShare s t site) : OnlyCores s t := h.1

theorem OnlyShare.sameShares {s t : State} {site : Site} (h : OnlyShare s t site) (own : t.at site = s.at site) :
    SameShares s t := fun g j => by
  by_cases e : g = site.core.val ∧ j = site.share.val
  · obtain ⟨rfl, rfl⟩ := e
    exact own
  · exact h.2.2 g j e

/-- A core's own fields may change under its shares. -/
theorem share_setCore_of_shares (s : State) (g : Nat) (c : CoreSt) (kept : c.shares = (s.core g).shares) :
    SameShares s (s.setCore g c) := fun a b => by
  unfold State.share
  by_cases e : a = g
  · rw [e, core_setCore_self, kept]
  · rw [core_setCore_ne _ _ _ _ e]

section
variable (s : State) (site : Site) (q : Nat)

theorem onlyShare_turned : OnlyShare s (s.turned site q) site ∧ (s.turned site q).at site = s.at site := by
  obtain ⟨woken, wokenAt⟩ := onlyShare_wakeCore s site
  obtain ⟨rotated, rotatedAt⟩ := onlyShare_rotate (s.wakeCore site.core.val) site q
  exact ⟨woken.trans rotated, rotatedAt.trans wokenAt⟩

theorem sameShares_turned : SameShares s (s.turned site q) :=
  (onlyShare_turned s site q).1.sameShares (onlyShare_turned s site q).2

theorem onlyCores_turned : OnlyCores s (s.turned site q) := (onlyShare_turned s site q).1.onlyCores

@[simp] theorem share_turned (g j : Nat) : (s.turned site q).share g j = s.share g j := sameShares_turned s site q g j

@[simp] theorem at_turned : (s.turned site q).at site = s.at site := (onlyShare_turned s site q).2

end

section
variable {s t : State} (h : OnlyCores s t)
include h

theorem OnlyCores.clu (n : Nat) : t.clu n = s.clu n := by rw [← h]; rfl

theorem OnlyCores.ctx (c : Nat) : t.ctx c = s.ctx c := by rw [← h]; rfl

theorem OnlyCores.findPort (c i port : Nat) (member : Edge → Nat → Nat → Option Nat) :
    t.findPort c i port member = s.findPort c i port member := by rw [← h]; rfl

theorem OnlyCores.inShare (g a n : Nat) : t.inShare g a n = s.inShare g a n := by rw [← h]; rfl

end

/-! ### The start of a word -/

section
variable {s t : State} {site : Site} {w : W64} {q op : Nat} {e : QEntry} {f : State → Nat → Nat → QEntry → StartRes} {n : Nat}

/-- A word that starts and is done completes from the state that its effect leaves. -/
theorem startEngine_of_done (starts : Starts s site w q op e)
    (res : f (s.turned site q) site.core.val site.share.val e = .done t n) :
    s.startEngine site w q op f = finishWord t site q e n := by
  obtain ⟨⟨rest, queue⟩, word, opcode, on, startable, chosen⟩ := starts
  have head : (s.share site.core.val site.share.val).queue q = e :: rest := queue
  simp only [State.startEngine, head, word, opcode, startable, chosen, beq_self_eq_true, Bool.and_self, if_true, on,
    Bool.false_eq_true, if_false]
  rw [show (s.wakeCore site.core.val).rotate site.core.val q site.share.val = s.turned site q from rfl, res]
  rfl

/-- A word whose work goes on elsewhere leaves its queue. -/
theorem startEngine_of_later (starts : Starts s site w q op e)
    (res : f (s.turned site q) site.core.val site.share.val e = .later t) :
    s.startEngine site w q op f = t.leave site.core.val q site.share.val := by
  obtain ⟨⟨rest, queue⟩, word, opcode, on, startable, chosen⟩ := starts
  have head : (s.share site.core.val site.share.val).queue q = e :: rest := queue
  simp only [State.startEngine, head, word, opcode, startable, chosen, beq_self_eq_true, Bool.and_self, if_true, on,
    Bool.false_eq_true, if_false]
  rw [show (s.wakeCore site.core.val).rotate site.core.val q site.share.val = s.turned site q from rfl, res]

/-- A word that starts, draws at most, and then changes its own share by F, has the effects that F has on the share. -/
theorem effects_of_modShare {F : ShareSt → ShareSt} {P : ShareSt → ShareSt → Prop} (starts : Starts s site w q op e)
    (same : SameShares s t)
    (res : f (s.turned site q) site.core.val site.share.val e = .done (t.modShare site.core.val site.share.val F) n)
    (own : P (s.at site) (F (s.at site))) :
    Effects s site q e (f (s.turned site q) site.core.val site.share.val e) (.next (s.startEngine site w q op f)) n P := by
  refine ⟨_, res, congrArg Host.Outcome.next (startEngine_of_done starts res), ?_, fun g j other => ?_⟩
  · rw [show (t.modShare site.core.val site.share.val F).at site = F (t.at site) from share_setShare_self _ _ _ _,
      show t.at site = s.at site from same _ _]
    exact own
  · rw [modShare_eq, share_setShare_ne _ _ _ _ _ _ other, same]

theorem Starts.word (starts : Starts s site w q op e) : e.word = w := starts.2.1

end

/-! ### Checks of a started word -/

/-- A word passes checks none of whose conditions holds. -/
theorem checked_of_pass {s : State} {l : List (Bool × Nat)} {k : StartRes} (pass : ∀ x ∈ l, x.1 = false) :
    checked s l k = k := by
  have none_ : causes l = [] := by
    rw [causes, List.filter_eq_nil_iff.2 fun x mem => by rw [pass x mem]; exact Bool.false_ne_true, List.map_nil]
  rw [checked, none_]

/-- What a check asks of the share's size stands in the state where the effect begins as it does in s. -/
theorem inShare_turned {s : State} {site : Site} {q a n : Nat} (fits : a + n ≤ s.shareSize site.core.val) :
    (s.turned site q).inShare site.core.val a n = true := by
  rw [(onlyCores_turned s site q).inShare]
  exact decide_eq_true fits

theorem access_pass {s : State} {site : Site} {q a n es : Nat} (fits : Fits s site a n es) :
    ∀ x ∈ (s.turned site q).access site.core.val a n es, x.1 = false := by
  obtain ⟨inside, aligned⟩ := fits
  simp [State.access, inShare_turned inside, aligned]

/-! ### Writes of a scratchpad -/

theorem get_writeBytes_of_outside {bs : Bytes} {m : List Host.Cell} {a x : Nat} (out : x < a ∨ a + bs.length ≤ x) :
    Tbl.get 0 (writeBytes m a bs) x = Tbl.get 0 m x := by
  induction bs generalizing m a with
  | nil => rfl
  | cons b bs ih =>
    rw [List.length_cons] at out
    rw [writeBytes, ih (by omega), Tbl.get_set_ne _ _ _ (by omega)]

@[simp] theorem length_readBytes (m : List Host.Cell) (a n : Nat) : (readBytes m a n).length = n := by simp [readBytes]

theorem ScratchOnly.refl (h : ShareSt) (inside : Nat → Prop) : ScratchOnly h h inside := ⟨rfl, fun _ _ => rfl⟩

theorem ScratchOnly.trans {h u v : ShareSt} {inside : Nat → Prop} (a : ScratchOnly h u inside) (b : ScratchOnly u v inside) :
    ScratchOnly h v inside := by
  refine ⟨?_, fun x out => (b.2 x out).trans (a.2 x out)⟩
  rw [← a.1, ← b.1]

theorem ScratchOnly.mono {h u : ShareSt} {p q : Nat → Prop} (only : ScratchOnly h u p) (weaker : ∀ x, p x → q x) :
    ScratchOnly h u q := ⟨only.1, fun x out => only.2 x fun inside => out (weaker x inside)⟩

/-- A write inside the given bytes changes nothing else of the share. -/
theorem scratchOnly_write (h : ShareSt) {a : Nat} {bs : Bytes} {inside : Nat → Prop}
    (within : ∀ x, a ≤ x → x < a + bs.length → inside x) : ScratchOnly h (h.write a bs) inside :=
  ⟨rfl, fun x out => get_writeBytes_of_outside (by
    by_contra both
    exact out (within x (by omega) (by omega)))⟩

theorem scratchOnly_write_own (h : ShareSt) (a : Nat) {bs : Bytes} {n : Nat} (len : bs.length = n) :
    ScratchOnly h (h.write a bs) fun x => a ≤ x ∧ x < a + n :=
  scratchOnly_write h fun _ low high => ⟨low, len ▸ high⟩

theorem length_flatMap_leBytes (n es : Nat) (v : Nat → Nat) :
    ((List.range n).flatMap fun c => leBytes es (v c)).length = n * es := by
  simp [List.length_flatMap, length_leBytes]

theorem scratchOnly_foldl {α : Type} {l : List α} {f : ShareSt → α → ShareSt} {inside : Nat → Prop} (h : ShareSt)
    (step : ∀ u, ∀ x ∈ l, ScratchOnly u (f u x) inside) : ScratchOnly h (l.foldl f h) inside :=
  List.foldlRecOn (motive := fun u => ScratchOnly h u inside) l f (.refl h inside)
    fun u before x mem => before.trans (step u x mem)

end Sys2Proof.Machine
end

section
/-! PROOFS. Loads, stores, matrix words and scan words (R72 to R76, R145, R155, R156, R168, R172, R173): which checks each
word passes, which rows, bytes or tile it writes, and from these rules the statements LoadStoreWords and
MatrixAndScanWords. -/

namespace Sys2Proof.Machine

/-! ### The commands that start these words -/

section
variable (site : Site) (w : W64) (s : State)

theorem exec_sLd_start : exec (.sLd site .start w) s = .next (s.startEngine site w 1 0x30 sLdStart) := rfl
theorem exec_sSt_start : exec (.sSt site .start w) s = .next (s.startEngine site w 1 0x31 sStStart) := rfl
theorem exec_vLd_start : exec (.vLd site .start w) s = .next (s.startEngine site w 1 0x80 vLdStart) := rfl
theorem exec_vSt_start : exec (.vSt site .start w) s = .next (s.startEngine site w 1 0x81 vStStart) := rfl
theorem exec_mxMul_start : exec (.mxMul site .start w) s = .next (s.startEngine site w 0 0x60 mxMulStart) := rfl
theorem exec_mxLd_start : exec (.mxLd site .start w) s = .next (s.startEngine site w 0 0x61 mxLdStart) := rfl
theorem exec_mxSt_start : exec (.mxSt site .start w) s = .next (s.startEngine site w 0 0x62 mxStStart) := rfl
theorem exec_mxZero_start : exec (.mxZero site .start w) s = .next (s.startEngine site w 0 0x63 mxZeroStart) := rfl

end

/-! ### Loads and stores (R72, R145, R168) -/

theorem vMemChecks_pass {s : State} {site : Site} {q : Nat} {e : QEntry} (size : fld e.w 21 2 ≠ 3)
    (fits : Fits s site (e.addrOff (fld e.w 27 4) 21 (fld e.w 0 21)) (256 * (fld e.w 23 4 + 1)) (2 ^ fld e.w 21 2)) :
    ∀ x ∈ vMemChecks (s.turned site q) site.core.val e, x.1 = false := by
  obtain ⟨inside, aligned⟩ := fits
  simp [vMemChecks, State.access, inShare_turned inside, aligned, size]

/-- Settles O21: each word's access fits, so the word is done; a store writes its own bytes. -/
theorem loadStoreWords : Obligations.LoadStoreWords := by
  intro site w s e
  refine ⟨fun fits => ⟨fun starts => ?sld, fun starts => ?sst⟩, fun size fits => ⟨fun starts => ?vld, fun starts => ?vst⟩⟩
  all_goals obtain rfl := starts.word
  case sld =>
    have res : sLdStart (s.turned site 1) site.core.val site.share.val e = _ := checked_of_pass (access_pass fits)
    rw [exec_sLd_start, startEngine_of_done starts res]
    rfl
  case sst =>
    have res : sStStart (s.turned site 1) site.core.val site.share.val e = _ := checked_of_pass (access_pass fits)
    rw [exec_sSt_start]
    exact res ▸ effects_of_modShare starts (sameShares_turned s site 1) res
      (scratchOnly_write_own _ _ (length_leBytes 4 (e.sv (fld e.w 31 5))))
  case vld =>
    have res : vLdStart (s.turned site 1) site.core.val site.share.val e = _ := checked_of_pass (vMemChecks_pass size fits)
    rw [exec_vLd_start, startEngine_of_done starts res]
    rfl
  case vst =>
    have res : vStStart (s.turned site 1) site.core.val site.share.val e = _ := checked_of_pass (vMemChecks_pass size fits)
    rw [exec_vSt_start]
    exact res ▸ effects_of_modShare starts (sameShares_turned s site 1) res
      (scratchOnly_write_own _ _ (length_readBytes (s.at site).v (256 * fld e.w 31 5) (256 * (fld e.w 23 4 + 1))))

/-! ### Tiles (R74, R76, R155, R156) -/

theorem get_foldl_set_of_ne {α : Type} [DecidableEq α] {d : α} {l : List (Nat × α)} {t : Tbl α} {k : Nat}
    (ne : ∀ x ∈ l, x.1 ≠ k) : Tbl.get d (l.foldl (fun t x => Tbl.set d t x.1 x.2) t) k = Tbl.get d t k :=
  List.foldlRecOn (motive := fun u => Tbl.get d u k = Tbl.get d t k) l _ rfl
    fun _ before x mem => (Tbl.get_set_ne d x.2 _ (ne x mem).symm).trans before

/-- The cells of the first rows of a tile, as a word computes them. -/
def rowCells (rows : Nat) (cell : Nat → Nat → Word) : List (Nat × Word) :=
  (List.range rows).flatMap fun m => (List.range 32).map fun c => (32 * m + c, cell m c)

theorem rowCells_below {rows : Nat} {cell : Nat → Nat → Word} : ∀ x ∈ rowCells rows cell, x.1 < 32 * rows := by
  intro x mem
  obtain ⟨m, row, mem⟩ := List.mem_flatMap.1 mem
  obtain ⟨c, col, rfl⟩ := List.mem_map.1 mem
  rw [List.mem_range] at row col
  show 32 * m + c < 32 * rows
  omega

/-- The tile with the cells of its first rows written and its class set. -/
def Tile.withRows (t : Tile) (cls : TileClass) (rows : Nat) (cell : Nat → Nat → Word) : Tile :=
  { cls := cls, elems := (rowCells rows cell).foldl (fun m x => Tbl.set 0 m x.1 x.2) t.elems }

theorem elem_withRows_of_le {t : Tile} {cls : TileClass} {rows : Nat} {cell : Nat → Nat → Word} {m c : Nat} (below : rows ≤ m) :
    (t.withRows cls rows cell).elem m c = t.elem m c := by
  refine get_foldl_set_of_ne fun x mem => ?_
  have := rowCells_below x mem
  omega

/-- Writing the first rows of a tile leaves its other rows, the other tiles and the rest of the share. -/
theorem setTile_withRows (h : ShareSt) (ti : Nat) (cls : TileClass) (rows : Nat) (cell : Nat → Nat → Word) :
    let u := h.setTile ti ((h.tile ti).withRows cls rows cell)
    { u with t := h.t } = h ∧ (u.tile ti).cls = cls ∧ (∀ i, i ≠ ti → u.tile i = h.tile i) ∧
      ∀ m c, rows ≤ m → c < 32 → (u.tile ti).elem m c = (h.tile ti).elem m c := by
  intro u
  have own : u.tile ti = (h.tile ti).withRows cls rows cell := Tbl.get_set_self _ _ _ _
  rw [own]
  exact ⟨rfl, rfl, fun i ne => Tbl.get_set_ne _ _ _ ne, fun m c below _ => elem_withRows_of_le below⟩

theorem rowChecks_pass {s : State} {site : Site} {q a st rows es : Nat} (n : Nat)
    (inside : a + (rows - 1) * st + n ≤ s.shareSize site.core.val) (aligned : a % es = 0) (stride : 1 < rows → st % es = 0) :
    ∀ x ∈ (s.turned site q).rowChecks site.core.val a st n rows es, x.1 = false := by
  have first : a + n ≤ s.shareSize site.core.val := by omega
  simpa [State.rowChecks, inShare_turned inside, inShare_turned first, aligned] using stride

theorem sameShares_roundings (s : State) (g rm G n : Nat) : SameShares s (s.roundings g rm G n).2 := by
  unfold State.roundings
  split
  · exact fun _ _ => rfl
  · exact fun _ _ => rfl
  · exact share_setCore_of_shares s g { s.core g with rng := _, draws := _, due := _, overdue := _ } rfl

theorem matrixWords : Claims.MatrixWords := by
  intro site w s e
  refine ⟨?mul, ?rows, fun starts => ?zero⟩
  case zero =>
    obtain rfl := starts.word
    have res : mxZeroStart (s.turned site 0) site.core.val site.share.val e = _ := rfl
    rw [exec_mxZero_start, startEngine_of_done starts res]
    rfl
  case mul =>
    intro fa fb aa ab M K sa cls starts classes tile rows rowsMax depth depthMax groups mxA mxB insideA insideB alignA alignB
    obtain rfl := starts.word
    obtain ⟨cell, res⟩ : ∃ cell, mxMulStart (s.turned site 0) site.core.val site.share.val e =
        .done ((s.turned site 0).modShare site.core.val site.share.val fun h => h.setTile (fld e.w 34 2)
          ((((s.turned site 0).share site.core.val site.share.val).tile (fld e.w 34 2)).withRows cls M cell))
          (mulCycles fa fb K) := by
      refine ⟨_, (checked_of_pass ?operands).trans (checked_of_pass ?places)⟩
      case operands =>
        simp only [share_turned, List.mem_cons, List.not_mem_nil, or_false, forall_eq_or_imp, forall_eq,
          bne_eq_false_iff_eq, bne_iff_ne, Bool.and_eq_false_imp, Bool.and_eq_true, and_imp, Bool.or_eq_false_iff,
          beq_eq_false_iff_ne, decide_eq_false_iff_not, not_lt]
        refine ⟨classes, fun bit other => (tile (bitOf_toNat e.word 33 ▸ bit)).resolve_left other,
          ⟨Nat.ne_of_gt rows, rowsMax⟩, ⟨⟨Nat.ne_of_gt depth, depthMax⟩, groups⟩,
          fun mx => ⟨(mxA mx).1, (mxA mx).2.1⟩, fun mx => (mxB mx).1⟩
      case places =>
        simp only [List.mem_cons, List.not_mem_nil, or_false, forall_eq_or_imp, forall_eq, Bool.not_eq_false',
          Bool.and_eq_false_imp, beq_iff_eq, bne_eq_false_iff_eq, Bool.or_eq_false_iff, decide_eq_true_eq]
        exact ⟨inShare_turned insideA, inShare_turned insideB, fun mx => inShare_turned (mxA mx).2.2,
          fun mx => inShare_turned (mxB mx).2, alignA, alignB⟩
    rw [share_turned] at res
    rw [exec_mxMul_start]
    exact effects_of_modShare starts (sameShares_turned s site 0) res (setTile_withRows _ _ _ _ _)
  case rows =>
    intro a n st f es rows rowsMax inside aligned stride
    refine ⟨fun starts class_ => ?ld, fun starts format mode overflow => ?st⟩
    all_goals obtain rfl := starts.word
    case ld =>
      obtain ⟨cell, res⟩ : ∃ cell, mxLdStart (s.turned site 0) site.core.val site.share.val e =
          .done ((s.turned site 0).modShare site.core.val site.share.val fun h => h.setTile (fld e.w 34 2)
            ((((s.turned site 0).share site.core.val site.share.val).tile (fld e.w 34 2)).withRows (ldClass f) n cell)) n := by
        refine ⟨_, (checked_of_pass ?operandClass).trans (checked_of_pass (rowChecks_pass (32 * es) inside aligned stride))⟩
        simp only [List.mem_cons, List.not_mem_nil, or_false, forall_eq_or_imp, forall_eq, beq_eq_false_iff_ne,
          Bool.or_eq_false_iff, decide_eq_false_iff_not, not_lt]
        exact ⟨class_, Nat.ne_of_gt rows, rowsMax⟩
      rw [share_turned] at res
      rw [exec_mxLd_start]
      exact effects_of_modShare starts (sameShares_turned s site 0) res (setTile_withRows _ _ _ _ _)
    case st =>
      obtain ⟨rowOf, len, res⟩ : ∃ rowOf : Nat → Bytes, (∀ m, (rowOf m).length = 32 * es) ∧
          mxStStart (s.turned site 0) site.core.val site.share.val e =
            .done (((s.turned site 0).roundings site.core.val (fld e.w 14 2) 4 (32 * n)).2.modShare site.core.val
              site.share.val fun h => (List.range n).foldl (fun h m => h.write (a + m * st) (rowOf m)) h)
              (if fld e.w 14 2 = 2 then 8 * n else n) := by
        refine ⟨_, ?length, (checked_of_pass ?tile).trans
          (checked_of_pass (rowChecks_pass (32 * es) inside aligned stride))⟩
        case length => exact fun m => length_flatMap_leBytes 32 es _
        simp only [share_turned, List.mem_cons, List.not_mem_nil, or_false, forall_eq_or_imp, forall_eq,
          Bool.not_eq_false', beq_eq_false_iff_ne, Bool.and_eq_false_imp, bne_eq_false_iff_eq, Bool.or_eq_false_iff,
          decide_eq_false_iff_not, not_lt]
        exact ⟨format, mode, fun bit => overflow (bitOf_toNat e.word 13 ▸ bit), Nat.ne_of_gt rows, rowsMax⟩
      rw [exec_mxSt_start]
      refine effects_of_modShare starts ((sameShares_turned s site 0).trans (sameShares_roundings _ _ _ _ _)) res ?_
      refine scratchOnly_foldl _ fun u m mem => scratchOnly_write u fun x low high => ⟨m, List.mem_range.1 mem, low, ?_⟩
      rwa [len] at high

/-! ### Scan words (R172, R173) -/

theorem length_out_scanStep (c : ScanChan) (P C CL ch : Nat) (acc : ScanAcc) (t : Nat) :
    (c.step P C CL ch acc t).out.length = acc.out.length + 1 := by
  simp only [ScanChan.step, List.length_cons]
  split <;> rfl

/-- A channel's run gives one value for each position. -/
theorem length_scanRun (c : ScanChan) (P C CL ch : Nat) (h : Word × Word) : (c.run P C CL ch h).length = P := by
  have grows (l : List Nat) (acc : ScanAcc) : (l.foldl (c.step P C CL ch) acc).out.length = acc.out.length + l.length := by
    induction l generalizing acc with
    | nil => rfl
    | cons t l ih => rw [List.foldl_cons, ih, length_out_scanStep, List.length_cons]; omega
  rw [ScanChan.run, List.length_reverse, grows, List.length_range]
  exact Nat.zero_add P

/-- Element (i, c) of n rows of C elements of es bytes lies within them. -/
theorem element_within {i c n C : Nat} (es : Nat) (row : i < n) (col : c < C) : (i * C + c) * es + es ≤ n * C * es := by
  have cell : i * C + c + 1 ≤ n * C := by
    calc i * C + c + 1 ≤ (i + 1) * C := by rw [Nat.succ_mul]; omega
      _ ≤ n * C := Nat.mul_le_mul_right C row
  calc (i * C + c) * es + es = (i * C + c + 1) * es := (Nat.succ_mul _ _).symm
    _ ≤ n * C * es := Nat.mul_le_mul_right es cell

/-- A write of element (i, c) of n rows of C elements at base changes nothing else. -/
theorem scratchOnly_writeElement (h : ShareSt) {i c n C es base : Nat} {bs : Bytes} (row : i < n) (col : c < C)
    (len : bs.length = es) : ScratchOnly h (h.write (base + (i * C + c) * es) bs) fun x => base ≤ x ∧ x < base + n * C * es := by
  have within := element_within es row col
  exact scratchOnly_write h fun x low high => by omega

/-- What a scan word writes for one channel: its results by position, its final state, and of order 2 the state before. -/
def ShareSt.writeChannel (op P C f : Nat) (rm : Rm) (ay ast : Nat) (second : Nat × List Word → Word) (h : ShareSt)
    (r : Nat × List Word) : ShareSt :=
  let es := elemBits f / 8
  let put (v : Word) : Bytes := leBytes es (convertTo f rm false (f32 v))
  let h := r.2.zipIdx.foldl (fun h v => h.write (ay + (v.2 * C + r.1) * es) (put v.1)) h
  let h := h.write (ast + r.1 * es) (put (r.2.getD (P - 1) 0))
  if op = 0x91 then h.write (ast + (C + r.1) * es) (put (second r)) else h

theorem scratchOnly_writeChannel {op P C f : Nat} {rm : Rm} {ay ast : Nat} {second : Nat × List Word → Word}
    {r : Nat × List Word} (h : ShareSt) (chan : r.1 < C) (run : r.2.length = P) :
    ScratchOnly h (h.writeChannel op P C f rm ay ast second r) fun x => ay ≤ x ∧ x < ay + P * C * (elemBits f / 8) ∨
      ast ≤ x ∧ x < ast + (if op = 0x91 then 2 else 1) * C * (elemBits f / 8) := by
  have len (v : Word) := length_leBytes (elemBits f / 8) (convertTo f rm false (f32 v))
  have results (u : ShareSt) (v : Word × Nat) (mem : v ∈ r.2.zipIdx) :=
    scratchOnly_writeElement u (base := ay) (run ▸ (List.mem_zipIdx' mem).1) chan (len v.1)
  have last (u : ShareSt) (v : Word) {n : Nat} (pos : 0 < n) :=
    scratchOnly_writeElement u (base := ast) pos chan (len v)
  have before (u : ShareSt) (v : Word) := scratchOnly_writeElement u (base := ast) Nat.one_lt_two chan (len v)
  simp only [Nat.zero_mul, Nat.zero_add, Nat.one_mul] at last before
  unfold ShareSt.writeChannel
  split
  · exact (((scratchOnly_foldl h results).mono fun x => .inl).trans ((last _ _ Nat.two_pos).mono fun x => .inr)).trans
      ((before _ _).mono fun x => .inr)
  · exact ((scratchOnly_foldl h results).mono fun x => .inl).trans ((last _ _ Nat.one_pos).mono fun x => .inr)

theorem scanWords : Claims.ScanWords := by
  intro site w s e op c starts word ab P C cp es rows sets group rows1 rowsMax chans chansMax format plain mode x coef y st
  obtain rfl := starts.word
  have run : exec c s = .next (s.startEngine site e.word 2 op (scanStart op)) := by
    obtain ⟨rfl, rfl⟩ | ⟨rfl, rfl⟩ | ⟨rfl, rfl⟩ := word <;> rfl
  have coefBit : bitOf e.w 15 = cp := bitOf_toNat _ _
  have markBit : bitOf e.w 14 = e.word.getLsbD 14 := bitOf_toNat _ _
  obtain ⟨out, rm, second, channels, res⟩ : ∃ (out : List (Nat × List Word)) (rm : Rm)
      (second : Nat × List Word → Word), (∀ r ∈ out, r.1 < C ∧ r.2.length = P) ∧
      scanStart op (s.turned site 2) site.core.val site.share.val e = .done ((s.turned site 2).modShare site.core.val
        site.share.val fun h => out.foldl (ShareSt.writeChannel op P C (scanFmt (fld e.w 16 3)) rm (e.av (ab + 2))
          (e.av (ab + 3)) second) h) (scanCycles op P C) := by
    refine ⟨_, _, _, ?runs, (checked_of_pass ?shape).trans ((checked_of_pass ?operands).trans rfl)⟩
    case runs =>
      intro r mem
      obtain ⟨c, chan, rfl⟩ := List.mem_map.1 mem
      exact ⟨List.mem_range.1 chan, length_scanRun _ _ _ _ _ _⟩
    case shape =>
      simp only [List.mem_cons, List.not_mem_nil, or_false, forall_eq_or_imp, forall_eq, Bool.or_eq_false_iff,
        beq_eq_false_iff_ne, decide_eq_false_iff_not, not_lt, not_le, Bool.and_eq_false_imp, beq_iff_eq]
      exact ⟨⟨⟨⟨⟨group, Nat.ne_of_gt rows1⟩, Nat.ne_of_gt chans⟩, chansMax⟩, rowsMax⟩,
        ⟨format, fun ema => Bool.eq_false_iff.2 (coefBit ▸ fun set => plain ⟨ema, set⟩)⟩, mode⟩
    case operands =>
      have pass {a n k : Nat} (fits : Fits s site a n k) := access_pass (q := 2) fits
      rw [coefBit, markBit]
      simp only [List.forall_mem_append]
      exact ⟨⟨⟨pass x, pass coef⟩, pass y⟩, pass st⟩
  rw [run]
  exact effects_of_modShare starts (sameShares_turned s site 2) res
    (scratchOnly_foldl _ fun u r mem => scratchOnly_writeChannel u (channels r mem).1 (channels r mem).2)

/-- Settles O22: a word whose checks pass is done, and writes the rows, the bytes or the tile it names. -/
theorem matrixAndScanWords : Obligations.MatrixAndScanWords := ⟨matrixWords, scanWords⟩

end Sys2Proof.Machine
end

section
/-! PROOFS. The movement words (R82, R102, R103, R116, R117, R150 to R154, R209, R210): what they read of the state in which
their effect begins, the effect of each, and from these rules the statement RequestAndQueueWords. -/

namespace Sys2Proof.Machine

/-! ### What the movement words read -/

section
variable (s : State) (site : Site) (q : Nat)

@[simp] theorem clu_turned (n : Nat) : (s.turned site q).clu n = s.clu n := (onlyCores_turned s site q).clu n

theorem narrowMap_turned : (s.turned site q).narrowMap = s.narrowMap := by rw [← onlyCores_turned s site q]

theorem millNext_turned : (s.turned site q).millNext = s.millNext := by rw [← onlyCores_turned s site q]

@[simp] theorem ctxOf_turned (g j : Nat) : (s.turned site q).ctxOf g j = s.ctxOf g j := by
  rw [State.ctxOf, share_turned, State.ctxOf]

theorem halo_turned (g j i : Nat) : ((s.turned site q).share g j).halo i = (s.share g j).halo i := by rw [share_turned]

@[simp] theorem peerOf_turned (g j i : Nat) : (s.turned site q).peerOf g j i = s.peerOf g j i := by
  simp only [State.peerOf, ctxOf_turned, (onlyCores_turned s site q).ctx]

@[simp] theorem servesOf_turned (g j serves : Nat) : (s.turned site q).servesOf g j serves = s.servesOf g j serves := by
  rw [State.servesOf, share_turned]
  rw [← onlyCores_turned s site q]
  rfl

end

theorem portOf_turned {s : State} {site : Site} {q c : Nat} (ctx : (s.at site).ctx = some c) (e : QEntry)
    (member : Edge → Nat → Nat → Option Nat) : (s.turned site q).portOf site.core.val site.share.val e member =
      s.findPort c (s.at site).logical (fld e.w 33 3) member := by
  have own : s.ctxOf site.core.val site.share.val = some c := ctx
  simp only [State.portOf, ctxOf_turned, own, share_turned, (onlyCores_turned s site q).findPort]
  rfl

/-! ### The commands that start these words -/

section
variable (site : Site) (w : W64) (s : State)

theorem exec_haloSend_start : exec (.haloSend site .start w) s = .next (s.startEngine site w 3 0x52 haloSendStart) := rfl
theorem exec_haloRecv_start : exec (.haloRecv site .start w) s = .next (s.startEngine site w 3 0x53 haloRecvStart) := rfl
theorem exec_qSend_start : exec (.qSend site .start w) s = .next (s.startEngine site w 3 0x54 qSendStart) := rfl
theorem exec_qRecv_start : exec (.qRecv site .start w) s = .next (s.startEngine site w 3 0x55 qRecvStart) := rfl
theorem exec_qRel_start : exec (.qRel site .start w) s = .next (s.startEngine site w 3 0x56 qRelStart) := rfl
theorem exec_narReq_start : exec (.narReq site .start w) s = .next (s.startEngine site w 3 0x57 (narReqStart site)) := rfl

end

/-! ### Requests (R82, R102, R103, R116, R117, R151, R152) -/

theorem listBad_of_fits {s : State} {g : Nat} {e : QEntry} (aligned : listBase e % 64 = 0)
    (inside : s.inShare g (listBase e) (64 * listCount e) = true) (some_ : 1 ≤ listCount e) (few : listCount e ≤ 4096) :
    s.listBad g e = false := by
  simp [State.listBad, aligned, inside, few, Nat.ne_of_gt some_]

theorem submitted_of_unfused {e : QEntry} (unfused : e.stage = none) (s : State) : submitted e s = .done s 0 := by
  simp [submitted, unfused]

theorem listCount_eq (e : QEntry) :
    listCount e = if e.word.getLsbD 31 then fld e.word.toNat 14 12 + 1 else e.sv (fld e.word.toNat 26 5) :=
  congrArg (fun b : Bool => if b then fld e.w 14 12 + 1 else e.sv (fld e.w 26 5)) (bitOf_toNat e.word 31)

/-- A descriptor that a word submits is aligned and lies in the share. -/
theorem descriptor_placed {s : State} {site : Site} {q a n : Nat} (aligned : a % n = 0)
    (inside : a + n ≤ s.shareSize site.core.val) :
    ¬ (a % n ≠ 0 ∨ (!(s.turned site q).inShare site.core.val a n) = true) := by
  simp [aligned, inShare_turned inside]

theorem requestWords : Claims.RequestWords := by
  intro site w s e c op g j n r ctx
  refine ⟨fun get word starts aligned inside some_ few => ?lists, fun starts aligned inside up unfused => ?narrow,
    fun m word starts aligned inside unfused => ?mill⟩
  all_goals obtain rfl := starts.word
  case lists =>
    have start : exec c s = .next (s.startEngine site e.word 3 op (dmaStart get site)) := by
      obtain ⟨rfl, rfl, rfl⟩ | ⟨rfl, rfl, rfl⟩ := word <;> rfl
    rw [← listCount_eq] at inside some_ few
    have res : dmaStart get site r g j e = _ :=
      if_neg (Bool.eq_false_iff.1 (listBad_of_fits aligned (inShare_turned inside) some_ few))
    rw [ctxOf_turned, clu_turned, listCount_eq] at res
    rw [start, startEngine_of_later starts res]
    rfl
  case narrow =>
    have res : narReqStart site r g j e = _ := (if_neg (descriptor_placed aligned inside)).trans
      ((if_neg (by rwa [narrowMap_turned])).trans (submitted_of_unfused unfused _))
    rw [ctxOf_turned, share_turned, unfused] at res
    rw [exec_narReq_start, startEngine_of_done starts res]
    rfl
  case mill =>
    have start : exec c s = .next (s.startEngine site e.word 3 op (millStart m site)) := by
      obtain ⟨rfl, rfl, rfl⟩ | ⟨rfl, rfl, rfl⟩ | ⟨rfl, rfl, rfl⟩ | ⟨rfl, rfl, rfl⟩ | ⟨rfl, rfl, rfl⟩ | ⟨rfl, rfl, rfl⟩ :=
        word <;> rfl
    have res : millStart m site r g j e = _ := (if_neg (descriptor_placed aligned inside)).trans
      (submitted_of_unfused unfused _)
    rw [ctxOf_turned, share_turned, servesOf_turned, millNext_turned, unfused] at res
    rw [start, startEngine_of_done starts res]
    rfl

/-! ### Halo links (R153) -/

/-- The checks of a message: its own condition, and that it lies in the share. -/
theorem messageChecks_pass {t : State} {g a n cause : Nat} {bad : Bool} (good : bad = false) (inside : t.inShare g a n = true) :
    ∀ x ∈ [(bad, cause), (!t.inShare g a n, 0x01)], x.1 = false := by
  simp [good, inside]

section
variable {t : State} {g j pg pj : Nat} {e : QEntry} {l m : Halo}

theorem haloSendStart_of_peer (link : (t.share g j).halo (fld e.w 34 2) = some l) (out : l.incoming = false)
    (some_ : 1 ≤ e.sv (fld e.w 25 5)) (few : e.sv (fld e.w 25 5) ≤ l.size)
    (inside : t.inShare g (e.av (fld e.w 30 4)) (e.sv (fld e.w 25 5)) = true) (peer : t.peerOf g j l.peer = some (pg, pj)) :
    haloSendStart t g j e = .done ((((t.wakeCluster (pg / 64)).writeShare pg pj (l.buf + l.count % 2 * l.size)
      ((t.share g j).read (e.av (fld e.w 30 4)) (e.sv (fld e.w 25 5)))).modShare g j fun h =>
        { h with halos := Tbl.set none h.halos (fld e.w 34 2) (some { l with count := l.count + 1 }) }).syncAdd l.data 1) 0 := by
  simp only [haloSendStart, link, out, Bool.false_eq_true, if_false, peer]
  exact checked_of_pass (messageChecks_pass (by simp [Nat.ne_of_gt some_, few]) inside)

theorem haloRecvStart_of_unreleased (link : (t.share g j).halo (fld e.w 34 2) = some l) (in_ : l.incoming = true)
    (peer : t.peerOf g j l.peer = some (pg, pj)) (other : (t.share pg pj).halo l.peerLink = some m) (sent : l.count < m.count) :
    haloRecvStart t g j e = .done ((t.modShare g j fun h =>
      { h with halos := Tbl.set none h.halos (fld e.w 34 2) (some { l with count := l.count + 1 }) }).syncAdd l.free 1) 0 := by
  simp only [haloRecvStart, link, in_, Bool.not_true, Bool.false_eq_true, if_false, peer, other, sent, if_true]

end

/-! ### Queue ports (R154, R209, R210) -/

section
variable {t : State} {g j rp k p : Nat} {e : QEntry} {x : Edge}

theorem qSendStart_of_port (port : t.portOf g j e Edge.producer = some (rp, k, x, p)) (some_ : 1 ≤ e.sv (fld e.w 24 5))
    (few : e.sv (fld e.w 24 5) ≤ x.slot) (unit : x.unit = 0 ∨ e.sv (fld e.w 24 5) % x.unit = 0)
    (inside : t.inShare g (e.av (fld e.w 29 4)) (e.sv (fld e.w 24 5)) = true) :
    qSendStart t g j e = .done ((t.each (List.range x.cnum) fun s i => match s.peerOf g j (x.cfirst + i) with
        | none => s
        | some (pg, pj) => (s.wakeCluster (pg / 64)).modShare pg pj (x.place p (Tbl.get 0 x.sent p)
            ((t.share g j).read (e.av (fld e.w 29 4)) (e.sv (fld e.w 24 5))))).setEdge rp k
      { x with sent := Tbl.set 0 x.sent p (Tbl.get 0 x.sent p + 1),
               lens := Tbl.set 0 x.lens (Tbl.get 0 x.sent p % x.rounds * x.pnum + p) (e.sv (fld e.w 24 5)) }) 0 := by
  simp only [qSendStart, port]
  refine checked_of_pass (messageChecks_pass ?_ inside)
  obtain whole | whole := unit <;> simp [Nat.ne_of_gt some_, few, whole]

theorem qRecvStart_of_port (port : t.portOf g j e Edge.consumer = some (rp, k, x, p)) :
    qRecvStart t g j e = .done ((t.modShare g j fun h =>
      (h.landA (fld e.w 29 4) (BitVec.ofNat 40 (x.roundBase (Tbl.get 0 x.recv p)))).landS (fld e.w 24 5) (BitVec.ofNat 32
        (((List.range x.pnum).map fun i => Tbl.get 0 x.lens (Tbl.get 0 x.recv p % x.rounds * x.pnum + i)).foldl (· + ·) 0))).setEdge
      rp k { x with recv := Tbl.set 0 x.recv p (Tbl.get 0 x.recv p + 1) }) 0 := by
  simp only [qRecvStart, port]

theorem qRelStart_of_port (port : t.portOf g j e Edge.consumer = some (rp, k, x, p))
    (taken : Tbl.get 0 x.rel p < Tbl.get 0 x.recv p) :
    qRelStart t g j e = .done (t.setEdge rp k { x with rel := Tbl.set 0 x.rel p (Tbl.get 0 x.rel p + 1) }) 0 := by
  simp only [qRelStart, port, taken, if_true]

end

theorem haloAndQueueWords : Claims.HaloAndQueueWords := by
  intro site w s e g j r
  refine ⟨fun l link => ⟨fun pg pj starts out some_ few inside peer => ?send, fun pg pj m starts in_ peer other sent => ?recv⟩,
    fun c ctx => ⟨fun rp k p x starts port some_ few unit inside => ?qsend,
      fun rp k i x port => ⟨fun starts => ?qrecv, fun starts taken => ?qrel⟩⟩⟩
  all_goals obtain rfl := starts.word
  case send =>
    have res := haloSendStart_of_peer (t := r) ((halo_turned s site 3 g j _).trans link) out some_ few (inShare_turned inside)
      ((peerOf_turned s site 3 g j l.peer).trans peer)
    rw [share_turned] at res
    rw [exec_haloSend_start, startEngine_of_done starts res]
    rfl
  case recv =>
    have res := haloRecvStart_of_unreleased (t := r) ((halo_turned s site 3 g j _).trans link) in_
      ((peerOf_turned s site 3 g j l.peer).trans peer) ((halo_turned s site 3 pg pj _).trans other) sent
    rw [exec_haloRecv_start, startEngine_of_done starts res]
    rfl
  case qsend =>
    have res := qSendStart_of_port (t := r) ((portOf_turned ctx e _).trans port) some_ few unit (inShare_turned inside)
    rw [share_turned] at res
    rw [exec_qSend_start, startEngine_of_done starts res]
    rfl
  case qrecv =>
    have res := qRecvStart_of_port (t := r) ((portOf_turned ctx e _).trans port)
    rw [exec_qRecv_start, startEngine_of_done starts res]
    rfl
  case qrel =>
    have res := qRelStart_of_port (t := r) ((portOf_turned ctx e _).trans port) taken
    rw [exec_qRel_start, startEngine_of_done starts res]

/-- Settles O26: each word's own conditions decide its effect on the unit, the peer's share or the edge that it names. -/
theorem requestAndQueueWords : Obligations.RequestAndQueueWords := ⟨requestWords, haloAndQueueWords⟩

end Sys2Proof.Machine
end

section
/-! PROOFS. The front end (R67 to R69, R133 to R144, R187, R188): what the dispatch of a word comes to, the control words,
the words of a fused command, the faults of dispatch, and how an engine word enters its queue; from these rules the
statements DispatchFaults, EngineWordsEnterQueues and ControlAndFuseWords. -/

namespace Sys2Proof.Machine

/-! ### The share as its dispatch leaves it -/

/-- h is the share x once a dispatch is charged to it: its accounts have moved on, and no fused command waits. -/
def Dispatched (x h : ShareSt) : Prop :=
  ∃ d b e, h = { x with tallyFe := x.tallyFe + 1, deficit := d, borrowed := b, debt := e, starving := false,
                        fused := x.fused.map fun f => { f with wait := none } }

theorem dispatched_at (s : State) (site : Site) : Dispatched (s.at site) ((s.dispatched site.core.val site.share.val).at site) :=
  (dispatched_spec s site).2

theorem Dispatched.pc {x h : ShareSt} (dis : Dispatched x h) : h.pc = x.pc := by
  obtain ⟨d, b, e, rfl⟩ := dis
  rfl

section
variable {s : State} {site : Site} {w : W64} {op : Nat} {f : ShareSt → FrontRes} {F : ShareSt → ShareSt}

/-- A front-end word that goes elsewhere leaves its share as its effect says. -/
theorem dispatchFront_of_go (issues : Issues s site w op) (res : ∀ h, Dispatched (s.at site) h → f h = .go (F h)) :
    ∃ h, Dispatched (s.at site) h ∧ OnlyShare s (s.dispatchFront site w op f) site ∧
      (s.dispatchFront site w op f).at site = F h := by
  obtain ⟨h, dis, then_⟩ := dispatchFront_spec s site w op f issues
  exact ⟨h, dis, then_ (F h) (.inr (res h dis))⟩

/-- A front-end word that goes on leaves its share as its effect and the step to the next word say. -/
theorem dispatchFront_of_ok (issues : Issues s site w op) (res : ∀ h, Dispatched (s.at site) h → f h = .ok (F h)) :
    ∃ h, Dispatched (s.at site) h ∧ OnlyShare s (s.dispatchFront site w op f) site ∧
      (s.dispatchFront site w op f).at site = (F h).advance (s.at site).pc := by
  obtain ⟨h, dis, then_⟩ := dispatchFront_spec s site w op f issues
  have pc : h.pc = (s.at site).pc := Dispatched.pc dis
  exact ⟨h, dis, pc ▸ then_ ((F h).advance h.pc) (.inl ⟨F h, res h dis, rfl⟩)⟩

/-- Where no open loop ends, such a word passes to the next one. -/
theorem dispatchFront_of_straight (issues : Issues s site w op) (straight : Straight s site)
    (res : ∀ h, Dispatched (s.at site) h → f h = .ok (F h)) (loops : ∀ h, (F h).loops = h.loops) :
    ∃ h, Dispatched (s.at site) h ∧ OnlyShare s (s.dispatchFront site w op f) site ∧
      (s.dispatchFront site w op f).at site = { F h with pc := (s.at site).pc + 1 } := by
  obtain ⟨h, dis, only, own⟩ := dispatchFront_of_ok issues res
  have same : (F h).loops = (s.at site).loops := by
    rw [loops]
    obtain ⟨d, b, e, rfl⟩ := dis
    rfl
  exact ⟨h, dis, only, own.trans (straight_advance s site straight _ same)⟩

theorem dispatchFront_of_not_dispatches (held : s.dispatches site w = false) : s.dispatchFront site w op f = s := by
  simp only [State.dispatchFront, held, Bool.false_and, Bool.false_eq_true, if_false]

end

/-! ### Faults of dispatch (R86, R139, R144, R160) -/

/-- Settles O17: the fault that each command records is that of the share as its dispatch leaves it. -/
theorem dispatchFaults : Obligations.DispatchFaults := by
  refine ⟨fun site w s dispatches bad => ?undecodable, fun site s can past chosen => ?end_⟩
  case undecodable =>
    have taken : (s.dispatches site w && !wordOk w.toNat) = true := by rw [dispatches, bad]; rfl
    have index := (dispatched_at s site).pc
    rw [← index]
    exact congrArg Host.Outcome.next (when_true taken)
  case end_ =>
    have taken : (s.dispatchable site.core.val site.share.val && (s.at site).next.isNone &&
        s.chooses site.core.val 4 (s.dispatchable site.core.val) == some site.share.val) = true := by
      rw [can, past, chosen, beq_self_eq_true]
      rfl
    exact congrArg Host.Outcome.next (when_true taken)

/-! ### Loops (R141, R142) -/

/-- Closing loops moves the word index and the loops, and may write an iteration register. -/
theorem closeLoops_frame (h : ShareSt) (i : Nat) (ls : List Loop) :
    ∃ S pc loops, h.closeLoops i ls = { h with s := S, pc := pc, loops := loops } := by
  induction ls with
  | nil => exact ⟨h.s, _, _, rfl⟩
  | cons l rest ih =>
    simp only [ShareSt.closeLoops]
    split
    · split
      · cases l.xs with
        | none => exact ⟨h.s, _, _, rfl⟩
        | some x => exact ⟨_, _, _, rfl⟩
      · exact ih
    · exact ⟨h.s, _, _, rfl⟩

/-- Where no open loop ends, dispatch passes to the next word. -/
theorem advance_of_straight {h : ShareSt} {i : Nat} (straight : ∀ l, h.loops.head? = some l → l.last ≠ i) :
    h.advance i = { h with pc := i + 1 } := by
  unfold ShareSt.advance
  cases loops : h.loops with
  | nil => rw [ShareSt.closeLoops, ← loops]
  | cons l rest =>
    rw [ShareSt.closeLoops, if_neg (straight l (by rw [loops]; rfl)), ← loops]

theorem openLoop_of_zero (h : ShareSt) (first last : Nat) (xs : Option Nat) (fused : Bool) :
    h.openLoop first last 0 xs fused = h.advance last := if_pos rfl

/-! ### The commands of these words -/

section
variable (site : Site) (w : W64) (s : State)

theorem exec_stop : exec (.stop site w) s = .next (s.dispatchFront site w 0x01 fun h => .ok { h with stopped := true }) := rfl
theorem exec_br : exec (.br site w) s = .next (s.dispatchFront site w 0x02 (brWord w.toNat)) := rfl
theorem exec_lpBegin : exec (.lpBegin site w) s = .next (s.dispatchFront site w 0x03 (lpBeginWord w.toNat)) := rfl
theorem exec_tkWait : exec (.tkWait site w) s = .next (s.dispatchFront site w 0x04 fun h => .ok h) := rfl
theorem exec_fuseBegin : exec (.fuseBegin site w) s = .next (s.dispatchFront site w 0xD0 (fuseBeginWord w.toNat)) := rfl
theorem exec_fuseEnd : exec (.fuseEnd site w) s = .next (s.dispatchFront site w 0xD1 (fuseEndWord w.toNat)) := rfl

end

/-! ### Control words (R69, R140 to R144) -/

/-- A tk.wait whose ticket is short is not dispatched. -/
theorem not_dispatches_of_short {s : State} {site : Site} {w : W64} (next : (s.at site).next = some w)
    (opcode : wOp w.toNat = 0x04) (on : (s.at site).guardOff w.toNat = false)
    (short : ticketReady (Tbl.get 0 (s.at site).k (fld w.toNat 47 4)) (((s.at site).sReg (fld w.toNat 42 5)).truncate 16) = false) :
    s.dispatches site w = false := by
  have held : (s.at site).heldBack w = true := by
    simp only [ShareSt.heldBack, opcode, on, short, beq_self_eq_true, Bool.not_false, Bool.and_self, Bool.or_true,
      Bool.true_or]
  have stays : s.dispatchable site.core.val site.share.val = false := by
    rw [State.dispatchable, show (s.share site.core.val site.share.val).next = some w from next]
    simp only [show (s.share site.core.val site.share.val).heldBack w = true from held, Bool.not_true, Bool.and_false]
  simp only [State.dispatches, stays, Bool.and_false, Bool.false_and]

/-- A branch inside the program is taken. -/
theorem brWord_of_inside {h : ShareSt} {w n : Nat} (target : (h.pc : Int) + signed 24 (fld w 0 24) = n)
    (inside : n < h.program.length) : brWord w h = .go (h.branch n) := by
  simp only [brWord, target, Int.natCast_nonneg, Int.ofNat_lt, inside, and_self, if_true, Int.toNat_natCast]

/-- lp.begin opens its loop when it is one of four at most and its body fits. -/
theorem lpBeginWord_of_fits {h : ShareSt} {w : W64} {n : Nat}
    (count : n = if w.getLsbD 50 then fld w.toNat 0 16 else (h.sReg (fld w.toNat 45 5)).toNat)
    (room : n ≠ 0 → h.loops.length < 4) (fits : h.bodyTooLong (h.pc + fld w.toNat 27 12) = false) :
    lpBeginWord w.toNat h = .go (h.openLoop (h.pc + 1) (h.pc + fld w.toNat 27 12) n
      (if w.getLsbD 39 then some (fld w.toNat 40 5) else none) false) := by
  have few : ¬ (n ≠ 0 ∧ 4 ≤ h.loops.length) := fun both => Nat.not_le.2 (room both.1) both.2
  simp only [lpBeginWord, bitOf_toNat, ← count, if_neg few, fits, Bool.false_eq_true, if_false]

/-- A loop that is opened for some iterations is the innermost, and its iteration register starts at 0. -/
theorem openLoop_of_some (h : ShareSt) (first last : Nat) {n : Nat} (some_ : n ≠ 0) (xs : Option Nat) (fused : Bool) :
    h.openLoop first last n xs fused = { h with
      loops := { first := first, last := last, left := n, iter := 0, xs := xs, fused := fused } :: h.loops
      pc := first
      s := xs.elim h.s fun x => Tbl.set 0 h.s x 0 } := by
  rw [ShareSt.openLoop, if_neg some_]
  cases xs <;> rfl

/-- The values that sys.rd reads, but for the time's low part (Table 7.6). -/
theorem sysRdWord_of_value {s : State} {site : Site} {w v : Nat} {h : ShareSt}
    (value : fld w 40 6 = 0 ∧ v = site.core.val ∨ fld w 40 6 = 1 ∧ v = site.core.val / 64 ∨
      fld w 40 6 = 2 ∧ v = site.share.val ∨ fld w 40 6 = 3 ∧ v = h.ctx.getD 0 ∨ fld w 40 6 = 4 ∧ v = h.logical ∨
      fld w 40 6 = 5 ∧ (s.clu (site.core.val / 64)).part = some v ∨
      fld w 40 6 = 7 ∧ (∃ x, h.ctx.bind s.ctx = some x ∧ v = x.timeHi.toNat) ∨ fld w 40 6 = 8 ∧ v = s.generation.toNat) :
    sysRdWord s site w h = .ok (h.setS (fld w 46 5) (BitVec.ofNat 32 v)) := by
  unfold sysRdWord
  obtain ⟨sel, rfl⟩ | ⟨sel, rfl⟩ | ⟨sel, rfl⟩ | ⟨sel, rfl⟩ | ⟨sel, rfl⟩ | ⟨sel, part⟩ | ⟨sel, x, ctx, rfl⟩ | ⟨sel, rfl⟩ := value
  case inr.inr.inr.inr.inr.inl => simp only [sel, part]
  case inr.inr.inr.inr.inr.inr.inl => simp only [sel, ctx]
  all_goals simp only [sel]

theorem exec_sysRd (site : Site) (w : W64) (s : State) : exec (.sysRd site w) s =
    .next (if s.latchesTime site w then match (s.at site).ctx with
        | some c => (s.dispatchFront site w 0x05 (sysRdWord s site w.toNat)).modCtx c fun x =>
          { x with timeHi := (s.tb.count >>> 32).truncate 16 }
        | none => s.dispatchFront site w 0x05 (sysRdWord s site w.toNat)
      else s.dispatchFront site w 0x05 (sysRdWord s site w.toNat)) := rfl

section
variable {s : State} {site : Site} {w : W64}

theorem exec_sysRd_of_other (other : fld w.toNat 40 6 ≠ 6) :
    exec (.sysRd site w) s = .next (s.dispatchFront site w 0x05 (sysRdWord s site w.toNat)) := by
  have not_ : s.latchesTime site w = false := by simp only [State.latchesTime, beq_false_of_ne other, Bool.and_false]
  rw [exec_sysRd, not_]
  rfl

theorem latchesTime_of_issues (issues : Issues s site w 0x05) (sel : fld w.toNat 40 6 = 6) :
    s.latchesTime site w = true := by
  obtain ⟨dispatches, opcode, ok, on, allowed⟩ := issues
  have unfused : (s.at site).fusedLoop.isNone = true := by
    rw [show fuseForbids 0x05 = true from rfl, Bool.and_true] at allowed
    rw [← Option.not_isSome, allowed]
    rfl
  have on' : (s.share site.core.val site.share.val).guardOff w.toNat = false := on
  have unfused' : (s.share site.core.val site.share.val).fusedLoop.isNone = true := unfused
  simp only [State.latchesTime, dispatches, opcode, ok, on', unfused', sel, beq_self_eq_true, Bool.not_false, Bool.and_self]

/-- Reading the time's low part latches the high part for the share's context, and for no other. -/
theorem exec_sysRd_of_time (issues : Issues s site w 0x05) (sel : fld w.toNat 40 6 = 6)
    (only : OnlyShare s (s.dispatchFront site w 0x05 (sysRdWord s site w.toNat)) site) :
    ∃ X, exec (.sysRd site w) s = .next { s.dispatchFront site w 0x05 (sysRdWord s site w.toNat) with ctxs := X } ∧
      (∀ c x, (s.at site).ctx = some c → s.ctx c = some x →
        Tbl.get none X c = some { x with timeHi := (s.tb.count >>> 32).truncate 16 }) ∧
      ∀ c, (s.at site).ctx ≠ some c → Tbl.get none X c = s.ctx c := by
  have same : (s.dispatchFront site w 0x05 (sysRdWord s site w.toNat)).ctxs = s.ctxs := by
    rw [← only.1]
  rw [exec_sysRd, latchesTime_of_issues issues sel, if_pos rfl]
  cases own : (s.at site).ctx with
  | none => exact ⟨_, rfl, nofun, fun c _ => congrArg (Tbl.get none · c) same⟩
  | some c =>
    refine ⟨_, rfl, ?_, ?_⟩
    · rintro _ x ⟨⟩ ctx
      rw [Tbl.get_set_self, State.ctx, same, show Tbl.get none s.ctxs c = some x from ctx]
      rfl
    · intro c' other
      rw [Tbl.get_set_ne _ _ _ fun eq => other (congrArg some eq.symm), same]
      rfl

end

theorem onlyShare_ctxs {s t : State} {site : Site} (only : OnlyShare s t site) (X : Tbl (Option Ctx)) :
    OnlyShare { s with ctxs := X } { t with ctxs := X } site :=
  ⟨by rw [← only.1], only.2.1, only.2.2⟩

theorem controlWords : Claims.ControlWords := by
  refine ⟨?pass, ?held, ?stop, ?branch, ?loop, ?skip, ?sysRd, ?time⟩
  case pass =>
    intro site w s op c issues straight word
    have stays (h : ShareSt) (hs : h.s = (s.at site).s) (ha : h.a = (s.at site).a) (hp : h.p = (s.at site).p) :
        FrontRes.ok h = .ok { h with s := (s.at site).s, a := (s.at site).a, p := (s.at site).p } := by rw [← hs, ← ha, ← hp]
    obtain ⟨rfl, rfl⟩ | ⟨rfl, rfl⟩ := word
    · exact ⟨_, rfl, dispatchFront_sets s site w _ _ issues straight _ _ _ fun h hs ha hp _ _ => stays h hs ha hp⟩
    · exact ⟨_, rfl, dispatchFront_sets s site w _ _ issues straight _ _ _ fun h hs ha hp _ _ => stays h hs ha hp⟩
  case held =>
    intro site w s next opcode on short
    rw [exec_tkWait, dispatchFront_of_not_dispatches (not_dispatches_of_short next opcode on short)]
  case stop =>
    intro site w s issues
    obtain ⟨h, ⟨d, b, e, rfl⟩, only, own⟩ := dispatchFront_of_ok issues (F := fun h => { h with stopped := true }) fun h _ => rfl
    obtain ⟨S, pc, loops, closed⟩ := closeLoops_frame _ (s.at site).pc _
    refine ⟨_, exec_stop site w s, only, ?_⟩
    rw [own, ShareSt.advance, closed]
    exact ⟨rfl, rfl⟩
  case branch =>
    intro site w s n issues target inside
    obtain ⟨h, ⟨d, b, e, rfl⟩, only, own⟩ := dispatchFront_of_go issues (F := fun h => h.branch n) fun h dis => by
      obtain ⟨d, b, e, rfl⟩ := dis
      exact brWord_of_inside target inside
    refine ⟨_, exec_br site w s, only, ?_⟩
    rw [own]
    refine ⟨rfl, rfl, rfl, rfl, rfl, ?_⟩
    simp [ShareSt.branch]
  case loop =>
    intro site w s n issues count some_ room fits
    obtain ⟨h, ⟨d, b, e, rfl⟩, only, own⟩ := dispatchFront_of_go issues (f := lpBeginWord w.toNat)
      (F := fun h => h.openLoop (h.pc + 1) (h.pc + fld w.toNat 27 12) n
        (if w.getLsbD 39 then some (fld w.toNat 40 5) else none) false) fun h dis => by
        obtain ⟨d, b, e, rfl⟩ := dis
        exact lpBeginWord_of_fits count (fun _ => room) fits
    refine ⟨_, exec_lpBegin site w s, only, ?_⟩
    rw [own, openLoop_of_some _ _ _ some_]
    refine ⟨rfl, rfl, rfl, ?_⟩
    cases w.getLsbD 39 <;> rfl
  case skip =>
    intro site w s issues count fits inner
    obtain ⟨h, dis, only, own⟩ := dispatchFront_of_go issues (f := lpBeginWord w.toNat)
      (F := fun h => h.openLoop (h.pc + 1) (h.pc + fld w.toNat 27 12) 0
        (if w.getLsbD 39 then some (fld w.toNat 40 5) else none) false) fun h dis => by
        obtain ⟨d, b, e, rfl⟩ := dis
        exact lpBeginWord_of_fits count.symm (fun some_ => absurd rfl some_) fits
    refine ⟨_, exec_lpBegin site w s, only, ?_⟩
    have inner' : ∀ l, h.loops.head? = some l → l.last ≠ h.pc + fld w.toNat 27 12 := by
      obtain ⟨d, b, e, rfl⟩ := dis
      exact inner
    rw [own, openLoop_of_zero, advance_of_straight inner']
    obtain ⟨d, b, e, rfl⟩ := dis
    exact ⟨rfl, rfl, rfl, rfl⟩
  case sysRd =>
    intro site w s v issues straight n k value
    have other : fld w.toNat 40 6 ≠ 6 := fun six => by simp [n, six] at value
    refine ⟨_, exec_sysRd_of_other other, dispatchFront_sets s site w _ _ issues straight _ _ _ fun h hs ha hp hl hc => ?_⟩
    rw [sysRdWord_of_value (by rw [hl, hc]; exact value), ← hs, ← ha, ← hp]
    rfl
  case time =>
    intro site w s issues straight sel
    obtain ⟨only, frame, pc, -, -, -, -, -, low, -, -⟩ := dispatchFront_sets s site w _ (sysRdWord s site w.toNat) issues
      straight (Tbl.set 0 (s.at site).s (fld w.toNat 46 5) (s.tb.count.truncate 32)) (s.at site).a (s.at site).p
      fun h hs ha hp _ _ => by
        rw [← hs, ← ha, ← hp]
        simp only [sysRdWord, sel]
        rfl
    obtain ⟨X, run, own, others⟩ := exec_sysRd_of_time issues sel only
    exact ⟨_, run, onlyShare_ctxs only X, frame, low, own, others, pc⟩

/-! ### Fused commands (R187, R188) -/

/-- h with the fused command open that the word w begins, over `body`, for n iterations. -/
def ShareSt.beginFused (h : ShareSt) (w : W64) (body : List W64) (n : Nat) : ShareSt :=
  let engines := (List.range (fld w.toNat 34 2 + 1)).map fun i => fld w.toNat (26 + 2 * i) 2
  { h with
    fused := h.fused ++ [({ id := h.fuseNext, engines := engines, iters := n,
                            words := engines.map fun e => ((bodyQueues body).filter (· == e)).length } : Fused)]
    fuseNext := h.fuseNext + 1 }.openLoop (h.pc + 1) (h.pc + body.length) n
      (if w.getLsbD 2 then some (fld w.toNat 3 5) else none) true

/-- fuse.begin opens its command when its body fits and holds its stages, and its first word waits for no ticket. -/
theorem fuseBeginWord_of_fits {h : ShareSt} {w : W64} {body : List W64} {n : Nat} (unwaited : wWE w.toNat = false)
    (found : fuseBody (h.program.drop (h.pc + 1)) = some body)
    (count : n = if w.getLsbD 25 then fld w.toNat 8 12 else (h.sReg (fld w.toNat 20 5)).toNat)
    (room : h.loops.length < 4) (fits : h.bodyTooLong (h.pc + body.length) = false)
    (stages : stagesOk ((List.range (fld w.toNat 34 2 + 1)).map fun i => fld w.toNat (26 + 2 * i) 2) (bodyQueues body) =
      true) : fuseBeginWord w.toNat h = .go (h.beginFused w body n) := by
  have few : ¬ (n ≠ 0 ∧ 4 ≤ h.loops.length) := fun both => Nat.not_le.2 room both.2
  simp only [fuseBeginWord, bitOf_toNat, ← count, found, if_neg few, fits, stages, unwaited, Bool.not_true,
    Bool.false_eq_true, if_false, ShareSt.beginFused]

/-- The open fused command of a share is the same after a dispatch, but that it waits no more. -/
theorem Dispatched.openFused {x h : ShareSt} (dis : Dispatched x h) :
    h.fused.find? (fun f => !f.closed) = (x.fused.find? fun f => !f.closed).map fun f => { f with wait := none } := by
  obtain ⟨d, b, e, rfl⟩ := dis
  exact List.find?_map

theorem fuseEndWord_of_none {w k : Nat} {h : ShareSt} (post : wPost w = some k)
    (unopened : h.fused.find? (fun f => !f.closed) = none) : fuseEndWord w h = .ok (h.post k) := by
  rw [fuseEndWord, unopened]
  simp only [post]

/-- fuse.end closes a command with unfinished words, which waits for them. -/
theorem fuseEndWord_of_unfinished {w : Nat} {h : ShareSt} {f : Fused}
    (opened : h.fused.find? (fun f => !f.closed) = some f) (unfinished : { f with closed := true }.complete = false) :
    fuseEndWord w h = .ok { h with
      fused := h.fused.map fun x => if x.id = f.id then { f with closed := true, post := wPost w } else x } := by
  rw [fuseEndWord, opened]
  have still : { f with closed := true, post := wPost w }.complete = false := unfinished
  simp only [ShareSt.setFused, still, Bool.false_eq_true, if_false]

/-- fuse.end ends a command whose words have all finished, and its ticket posts. -/
theorem fuseEndWord_of_finished {w k : Nat} {h : ShareSt} {f : Fused} (post : wPost w = some k)
    (opened : h.fused.find? (fun f => !f.closed) = some f) (finished : { f with closed := true }.complete = true) :
    fuseEndWord w h = .ok ({ h with fused := h.fused.filter (·.id != f.id) }.post k) := by
  have still : { f with closed := true, post := some k }.complete = true := finished
  simp only [fuseEndWord, opened, post, ShareSt.setFused, still, if_true]

theorem fuseWords : Claims.FuseWords := by
  refine ⟨?begin_, ?unfinished, ?finished⟩
  case begin_ =>
    intro site w s body n issues unwaited found count some_ room fits engines stages
    obtain ⟨h, ⟨d, b, e, rfl⟩, only, own⟩ := dispatchFront_of_go issues (f := fuseBeginWord w.toNat)
      (F := fun h => h.beginFused w body n) fun h dis => by
        obtain ⟨d, b, e, rfl⟩ := dis
        refine fuseBeginWord_of_fits unwaited ?_ ?_ ?_ ?_ stages
        exacts [found, count, room, fits]
    refine ⟨_, exec_fuseBegin site w s, only, ?_⟩
    rw [own, ShareSt.beginFused, openLoop_of_some _ _ _ some_]
    exact ⟨rfl, rfl, rfl, rfl, rfl⟩
  case unfinished =>
    intro site w s f issues straight opened unfinished
    obtain ⟨h, dis, only, own⟩ := dispatchFront_of_straight issues straight
      (F := fun h => { h with fused := h.fused.map fun x =>
        if x.id = f.id then { f with wait := none, closed := true, post := wPost w.toNat } else x })
      (fun h dis => fuseEndWord_of_unfinished (f := { f with wait := none }) (by rw [dis.openFused, opened]; rfl) unfinished)
      fun h => rfl
    refine ⟨_, exec_fuseEnd site w s, only, ?_⟩
    obtain ⟨d, b, e, rfl⟩ := dis
    rw [own]
    refine ⟨rfl, rfl, ?_⟩
    simp only [List.map_map, Function.comp_def]
  case finished =>
    intro site w s k rest issues straight post cases_
    have res (h : ShareSt) (dis : Dispatched (s.at site) h) : fuseEndWord w.toNat h =
        .ok ({ h with fused := rest.map fun f : Fused => { f with wait := none } }.post k) := by
      obtain ⟨unopened, rfl⟩ | ⟨f, opened, finished, rfl⟩ := cases_
      · rw [fuseEndWord_of_none post (by rw [dis.openFused, unopened]; rfl)]
        obtain ⟨d, b, e, rfl⟩ := dis
        rfl
      · rw [fuseEndWord_of_finished (f := { f with wait := none }) post (by rw [dis.openFused, opened]; rfl) finished]
        obtain ⟨d, b, e, rfl⟩ := dis
        simp only [List.filter_map, Function.comp_def]
    obtain ⟨h, ⟨d, b, e, rfl⟩, only, own⟩ := dispatchFront_of_straight issues straight
      (F := fun h => { h with fused := rest.map fun f : Fused => { f with wait := none } }.post k) res fun h => rfl
    refine ⟨_, exec_fuseEnd site w s, only, ?_⟩
    rw [own]
    exact ⟨rfl, rfl, rfl, rfl⟩

/-- Settles O15: the control words and the words of a fused command, each from what its dispatch leaves. -/
theorem controlAndFuseWords : Obligations.ControlAndFuseWords := ⟨controlWords, fuseWords⟩

/-! ### Engine words enter their queues (R67, R68, R134, R136, R254) -/

/-- The dispatch of an engine word is `State.dispatchEngine`, whichever the opcode. -/
theorem exec_engineInstr {op : Nat} {site : Site} {w : W64} {c : Instr} (word : engineInstr op site .dispatch w = some c)
    (s : State) : exec c s = .next (s.dispatchEngine site w op) := by
  unfold engineInstr at word
  split at word <;> cases word <;> rfl

/-- The share h once the word w, at word index i, has entered queue q outside any fused command. -/
def ShareSt.entering (h : ShareSt) (q : Nat) (w : W64) : ShareSt :=
  let pend := if h.guardOff w.toNat then ([], []) else pendNames w.toNat
  { h with
    queues := Tbl.set [] h.queues q (h.queue q ++
      [{ word := w, off := h.guardOff w.toNat, index := h.pc, s := h.s, a := h.a }])
    pendS := h.pendS ++ pend.1
    pendA := h.pendA ++ pend.2 }

/-- The destinations of a word that is not guarded off become pending. -/
theorem entering_pend {h : ShareSt} {q : Nat} {w : W64} (on : h.guardOff w.toNat = false) :
    (h.entering q w).pendS = h.pendS ++ (pendNames w.toNat).1 ∧
      (h.entering q w).pendA = h.pendA ++ (pendNames w.toNat).2 := by
  rw [ShareSt.entering, on]
  exact ⟨rfl, rfl⟩

/-- Outside a fused command a word belongs to no stage. -/
theorem stageOf_of_unfused {h : ShareSt} (unfused : h.fusedLoop = none) (q : Nat) : h.stageOf q = none := by
  rw [ShareSt.stageOf, unfused]
  cases h.fused.getLast? <;> rfl

/-- A word that enters an empty queue is its new head; otherwise only its share changes. -/
theorem dispatchEngine_of_ok {s : State} {site : Site} {w : W64} {op q : Nat} (queue : queueOf op = some q)
    (dispatches : s.dispatches site w = true) (opcode : wOp w.toNat = op) (ok : wordOk w.toNat = true)
    (unfused : (s.at site).fusedLoop = none) (straight : Straight s site) :
    ∃ u h, OnlyShare s u site ∧ Dispatched (s.at site) h ∧
      u.at site = { h.entering q w with pc := (s.at site).pc + 1 } ∧
      s.dispatchEngine site w op =
        if (s.at site).queue q = [] then u.newHead site.core.val q site.share.val else u := by
  obtain ⟨only, dis⟩ := dispatched_spec s site
  have own : (s.dispatched site.core.val site.share.val).share site.core.val site.share.val =
    (s.dispatched site.core.val site.share.val).at site := rfl
  generalize (s.dispatched site.core.val site.share.val).at site = h at own dis
  refine ⟨(s.dispatched site.core.val site.share.val).setShare site.core.val site.share.val
    { h.entering q w with pc := (s.at site).pc + 1 }, h, only.trans (onlyShare_setShare _ site _), dis,
    share_setShare_self _ _ _ _, ?_⟩
  obtain ⟨d, b, e, eq⟩ := dis
  have pc : h.pc = (s.at site).pc := by rw [eq]
  have waiting : h.queue q = (s.at site).queue q := by rw [eq]; rfl
  have unfused' : h.fusedLoop = none := by rw [eq]; exact unfused
  have adv : (h.entering q w).advance h.pc = { h.entering q w with pc := (s.at site).pc + 1 } := by
    rw [pc]
    exact straight_advance s site straight _ (by rw [eq]; rfl)
  simp only [State.dispatchEngine, dispatches, opcode, beq_self_eq_true, Bool.and_self, if_true, own, ok, Bool.not_true,
    Bool.false_eq_true, if_false, unfused', Option.isSome_none, Bool.false_and, queue, stageOf_of_unfused unfused']
  rw [← adv, ← waiting]
  simp only [List.isEmpty_iff, ShareSt.entering]

/-- A state whose cores read as those of u differs from u in no share. -/
theorem onlyShare_of_sameCores {u v : State} {site : Site} (rest : { u with cores := v.cores } = v)
    (same : ∀ g, v.core g = u.core g) : OnlyShare u v site :=
  ⟨rest, fun g => by rw [same], fun g j _ => by rw [State.share, State.share, same]⟩

theorem core_newHead_self (u : State) (g q j : Nat) : (u.newHead g q j).core g =
    { u.core g with heads := (u.core g).heads.filter (· != (q, j)) ++ [(q, j)] } := core_setCore_self u g _

theorem core_newHead_ne (u : State) {g a : Nat} (q j : Nat) (other : a ≠ g) : (u.newHead g q j).core a = u.core a :=
  core_setCore_ne _ _ _ _ other

theorem share_newHead (u : State) (g q j a b : Nat) : (u.newHead g q j).share a b = u.share a b := by
  rw [State.share, State.share]
  by_cases own : a = g
  · subst own
    rw [core_newHead_self]
  · rw [core_newHead_ne _ _ _ own]

/-- Settles O18: the share's word enters its queue as `dispatchEngine_of_ok` says, and only the core's heads follow. -/
theorem engineWordsEnterQueues : Obligations.EngineWordsEnterQueues := by
  intro op q site w s c word queue dispatches opcode ok unfused straight
  obtain ⟨u, h, only, ⟨d, b, e, rfl⟩, own, run⟩ := dispatchEngine_of_ok queue dispatches opcode ok unfused straight
  have heads : (u.core site.core.val).heads = (s.core site.core.val).heads := by rw [← only.2.1 site.core.val]
  have at_ : (s.dispatchEngine site w op).at site = u.at site := by
    rw [run]
    split
    · exact share_newHead u _ _ _ _ _
    · rfl
  refine ⟨_, exec_engineInstr word s, only.trans (onlyShare_of_sameCores ?rest ?same), ?heads, ?own⟩
  case rest =>
    rw [run]
    split <;> rfl
  case same =>
    intro g
    rw [State.modCore, run, ← heads]
    by_cases own : g = site.core.val
    · subst own
      rw [core_setCore_self]
      split
      · rw [core_newHead_self]
      · rfl
    · rw [core_setCore_ne _ _ _ _ own]
      split
      · exact core_newHead_ne _ _ _ own
      · rfl
  case heads =>
    rw [run]
    split
    · rw [core_newHead_self, ← heads]
    · exact heads
  case own =>
    rw [at_, own]
    refine ⟨Tbl.get_set_self _ _ _ _, fun i other => Tbl.get_set_ne _ _ _ other, rfl, fun on => ?_, rfl, rfl, rfl, rfl,
      rfl, rfl, rfl, rfl⟩
    exact entering_pend (q := q) on

end Sys2Proof.Machine
end

section
/-! PROOFS. Memory without uncorrectable lines (R91, R98, R99): a read through the home caches reports no line, and a write
refuses none and changes no byte but those it names. -/

namespace Sys2Proof.Machine

/-! ### Where the bytes of a line lie (R88, R91) -/

/-- A granule of 256 bytes is placed as a whole: within it, the channel offset follows the address. -/
theorem place_add {p : Part} {A i : Nat} (granule : A % 256 + i < 256) :
    p.place (A + i) = ((p.place A).1, (p.place A).2 + i) := by
  have below : ∀ M, 256 ∣ M → (A + i - M) / 256 = (A - M) / 256 := by
    rintro _ ⟨m, rfl⟩
    omega
  have offset : (A + i) % 256 = A % 256 + i := by omega
  have channel : 256 ∣ p.spreadCh := by
    rw [Part.spreadCh, Part.localBytes, show chanBytes = 256 * 0x480000 from rfl]
    exact Nat.dvd_sub (Nat.dvd_mul_right _ _) (Dvd.dvd.mul_left (by decide) _)
  have spread : 256 ∣ p.spreadEnd := Dvd.dvd.mul_left channel _
  have window : 8 * p.localBytes = 256 * (p.local_ * 0x200000) := by
    rw [Part.localBytes]
    omega
  have base (k : Nat) : 256 ∣ p.windowBase k := by
    rw [Part.windowBase, window]
    exact Nat.dvd_add spread (Dvd.dvd.mul_left (Nat.dvd_mul_right _ _) _)
  have side : (A + i < p.spreadEnd) ↔ A < p.spreadEnd := by
    obtain ⟨m, eq⟩ := spread
    omega
  have rank : (A + i - p.spreadEnd) / (8 * p.localBytes) = (A - p.spreadEnd) / (8 * p.localBytes) := by
    rw [window, ← Nat.div_div_eq_div_mul, below _ spread, Nat.div_div_eq_div_mul]
  have quotient : (A + i) / 256 = A / 256 := by omega
  simp only [Part.place, side, rank, below _ (base _), offset, quotient]
  split <;> simp only [Nat.add_assoc]

theorem address_add {x y : Nat × Nat} {i : Nat} (moved : y = (x.1, x.2 + i)) :
    y.1 * 2 ^ 31 + y.2 = x.1 * 2 ^ 31 + x.2 + i := by
  subst moved
  exact (Nat.add_assoc _ _ _).symm

theorem phys_add {p : Part} {A i : Nat} (granule : A % 256 + i < 256) : p.phys (A + i) = p.phys A + i := by
  rw [Part.phys, Part.phys]
  exact address_add (place_add granule)

/-! ### Reads -/

theorem OnlyCaches.badLines {s t : State} (only : OnlyCaches s t) : t.badLines = s.badLines := by rw [only.frame]

theorem readLine_of_sound {s : State} (sound : s.badLines = []) (p : Part) (h : Hint) (A : Nat) :
    (s.readLine p h A).2 = false := by
  have sound' := ((onlyCaches_wakeCluster s ((p.place A).1 / 8)).trans
    (onlyCaches_transfer _ (p.place A).1 (cluBase ((p.place A).1 / 8) + 0x820) (chanReg (p.place A).1 0x900))).badLines
  rw [sound] at sound'
  simp only [State.readLine, sound', List.contains_nil, Bool.false_eq_true, if_false]
  split
  · rfl
  · cases h <;> rfl

theorem readPart_of_sound {s : State} (sound : s.badLines = []) (p : Part) (h : Hint) (A n : Nat) :
    (s.readPart p h A n).2.2 = [] :=
  (List.foldlRecOn (motive := fun acc : State × List Nat => acc.1.badLines = [] ∧ acc.2 = []) (linesOf A n) _
    ⟨sound, rfl⟩ fun acc before l _ =>
      ⟨(onlyCaches_readLine acc.1 p h (l * 128)).badLines.trans before.1, by
        simp only [readLine_of_sound before.1, before.2, Bool.false_eq_true, if_false]⟩).2

/-! ### Writes -/

/-- The rest of a write within a line, once its bytes are in memory: what the line's home cache and channel do. -/
def State.settleLine (s : State) (ch line : Nat) (h : Hint) (full : Bool) : State :=
  if s.cached ch line then s.hitLine ch line true
  else
    let s := s.bumpWide (cluBase (ch / 8) + 0x820) 1
    if h = .noAllocate ∨ s.waysOf (ch / 8) = 0 then (s.exitRefresh ch).bumpWide (chanReg ch 0x908) 1
    else (if full then s else (s.exitRefresh ch).bumpWide (chanReg ch 0x900) 1).allocLine ch line true (h = .normal)

theorem onlyCaches_settleLine (s : State) (ch line : Nat) (h : Hint) (full : Bool) :
    OnlyCaches s (s.settleLine ch line h full) := by
  have counted := onlyCaches_bumpWide s (cluBase (ch / 8) + 0x820) 1
  have transferred (a : Nat) := counted.trans ((onlyCaches_exitRefresh _ ch).trans (onlyCaches_bumpWide _ a 1))
  simp only [State.settleLine]
  split
  · exact onlyCaches_hitLine s ch line true
  · split
    · exact transferred _
    · refine OnlyCaches.trans ?_ (onlyCaches_allocLine _ _ _ _ _)
      split
      · exact counted
      · exact transferred _

/-- A write within a line puts its bytes there, and is not refused. -/
theorem writeInLine_of_sound {s : State} (sound : s.badLines = []) (p : Part) (h : Hint) (A : Nat) (bs : Bytes) :
    (s.writeInLine p h A bs).1.mem = writeBytes s.mem (p.phys A) bs ∧ (s.writeInLine p h A bs).1.badLines = [] ∧
      (s.writeInLine p h A bs).2 = false := by
  have woken := onlyCaches_wakeCluster s ((p.place A).1 / 8)
  have written : ∃ (u : State) (line : Nat), s.writeInLine p h A bs = (u.settleLine (p.place A).1 line h (bs.length == 128), false) ∧
      u.badLines = [] ∧ u.mem = writeBytes s.mem (p.phys A) bs := by
    refine ⟨{ s.wakeCluster ((p.place A).1 / 8) with
      mem := writeBytes (s.wakeCluster ((p.place A).1 / 8)).mem ((p.place A).1 * 2 ^ 31 + (p.place A).2) bs
      badLines := (s.wakeCluster ((p.place A).1 / 8)).badLines.filter
        (· != ((p.place A).1 * 2 ^ 31 + (p.place A).2 / 128 * 128) / 128) }, (p.place A).2 / 128, ?_, ?_, ?_⟩
    · simp only [State.writeInLine, sound, List.contains_nil, Bool.false_and, Bool.false_eq_true, if_false,
        State.settleLine]
      split
      · rfl
      · split <;> rfl
    · exact congrArg _ (woken.badLines.trans sound)
    · rw [woken.mem]
      rfl
  obtain ⟨u, line, run, clean, bytes⟩ := written
  have only := onlyCaches_settleLine u (p.place A).1 line h (bs.length == 128)
  rw [run]
  exact ⟨only.mem.trans bytes, only.badLines.trans clean, rfl⟩

/-- A write refuses no line, and changes no byte but those it names. -/
theorem writeLines_of_sound (p : Part) (h : Hint) (fuel : Nat) {s : State} (A : Nat) (bs : Bytes)
    (sound : s.badLines = []) :
    (s.writeLines p h fuel A bs).2 = [] ∧
      ∀ a, (∀ k, k < bs.length → p.phys (A + k) ≠ a) → (s.writeLines p h fuel A bs).1.byteAt a = s.byteAt a := by
  induction fuel generalizing s A bs with
  | zero => exact ⟨rfl, fun _ _ => rfl⟩
  | succ fuel ih =>
    rw [State.writeLines]
    split
    · exact ⟨rfl, fun _ _ => rfl⟩
    · obtain ⟨bytes, clean, kept⟩ := writeInLine_of_sound sound p h A (bs.take (128 - A % 128))
      obtain ⟨rest, others⟩ := ih (A + (128 - A % 128)) (bs.drop (128 - A % 128)) clean
      refine ⟨by simp only [kept, Bool.false_eq_true, if_false]; exact rest, fun a out => ?_⟩
      have later := others a fun k below => by
        rw [List.length_drop] at below
        rw [Nat.add_assoc]
        exact out _ (by omega)
      refine later.trans ?_
      rw [State.byteAt, bytes, State.byteAt]
      refine get_writeBytes_of_outside ?_
      rw [List.length_take]
      by_contra inside
      refine out (a - p.phys A) (by omega) ?_
      rw [phys_add (by omega)]
      omega

theorem writePart_of_sound {s : State} (sound : s.badLines = []) (p : Part) (h : Hint) (A : Nat) (bs : Bytes) :
    (s.writePart p h A bs).2 = [] ∧
      ∀ a, (∀ k, k < bs.length → p.phys (A + k) ≠ a) → (s.writePart p h A bs).1.byteAt a = s.byteAt a :=
  writeLines_of_sound p h _ A bs sound

end Sys2Proof.Machine
end

section
/-! PROOFS. The narrow engine (R82 to R85, R245): what its reads and writes of operands leave, what the fields it accepts say
of a request, each way in which the head of its queue is served, and from these rules the statement NarrowRequests. -/

namespace Sys2Proof.Machine

/-! ### Operands (R85) -/

theorem onlyCaches_readLayout (s : State) (r : NarReq) (pid : Nat) (p : Part) : OnlyCaches s (s.readLayout r pid p) := by
  simp only [State.readLayout]
  split
  · exact onlyCaches_readPart s p .normal _ 24
  · exact .refl s

theorem onlyCaches_narRead (s : State) (r : NarReq) (p : Part) (space : Bool) (a n : Nat) :
    OnlyCaches s (s.narRead r p space a n).1 := by
  cases space
  · exact .refl s
  · exact onlyCaches_readPart s p .normal a n

/-- No line of an operand fails where memory has no uncorrectable line. -/
theorem narRead_of_sound {s : State} (sound : s.badLines = []) (r : NarReq) (p : Part) (space : Bool) (a n : Nat) :
    (s.narRead r p space a n).2.2 = false := by
  cases space
  · rfl
  · simp only [State.narRead, if_true, readPart_of_sound sound, List.isEmpty_nil, Bool.not_true]

/-- DST is written whole where memory has no uncorrectable line, and no other byte of memory changes. -/
theorem narWrite_of_sound {s : State} (sound : s.badLines = []) (r : NarReq) (p : Part) (bs : Bytes) :
    (s.narWrite r p bs).2 = false ∧
      ∀ a, (∀ k, k < bs.length → r.space 1 = true → p.phys (r.dst + k) ≠ a) →
        (s.narWrite r p bs).1.byteAt a = s.byteAt a := by
  rw [State.narWrite]
  cases space : r.space 1 with
  | false => exact ⟨rfl, fun _ _ => rfl⟩
  | true =>
    obtain ⟨kept, others⟩ := writePart_of_sound sound p .normal r.dst bs
    exact ⟨by simp only [if_true, kept, List.isEmpty_nil, Bool.not_true], fun a out => others a fun k below => out k below rfl⟩

/-! ### The fields of a request (Table 4.5) -/

/-- The fields that the narrow engine accepts: an OP of its table, and no RING for ANALYSIS and CONV1D. -/
theorem op_of_shapeOk {r : NarReq} (ok : r.shapeOk = true) :
    r.op < 4 ∧ (r.op = 1 → r.ring = false) ∧ (r.op = 2 → r.ring = false) := by
  simp only [NarReq.shapeOk, Bool.and_eq_true] at ok
  obtain ⟨⟨⟨⟨⟨⟨⟨⟨accepted, -⟩, -⟩, -⟩, -⟩, -⟩, -⟩, -⟩, -⟩ := ok
  split at accepted <;> simp_all

theorem shapeOk_of_narCauses {s : State} {r : NarReq} {pid : Nat} {p : Part} (none_ : s.narCauses r pid p = []) :
    r.shapeOk = true := by
  simp only [State.narCauses, causes, List.map_eq_nil_iff, List.filter_eq_nil_iff] at none_
  have ok := none_ _ (List.mem_cons_of_mem _ List.mem_cons_self)
  simp only [Bool.not_eq_true, Bool.not_eq_false', Bool.and_eq_true] at ok
  exact ok.1.1.1.1

/-! ### Service of the head of the queue (R82, R84) -/

/-- The narrow engine of cluster n serves its head r for a command of this OP: p is its partition i, and t the state with the
layout read that r needs. -/
structure NarServes (s : State) (n op : Nat) (r : NarReq) (i : Nat) (p : Part) (t : State) : Prop where
  head : ∃ rest, (s.clu n).narQ = r :: rest
  up : s.narUp n = true
  served : r.op = op ∨ 4 ≤ r.op
  part : (s.clu n).part.getD 0 = i ∧ s.part i = p
  layout : s.readLayout r i p = t

section
variable {s t : State} {n op i : Nat} {r : NarReq} {p : Part}

theorem serveNarrow_of_empty (empty : (s.clu n).narQ = []) : s.serveNarrow n op [] = s := by
  rw [State.serveNarrow, empty]

theorem serveNarrow_of_not_served {rest : List NarReq} (head : (s.clu n).narQ = r :: rest)
    (not_ : s.narUp n = false ∨ (r.op ≠ op ∧ r.op < 4)) : s.serveNarrow n op [] = s := by
  have held : (!s.narUp n || !(r.op == op || 4 ≤ r.op)) = true := by
    obtain down | ⟨other, named⟩ := not_
    · simp [down]
    · simp [other, named]
  simp only [State.serveNarrow, head, held, if_true]

namespace NarServes

theorem free (serves : NarServes s n op r i p t) : (!s.narUp n || !(r.op == op || 4 ≤ r.op)) = false := by
  obtain same | outside := serves.served
  · simp [serves.up, same]
  · simp [serves.up, outside]

theorem serveNarrow_of_cause (serves : NarServes s n op r i p t) {c : Nat} (found : t.narCauses r i p = [c]) :
    s.serveNarrow n op [] = (t.narPop n).narFault r c := by
  obtain ⟨rest, head⟩ := serves.head
  obtain ⟨rfl, part⟩ := serves.part
  simp only [State.serveNarrow, head, serves.free, State.lineEvents, List.foldl_nil, part, serves.layout, found,
    Bool.false_eq_true, if_false]

/-- Of two causes the fault names one, by a free choice. -/
theorem serveNarrow_of_causes (serves : NarServes s n op r i p t) {c1 c2 : Nat} (found : t.narCauses r i p = [c1, c2]) :
    ∃ c, (c = c1 ∨ c = c2) ∧ s.serveNarrow n op [] = (t.draw.2.narPop n).narFault r c := by
  obtain ⟨rest, head⟩ := serves.head
  obtain ⟨rfl, part⟩ := serves.part
  have chosen : [c1, c2].getD (t.draw.1.toNat % 2) c1 = c1 ∨ [c1, c2].getD (t.draw.1.toNat % 2) c1 = c2 := by
    obtain even | odd := Nat.mod_two_eq_zero_or_one t.draw.1.toNat
    · exact .inl (by rw [even]; rfl)
    · exact .inr (by rw [odd]; rfl)
  refine ⟨_, chosen, ?_⟩
  simp only [State.serveNarrow, head, serves.free, State.lineEvents, List.foldl_nil, part, serves.layout, found,
    Bool.false_eq_true, if_false]
  rfl

/-- A request that names its stream ends at once when the stream has nothing to commit, waits while a step is pending,
and otherwise does its work. -/
theorem serveNarrow_of_named (serves : NarServes s n op r i p t) (sound : t.narCauses r i p = []) (named : r.named = true) :
    s.serveNarrow n op [] =
      if !s.committable r.stream then (t.narPop n).narDone n r
      else if (s.entry r.stream).pend.isSome then s
      else if op = 0 then ((t.synthRun n r p).map fun v => (v.narPop n).narDone n r).getD s
      else (((t.convertRun r p).1).narPop n).narDone n r := by
  obtain ⟨rest, head⟩ := serves.head
  obtain ⟨rfl, part⟩ := serves.part
  simp only [State.serveNarrow, head, serves.free, State.lineEvents, List.foldl_nil, part, serves.layout, sound,
    Bool.false_eq_true, if_false, named, if_true]
  cases t.synthRun n r p <;> rfl

/-- A request that names none and meets no line error does its work and ends. -/
theorem serveNarrow_of_unnamed (serves : NarServes s n op r i p t) (sound : t.narCauses r i p = [])
    (unnamed : r.named = false) {u : State}
    (work : (if op = 1 then t.analysisRun r p else if op = 2 then t.conv1dRun r p else t.convertRun r p) = (u, false)) :
    s.serveNarrow n op [] = (u.narPop n).narDone n r := by
  obtain ⟨rest, head⟩ := serves.head
  obtain ⟨rfl, part⟩ := serves.part
  simp only [State.serveNarrow, head, serves.free, State.lineEvents, List.foldl_nil, part, serves.layout, sound,
    Bool.false_eq_true, if_false, unnamed, work]

/-- A request that passes its checks has the OP of the command that serves it. -/
theorem op_of_sound (serves : NarServes s n op r i p t) (sound : t.narCauses r i p = []) : r.op = op :=
  serves.served.resolve_right (Nat.not_le.2 (op_of_shapeOk (shapeOk_of_narCauses sound)).1)

theorem mem (serves : NarServes s n op r i p t) : t.mem = s.mem := by
  rw [← serves.layout]
  exact (onlyCaches_readLayout s r i p).mem

theorem badLines (serves : NarServes s n op r i p t) (sound : s.badLines = []) : t.badLines = [] := by
  rw [← serves.layout]
  exact (onlyCaches_readLayout s r i p).badLines.trans sound

end NarServes

end

/-! ### What the requests write (R83 to R85) -/

/-- The bytes that a request of this OP writes, of the words x of SRC and h of COEF (R83, Table 12.2). -/
def NarReq.output (r : NarReq) (op : Nat) (x h : List Word) : Bytes :=
  if op = 1 then wordBytes ((List.range r.count).flatMap fun j => (List.range r.bands).map fun k =>
    analysisSample r.bands r.taps x h j k)
  else if op = 2 then wordBytes ((List.range r.count).flatMap fun q => (List.range 16).map fun j =>
    if j < r.couts then convSample r.bands r.taps x h q j else 0)
  else r.samples x

section
variable {t : State} {r : NarReq} {p : Part} (sound : t.badLines = [])
include sound

/-- CONVERT to the ring holds its samples pending for the stream. -/
theorem convertRun_of_ring (ring : r.ring = true) :
    let x := t.narRead r p (r.space 0) r.src r.srcLen
    (t.convertRun r p).1 = x.1.modEntry r.stream fun e =>
      { e with pend := some { samples := r.samples x.2.1, count := r.count, hist := none, engine := r.site.core.val / 64 } } := by
  simp only [State.convertRun, ring, if_true, State.holdStep, narRead_of_sound sound, Bool.false_eq_true, if_false]

/-- ANALYSIS, CONV1D and CONVERT to DST write their output there, with no error, and no other byte of memory changes. -/
theorem narWork_of_sound {op : Nat} (table : op = 1 ∨ op = 2 ∨ op = 3) (unringed : op = 3 → r.ring = false) :
    let x := t.narRead r p (r.space 0) r.src r.srcLen
    let h := x.1.narRead r p (r.space 2) r.coef r.coefLen
    let w := ((if op = 3 then x.1 else h.1).narWrite r p (r.output op x.2.1 h.2.1)).1
    (if op = 1 then t.analysisRun r p else if op = 2 then t.conv1dRun r p else t.convertRun r p) = (w, false) ∧
      ∀ a, (∀ k, k < (r.output op x.2.1 h.2.1).length → r.space 1 = true → p.phys (r.dst + k) ≠ a) →
        w.byteAt a = t.byteAt a := by
  intro x h w
  have readX := onlyCaches_narRead t r p (r.space 0) r.src r.srcLen
  have readH := readX.trans (onlyCaches_narRead x.1 r p (r.space 2) r.coef r.coefLen)
  have goodX : x.2.2 = false := narRead_of_sound sound r p (r.space 0) r.src r.srcLen
  have goodH : h.2.2 = false := narRead_of_sound (readX.badLines.trans sound) r p (r.space 2) r.coef r.coefLen
  have read : OnlyCaches t (if op = 3 then x.1 else h.1) := by
    split
    · exact readX
    · exact readH
  have all {bad : Bool} (good : bad = false) : (x.2.2 || h.2.2 || bad) = false := by
    rw [goodX, goodH, good]
    rfl
  obtain ⟨written, others⟩ := narWrite_of_sound (read.badLines.trans sound) r p (r.output op x.2.1 h.2.1)
  refine ⟨?_, fun a out => (others a out).trans (congrArg (Tbl.get 0 · a) read.mem)⟩
  obtain rfl | rfl | rfl := table
  · exact Prod.ext rfl (all written)
  · exact Prod.ext rfl (all written)
  · have run : t.convertRun r p = ((x.1.narWrite r p (r.samples x.2.1)).1, x.2.2 || (x.1.narWrite r p (r.samples x.2.1)).2) := by
      simp only [State.convertRun, unringed rfl, Bool.false_eq_true, if_false, x]
    rw [goodX] at run
    exact run.trans (Prod.ext rfl written)

end

/-! ### The four requests -/

/-- The command that serves a request of each OP. -/
theorem exec_narrow {c : Fin 32} {op : Nat} {i : Instr} (s : State)
    (command : op = 0 ∧ i = .synth c [] ∨ op = 1 ∧ i = .analysis c [] ∨ op = 2 ∧ i = .conv1d c [] ∨ op = 3 ∧ i = .convert c []) :
    exec i s = .next (s.serveNarrow c.val op []) := by
  obtain ⟨rfl, rfl⟩ | ⟨rfl, rfl⟩ | ⟨rfl, rfl⟩ | ⟨rfl, rfl⟩ := command <;> rfl

/-- Settles O50: each way in which the head of the queue is served, by its rule above. -/
theorem narrowRequests : Obligations.NarrowRequests := by
  intro c op i s command n
  have table : op = 0 ∨ op = 1 ∨ op = 2 ∨ op = 3 := command.imp And.left (Or.imp And.left (Or.imp And.left And.left))
  rw [exec_narrow s command]
  refine ⟨fun empty => by rw [serveNarrow_of_empty empty], fun r rest head => ?_⟩
  intro pid p t ends
  refine ⟨fun not_ => by rw [serveNarrow_of_not_served head not_], fun up served => ?_⟩
  have serves : NarServes s n op r pid p t := ⟨⟨rest, head⟩, up, served, ⟨rfl, rfl⟩, rfl⟩
  refine ⟨serves.mem, fun cause found => by rw [serves.serveNarrow_of_cause found], fun c1 c2 found => ?_, fun sound named => ?_,
    fun sound unnamed clean => ?_⟩
  · obtain ⟨cause, chosen, run⟩ := serves.serveNarrow_of_causes found
    exact ⟨cause, chosen, by rw [run]⟩
  · rw [serves.serveNarrow_of_named sound named]
    refine ⟨fun idle => ?_, fun live pending => ?_, fun live free synth => ?_, fun live free convert clean => ?_⟩
    · rw [idle]
      rfl
    · rw [live, Option.isSome_iff_ne_none.2 pending]
      rfl
    · subst synth
      rw [live, free]
      exact ⟨fun v work => by rw [work]; rfl, fun waits => by rw [waits]; rfl⟩
    · subst convert
      have ring : r.ring = true := by
        rwa [NarReq.named, serves.op_of_sound sound, show (3 == 0) = false from rfl, Bool.false_or] at named
      rw [live, free, convertRun_of_ring (serves.badLines clean) ring]
      exact ⟨(onlyCaches_narRead t r p (r.space 0) r.src r.srcLen).mem.trans serves.mem, rfl⟩
  · have fields : op ≠ 0 ∧ r.ring = false := by
      rwa [NarReq.named, serves.op_of_sound sound, Bool.or_eq_false_iff, beq_eq_false_iff_ne] at unnamed
    obtain ⟨run, others⟩ := narWork_of_sound (r := r) (p := p) (serves.badLines clean)
      (table.resolve_left fields.1) fun _ => fields.2
    refine ⟨?_, fun a out => (others a out).trans (congrArg (Tbl.get 0 · a) serves.mem)⟩
    rw [serves.serveNarrow_of_unnamed sound unnamed run]
    rfl

end Sys2Proof.Machine
end

section
/-! PROOFS. What every command answers (R88, R383): a next state, but for the one command that names an unassigned address. -/

namespace Sys2Proof.Machine

/-! ### SRAM_ECC_ERROR, by the place of the error (R88, R383) -/

theorem exec_sramEccError_corrected (s : State) : exec (.sramEccError .corrected) s = .next (s.sramEcc false) := rfl

theorem exec_sramEccError_unit (u : UnitId) (s : State) : exec (.sramEccError (.unit u)) s =
    .next (s.when (s.watching && s.unitState u == 0) fun s => (s.sramEcc true).unitFailure u) := rfl

theorem exec_sramEccError_assigned {p : Nat} (s : State) (low : p < 2 ^ 39) (inside : p % 2 ^ 31 < chanBytes) :
    exec (.sramEccError (.cacheLine p)) s = .next (s.when s.watching fun s => s.cacheLineFails p) :=
  if_neg (by omega)

theorem exec_sramEccError_unassigned {p : Nat} (s : State) (out : 2 ^ 39 ≤ p ∨ chanBytes ≤ p % 2 ^ 31) :
    exec (.sramEccError (.cacheLine p)) s = .fault .unassignedPhysical := if_pos out

/-- Settles O3: every arm of the dispatch is a next state, but for SRAM_ECC_ERROR, which has its lemmas above. -/
theorem commandsAnswer : Obligations.CommandsAnswer := by
  refine ⟨fun c s other => ?_, fun p s => ?_⟩
  · cases c with
    | sramEccError spot =>
      cases spot with
      | corrected => exact ⟨_, exec_sramEccError_corrected s⟩
      | cacheLine p => exact absurd rfl (other p)
      | unit u => exact ⟨_, exec_sramEccError_unit u s⟩
    | _ => exact ⟨_, rfl⟩
  · split
    case isTrue inside => exact ⟨_, exec_sramEccError_assigned s inside.1 inside.2⟩
    case isFalse out => exact exec_sramEccError_unassigned s (by rw [chanBytes]; omega)

end Sys2Proof.Machine
end

section
/-! PROOFS. The partition address map (R88, R89, R91): where the spread region and the locality windows place an address, that
the map is one to one and onto the partition's channels, and how it spreads the granules of a row. -/

namespace Sys2Proof.Machine

/-! ### Sizes (R89, Table 5.1) -/

/-- A partition that R91 places: it owns clusters, each once, and its locality windows are whole granules within a channel. -/
structure Part.Sized (p : Part) : Prop where
  some_ : 0 < p.clusters.length
  once : p.clusters.Nodup
  fits : p.localBytes ≤ chanBytes
  granules : p.localBytes % 256 = 0

section
variable {p : Part} (sized : p.Sized)
include sized

theorem Part.Sized.limit_eq : p.limit = p.nch * p.spreadCh + p.clusters.length * (8 * p.localBytes) := by
  have whole : p.spreadCh + p.localBytes = chanBytes := Nat.sub_add_cancel sized.fits
  calc p.limit = p.clusters.length * (8 * (p.spreadCh + p.localBytes)) := by rw [whole]; rfl
    _ = _ := by rw [Part.nch]; ring

theorem Part.Sized.spreadCh_dvd : 256 ∣ p.spreadCh :=
  Nat.dvd_sub (by decide) (Nat.dvd_of_mod_eq_zero sized.granules)

theorem Part.Sized.nch_pos : 0 < p.nch := Nat.mul_pos (by decide) sized.some_

end

/-! ### The two regions (R91, Table 5.2) -/

/-- The channel of granule c of row r, among n: rotation by the row's hash. -/
def Part.turn (p : Part) (n g : Nat) : Nat := (g % n + p.hash (g / n)) % n

/-- Global channel of the ch-th channel of the partition. -/
def Part.channel (p : Part) (ch : Nat) : Nat := 8 * p.cluster (ch / 8) + ch % 8

theorem turn_lt {p : Part} {n g : Nat} (pos : 0 < n) : p.turn n g < n := Nat.mod_lt _ pos

/-- Within a row, a rotation takes different granules to different channels. -/
theorem turn_inj {p : Part} {n g g' : Nat} (row : g / n = g' / n) (same : p.turn n g = p.turn n g') : g = g' := by
  rw [Part.turn, Part.turn, row] at same
  have col : g % n = g' % n := by
    simpa only [Nat.ModEq, Nat.mod_mod] using Nat.ModEq.add_right_cancel' (p.hash (g' / n)) same
  rw [← Nat.div_add_mod g n, row, col, Nat.div_add_mod]

/-- Within a row, a rotation reaches every channel. -/
theorem turn_surj (p : Part) {n : Nat} (r : Nat) {ch : Nat} (lt : ch < n) : ∃ g, g / n = r ∧ p.turn n g = ch := by
  have pos : 0 < n := by omega
  have col : (ch + (n - p.hash r % n)) % n < n := Nat.mod_lt _ pos
  refine ⟨n * r + (ch + (n - p.hash r % n)) % n, by rw [Nat.mul_add_div pos, Nat.div_eq_of_lt col, Nat.add_zero], ?_⟩
  rw [Part.turn, Nat.mul_add_div pos, Nat.div_eq_of_lt col, Nat.add_zero, Nat.mul_add_mod, Nat.mod_mod, Nat.mod_add_mod,
    ← Nat.add_mod_mod]
  have below := Nat.mod_lt (p.hash r) pos
  rw [show ch + (n - p.hash r % n) + p.hash r % n = ch + n by omega, Nat.add_mod_right, Nat.mod_eq_of_lt lt]

section
variable {p : Part}

theorem place_spread {A : Nat} (spread : A < p.nch * p.spreadCh) :
    p.place A = (p.channel (p.turn p.nch (A / 256)), A / 256 / p.nch * 256 + A % 256) := by
  rw [Part.place, if_pos (show A < p.spreadEnd from spread)]
  rfl

theorem place_window (sized : p.Sized) {i B : Nat} (below : B < 8 * p.localBytes) :
    p.place (p.nch * p.spreadCh + i * (8 * p.localBytes) + B) =
      (8 * p.cluster i + p.turn 8 (B / 256), p.spreadCh + B / 256 / 8 * 256 + B % 256) := by
  have rank : (p.spreadEnd + i * (8 * p.localBytes) + B - p.spreadEnd) / (8 * p.localBytes) = i := by
    rw [show p.spreadEnd + i * (8 * p.localBytes) + B - p.spreadEnd = 8 * p.localBytes * i + B by
        rw [Nat.mul_comm i]; omega, Nat.mul_add_div (by omega), Nat.div_eq_of_lt below, Nat.add_zero]
  have byte : (p.windowBase i + B) % 256 = B % 256 := by
    obtain ⟨x, spread⟩ : 256 ∣ p.spreadEnd := Dvd.dvd.mul_left sized.spreadCh_dvd _
    obtain ⟨y, window⟩ : 256 ∣ i * (8 * p.localBytes) :=
      Dvd.dvd.mul_left (Dvd.dvd.mul_left (Nat.dvd_of_mod_eq_zero sized.granules) _) _
    rw [Part.windowBase, spread, window]
    omega
  rw [show p.nch * p.spreadCh = p.spreadEnd from rfl, Part.place, if_neg (by omega)]
  simp only [rank]
  rw [show p.spreadEnd + i * (8 * p.localBytes) = p.windowBase i from rfl, Nat.add_sub_cancel_left, byte]
  rfl


/-! ### Channels and offsets -/

theorem channel_window (p : Part) (i : Nat) {k : Nat} (lt : k < 8) : p.channel (8 * i + k) = 8 * p.cluster i + k := by
  rw [Part.channel, show (8 * i + k) / 8 = i by omega, show (8 * i + k) % 8 = k by omega]

theorem cluster_mem {i : Nat} (lt : i < p.clusters.length) : p.cluster i ∈ p.clusters := by
  rw [Part.cluster, List.getD_eq_getElem _ _ lt]
  exact List.getElem_mem lt

theorem channel_div (p : Part) (ch : Nat) : p.channel ch / 8 = p.cluster (ch / 8) := by
  rw [Part.channel]
  omega

/-- Different channels of the partition are different channels of the device. -/
theorem channel_inj (sized : p.Sized) {c d : Nat} (hc : c < p.nch) (hd : d < p.nch) (same : p.channel c = p.channel d) :
    c = d := by
  rw [Part.nch] at hc hd
  have clusters : p.cluster (c / 8) = p.cluster (d / 8) := by rw [← channel_div, same, channel_div]
  have rank : c / 8 = d / 8 := by
    rw [Part.cluster, Part.cluster, List.getD_eq_getElem _ _ (by omega), List.getD_eq_getElem _ _ (by omega)] at clusters
    exact sized.once.getElem_inj_iff.1 clusters
  rw [Part.channel, Part.channel, clusters] at same
  omega

/-- A channel and an offset are read back from the physical address (R88). -/
theorem phys_of_place {A ch off : Nat} (at_ : p.place A = (ch, off)) (lt : off < chanBytes) :
    p.phys A / 2 ^ 31 = ch ∧ p.phys A % 2 ^ 31 = off := by
  have small : off < 2 ^ 31 := lt.trans (by decide)
  rw [Part.phys, at_]
  constructor <;> omega

theorem spread_offset_lt (sized : p.Sized) {A : Nat} (spread : A < p.nch * p.spreadCh) :
    A / 256 / p.nch * 256 + A % 256 < p.spreadCh := by
  obtain ⟨m, rows⟩ := sized.spreadCh_dvd
  have row : A / 256 / p.nch < m := by
    rw [Nat.div_div_eq_div_mul, Nat.div_lt_iff_lt_mul (Nat.mul_pos (by decide) sized.nch_pos)]
    calc A < p.nch * p.spreadCh := spread
      _ = m * (256 * p.nch) := by rw [rows]; ring
  omega

theorem window_offset_lt (sized : p.Sized) {B : Nat} (below : B < 8 * p.localBytes) :
    p.spreadCh + B / 256 / 8 * 256 + B % 256 < chanBytes := by
  have whole : p.spreadCh + p.localBytes = chanBytes := Nat.sub_add_cancel sized.fits
  have granules := sized.granules
  omega

/-- Every address lies in the spread region or in one window. -/
theorem region_cases (sized : p.Sized) {A : Nat} (inside : A < p.limit) : A < p.nch * p.spreadCh ∨
    ∃ i B, i < p.clusters.length ∧ B < 8 * p.localBytes ∧ A = p.nch * p.spreadCh + i * (8 * p.localBytes) + B := by
  refine or_iff_not_imp_left.2 fun beyond => ?_
  rw [sized.limit_eq] at inside
  have rest : A - p.nch * p.spreadCh < p.clusters.length * (8 * p.localBytes) := by omega
  have some_ : 0 < 8 * p.localBytes := Nat.pos_of_mul_pos_left (Nat.zero_lt_of_lt rest)
  have split := Nat.div_add_mod' (A - p.nch * p.spreadCh) (8 * p.localBytes)
  exact ⟨(A - p.nch * p.spreadCh) / (8 * p.localBytes), (A - p.nch * p.spreadCh) % (8 * p.localBytes),
    (Nat.div_lt_iff_lt_mul some_).2 rest, Nat.mod_lt _ some_, by omega⟩

/-- The place of an address, by its region: the row and the granule of the row are found in it. -/
theorem place_spread_fields (sized : p.Sized) {A : Nat} (spread : A < p.nch * p.spreadCh) :
    p.phys A / 2 ^ 31 = p.channel (p.turn p.nch (A / 256)) ∧ p.phys A % 2 ^ 31 = A / 256 / p.nch * 256 + A % 256 :=
  phys_of_place (place_spread spread) ((spread_offset_lt sized spread).trans_le (Nat.sub_le _ _))

theorem place_window_fields (sized : p.Sized) (i : Nat) {B : Nat} (below : B < 8 * p.localBytes) :
    p.phys (p.nch * p.spreadCh + i * (8 * p.localBytes) + B) / 2 ^ 31 = p.channel (8 * i + p.turn 8 (B / 256)) ∧
      p.phys (p.nch * p.spreadCh + i * (8 * p.localBytes) + B) % 2 ^ 31 = p.spreadCh + B / 256 / 8 * 256 + B % 256 := by
  rw [channel_window p i (turn_lt (by decide))]
  exact phys_of_place (place_window sized below) (window_offset_lt sized below)

/-- Same row and same channel: same granule. -/
theorem granule_of_spread (sized : p.Sized) {A B : Nat} (hA : A < p.nch * p.spreadCh) (hB : B < p.nch * p.spreadCh)
    (row : A / 256 / p.nch = B / 256 / p.nch) (same : p.phys A / 2 ^ 31 = p.phys B / 2 ^ 31) : A / 256 = B / 256 := by
  rw [(place_spread_fields sized hA).1, (place_spread_fields sized hB).1] at same
  exact turn_inj row (channel_inj sized (turn_lt sized.nch_pos) (turn_lt sized.nch_pos) same)

theorem granule_of_window (sized : p.Sized) {i j A B : Nat} (hi : i < p.clusters.length) (hj : j < p.clusters.length)
    (hA : A < 8 * p.localBytes) (hB : B < 8 * p.localBytes) (row : A / 256 / 8 = B / 256 / 8)
    (same : p.phys (p.nch * p.spreadCh + i * (8 * p.localBytes) + A) / 2 ^ 31 =
      p.phys (p.nch * p.spreadCh + j * (8 * p.localBytes) + B) / 2 ^ 31) : i = j ∧ A / 256 = B / 256 := by
  have kA : p.turn 8 (A / 256) < 8 := turn_lt (by decide)
  have kB : p.turn 8 (B / 256) < 8 := turn_lt (by decide)
  rw [(place_window_fields sized i hA).1, (place_window_fields sized j hB).1] at same
  have place := channel_inj sized (show _ < 8 * p.clusters.length by omega) (show _ < 8 * p.clusters.length by omega) same
  exact ⟨by omega, turn_inj (p := p) row (by omega)⟩

/-! ### One to one, and onto -/

theorem phys_inj (sized : p.Sized) {A B : Nat} (hA : A < p.limit) (hB : B < p.limit) (same : p.phys A = p.phys B) : A = B := by
  have chan : p.phys A / 2 ^ 31 = p.phys B / 2 ^ 31 := congrArg (· / 2 ^ 31) same
  have off : p.phys A % 2 ^ 31 = p.phys B % 2 ^ 31 := congrArg (· % 2 ^ 31) same
  obtain sA | ⟨i, a, hi, ha, rfl⟩ := region_cases sized hA <;> obtain sB | ⟨j, b, hj, hb, rfl⟩ := region_cases sized hB
  · rw [(place_spread_fields sized sA).2, (place_spread_fields sized sB).2] at off
    have granule := granule_of_spread sized sA sB (by omega) chan
    omega
  · have low := spread_offset_lt sized sA
    rw [(place_spread_fields sized sA).2, (place_window_fields sized j hb).2] at off
    omega
  · have low := spread_offset_lt sized sB
    rw [(place_window_fields sized i ha).2, (place_spread_fields sized sB).2] at off
    omega
  · rw [(place_window_fields sized i ha).2, (place_window_fields sized j hb).2] at off
    obtain ⟨rfl, granule⟩ := granule_of_window sized hi hj ha hb (by omega) chan
    omega

theorem phys_inside (sized : p.Sized) {A : Nat} (inside : A < p.limit) :
    p.phys A / 2 ^ 31 / 8 ∈ p.clusters ∧ p.phys A % 2 ^ 31 < chanBytes := by
  obtain spread | ⟨i, B, hi, hB, rfl⟩ := region_cases sized inside
  · have lt : p.turn p.nch (A / 256) < 8 * p.clusters.length := turn_lt sized.nch_pos
    rw [(place_spread_fields sized spread).1, (place_spread_fields sized spread).2, channel_div]
    exact ⟨cluster_mem (by omega), (spread_offset_lt sized spread).trans_le (Nat.sub_le _ _)⟩
  · have lt : p.turn 8 (B / 256) < 8 := turn_lt (by decide)
    rw [(place_window_fields sized i hB).1, (place_window_fields sized i hB).2, channel_div]
    exact ⟨cluster_mem (by omega), window_offset_lt sized hB⟩

theorem phys_of_fields {A ch off : Nat} (chan : p.phys A / 2 ^ 31 = ch) (rest : p.phys A % 2 ^ 31 = off) :
    p.phys A = ch * 2 ^ 31 + off := by omega

/-- The granule of a row on a channel, and a byte of it. -/
theorem spread_reaches (sized : p.Sized) {ch off : Nat} (hc : ch < p.nch) (ho : off < p.spreadCh) :
    ∃ A, A < p.nch * p.spreadCh ∧ p.phys A = p.channel ch * 2 ^ 31 + off := by
  obtain ⟨g, row, turn⟩ := turn_surj p (off / 256) hc
  obtain ⟨m, rows⟩ := sized.spreadCh_dvd
  have inside : g * 256 + off % 256 < p.nch * p.spreadCh := by
    have below : g < m * p.nch := by
      rw [← Nat.div_lt_iff_lt_mul sized.nch_pos, row]
      omega
    calc g * 256 + off % 256 < (g + 1) * 256 := by omega
      _ ≤ m * p.nch * 256 := Nat.mul_le_mul_right _ below
      _ = p.nch * p.spreadCh := by rw [rows]; ring
  have granule : (g * 256 + off % 256) / 256 = g := by omega
  obtain ⟨chan, rest⟩ := place_spread_fields sized inside
  rw [granule, turn] at chan
  rw [granule, row] at rest
  exact ⟨_, inside, phys_of_fields chan (rest.trans (by omega))⟩

theorem window_reaches (sized : p.Sized) {i k off : Nat} (hk : k < 8) (ho : off < p.localBytes) :
    ∃ B, B < 8 * p.localBytes ∧ p.phys (p.nch * p.spreadCh + i * (8 * p.localBytes) + B) =
      p.channel (8 * i + k) * 2 ^ 31 + (p.spreadCh + off) := by
  obtain ⟨g, row, turn⟩ := turn_surj p (off / 256) hk
  have granules := sized.granules
  have inside : g * 256 + off % 256 < 8 * p.localBytes := by omega
  have granule : (g * 256 + off % 256) / 256 = g := by omega
  obtain ⟨chan, rest⟩ := place_window_fields sized i inside
  rw [granule, turn] at chan
  rw [granule, row] at rest
  exact ⟨_, inside, phys_of_fields chan (rest.trans (by omega))⟩

theorem phys_onto (sized : p.Sized) {n k off : Nat} (owned : n ∈ p.clusters) (hk : k < 8) (ho : off < chanBytes) :
    ∃ A, A < p.limit ∧ p.phys A = (8 * n + k) * 2 ^ 31 + off := by
  obtain ⟨j, hj, rfl⟩ := List.getElem_of_mem owned
  have cluster : 8 * p.clusters[j] + k = p.channel (8 * j + k) := by
    rw [channel_window p j hk, Part.cluster, List.getD_eq_getElem _ _ hj]
  rw [cluster, sized.limit_eq]
  by_cases low : off < p.spreadCh
  · obtain ⟨A, inside, phys⟩ := spread_reaches sized (show 8 * j + k < 8 * p.clusters.length by omega) low
    exact ⟨A, by omega, phys⟩
  · have whole : p.spreadCh + p.localBytes = chanBytes := Nat.sub_add_cancel sized.fits
    obtain ⟨B, inside, phys⟩ := window_reaches sized (i := j) hk (show off - p.spreadCh < p.localBytes by omega)
    refine ⟨_, ?_, phys.trans (by rw [Nat.add_sub_cancel' (Nat.le_of_not_lt low)])⟩
    have windows : (j + 1) * (8 * p.localBytes) ≤ p.clusters.length * (8 * p.localBytes) := Nat.mul_le_mul_right _ hj
    rw [Nat.succ_mul] at windows
    omega

/-- Of fewer granules in a row than there are channels, two of three lie in one row, so that no three share a channel. -/
theorem spread_not_three (sized : p.Sized) {A B C : Nat} (hC : C < p.nch * p.spreadCh) (ab : A / 256 < B / 256)
    (bc : B / 256 < C / 256) (near : C / 256 < A / 256 + p.nch) :
    ¬ (p.phys A / 2 ^ 31 = p.phys B / 2 ^ 31 ∧ p.phys B / 2 ^ 31 = p.phys C / 2 ^ 31) := by
  rintro ⟨chanAB, chanBC⟩
  have hA : A < p.nch * p.spreadCh := by omega
  have hB : B < p.nch * p.spreadCh := by omega
  have rowsAB : A / 256 / p.nch ≤ B / 256 / p.nch := Nat.div_le_div_right ab.le
  have rowsBC : B / 256 / p.nch ≤ C / 256 / p.nch := Nat.div_le_div_right bc.le
  have rowsAC : C / 256 / p.nch ≤ A / 256 / p.nch + 1 := by
    rw [← Nat.add_div_right _ sized.nch_pos]
    exact Nat.div_le_div_right near.le
  have differ : A / 256 / p.nch ≠ B / 256 / p.nch := fun row => ab.ne (granule_of_spread sized hA hB row chanAB)
  have differ' : B / 256 / p.nch ≠ C / 256 / p.nch := fun row => bc.ne (granule_of_spread sized hB hC row chanBC)
  omega

end

/-- Settles O60: the two regions as R91 places them, and from these the rest. -/
theorem partitionAddresses : Obligations.PartitionAddresses := by
  intro p some_ once fits granules
  have sized : p.Sized := ⟨List.length_pos_iff.2 some_, once, fits, granules⟩
  refine ⟨fun A spread => ?_, fun i B _ below => ?_, fun A B hA hB => phys_inj sized hA hB, fun A => phys_inside sized,
    fun n owned k off hk ho => phys_onto sized owned hk ho, fun A B hA hB row => mt (granule_of_spread sized hA hB row),
    fun A B C hC ab bc near => spread_not_three sized hC ab bc near, fun i A B hi hA hB row =>
      mt fun same => (granule_of_window sized hi hi hA hB row same).2⟩
  · rw [Part.phys, place_spread spread]
    rfl
  · rw [Part.phys, place_window sized below]
    rfl

end Sys2Proof.Machine
end

section
/-! PROOFS. The completion of a held descriptor (R104 to R107): one whose OP no table gives writes memory all the same. -/

namespace Sys2Proof.Machine

/-! ### A held descriptor of no operation -/

/-- OP 6, of which Table 5.6 knows nothing: one run of one byte at partition address 0, PATTERN 1. -/
def foreignDesc : HeldDesc :=
  { id := 0, list := 0, site := { core := 0, share := 0 }, ctx := 0, index := 0,
    raw := [6, 0, 0, 0, 1, 0, 0, 0, 1, 0, 1, 0, 1] ++ List.replicate 51 0 }

/-- The stream engine of cluster 0, in partition 0, holds it alone. No fetch makes such a state, since R106 refuses the
descriptor (dBad), but the statement is about every state. -/
def holdingForeign : State :=
  { parts := [(0, { exists_ := true, clusters := [0] })]
    clusters := [(0, { part := some 0, held := [foreignDesc] })] }

/-- The state after the descriptor's lines have been issued and have landed. -/
def foreignLanded : State :=
  (holdingForeign.issueAll 0 0 (((holdingForeign.clu 0).held.map HeldDesc.mostLines).foldl (· + ·) 0)).landAll 0 0

/-- The engine treats an OP it does not know as a FILL. -/
theorem byteAt_foreignLanded : foreignLanded.byteAt 0 = 1 := by decide +kernel

/-- Refutes O48: memory may change outside the runs of PUT, COPY and FILL descriptors. In `holdingForeign` there is none of
these, and the completion of descriptor 0 writes a byte. -/
theorem not_streamEngineDescriptors : ¬ Obligations.StreamEngineDescriptors := by
  intro both
  have frame := (((both.2 0 0 holdingForeign).2 foreignDesc (by decide +kernel)).2 (by decide +kernel) (by decide +kernel)).2.1
  have kept : foreignLanded.byteAt 0 = holdingForeign.byteAt 0 := frame 0 fun x mem writes => by
    obtain rfl : x = foreignDesc := List.mem_singleton.1 mem
    exact absurd writes (by decide +kernel)
  exact absurd (byteAt_foreignLanded.symm.trans kept) (by decide)

end Sys2Proof.Machine
end

section
/-! PROOFS. Completions (R349, R353 to R355): what the end of a command leaves alone, and which commands it leaves in
progress. -/

namespace Sys2Proof.Machine

/-! ### What an answer leaves alone -/

/-- From s to t the device only answered: beside the packets and completions it queued, what it counted and latched in
registers, and the commands that ended, nothing changed. -/
structure OnlyAnswers (s t : State) : Prop where
  frame : { s with net := t.net, i3c := t.i3c, regs := t.regs, lastCpl := t.lastCpl, cmds := t.cmds } = t
  fewer : t.cmds ⊆ s.cmds

theorem OnlyAnswers.refl (s : State) : OnlyAnswers s s := ⟨rfl, fun _ h => h⟩

theorem OnlyAnswers.trans {s t u : State} (a : OnlyAnswers s t) (b : OnlyAnswers t u) : OnlyAnswers s u := by
  refine ⟨?_, fun _ h => a.fewer (b.fewer h)⟩
  rw [← b.frame, ← a.frame]

section
variable {s t : State} (only : OnlyAnswers s t)
include only

theorem OnlyAnswers.mem : t.mem = s.mem := by rw [← only.frame]
theorem OnlyAnswers.parts : t.parts = s.parts := by rw [← only.frame]
theorem OnlyAnswers.clusters : t.clusters = s.clusters := by rw [← only.frame]
theorem OnlyAnswers.sync : t.sync = s.sync := by rw [← only.frame]

end

theorem onlyAnswers_discardOn (s : State) (port : Nat) : OnlyAnswers s (s.discardOn port) := ⟨rfl, fun _ h => h⟩

theorem onlyAnswers_modNet (s : State) (f : Net → Net) : OnlyAnswers s (s.modNet f) := ⟨rfl, fun _ h => h⟩

theorem onlyAnswers_queuePkt (s : State) (p : Pkt) : OnlyAnswers s (s.queuePkt p) := by
  unfold State.queuePkt
  split
  · exact onlyAnswers_discardOn s 5
  · exact onlyAnswers_modNet s _

theorem onlyAnswers_sendCompletion (s : State) (src : Src) (part : Nat) (bs : Bytes) :
    OnlyAnswers s (s.sendCompletion src part bs) := by
  have latched : OnlyAnswers s { s with lastCpl := bs } := ⟨rfl, fun _ h => h⟩
  cases src with
  | i3c => exact ⟨rfl, fun _ h => h⟩
  | spur => exact latched.trans (onlyAnswers_queuePkt _ _)
  | dev d => exact latched.trans (onlyAnswers_queuePkt _ _)

theorem onlyAnswers_reply (s : State) (src : Src) (op : Nat) (tag : BitVec 16) (part : Nat) (st : BitVec 16) (res : Bytes) :
    OnlyAnswers s (s.reply src op tag part st res) := onlyAnswers_sendCompletion s src part _

theorem onlyAnswers_endCmd (s : State) (id : Nat) (st : BitVec 16) (res : Bytes) : OnlyAnswers s (s.endCmd id st res) := by
  unfold State.endCmd
  split
  · exact .refl s
  · next c _ =>
    have gone : OnlyAnswers s { s with cmds := s.cmds.filter (·.id != id) } := ⟨rfl, List.filter_subset_self _⟩
    exact gone.trans (onlyAnswers_reply _ _ _ _ _ _ _)

theorem onlyAnswers_settleFences (s : State) : OnlyAnswers s s.settleFences := by
  suffices fueled : ∀ n s, OnlyAnswers s (State.settleFences.go s n) from fueled _ s
  intro n
  induction n with
  | zero => exact fun s => .refl s
  | succ n ih =>
    intro s
    unfold State.settleFences.go
    split
    · exact .refl s
    · exact (onlyAnswers_endCmd s _ _ _).trans (ih _)

theorem onlyAnswers_finishCmd (s : State) (id : Nat) (st : BitVec 16) (res : Bytes) :
    OnlyAnswers s (s.finishCmd id st res) := (onlyAnswers_endCmd s id st res).trans (onlyAnswers_settleFences _)

theorem onlyAnswers_finishWhere (s : State) (f : Cmd → Bool) (st : BitVec 16) : OnlyAnswers s (s.finishWhere f st) :=
  List.foldlRecOn (motive := OnlyAnswers s) _ _ (.refl s) fun t only c _ => only.trans (onlyAnswers_finishCmd t c.id st [])

/-! ### The commands that have ended -/

theorem id_ne_of_mem_endCmd {s : State} {id : Nat} {st : BitVec 16} {res : Bytes} {c : Cmd} (mem : c ∈ (s.endCmd id st res).cmds) :
    c.id ≠ id := by
  unfold State.endCmd at mem
  split at mem
  · next none_ => exact fun same => List.find?_eq_none.1 none_ c mem (beq_iff_eq.2 same)
  · exact bne_iff_ne.1 (List.mem_filter.1 ((onlyAnswers_reply _ _ _ _ _ _ _).fewer mem)).2

/-- No command that satisfied the test is still in progress. -/
theorem finishWhere_ends {s : State} {f : Cmd → Bool} {st : BitVec 16} {c : Cmd} (mem : c ∈ (s.finishWhere f st).cmds) :
    f c = false := by
  have ended : ∀ (l : List Cmd) (t : State), ∀ c ∈ (t.each l fun t c => t.finishCmd c.id st).cmds,
      c ∈ t.cmds ∧ ∀ x ∈ l, c.id ≠ x.id := by
    intro l
    induction l with
    | nil => exact fun t c mem => ⟨mem, nofun⟩
    | cons x l ih =>
      intro t c mem
      obtain ⟨before, others⟩ := ih _ c mem
      have answered := (onlyAnswers_settleFences _).fewer before
      exact ⟨(onlyAnswers_endCmd t x.id st []).fewer answered,
        List.forall_mem_cons.2 ⟨id_ne_of_mem_endCmd answered, others⟩⟩
  obtain ⟨before, others⟩ := ended _ s c mem
  exact Bool.eq_false_iff.2 fun holds => others c (List.mem_filter.2 ⟨before, holds⟩) rfl

end Sys2Proof.Machine
end

section
/-! PROOFS. Partitions (R96, R262 to R265, R360): what CREATE_PARTITION gives and DESTROY_PARTITION takes back, and the checks
before each. -/

namespace Sys2Proof.Machine

/-! ### Tables that lose keys -/

/-- A table from which the keys that fail a test are removed. -/
theorem get_filter_key {α : Type} (d : α) (keep : Nat → Bool) (t : Tbl α) (k : Nat) :
    Tbl.get d (t.filter fun x => keep x.1) k = if keep k then Tbl.get d t k else d := by
  induction t with
  | nil => exact (ite_self d).symm
  | cons x t ih =>
    obtain ⟨j, v⟩ := x
    by_cases same : j = k
    · subst same
      cases kept : keep j <;> simp [kept, Tbl.get, ih]
    · cases kept : keep j <;> simp [kept, Tbl.get, same, ih]

theorem syncVal_clearObjects (s : State) (n o : Nat) :
    (s.clearObjects n).syncVal o = if o / 2048 = n then 0 else s.syncVal o := by
  refine (get_filter_key 0 (fun x => x / 2048 != n) s.sync o).trans ?_
  by_cases own : o / 2048 = n <;> simp [own, State.syncVal]

/-- A value given by whether a cluster is in a list, after one more cluster. -/
theorem ite_mem_cons {α : Type} {n k : Nat} {l : List Nat} (x y : α) :
    (if k ∈ l then x else if k = n then x else y) = if k ∈ n :: l then x else y := by
  by_cases tail : k ∈ l
  · rw [if_pos tail, if_pos (List.mem_cons_of_mem n tail)]
  · rw [if_neg tail]
    exact if_congr (by rw [List.mem_cons, or_iff_left tail]) rfl rfl

/-! ### CREATE_PARTITION (R262, R263, R360) -/

/-- Cluster n as partition p's of this rank, in the share mode of the parameters. -/
def CluSt.ownedBy (k : CluSt) (p : Nat) (b : Bytes) (n rank : Nat) : CluSt :=
  { k with part := some p, rank := rank, mode := modeOf b n }

/-- The cluster of this number and rank goes to partition p, with its objects zeroed. -/
def State.giveCluster (s : State) (p : Nat) (b : Bytes) (n : Nat × Nat) : State :=
  (s.modClu n.1 fun k => k.ownedBy p b n.1 n.2).clearObjects n.1

/-- From s to t the clusters of l, each once, were given to partition p, the first of them with rank `rank`. -/
structure Given (p : Nat) (b : Bytes) (rank : Nat) (l : List Nat) (s t : State) : Prop where
  mem : t.mem = s.mem
  parts : t.parts = s.parts
  given : ∀ i k, l[i]? = some k → t.clu k = (s.clu k).ownedBy p b k (rank + i)
  others : ∀ k, k ∉ l → t.clu k = s.clu k
  objects : ∀ o, t.syncVal o = if o / 2048 ∈ l then 0 else s.syncVal o

theorem clu_giveCluster_self (s : State) (p : Nat) (b : Bytes) (n rank : Nat) : (s.giveCluster p b (n, rank)).clu n =
    (s.clu n).ownedBy p b n rank := clu_setClu_self s n _

theorem clu_giveCluster_ne (s : State) (p : Nat) (b : Bytes) (rank : Nat) {n k : Nat} (ne : k ≠ n) :
    (s.giveCluster p b (n, rank)).clu k = s.clu k := clu_setClu_ne s n _ ne

theorem given_each (p : Nat) (b : Bytes) (l : List Nat) (rank : Nat) (s : State) (once : l.Nodup) :
    Given p b rank l s (s.each (l.zipIdx rank) fun s n => s.giveCluster p b n) := by
  induction l generalizing s rank with
  | nil => exact ⟨rfl, rfl, nofun, fun _ _ => rfl, fun _ => rfl⟩
  | cons n l ih =>
    obtain ⟨first, rest⟩ := List.nodup_cons.1 once
    have tail := ih (rank + 1) (s.giveCluster p b (n, rank)) rest
    refine ⟨tail.mem, tail.parts, fun i k found => ?_, fun k out => ?_, fun o => ?_⟩
    · cases i with
      | zero =>
        obtain rfl : n = k := Option.some.inj found
        exact (tail.others n first).trans (clu_giveCluster_self s p b n rank)
      | succ i =>
        have mem : k ∈ l := List.mem_of_getElem? found
        refine (tail.given i k found).trans ?_
        rw [clu_giveCluster_ne s p b rank (ne_of_mem_of_not_mem mem first), Nat.add_assoc, Nat.add_comm 1 i]
    · obtain ⟨ne, out⟩ := not_or.1 (mt List.mem_cons.2 out)
      exact (tail.others k out).trans (clu_giveCluster_ne s p b rank ne)
    · rw [← ite_mem_cons]
      exact (tail.objects o).trans (if_congr Iff.rfl rfl (syncVal_clearObjects _ n o))

theorem nodup_takenClusters (b : Bytes) : (takenClusters b).Nodup := List.nodup_range.filter _

/-- What CREATE_PARTITION makes of its fields and a salt. -/
def createdPart (b : Bytes) (salt : BitVec 16) : Part :=
  { exists_ := true, clusters := takenClusters b, local_ := fieldAt b 4 1, salt := salt, ledgerQuota := fieldAt b 8 2,
    ctxQuota := fieldAt b 10 2,
    ways := (takenClusters b).foldl (fun t n => Tbl.set 0 t n (BitVec.ofNat 16 (waysField b n))) [],
    sources := sourceList b, config := digest (b.take 6 ++ leBytes 2 salt.toNat ++ b.drop 8) }

theorem given_createPart (s : State) (p : Nat) (b : Bytes) (salt : BitVec 16) :
    Given p b 0 (takenClusters b) (s.setPart p (createdPart b salt)) (s.createPart p b salt) :=
  given_each p b (takenClusters b) 0 _ (nodup_takenClusters b)

theorem part_createPart (s : State) (p : Nat) (b : Bytes) (salt : BitVec 16) :
    (s.createPart p b salt).part p = createdPart b salt := by
  rw [State.part, (given_createPart s p b salt).parts]
  exact part_setPart_self s p _

/-- The salt of a creation, given or drawn, and the state after it. -/
def State.salted (s : State) (b : Bytes) : BitVec 16 × State :=
  if bitOf (fieldAt b 5 1) 0 then (BitVec.ofNat 16 (fieldAt b 6 2), s) else (s.draw.1.truncate 16, s.draw.2)

theorem createBody_of_refused {s : State} {r : Req} {st : BitVec 16} (refused : s.createCheck r.hdr.part.val r.p = some st) :
    createBody s r = .done s st [] := by
  delta createBody -- its equation, which `rw` would prove, is slow to check
  simp only [refused]

theorem createBody_of_passed {s : State} {r : Req} (passed : s.createCheck r.hdr.part.val r.p = none) :
    createBody s r = .done ((s.salted r.p).2.createPart r.hdr.part.val r.p (s.salted r.p).1) stOk
      (leBytes 2 (s.salted r.p).1.toNat ++ leBytes 6 0 ++ leBytes 8 ((takenClusters r.p).length * cluBytes)) := by
  delta createBody
  simp only [passed]
  rfl

/-- The checks see the same of a state before and after it has accepted the command. -/
theorem createCheck_accepted (s : State) (src : Src) (p : Nat) (b : Bytes) :
    (s.accepted src).createCheck p b = s.createCheck p b := by
  cases src <;> rfl

theorem salt_accepted (s : State) (src : Src) (b : Bytes) : ((s.accepted src).salted b).1 =
    if bitOf (fieldAt b 5 1) 0 then BitVec.ofNat 16 (fieldAt b 6 2) else s.draw.1.truncate 16 := by
  rw [State.salted, apply_ite Prod.fst]
  cases src <;> rfl

/-- What acceptance and the salt's draw leave. -/
theorem salted_facts (s : State) (src : Src) (b : Bytes) : let u := ((s.accepted src).salted b).2
    u.mem = s.mem ∧ (∀ k, u.clu k = s.clu k) ∧ ∀ o, u.syncVal o = s.syncVal o := by
  rw [State.salted]
  cases src <;> split <;> exact ⟨rfl, fun _ => rfl, fun _ => rfl⟩

theorem createCheck_of_bad {s : State} (p : Nat) {b : Bytes} (bad : createFields b = false) :
    s.createCheck p b = some stBadField := by
  rw [State.createCheck, bad]
  rfl

section
variable {s : State} {p : Nat} {b : Bytes} (fields : createFields b = true)
include fields

theorem createCheck_of_existing (existing : (s.part p).exists_ = true) : s.createCheck p b = some stWrongState := by
  rw [State.createCheck, fields, existing]
  rfl

variable (new : (s.part p).exists_ = false)
include new

theorem createCheck_of_busy (busy : ∃ k ∈ takenClusters b, (s.clu k).part.isSome = true ∨ s.clusterTesting k = true) :
    s.createCheck p b = some stUnitBusy := by
  have any : ((takenClusters b).any fun n => (s.clu n).part.isSome || s.clusterTesting n) = true := by
    simpa only [List.any_eq_true, Bool.or_eq_true] using busy
  rw [State.createCheck, fields, new, any]
  rfl

/-- With its clusters free, the quotas and the salt decide. -/
theorem createCheck_of_free (free : ∀ k ∈ takenClusters b, (s.clu k).part = none ∧ s.clusterTesting k = false) :
    s.createCheck p b =
      if 4096 < s.granted Part.ledgerQuota + fieldAt b 8 2 then some stNoStreamEntry
      else if 256 < s.granted Part.ctxQuota + fieldAt b 10 2 then some stPartitionFull
      else if !bitOf (fieldAt b 5 1) 0 && s.entropyFail then some stUnitFailed
      else none := by
  have any : ((takenClusters b).any fun n => (s.clu n).part.isSome || s.clusterTesting n) = false :=
    List.any_eq_false.2 fun k mem => by
      obtain ⟨unowned, still⟩ := free k mem
      rw [unowned, still]
      decide
  rw [State.createCheck, fields, new, any]
  rfl

end

theorem createPartitionCommand : Claims.CreatePartitionCommand := by
  intro src hdr b s taken n p clusters given out
  have started : out = .next (n.startCmd createPartitionSpec (s.request 0x10 src hdr b)) := exec_of_taken rfl rfl taken
  rw [started]
  have refused {st : BitVec 16} (check : s.createCheck p b = some st) :
      Completes 0x10 src hdr n st [] (.next (n.startCmd createPartitionSpec (s.request 0x10 src hdr b))) :=
    startCmd_of_done (createBody_of_refused ((createCheck_accepted s src p b).trans check))
  refine ⟨fun bad => refused (createCheck_of_bad p bad), fun fields =>
    ⟨fun existing => refused (createCheck_of_existing fields existing), fun new =>
      ⟨fun busy => refused (createCheck_of_busy fields new busy), fun free => ?_⟩⟩⟩
  have check := createCheck_of_free fields new free
  refine ⟨fun entries => refused (check.trans (if_pos entries)), fun entries => ?_⟩
  replace check := check.trans (if_neg (Nat.not_lt.2 entries))
  refine ⟨fun contexts => refused (check.trans (if_pos contexts)), fun contexts => ?_⟩
  replace check := check.trans (if_neg (Nat.not_lt.2 contexts))
  refine ⟨fun drawn failed => refused (check.trans (if_pos ?_)), fun sound => ?_⟩
  · rw [show bitOf (fieldAt b 5 1) 0 = false from drawn, failed]
    rfl
  · have passed : n.createCheck p b = none := by
      refine (createCheck_accepted s src p b).trans (check.trans (if_neg ?_))
      rw [show bitOf (fieldAt b 5 1) 0 = given from rfl]
      rcases sound with sound | sound <;> simp [sound]
    rw [← salt_accepted s src b]
    obtain ⟨mem, clu, sync⟩ := salted_facts s src b
    have made := given_createPart (n.salted b).2 p b (n.salted b).1
    exact ⟨_, startCmd_of_done (createBody_of_passed passed), part_createPart _ p b _,
      fun i k found => (made.given i k found).trans (by
        rw [Nat.zero_add]
        exact congrArg (CluSt.ownedBy · p b k i) (clu k)),
      fun k out => (made.others k out).trans (clu k), fun o => (made.objects o).trans (if_congr Iff.rfl rfl (sync o)),
      made.mem.trans mem⟩

/-! ### DESTROY_PARTITION (R96, R265) -/

section
variable {s : State} {r : Req}

theorem destroyBody_of_missing (missing : (s.part r.hdr.part.val).exists_ = false) :
    destroyBody s r = .done s stWrongState [] := by
  rw [destroyBody, missing]
  rfl

variable (existing : (s.part r.hdr.part.val).exists_ = true)
include existing

theorem destroyBody_of_destroying (destroying : (s.part r.hdr.part.val).destroying = true) :
    destroyBody s r = .wait s (.zeroing r.hdr.part.val) := by
  rw [destroyBody, existing, destroying]
  rfl

theorem destroyBody_of_whole (whole : (s.part r.hdr.part.val).destroying = false) : destroyBody s r =
    if s.inUse r.hdr.part.val then .done s stWrongState []
    else .wait (((s.abortPartition r.hdr.part.val).releaseAudio r.hdr.part.val).modPart r.hdr.part.val
      fun x => { x with destroying := true }) (.zeroing r.hdr.part.val) := by
  rw [destroyBody, existing, whole]
  rfl

end

theorem destroyPartition_starts (src : Src) (hdr : Hdr) (b : Bytes) (s : State)
    (taken : Taken s 0x11 destroyPartitionSpec src hdr b) :
    let n := s.accepted src
    let p := hdr.part.val
    let out := exec (.destroyPartition src hdr b) s
    ((s.part p).exists_ = false → Completes 0x11 src hdr n stWrongState [] out) ∧
    ((s.part p).exists_ = true →
      ((s.part p).destroying = true → Waits s 0x11 src hdr n (.zeroing p) out) ∧
      ((s.part p).destroying = false → s.inUse p = true → Completes 0x11 src hdr n stWrongState [] out) ∧
      ((s.part p).destroying = false → s.inUse p = false →
        ∃ u, Waits s 0x11 src hdr u (.zeroing p) out ∧ (u.part p).destroying = true ∧
          u = (((n.abortPartition p).releaseAudio p).modPart p fun x => { x with destroying := true }))) := by
  intro n p out
  have started : out = .next (n.startCmd destroyPartitionSpec (s.request 0x11 src hdr b)) := exec_of_taken rfl rfl taken
  have parts : n.part p = s.part p := (accepted_facts s src).2.2.2.1 p
  have use : n.inUse p = s.inUse p := by cases src <;> rfl
  rw [started, ← parts, ← use]
  refine ⟨fun missing => startCmd_of_done (destroyBody_of_missing missing), fun existing =>
    ⟨fun destroying => ?_, fun whole used => ?_, fun whole free => ⟨_, ?_, ?_, rfl⟩⟩⟩
  · exact congrArg Host.Outcome.next (startCmd_of_wait (destroyBody_of_destroying existing destroying))
  · exact startCmd_of_done ((destroyBody_of_whole existing whole).trans (if_pos used))
  · exact congrArg Host.Outcome.next
      (startCmd_of_wait ((destroyBody_of_whole existing whole).trans (if_neg (Bool.eq_false_iff.1 free))))
  · rw [modPart_eq, part_setPart_self]

/-! ### The zeroing of a partition's channels (R96, R420) -/

theorem clu_wakeCluster_ne (s : State) {n k : Nat} (ne : k ≠ n) : (s.wakeCluster n).clu k = s.clu k := by
  unfold State.wakeCluster
  split
  · exact clu_setClu_ne _ _ _ ne
  · rfl

theorem clusters_exitRefresh (s : State) (ch : Nat) : (s.exitRefresh ch).clusters = s.clusters := by
  unfold State.exitRefresh
  split <;> rfl

theorem zeroChannel_facts (s : State) (c : Nat) :
    (∀ a, (s.zeroChannel c).byteAt a = if a / 2 ^ 31 = c then 0 else s.byteAt a) ∧
      (∀ k, k ≠ c / 8 → (s.zeroChannel c).clu k = s.clu k) ∧ (s.zeroChannel c).sync = s.sync := by
  have only := (onlyCaches_wakeCluster s (c / 8)).trans (onlyCaches_exitRefresh _ c)
  refine ⟨fun a => ?_, fun k ne => ?_, ?_⟩
  · refine (get_filter_key 0 (fun x => x / 2 ^ 31 != c) _ a).trans ?_
    rw [only.mem]
    by_cases own : a / 2 ^ 31 = c
    · rw [if_pos own, if_neg (by rw [bne_iff_ne, not_not]; exact own)]
    · rw [if_neg own, if_pos (bne_iff_ne.2 own)]
      rfl
  · rw [← clu_wakeCluster_ne s ne]
    exact congrArg (Tbl.get {} · k) (clusters_exitRefresh _ c)
  · exact (congrArg State.sync only.frame).trans rfl

/-- From s to t the clusters of l were released, their channels written with zeros. -/
structure Released (l : List Nat) (s t : State) : Prop where
  freed : ∀ k ∈ l, (t.clu k).part = none ∧ (t.clu k).cache = []
  others : ∀ k, k ∉ l → t.clu k = s.clu k
  bytes : ∀ a, t.byteAt a = if a / 2 ^ 31 / 8 ∈ l then 0 else s.byteAt a
  objects : ∀ o, t.syncVal o = if o / 2048 ∈ l then 0 else s.syncVal o

/-- The channels 8 n + k of a cluster, k from a list. -/
theorem each_zeroChannel (n : Nat) (l : List Nat) (within : ∀ k ∈ l, k < 8) (s : State) :
    let t := s.each l fun s k => s.zeroChannel (8 * n + k)
    (∀ a, t.byteAt a = if ∃ k ∈ l, a / 2 ^ 31 = 8 * n + k then 0 else s.byteAt a) ∧ (∀ k, k ≠ n → t.clu k = s.clu k) ∧
      t.sync = s.sync := by
  induction l generalizing s with
  | nil => exact ⟨fun a => (if_neg (by simp)).symm, fun _ _ => rfl, rfl⟩
  | cons c l ih =>
    obtain ⟨first, rest⟩ := List.forall_mem_cons.1 within
    obtain ⟨bytes, clu, sync⟩ := zeroChannel_facts s (8 * n + c)
    obtain ⟨bytes', clu', sync'⟩ := ih rest (s.zeroChannel (8 * n + c))
    refine ⟨fun a => (bytes' a).trans ?_, fun k ne => (clu' k ne).trans (clu k (by omega)), sync'.trans sync⟩
    by_cases tail : ∃ k ∈ l, a / 2 ^ 31 = 8 * n + k
    · rw [if_pos tail, if_pos (List.exists_mem_cons_of_exists tail)]
    · rw [if_neg tail, bytes]
      exact if_congr (by rw [List.exists_mem_cons_iff, or_iff_left tail]) rfl rfl

/-- The eight channels of cluster n are written with zeros. -/
def State.zeroCluster (s : State) (n : Nat) : State := s.each (List.range 8) fun s k => s.zeroChannel (8 * n + k)

theorem zeroCluster_facts (s : State) (n : Nat) :
    (∀ a, (s.zeroCluster n).byteAt a = if a / 2 ^ 31 / 8 = n then 0 else s.byteAt a) ∧
      (∀ k, k ≠ n → (s.zeroCluster n).clu k = s.clu k) ∧ (s.zeroCluster n).sync = s.sync := by
  obtain ⟨bytes, others⟩ := each_zeroChannel n (List.range 8) (fun _ => List.mem_range.1) s
  refine ⟨fun a => (bytes a).trans (if_congr ⟨?_, fun own => ?_⟩ rfl rfl), others⟩
  · rintro ⟨k, mem, own⟩
    have := List.mem_range.1 mem
    omega
  · exact ⟨a / 2 ^ 31 % 8, List.mem_range.2 (Nat.mod_lt _ (by decide)), by omega⟩

/-- A cluster that no partition owns. -/
def CluSt.freed (k : CluSt) : CluSt := { k with part := none, rank := 0, mode := 0, cache := [] }

theorem releaseCluster_eq (s : State) (n : Nat) :
    s.releaseCluster n = ((s.zeroCluster n).modClu n CluSt.freed).clearObjects n := rfl

theorem clu_clearObjects (s : State) (n k : Nat) : (s.clearObjects n).clu k = s.clu k := rfl

theorem released_releaseCluster (n : Nat) (s : State) : Released [n] s (s.releaseCluster n) := by
  obtain ⟨bytes, clu, sync⟩ := zeroCluster_facts s n
  rw [releaseCluster_eq]
  generalize s.zeroCluster n = z at bytes clu sync ⊢
  constructor <;> simp only [List.mem_singleton]
  · rintro k rfl
    rw [clu_clearObjects, modClu_eq, clu_setClu_self]
    exact ⟨rfl, rfl⟩
  · intro k ne
    rw [clu_clearObjects, modClu_eq, clu_setClu_ne _ n _ ne, clu k ne]
  · exact bytes
  · intro o
    rw [syncVal_clearObjects, State.syncVal, modClu_eq, sync_setClu, sync, State.syncVal]

theorem released_each (l : List Nat) (s : State) : Released l s (s.each l State.releaseCluster) := by
  induction l generalizing s with
  | nil => exact ⟨nofun, fun _ _ => rfl, fun _ => rfl, fun _ => rfl⟩
  | cons n l ih =>
    have first := released_releaseCluster n s
    have rest := ih (s.releaseCluster n)
    rw [State.each, List.foldl_cons, ← State.each]
    generalize s.releaseCluster n = r at first rest ⊢
    refine ⟨fun k mem => ?_, fun k out => ?_, fun a => ?_, fun o => ?_⟩
    · by_cases tail : k ∈ l
      · exact rest.freed k tail
      · rw [rest.others k tail]
        exact first.freed k (List.mem_singleton.2 ((List.mem_cons.1 mem).resolve_right tail))
    · obtain ⟨ne, out⟩ := not_or.1 (mt List.mem_cons.2 out)
      exact (rest.others k out).trans (first.others k (mt List.mem_singleton.1 ne))
    · simp only [← ite_mem_cons, rest.bytes, first.bytes, List.mem_singleton]
    · simp only [← ite_mem_cons, rest.objects, first.objects, List.mem_singleton]

/-- What is released stays so while commands are answered. -/
theorem Released.answered {l : List Nat} {s t u : State} (released : Released l s t) (only : OnlyAnswers t u) :
    Released l s u := by
  have clu : ∀ k, u.clu k = t.clu k := fun k => by rw [State.clu, only.clusters, State.clu]
  refine ⟨fun k mem => ?_, fun k out => (clu k).trans (released.others k out), fun a => ?_, fun o => ?_⟩
  · rw [clu]
    exact released.freed k mem
  · rw [State.byteAt, only.mem]
    exact released.bytes a
  · rw [State.syncVal, only.sync]
    exact released.objects o

/-- Partition p, its clusters released, is gone with its images. -/
def State.dropPart (s : State) (p : Nat) : State :=
  { s.unloadImages p with parts := Tbl.erase s.parts p, snaps := Tbl.erase s.snaps p }

theorem destroyDone_eq (s : State) (p : Nat) : s.destroyDone p =
    ((s.each (s.part p).clusters State.releaseCluster).dropPart p).finishWhere (fun c => c.wait == .zeroing p) stOk := rfl

theorem destroyDone_facts (s : State) (p : Nat) : Released (s.part p).clusters s (s.destroyDone p) ∧
    ((s.destroyDone p).part p).exists_ = false ∧ ∀ c ∈ (s.destroyDone p).cmds, c.wait ≠ .zeroing p := by
  obtain ⟨freed, others, bytes, objects⟩ := released_each (s.part p).clusters s
  rw [destroyDone_eq]
  generalize s.each (s.part p).clusters State.releaseCluster = t at freed others bytes objects ⊢
  have dropped : Released (s.part p).clusters s (t.dropPart p) := ⟨freed, others, bytes, objects⟩
  have answered := onlyAnswers_finishWhere (t.dropPart p) (fun c => c.wait == .zeroing p) stOk
  refine ⟨dropped.answered answered, ?_, fun c mem => ne_of_beq_false (finishWhere_ends mem)⟩
  rw [State.part, answered.parts]
  exact congrArg Part.exists_ (Tbl.get_erase_self {} t.parts p)

theorem exec_channelZeroingDone (p : Fin 16) (s : State) : exec (.channelZeroingDone p) s =
    .next (s.when (s.part p.val).destroying fun s => s.destroyDone p.val) := rfl

theorem destroyPartitionCommand : Claims.DestroyPartitionCommand := by
  refine ⟨destroyPartition_starts, fun p s whole => ?_, fun p s _ destroying => ?_⟩
  · rw [exec_channelZeroingDone, when_false whole]
  · obtain ⟨released, gone, ended⟩ := destroyDone_facts s p.val
    exact ⟨_, by rw [exec_channelZeroingDone, when_true destroying], gone, released.freed, released.others, released.bytes,
      released.objects, ended⟩

/-- Settles O31: the two commands by their checks and their effects above. -/
theorem partitionCommands : Obligations.PartitionCommands := ⟨createPartitionCommand, destroyPartitionCommand⟩

end Sys2Proof.Machine
end

section
/-! PROOFS. WRITE_MEMORY, FILL_MEMORY and READ_MEMORY (R90, R98, R99, R312, R367 to R369): what a write through the home caches
leaves of memory whatever its lines, and the checks, the data and the completions of the three commands. -/

namespace Sys2Proof.Machine

/-! ### Writes of any lines (R98, R99) -/

/-- The DRAM line of a partition address, as `badLines` lists it. -/
def Part.lineAt (p : Part) (A : Nat) : Nat := ((p.place A).1 * 2 ^ 31 + (p.place A).2 / 128 * 128) / 128

/-- Bytes within a line reach memory, and an error of a line that they fill ends. -/
def State.putBytes (s : State) (p : Part) (A : Nat) (bs : Bytes) : State :=
  { s with mem := writeBytes s.mem (p.phys A) bs, badLines := s.badLines.filter (· != p.lineAt A) }

/-- A write within a line: refused where it fills a failing line in part only, else put there. -/
theorem writeInLine_eq (s : State) (p : Part) (h : Hint) (A : Nat) (bs : Bytes) : s.writeInLine p h A bs =
    let ch := (p.place A).1
    let u := s.wakeCluster (ch / 8)
    if s.badLines.contains (p.lineAt A) && !(bs.length == 128) then
      ((u.exitRefresh ch).logBad (ch * 2 ^ 31 + (p.place A).2 / 128 * 128), true)
    else ((u.putBytes p A bs).settleLine ch ((p.place A).2 / 128) h (bs.length == 128), false) := by
  rw [State.writeInLine]
  simp only [State.settleLine]
  refine if_congr Iff.rfl rfl ?_
  rw [apply_ite (·, false), apply_ite (·, false)]
  rfl

theorem writeInLine_mem (s : State) (p : Part) (h : Hint) (A : Nat) (bs : Bytes) :
    (s.writeInLine p h A bs).1.mem = s.mem ∨ (s.writeInLine p h A bs).1.mem = writeBytes s.mem (p.phys A) bs := by
  have woken := onlyCaches_wakeCluster s ((p.place A).1 / 8)
  rw [writeInLine_eq]
  dsimp only
  split
  · exact .inl (woken.trans ((onlyCaches_exitRefresh _ _).trans (onlyCaches_logBad _ _))).mem
  · refine .inr ((onlyCaches_settleLine _ _ _ _ _).mem.trans ?_)
    rw [State.putBytes, woken.mem]

/-- Within a line, a write changes no byte but those it names. -/
theorem byteAt_writeInLine {s : State} {p : Part} {h : Hint} {A : Nat} {bs : Bytes} {a : Nat} (line : A % 128 + bs.length ≤ 128)
    (out : ∀ k, k < bs.length → p.phys (A + k) ≠ a) : (s.writeInLine p h A bs).1.byteAt a = s.byteAt a := by
  obtain same | written := writeInLine_mem s p h A bs
  · rw [State.byteAt, same, State.byteAt]
  · rw [State.byteAt, written, State.byteAt]
    refine get_writeBytes_of_outside ?_
    by_contra inside
    refine out (a - p.phys A) (by omega) ?_
    rw [phys_add (by omega)]
    omega

theorem byteAt_writeLines (p : Part) (h : Hint) (fuel : Nat) {s : State} (A : Nat) (bs : Bytes) {a : Nat}
    (out : ∀ k, k < bs.length → p.phys (A + k) ≠ a) : (s.writeLines p h fuel A bs).1.byteAt a = s.byteAt a := by
  induction fuel generalizing s A bs with
  | zero => rfl
  | succ fuel ih =>
    rw [State.writeLines]
    split
    · rfl
    · have first : (s.writeInLine p h A (bs.take (128 - A % 128))).1.byteAt a = s.byteAt a :=
        byteAt_writeInLine (by rw [List.length_take]; omega) fun k below =>
          out k (by rw [List.length_take] at below; omega)
      refine (ih (A + (128 - A % 128)) (bs.drop (128 - A % 128)) fun k below => ?_).trans first
      rw [List.length_drop] at below
      rw [Nat.add_assoc]
      exact out _ (by omega)

/-- A write changes no byte but those it names. -/
theorem byteAt_writePart {s : State} {p : Part} {h : Hint} {A : Nat} {bs : Bytes} {a : Nat}
    (out : ∀ k, k < bs.length → p.phys (A + k) ≠ a) : (s.writePart p h A bs).1.byteAt a = s.byteAt a :=
  byteAt_writeLines p h _ A bs out

/-- A command's write of one piece: no byte but those it names changes, none if it is refused, and lines without an error
refuse nothing. -/
theorem writeWholly_facts (s : State) (p : Part) (h : Hint) (A : Nat) (bs : Bytes) : let w := s.writeWholly p h A bs
    (∀ a, (∀ k, k < bs.length → p.phys (A + k) ≠ a) → w.1.byteAt a = s.byteAt a) ∧ (w.2 = true → w.1.mem = s.mem) ∧
      (s.badLines = [] → w.2 = false) := by
  have whole : s.writeWholly p h A bs = if (s.partlyBad p A bs.length).isEmpty then ((s.writePart p h A bs).1, false)
      else ((s.partlyBad p A bs.length).foldl (fun s l => (s.readLine p h (l * 128)).1) s, true) := by
    simp only [State.writeWholly, State.writeAll, List.flatMap_cons, List.flatMap_nil, List.append_nil, State.each,
      List.foldl_cons, List.foldl_nil]
  rw [whole]
  split
  · exact ⟨fun a out => byteAt_writePart out, nofun, fun _ => rfl⟩
  · next refused =>
    have mem : OnlyCaches s ((s.partlyBad p A bs.length).foldl (fun s l => (s.readLine p h (l * 128)).1) s) :=
      List.foldlRecOn (motive := OnlyCaches s) _ _ (.refl s) fun t only l _ => only.trans (onlyCaches_readLine t p h _)
    refine ⟨fun a _ => congrArg (Tbl.get 0 · a) mem.mem, fun _ => mem.mem, fun sound => absurd ?_ refused⟩
    rw [List.isEmpty_iff, State.partlyBad, List.filter_eq_nil_iff, sound]
    exact fun l _ => by simp

/-! ### The checks of a write (R90, R202, R362, R367) -/

/-- The checks of a write, each with what is answered where it refuses. -/
theorem writeChecks_refusals {s : State} {p A n : Nat} {answers : BitVec 16 → Prop}
    (refused : ∀ st, s.writeChecks p A n = some st → answers st) :
    (n = 0 → answers stBadField) ∧
    (n ≠ 0 → (s.stateOverlap p A n false || s.imageOverlap p A n || s.laneProtects p A n) = true → answers stStateBusy) ∧
    (n ≠ 0 → (s.stateOverlap p A n false || s.imageOverlap p A n || s.laneProtects p A n) = false →
      (s.part p).inside A n = false → answers stOutOfBounds) := by
  refine ⟨fun empty => refused _ ?_, fun some_ busy => refused _ ?_, fun some_ free beyond => refused _ ?_⟩
  · rw [State.writeChecks, if_pos empty]
  · rw [State.writeChecks, if_neg some_, if_pos busy]
  · rw [State.writeChecks, if_neg some_, if_neg (Bool.eq_false_iff.1 free), beyond]
    rfl

/-- What the memory commands read of a state is the same once it has accepted the command. -/
theorem memory_accepted (s : State) (src : Src) : (s.accepted src).mem = s.mem ∧ (s.accepted src).badLines = s.badLines ∧
    (∀ p A n, (s.accepted src).writeChecks p A n = s.writeChecks p A n) ∧
    (∀ tag, (s.accepted src).tagPending src tag = s.tagPending src tag) ∧ ∀ p, (s.accepted src).part p = s.part p := by
  cases src <;> exact ⟨rfl, rfl, fun _ _ _ => rfl, fun _ => rfl, fun _ => rfl⟩

/-! ### WRITE_MEMORY and FILL_MEMORY (R367, R369) -/

theorem writeStatus_of_mismatch {data : Bytes} {check : Option (BitVec 16)} {bad : Bool} (given : check.isSome = true)
    (differs : check ≠ some (crc16 data)) : writeStatus data check bad = stLinkCrc := by
  rw [writeStatus, given, bne_iff_ne.2 differs]
  rfl

theorem writeStatus_of_match {data : Bytes} {check : Option (BitVec 16)} {bad : Bool}
    (sound : check = none ∨ check = some (crc16 data)) :
    writeStatus data check bad = if bad then stEccUncorrectable else stOk := by
  obtain rfl | rfl := sound
  · rfl
  · rw [writeStatus, bne_self_eq_false, Bool.and_false]
    rfl

section
variable {s : State} {r : Req}

theorem writeMemoryBody_of_tag (packets : inlineFlag r.p = false) (taken : r.src = .i3c ∨ s.tagPending r.src r.hdr.tag = true) :
    writeMemoryBody s r = .done s stBadField [] := by
  have busy : (r.src == .i3c || s.tagPending r.src r.hdr.tag) = true := by rwa [Bool.or_eq_true, beq_iff_eq]
  simp only [writeMemoryBody, packets, busy, Bool.not_false, Bool.and_true, if_true]

/-- The data are inline, or come in packets under a tag of their own: the checks of the range decide. -/
theorem writeMemoryBody_of_free
    (free : inlineFlag r.p = true ∨ (r.src ≠ .i3c ∧ s.tagPending r.src r.hdr.tag = false)) : writeMemoryBody s r =
      match s.writeChecks r.hdr.part.val (fieldAt r.p 0 5) (fieldAt r.p 8 4) with
      | some st => .done s st []
      | none =>
        if inlineFlag r.p then
          if writeStatus (r.p.drop 16) (dcrcOf r.p) false ≠ stOk then
            .done (s.writePart (s.part r.hdr.part.val) .normal (fieldAt r.p 0 5) (r.p.drop 16)).1
              (writeStatus (r.p.drop 16) (dcrcOf r.p) false) []
          else
            .done (s.writeWholly (s.part r.hdr.part.val) .normal (fieldAt r.p 0 5) (r.p.drop 16)).1
              (if (s.writeWholly (s.part r.hdr.part.val) .normal (fieldAt r.p 0 5) (r.p.drop 16)).2 then stEccUncorrectable
                else stOk) []
        else .wait s (.writeData (fieldAt r.p 0 5) (fieldAt r.p 8 4) [] [] (dcrcOf r.p) false) := by
  have passes : (!inlineFlag r.p && (r.src == .i3c || s.tagPending r.src r.hdr.tag)) = false := by
    obtain inl | ⟨net, new⟩ := free
    · rw [inl]
      rfl
    · rw [beq_false_of_ne net, new, Bool.or_false, Bool.and_false]
  rw [writeMemoryBody, passes]
  rfl

theorem writeMemoryBody_of_refused {st : BitVec 16}
    (free : inlineFlag r.p = true ∨ (r.src ≠ .i3c ∧ s.tagPending r.src r.hdr.tag = false))
    (refused : s.writeChecks r.hdr.part.val (fieldAt r.p 0 5) (fieldAt r.p 8 4) = some st) :
    writeMemoryBody s r = .done s st [] := by
  rw [writeMemoryBody_of_free free, refused]

variable (passed : s.writeChecks r.hdr.part.val (fieldAt r.p 0 5) (fieldAt r.p 8 4) = none)
include passed

theorem writeMemoryBody_of_packets (packets : inlineFlag r.p = false) (net : r.src ≠ .i3c)
    (new : s.tagPending r.src r.hdr.tag = false) : writeMemoryBody s r =
      .wait s (.writeData (fieldAt r.p 0 5) (fieldAt r.p 8 4) [] [] (dcrcOf r.p) false) := by
  rw [writeMemoryBody_of_free (.inr ⟨net, new⟩), passed, packets]
  rfl

variable (inl : inlineFlag r.p = true)
include inl

theorem writeMemoryBody_of_mismatch (given : (dcrcOf r.p).isSome = true) (differs : dcrcOf r.p ≠ some (crc16 (r.p.drop 16))) :
    writeMemoryBody s r =
      .done (s.writePart (s.part r.hdr.part.val) .normal (fieldAt r.p 0 5) (r.p.drop 16)).1 stLinkCrc [] := by
  rw [writeMemoryBody_of_free (.inl inl), passed, inl, writeStatus_of_mismatch given differs]
  rfl

theorem writeMemoryBody_of_match (sound : dcrcOf r.p = none ∨ dcrcOf r.p = some (crc16 (r.p.drop 16))) :
    writeMemoryBody s r =
      .done (s.writeWholly (s.part r.hdr.part.val) .normal (fieldAt r.p 0 5) (r.p.drop 16)).1
        (if (s.writeWholly (s.part r.hdr.part.val) .normal (fieldAt r.p 0 5) (r.p.drop 16)).2 then stEccUncorrectable
          else stOk) [] := by
  rw [writeMemoryBody_of_free (.inl inl), passed, inl, writeStatus_of_match sound]
  rfl

end

theorem fillMemoryBody_of_refused {s : State} {r : Req} {st : BitVec 16}
    (refused : s.writeChecks r.hdr.part.val (fieldAt r.p 0 5) (fieldAt r.p 8 8) = some st) :
    fillMemoryBody s r = .done s st [] := by
  simp only [fillMemoryBody, refused]

theorem fillMemoryBody_of_passed {s : State} {r : Req}
    (passed : s.writeChecks r.hdr.part.val (fieldAt r.p 0 5) (fieldAt r.p 8 8) = none) :
    let w := s.writeWholly (s.part r.hdr.part.val) .normal (fieldAt r.p 0 5) (fillBytes (fieldAt r.p 16 4) (fieldAt r.p 8 8))
    fillMemoryBody s r = .done w.1 (if w.2 then stEccUncorrectable else stOk) [] := by
  simp only [fillMemoryBody, passed]

theorem memoryWriteCommands : Claims.MemoryWriteCommands := by
  intro src hdr b s n p A check writes
  obtain ⟨mem, lines, checks, tags, parts⟩ := memory_accepted s src
  have bytes (a : Nat) : n.byteAt a = s.byteAt a := by rw [State.byteAt, mem, State.byteAt]
  have whole (data : Bytes) : let w := n.writeWholly (s.part p) .normal A data
      (∀ a, (∀ i, i < data.length → (s.part p).phys (A + i) ≠ a) → w.1.byteAt a = s.byteAt a) ∧
        (w.2 = true → w.1.mem = s.mem) ∧ (s.badLines = [] → w.2 = false) := by
    rw [← lines, ← mem]
    obtain ⟨frame, kept, sound⟩ := writeWholly_facts n (s.part p) .normal A data
    exact ⟨fun a out => (frame a out).trans (bytes a), kept, sound⟩
  refine ⟨fun taken => ?_, fun taken => ?_⟩
  · intro out len
    have started : out = .next (n.startCmd writeMemorySpec (s.request 0x50 src hdr b)) := exec_of_taken rfl rfl taken
    rw [started]
    have refusals (free : inlineFlag b = true ∨ (src ≠ .i3c ∧ n.tagPending src hdr.tag = false)) :
        check 0x50 len (.next (n.startCmd writeMemorySpec (s.request 0x50 src hdr b))) :=
      writeChecks_refusals (answers := fun st => Completes 0x50 src hdr n st [] _) fun st refused =>
        startCmd_of_done (writeMemoryBody_of_refused (s := n) free ((checks p A len).trans refused))
    refine ⟨fun inl => ⟨refusals (.inl inl), fun passed => ⟨fun given differs => ⟨?_, fun a beyond => ?_⟩, fun sound =>
      ⟨?_, whole _⟩⟩⟩, fun packets used => ?_, fun packets net new => ⟨refusals (.inr ⟨net, (tags _).trans new⟩), fun passed => ?_⟩⟩
    · rw [← parts p]
      exact startCmd_of_done (writeMemoryBody_of_mismatch ((checks p A len).trans passed) inl given differs)
    · exact (byteAt_writePart beyond).trans (bytes a)
    · rw [← parts p]
      exact startCmd_of_done (writeMemoryBody_of_match ((checks p A len).trans passed) inl sound)
    · rw [← tags] at used
      exact startCmd_of_done (writeMemoryBody_of_tag packets used)
    · exact congrArg Host.Outcome.next (startCmd_of_wait
        (writeMemoryBody_of_packets ((checks p A len).trans passed) packets net ((tags _).trans new)))
  · intro out len
    have started : out = .next (n.startCmd fillMemorySpec (s.request 0x52 src hdr b)) := exec_of_taken rfl rfl taken
    rw [started]
    refine ⟨writeChecks_refusals (answers := fun st => Completes 0x52 src hdr n st [] _) fun st refused =>
      startCmd_of_done (fillMemoryBody_of_refused (s := n) ((checks p A len).trans refused)), fun passed =>
        ⟨nofun, fun _ => ⟨?_, whole _⟩⟩⟩
    rw [← parts p]
    exact startCmd_of_done (fillMemoryBody_of_passed ((checks p A len).trans passed))

/-! ### The data of a WRITE_MEMORY in packets (R312, R367) -/

theorem writeArrives_of_none {s : State} {port : Nat} {src : Src} {b : Bytes}
    (none_ : s.writer src (BitVec.ofNat 16 (fieldAt b 0 2)) = none) : s.writeArrives port src b = s.discardOn port := by
  simp only [State.writeArrives, dataTag, none_]

theorem writeArrives_of_writer {s : State} {port : Nat} {src : Src} {b : Bytes} {c : Cmd} {A n : Nat}
    {got : List (Nat × Nat)} {data : Tbl (BitVec 8)} {check : Option (BitVec 16)} {bad : Bool}
    (writer : s.writer src (BitVec.ofNat 16 (fieldAt b 0 2)) = some c) (waits : c.wait = .writeData A n got data check bad) :
    let off := fieldAt b 4 4
    let d := b.drop 16
    let w := s.writePart (s.part c.part) .normal (A + off) d
    let all := writeBytes data off d
    s.writeArrives port src b =
      if d.isEmpty || decide (n < off + d.length) then s.discardOn port
      else if covered ((off, d.length) :: got) 0 n then
        w.1.finishCmd c.id (writeStatus (readBytes all 0 n) check (bad || !w.2.isEmpty))
      else w.1.setWait c.id (.writeData A n ((off, d.length) :: got) all check (bad || !w.2.isEmpty)) := by
  simp only [State.writeArrives, dataTag, writer, waits]
  rfl

theorem writeStatus_eq (data : Bytes) (check : Option (BitVec 16)) (bad : Bool) : writeStatus data check bad =
    if check.isSome = true ∧ check ≠ some (crc16 data) then stLinkCrc else if bad then stEccUncorrectable else stOk := by
  rw [writeStatus]
  exact if_congr (by rw [Bool.and_eq_true, bne_iff_ne]) rfl rfl

theorem exec_memoryWriteData {vc : Nat} (other : vc ≠ 11) (port : Fin 3) (src : BitVec 12) (b : Bytes) (s : State) :
    exec (.memoryWriteData port src vc b) s = .next (s.writeArrives port.val (if port.val = 2 then .spur else .dev src) b) :=
  congrArg Host.Outcome.next (if_neg other)

theorem finishCmd_of_found {s : State} {c : Cmd} (found : s.cmds.find? (·.id == c.id) = some c) (st : BitVec 16)
    (res : Bytes) : s.finishCmd c.id st res = s.ended c st res := by
  rw [State.finishCmd, State.endCmd, found]
  rfl

theorem memoryDataPackets : Claims.MemoryDataPackets := by
  refine ⟨fun port src vc b s other => ?_, fun c s found => ⟨fun A n got data check bad waits => ?_, fun others => ?_⟩⟩
  · intro from_ off d tag out
    have arrives : out = .next (s.writeArrives port.val from_ b) := exec_memoryWriteData other port src b s
    rw [arrives]
    refine ⟨fun none_ => congrArg Host.Outcome.next (writeArrives_of_none none_), fun c A n got data check bad writer waits => ?_⟩
    rw [writeArrives_of_writer writer waits]
    refine ⟨fun discarded => congrArg Host.Outcome.next (if_pos ?_), fun some_ inside => ?_⟩
    · rwa [Bool.or_eq_true, List.isEmpty_iff, decide_eq_true_eq]
    · have kept : ¬ (d.isEmpty || decide (n < off + d.length)) = true := by
        rw [Bool.or_eq_true, List.isEmpty_iff, decide_eq_true_eq]
        exact not_or.2 ⟨some_, Nat.not_lt.2 inside⟩
      rw [if_neg kept, writeStatus_eq]
      exact ⟨fun all => congrArg Host.Outcome.next (if_pos all),
        fun part => congrArg Host.Outcome.next (if_neg (Bool.eq_false_iff.1 part))⟩
  · rw [← finishCmd_of_found found]
    exact congrArg Host.Outcome.next (by simp only [found, waits])
  · exact congrArg Host.Outcome.next (by simp only [found])

/-! ### READ_MEMORY (R368) -/

theorem onlyCaches_readUntil (s : State) (p : Part) (A n : Nat) : OnlyCaches s (s.readUntil p A n).1 :=
  List.foldlRecOn (motive := fun acc : State × Option Nat => OnlyCaches s acc.1) (linesOf A n) _ (.refl s)
    fun acc before l _ => by
      obtain ⟨t, ended⟩ := acc
      cases ended with
      | some _ => exact before
      | none => exact before.trans (onlyCaches_readLine t p _ _)

/-- The bytes that a read returns are those before the line that ended it. -/
theorem readUntil_bytes (s : State) (p : Part) (A n : Nat) : (s.readUntil p A n).2.1 =
    (List.range ((s.readUntil p A n).2.2.getD n)).map fun i => s.byteAt (p.phys (A + i)) := by
  rw [show (s.readUntil p A n).2.1 = (s.readUntil p A n).1.partBytes p A ((s.readUntil p A n).2.2.getD n) from rfl,
    State.partBytes, (onlyCaches_readUntil s p A n).mem]
  rfl

/-- What a read answers beside its bytes: the offset of the line that ended it, or the CRC of its bytes (R368). -/
def readResults (bytes : Bytes) (ended : Option Nat) : Bytes :=
  match ended with
  | some off => leBytes 4 off
  | none => leBytes 2 (crc16 bytes).toNat ++ leBytes 2 0

section
variable {s : State} {r : Req}

theorem readMemoryBody_of_bad (bad : fieldAt r.p 8 4 = 0 ∨ (inlineFlag r.p = false ∧ r.src = .i3c)) :
    readMemoryBody s r = .done s stBadField [] := by
  rw [readMemoryBody]
  exact if_pos (by simpa only [Bool.not_eq_true'] using bad)

variable (some_ : fieldAt r.p 8 4 ≠ 0)
include some_

theorem readMemoryBody_of_long (inl : inlineFlag r.p = true) (long : inlineMax r.src < fieldAt r.p 8 4) :
    readMemoryBody s r = .done s stBadLength [] := by
  rw [readMemoryBody, if_neg (by simp [some_, inl]), inl, decide_eq_true long]
  rfl

variable (short : inlineFlag r.p = true → fieldAt r.p 8 4 ≤ inlineMax r.src) (net : inlineFlag r.p = false → r.src ≠ .i3c)
include short net

/-- The fields may be carried out: the bounds decide. -/
theorem readMemoryBody_of_good : readMemoryBody s r =
    if !(s.part r.hdr.part.val).inside (fieldAt r.p 0 5) (fieldAt r.p 8 4) then .done s stOutOfBounds []
    else
      let rd := s.readUntil (s.part r.hdr.part.val) (fieldAt r.p 0 5) (fieldAt r.p 8 4)
      let st := if rd.2.2.isSome then stEccUncorrectable else stOk
      let res := readResults rd.2.1 rd.2.2
      if inlineFlag r.p then .done rd.1 st (if rd.2.2.isSome then res else res ++ rd.2.1)
      else if rd.2.1.isEmpty then .done rd.1 st res
      else .wait (rd.1.sendReadData r (fieldAt r.p 8 4 / dataMax + 1) 0 rd.2.1) (.readData st res) := by
  have carried : ¬ (fieldAt r.p 8 4 = 0 ∨ ((!inlineFlag r.p) = true ∧ r.src = .i3c)) := by
    rw [Bool.not_eq_true']
    exact not_or.2 ⟨some_, fun bad => net bad.1 bad.2⟩
  have fits : ¬ (inlineFlag r.p && decide (inlineMax r.src < fieldAt r.p 8 4)) = true := by
    rw [Bool.and_eq_true, decide_eq_true_eq]
    exact fun long => Nat.not_lt.2 (short long.1) long.2
  rw [readMemoryBody, if_neg carried, if_neg fits]
  rfl

theorem readMemoryBody_of_beyond (beyond : (s.part r.hdr.part.val).inside (fieldAt r.p 0 5) (fieldAt r.p 8 4) = false) :
    readMemoryBody s r = .done s stOutOfBounds [] := by
  rw [readMemoryBody_of_good some_ short net, beyond]
  rfl

variable {t : State} {bytes : Bytes} (inside : (s.part r.hdr.part.val).inside (fieldAt r.p 0 5) (fieldAt r.p 8 4) = true)
include inside

/-- All lines read. -/
theorem readMemoryBody_of_read
    (read : s.readUntil (s.part r.hdr.part.val) (fieldAt r.p 0 5) (fieldAt r.p 8 4) = (t, bytes, none)) :
    let crc := leBytes 2 (crc16 bytes).toNat ++ leBytes 2 0
    readMemoryBody s r =
      if inlineFlag r.p then .done t stOk (crc ++ bytes)
      else if bytes.isEmpty then .done t stOk crc
      else .wait (t.sendReadData r (fieldAt r.p 8 4 / dataMax + 1) 0 bytes) (.readData stOk crc) := by
  rw [readMemoryBody_of_good some_ short net, inside, read]
  rfl

/-- A line of the range reads with an uncorrectable error. -/
theorem readMemoryBody_of_failed {off : Nat}
    (read : s.readUntil (s.part r.hdr.part.val) (fieldAt r.p 0 5) (fieldAt r.p 8 4) = (t, bytes, some off)) :
    readMemoryBody s r =
      if inlineFlag r.p then .done t stEccUncorrectable (leBytes 4 off)
      else if bytes.isEmpty then .done t stEccUncorrectable (leBytes 4 off)
      else .wait (t.sendReadData r (fieldAt r.p 8 4 / dataMax + 1) 0 bytes) (.readData stEccUncorrectable (leBytes 4 off)) := by
  rw [readMemoryBody_of_good some_ short net, inside, read]
  rfl

end

/-- The longest inline read by its source. -/
theorem inlineMax_eq (src : Src) : inlineMax src = if src = .i3c then 236 else 65483 := by
  cases src <;> rfl

theorem memoryReadCommand : Claims.MemoryReadCommand := by
  intro src hdr b s taken n p A len most out rd
  obtain ⟨mem, _, _, _, parts⟩ := memory_accepted s src
  have started : out = .next (n.startCmd readMemorySpec (s.request 0x51 src hdr b)) := exec_of_taken rfl rfl taken
  have same : p = n.part hdr.part.val := (parts _).symm
  rw [started, same]
  refine ⟨fun bad => startCmd_of_done (readMemoryBody_of_bad bad), fun some_ inl long =>
    startCmd_of_done (readMemoryBody_of_long some_ inl (inlineMax_eq src ▸ long)), fun some_ short net => ?_⟩
  replace short : inlineFlag b = true → len ≤ inlineMax src := inlineMax_eq src ▸ short
  refine ⟨fun beyond => startCmd_of_done (readMemoryBody_of_beyond some_ short net beyond), fun inside => ?_⟩
  have kept : rd.1.mem = s.mem := (onlyCaches_readUntil n p A len).mem.trans mem
  have bytes : rd.2.1 = (List.range (rd.2.2.getD len)).map fun i => s.byteAt (p.phys (A + i)) :=
    (readUntil_bytes n p A len).trans (List.map_congr_left fun i _ => congrArg (Tbl.get 0 · _) mem)
  have read : n.readUntil (n.part hdr.part.val) A len = rd := congrArg (n.readUntil · A len) same.symm
  rw [same] at bytes
  clear_value rd
  obtain ⟨t, got, ended⟩ := rd
  refine ⟨kept, fun whole => ?_, fun off stopped => ?_, fun off stopped => ?_⟩
  · obtain rfl : ended = none := whole
    have body := readMemoryBody_of_read (r := s.request 0x51 src hdr b) some_ short net inside read
    refine ⟨bytes, fun inl => startCmd_of_done (body.trans (if_pos inl)), fun packets => ?_⟩
    have full : ¬ got.isEmpty = true := by
      rw [show got = _ from bytes]
      simpa using some_
    exact congrArg Host.Outcome.next
      (startCmd_of_wait (body.trans ((if_neg (Bool.eq_false_iff.1 packets)).trans (if_neg full))))
  all_goals
    obtain rfl : ended = some off := stopped
    have body := readMemoryBody_of_failed (r := s.request 0x51 src hdr b) some_ short net inside read
  · rintro (inl | empty)
    · exact startCmd_of_done (body.trans (if_pos inl))
    · refine startCmd_of_done (body.trans ((congrArg _ (if_pos ?_)).trans (ite_self _)))
      rw [show got = [] from empty]
      rfl
  · intro packets some_bytes
    have full : ¬ got.isEmpty = true := mt List.isEmpty_iff.1 some_bytes
    exact congrArg Host.Outcome.next
      (startCmd_of_wait (body.trans ((if_neg (Bool.eq_false_iff.1 packets)).trans (if_neg full))))

/-- Settles O39: the writes, the data packets and the reads by their checks and frames above. -/
theorem memoryCommands : Obligations.MemoryCommands := ⟨memoryWriteCommands, memoryDataPackets, memoryReadCommand⟩

end Sys2Proof.Machine
end

section
/-! PROOFS. Units that fail (R383 to R386, R443): nothing that follows a unit's failure touches the maps of failed units. -/

namespace Sys2Proof.Machine

/-! ### The maps of units (R380 to R382) -/

/-- The three maps of units absent and failed. -/
def State.unitMaps (s : State) : Tbl Nat × Tbl Nat × Tbl Nat := (s.coreMap, s.millMap, s.narrowMap)

/-- From s to t the maps of units stay as they are. -/
structure SameUnits (s t : State) : Prop where
  maps : t.unitMaps = s.unitMaps

theorem SameUnits.unitState {s t : State} (same : SameUnits s t) (u : UnitId) : t.unitState u = s.unitState u := by
  obtain ⟨core, rest⟩ := Prod.ext_iff.1 same.maps
  obtain ⟨mill, narrow⟩ := Prod.ext_iff.1 rest
  cases u with
  | core g => exact congrArg (Tbl.get 0 · g.val) core
  | mill g => exact congrArg (Tbl.get 0 · g.val) mill
  | narrow n => exact congrArg (Tbl.get 0 · n.val) narrow

theorem unitState_markFailed (s : State) (u : UnitId) : (s.markFailed u).unitState u = 2 := by
  cases u with
  | core g => exact Tbl.get_set_self 0 2 s.coreMap g.val
  | mill g => exact Tbl.get_set_self 0 2 s.millMap g.val
  | narrow n => exact Tbl.get_set_self 0 2 s.narrowMap n.val

theorem SameUnits.refl (s : State) : SameUnits s s := ⟨rfl⟩

theorem SameUnits.trans {s t u : State} (a : SameUnits s t) (b : SameUnits t u) : SameUnits s u := ⟨b.maps.trans a.maps⟩

theorem OnlyCaches.sameUnits {s t : State} (only : OnlyCaches s t) : SameUnits s t := by
  rw [only.frame]
  exact ⟨rfl⟩

theorem OnlyAnswers.sameUnits {s t : State} (only : OnlyAnswers s t) : SameUnits s t := by
  rw [← only.frame]
  exact ⟨rfl⟩

section
variable {s0 s : State}

theorem sameUnits_ite {c : Prop} [Decidable c] {t : State} (yes : SameUnits s0 s) (no : SameUnits s0 t) :
    SameUnits s0 (if c then s else t) := by
  split
  · exact yes
  · exact no

theorem sameUnits_each {α : Type} {l : List α} {f : State → α → State} (h : SameUnits s0 s)
    (step : ∀ s x, SameUnits s0 s → SameUnits s0 (f s x)) : SameUnits s0 (s.each l f) := each_of_step step l h

variable (h : SameUnits s0 s)
include h

theorem sameUnits_modShare {g j : Nat} {f : ShareSt → ShareSt} : SameUnits s0 (s.modShare g j f) := ⟨h.maps⟩
theorem sameUnits_modClu {n : Nat} {f : CluSt → CluSt} : SameUnits s0 (s.modClu n f) := ⟨h.maps⟩
theorem sameUnits_modEntry {i : Nat} {f : Entry → Entry} : SameUnits s0 (s.modEntry i f) := ⟨h.maps⟩
theorem sameUnits_setEntry {i : Nat} {e : Entry} : SameUnits s0 (s.setEntry i e) := ⟨h.maps⟩
theorem sameUnits_modCtx {c : Nat} {f : Ctx → Ctx} : SameUnits s0 (s.modCtx c f) := ⟨h.maps⟩
theorem sameUnits_setCtx {c : Nat} {x : Option Ctx} : SameUnits s0 (s.setCtx c x) := ⟨h.maps⟩
theorem sameUnits_setRope {r : Nat} {x : Option Rope} : SameUnits s0 (s.setRope r x) := ⟨h.maps⟩
theorem sameUnits_bump {a lo n m : Nat} : SameUnits s0 (s.bump a lo n m) := ⟨h.maps⟩

theorem sameUnits_finishCmd {id : Nat} {st : BitVec 16} : SameUnits s0 (s.finishCmd id st) :=
  h.trans (onlyAnswers_finishCmd s id st []).sameUnits

theorem sameUnits_finishWhere {f : Cmd → Bool} {st : BitVec 16} : SameUnits s0 (s.finishWhere f st) :=
  h.trans (onlyAnswers_finishWhere s f st).sameUnits

/-! ### Streams and Dockets (R84, R197, R200) -/

theorem sameUnits_endPark {i : Nat} {st : BitVec 16} : SameUnits s0 (s.endPark i st) :=
  sameUnits_finishWhere (sameUnits_modEntry h)

theorem sameUnits_faultStream {i : Nat} {st : BitVec 16} : SameUnits s0 (s.faultStream i st) :=
  sameUnits_ite h (sameUnits_endPark (sameUnits_setEntry h))

theorem sameUnits_reval {i : Nat} : SameUnits s0 (s.reval i) := by
  unfold State.reval
  dsimp only
  split <;> exact ⟨h.maps⟩

theorem sameUnits_released {i : Nat} : SameUnits s0 (s.released i) :=
  sameUnits_ite (sameUnits_ite (sameUnits_setEntry h) h) (sameUnits_reval h)

theorem sameUnits_retireDocket {r : Nat} {seq : Word} : SameUnits s0 (s.retireDocket r seq) := by
  unfold State.retireDocket
  split
  · exact h
  · exact sameUnits_each ⟨h.maps⟩ fun _ _ h => sameUnits_released h

theorem sameUnits_dropDockets {r : Nat} : SameUnits s0 (s.dropDockets r) :=
  sameUnits_each h fun _ _ h =>
    sameUnits_retireDocket (sameUnits_each h fun _ _ h => sameUnits_ite (sameUnits_modEntry h) h)

theorem sameUnits_writeInLine {p : Part} {hint : Hint} {A : Nat} {bs : Bytes} :
    SameUnits s0 (s.writeInLine p hint A bs).1 := by
  have woken := onlyCaches_wakeCluster s ((p.place A).1 / 8)
  rw [writeInLine_eq]
  dsimp only
  split
  · exact h.trans (woken.trans ((onlyCaches_exitRefresh _ _).trans (onlyCaches_logBad _ _))).sameUnits
  · have put : SameUnits s0 ((s.wakeCluster ((p.place A).1 / 8)).putBytes p A bs) := ⟨(h.trans woken.sameUnits).maps⟩
    exact put.trans (onlyCaches_settleLine _ _ _ _ _).sameUnits

theorem sameUnits_writePart {p : Part} {hint : Hint} {A : Nat} {bs : Bytes} : SameUnits s0 (s.writePart p hint A bs).1 := by
  suffices lines : ∀ fuel (s : State) A bs, SameUnits s0 s → SameUnits s0 (s.writeLines p hint fuel A bs).1 from
    lines _ s A bs h
  intro fuel
  induction fuel with
  | zero => exact fun _ _ _ h => h
  | succ fuel ih =>
    intro s A bs h
    rw [State.writeLines]
    split
    · exact h
    · exact ih _ _ _ (sameUnits_writeInLine h)

theorem sameUnits_writeWhole {p : Part} {A : Nat} {bs : Bytes} : SameUnits s0 (s.writeWhole p A bs) :=
  sameUnits_writePart (sameUnits_each h fun s a h => h.trans (onlyCaches_readLine s p .normal a).sameUnits)

theorem sameUnits_writeBack {n : Nat} {x : Slot} : SameUnits s0 (s.writeBack n x) := by
  unfold State.writeBack
  dsimp only
  split
  · exact h
  · exact sameUnits_bump (sameUnits_writeWhole (h.trans (onlyCaches_readPart s _ .normal _ 4).sameUnits))

theorem sameUnits_flushSlot {i : Nat} : SameUnits s0 (s.flushSlot i) := by
  refine sameUnits_each h fun s n h => ?_
  split
  · exact h
  · exact sameUnits_modClu (sameUnits_writeBack h)

/-! ### Contexts that stop (R110, R127, R160, R281, R385) -/

theorem sameUnits_cancelTransfers {c : Nat} : SameUnits s0 (s.cancelTransfers c) :=
  sameUnits_each h fun _ _ h => sameUnits_ite h (sameUnits_bump (sameUnits_modClu h))

theorem sameUnits_cancelMill {c : Nat} : SameUnits s0 (s.cancelMill c) :=
  sameUnits_each h fun _ _ h => sameUnits_ite h (sameUnits_bump (sameUnits_modClu h))

theorem sameUnits_dropContext {c : Nat} : SameUnits s0 (s.dropContext c) :=
  sameUnits_each h fun _ _ h => sameUnits_dropDockets h

theorem sameUnits_stopContext {c : Nat} {spread : Bool} {st : BitVec 16} : SameUnits s0 (s.stopContext c spread st) := by
  unfold State.stopContext
  split
  · exact h
  · exact sameUnits_ite h (sameUnits_modCtx (sameUnits_each
      (sameUnits_dropContext (sameUnits_cancelMill (sameUnits_cancelTransfers (sameUnits_each h fun _ _ h => sameUnits_modShare h))))
      fun _ _ h => sameUnits_faultStream h))

theorem sameUnits_freeContext {c : Nat} : SameUnits s0 (s.freeContext c) := by
  unfold State.freeContext
  split
  · exact h
  · exact sameUnits_setCtx (sameUnits_each (sameUnits_each h fun _ _ h => sameUnits_modShare h)
      fun _ _ h => sameUnits_ite (sameUnits_modClu h) h)

theorem sameUnits_dropWaiters {c : Nat} : SameUnits s0 (s.dropWaiters c) := by
  unfold State.dropWaiters
  split <;> exact ⟨h.maps⟩

theorem sameUnits_parkRetired {i : Nat} : SameUnits s0 (s.parkRetired i) :=
  sameUnits_ite (sameUnits_endPark (sameUnits_modEntry (sameUnits_flushSlot h))) h

theorem sameUnits_completeRetire {c : Nat} {st : BitVec 16} : SameUnits s0 (s.completeRetire c st) :=
  sameUnits_finishWhere (sameUnits_freeContext (sameUnits_dropWaiters
    (sameUnits_each (sameUnits_each h fun _ _ h => sameUnits_parkRetired h) fun _ _ h => sameUnits_setRope h)))

theorem sameUnits_unitStops {c : Nat} : SameUnits s0 (s.unitStops c) := by
  unfold State.unitStops
  split
  · exact h
  · exact sameUnits_ite (sameUnits_finishWhere (sameUnits_freeContext h))
      (sameUnits_ite (sameUnits_completeRetire (sameUnits_stopContext h)) (sameUnits_stopContext h))

/-! ### Tests, resets and events (R372, R386) -/

theorem sameUnits_clearWork {w : Wait} : SameUnits s0 (s.clearWork w) := by
  unfold State.clearWork
  split <;> exact ⟨h.maps⟩

theorem sameUnits_failTests {u : UnitId} : SameUnits s0 (s.failTests u) :=
  sameUnits_each h fun _ _ h => sameUnits_finishCmd (sameUnits_clearWork h)

omit h in
theorem onlyAnswers_queueOwn (s : State) (p : Pkt) : OnlyAnswers s (s.queueOwn p) := by
  unfold State.queueOwn
  split
  · exact onlyAnswers_queuePkt s p
  · split
    · exact onlyAnswers_modNet s _
    · exact onlyAnswers_discardOn s 5

theorem sameUnits_raiseEvent {code : Nat} {part : Option Nat} {st : BitVec 16} {subject detail : Nat}
    {owner : Option (BitVec 12)} : SameUnits s0 (s.raiseEvent code part st subject detail owner) := by
  refine sameUnits_each ⟨?_⟩ fun s _ h => h.trans (onlyAnswers_queuePkt s _).sameUnits
  exact (onlyAnswers_queueOwn _ _).sameUnits.maps.trans h.maps

end

/-! ### The failure of a unit (R385, R443) -/

/-- A unit marked failed: the maps, and the generation of the floor plan. -/
def State.markPlan (s : State) (u : UnitId) : State :=
  let s := s.markFailed u
  if s.planned then { s with generation := s.generation + 1, planTime := s.tb.count } else s

/-- What follows the mark: contexts and the narrow engine's work, tests and admissions, and the events. -/
def State.failed (s : State) (u : UnitId) (users : List Nat) : State :=
  let s := s.each users fun s c => s.unitStops c
  let s := match u with
    | .narrow n => s.modClu n.val fun k => { k with slots := [], narQ := [] }
    | _ => s
  let s := s.failTests u
  let s := match u with
    | .core g => s.finishWhere (Cmd.maps g.val) stUnitFailed
    | _ => s
  if s.ready then
    (s.raiseEvent evUnitFailed none stUnitFailed (unitKind u) (unitIndex u)).raiseEvent evFloorPlan none stOk 0
      s.generation.toNat
  else s

theorem unitFailure_of_down {s : State} {u : UnitId} (down : s.unitState u ≠ 0) : s.unitFailure u = s := if_pos down

theorem unitFailure_of_present {s : State} {u : UnitId} (present : s.unitState u = 0) :
    s.unitFailure u = (s.markPlan u).failed u (s.usersOf u) := if_neg (not_not.2 present)

theorem sameUnits_failed (s : State) (u : UnitId) (users : List Nat) : SameUnits s (s.failed u users) := by
  have stopped : SameUnits s (s.each users fun s c => s.unitStops c) := sameUnits_each (.refl s) fun _ _ h => sameUnits_unitStops h
  have events {t : State} (h : SameUnits s t) : SameUnits s (if t.ready then
      (t.raiseEvent evUnitFailed none stUnitFailed (unitKind u) (unitIndex u)).raiseEvent evFloorPlan none stOk 0
        t.generation.toNat
      else t) := sameUnits_ite (sameUnits_raiseEvent (sameUnits_raiseEvent h)) h
  refine events ?_
  cases u with
  | core g => exact sameUnits_finishWhere (sameUnits_failTests stopped)
  | mill g => exact sameUnits_failTests stopped
  | narrow n => exact sameUnits_failTests (sameUnits_modClu stopped)

/-- A present unit that fails is marked failed, whatever else follows. -/
theorem unitState_unitFailure {s : State} {u : UnitId} (present : s.unitState u = 0) :
    (s.unitFailure u).unitState u = 2 := by
  have planned : SameUnits (s.markFailed u) (s.markPlan u) := sameUnits_ite ⟨rfl⟩ ⟨rfl⟩
  rw [unitFailure_of_present present, (planned.trans (sameUnits_failed _ u _)).unitState, unitState_markFailed]

end Sys2Proof.Machine
end

section
/-! PROOFS. Heat, refresh and gating (R101, R418 to R422): what a sensor reading sets, and what the blocks that gate themselves
and what wakes them change. -/

namespace Sys2Proof.Machine

/-! ### The readings of a sensor (R101, R421) -/

/-- The first of 3, 2 and 1 that passes a test, else 0. -/
theorem find_level (p : Nat → Bool) : ([3, 2, 1].find? p).getD 0 =
    if p 3 then 3 else if p 2 then 2 else if p 1 then 1 else 0 := by
  cases three : p 3 <;> cases two : p 2 <;> cases one : p 1 <;> simp [three, two, one]

/-- Table 21.4 as a formula. -/
theorem throttleAt_eq (old : Nat) (t : Int) : throttleAt old t =
    if 105 < t ∨ 3 ≤ old ∧ 102 ≤ t then 3 else if 100 < t ∨ 2 ≤ old ∧ 97 ≤ t then 2
      else if 92 < t ∨ 1 ≤ old ∧ 89 ≤ t then 1 else 0 := by
  have holds (n : Nat) : (decide (levelUp n < t) || (decide (n ≤ old) && decide (levelDown n ≤ t))) = true ↔
      (levelUp n < t ∨ n ≤ old ∧ levelDown n ≤ t) := by
    rw [Bool.or_eq_true, Bool.and_eq_true, decide_eq_true_eq, decide_eq_true_eq, decide_eq_true_eq]
  rw [throttleAt, find_level]
  exact if_congr (holds 3) rfl (if_congr (holds 2) rfl (if_congr (holds 1) rfl rfl))

/-- A cluster's reading but for the event of a throttling that begins. -/
def State.readCluster (s : State) (n : Nat) (t : Byte) : State :=
  (if (s.clu n).throttle = 0 then s else s.accrue (cluThrottled n)).modClu n fun k =>
    { k with temp := t, throttle := throttleAt (s.clu n).throttle t.toInt }

theorem clusterTemp_eq (s : State) (n : Nat) (t : Byte) : s.clusterTemp n t =
    if (s.clu n).throttle = 0 ∧ throttleAt (s.clu n).throttle t.toInt ≠ 0 then (s.readCluster n t).setBits 0x060004 1
    else s.readCluster n t := rfl

/-- A cluster's reading reaches that cluster, the counters and PWR.EVENTS. -/
theorem clusterTemp_facts (s : State) (n : Nat) (t : Byte) : let u := s.clusterTemp n t
    u.clu n = { s.clu n with temp := t, throttle := throttleAt (s.clu n).throttle t.toInt } ∧
      (∀ k, k ≠ n → u.clu k = s.clu k) ∧ u.mem = s.mem ∧ u.chans = s.chans ∧ u.tripped = s.tripped ∧
      ((s.clu n).throttle = 0 → throttleAt (s.clu n).throttle t.toInt ≠ 0 → (u.reg 0x060004).getLsbD 0 = true) := by
  have read : (s.readCluster n t).clu n = { s.clu n with temp := t, throttle := throttleAt (s.clu n).throttle t.toInt } ∧
      (∀ k, k ≠ n → (s.readCluster n t).clu k = s.clu k) ∧ (s.readCluster n t).mem = s.mem ∧
      (s.readCluster n t).chans = s.chans ∧ (s.readCluster n t).tripped = s.tripped := by
    rw [State.readCluster, modClu_eq]
    split <;> exact ⟨clu_setClu_self _ _ _, fun k ne => clu_setClu_ne _ _ _ ne, rfl, rfl, rfl⟩
  obtain ⟨own, others, mem, chans, tripped⟩ := read
  rw [clusterTemp_eq]
  split
  · exact ⟨own, others, mem, chans, tripped, fun _ _ => getLsbD_reg_setBits_self _ (by decide) (by decide)⟩
  · next still => exact ⟨own, others, mem, chans, tripped, fun off on => absurd ⟨off, on⟩ still⟩

/-- The hottest of some readings, from one of them on. -/
theorem foldl_slt_facts (f : Nat → Byte) (l : List Nat) (m : Byte) :
    let h := l.foldl (fun m d => if m.slt (f d) then f d else m) m
    m.toInt ≤ h.toInt ∧ (∀ d ∈ l, (f d).toInt ≤ h.toInt) ∧ (h = m ∨ ∃ d ∈ l, h = f d) := by
  induction l generalizing m with
  | nil => exact ⟨Int.le_refl _, nofun, .inl rfl⟩
  | cons d l ih =>
    obtain ⟨start, rest, among⟩ := ih (if m.slt (f d) then f d else m)
    have both : m.toInt ≤ (if m.slt (f d) then f d else m).toInt ∧ (f d).toInt ≤ (if m.slt (f d) then f d else m).toInt := by
      split
      · next less => exact ⟨Int.le_of_lt (BitVec.slt_iff_toInt_lt.1 less), Int.le_refl _⟩
      · next more => exact ⟨Int.le_refl _, Int.not_lt.1 (mt BitVec.slt_iff_toInt_lt.2 more)⟩
    refine ⟨both.1.trans start, List.forall_mem_cons.2 ⟨both.2.trans start, rest⟩, ?_⟩
    obtain same | ⟨x, mem, same⟩ := among
    · by_cases less : m.slt (f d)
      · exact .inr ⟨d, List.mem_cons_self, same.trans (if_pos less)⟩
      · exact .inl (same.trans (if_neg less))
    · exact .inr ⟨x, List.mem_cons_of_mem d mem, same⟩

/-- The hottest die of a stack is one of its 16. -/
theorem hottestDie_facts (s : State) (k : Nat) : (∀ x, x / 16 = k → (Tbl.get 0 s.dies x).toInt ≤ (s.hottestDie k).toInt) ∧
    ∃ x, x / 16 = k ∧ Tbl.get 0 s.dies x = s.hottestDie k := by
  obtain ⟨_, all, among⟩ := foldl_slt_facts (fun d => Tbl.get 0 s.dies (16 * k + d)) (List.range 16) (Tbl.get 0 s.dies (16 * k))
  refine ⟨fun x own => ?_, ?_⟩
  · have bound := all (x % 16) (List.mem_range.2 (Nat.mod_lt x (by decide)))
    rwa [show 16 * k + x % 16 = x by omega] at bound
  · obtain first | ⟨d, mem, same⟩ := among
    · exact ⟨16 * k, by omega, first.symm⟩
    · exact ⟨16 * k + d, by have := List.mem_range.1 mem; omega, same.symm⟩

/-- From s to t only DRAM channels change. -/
structure OnlyChans (s t : State) : Prop where
  frame : t = { s with chans := t.chans }

theorem OnlyChans.trans {s t u : State} (a : OnlyChans s t) (b : OnlyChans t u) : OnlyChans s u := by
  have frame := b.frame
  rw [a.frame] at frame
  exact ⟨frame⟩

section
variable {s t : State} (only : OnlyChans s t)
include only

theorem OnlyChans.mem : t.mem = s.mem := by rw [only.frame]
theorem OnlyChans.clusters : t.clusters = s.clusters := by rw [only.frame]
theorem OnlyChans.dies : t.dies = s.dies := by rw [only.frame]
theorem OnlyChans.tripped : t.tripped = s.tripped := by rw [only.frame]

end

theorem onlyChans_modChan (s : State) (c : Nat) (f : ChanSt → ChanSt) : OnlyChans s (s.modChan c f) := ⟨rfl⟩

/-- Channels base + c, c from a list that names each once, are each changed by f. -/
theorem each_modChan (f : ChanSt → ChanSt) (base : Nat) (l : List Nat) (once : l.Nodup) (s : State) :
    let t := s.each l fun s c => s.modChan (base + c) f
    (∀ c ∈ l, t.chan (base + c) = f (s.chan (base + c))) ∧ (∀ x, (∀ c ∈ l, x ≠ base + c) → t.chan x = s.chan x) ∧
      OnlyChans s t := by
  induction l generalizing s with
  | nil => exact ⟨nofun, fun _ _ => rfl, ⟨rfl⟩⟩
  | cons d l ih =>
    obtain ⟨first, rest⟩ := List.nodup_cons.1 once
    obtain ⟨own, others, only⟩ := ih rest (s.modChan (base + d) f)
    have step (x : Nat) (ne : x ≠ base + d) : (s.modChan (base + d) f).chan x = s.chan x := chan_setChan_ne s _ _ ne
    refine ⟨List.forall_mem_cons.2 ⟨?_, fun c mem => ?_⟩, fun x out => ?_, (onlyChans_modChan s _ f).trans only⟩
    · refine (others _ fun c mem same => first ?_).trans (chan_setChan_self s _ _)
      rwa [Nat.add_left_cancel same]
    · rw [← step (base + c) fun same => first (Nat.add_left_cancel same ▸ mem)]
      exact own c mem
    · obtain ⟨ne, out⟩ := List.forall_mem_cons.1 out
      exact (others x out).trans (step x ne)

/-- The channels of stack k heat to t. -/
def State.heatStack (s : State) (k : Nat) (t : Byte) : State :=
  s.each (List.range 64) fun s c => s.modChan (64 * k + c) fun h => h.heat t

theorem heatStack_facts (s : State) (k : Nat) (t : Byte) : (∀ c, c / 64 = k → (s.heatStack k t).chan c = (s.chan c).heat t) ∧
    (∀ c, c / 64 ≠ k → (s.heatStack k t).chan c = s.chan c) ∧ OnlyChans s (s.heatStack k t) := by
  obtain ⟨own, others, only⟩ := each_modChan (fun h => h.heat t) (64 * k) (List.range 64) List.nodup_range s
  refine ⟨fun c stack => ?_, fun c other => others c fun d mem same => ?_, only⟩
  · have heated := own (c % 64) (List.mem_range.2 (Nat.mod_lt c (by decide)))
    rwa [show 64 * k + c % 64 = c by omega] at heated
  · have := List.mem_range.1 mem
    omega

/-- A die of this number reads b. -/
def State.readDie (s : State) (e : Nat) (b : Byte) : State := { s with dies := Tbl.set 0 s.dies e b }

theorem chans_readDie (s : State) (e : Nat) (b : Byte) : (s.readDie e b).chans = s.chans := rfl

theorem dieTemps_eq (s : State) (l : List (Fin 64 × Byte)) : s.dieTemps l =
    let t := s.each l fun s x => s.readDie x.1.val x.2
    t.each (l.map fun x => x.1.val / 16).eraseDups fun s k => s.heatStack k (s.hottestDie k) := rfl

theorem dieTemps_single (s : State) (e : Fin 64) (b : Byte) : s.dieTemps [(e, b)] =
    (s.readDie e.val b).heatStack (e.val / 16) ((s.readDie e.val b).hottestDie (e.val / 16)) := by
  simp only [dieTemps_eq, List.map_cons, List.map_nil, List.eraseDups_cons, List.filter_nil, List.eraseDups_nil, State.each,
    List.foldl_cons, List.foldl_nil]

/-- In u die e has read b, the hottest die of its stack reads m, and the stack's channels have heated to m. -/
structure DieRead (s : State) (e : Nat) (b m : Byte) (u : State) : Prop where
  dies : ∀ x, Tbl.get 0 u.dies x = if x = e then b else Tbl.get 0 s.dies x
  hottest : ∀ x, x / 16 = e / 16 → (Tbl.get 0 u.dies x).toInt ≤ m.toInt
  among : ∃ x, x / 16 = e / 16 ∧ Tbl.get 0 u.dies x = m
  own : ∀ c, c / 64 = e / 16 → u.chan c = (s.chan c).heat m
  others : ∀ c, c / 64 ≠ e / 16 → u.chan c = s.chan c
  mem : u.mem = s.mem
  clusters : u.clusters = s.clusters

theorem get_dies_readDie (s : State) (e : Nat) (b : Byte) (x : Nat) :
    Tbl.get 0 (s.readDie e b).dies x = if x = e then b else Tbl.get 0 s.dies x := by
  split
  · next own => exact own ▸ Tbl.get_set_self 0 b s.dies e
  · next other => exact Tbl.get_set_ne 0 b s.dies other

theorem dieRead_dieTemps (s : State) (e : Fin 64) (b : Byte) : ∃ m, DieRead s e.val b m (s.dieTemps [(e, b)]) := by
  rw [dieTemps_single]
  obtain ⟨hottest, among⟩ := hottestDie_facts (s.readDie e.val b) (e.val / 16)
  obtain ⟨own, others, only⟩ := heatStack_facts (s.readDie e.val b) (e.val / 16) ((s.readDie e.val b).hottestDie (e.val / 16))
  have dies := get_dies_readDie s e.val b
  rw [← only.dies] at hottest among dies
  exact ⟨_, dies, hottest, among, own, others, only.mem, only.clusters⟩

/-! ### SENSOR_READ (R421, R422) -/

/-- The Steward reads d. -/
def State.readSteward (s : State) (d : Byte) : State := { s with stewardTemp := d }

theorem DieRead.readSteward {s u : State} {e : Nat} {b m : Byte} (read : DieRead s e b m u) (d : Byte) :
    DieRead s e b m (u.readSteward d) :=
  ⟨read.dies, read.hottest, read.among, read.own, read.others, read.mem, read.clusters⟩

/-- The readings, before a thermal trip. -/
def State.readSensors (s : State) (m : Temps) : State :=
  ((s.each m.cluster fun s x => s.clusterTemp x.1.val x.2).dieTemps m.die).readSteward m.steward

theorem exec_sensorRead_of_stopped {s : State} (off : s.started = false) (m : Temps) : exec (.sensorRead m) s = .next s :=
  congrArg Host.Outcome.next (when_false off)

theorem exec_sensorRead {s : State} (on : s.started = true) (m : Temps) : exec (.sensorRead m) s =
    .next ((s.readSensors m).when (sensorsTrip m && !(s.readSensors m).tripped) State.trip) :=
  congrArg Host.Outcome.next (when_true on)

theorem exec_sensorRead_of_cool {s : State} (on : s.started = true) {m : Temps} (cool : sensorsTrip m = false) :
    exec (.sensorRead m) s = .next (s.readSensors m) := by
  rw [exec_sensorRead on, when_false (by rw [cool]; rfl)]

theorem sensorsTrip_iff (m : Temps) : sensorsTrip m = true ↔
    (∃ x ∈ m.cluster, 110 ≤ x.2.toInt) ∨ (∃ x ∈ m.die, 110 ≤ x.2.toInt) ∨ 110 ≤ m.steward.toInt := by
  simp only [sensorsTrip, Bool.or_eq_true, List.any_eq_true, decide_eq_true_eq, or_assoc]

/-- From s to t no byte of memory changes and the device does not trip. -/
structure NoTrip (s t : State) : Prop where
  mem : t.mem = s.mem
  tripped : t.tripped = s.tripped

theorem NoTrip.trans {s t u : State} (a : NoTrip s t) (b : NoTrip t u) : NoTrip s u :=
  ⟨b.mem.trans a.mem, b.tripped.trans a.tripped⟩

theorem noTrip_clusterTemp (s : State) (n : Nat) (t : Byte) : NoTrip s (s.clusterTemp n t) := by
  obtain ⟨_, _, mem, _, tripped, _⟩ := clusterTemp_facts s n t
  exact ⟨mem, tripped⟩

theorem noTrip_heatStack (s : State) (k : Nat) (t : Byte) : NoTrip s (s.heatStack k t) := by
  obtain ⟨_, _, only⟩ := heatStack_facts s k t
  exact ⟨only.mem, only.tripped⟩

theorem noTrip_dieTemps (s : State) (l : List (Fin 64 × Byte)) : NoTrip s (s.dieTemps l) := by
  have read : NoTrip s (s.each l fun s x => s.readDie x.1.val x.2) :=
    each_of_step (fun _ _ h => ⟨h.mem, h.tripped⟩) l ⟨rfl, rfl⟩
  rw [dieTemps_eq]
  exact each_of_step (fun t k h => h.trans (noTrip_heatStack t k _)) _ read

theorem noTrip_readSensors (s : State) (m : Temps) : NoTrip s (s.readSensors m) := by
  have clusters : NoTrip s (s.each m.cluster fun s x => s.clusterTemp x.1.val x.2) :=
    each_of_step (fun t x h => h.trans (noTrip_clusterTemp t x.1.val x.2)) _ ⟨rfl, rfl⟩
  obtain ⟨mem, tripped⟩ := clusters.trans (noTrip_dieTemps _ m.die)
  exact ⟨mem, tripped⟩

theorem readSensors_cluster (s : State) (n : Fin 32) (b d : Byte) :
    s.readSensors { cluster := [(n, b)], die := [], steward := d } = (s.clusterTemp n.val b).readSteward d := by
  rw [State.readSensors, dieTemps_eq]
  simp only [List.map_nil, List.eraseDups_nil, State.each, List.foldl_cons, List.foldl_nil]

theorem readSensors_die (s : State) (e : Fin 64) (b d : Byte) :
    s.readSensors { cluster := [], die := [(e, b)], steward := d } = (s.dieTemps [(e, b)]).readSteward d := by
  rw [State.readSensors, show State.each s [] _ = s from rfl]

/-! ### The thermal trip (R422) -/

theorem noTrip_modClu (s : State) (n : Nat) (f : CluSt → CluSt) : NoTrip s (s.modClu n f) := ⟨rfl, rfl⟩

/-- Every cluster's clock stops. -/
def State.stopClusters (s : State) : State := s.each (List.range 32) fun s n => s.modClu n fun k => { k with power := 3 }

/-- Every channel refreshes itself. -/
def State.refreshAll (s : State) : State :=
  s.each (List.range 256) fun s c => s.modChan c fun h => { h with selfRefresh := true }

theorem stopAll_eq (s : State) : s.stopAll = s.stopClusters.refreshAll := rfl

theorem stopClusters_facts (s : State) : NoTrip s s.stopClusters ∧ ∀ n, n < 32 → (s.stopClusters.clu n).power = 3 := by
  refine ⟨each_of_step (P := NoTrip s) (fun t k h => h.trans (noTrip_modClu t k _)) _ ⟨rfl, rfl⟩, fun n below => ?_⟩
  refine each_of_mem (P := fun t => (t.clu n).power = 3) (fun t => ?_) (fun t k stopped => ?_) (List.mem_range.2 below) s
  · rw [modClu_eq, clu_setClu_self]
  · by_cases own : n = k
    · rw [own, modClu_eq, clu_setClu_self]
    · rwa [modClu_eq, clu_setClu_ne _ _ _ own]

theorem refreshAll_facts (s : State) : OnlyChans s s.refreshAll ∧ ∀ c, c < 256 → (s.refreshAll.chan c).selfRefresh = true := by
  refine ⟨each_of_step (P := OnlyChans s) (fun t c h => h.trans (onlyChans_modChan t c _)) _ ⟨rfl⟩, fun c below => ?_⟩
  refine each_of_mem (P := fun t => (t.chan c).selfRefresh = true) (fun t => ?_) (fun t k stopped => ?_)
    (List.mem_range.2 below) s
  · rw [modChan_eq, chan_setChan_self]
  · by_cases own : c = k
    · rw [own, modChan_eq, chan_setChan_self]
    · rwa [modChan_eq, chan_setChan_ne _ _ _ own]

theorem stopAll_facts (s : State) : NoTrip s s.stopAll ∧ (∀ n, n < 32 → (s.stopAll.clu n).power = 3) ∧
    ∀ c, c < 256 → (s.stopAll.chan c).selfRefresh = true := by
  obtain ⟨same, power⟩ := stopClusters_facts s
  obtain ⟨only, refresh⟩ := refreshAll_facts s.stopClusters
  rw [stopAll_eq]
  refine ⟨same.trans ⟨only.mem, only.tripped⟩, fun n below => ?_, refresh⟩
  rw [State.clu, only.clusters]
  exact power n below

theorem trip_facts (s : State) : s.trip.tripped = true ∧ s.trip.mem = s.mem ∧ (∀ n, n < 32 → (s.trip.clu n).power = 3) ∧
    ∀ c, c < 256 → (s.trip.chan c).selfRefresh = true := by
  rw [State.trip]
  obtain ⟨same, power, refresh⟩ := stopAll_facts ({ s with tripped := true }.setBits 0x060004 2)
  exact ⟨same.tripped, same.mem, power, refresh⟩

/-- Readings of one cluster or die, and of the Steward, below 110 °C do not trip. -/
theorem sensorsTrip_of_cool {m : Temps} (clusters : ∀ x ∈ m.cluster, x.2.toInt < 110) (dies : ∀ x ∈ m.die, x.2.toInt < 110)
    (steward : m.steward.toInt < 110) : sensorsTrip m = false := by
  refine Bool.eq_false_iff.2 fun hot => ?_
  obtain ⟨x, mem, high⟩ | ⟨x, mem, high⟩ | high := (sensorsTrip_iff m).1 hot
  · exact Int.not_lt.2 high (clusters x mem)
  · exact Int.not_lt.2 high (dies x mem)
  · exact Int.not_lt.2 high steward

section
variable {s : State} (on : s.started = true)
include on

theorem sensorRead_of_cluster (n : Fin 32) {b d : Byte} (cool : b.toInt < 110) (cool' : d.toInt < 110) :
    let new := throttleAt (s.clu n.val).throttle b.toInt
    ∃ u, exec (.sensorRead { cluster := [(n, b)], die := [], steward := d }) s = .next u ∧
      u.clu n.val = { s.clu n.val with temp := b, throttle := new } ∧
      ((s.clu n.val).throttle = 0 → new ≠ 0 → (u.reg 0x060004).getLsbD 0 = true) ∧
      u.stewardTemp = d ∧ (∀ k, k ≠ n.val → u.clu k = s.clu k) ∧ u.mem = s.mem ∧ u.chans = s.chans := by
  have read := exec_sensorRead_of_cool on (m := { cluster := [(n, b)], die := [], steward := d })
    (sensorsTrip_of_cool (List.forall_mem_singleton.2 cool) nofun cool')
  rw [readSensors_cluster] at read
  obtain ⟨own, others, mem, chans, _, event⟩ := clusterTemp_facts s n.val b
  exact ⟨_, read, own, event, rfl, others, mem, chans⟩

theorem sensorRead_of_die (e : Fin 64) {b d : Byte} (cool : b.toInt < 110) (cool' : d.toInt < 110) :
    ∃ u m, exec (.sensorRead { cluster := [], die := [(e, b)], steward := d }) s = .next u ∧ DieRead s e.val b m u := by
  have read := exec_sensorRead_of_cool on (m := { cluster := [], die := [(e, b)], steward := d })
    (sensorsTrip_of_cool nofun (List.forall_mem_singleton.2 cool) cool')
  rw [readSensors_die] at read
  obtain ⟨m, reads⟩ := dieRead_dieTemps s e b
  exact ⟨_, m, read, reads.readSteward d⟩

theorem sensorRead_of_hot {m : Temps} (untripped : s.tripped = false) (hot : sensorsTrip m = true) :
    ∃ u, exec (.sensorRead m) s = .next u ∧ u.tripped = true ∧ u.mem = s.mem ∧
      (∀ n, n < 32 → (u.clu n).power = 3) ∧ (∀ c, c < 256 → (u.chan c).selfRefresh = true) := by
  have same := noTrip_readSensors s m
  have trips : (sensorsTrip m && !(s.readSensors m).tripped) = true := by
    rw [hot, same.tripped, untripped]
    rfl
  obtain ⟨tripped, mem, power, refresh⟩ := trip_facts (s.readSensors m)
  exact ⟨_, (exec_sensorRead on m).trans (congrArg _ (when_true trips)), tripped, mem.trans same.mem, power, refresh⟩

end

theorem sensorReads : Claims.SensorReads := by
  refine ⟨fun m s off => exec_sensorRead_of_stopped off m, fun n b d s on _ cool cool' => ?_,
    fun e b d s on _ cool cool' => ?_,
    fun m s on untripped hot => sensorRead_of_hot on untripped ((sensorsTrip_iff m).2 hot)⟩
  · intro old t new
    rw [show new = throttleAt old t from (throttleAt_eq old t).symm]
    exact sensorRead_of_cluster on n cool cool'
  · obtain ⟨u, m, run, read⟩ := sensorRead_of_die on e cool cool'
    exact ⟨u, m, run, read.dies, read.hottest, read.among, read.own, read.others, read.mem, read.clusters⟩

/-! ### Self-refresh (R101, R418, R420) -/

theorem toNat_satAdd32 (w : Word) (k : Nat) : (satAdd32 w k).toNat = min (w.toNat + k) 0xFFFFFFFF := by
  rw [satAdd32, BitVec.toNat_ofNat]
  omega

theorem exitRefresh_of_awake {s : State} {c : Nat} (awake : (s.chan c).selfRefresh = false ∨ s.tripped = true) :
    s.exitRefresh c = s := by
  refine if_neg fun leaves => ?_
  obtain ⟨asleep, untripped⟩ := Bool.and_eq_true_iff.1 leaves
  obtain awake | tripped := awake
  · rw [awake] at asleep
    exact nomatch asleep
  · rw [tripped] at untripped
    exact nomatch untripped

theorem exitRefresh_of_asleep {s : State} {c : Nat} (asleep : (s.chan c).selfRefresh = true) (untripped : s.tripped = false) :
    s.exitRefresh c = (s.modChan c fun h =>
      { h with selfRefresh := false, recalDue := false,
               recals := if h.recalDue then h.recals + 1 else h.recals }).bump 0x060300 0 32 1 :=
  if_pos (by rw [asleep, untripped]; rfl)

theorem channelRefreshes (c : Fin 256) (s : State) :
    let h := s.chan c.val
    exec (.channelRefresh c) s = .next (s.setChan c.val { h with refreshes := h.refreshes + 1 }) ∧
    exec (.channelRecalibration c) s = .next (s.setChan c.val
      (if h.selfRefresh then { h with recalDue := true } else { h with recals := h.recals + 1 })) ∧
    (s.channelIdle c.val = true → exec (.selfRefreshEntry c) s = .next (s.setChan c.val { h with selfRefresh := true })) ∧
    (s.channelIdle c.val = false → exec (.selfRefreshEntry c) s = .next s) ∧
    ((h.selfRefresh = false ∨ s.tripped = true) → exec (.selfRefreshExit c) s = .next s) ∧
    (h.selfRefresh = true → s.tripped = false → ∃ t, exec (.selfRefreshExit c) s = .next t ∧ t.mem = s.mem ∧
      t.chan c.val = { h with selfRefresh := false, recalDue := false,
                              recals := if h.recalDue then h.recals + 1 else h.recals } ∧
      (t.reg 0x060300).toNat = min ((s.reg 0x060300).toNat + 1) 0xFFFFFFFF) := by
  refine ⟨rfl, rfl, fun idle => congrArg Host.Outcome.next (when_true idle), fun busy => congrArg Host.Outcome.next (when_false busy),
    fun awake => congrArg Host.Outcome.next (exitRefresh_of_awake awake), fun asleep untripped => ?_⟩
  refine ⟨_, congrArg Host.Outcome.next (exitRefresh_of_asleep asleep untripped), rfl, ?_, ?_⟩
  · rw [chan_bump, modChan_eq, chan_setChan_self]
  · rw [reg_bump_word, toNat_satAdd32, modChan_eq, reg_setChan]

/-! ### Gating (R418) -/

theorem coreGates (g : Fin 2048) (s : State) :
    let may := s.corePresent g.val = true ∧ s.coreIdle g.val = true ∧ (s.core g.val).testing = false ∧
      (s.core g.val).resetting = false
    (may → exec (.coreGate g) s = .next (s.setCore g.val { s.core g.val with gated := true })) ∧
    (¬ may → exec (.coreGate g) s = .next s) := by
  intro may
  have gates : (s.corePresent g.val && s.coreIdle g.val && !(s.core g.val).testing && !(s.core g.val).resetting) = true ↔ may := by
    simp only [Bool.and_eq_true, Bool.not_eq_true', and_assoc, may]
  exact ⟨fun ok => congrArg Host.Outcome.next (when_true (gates.2 ok)),
    fun stays => congrArg Host.Outcome.next (when_false (Bool.eq_false_iff.2 (mt gates.1 stays)))⟩

theorem clusterStops (n : Fin 32) (s : State) :
    let k := s.clu n.val
    (k.power = 0 → s.clusterIdle n.val = true → exec (.clusterClockStop n) s = .next (s.setClu n.val { k with power := 1 })) ∧
    ((k.power ≠ 0 ∨ s.clusterIdle n.val = false) → exec (.clusterClockStop n) s = .next s) ∧
    (k.power = 1 → exec (.clusterPowerGate n) s = .next (s.setClu n.val { k with power := 2 })) ∧
    (k.power ≠ 1 → exec (.clusterPowerGate n) s = .next s) := by
  refine ⟨fun runs idle => congrArg Host.Outcome.next (when_true ?_), fun busy => congrArg Host.Outcome.next (when_false ?_),
    fun still => congrArg Host.Outcome.next (when_true (beq_iff_eq.2 still)),
    fun other => congrArg Host.Outcome.next (when_false (beq_false_of_ne other))⟩
  · rw [runs, idle]
    rfl
  · obtain stopped | busy := busy
    · rw [beq_false_of_ne stopped, Bool.false_and]
    · rw [busy, Bool.and_false]

/-! ### Work that wakes (R419) -/

theorem wakeCluster_of_still {s : State} {n : Nat} (gated : (s.clu n).power = 1 ∨ (s.clu n).power = 2) :
    s.wakeCluster n =
      ((s.accrue (cluGated n)).modClu n fun k => { k with power := 0 }).bump (0x060104 + 0x10 * n) 0 32 1 := if_pos gated

theorem wakeCluster_of_running {s : State} {n : Nat} (running : ¬ ((s.clu n).power = 1 ∨ (s.clu n).power = 2)) :
    s.wakeCluster n = s := if_neg running

theorem clu_wakeCluster_of_still {s : State} {n : Nat} (gated : (s.clu n).power = 1 ∨ (s.clu n).power = 2) :
    (s.wakeCluster n).clu n = { s.clu n with power := 0 } := by
  rw [wakeCluster_of_still gated, clu_bump, modClu_eq, clu_setClu_self]
  rfl

theorem clusterWakes (n : Fin 32) (s : State) :
    let k := s.clu n.val
    (s.tripped = false → (k.power = 1 ∨ k.power = 2) → ∃ t, exec (.wake (.cluster n)) s = .next t ∧ t.mem = s.mem ∧
      t.clu n.val = { k with power := 0 } ∧
      (t.reg (0x060104 + 0x10 * n.val)).toNat = min ((s.reg (0x060104 + 0x10 * n.val)).toNat + 1) 0xFFFFFFFF) ∧
    ((s.tripped = true ∨ (k.power ≠ 1 ∧ k.power ≠ 2)) → exec (.wake (.cluster n)) s = .next s) := by
  refine ⟨fun untripped gated => ?_, fun stays => ?_⟩
  · have wakes : exec (.wake (.cluster n)) s = .next (s.wakeCluster n.val) :=
      congrArg Host.Outcome.next (when_true (by rw [untripped]; rfl))
    refine ⟨_, wakes, (onlyCaches_wakeCluster s n.val).mem, clu_wakeCluster_of_still gated, ?_⟩
    have accrued : (s.accrue (cluGated n.val)).reg (0x060104 + 0x10 * n.val) = s.reg (0x060104 + 0x10 * n.val) :=
      reg_setReg_ne s _ _ (by rw [cluGated]; omega)
    rw [wakeCluster_of_still gated, reg_bump_word, toNat_satAdd32, modClu_eq, reg_setClu, accrued]
  · by_cases tripped : s.tripped = true
    · exact congrArg Host.Outcome.next (when_false (by rw [tripped]; rfl))
    · refine congrArg Host.Outcome.next ((when_true (by rw [Bool.eq_false_iff.2 tripped]; rfl)).trans ?_)
      exact wakeCluster_of_running (not_or.2 (stays.resolve_left tripped))

theorem coreWakes (g : Fin 2048) (s : State) (untripped : s.tripped = false) (present : s.corePresent g.val = true) :
    ∃ t, exec (.wake (.core g)) s = .next t ∧ t.mem = s.mem ∧ t.core g.val = { s.core g.val with gated := false } ∧
      ((s.clu (g.val / 64)).power ≤ 2 → (t.clu (g.val / 64)).power = 0) := by
  have only := onlyCaches_wakeCluster s (g.val / 64)
  have wakes : exec (.wake (.core g)) s =
      .next ((s.wakeCluster (g.val / 64)).modCore g.val fun c => { c with gated := false }) :=
    congrArg Host.Outcome.next ((when_true (by rw [untripped]; rfl)).trans (if_pos present))
  have core : (s.wakeCluster (g.val / 64)).core g.val = s.core g.val := by
    rw [only.frame]
    rfl
  refine ⟨_, wakes, only.mem, ?_, fun low => ?_⟩
  · rw [modCore_eq, core_setCore_self, core]
  · rw [modCore_eq, clu_setCore]
    by_cases gated : (s.clu (g.val / 64)).power = 1 ∨ (s.clu (g.val / 64)).power = 2
    · rw [clu_wakeCluster_of_still gated]
    · rw [wakeCluster_of_running gated]
      omega

theorem gatingAndRefresh : Claims.GatingAndRefresh := by
  refine ⟨fun c s _ => channelRefreshes c s, coreGates, fun n s _ => ?_, fun g s _ => coreWakes g s⟩
  obtain ⟨stop, still, gate, ungated⟩ := clusterStops n s
  exact ⟨stop, still, gate, ungated, clusterWakes n s⟩

end Sys2Proof.Machine
end

section
/-! PROOFS. SRAM errors and units that do not answer (R383, R384, R443): the errors that are counted, the cache lines that are
lost, and the units that fail. -/

namespace Sys2Proof.Machine

/-! ### SYS.SRAM_ECC (R383, R394) -/

/-- CORR and UNCORR count apart, each to its limit. -/
theorem fld_reg_sramEcc (s : State) :
    (fld ((s.sramEcc false).reg 0x200).toNat 0 16 = min (fld (s.reg 0x200).toNat 0 16 + 1) 0xFFFF ∧
      fld ((s.sramEcc false).reg 0x200).toNat 16 16 = fld (s.reg 0x200).toNat 16 16) ∧
    fld ((s.sramEcc true).reg 0x200).toNat 16 16 = min (fld (s.reg 0x200).toNat 16 16 + 1) 0xFFFF := by
  have bound := (s.reg 0x200).isLt
  simp only [State.sramEcc, bump_eq, reg_setReg_self, BitVec.toNat_ofNat, fld, Bool.false_eq_true, if_false, if_true]
  omega

theorem reg_sramEcc_ne (s : State) (uncorr : Bool) {a : Nat} (other : a ≠ 0x200) : (s.sramEcc uncorr).reg a = s.reg a := by
  rw [State.sramEcc, bump_eq, reg_setReg_ne s 0x200 _ other]

theorem sramEcc_frame (s : State) (uncorr : Bool) : { s.sramEcc uncorr with regs := s.regs } = s := by
  cases s
  rfl

theorem mem_sramEcc (s : State) (uncorr : Bool) : (s.sramEcc uncorr).mem = s.mem := by
  rw [State.sramEcc, mem_bump]

theorem badLines_sramEcc (s : State) (uncorr : Bool) : (s.sramEcc uncorr).badLines = s.badLines := by
  cases s
  rfl

theorem sameUnits_sramEcc (s : State) : SameUnits s (s.sramEcc true) := by
  cases s
  exact ⟨rfl⟩

/-! ### A home-cache line that is lost (R99, R383) -/

/-- Cluster n without the lines of channel ch and this number in its cache. -/
def State.dropLine (s : State) (ch line : Nat) : State :=
  s.modClu (ch / 8) fun k => { k with cache := k.cache.filter fun x => !(x.chan == ch && x.line == line) }

theorem not_mem_dropLine {s : State} {ch line : Nat} {x : CacheLine} (mem : x ∈ ((s.dropLine ch line).clu (ch / 8)).cache) :
    ¬ (x.chan = ch ∧ x.line = line) := by
  rw [State.dropLine, modClu_eq, clu_setClu_self] at mem
  simpa [imp_iff_not_or] using (List.mem_filter.1 mem).2

theorem cached_dropLine (s : State) (ch line : Nat) : (s.dropLine ch line).cached ch line = false := by
  refine List.any_eq_false.2 fun x mem held => not_mem_dropLine mem ?_
  rwa [Bool.and_eq_true, beq_iff_eq, beq_iff_eq] at held

/-- The state whose next free value has this number. -/
def State.atFree (s : State) (n : Nat) : State := { s with free := n }

/-- A dropped line and the drawing of free values leave memory and the registers alone. -/
theorem dropLine_facts (s : State) (ch line : Nat) : (s.dropLine ch line).mem = s.mem ∧
    (s.dropLine ch line).badLines = s.badLines ∧ (s.dropLine ch line).regs = s.regs := ⟨rfl, rfl, rfl⟩

theorem atFree_facts (s : State) (n : Nat) : (s.atFree n).mem = s.mem ∧ (s.atFree n).badLines = s.badLines ∧
    (s.atFree n).regs = s.regs ∧ (s.atFree n).clusters = s.clusters := ⟨rfl, rfl, rfl, rfl⟩

theorem cached_atFree (s : State) (n ch line : Nat) : (s.atFree n).cached ch line = s.cached ch line := rfl

theorem drawLine_eq (s : State) : ∃ d n, s.drawLine = (d, s.atFree n) :=
  List.foldlRecOn (motive := fun x : Bytes × State => ∃ d n, x = (d, s.atFree n)) (List.range 8) _ ⟨[], s.free, rfl⟩
    fun x drawn _ _ => by
      obtain ⟨d, n, rfl⟩ := drawn
      exact ⟨_, _, rfl⟩

theorem length_slice (b : Bytes) (off n : Nat) : (slice b off n).length = n := by
  rw [slice, List.length_append, List.length_replicate, List.length_take]
  omega

/-- From s to t the line of this number became an uncorrectable DRAM line, of which nothing is known. -/
structure LineLost (s : State) (line : Nat) (t : State) : Prop where
  bad : ∀ x, x ∈ t.badLines ↔ x ∈ s.badLines ∨ x = line
  bytes : ∀ a, a / 128 ≠ line → t.byteAt a = s.byteAt a
  regs : t.regs = s.regs
  clusters : t.clusters = s.clusters

/-- DRAM holds the line of this number with an uncorrectable error and reads it as d. -/
def State.loseLine (s : State) (line : Nat) (d : Bytes) : State :=
  { s with mem := writeBytes s.mem (line * 128) (slice d 0 128),
           badLines := if s.badLines.contains line then s.badLines else line :: s.badLines }

theorem lineLost_loseLine (s : State) (line : Nat) (d : Bytes) : LineLost s line (s.loseLine line d) := by
  refine ⟨fun x => ?_, fun a other => get_writeBytes_of_outside (by rw [length_slice]; omega), rfl, rfl⟩
  rw [State.loseLine]
  dsimp only
  split
  · next held => exact ⟨.inl, fun either => either.elim id fun same => same ▸ List.contains_iff_mem.1 held⟩
  · rw [List.mem_cons, or_comm]

/-- A line that no cache holds is lost. -/
theorem lineEvent_uncorrectable {s : State} {phys : Nat} {d : Bytes} (low : phys < 2 ^ 39) (inside : phys % 2 ^ 31 < chanBytes)
    (dropped : s.cached (phys / 2 ^ 31) (phys % 2 ^ 31 / 128) = false) :
    s.lineEvent { line := phys / 128, err := .uncorrectable d } = s.loseLine (phys / 128) d := by
  refine if_neg ?_
  dsimp only
  rw [show phys / 128 * 128 / 2 ^ 31 = phys / 2 ^ 31 by omega,
    show phys / 128 * 128 % 2 ^ 31 / 128 = phys % 2 ^ 31 / 128 by omega, dropped]
  rintro (held | beyond | far)
  · exact nomatch held
  · rw [chanBytes] at *
    omega
  · omega

section
variable {s : State} {phys : Nat} {l : CacheLine}
  (found : (s.clu (phys / 2 ^ 31 / 8)).cache.find? (fun l => l.chan == phys / 2 ^ 31 && l.line == phys % 2 ^ 31 / 128) = some l)
include found

theorem cacheLineFails_of_found :
    let u := (s.sramEcc true).dropLine (phys / 2 ^ 31) (phys % 2 ^ 31 / 128)
    s.cacheLineFails phys =
      if l.dirty then u.drawLine.2.lineEvent { line := phys / 128, err := .uncorrectable u.drawLine.1 } else u := by
  rw [State.cacheLineFails]
  simp only [found]
  rfl

theorem cacheLineFails_of_clean (clean : l.dirty = false) :
    s.cacheLineFails phys = (s.sramEcc true).dropLine (phys / 2 ^ 31) (phys % 2 ^ 31 / 128) :=
  (cacheLineFails_of_found found).trans (if_neg (Bool.eq_false_iff.1 clean))

theorem cacheLineFails_of_dirty (dirty : l.dirty = true) (low : phys < 2 ^ 39) (inside : phys % 2 ^ 31 < chanBytes) :
    ∃ n d, s.cacheLineFails phys =
      (((s.sramEcc true).dropLine (phys / 2 ^ 31) (phys % 2 ^ 31 / 128)).atFree n).loseLine (phys / 128) d := by
  obtain ⟨d, n, drawn⟩ := drawLine_eq ((s.sramEcc true).dropLine (phys / 2 ^ 31) (phys % 2 ^ 31 / 128))
  refine ⟨n, d, (cacheLineFails_of_found found).trans ((if_pos dirty).trans ?_)⟩
  rw [drawn]
  exact lineEvent_uncorrectable low inside ((cached_atFree _ n _ _).trans (cached_dropLine _ _ _))

end

theorem cacheLineErrors (phys : Nat) (l : CacheLine) (s : State) (low : phys < 2 ^ 39) (inside : phys % 2 ^ 31 < chanBytes)
    (watching : s.watching = true)
    (found : (s.clu (phys / 2 ^ 31 / 8)).cache.find? (fun l => l.chan == phys / 2 ^ 31 && l.line == phys % 2 ^ 31 / 128) = some l) :
    (l.dirty = false → ∃ t, exec (.sramEccError (.cacheLine phys)) s = .next t ∧ t.mem = s.mem ∧
      ∀ x ∈ (t.clu (phys / 2 ^ 31 / 8)).cache, ¬ (x.chan = phys / 2 ^ 31 ∧ x.line = phys % 2 ^ 31 / 128)) ∧
    (l.dirty = true → ∃ t, exec (.sramEccError (.cacheLine phys)) s = .next t ∧ phys / 128 ∈ t.badLines ∧
      (∀ x, x ∈ t.badLines ↔ x ∈ s.badLines ∨ x = phys / 128) ∧ (∀ a, a / 128 ≠ phys / 128 → t.byteAt a = s.byteAt a) ∧
      fld (t.reg 0x200).toNat 16 16 = min (fld (s.reg 0x200).toNat 16 16 + 1) 0xFFFF ∧
      ∀ x ∈ (t.clu (phys / 2 ^ 31 / 8)).cache, ¬ (x.chan = phys / 2 ^ 31 ∧ x.line = phys % 2 ^ 31 / 128)) := by
  have run : exec (.sramEccError (.cacheLine phys)) s = .next (s.cacheLineFails phys) := by
    rw [exec_sramEccError_assigned s low inside, when_true watching]
  rw [run]
  obtain ⟨mem, lines, regs⟩ := dropLine_facts (s.sramEcc true) (phys / 2 ^ 31) (phys % 2 ^ 31 / 128)
  rw [mem_sramEcc] at mem
  rw [badLines_sramEcc] at lines
  refine ⟨fun clean => ?_, fun dirty => ?_⟩
  · rw [cacheLineFails_of_clean found clean]
    exact ⟨_, rfl, mem, fun x => not_mem_dropLine⟩
  · obtain ⟨n, d, fails⟩ := cacheLineFails_of_dirty found dirty low inside
    obtain ⟨mem', lines', regs', clusters'⟩ := atFree_facts ((s.sramEcc true).dropLine (phys / 2 ^ 31) (phys % 2 ^ 31 / 128)) n
    have lost := lineLost_loseLine (((s.sramEcc true).dropLine (phys / 2 ^ 31) (phys % 2 ^ 31 / 128)).atFree n) (phys / 128) d
    have bad := lost.bad
    rw [lines', lines] at bad
    refine ⟨_, congrArg Host.Outcome.next fails, (bad _).2 (.inr rfl), bad, fun a other => (lost.bytes a other).trans ?_, ?_, ?_⟩
    · rw [State.byteAt, mem', mem, State.byteAt]
    · rw [State.reg, lost.regs, regs', regs]
      exact (fld_reg_sramEcc s).2
    · rw [State.clu, lost.clusters, clusters']
      exact fun x => not_mem_dropLine

/-! ### Units (R383, R384, R443) -/

theorem exec_unitTimeout (u : UnitId) (s : State) : exec (.unitTimeout u) s =
    .next (s.when (s.watching && s.mayOverrun u) fun s => s.unitFailure u) := rfl

theorem exec_coreProbe (g : Fin 2048) (answered : Bool) (s : State) : exec (.coreProbe g answered) s =
    .next (s.when (s.watching && !answered) fun s => s.unitFailure (.core g)) := rfl

theorem unitsFail (u : UnitId) (s : State) (watching : s.watching = true) (present : s.unitState u = 0) :
    (∃ t, exec (.sramEccError (.unit u)) s = .next t ∧ t.unitState u = 2) ∧
    (s.mayOverrun u = true → ∃ t, exec (.unitTimeout u) s = .next t ∧ t.unitState u = 2) ∧
    (s.mayOverrun u = false → exec (.unitTimeout u) s = .next s) ∧
    (∀ g, u = .core g → (∃ t, exec (.coreProbe g false) s = .next t ∧ t.unitState u = 2) ∧
      exec (.coreProbe g true) s = .next s) := by
  refine ⟨⟨_, ?_, unitState_unitFailure (((sameUnits_sramEcc s).unitState u).trans present)⟩,
    fun late => ⟨_, ?_, unitState_unitFailure present⟩, fun timely => ?_, fun g core => ⟨⟨_, ?_, unitState_unitFailure present⟩, ?_⟩⟩
  · rw [exec_sramEccError_unit, when_true (by rw [watching, present]; rfl)]
  · rw [exec_unitTimeout, when_true (by rw [watching, late]; rfl)]
  · rw [exec_unitTimeout, when_false (by rw [timely, Bool.and_false])]
  · rw [exec_coreProbe, when_true (by rw [watching]; rfl), core]
  · rw [exec_coreProbe, when_false (show (s.watching && !true) = false from Bool.and_false _)]

/-- An event of a unit does nothing where failures are not watched or the unit is down. -/
theorem when_unitFailure_of_idle {s : State} {u : UnitId} (idle : s.watching = false ∨ s.unitState u ≠ 0) (c : Bool) :
    (s.when (s.watching && c) fun s => s.unitFailure u) = s := by
  obtain unwatched | down := idle
  · rw [unwatched, Bool.false_and, when_false rfl]
  · rw [State.when, unitFailure_of_down down, ite_self]

theorem unitsIdle (u : UnitId) (s : State) (idle : s.watching = false ∨ s.unitState u ≠ 0) :
    exec (.sramEccError (.unit u)) s = .next s ∧ exec (.unitTimeout u) s = .next s ∧
    (∀ g a, u = .core g → exec (.coreProbe g a) s = .next s) := by
  refine ⟨?_, congrArg Host.Outcome.next (when_unitFailure_of_idle idle _), fun g a core => ?_⟩
  · rw [exec_sramEccError_unit, when_false]
    obtain unwatched | down := idle
    · rw [unwatched, Bool.false_and]
    · rw [beq_false_of_ne down, Bool.and_false]
  · exact congrArg Host.Outcome.next (when_unitFailure_of_idle (core ▸ idle) _)

theorem correctedErrors (s : State) : ∃ t, exec (.sramEccError .corrected) s = .next t ∧ { t with regs := s.regs } = s ∧
    fld (t.reg 0x200).toNat 0 16 = min (fld (s.reg 0x200).toNat 0 16 + 1) 0xFFFF ∧
    fld (t.reg 0x200).toNat 16 16 = fld (s.reg 0x200).toNat 16 16 ∧ ∀ a, a ≠ 0x200 → t.reg a = s.reg a := by
  obtain ⟨counted, kept⟩ := (fld_reg_sramEcc s).1
  exact ⟨_, exec_sramEccError_corrected s, sramEcc_frame s false, counted, kept, fun a other => reg_sramEcc_ne s false other⟩

theorem unitFailures : Claims.UnitFailures :=
  ⟨correctedErrors, fun phys l s _ low inside watching found => cacheLineErrors phys l s low inside watching found,
    fun _ s out => exec_sramEccError_unassigned s out, unitsFail, unitsIdle⟩

/-- Settles O52: the sensors, the blocks that gate themselves, and the failures, each by its lemmas above. -/
theorem powerAndFailures : Obligations.PowerAndFailures := ⟨sensorReads, gatingAndRefresh, unitFailures⟩

end Sys2Proof.Machine
end

section
/-! PROOFS. The Mill queue (R116 to R126): where the oldest submitted descriptor goes, whom a grant serves and what it
refuses, and what a grant's end and a completion do; from these rules the statement MillRequests. -/

namespace Sys2Proof.Machine

theorem isNone_lowest_eq_true {n : Nat} {p : Nat → Bool} (no : ∀ i, i < n → p i = false) :
    (lowest n p).isNone = true := by
  rw [Option.isNone_iff_eq_none, lowest, List.find?_eq_none]
  exact fun i mem => Bool.eq_false_iff.1 (no i (List.mem_range.1 mem))

theorem isNone_lowest_eq_false {n : Nat} {p : Nat → Bool} (found : ∃ i, i < n ∧ p i = true) :
    (lowest n p).isNone = false := by
  obtain ⟨i, below, holds⟩ := found
  rw [← Option.not_isSome, Bool.not_eq_false', lowest, List.find?_isSome]
  exact ⟨i, List.mem_range.2 below, holds⟩

/-! ### Routing (R116, R119, R128, R390) -/

theorem earlierUnrouted_iff {s : State} {p : Part} {d : MillDesc} {dest : Nat} : s.earlierUnrouted p d dest = true ↔
    ∃ m ∈ p.clusters, ∃ x ∈ (s.clu m).millSub, x.ctx = d.ctx ∧ x.id < d.id ∧ p.serving m x.raw = dest := by
  simp only [State.earlierUnrouted, List.any_eq_true, Bool.and_eq_true, beq_iff_eq, decide_eq_true_eq, and_assoc]

/-- Descriptor d, whose turn has come, arrives at cluster `dest` in state u. -/
def State.arriveMill (u : State) (dest : Nat) (d : MillDesc) : State :=
  if (u.clu dest).resetting then u.completeMill dest d stUnitResetting 0
  else if (lowest 8 (u.millPresent dest)).isNone then u.completeMill dest d stUnitAbsent 0
  else u.modClu dest fun k => { k with millQ := k.millQ ++ [d] }

section
variable {s : State} {n : Nat} {d : MillDesc} {rest : List MillDesc}

theorem millRouteStep_of_empty (empty : (s.clu n).millSub = []) : s.millRouteStep n = s := by
  rw [State.millRouteStep, empty]

theorem millRouteStep_of_earlier (head : (s.clu n).millSub = d :: rest)
    (earlier : s.earlierUnrouted (s.millPart d) d ((s.millPart d).serving n d.raw) = true) : s.millRouteStep n = s := by
  simp only [State.millRouteStep, head, earlier, if_true]

theorem millRouteStep_of_turn (head : (s.clu n).millSub = d :: rest)
    (turn : s.earlierUnrouted (s.millPart d) d ((s.millPart d).serving n d.raw) = false) :
    let dest := (s.millPart d).serving n d.raw
    s.millRouteStep n = ((s.wakeCluster dest).modClu n fun k => { k with millSub := rest }).arriveMill dest d := by
  simp only [State.millRouteStep, head, turn, Bool.false_eq_true, if_false, State.arriveMill]

end

section
variable {u : State} {dest : Nat}

theorem arriveMill_of_resetting (d : MillDesc) (resetting : (u.clu dest).resetting = true) :
    u.arriveMill dest d = u.completeMill dest d stUnitResetting 0 := if_pos resetting

theorem arriveMill_of_absent (d : MillDesc) (running : (u.clu dest).resetting = false)
    (absent : ∀ i, i < 8 → u.millPresent dest i = false) :
    u.arriveMill dest d = u.completeMill dest d stUnitAbsent 0 :=
  (if_neg (Bool.eq_false_iff.1 running)).trans (if_pos (isNone_lowest_eq_true absent))

theorem arriveMill_of_present (d : MillDesc) (running : (u.clu dest).resetting = false)
    (present : ∃ i, i < 8 ∧ u.millPresent dest i = true) :
    u.arriveMill dest d = u.modClu dest fun k => { k with millQ := k.millQ ++ [d] } :=
  (if_neg (Bool.eq_false_iff.1 running)).trans (if_neg (Bool.eq_false_iff.1 (isNone_lowest_eq_false present)))

end

theorem exec_millRoute (c : Fin 32) (s : State) : exec (.millRoute c) s = .next (s.millRouteStep c.val) := rfl

/-! ### Grants (R119, R121) -/

/-- Cluster n may grant: nothing is in service, the cluster runs, and one of its Mills works. -/
def State.MillFree (s : State) (n : Nat) : Prop :=
  (s.clu n).millCur = none ∧ s.clusterUp n = true ∧ ∃ i, i < 8 ∧ s.millUp n i = true

/-- Descriptor d is refused as it starts, with a status and the cause of its program fault (R121). -/
def State.refuseMill (u : State) (n : Nat) (d : MillDesc) (st : BitVec 16) (cause : Nat) : State :=
  ((u.modClu n fun k => k.dropMill d.id).completeMill n d st 0).progFault d.site.core.val d.site.share.val cause
    (engineOf 3) d.index

/-- Descriptor d is served in state u: resumed where it has started, else checked and started or refused. -/
def State.serveMill (u : State) (n : Nat) (d : MillDesc) : State :=
  if d.started then u.modClu n fun k => { k with millCur := some d.id }
  else if mBad d.op d.raw (u.millPart d) then u.refuseMill n d stBadField 0x24
  else if u.mOut d (u.millPart d) then u.refuseMill n d stOutOfBounds 0x25
  else u.modClu n fun k => { k.setMill { d with started := true, idx := u.mIndices d } with millCur := some d.id }

section
variable {s : State} {n : Nat}

theorem grant_guard_iff_not_millFree :
    ((s.clu n).millCur.isSome || !s.clusterUp n || (lowest 8 (s.millUp n)).isNone) = true ↔ ¬ s.MillFree n := by
  have works : (lowest 8 (s.millUp n)).isNone = true ↔ ¬ ∃ i, i < 8 ∧ s.millUp n i = true := by
    refine ⟨fun none_ found => ?_, fun none_ => isNone_lowest_eq_true fun i below => ?_⟩
    · exact Bool.false_ne_true ((isNone_lowest_eq_false found).symm.trans none_)
    · exact Bool.eq_false_iff.2 fun up => none_ ⟨i, below, up⟩
  simp only [State.MillFree, Bool.or_eq_true, works, Bool.not_eq_true', Option.isSome_iff_ne_none, ← Bool.not_eq_true,
    not_and_or, or_assoc, ne_eq]

theorem grant_of_not_free (ev : List LineEvent) (busy : ¬ s.MillFree n) : s.grant n ev = s :=
  if_pos (grant_guard_iff_not_millFree.2 busy)

theorem grant_of_no_next (ev : List LineEvent) (idle : (s.clu n).millNext = none) : s.grant n ev = s := by
  simp only [State.grant, idle, ite_self]

theorem grant_of_next {x : Nat} {d : MillDesc} (free : s.MillFree n) (next : (s.clu n).millNext = some x)
    (found : (s.clu n).millQ.find? (fun d => d.ctx == x) = some d) :
    s.grant n [] = (s.modClu n fun k => { k with millLast := some x }).serveMill n d := by
  rw [State.grant, if_neg (mt grant_guard_iff_not_millFree.1 (not_not_intro free))]
  simp only [next, found, State.lineEvents, List.foldl_nil]
  rfl

end

section
variable {u : State} {d : MillDesc} (n : Nat)

theorem serveMill_of_started (started : d.started = true) :
    u.serveMill n d = u.modClu n fun k => { k with millCur := some d.id } := if_pos started

theorem serveMill_of_bad (new : d.started = false) (bad : mBad d.op d.raw (u.millPart d) = true) :
    u.serveMill n d = u.refuseMill n d stBadField 0x24 := by
  simp only [State.serveMill, new, bad, Bool.false_eq_true, if_false, if_true]

theorem serveMill_of_out (new : d.started = false) (good : mBad d.op d.raw (u.millPart d) = false)
    (out : u.mOut d (u.millPart d) = true) : u.serveMill n d = u.refuseMill n d stOutOfBounds 0x25 := by
  simp only [State.serveMill, new, good, out, Bool.false_eq_true, if_false, if_true]

theorem serveMill_of_accepted (new : d.started = false) (good : mBad d.op d.raw (u.millPart d) = false)
    (inside : u.mOut d (u.millPart d) = false) : u.serveMill n d = u.modClu n fun k =>
      { k.setMill { d with started := true, idx := u.mIndices d } with millCur := some d.id } := by
  simp only [State.serveMill, new, good, inside, Bool.false_eq_true, if_false]

end

theorem exec_millGrant (c : Fin 32) (ev : List LineEvent) (s : State) :
    exec (.millGrant c ev) s = .next (s.grant c.val ev) := rfl

theorem millQueues : Claims.MillQueues := by
  refine ⟨fun c s => ?_, fun c s => ?_⟩
  · rw [exec_millRoute]
    intro out
    refine ⟨fun empty => congrArg _ (millRouteStep_of_empty empty), fun d rest head => ?_⟩
    intro p dest earlier u
    refine ⟨fun waits => congrArg _ (millRouteStep_of_earlier head (earlierUnrouted_iff.2 waits)), fun turn => ?_⟩
    have routed : out = .next (u.arriveMill dest d) :=
      congrArg _ (millRouteStep_of_turn head (Bool.eq_false_iff.2 (mt earlierUnrouted_iff.1 turn)))
    refine ⟨fun resetting => ?_, fun running absent => ?_, fun running present => ?_⟩
    · rw [routed, arriveMill_of_resetting d resetting]
    · rw [routed, arriveMill_of_absent d running absent]
    · rw [routed, arriveMill_of_present d running present]
  · rw [exec_millGrant]
    intro n k out free
    refine ⟨fun held => ?_, fun x d free next found => ?_⟩
    · obtain busy | idle := held
      · exact congrArg _ (grant_of_not_free [] busy)
      · exact congrArg _ (grant_of_no_next [] idle)
    · intro u p refused
      have served : out = .next (u.serveMill n d) := congrArg _ (grant_of_next free next found)
      refine ⟨fun started => ?_, fun new bad => ?_, fun new good outside => ?_, fun new good inside => ?_⟩
      · rw [served, serveMill_of_started n started]
      · exact served.trans (congrArg _ (serveMill_of_bad n new bad))
      · exact served.trans (congrArg _ (serveMill_of_out n new good outside))
      · rw [served, serveMill_of_accepted n new good inside]

/-! ### The end of a grant, and completion (R118, R119, R125, R126) -/

section
variable {s : State} {n : Nat} {d : MillDesc}

theorem expireGrant_of_idle (rows : Nat) (idle : (s.clu n).serving = none ∨ s.clusterUp n = false) :
    s.expireGrant n rows = s := by
  rw [State.expireGrant]
  obtain nothing | stopped := idle
  · rw [nothing]
  · split
    · rfl
    · simp only [stopped, Bool.not_false, Bool.true_or, if_true]

theorem expireGrant_of_no_boundary {rows : Nat} (serving : (s.clu n).serving = some d)
    (beyond : rows = 0 ∨ mTotal d ≤ d.rows + rows) : s.expireGrant n rows = s := by
  simp only [State.expireGrant, serving, Bool.or_eq_true, decide_eq_true_eq, or_assoc, beyond, or_true, if_true]

theorem expireGrant_of_boundary {rows : Nat} (serving : (s.clu n).serving = some d) (up : s.clusterUp n = true)
    (moves : 0 < rows) (short : d.rows + rows < mTotal d) :
    let r := s.millRows (s.millPart d) d d.rows (d.rows + rows)
    s.expireGrant n rows = r.1.modClu n fun k =>
      { k.setMill { d with rows := d.rows + rows, bad := d.bad + r.2 } with millCur := none } := by
  have boundary : ¬ (rows = 0 ∨ mTotal d ≤ d.rows + rows) := by omega
  simp only [State.expireGrant, serving, up, Bool.not_true, Bool.false_or, Bool.or_eq_true, decide_eq_true_eq, boundary,
    if_false]

theorem finishMill_of_idle (idle : (s.clu n).serving = none ∨ s.clusterUp n = false) : s.finishMill n = s := by
  rw [State.finishMill]
  obtain nothing | stopped := idle
  · rw [nothing]
  · split
    · rfl
    · simp only [stopped, Bool.not_false, if_true]

theorem finishMill_of_serving (serving : (s.clu n).serving = some d) (up : s.clusterUp n = true) :
    let r := s.millRows (s.millPart d) d d.rows (mTotal d)
    let bad := d.bad + r.2
    s.finishMill n = (r.1.modClu n fun k => k.dropMill d.id).completeMill n d
      (if bad = 0 then stOk else stEccUncorrectable) bad := by
  simp only [State.finishMill, serving, up, Bool.not_true, Bool.false_eq_true, if_false]

end

theorem exec_grantExpiry (c : Fin 32) (rows : Nat) (s : State) :
    exec (.grantExpiry c rows) s = .next (s.expireGrant c.val rows) := rfl

theorem exec_millCompletion (c : Fin 32) (s : State) : exec (.millCompletion c) s = .next (s.finishMill c.val) := rfl

theorem millService : Claims.MillService := by
  intro c rows s n
  rw [exec_grantExpiry, exec_millCompletion]
  refine ⟨fun idle => ?_, fun d serving up => ⟨fun beyond => ?_, fun moves short => ?_, ?_⟩⟩
  · rw [expireGrant_of_idle rows idle, finishMill_of_idle idle]
    exact ⟨rfl, rfl⟩
  · rw [expireGrant_of_no_boundary serving beyond]
  · exact congrArg _ (expireGrant_of_boundary serving up moves short)
  · exact congrArg _ (finishMill_of_serving serving up)

/-- Settles O49: the queue and its service, each by the rules above. -/
theorem millRequests : Obligations.MillRequests := ⟨millQueues, millService⟩

end Sys2Proof.Machine
end

section
/-! PROOFS. The register words of the front end, guarded-off words and taken branches (R133, R136 to R141): what a word
that faults or is guarded off comes to, the results of the words that write one register, the loops that a branch leaves
open, and from these rules the statements RegisterWords, GuardedOffWords and TakenBranches. -/

namespace Sys2Proof.Machine

/-! ### Words that write one register -/

section
variable {s : State} {site : Site} {w : W64} {op : Nat} {f : ShareSt → FrontRes} {d : Nat}

/-- A straight word that writes one scalar register, with a value that the share's own registers give. -/
theorem dispatchFront_setS (issues : Issues s site w op) (straight : Straight s site) {v : Word}
    (res : ∀ h : ShareSt, h.s = (s.at site).s → h.a = (s.at site).a → f h = .ok (h.setS d v)) :
    FrontSets s (s.dispatchFront site w op f) site (Tbl.set 0 (s.at site).s d v) (s.at site).a (s.at site).p :=
  dispatchFront_sets s site w op f issues straight _ _ _ fun h hs ha hp _ _ => by
    rw [res h hs ha, ← hs, ← ha, ← hp]
    rfl

/-- The same of an address register. -/
theorem dispatchFront_setA (issues : Issues s site w op) (straight : Straight s site) {v : Addr}
    (res : ∀ h : ShareSt, h.s = (s.at site).s → h.a = (s.at site).a → f h = .ok (h.setA d v)) :
    FrontSets s (s.dispatchFront site w op f) site (s.at site).s (Tbl.set 0 (s.at site).a d v) (s.at site).p :=
  dispatchFront_sets s site w op f issues straight _ _ _ fun h hs ha hp _ _ => by
    rw [res h hs ha, ← hs, ← ha, ← hp]
    rfl

/-- The same of a predicate register. -/
theorem dispatchFront_setP (issues : Issues s site w op) (straight : Straight s site) {v : Bool}
    (res : ∀ h : ShareSt, h.s = (s.at site).s → h.p = (s.at site).p → f h = .ok (h.setP d v)) :
    FrontSets s (s.dispatchFront site w op f) site (s.at site).s (s.at site).a (Tbl.set false (s.at site).p d v) :=
  dispatchFront_sets s site w op f issues straight _ _ _ fun h hs ha hp _ _ => by
    rw [res h hs hp, ← hs, ← ha, ← hp]
    rfl

end

/-! ### Scalar and address words (R137, R138, R140) -/

theorem truncate_eq_ofNat_fld (w : W64) : w.truncate 32 = BitVec.ofNat 32 (fld w.toNat 0 32) := by
  apply BitVec.eq_of_toNat_eq
  simp [fld]

/-- The second operand: IMM when IM is 1, else s_S2 of the register file S. -/
theorem aluSecond_eq (h : ShareSt) (w : W64) :
    aluSecond h w.toNat = if w.getLsbD 35 then w.truncate 32 else h.sReg (fld w.toNat 36 5) := by
  rw [aluSecond, bitOf_toNat, truncate_eq_ofNat_fld]

theorem aluWord_eq {h x : ShareSt} (same : h.s = x.s) (w : W64) (f : Word → Word → Word) : aluWord w.toNat f h =
    .ok (h.setS (fld w.toNat 46 5) (f (x.sReg (fld w.toNat 41 5))
      (if w.getLsbD 35 then w.truncate 32 else x.sReg (fld w.toNat 36 5)))) := by
  rw [aluWord, aluSecond_eq, ShareSt.sReg, ShareSt.sReg, same]
  rfl

/-- The lesser and the greater of two words, whichever way the comparison is asked. -/
theorem min_of_slt (a b : Word) : (if b.slt a then b else a) = if a.toInt ≤ b.toInt then a else b := by
  simp only [BitVec.slt_eq_decide, decide_eq_true_eq, ← not_le, ite_not]

theorem max_of_slt (a b : Word) : (if a.slt b then b else a) = if a.toInt ≤ b.toInt then b else a := by
  simp only [BitVec.slt_eq_decide, decide_eq_true_eq]
  obtain less | same | more := lt_trichotomy a.toInt b.toInt
  · rw [if_pos less, if_pos less.le]
  · rw [if_pos same.le, BitVec.toInt_inj.1 same, ite_self]
  · rw [if_neg more.not_gt, if_neg more.not_ge]

theorem scalarWords : Claims.ScalarWords := by
  intro site w s op c v issues straight h a b word
  have alu (f : Word → Word → Word) (value : f a b = v) :
      FrontSets s (s.dispatchFront site w op (aluWord w.toNat f)) site (Tbl.set 0 h.s (fld w.toNat 46 5) v) h.a h.p :=
    dispatchFront_setS issues straight fun x hs _ => by
      rw [← value]
      exact aluWord_eq hs w f
  obtain ⟨rfl, rfl, rfl⟩ | ⟨rfl, rfl, rfl⟩ | ⟨rfl, rfl, rfl⟩ | ⟨rfl, rfl, rfl⟩ | ⟨rfl, rfl, rfl⟩ | ⟨rfl, rfl, rfl⟩ |
    ⟨rfl, rfl, rfl⟩ | ⟨rfl, rfl, rfl⟩ | ⟨rfl, rfl, rfl⟩ | ⟨rfl, rfl, rfl⟩ | ⟨rfl, rfl, rfl⟩ | ⟨rfl, rfl, rfl⟩ |
    ⟨rfl, rfl, rfl⟩ := word
  case inr.inr.inr.inr.inr.inr.inr.inr.inr.inl => exact ⟨_, rfl, alu _ (min_of_slt a b)⟩
  case inr.inr.inr.inr.inr.inr.inr.inr.inr.inr.inl => exact ⟨_, rfl, alu _ (max_of_slt a b)⟩
  case inr.inr.inr.inr.inr.inr.inr.inr.inr.inr.inr.inl =>
    exact ⟨_, rfl, dispatchFront_setS issues straight fun _ _ _ => rfl⟩
  case inr.inr.inr.inr.inr.inr.inr.inr.inr.inr.inr.inr =>
    refine ⟨_, rfl, dispatchFront_setS issues straight fun x _ ha => ?_⟩
    rw [ShareSt.aReg, ha]
    rfl
  all_goals exact ⟨_, rfl, alu _ rfl⟩

theorem addressWords : Claims.AddressWords := by
  intro site w s op c v issues straight h a word
  obtain ⟨rfl, rfl, rfl⟩ | ⟨rfl, rfl, rfl⟩ | ⟨rfl, rfl, rfl⟩ := word
  · exact ⟨_, rfl, dispatchFront_setA issues straight fun _ _ _ => rfl⟩
  · refine ⟨_, rfl, dispatchFront_setA issues straight fun x _ ha => ?_⟩
    rw [ShareSt.aReg, ha]
    rfl
  · refine ⟨_, rfl, dispatchFront_setA issues straight fun x hs ha => ?_⟩
    rw [ShareSt.aReg, ShareSt.sReg, hs, ha]
    rfl

/-! ### Predicate words (R139, R140) -/

theorem cmpWord_eq {h x : ShareSt} (same : h.s = x.s) (w : W64) (f : Word → Word → Bool) : cmpWord w.toNat f h =
    .ok (h.setP (fld w.toNat 48 3) (f (x.sReg (fld w.toNat 43 5))
      (if w.getLsbD 37 then w.truncate 32 else x.sReg (fld w.toNat 38 5)))) := by
  rw [cmpWord, bitOf_toNat, truncate_eq_ofNat_fld, ShareSt.sReg, ShareSt.sReg, same]
  rfl

theorem logWord_eq {h x : ShareSt} (same : h.p = x.p) (w : Nat) (f : Bool → Bool → Bool) : logWord w f h =
    .ok (h.setP (fld w 48 3) (f (x.pReg (fld w 45 3)) (x.pReg (fld w 42 3)))) := by
  rw [logWord, ShareSt.pReg, ShareSt.pReg, same]
  rfl

theorem predicateWords : Claims.PredicateWords := by
  intro site w s op c v issues straight h a b x y word
  have cmp (f : Word → Word → Bool) (value : f a b = v) :
      FrontSets s (s.dispatchFront site w op (cmpWord w.toNat f)) site h.s h.a (Tbl.set false h.p (fld w.toNat 48 3) v) :=
    dispatchFront_setP issues straight fun u hs _ => by
      rw [← value]
      exact cmpWord_eq hs w f
  have log (f : Bool → Bool → Bool) (value : f x y = v) :
      FrontSets s (s.dispatchFront site w op (logWord w.toNat f)) site h.s h.a (Tbl.set false h.p (fld w.toNat 48 3) v) :=
    dispatchFront_setP issues straight fun u _ hp => by
      rw [← value]
      exact logWord_eq hp w.toNat f
  obtain ⟨rfl, rfl, rfl⟩ | ⟨rfl, rfl, rfl⟩ | ⟨rfl, rfl, rfl⟩ | ⟨rfl, rfl, rfl⟩ | ⟨rfl, rfl, rfl⟩ | ⟨rfl, rfl, rfl⟩ |
    ⟨rfl, rfl, rfl⟩ | ⟨rfl, rfl, rfl⟩ | ⟨rfl, rfl, rfl⟩ | ⟨rfl, rfl, rfl⟩ | ⟨rfl, rfl, rfl⟩ := word
  · exact ⟨_, rfl, cmp _ rfl⟩
  · exact ⟨_, rfl, cmp _ (decide_not ..).symm⟩
  · exact ⟨_, rfl, cmp _ (BitVec.slt_eq_decide ..)⟩
  · exact ⟨_, rfl, cmp _ (by rw [BitVec.slt_eq_decide, ← decide_not, decide_eq_decide, not_lt])⟩
  · exact ⟨_, rfl, cmp _ (BitVec.ult_eq_decide ..)⟩
  · exact ⟨_, rfl, cmp _ (by rw [BitVec.ult_eq_decide, ← decide_not, decide_eq_decide, not_lt])⟩
  · exact ⟨_, rfl, log _ rfl⟩
  · exact ⟨_, rfl, log _ rfl⟩
  · exact ⟨_, rfl, log _ rfl⟩
  · exact ⟨_, rfl, log _ rfl⟩
  · refine ⟨_, rfl, dispatchFront_setP issues straight fun u _ _ => ?_⟩
    rw [bitOf_toNat]

/-- Settles O14: a scalar, an address or a predicate word writes its one register with the value of its row. -/
theorem registerWords : Obligations.RegisterWords := ⟨scalarWords, addressWords, predicateWords⟩

/-! ### Guarded-off words (R136) -/

section
variable {s : State} {site : Site} {w : W64} {op : Nat} {f : ShareSt → FrontRes}

/-- A guarded-off front-end word only lets its share pass on. -/
theorem dispatchFront_of_off (dispatches : s.dispatches site w = true) (opcode : wOp w.toNat = op)
    (ok : wordOk w.toNat = true) (allowed : ((s.at site).fusedLoop.isSome && fuseForbids op) = false)
    (off : (s.at site).guardOff w.toNat = true) : ∃ h, Dispatched (s.at site) h ∧
      OnlyShare s (s.dispatchFront site w op f) site ∧
      (s.dispatchFront site w op f).at site = h.advance (s.at site).pc := by
  obtain ⟨only, dis⟩ := dispatched_spec s site
  have own : (s.dispatched site.core.val site.share.val).share site.core.val site.share.val =
    (s.dispatched site.core.val site.share.val).at site := rfl
  generalize (s.dispatched site.core.val site.share.val).at site = h at own dis
  have pc : h.pc = (s.at site).pc := Dispatched.pc dis
  have allowed' : (h.fusedLoop.isSome && fuseForbids op) = false := by obtain ⟨d, b, e, rfl⟩ := dis; exact allowed
  have off' : h.guardOff w.toNat = true := by obtain ⟨d, b, e, rfl⟩ := dis; exact off
  have run : s.dispatchFront site w op f =
      (s.dispatched site.core.val site.share.val).setShare site.core.val site.share.val (h.advance h.pc) := by
    simp only [State.dispatchFront, dispatches, opcode, ok, own, allowed', off', beq_self_eq_true, Bool.and_self,
      Bool.not_true, Bool.false_eq_true, if_true, if_false]
  rw [run, ← pc]
  exact ⟨h, dis, only.trans (onlyShare_setShare _ site _), share_setShare_self _ _ _ _⟩

/-- Where no open loop ends, it passes to the next word, and every register stays. -/
theorem frontSets_of_off (dispatches : s.dispatches site w = true) (opcode : wOp w.toNat = op)
    (ok : wordOk w.toNat = true) (allowed : ((s.at site).fusedLoop.isSome && fuseForbids op) = false)
    (off : (s.at site).guardOff w.toNat = true) (straight : Straight s site) :
    FrontSets s (s.dispatchFront site w op f) site (s.at site).s (s.at site).a (s.at site).p := by
  obtain ⟨h, dis, only, own⟩ := dispatchFront_of_off (f := f) dispatches opcode ok allowed off
  obtain ⟨d, b, e, eq⟩ := dis
  rw [straight_advance s site straight h (by rw [eq])] at own
  refine ⟨only, ?_⟩
  rw [own, eq]
  exact ⟨rfl, rfl, rfl, rfl, rfl, rfl, rfl, rfl, rfl, rfl⟩

/-- A guarded-off sys.rd latches no time. -/
theorem exec_sysRd_of_off (off : (s.at site).guardOff w.toNat = true) :
    exec (.sysRd site w) s = .next (s.dispatchFront site w 0x05 (sysRdWord s site w.toNat)) := by
  have held : (s.share site.core.val site.share.val).guardOff w.toNat = true := off
  have not_ : s.latchesTime site w = false := by
    simp only [State.latchesTime, held, Bool.not_true, Bool.and_false, Bool.false_and]
  rw [exec_sysRd, not_]
  rfl

end

theorem guardedOffFrontWords : Claims.GuardedOffFrontWords := by
  intro site w s op c dispatches opcode ok off allowed straight word
  have passes (f : ShareSt → FrontRes) :
      FrontSets s (s.dispatchFront site w op f) site (s.at site).s (s.at site).a (s.at site).p :=
    frontSets_of_off dispatches opcode ok allowed off straight
  obtain ⟨rfl, rfl⟩ | ⟨rfl, rfl⟩ | ⟨rfl, rfl⟩ | ⟨rfl, rfl⟩ | ⟨rfl, rfl⟩ | ⟨rfl, rfl⟩ | ⟨rfl, rfl⟩ | ⟨rfl, rfl⟩ |
    ⟨rfl, rfl⟩ := word
  case inr.inr.inr.inl => exact ⟨_, exec_sysRd_of_off off, passes _⟩
  all_goals exact ⟨_, rfl, passes _⟩

/-- Every engine word is `State.engineWord` on the queue of its class, whichever its opcode and its act. -/
theorem exec_engineInstr_queue {op q : Nat} {site : Site} {act : Act} {w : W64} {c : Instr}
    (instr : engineInstr op site act w = some c) (queue : queueOf op = some q) (s : State) :
    ∃ f, exec c s = .next (s.engineWord site act w q op f) := by
  unfold engineInstr at instr
  split at instr
  case h_66 => cases instr
  all_goals
    obtain rfl := Option.some.inj instr
    obtain rfl := Option.some.inj queue
    exact ⟨_, rfl⟩

/-- A guarded-off word at its turn leaves its queue and posts. -/
theorem startEngine_of_off {s : State} {site : Site} {w : W64} {q op : Nat} {e : QEntry} {rest : List QEntry}
    (queue : (s.at site).queue q = e :: rest) (word : e.word = w) (opcode : wOp w.toNat = op) (off : e.off = true)
    (startable : s.startable site.core.val q site.share.val = true)
    (chosen : s.chooses site.core.val q (s.startable site.core.val q) = some site.share.val)
    (f : State → Nat → Nat → QEntry → StartRes) : s.startEngine site w q op f =
      ((s.turned site q).leave site.core.val q site.share.val).wordDone site.core.val site.share.val (wPost w.toNat)
        e.stage := by
  have head : (s.share site.core.val site.share.val).queue q = e :: rest := queue
  subst word
  simp only [State.startEngine, head, opcode, startable, chosen, off, beq_self_eq_true, Bool.and_self, if_true]
  rfl

theorem guardedOffEngineWords : Claims.GuardedOffEngineWords := by
  intro op q site w s c e rest instr queue head word opcode off startable chosen
  obtain ⟨f, run⟩ := exec_engineInstr_queue instr queue s
  exact run.trans (congrArg Host.Outcome.next (startEngine_of_off head word opcode off startable chosen f))

/-- Settles O16: a front-end word passes on before its effect is asked for, and an engine word ends before its own. -/
theorem guardedOffWords : Obligations.GuardedOffWords := ⟨guardedOffFrontWords, guardedOffEngineWords⟩

/-! ### Taken branches (R141) -/

/-- A word that faults is dispatched, and its fault is recorded at its index. -/
theorem dispatchFront_of_fault {s : State} {site : Site} {w : W64} {op cause : Nat} {f : ShareSt → FrontRes}
    (issues : Issues s site w op) (res : ∀ h, Dispatched (s.at site) h → f h = .fault cause) :
    s.dispatchFront site w op f = (s.dispatched site.core.val site.share.val).progFault site.core.val site.share.val cause
      engFront (s.at site).pc := by
  obtain ⟨dispatches, opcode, ok, on, allowed⟩ := issues
  have dis := dispatched_at s site
  have own : (s.dispatched site.core.val site.share.val).share site.core.val site.share.val =
    (s.dispatched site.core.val site.share.val).at site := rfl
  generalize (s.dispatched site.core.val site.share.val).at site = h at own dis
  have allowed' : (h.fusedLoop.isSome && fuseForbids op) = false := by obtain ⟨d, b, e, rfl⟩ := dis; exact allowed
  have on' : h.guardOff w.toNat = false := by obtain ⟨d, b, e, rfl⟩ := dis; exact on
  simp only [State.dispatchFront, dispatches, opcode, ok, own, allowed', on', res h dis, dis.pc, beq_self_eq_true,
    Bool.and_self, Bool.not_true, Bool.false_eq_true, if_true, if_false]

/-- A branch that leaves the program faults. -/
theorem brWord_of_outside {h : ShareSt} {w : Nat} (outside : ¬ (0 ≤ (h.pc : Int) + signed 24 (fld w 0 24) ∧
    ((h.pc : Int) + signed 24 (fld w 0 24)).toNat < h.program.length)) : brWord w h = .fault 0x30 := by
  refine if_neg fun taken => outside ⟨taken.1, ?_⟩
  have below := taken.2
  omega

/-- Where loops nest, those that a branch to word n leaves open all contain n. -/
theorem contains_of_mem_dropWhile {n : Nat} {ls : List Loop} {l : Loop}
    (nested : ls.Pairwise fun inner outer => outer.first ≤ inner.first ∧ inner.last ≤ outer.last)
    (left : l ∈ ls.dropWhile fun l => decide (n < l.first ∨ l.last < n)) : l.first ≤ n ∧ n ≤ l.last := by
  induction ls with
  | nil => cases left
  | cons x xs ih =>
    obtain ⟨outward, nested⟩ := List.pairwise_cons.1 nested
    rw [List.dropWhile_cons] at left
    split at left
    case isTrue => exact ih nested left
    case isFalse contains =>
      have inside : x.first ≤ n ∧ n ≤ x.last := by simpa using contains
      obtain rfl | outer := List.mem_cons.1 left
      · exact inside
      · exact ⟨(outward l outer).1.trans inside.1, inside.2.trans (outward l outer).2⟩

/-- Settles O58: inside the program as the control words have it; outside, the word's effect is its fault. -/
theorem takenBranches : Obligations.TakenBranches := by
  intro site w s issues target n inside out
  obtain ⟨-, -, -, branch, -⟩ := controlWords
  refine ⟨fun taken => ?inside, fun outside => ?outside⟩
  case inside =>
    obtain ⟨t, run, only, frame, pc, regs, addrs, preds, loops⟩ :=
      branch site w s n issues (Int.toNat_of_nonneg taken.1).symm taken.2
    refine ⟨t, run, only, frame, pc, regs, addrs, preds, loops, fun nested l left => ?_⟩
    rw [loops] at left
    exact contains_of_mem_dropWhile nested left
  case outside =>
    refine congrArg Host.Outcome.next (dispatchFront_of_fault issues fun h dis => ?_)
    obtain ⟨d, b, e, rfl⟩ := dis
    exact brWord_of_outside outside

end Sys2Proof.Machine
end

section
/-! PROOFS. Synchronisation (R146 to R149, R369): how a word that faults or stays at its queue's head starts, the
synchronisation words on an object of their partition and on another's, the three commands that set, test and await an
object or earlier commands, and from these rules the statements SyncWords and SyncCommands. -/

namespace Sys2Proof.Machine

/-! ### The condition of R147 -/

theorem syncReady_iff (value target : Word) : syncReady value target = true ↔ (value - target).toNat < 2 ^ 31 := by
  rw [syncReady, BitVec.msb_eq_decide, ← decide_not, decide_eq_true_eq, not_le]

theorem syncReady_of_far {value target : Word} (far : 2 ^ 31 ≤ (value - target).toNat) : syncReady value target = false :=
  Bool.eq_false_iff.2 (mt (syncReady_iff value target).1 (Nat.not_lt.2 far))

/-! ### Words that stay or fault -/

section
variable {s t : State} {site : Site} {w : W64} {q op cause : Nat} {e : QEntry} {f : State → Nat → Nat → QEntry → StartRes}

theorem Starts.opcode (starts : Starts s site w q op e) : wOp w.toNat = op := starts.2.2.1

/-- A word that stays at the head of its queue leaves what its effect made. -/
theorem startEngine_of_keep (starts : Starts s site w q op e)
    (res : f (s.turned site q) site.core.val site.share.val e = .keep t) : s.startEngine site w q op f = t := by
  obtain ⟨⟨rest, queue⟩, word, opcode, on, startable, chosen⟩ := starts
  have head : (s.share site.core.val site.share.val).queue q = e :: rest := queue
  simp only [State.startEngine, head, word, opcode, startable, chosen, beq_self_eq_true, Bool.and_self, if_true, on,
    Bool.false_eq_true, if_false]
  rw [show (s.wakeCore site.core.val).rotate site.core.val q site.share.val = s.turned site q from rfl, res]

/-- A movement word that makes no draw and faults leaves its queue, takes the free value of its cycles, and is charged
nothing (R269). -/
theorem startEngine_of_fault (starts : Starts s site w 3 op e) (drawless : e.drawCount = 0)
    (res : f (s.turned site 3) site.core.val site.share.val e = .fault t cause) :
    let u := t.leave site.core.val 3 site.share.val
    s.startEngine site w 3 op f =
      { u with free := u.free + 1 }.progFault site.core.val site.share.val cause engMovement e.index := by
  obtain ⟨⟨rest, queue⟩, word, opcode, on, startable, chosen⟩ := starts
  have head : (s.share site.core.val site.share.val).queue 3 = e :: rest := queue
  simp only [State.startEngine, head, word, opcode, startable, chosen, beq_self_eq_true, Bool.and_self, if_true, on,
    Bool.false_eq_true, if_false]
  rw [show (s.wakeCore site.core.val).rotate site.core.val 3 site.share.val = s.turned site 3 from rfl, res]
  simp only [State.faultDraws, drawless, if_true, State.chargeUnit]
  rfl

end

section
variable {s t : State} (h : OnlyCores s t)
include h

theorem OnlyCores.sync : t.sync = s.sync := by rw [← h]

theorem OnlyCores.waiters : t.waiters = s.waiters := by rw [← h]

theorem OnlyCores.free : t.free = s.free := by rw [← h]

theorem OnlyCores.syncVal (o : Nat) : t.syncVal o = s.syncVal o := congrArg (Tbl.get 0 · o) h.sync

theorem OnlyCores.ownsObj (g o : Nat) : t.ownsObj g o = s.ownsObj g o := by rw [← h]; rfl

end

@[simp] theorem free_leave (s : State) (g q j : Nat) : (s.leave g q j).free = s.free := by
  simp only [State.leave]
  split <;> rfl

/-! ### The synchronisation words (R146 to R149) -/

section
variable (site : Site) (w : W64) (s : State)

theorem exec_syncSignal_start : exec (.syncSignal site .start w) s = .next (s.startEngine site w 3 0x40 syncSignalStart) := rfl
theorem exec_syncAdd_start : exec (.syncAdd site .start w) s = .next (s.startEngine site w 3 0x41 syncAddStart) := rfl
theorem exec_syncWait_start : exec (.syncWait site .start w) s = .next (s.startEngine site w 3 0x42 (syncWaitStart site)) := rfl
theorem exec_syncRd_start : exec (.syncRd site .start w) s = .next (s.startEngine site w 3 0x43 syncRdStart) := rfl

end

section
variable {s : State} {g j : Nat} {e : QEntry}

theorem syncSignalStart_of_owned (owned : s.ownsObj g (syncObj e) = true) : syncSignalStart s g j e =
    .done (s.syncSet (syncObj e) (BitVec.ofNat 32 (e.sv (syncReg e)))) 0 := if_pos owned

theorem syncAddStart_of_owned (owned : s.ownsObj g (syncObj e) = true) : syncAddStart s g j e =
    .done (s.syncAdd (syncObj e) (BitVec.ofNat 32 (e.sv (syncReg e)))) 0 := if_pos owned

theorem syncRdStart_of_owned (owned : s.ownsObj g (syncObj e) = true) : syncRdStart s g j e =
    .done (s.modShare g j fun h => h.landS (syncReg e) (s.syncVal (syncObj e))) 0 := if_pos owned

theorem syncWaitStart_of_ready (site : Site) (owned : s.ownsObj g (syncObj e) = true)
    (ready : syncReady (s.syncVal (syncObj e)) (BitVec.ofNat 32 (e.sv (syncReg e))) = true) :
    syncWaitStart site s g j e = .done s 0 := by
  simp only [syncWaitStart, owned, ready, Bool.not_true, Bool.false_eq_true, if_false, if_true]

/-- The state with one waiter more. -/
def State.awaited (s : State) (x : Waiter) : State := { s with waiters := s.waiters ++ [x] }

/-- A wait whose condition does not hold registers; with B = 1 it stays at its queue's head. -/
theorem syncWaitStart_of_unready (site : Site) (owned : s.ownsObj g (syncObj e) = true)
    (unready : syncReady (s.syncVal (syncObj e)) (BitVec.ofNat 32 (e.sv (syncReg e))) = false) :
    let t := s.awaited
      (.word (syncObj e) (BitVec.ofNat 32 (e.sv (syncReg e))) site (e.word.getLsbD 14) (wPost e.w) e.stage)
    syncWaitStart site s g j e = if e.word.getLsbD 14 then .keep t else .later t := by
  rw [← bitOf_toNat]
  simp only [syncWaitStart, owned, unready, Bool.not_true, Bool.false_eq_true, if_false]
  rfl

end

/-- A synchronisation word makes no draw. -/
theorem drawCount_of_sync {e : QEntry} (word : wClass (wOp e.w) = 4) : e.drawCount = 0 := by
  have needless : needsGen e.w = false := by
    have below : wOp e.w < 0x50 := by unfold wClass at word; omega
    unfold needsGen
    split
    case h_6 => rw [word]; rfl
    all_goals omega
  simp only [QEntry.drawCount, needless, Bool.not_false, if_true]

/-- Settles O25: the effect of each word on an object of the partition, and the one fault on any other. -/
theorem syncWords : Obligations.SyncWords := by
  intro site w s e obj v r g j
  have same := onlyCores_turned s site 3
  have value (o : Nat) : r.syncVal o = s.syncVal o := same.syncVal o
  have owner : r.ownsObj g obj = s.ownsObj g obj := same.ownsObj g obj
  refine ⟨fun owned => ⟨fun starts => ?signal, fun starts => ?add, fun starts => ?rd,
    fun starts => ⟨fun ready => ?ready, fun unready => ?unready⟩⟩, fun foreign op c word starts => ?foreign⟩
  all_goals obtain rfl := starts.word
  case signal =>
    rw [exec_syncSignal_start, startEngine_of_done starts (syncSignalStart_of_owned (owner.trans owned))]
    rfl
  case add =>
    rw [exec_syncAdd_start, startEngine_of_done starts (syncAddStart_of_owned (owner.trans owned)), State.syncAdd, value]
    rfl
  case rd =>
    rw [exec_syncRd_start, startEngine_of_done starts (syncRdStart_of_owned (owner.trans owned)), value]
    rfl
  case ready =>
    rw [exec_syncWait_start, startEngine_of_done starts
      (syncWaitStart_of_ready site (owner.trans owned) (by rw [value]; exact ready))]
  case unready =>
    have res := syncWaitStart_of_unready (j := j) site (owner.trans owned) (by rw [value]; exact unready)
    intro t
    have registered : t = r.awaited (.word obj v site (e.word.getLsbD 14) (wPost e.w) e.stage) := by
      rw [State.awaited, same.waiters]
      rfl
    rw [registered, exec_syncWait_start]
    by_cases blocks : e.word.getLsbD 14 = true
    · rw [if_pos blocks, startEngine_of_keep starts (res.trans (if_pos blocks))]
      rfl
    · rw [if_neg blocks, startEngine_of_later starts (res.trans (if_neg blocks))]
      rfl
  case foreign =>
    have fault (f : State → Nat → Nat → QEntry → StartRes) (res : f r g j e = .fault r 0x28)
        (word : wClass op = 4) : s.startEngine site e.word 3 op f =
          { r.leave g 3 j with free := s.free + 1 }.progFault g j 0x28 engMovement e.index := by
      have class_ : wClass (wOp e.w) = 4 := (congrArg wClass starts.opcode).trans word
      rw [startEngine_of_fault starts (drawCount_of_sync class_) res, free_leave, same.free]
    have refused : r.ownsObj g (syncObj e) = false := owner.trans foreign
    obtain ⟨rfl, rfl⟩ | ⟨rfl, rfl⟩ | ⟨rfl, rfl⟩ | ⟨rfl, rfl⟩ := word
    · exact congrArg Host.Outcome.next (fault _ (by rw [syncSignalStart, refused]; rfl) rfl)
    · exact congrArg Host.Outcome.next (fault _ (by rw [syncAddStart, refused]; rfl) rfl)
    · exact congrArg Host.Outcome.next (fault _ (by rw [syncRdStart, refused]; rfl) rfl)
    · exact congrArg Host.Outcome.next (fault _ (by rw [syncWaitStart, refused]; rfl) rfl)

/-! ### SIGNAL_SYNC, WAIT_SYNC and FENCE (R369) -/

/-- What these commands read of a state is the same once it has accepted the command. -/
theorem sync_accepted (s : State) (src : Src) : (s.accepted src).sync = s.sync ∧ (s.accepted src).waiters = s.waiters ∧
    (s.accepted src).syncWaits = s.syncWaits ∧ (s.accepted src).now = s.now ∧
    (∀ q p, (s.accepted src).before q p = s.before q p) ∧ ∀ p o, (s.accepted src).partOwnsObj p o = s.partOwnsObj p o := by
  cases src <;> exact ⟨rfl, rfl, rfl, rfl, fun _ _ => rfl, fun _ _ => rfl⟩

section
variable {s : State} {r : Req}

theorem signalSyncBody_of_operation (range : 1 < fieldAt r.p 2 1) : signalSyncBody s r = .done s stBadField [] :=
  if_pos range

theorem signalSyncBody_of_foreign (range : fieldAt r.p 2 1 ≤ 1)
    (foreign : s.partOwnsObj r.hdr.part.val (fieldAt r.p 0 2) = false) :
    signalSyncBody s r = .done s stNotPermitted [] := by
  simp only [signalSyncBody, Nat.not_lt.2 range, foreign, Bool.not_false, if_false, if_true]

theorem signalSyncBody_of_owned (range : fieldAt r.p 2 1 ≤ 1)
    (owned : s.partOwnsObj r.hdr.part.val (fieldAt r.p 0 2) = true) : signalSyncBody s r =
      .done (s.syncSet (fieldAt r.p 0 2) (if fieldAt r.p 2 1 = 0 then BitVec.ofNat 32 (fieldAt r.p 4 4)
        else s.syncVal (fieldAt r.p 0 2) + BitVec.ofNat 32 (fieldAt r.p 4 4))) stOk [] := by
  simp only [signalSyncBody, Nat.not_lt.2 range, owned, Bool.not_true, Bool.false_eq_true, if_false]
  rw [apply_ite (s.syncSet (fieldAt r.p 0 2)), State.syncAdd]

theorem waitSyncBody_of_foreign (foreign : s.partOwnsObj r.hdr.part.val (fieldAt r.p 0 2) = false) :
    waitSyncBody s r = .done s stNotPermitted [] := by
  simp only [waitSyncBody, foreign, Bool.not_false, if_true]

/-- On an object of the partition, what the condition, and then the room for waiters, choose. -/
theorem waitSyncBody_of_owned (owned : s.partOwnsObj r.hdr.part.val (fieldAt r.p 0 2) = true) :
    let obj := fieldAt r.p 0 2
    let target : Word := BitVec.ofNat 32 (fieldAt r.p 4 4)
    waitSyncBody s r = if syncReady (s.syncVal obj) target then .done s stOk (leBytes 4 (s.syncVal obj).toNat)
      else if 256 ≤ s.syncWaits then .done s stNoSyncObject []
      else .wait (s.awaited (.steward obj target r.id))
        (.sync obj (if fieldAt r.p 8 4 = 0 then none else some (s.now + fieldAt r.p 8 4))) := by
  simp only [waitSyncBody, owned, Bool.not_true, Bool.false_eq_true, if_false]
  rfl

theorem fenceBody_eq : let ids := (s.before r.src r.hdr.part.val).filter (fun i => decide (i < r.id))
    fenceBody s r = if ids = [] then .done s stOk [] else .wait s (.fence ids) :=
  if_congr List.isEmpty_iff rfl rfl

end

theorem signalSync (src : Src) (hdr : Hdr) (b : Bytes) (s : State) (taken : Taken s 0x53 signalSyncSpec src hdr b) :
    let n := s.accepted src
    let obj := fieldAt b 0 2
    let v : Word := BitVec.ofNat 32 (fieldAt b 4 4)
    let owned := (s.part hdr.part.val).owns (obj / 2048)
    let out := exec (.signalSync src hdr b) s
    (1 < fieldAt b 2 1 → Completes 0x53 src hdr n stBadField [] out) ∧
    (fieldAt b 2 1 ≤ 1 → owned = false → Completes 0x53 src hdr n stNotPermitted [] out) ∧
    (fieldAt b 2 1 ≤ 1 → owned = true → Completes 0x53 src hdr
      ({ n with sync := Tbl.set 0 s.sync obj (if fieldAt b 2 1 = 0 then v else s.syncVal obj + v) }.testWaiters obj)
      stOk [] out) := by
  intro n obj v owned out
  have started : out = .next (n.startCmd signalSyncSpec (s.request 0x53 src hdr b)) := exec_of_taken rfl rfl taken
  obtain ⟨sync, -, -, -, -, owner⟩ := sync_accepted s src
  rw [started]
  refine ⟨fun range => startCmd_of_done (signalSyncBody_of_operation range), fun range foreign => ?_, fun range own => ?_⟩
  · exact startCmd_of_done (signalSyncBody_of_foreign range ((owner _ _).trans foreign))
  · have body := signalSyncBody_of_owned (r := s.request 0x53 src hdr b) range ((owner _ _).trans own)
    rw [State.syncSet, State.syncVal, sync] at body
    exact startCmd_of_done body

theorem waitSync (src : Src) (hdr : Hdr) (b : Bytes) (s : State) (taken : Taken s 0x54 waitSyncSpec src hdr b) :
    let n := s.accepted src
    let obj := fieldAt b 0 2
    let v : Word := BitVec.ofNat 32 (fieldAt b 4 4)
    let owned := (s.part hdr.part.val).owns (obj / 2048)
    let out := exec (.waitSync src hdr b) s
    let limit := fieldAt b 8 4
    (owned = false → Completes 0x54 src hdr n stNotPermitted [] out) ∧
    (owned = true → (s.syncVal obj - v).toNat < 2 ^ 31 →
      Completes 0x54 src hdr n stOk (leBytes 4 (s.syncVal obj).toNat) out) ∧
    (owned = true → 2 ^ 31 ≤ (s.syncVal obj - v).toNat → 256 ≤ s.syncWaits →
      Completes 0x54 src hdr n stNoSyncObject [] out) ∧
    (owned = true → 2 ^ 31 ≤ (s.syncVal obj - v).toNat → s.syncWaits < 256 →
      Waits s 0x54 src hdr { n with waiters := s.waiters ++ [.steward obj v s.nextCmd] }
        (.sync obj (if limit = 0 then none else some (s.now + limit))) out) := by
  intro n obj v owned out limit
  have started : out = .next (n.startCmd waitSyncSpec (s.request 0x54 src hdr b)) := exec_of_taken rfl rfl taken
  obtain ⟨sync, waiters, waits, now, -, owner⟩ := sync_accepted s src
  have value : (s.accepted src).syncVal obj = s.syncVal obj := congrArg (Tbl.get 0 · obj) sync
  have body (own : owned = true) : waitSyncBody n (s.request 0x54 src hdr b) =
      if syncReady ((s.accepted src).syncVal obj) v then .done n stOk (leBytes 4 ((s.accepted src).syncVal obj).toNat)
      else if 256 ≤ (s.accepted src).syncWaits then .done n stNoSyncObject []
      else .wait { n with waiters := (s.accepted src).waiters ++ [.steward obj v s.nextCmd] }
        (.sync obj (if limit = 0 then none else some ((s.accepted src).now + limit))) :=
    waitSyncBody_of_owned ((owner _ _).trans own)
  rw [value, waiters, waits, now] at body
  rw [started]
  refine ⟨fun foreign => startCmd_of_done (waitSyncBody_of_foreign ((owner _ _).trans foreign)),
    fun own ready => ?_, fun own far full => ?_, fun own far room => ?_⟩
  · exact startCmd_of_done ((body own).trans (if_pos ((syncReady_iff _ _).2 ready)))
  · exact startCmd_of_done ((body own).trans ((if_neg (Bool.eq_false_iff.1 (syncReady_of_far far))).trans (if_pos full)))
  · exact congrArg Host.Outcome.next (startCmd_of_wait ((body own).trans
      ((if_neg (Bool.eq_false_iff.1 (syncReady_of_far far))).trans (if_neg (Nat.not_le.2 room)))))

theorem fence (src : Src) (hdr : Hdr) (b : Bytes) (s : State) (taken : Taken s 0x55 fenceSpec src hdr b) :
    let n := s.accepted src
    let out := exec (.fence src hdr b) s
    let ids := (s.before src hdr.part.val).filter (fun i => decide (i < s.nextCmd))
    (ids = [] → Completes 0x55 src hdr n stOk [] out) ∧ (ids ≠ [] → Waits s 0x55 src hdr n (.fence ids) out) := by
  intro n out ids
  have started : out = .next (n.startCmd fenceSpec (s.request 0x55 src hdr b)) := exec_of_taken rfl rfl taken
  obtain ⟨-, -, -, -, before, -⟩ := sync_accepted s src
  have body := fenceBody_eq (s := n) (r := s.request 0x55 src hdr b)
  rw [before] at body
  rw [started]
  exact ⟨fun none_ => startCmd_of_done (body.trans (if_pos none_)),
    fun some_ => congrArg Host.Outcome.next (startCmd_of_wait (body.trans (if_neg some_)))⟩

/-! ### The limit of a WAIT_SYNC -/

/-- The waiters left once command `id` waits no more. -/
def keptWaiters (ws : List Waiter) (id : Nat) : List Waiter := ws.filter fun w => match w with
  | .steward _ _ k => k != id
  | .word _ _ _ _ _ _ => true

theorem mem_keptWaiters {ws : List Waiter} {id : Nat} (x : Waiter) :
    x ∈ keptWaiters ws id ↔ x ∈ ws ∧ ∀ o t, x ≠ .steward o t id := by
  rw [keptWaiters, List.mem_filter]
  refine and_congr_right fun _ => ?_
  cases x with
  | word o t site blocks ticket stage => exact ⟨fun _ => nofun, fun _ => rfl⟩
  | steward o t k => simp

theorem waitSyncTimeout (c : Cmd) (obj T : Nat) (s : State) (found : s.cmds.find? (·.id == c.id) = some c)
    (waits : c.wait = .sync obj (some T)) :
    (s.now < T → exec (.waitSyncTimeout c.id) s = .next s) ∧
    (T ≤ s.now → ∃ w, exec (.waitSyncTimeout c.id) s =
      .next ({ s with waiters := w }.ended c stEmpty (leBytes 4 (s.syncVal obj).toNat)) ∧
      ∀ x, x ∈ w ↔ x ∈ s.waiters ∧ ∀ o t, x ≠ .steward o t c.id) := by
  have run : exec (.waitSyncTimeout c.id) s = .next (if T ≤ s.now then
      { s with waiters := keptWaiters s.waiters c.id }.finishCmd c.id stEmpty (leBytes 4 (s.syncVal obj).toNat) else s) := by
    refine congrArg Host.Outcome.next ?_
    simp only [State.syncTimeout, found, waits]
    rfl
  rw [run]
  refine ⟨fun ahead => congrArg Host.Outcome.next (if_neg (Nat.not_le.2 ahead)), fun due => ?_⟩
  refine ⟨keptWaiters s.waiters c.id, congrArg Host.Outcome.next ((if_pos due).trans ?_), mem_keptWaiters⟩
  exact finishCmd_of_found (s := { s with waiters := keptWaiters s.waiters c.id }) found _ _

/-- Settles O40: the three commands by their checks and effects above, and the limit of a WAIT_SYNC. -/
theorem syncCommands : Obligations.SyncCommands :=
  ⟨fun src hdr b s => ⟨signalSync src hdr b s, waitSync src hdr b s, fence src hdr b s⟩, waitSyncTimeout⟩

end Sys2Proof.Machine
end

section
/-! PROOFS. The image file (R157, R158): its core map and its declared links one by one, which checks its header and each of
its tables make, the first entry that fails, and from these rules the checks of LOAD_IMAGE in their order. -/

namespace Sys2Proof.Machine

/-! ### The core map, entry by entry -/

theorem any_imgMap (b : Bytes) (P : MapEntry → Bool) :
    (imgMap b).any P = true ↔ ∃ i, i < fieldAt b 6 2 ∧ P (mapEntry b (imgHead b) i) = true := by
  simp [imgMap, imgHead]

theorem all_imgMap (b : Bytes) (P : MapEntry → Bool) :
    (imgMap b).all P = true ↔ ∀ i, i < fieldAt b 6 2 → P (mapEntry b (imgHead b) i) = true := by
  simp [imgMap, imgHead]

theorem length_imgMap (b : Bytes) : (imgMap b).length = fieldAt b 6 2 := by simp [imgMap, imgHead]

theorem getElem_imgMap {b : Bytes} {i : Nat} (below : i < (imgMap b).length) :
    (imgMap b)[i] = mapEntry b (imgHead b) i := by
  simp [imgMap]

theorem getElem?_imgMap {b : Bytes} {i : Nat} (below : i < fieldAt b 6 2) :
    (imgMap b)[i]? = some (mapEntry b (imgHead b) i) := by
  rw [List.getElem?_eq_getElem (below.trans_eq (length_imgMap b).symm), getElem_imgMap]

theorem zipIdx_imgMap (b : Bytes) :
    (imgMap b).zipIdx = (List.range (fieldAt b 6 2)).map fun i => (mapEntry b (imgHead b) i, i) := by
  refine List.ext_getElem (by simp [length_imgMap]) fun i _ _ => ?_
  simp [getElem_imgMap]

theorem nodup_imgMap (b : Bytes) : ((imgMap b).map MapEntry.core).Nodup ↔
    ∀ i k, i < k → k < fieldAt b 6 2 → (mapEntry b (imgHead b) i).core ≠ (mapEntry b (imgHead b) k).core := by
  simp only [List.Nodup, List.pairwise_iff_getElem, List.getElem_map, List.length_map, length_imgMap, getElem_imgMap]
  exact ⟨fun all i k less below => all i k (less.trans below) below less,
    fun all i k _ below less => all i k less below⟩

/-! ### What the header and the core map must hold (R158 steps 2 and 3) -/

theorem tableOk_iff (h : ImgHead) (off n : Nat) : tableOk h off n = true ↔ off % 64 = 0 ∧ off + n ≤ h.bytes := by
  simp [tableOk]

theorem ite_eq_true_iff (c : Prop) [Decidable c] (x y : Bool) :
    (if c then x else y) = true ↔ (c → x = true) ∧ (¬ c → y = true) := by
  split <;> simp [*]

theorem headOk_iff (b : Bytes) : headOk b (imgHead b) = true ↔
    let table (off len : Nat) : Prop := off % 64 = 0 ∧ off + len ≤ fieldAt b 24 8
    fieldAt b 0 4 = 0x4D52544A ∧ fieldAt b 4 2 = 1 ∧ 1 ≤ fieldAt b 6 2 ∧ fieldAt b 6 2 ≤ 2048 ∧ fieldAt b 8 1 ≤ 2 ∧
      fieldAt b 9 3 = 0 ∧ 1 ≤ fieldAt b 16 4 ∧ fieldAt b 16 4 ≤ fieldAt b 6 2 ∧ fieldAt b 20 4 ≤ 65535 ∧
      table (fieldAt b 32 8) (8 * fieldAt b 6 2) ∧ table (fieldAt b 40 8) (16 * fieldAt b 16 4) ∧
      (fieldAt b 20 4 = 0 → fieldAt b 48 8 = 0) ∧ (fieldAt b 20 4 ≠ 0 → table (fieldAt b 48 8) (16 * fieldAt b 20 4)) ∧
      (fieldAt b 56 8 = 0 ∨ table (fieldAt b 56 8) (64 * fieldAt b 6 2)) ∧ fieldAt b 64 64 = 0 := by
  simp only [headOk, Bool.and_eq_true, Bool.or_eq_true, beq_iff_eq, decide_eq_true_eq, tableOk_iff, ite_eq_true_iff,
    and_assoc]
  rfl

theorem mapOk_iff (b : Bytes) : mapOk (imgHead b) (imgMap b) = true ↔
    let entry (i : Nat) : Nat := fieldAt b 32 8 + 8 * i
    (∀ i, i < fieldAt b 6 2 → fieldAt b (entry i) 2 < 2048 ∧ fieldAt b (entry i + 2) 2 < fieldAt b 16 4 ∧
      fieldAt b (entry i + 7) 1 ≤ 4 ∧ (fieldAt b (entry i + 4) 2 = 0xFFFF → fieldAt b (entry i + 6) 1 = 0) ∧
      (fieldAt b (entry i + 4) 2 ≠ 0xFFFF → fieldAt b (entry i + 4) 2 < fieldAt b 20 4 ∧
        fieldAt b (entry i + 4) 2 + fieldAt b (entry i + 6) 1 ≤ fieldAt b 20 4)) ∧
      ∀ i k, i < k → k < fieldAt b 6 2 → fieldAt b (entry i) 2 ≠ fieldAt b (entry k) 2 := by
  simp only [mapOk, Bool.and_eq_true, all_imgMap, decide_eq_true_eq, nodup_imgMap, ite_eq_true_iff, beq_iff_eq, and_assoc]
  rfl

/-! ### Program entries (R158 step 4) -/

/-- What the check of program entry i answers. -/
def progEntryCheck (b : Bytes) (h : ImgHead) (i : Nat) : Option (BitVec 16) :=
  let o := h.progOff + 16 * i
  let words := fieldAt b (o + 8) 4
  if fieldAt b o 8 % 8 ≠ 0 ∨ words = 0 ∨ h.bytes < fieldAt b o 8 + 8 * words then some stBadField
  else if shareWords h.shares < words then some stBadLength
  else if fieldAt b (o + 12) 4 ≠ 0 then some stBadField
  else none

theorem progCheck_eq (b : Bytes) (h : ImgHead) : progCheck b h = (List.range h.nprog).findSome? (progEntryCheck b h) := rfl

/-- A program's words lie in the image, on a multiple of 8. -/
def ProgPlaced (b : Bytes) (h : ImgHead) (i : Nat) : Prop :=
  let o := h.progOff + 16 * i
  fieldAt b o 8 % 8 = 0 ∧ 1 ≤ fieldAt b (o + 8) 4 ∧ fieldAt b o 8 + 8 * fieldAt b (o + 8) 4 ≤ h.bytes

section
variable {b : Bytes} {h : ImgHead} {i : Nat}

theorem progEntryCheck_of_misplaced (bad : ¬ ProgPlaced b h i) : progEntryCheck b h i = some stBadField := by
  refine if_pos ?_
  unfold ProgPlaced at bad
  omega

theorem progEntryCheck_of_placed (placed : ProgPlaced b h i) : progEntryCheck b h i =
    if shareWords h.shares < fieldAt b (h.progOff + 16 * i + 8) 4 then some stBadLength
    else if fieldAt b (h.progOff + 16 * i + 12) 4 ≠ 0 then some stBadField
    else none := by
  refine if_neg ?_
  unfold ProgPlaced at placed
  omega

end

/-- The first entry of a range that answers gives the answer of the range. -/
theorem findSome?_range_of_first {α : Type} {f : Nat → Option α} {n i : Nat} {x : α} (below : i < n)
    (before : ∀ k, k < i → f k = none) (found : f i = some x) : (List.range n).findSome? f = some x := by
  obtain ⟨m, rfl⟩ := Nat.exists_eq_add_of_lt below
  have silent : (List.range i).findSome? f = none :=
    List.findSome?_eq_none_iff.2 fun k mem => before k (List.mem_range.1 mem)
  rw [Nat.add_assoc, List.range_add, List.findSome?_append, silent, Option.none_or, List.range_succ_eq_map, List.map_cons,
    Nat.add_zero, List.findSome?_cons, found]

/-! ### Data sections and halo entries (R158 steps 5 and 6) -/

theorem dataOk_iff (b : Bytes) : dataOk b (imgHead b) = true ↔
    let sec (i : Nat) : Nat := fieldAt b 48 8 + 16 * i
    ∀ i, i < fieldAt b 20 4 → 1 ≤ fieldAt b (sec i + 8) 4 ∧ fieldAt b (sec i) 8 + fieldAt b (sec i + 8) 4 ≤ fieldAt b 24 8 ∧
      fieldAt b (sec i + 12) 4 + fieldAt b (sec i + 8) 4 ≤ shareBytes (fieldAt b 8 1) := by
  simp only [dataOk, List.all_eq_true, List.mem_range, Bool.and_eq_true, decide_eq_true_eq, and_assoc]
  rfl

theorem bitOf_zero (w : Nat) : bitOf w 0 = decide (w % 2 = 1) := by
  rw [bitOf, pow_zero, Nat.div_one]
  rfl

/-- Two bits differ where the numbers of which they are the low bits do. -/
theorem bitOf_zero_bne (v w : Nat) : (bitOf v 0 != bitOf w 0) = true ↔ w % 2 ≠ v % 2 := by
  rw [bne_iff_ne, bitOf_zero, bitOf_zero, Ne, decide_eq_decide]
  omega

theorem halosOk_iff (b : Bytes) : halosOk b (imgHead b) (imgMap b) = true ↔
    ((∃ i, i < fieldAt b 6 2 ∧ fieldAt b (fieldAt b 32 8 + 8 * i + 7) 1 ≠ 0) ↔ fieldAt b 56 8 ≠ 0) ∧
      ∀ i l, i < fieldAt b 6 2 → l < fieldAt b (fieldAt b 32 8 + 8 * i + 7) 1 →
        haloOk b (imgHead b) (imgMap b) i l = true := by
  rw [halosOk, Bool.and_eq_true, beq_iff_eq, Bool.eq_iff_iff, any_imgMap, zipIdx_imgMap]
  simp only [List.all_map, List.all_eq_true, List.mem_range, Function.comp_apply, decide_eq_true_eq, bne_iff_ne,
    Nat.pos_iff_ne_zero]
  exact and_congr Iff.rfl ⟨fun all i l below link => all i below l link, fun all i below l link => all i l below link⟩

/-- Link l of core i is well formed, and so is its peer's for it. -/
theorem haloOk_iff (b : Bytes) (i l : Nat) : haloOk b (imgHead b) (imgMap b) i l = true ↔
    let halo (i l : Nat) : Nat := fieldAt b 56 8 + (4 * i + l) * 16
    let x := halo i l
    let peer := fieldAt b x 2
    let link := fieldAt b (x + 2) 1 / 2 % 4
    let y := halo peer link
    peer < fieldAt b 6 2 ∧ link < fieldAt b (fieldAt b 32 8 + 8 * peer + 7) 1 ∧ fieldAt b (x + 3) 1 = 0 ∧
      fieldAt b (x + 2) 1 < 8 ∧ fieldAt b (x + 8) 4 % 64 = 0 ∧
      fieldAt b (x + 4) 4 + 2 * fieldAt b (x + 8) 4 ≤ shareBytes (fieldAt b 8 1) ∧
      fieldAt b y 2 = i ∧ fieldAt b (y + 2) 1 / 2 % 4 = l ∧ fieldAt b (y + 2) 1 % 2 ≠ fieldAt b (x + 2) 1 % 2 ∧
      (∀ o w, (o, w) ∈ [(4, 4), (8, 4), (12, 2), (14, 2)] → fieldAt b (x + o) w = fieldAt b (y + o) w) := by
  have fields (x y : Nat) : (∀ o w, (o, w) ∈ [(4, 4), (8, 4), (12, 2), (14, 2)] →
        fieldAt b (x + o) w = fieldAt b (y + o) w) ↔
      fieldAt b (x + 4) 4 = fieldAt b (y + 4) 4 ∧ fieldAt b (x + 8) 4 = fieldAt b (y + 8) 4 ∧
        fieldAt b (x + 12) 2 = fieldAt b (y + 12) 2 ∧ fieldAt b (x + 14) 2 = fieldAt b (y + 14) 2 := by
    simp [or_imp, forall_and]
  simp only [haloOk, Bool.and_eq_true, beq_iff_eq, decide_eq_true_eq, HaloEntry.incoming, bitOf_zero_bne, and_assoc,
    fields]
  refine and_congr_right fun below => ?_
  rw [getElem?_imgMap below]
  constructor
  · rintro ⟨rsvd, flags, lines, fits, link, back, backLink, buf, size, data, free, ends⟩
    exact ⟨link, rsvd, flags, lines, fits, back, backLink, ends, buf, size, data, free⟩
  · rintro ⟨link, rsvd, flags, lines, fits, back, backLink, ends, buf, size, data, free⟩
    exact ⟨rsvd, flags, lines, fits, link, back, backLink, buf, size, data, free, ends⟩

/-! ### The checks of LOAD_IMAGE, in their order (R158) -/

section
variable {b : Bytes} {n : Nat}

theorem imageCheck_of_length (bad : n < 128 ∨ fieldAt b 24 8 ≠ n) : imageCheck b n = some stBadLength := if_pos bad

theorem imageCheck_of_header (fits : ¬ (n < 128 ∨ fieldAt b 24 8 ≠ n)) (bad : headOk b (imgHead b) = false) :
    imageCheck b n = some stBadField := by
  refine (if_neg fits).trans (if_pos ?_)
  rw [bad]
  rfl

theorem imageCheck_of_map (fits : ¬ (n < 128 ∨ fieldAt b 24 8 ≠ n)) (head : headOk b (imgHead b) = true)
    (bad : mapOk (imgHead b) (imgMap b) = false) : imageCheck b n = some stBadField := by
  refine (if_neg fits).trans ?_
  simp only [head, bad, Bool.not_true, Bool.not_false, Bool.false_eq_true, if_false, if_true]

theorem imageCheck_of_prog (fits : ¬ (n < 128 ∨ fieldAt b 24 8 ≠ n)) (head : headOk b (imgHead b) = true)
    (map : mapOk (imgHead b) (imgMap b) = true) {st : BitVec 16} (bad : progCheck b (imgHead b) = some st) :
    imageCheck b n = some st := by
  refine (if_neg fits).trans ?_
  simp only [head, map, bad, Bool.not_true, Bool.false_eq_true, if_false]

theorem imageCheck_of_tables (fits : ¬ (n < 128 ∨ fieldAt b 24 8 ≠ n)) (head : headOk b (imgHead b) = true)
    (map : mapOk (imgHead b) (imgMap b) = true) (prog : progCheck b (imgHead b) = none) : imageCheck b n =
      if dataOk b (imgHead b) = true ∧ halosOk b (imgHead b) (imgMap b) = true then none else some stBadField := by
  refine (if_neg fits).trans ?_
  simp only [head, map, prog, Bool.not_true, Bool.false_eq_true, if_false]
  rw [← ite_not]
  refine if_congr ?_ rfl rfl
  rw [Bool.or_eq_true, Bool.not_eq_true', Bool.not_eq_true', not_or, Bool.not_eq_false, Bool.not_eq_false]

end

theorem imageChecks : Claims.ImageChecks := by
  intro b n cores mode nprog ndata size table header entry links map prog words placed passes sec data halo agree halos
  have headIff : headOk b (imgHead b) = true ↔ header := headOk_iff b
  have mapIff : mapOk (imgHead b) (imgMap b) = true ↔ map := mapOk_iff b
  have tablesIff : dataOk b (imgHead b) = true ∧ halosOk b (imgHead b) (imgMap b) = true ↔ data ∧ halos :=
    and_congr (dataOk_iff b) ((halosOk_iff b).trans (and_congr Iff.rfl
      (forall₄_congr fun i l _ _ => haloOk_iff b i l)))
  have entryCheck (i : Nat) (at_ : placed i) : progEntryCheck b (imgHead b) i =
      if shareWords mode < words i then some stBadLength
      else if fieldAt b (prog i + 12) 4 ≠ 0 then some stBadField
      else none :=
    progEntryCheck_of_placed (b := b) (h := imgHead b) at_
  have pass (i : Nat) (h : passes i) : progEntryCheck b (imgHead b) i = none := by
    obtain ⟨at_, short, zero⟩ := h
    exact (entryCheck i at_).trans ((if_neg (Nat.not_lt.2 short)).trans (if_neg (not_not.2 zero)))
  refine ⟨imageCheck_of_length, fun long whole => ?_⟩
  have fits : ¬ (n < 128 ∨ fieldAt b 24 8 ≠ n) := not_or.2 ⟨Nat.not_lt.2 long, not_not.2 whole⟩
  refine ⟨fun bad => ?header, fun head bad => ?map, fun head mapped => ⟨fun i below before => ?entry, fun all => ?tables⟩⟩
  case header => exact imageCheck_of_header fits (Bool.eq_false_iff.2 (mt headIff.1 bad))
  case map => exact imageCheck_of_map fits (headIff.2 head) (Bool.eq_false_iff.2 (mt mapIff.1 bad))
  case entry =>
    have fails {st : BitVec 16} (bad : progEntryCheck b (imgHead b) i = some st) : imageCheck b n = some st :=
      imageCheck_of_prog fits (headIff.2 head) (mapIff.2 mapped)
        ((progCheck_eq _ _).trans (findSome?_range_of_first below (fun k less => pass k (before k less)) bad))
    refine ⟨fun bad => fails (progEntryCheck_of_misplaced bad), fun at_ long => ?_, fun at_ short bad => ?_⟩
    · exact fails ((entryCheck i at_).trans (if_pos long))
    · exact fails ((entryCheck i at_).trans ((if_neg (Nat.not_lt.2 short)).trans (if_pos bad)))
  case tables =>
    have passed : progCheck b (imgHead b) = none :=
      List.findSome?_eq_none_iff.2 fun i mem => pass i (all i (List.mem_range.1 mem))
    rw [imageCheck_of_tables fits (headIff.2 head) (mapIff.2 mapped) passed]
    exact ⟨fun bad => if_neg (mt tablesIff.1 bad), fun good => if_pos (tablesIff.2 good)⟩

end Sys2Proof.Machine
end

section
/-! PROOFS. The places that an admission needs (R159, R266, R388): the mapped cores, their clusters and shares, the objects
of the declared links, and from these rules the checks of ADMIT_CONTEXT in their order. -/

namespace Sys2Proof.Machine

/-! ### The places of an admission (R159, R266, R388) -/

theorem coreCluster_imgMap {b : Bytes} {i : Nat} (below : i < fieldAt b 6 2) :
    coreCluster (imgMap b) i = fieldAt b (fieldAt b 32 8 + 8 * i) 2 / 64 := by
  rw [coreCluster, getElem?_imgMap below]
  rfl

/-- The objects of a link between two cores of the map lie with its consumer and its producer. -/
theorem haloPlaced_iff {b : Bytes} {i l : Nat} (own : i < fieldAt b 6 2)
    (peer : fieldAt b (fieldAt b 56 8 + (4 * i + l) * 16) 2 < fieldAt b 6 2) :
    haloPlaced (imgMap b) i (haloEntry b (imgHead b) i l) = true ↔
      let home (i : Nat) : Nat := fieldAt b (fieldAt b 32 8 + 8 * i) 2 / 64
      let x := fieldAt b 56 8 + (4 * i + l) * 16
      fieldAt b (x + 12) 2 / 2048 = home (if fieldAt b (x + 2) 1 % 2 = 1 then i else fieldAt b x 2) ∧
        fieldAt b (x + 14) 2 / 2048 = home (if fieldAt b (x + 2) 1 % 2 = 1 then fieldAt b x 2 else i) := by
  have peer' : (haloEntry b (imgHead b) i l).peer < fieldAt b 6 2 := peer
  have incoming : (haloEntry b (imgHead b) i l).incoming =
      decide (fieldAt b (fieldAt b 56 8 + (4 * i + l) * 16 + 2) 1 % 2 = 1) := bitOf_zero _
  simp only [haloPlaced, incoming, decide_eq_true_eq, Bool.and_eq_true, beq_iff_eq]
  split
  · rw [coreCluster_imgMap own, coreCluster_imgMap peer']
    rfl
  · rw [coreCluster_imgMap own, coreCluster_imgMap peer']
    rfl

theorem all_allHalos (b : Bytes) (P : Nat × HaloEntry → Bool) : (allHalos b).all P = true ↔
    ∀ i l, i < fieldAt b 6 2 ∧ l < fieldAt b (fieldAt b 32 8 + 8 * i + 7) 1 → P (i, haloEntry b (imgHead b) i l) = true := by
  have entries : allHalos b = (imgMap b).zipIdx.flatMap fun x => (List.range x.1.halo).map fun l =>
    (x.2, haloEntry b (imgHead b) x.2 l) := rfl
  rw [entries, zipIdx_imgMap]
  simp only [List.all_flatMap, List.all_map, List.all_eq_true, List.mem_range, Function.comp_apply]
  exact ⟨fun all i l both => all i both.1 l both.2, fun all i below l link => all i l ⟨below, link⟩⟩

/-- The status of a mapped core that is not present. -/
def State.coreStatus (s : State) (g : Nat) : Option (BitVec 16) :=
  match Tbl.get 0 s.coreMap g with
  | 0 => none
  | 1 => some stUnitAbsent
  | _ => some stUnitFailed

theorem mappedStatus_eq (s : State) (m : List MapEntry) : s.mappedStatus m = m.findSome? fun e => s.coreStatus e.core := rfl

theorem coreStatus_of_present {s : State} {g : Nat} (present : Tbl.get 0 s.coreMap g = 0) : s.coreStatus g = none := by
  simp only [State.coreStatus, present]

theorem coreStatus_of_missing {s : State} {g : Nat} (missing : Tbl.get 0 s.coreMap g ≠ 0) :
    s.coreStatus g = some (if Tbl.get 0 s.coreMap g = 1 then stUnitAbsent else stUnitFailed) := by
  rw [State.coreStatus]
  split
  · contradiction
  · next absent => rw [absent, if_pos rfl]
  · next other => rw [if_neg other]

/-- The first mapped core that is not present gives the status. -/
theorem mappedStatus_of_first {s : State} {m pre post : List MapEntry} {e : MapEntry} (split_ : m = pre ++ e :: post)
    (before : ∀ x ∈ pre, Tbl.get 0 s.coreMap x.core = 0) (missing : Tbl.get 0 s.coreMap e.core ≠ 0) :
    s.mappedStatus m = some (if Tbl.get 0 s.coreMap e.core = 1 then stUnitAbsent else stUnitFailed) := by
  rw [mappedStatus_eq, List.findSome?_eq_some_iff]
  exact ⟨pre, e, post, split_, coreStatus_of_missing missing, fun x mem => coreStatus_of_present (before x mem)⟩

theorem mappedStatus_of_present {s : State} {m : List MapEntry} (present : ∀ e ∈ m, Tbl.get 0 s.coreMap e.core = 0) :
    s.mappedStatus m = none :=
  List.findSome?_eq_none_iff.2 fun e mem => coreStatus_of_present (present e mem)

/-- Some mapped core is not of the partition, or its cluster not in the image's share mode. -/
def State.misfits (s : State) (p : Nat) (b : Bytes) : Bool :=
  (imgMap b).any fun e => !(s.part p).owns (e.core / 64) || (s.clu (e.core / 64)).mode != (imgHead b).shares

theorem misfits_iff (s : State) (p : Nat) (b : Bytes) : s.misfits p b = true ↔
    ∃ e ∈ imgMap b, ¬ ((s.part p).owns (e.core / 64) = true ∧ (s.clu (e.core / 64)).mode = fieldAt b 8 1) := by
  simp only [State.misfits, List.any_eq_true, Bool.or_eq_true, Bool.not_eq_true', bne_iff_ne, not_and_or,
    Bool.not_eq_true]
  rfl

section
variable {s : State} {p : Nat} {b : Bytes}

theorem placeCheck_of_misfit (bad : s.misfits p b = true) : s.placeCheck p b = some stShapeMismatch := if_pos bad

theorem placeCheck_of_missing (fit : s.misfits p b = false) {st : BitVec 16} (missing : s.mappedStatus (imgMap b) = some st) :
    s.placeCheck p b = some st := by
  refine (if_neg (Bool.eq_false_iff.1 fit)).trans ?_
  rw [missing]

theorem placeCheck_of_present (fit : s.misfits p b = false) (present : s.mappedStatus (imgMap b) = none) : s.placeCheck p b =
    if !(allHalos b).all (fun x => haloPlaced (imgMap b) x.1 x.2) then some stBadField
    else if (imgMap b).any fun e => s.coreTested e.core then some stUnitBusy
    else if (imgMap b).any fun e => s.coreResetting e.core then some stUnitResetting
    else if (s.part p).ctxQuota ≤ s.contextsOf p then some stPartitionFull
    else if (imgMap b).any fun e => (s.freeShare e.core).isNone then some stNoShare
    else none := by
  refine (if_neg (Bool.eq_false_iff.1 fit)).trans ?_
  rw [present]

end

theorem coreTested_iff (s : State) (g : Nat) :
    s.coreTested g = true ↔ (s.core g).testing = true ∨ (s.clu (g / 64)).testing = true := by
  rw [State.coreTested, Bool.or_eq_true]

theorem coreResetting_iff (s : State) (g : Nat) :
    s.coreResetting g = true ↔ (s.core g).resetting = true ∨ (s.clu (g / 64)).resetting = true := by
  rw [State.coreResetting, Bool.or_eq_true]

theorem isNone_freeShare_iff (s : State) (g : Nat) : (s.freeShare g).isNone = true ↔
    ∀ j, j < shareCount (s.clu (g / 64)).mode → (s.share g j).ctx ≠ none := by
  rw [Option.isNone_iff_eq_none, State.freeShare, lowest, List.find?_eq_none]
  simp only [List.mem_range, Option.isNone_iff_eq_none, ne_eq]

theorem admissionChecks : Claims.AdmissionChecks := by
  intro p b s m state fits home placed declared peers halos tested inReset full held
  have misfit : s.misfits p b = true ↔ ∃ e ∈ m, ¬ fits e := misfits_iff s p b
  refine ⟨fun other => if_pos other, fun same => ?_⟩
  rw [show s.admitCheck p b = s.placeCheck p b from if_neg (not_not.2 same)]
  refine ⟨fun bad => placeCheck_of_misfit (misfit.2 bad), fun fit => ?_⟩
  have fit' : s.misfits p b = false := Bool.eq_false_iff.2 fun bad => by
    obtain ⟨e, mem, off⟩ := misfit.1 bad
    exact off (fit e mem)
  refine ⟨fun pre e post split_ before missing => placeCheck_of_missing fit' (mappedStatus_of_first split_ before missing),
    fun present known => ?_⟩
  have placedIff : (allHalos b).all (fun x => haloPlaced m x.1 x.2) = true ↔ halos :=
    (all_allHalos b _).trans (forall₃_congr fun i l link => haloPlaced_iff link.1 (known i l link))
  have testedIff : (m.any fun e => s.coreTested e.core) = true ↔ ∃ e ∈ m, tested e := by
    simp only [List.any_eq_true, coreTested_iff, tested]
  have resetIff : (m.any fun e => s.coreResetting e.core) = true ↔ ∃ e ∈ m, inReset e := by
    simp only [List.any_eq_true, coreResetting_iff, inReset]
  have fullIff : (m.any fun e => (s.freeShare e.core).isNone) = true ↔ ∃ e ∈ m, full e := by
    simp only [List.any_eq_true, isNone_freeShare_iff, full]
  rw [placeCheck_of_present fit' (mappedStatus_of_present present)]
  refine ⟨fun bad => if_pos ?_, fun good busy => ?_, fun good idle resets => ?_, fun good idle => ?_⟩
  · rw [Bool.not_eq_true', Bool.eq_false_iff]
    exact mt placedIff.1 bad
  · rw [if_neg (not_bnot (placedIff.2 good)), if_pos (testedIff.2 busy)]
  · rw [if_neg (not_bnot (placedIff.2 good)), if_neg (mt testedIff.1 fun ⟨e, mem, h⟩ => idle e mem h),
      if_pos (resetIff.2 resets)]
  · rw [if_neg (not_bnot (placedIff.2 good)), if_neg (mt testedIff.1 fun ⟨e, mem, h⟩ => (idle e mem).1 h),
      if_neg (mt resetIff.1 fun ⟨e, mem, h⟩ => (idle e mem).2 h)]
    refine ⟨fun quota => if_pos quota, fun room => ?_⟩
    have below : ¬ (s.part p).ctxQuota ≤ s.contextsOf p := Nat.not_le.2 room
    rw [if_neg below]
    exact ⟨fun bad => if_pos (fullIff.2 bad), fun free => if_neg (mt fullIff.1 fun ⟨e, mem, h⟩ => free e mem h)⟩

end Sys2Proof.Machine
end

section
/-! PROOFS. Images and contexts (R132, R158, R159, R206 to R208, R266, R277, R362): LOAD_IMAGE and ADMIT_CONTEXT on the image
they read, the end of an admission, the commands on a resident context, and from these rules the statement
ImageAndContextCommands. -/

namespace Sys2Proof.Machine

/-! ### What the commands read of the state that accepted them -/

theorem images_accepted (s : State) (src : Src) : (∀ i, (s.accepted src).image i = s.image i) ∧
    (∀ p i, (s.accepted src).imageUsed p i = s.imageUsed p i) ∧ (s.accepted src).lane0 = s.lane0 ∧
    ∀ p, (s.accepted src).part p = s.part p := by
  cases src <;> exact ⟨fun _ => rfl, fun _ _ => rfl, rfl, fun _ => rfl⟩

theorem contexts_accepted (s : State) (src : Src) : (∀ c, (s.accepted src).ctx c = s.ctx c) ∧
    (∀ i, (s.accepted src).rope i = s.rope i) ∧ (s.accepted src).ropeCount = s.ropeCount ∧
    (∀ g, (s.accepted src).shareSize g = s.shareSize g) ∧
    ∀ c x n d, (s.accepted src).ropeOk c x n d = s.ropeOk c x n d := by
  cases src <;> exact ⟨fun _ => rfl, fun _ => rfl, rfl, fun _ => rfl, fun _ _ _ _ => rfl⟩

theorem OnlyCaches.lane0 {s t : State} (h : OnlyCaches s t) : t.lane0 = s.lane0 := by rw [h.frame]

/-- A command other than PROVENANCE waits for lane 0. -/
theorem toLane_of_lane0 {s : State} {r : Req} (carry : Bytes) (other : r.op ≠ 0x74) :
    s.toLane r carry = .wait { s with lane0 := s.lane0 ++ [r.id] } (.lane r.op (r.p ++ carry)) := if_neg other

/-- A command whose body, having read memory, sends it to lane 0, waits there. -/
theorem waits_of_toLane {s u : State} {op : Nat} {sp : CmdSpec} {src : Src} {hdr : Hdr} {b carry : Bytes}
    (only : OnlyCaches (s.accepted src) u) (other : op ≠ 0x74)
    (body : sp.body (s.accepted src) (s.request op src hdr b) = u.toLane (s.request op src hdr b) carry) :
    Waits s op src hdr { u with lane0 := s.lane0 ++ [s.nextCmd] } (.lane op (b ++ carry))
      (.next ((s.accepted src).startCmd sp (s.request op src hdr b))) := by
  obtain ⟨-, -, lane, -⟩ := images_accepted s src
  rw [← lane, ← only.lane0]
  exact congrArg Host.Outcome.next (startCmd_of_wait (body.trans (toLane_of_lane0 carry other)))

/-! ### What the checks of an admission see of a read -/

/-- What an admission asks of a cluster beside its partition: its share mode, and whether it is under test or reset. -/
def CluSt.standing (k : CluSt) : Nat × Bool × Bool := (k.mode, k.testing, k.resetting)

/-- From s to t every cluster stands as it did. -/
def SameStanding (s t : State) : Prop := ∀ n, (t.clu n).standing = (s.clu n).standing

theorem SameStanding.trans {s t u : State} (a : SameStanding s t) (b : SameStanding t u) : SameStanding s u :=
  fun n => (b n).trans (a n)

theorem sameStanding_modClu (s : State) (n : Nat) {f : CluSt → CluSt} (keeps : ∀ k, (f k).standing = k.standing) :
    SameStanding s (s.modClu n f) := fun i => by
  by_cases own : i = n
  · subst own
    rw [modClu_eq, clu_setClu_self]
    exact keeps _
  · rw [modClu_eq, clu_setClu_ne _ _ _ own]

theorem sameStanding_bump (s : State) (a lo n m : Nat) : SameStanding s (s.bump a lo n m) := fun i => by rw [clu_bump]

theorem sameStanding_setBits (s : State) (a m : Nat) : SameStanding s (s.setBits a m) := fun i => by rw [clu_setBits]

theorem sameStanding_wide (s : State) (w : Tbl W64) : SameStanding s { s with wide := w } := fun _ => rfl

theorem sameStanding_wakeCluster (s : State) (n : Nat) : SameStanding s (s.wakeCluster n) := by
  unfold State.wakeCluster
  split
  · have gated : SameStanding (s.accrue (cluGated n)) ((s.accrue (cluGated n)).modClu n fun k => { k with power := 0 }) :=
      sameStanding_modClu _ n fun _ => rfl
    have accrued : SameStanding s (s.accrue (cluGated n)) := fun _ => rfl
    exact (accrued.trans gated).trans (sameStanding_bump _ _ _ _ _)
  · exact fun _ => rfl

theorem sameStanding_exitRefresh (s : State) (ch : Nat) : SameStanding s (s.exitRefresh ch) := by
  unfold State.exitRefresh
  split <;> exact fun _ => rfl

/-- The two counters of a transfer do not matter either. -/
theorem sameStanding_transfer (s : State) (ch a b : Nat) :
    SameStanding s (((s.exitRefresh ch).bumpWide a 1).bumpWide b 1) :=
  fun n => by
  rw [clu_bumpWide, clu_bumpWide]
  exact sameStanding_exitRefresh s ch n

theorem sameStanding_logBad (s : State) (phys : Nat) : SameStanding s (s.logBad phys) := by
  simp only [State.logBad]
  refine (sameStanding_bump s (chanReg (phys / 2 ^ 31) 0x918) 16 8 1).trans ?_
  split
  · exact fun _ => rfl
  · exact (sameStanding_wide _ _).trans (sameStanding_setBits _ _ _)

theorem sameStanding_hitLine (s : State) (ch line : Nat) (write : Bool) : SameStanding s (s.hitLine ch line write) :=
  sameStanding_modClu (s.bumpWide _ 1) _ fun k => by
    dsimp only
    split <;> rfl

theorem sameStanding_allocLine (s : State) (ch line : Nat) (dirty first : Bool) :
    SameStanding s (s.allocLine ch line dirty first) := by
  simp only [State.allocLine]
  split
  · exact fun _ => rfl
  · refine SameStanding.trans ?_ (sameStanding_modClu _ _ fun _ => rfl)
    split
    · exact fun _ => rfl
    · next v _ =>
      refine (sameStanding_modClu s (ch / 8) (f := fun c => { c with cache := c.cache.erase v }) fun _ => rfl).trans ?_
      split
      · exact sameStanding_transfer _ _ _ _
      · exact fun _ => rfl

theorem sameStanding_readLine (s : State) (p : Part) (h : Hint) (A : Nat) : SameStanding s (s.readLine p h A).1 := by
  simp only [State.readLine]
  refine (sameStanding_wakeCluster s ((p.place A).1 / 8)).trans ?_
  split
  · exact sameStanding_hitLine _ _ _ _
  · refine (sameStanding_transfer _ (p.place A).1 (cluBase ((p.place A).1 / 8) + 0x820)
      (chanReg (p.place A).1 0x900)).trans ?_
    split
    · exact sameStanding_logBad _ _
    · cases h with
      | normal => exact sameStanding_allocLine _ _ _ _ _
      | evictFirst => exact sameStanding_allocLine _ _ _ _ _
      | noAllocate => exact fun _ => rfl

theorem sameStanding_readPart (s : State) (p : Part) (h : Hint) (A n : Nat) : SameStanding s (s.readPart p h A n).1 :=
  List.foldlRecOn (motive := fun acc : State × List Nat => SameStanding s acc.1) (linesOf A n) _ (fun _ => rfl)
    fun _ before _ _ => before.trans (sameStanding_readLine _ p h _)

/-- A read through the home caches changes nothing that the checks of an admission ask for. -/
theorem admitCheck_of_read {s t : State} (only : OnlyCaches s t) (standing : SameStanding s t) (p : Nat) (b : Bytes) :
    t.admitCheck p b = s.admitCheck p b := by
  have mode (n : Nat) : (t.clu n).mode = (s.clu n).mode := congrArg Prod.fst (standing n)
  have testing (n : Nat) : (t.clu n).testing = (s.clu n).testing := congrArg (·.2.1) (standing n)
  have resetting (n : Nat) : (t.clu n).resetting = (s.clu n).resetting := congrArg (·.2.2) (standing n)
  have core (g : Nat) : t.core g = s.core g := by rw [only.frame]; rfl
  have part : t.part p = s.part p := by rw [only.frame]; rfl
  have misfits : t.misfits p b = s.misfits p b := by simp only [State.misfits, mode, part]
  have mapped : t.mappedStatus (imgMap b) = s.mappedStatus (imgMap b) := by rw [only.frame]; rfl
  have contexts : t.contextsOf p = s.contextsOf p := by rw [only.frame]; rfl
  have tested : t.coreTested = s.coreTested := funext fun g => by simp only [State.coreTested, core, testing]
  have resets : t.coreResetting = s.coreResetting := funext fun g => by simp only [State.coreResetting, core, resetting]
  have free : t.freeShare = s.freeShare := funext fun g => by simp only [State.freeShare, State.share, core, mode]
  have place : t.placeCheck p b = s.placeCheck p b := by
    cases fit : s.misfits p b with
    | true => rw [placeCheck_of_misfit fit, placeCheck_of_misfit (misfits.trans fit)]
    | false =>
      cases status : s.mappedStatus (imgMap b) with
      | some st => rw [placeCheck_of_missing fit status, placeCheck_of_missing (misfits.trans fit) (mapped.trans status)]
      | none =>
        rw [placeCheck_of_present fit status, placeCheck_of_present (misfits.trans fit) (mapped.trans status), tested,
          resets, free, part, contexts]
  rw [State.admitCheck, State.admitCheck, place, show t.generation = s.generation by rw [only.frame]]

/-! ### LOAD_IMAGE (R158, R362) -/

section
variable {s : State} {r : Req}

theorem loadBody_of_mode (mode : 1 < fieldAt r.p 0 1) : loadBody s r = .done s stBadField [] := by
  rw [loadBody]
  split
  · omega
  · omega
  · rfl

theorem loadBody_of_outside (mode : fieldAt r.p 0 1 = 0)
    (outside : (s.part r.hdr.part.val).inside (fieldAt r.p 8 5) (fieldAt r.p 16 8) = false) :
    loadBody s r = .done s stOutOfBounds [] := by
  simp only [loadBody, mode, outside, Bool.not_false, if_true]

section
variable (mode : fieldAt r.p 0 1 = 0)
  (inside : (s.part r.hdr.part.val).inside (fieldAt r.p 8 5) (fieldAt r.p 16 8) = true)
include mode inside

theorem loadBody_of_refused {st : BitVec 16}
    (bad : imageCheck (s.readPart (s.part r.hdr.part.val) .normal (fieldAt r.p 8 5) (fieldAt r.p 16 8)).2.1
      (fieldAt r.p 16 8) = some st) :
    loadBody s r = .done (s.readPart (s.part r.hdr.part.val) .normal (fieldAt r.p 8 5) (fieldAt r.p 16 8)).1 st [] := by
  simp only [loadBody, mode, inside, bad, Bool.not_true, Bool.false_eq_true, if_false]

theorem loadBody_of_passed
    (good : imageCheck (s.readPart (s.part r.hdr.part.val) .normal (fieldAt r.p 8 5) (fieldAt r.p 16 8)).2.1
      (fieldAt r.p 16 8) = none) :
    loadBody s r = (s.readPart (s.part r.hdr.part.val) .normal (fieldAt r.p 8 5) (fieldAt r.p 16 8)).1.toLane r
      (s.part r.hdr.part.val).ownerBytes := by
  simp only [loadBody, mode, inside, good, Bool.not_true, Bool.false_eq_true, if_false]

end

/-- MODE 1 unloads. -/
theorem loadBody_of_unload (mode : fieldAt r.p 0 1 = 1) : loadBody s r =
    let i := fieldAt r.p 2 2
    let key := 256 * r.hdr.part.val + i
    if 256 ≤ i ∨ (s.image key).isNone then .done s stBadField []
    else if s.imageUsed r.hdr.part.val i then .done s stWrongState []
    else .done (s.setImage key none) stOk [] := by
  simp only [loadBody, mode]
  rfl

end

theorem loadImage (src : Src) (hdr : Hdr) (b : Bytes) (s : State) (taken : Taken s 0x20 loadImageSpec src hdr b) :
    let n := s.accepted src
    let p := hdr.part.val
    let A := fieldAt b 8 5
    let len := fieldAt b 16 8
    let i := fieldAt b 2 2
    let out := exec (.loadImage src hdr b) s
    let rd := n.readPart (s.part p) .normal A len
    (1 < fieldAt b 0 1 → Completes 0x20 src hdr n stBadField [] out) ∧
    (fieldAt b 0 1 = 0 →
      ((s.part p).inside A len = false → Completes 0x20 src hdr n stOutOfBounds [] out) ∧
      ((s.part p).inside A len = true →
        (∀ st, imageCheck rd.2.1 len = some st → Completes 0x20 src hdr rd.1 st [] out) ∧
        (imageCheck rd.2.1 len = none → Waits s 0x20 src hdr { rd.1 with lane0 := s.lane0 ++ [s.nextCmd] }
          (.lane 0x20 (b ++ (s.part p).ownerBytes)) out))) ∧
    (fieldAt b 0 1 = 1 →
      ((256 ≤ i ∨ s.image (256 * p + i) = none) → Completes 0x20 src hdr n stBadField [] out) ∧
      (i < 256 → (s.image (256 * p + i)).isSome = true → s.imageUsed p i = true →
        Completes 0x20 src hdr n stWrongState [] out) ∧
      (i < 256 → (s.image (256 * p + i)).isSome = true → s.imageUsed p i = false →
        Completes 0x20 src hdr (n.setImage (256 * p + i) none) stOk [] out)) := by
  intro n p A len i out rd
  have started : out = .next (n.startCmd loadImageSpec (s.request 0x20 src hdr b)) := exec_of_taken rfl rfl taken
  obtain ⟨image, used, -, part⟩ := images_accepted s src
  rw [started]
  refine ⟨fun mode => startCmd_of_done (loadBody_of_mode mode), fun mode => ?load, fun mode => ?unload⟩
  case load =>
    have same : n.part p = s.part p := part p
    have read : rd = n.readPart (n.part p) .normal A len := by rw [same]
    rw [read, ← same]
    refine ⟨fun outside => startCmd_of_done (loadBody_of_outside mode outside),
      fun inside => ⟨fun st bad => ?_, fun good => ?_⟩⟩
    · exact startCmd_of_done (loadBody_of_refused mode inside bad)
    · exact waits_of_toLane (onlyCaches_readPart _ _ _ _ _) (by decide) (loadBody_of_passed mode inside good)
  case unload =>
    have body : loadBody n (s.request 0x20 src hdr b) =
        if 256 ≤ i ∨ ((s.accepted src).image (256 * p + i)).isNone then .done n stBadField []
        else if (s.accepted src).imageUsed p i then .done n stWrongState []
        else .done (n.setImage (256 * p + i) none) stOk [] := loadBody_of_unload mode
    rw [image, used] at body
    have known (below : i < 256) (recorded : (s.image (256 * p + i)).isSome = true) :
        ¬ (256 ≤ i ∨ (s.image (256 * p + i)).isNone = true) := by
      rw [Option.isNone_iff_eq_none]
      exact not_or.2 ⟨Nat.not_le.2 below, Option.isSome_iff_ne_none.1 recorded⟩
    refine ⟨fun unknown => ?_, fun below recorded busy => ?_, fun below recorded free => ?_⟩
    · exact startCmd_of_done (body.trans (if_pos (unknown.imp_right Option.isNone_iff_eq_none.2)))
    · exact startCmd_of_done (body.trans ((if_neg (known below recorded)).trans (if_pos busy)))
    · exact startCmd_of_done (body.trans ((if_neg (known below recorded)).trans (if_neg (Bool.eq_false_iff.1 free))))

/-! ### ADMIT_CONTEXT (R159, R266, R273) -/

theorem borrowField_of_bad {n : Nat} (beyond : 128 < n) (other : n ≠ 255) : borrowField n = none := by
  rw [borrowField, if_neg other, if_neg (Nat.not_le.2 beyond)]

theorem borrowField_of_ok {n : Nat} (range : n ≤ 128 ∨ n = 255) : borrowField n = some (if n = 255 then 32 else n) := by
  rw [borrowField]
  split
  · rfl
  · next other => rw [if_pos (range.resolve_right other)]

section
variable {s : State} {r : Req}

theorem admitBody_of_bad (bad : 128 < fieldAt r.p 3 1 ∧ fieldAt r.p 3 1 ≠ 255 ∨ 256 ≤ fieldAt r.p 0 2) :
    admitBody s r = .done s stBadField [] := by
  refine if_pos (bad.imp_left fun borrow => ?_)
  rw [borrowField_of_bad borrow.1 borrow.2]
  rfl

section
variable (range : fieldAt r.p 3 1 ≤ 128 ∨ fieldAt r.p 3 1 = 255) (below : fieldAt r.p 0 2 < 256)
include range below

theorem not_badAdmit : ¬ ((borrowField (fieldAt r.p 3 1)).isNone = true ∨ 256 ≤ fieldAt r.p 0 2) := by
  rw [borrowField_of_ok range]
  exact not_or.2 ⟨Bool.false_ne_true, Nat.not_le.2 below⟩

theorem admitBody_of_unknown (unknown : s.image (256 * r.hdr.part.val + fieldAt r.p 0 2) = none) :
    admitBody s r = .done s stBadField [] := by
  refine (if_neg (not_badAdmit range below)).trans ?_
  simp only [imageKey, unknown]

section
variable {x : Image} (known : s.image (256 * r.hdr.part.val + fieldAt r.p 0 2) = some x)
include known

theorem admitBody_of_refused {st : BitVec 16} (bad : (s.readPart (s.part x.part) .normal x.addr x.bytes).1.admitCheck
      r.hdr.part.val (s.readPart (s.part x.part) .normal x.addr x.bytes).2.1 = some st) :
    admitBody s r = .done (s.readPart (s.part x.part) .normal x.addr x.bytes).1 st [] := by
  rw [admitCheck_of_read (onlyCaches_readPart _ _ _ _ _) (sameStanding_readPart _ _ _ _ _)] at bad
  refine (if_neg (not_badAdmit range below)).trans ?_
  simp only [imageKey, known, State.readImage, bad]

theorem admitBody_of_passed (good : (s.readPart (s.part x.part) .normal x.addr x.bytes).1.admitCheck
      r.hdr.part.val (s.readPart (s.part x.part) .normal x.addr x.bytes).2.1 = none) :
    admitBody s r = (s.readPart (s.part x.part) .normal x.addr x.bytes).1.toLane r (leBytes 8 x.addr ++ leBytes 8 x.bytes ++
      (imgMap (s.readPart (s.part x.part) .normal x.addr x.bytes).2.1).flatMap fun e => leBytes 2 e.core) := by
  rw [admitCheck_of_read (onlyCaches_readPart _ _ _ _ _) (sameStanding_readPart _ _ _ _ _)] at good
  refine (if_neg (not_badAdmit range below)).trans ?_
  simp only [imageKey, known, State.readImage, good]

end

end

end

theorem admitContext (src : Src) (hdr : Hdr) (b : Bytes) (s : State) (taken : Taken s 0x21 admitContextSpec src hdr b) :
    let n := s.accepted src
    let p := hdr.part.val
    let i := fieldAt b 0 2
    let out := exec (.admitContext src hdr b) s
    ((128 < fieldAt b 3 1 ∧ fieldAt b 3 1 ≠ 255 ∨ 256 ≤ i) → Completes 0x21 src hdr n stBadField [] out) ∧
    ((fieldAt b 3 1 ≤ 128 ∨ fieldAt b 3 1 = 255) → i < 256 →
      (s.image (256 * p + i) = none → Completes 0x21 src hdr n stBadField [] out) ∧
      (∀ x, s.image (256 * p + i) = some x →
        let rd := n.readPart (s.part x.part) .normal x.addr x.bytes
        (∀ st, rd.1.admitCheck p rd.2.1 = some st → Completes 0x21 src hdr rd.1 st [] out) ∧
        (rd.1.admitCheck p rd.2.1 = none → Waits s 0x21 src hdr { rd.1 with lane0 := s.lane0 ++ [s.nextCmd] }
          (.lane 0x21 (b ++ (leBytes 8 x.addr ++ leBytes 8 x.bytes ++ (imgMap rd.2.1).flatMap fun e => leBytes 2 e.core)))
          out))) := by
  intro n p i out
  have started : out = .next (n.startCmd admitContextSpec (s.request 0x21 src hdr b)) := exec_of_taken rfl rfl taken
  obtain ⟨image, -, -, part⟩ := images_accepted s src
  rw [started]
  refine ⟨fun bad => startCmd_of_done (admitBody_of_bad bad), fun range below => ⟨fun unknown => ?_, fun x known => ?_⟩⟩
  · exact startCmd_of_done (admitBody_of_unknown range below ((image _).trans unknown))
  · rw [← part]
    have known' : n.image (256 * p + i) = some x := (image _).trans known
    exact ⟨fun st bad => startCmd_of_done (admitBody_of_refused range below known' bad),
      fun good => waits_of_toLane (onlyCaches_readPart _ _ _ _ _) (by decide) (admitBody_of_passed range below known' good)⟩

theorem imageCommands : Claims.ImageCommands := fun src hdr b s => ⟨loadImage src hdr b s, admitContext src hdr b s⟩

/-! ### The end of an admission (R132) -/

theorem onlyCores_modShare (s : State) (g j : Nat) (f : ShareSt → ShareSt) : OnlyCores s (s.modShare g j f) := rfl

theorem OnlyCores.trans {s t u : State} (a : OnlyCores s t) (b : OnlyCores t u) : OnlyCores s u := by
  unfold OnlyCores at a b ⊢
  rw [← b, ← a]

theorem OnlyCores.cmds {s t : State} (h : OnlyCores s t) : t.cmds = s.cmds := by rw [← h]

theorem exec_admissionPrepared (c : Fin 256) (s : State) : exec (.admissionPrepared c) s = .next (s.prepared c.val) := rfl

theorem modCtx_of_some {s : State} {c : Nat} {x : Ctx} (ctx : s.ctx c = some x) (f : Ctx → Ctx) :
    s.modCtx c f = s.setCtx c (some (f x)) := by
  rw [State.modCtx, ctx]
  rfl

/-- The shares of a context that has prepared run, and it is resident. -/
theorem prepared_of_preparing {s : State} {c : Nat} {x : Ctx} (ctx : s.ctx c = some x) (preparing : x.preparing = true) :
    let u := x.cores.foldl (fun t gj => t.modShare gj.1 gj.2 fun h => { h with live := true }) s
    let v := u.setCtx c (some { x with preparing := false, resident := true })
    s.prepared c =
      (s.cmds.filter fun k => k.wait == .admission c).foldl (fun t k => t.finishCmd k.id stOk (leBytes 4 c)) v := by
  intro u v
  have only : OnlyCores s u :=
    List.foldlRecOn (motive := OnlyCores s) _ _ rfl fun t before gj _ => before.trans (onlyCores_modShare t _ _ _)
  have live : u.modCtx c (fun x => { x with preparing := false, resident := true }) = v :=
    modCtx_of_some ((only.ctx c).trans ctx) _
  have waiting : v.cmds = s.cmds := only.cmds
  rw [← waiting, ← live]
  simp only [State.prepared, ctx, preparing, Bool.not_true, Bool.false_eq_true, if_false]
  rfl

theorem prepared_of_other {s : State} {c : Nat} (other : ∀ x, s.ctx c = some x → x.preparing = false) : s.prepared c = s := by
  rw [State.prepared]
  split
  · rfl
  · next x ctx =>
    rw [other x ctx]
    rfl

/-! ### Commands on a resident context (R264, R277) -/

section
variable {s : State} {r : Req} {f : State → Nat → Ctx → CmdRes} {x : Ctx}

theorem onContext_of_none (none_ : s.ctx (fieldAt r.p 0 1) = none) : onContext f s r = .done s stWrongState [] := by
  simp only [onContext, State.foreignCtx, none_, Bool.false_eq_true, if_false]

theorem onContext_of_foreign (ctx : s.ctx (fieldAt r.p 0 1) = some x) (foreign : x.part ≠ r.hdr.part.val)
    (resident : x.resident = true) : onContext f s r = .done s stNotPermitted [] := by
  simp only [onContext, State.foreignCtx, ctx, resident, bne_iff_ne.2 foreign, Bool.and_self, if_true]

theorem onContext_of_absent (ctx : s.ctx (fieldAt r.p 0 1) = some x) (absent : x.resident = false) :
    onContext f s r = .done s stWrongState [] := by
  simp only [onContext, State.foreignCtx, ctx, absent, Bool.false_and, Bool.false_eq_true, if_false]

theorem onContext_of_own (ctx : s.ctx (fieldAt r.p 0 1) = some x) (own : x.part = r.hdr.part.val)
    (resident : x.resident = true) : onContext f s r = f s (fieldAt r.p 0 1) x := by
  simp only [onContext, State.foreignCtx, ctx, resident, own, bne_self_eq_false, Bool.and_false, Bool.false_eq_true,
    if_false, if_true]

end

/-! ### SET_SHARES (R277) -/

/-- A context with the settings of SET_SHARES's parameters. -/
def Ctx.withSettings (x : Ctx) (b : Bytes) : Ctx :=
  { x with weight := fieldAt b 1 1, borrow := if fieldAt b 2 1 = 255 then 32 else fieldAt b 2 1,
           starve := if fieldAt b 4 2 = 0 then 100 else fieldAt b 4 2 }

theorem setSharesBody_of_bad {s : State} {r : Req} (beyond : 128 < fieldAt r.p 2 1) (other : fieldAt r.p 2 1 ≠ 255) :
    setSharesBody s r = .done s stBadField [] := by
  simp only [setSharesBody, borrowField_of_bad beyond other]

theorem setSharesBody_of_ok {s : State} {r : Req} (range : fieldAt r.p 2 1 ≤ 128 ∨ fieldAt r.p 2 1 = 255) :
    setSharesBody s r = onContext (fun s c _ => .done (s.modCtx c (·.withSettings r.p)) stOk []) s r := by
  simp only [setSharesBody, borrowField_of_ok range]
  rfl

theorem setShares (src : Src) (hdr : Hdr) (b : Bytes) (s : State) (taken : Taken s 0x23 setSharesSpec src hdr b)
    (range : fieldAt b 2 1 ≤ 128 ∨ fieldAt b 2 1 = 255) :
    let n := s.accepted src
    let c := fieldAt b 0 1
    let out := exec (.setShares src hdr b) s
    (s.ctx c = none → Completes 0x23 src hdr n stWrongState [] out) ∧
    (∀ x, s.ctx c = some x →
      (x.part ≠ hdr.part.val → x.resident = true → Completes 0x23 src hdr n stNotPermitted [] out) ∧
      (x.resident = false → Completes 0x23 src hdr n stWrongState [] out) ∧
      (x.part = hdr.part.val → x.resident = true →
        Completes 0x23 src hdr (n.setCtx c (some (x.withSettings b))) stOk [] out)) := by
  intro n c out
  have started : out = .next (n.startCmd setSharesSpec (s.request 0x23 src hdr b)) := exec_of_taken rfl rfl taken
  obtain ⟨same, -⟩ := contexts_accepted s src
  have body := setSharesBody_of_ok (s := n) (r := s.request 0x23 src hdr b) range
  rw [started]
  refine ⟨fun none_ => ?_, fun x ctx => ?_⟩
  · exact startCmd_of_done (body.trans (onContext_of_none ((same c).trans none_)))
  · have ctx' : n.ctx c = some x := (same c).trans ctx
    refine ⟨fun foreign resident => ?_, fun absent => ?_, fun own resident => ?_⟩
    · exact startCmd_of_done (body.trans (onContext_of_foreign ctx' foreign resident))
    · exact startCmd_of_done (body.trans (onContext_of_absent ctx' absent))
    · rw [← modCtx_of_some ctx' (·.withSettings b)]
      exact startCmd_of_done (body.trans (onContext_of_own ctx' own resident))

/-! ### DEFINE_ROPEWALK (R206 to R208) -/

/-- What DEFINE_ROPEWALK answers on a context of its partition, with shares of `size` bytes. -/
def State.defineOn (s : State) (c : Nat) (x : Ctx) (size : Nat) (d : Bytes) : CmdRes :=
  if x.faulted || x.retiring then .done s stWrongState []
  else if (s.rope (fieldAt d 0 1)).isSome ∨ 64 ≤ s.ropeCount then .done s stNoRopewalk []
  else if !s.ropeOk c x size d then .done s stBadField []
  else .done ((s.setRope (fieldAt d 0 1) (some (ropeOfDesc c d))).setReg (0x090400 + 4 * fieldAt d 0 1) 0) stOk []

/-- The share size of the context's first core. -/
def State.firstSize (s : State) (x : Ctx) : Nat :=
  match x.cores.head? with
  | some gj => s.shareSize gj.1
  | none => 0

theorem firstSize_of_cons (s : State) {x : Ctx} {g j : Nat} {rest : List (Nat × Nat)} (cores : x.cores = (g, j) :: rest) :
    s.firstSize x = s.shareSize g := by
  rw [State.firstSize, cores]
  rfl

theorem defineBody_eq (s : State) (r : Req) :
    defineBody s r = onContext (fun s c x => s.defineOn c x (s.firstSize x) (r.p.drop 4)) s r := rfl

theorem defineRopewalk (src : Src) (hdr : Hdr) (b : Bytes) (s : State) (taken : Taken s 0x24 defineRopewalkSpec src hdr b) :
    let n := s.accepted src
    let c := fieldAt b 0 1
    let d := b.drop 4
    let id := fieldAt d 0 1
    let out := exec (.defineRopewalk src hdr b) s
    (s.ctx c = none → Completes 0x24 src hdr n stWrongState [] out) ∧
    (∀ x, s.ctx c = some x → x.part ≠ hdr.part.val → x.resident = true →
      Completes 0x24 src hdr n stNotPermitted [] out) ∧
    (∀ x, s.ctx c = some x → (x.resident = false ∨ x.part = hdr.part.val ∧ (x.faulted = true ∨ x.retiring = true)) →
      Completes 0x24 src hdr n stWrongState [] out) ∧
    (∀ x, s.ctx c = some x → x.part = hdr.part.val → x.resident = true → x.faulted = false → x.retiring = false →
      ((s.rope id).isSome = true ∨ 64 ≤ s.ropeCount → Completes 0x24 src hdr n stNoRopewalk [] out) ∧
      (s.rope id = none → s.ropeCount < 64 → ∀ g j rest, x.cores = (g, j) :: rest →
        (s.ropeOk c x (s.shareSize g) d = false → Completes 0x24 src hdr n stBadField [] out) ∧
        (s.ropeOk c x (s.shareSize g) d = true →
          Completes 0x24 src hdr ((n.setRope id (some (ropeOfDesc c d))).setReg (0x090400 + 4 * id) 0) stOk [] out))) := by
  intro n c d id out
  have started : out = .next (n.startCmd defineRopewalkSpec (s.request 0x24 src hdr b)) := exec_of_taken rfl rfl taken
  obtain ⟨same, rope, count, size, ok⟩ := contexts_accepted s src
  have body := defineBody_eq n (s.request 0x24 src hdr b)
  have own {x : Ctx} (ctx : s.ctx c = some x) (part : x.part = hdr.part.val) (resident : x.resident = true) :
      defineBody n (s.request 0x24 src hdr b) = n.defineOn c x (n.firstSize x) d :=
    body.trans (onContext_of_own ((same c).trans ctx) part resident)
  rw [started]
  refine ⟨fun none_ => ?_, fun x ctx foreign resident => ?_, fun x ctx out_ => ?_, fun x ctx part resident sound stays => ?_⟩
  · exact startCmd_of_done (body.trans (onContext_of_none ((same c).trans none_)))
  · exact startCmd_of_done (body.trans (onContext_of_foreign ((same c).trans ctx) foreign resident))
  · by_cases resident : x.resident = true
    · have ends : x.part = hdr.part.val ∧ (x.faulted = true ∨ x.retiring = true) :=
        out_.resolve_left fun absent => Bool.false_ne_true (absent.symm.trans resident)
      exact startCmd_of_done ((own ctx ends.1 resident).trans (if_pos ((Bool.or_eq_true _ _).mpr ends.2)))
    · exact startCmd_of_done (body.trans (onContext_of_absent ((same c).trans ctx) (Bool.eq_false_iff.2 resident)))
  · have going : ¬ (x.faulted || x.retiring) = true := by rw [sound, stays]; exact Bool.false_ne_true
    have defines : defineBody n (s.request 0x24 src hdr b) = _ := (own ctx part resident).trans (if_neg going)
    rw [rope, count, ok] at defines
    refine ⟨fun taken_ => startCmd_of_done (defines.trans (if_pos taken_)), fun fresh room g j rest cores => ?_⟩
    have free : ¬ ((s.rope id).isSome = true ∨ 64 ≤ s.ropeCount) := by
      rw [fresh]
      exact not_or.2 ⟨Bool.false_ne_true, Nat.not_le.2 room⟩
    have first : n.firstSize x = s.shareSize g := (firstSize_of_cons n cores).trans (size g)
    rw [← first]
    refine ⟨fun bad => ?_, fun good => ?_⟩
    · exact startCmd_of_done (defines.trans ((if_neg free).trans (if_pos ((Bool.not_eq_true' _).mpr bad))))
    · exact startCmd_of_done (defines.trans ((if_neg free).trans (if_neg (not_bnot good))))

theorem contextCommands : Claims.ContextCommands := by
  refine ⟨fun c x s ctx preparing => congrArg Host.Outcome.next (prepared_of_preparing ctx preparing),
    fun c s other => congrArg Host.Outcome.next (prepared_of_other other), fun src hdr b s => ⟨fun taken beyond other => ?_,
    fun taken range => setShares src hdr b s taken range, fun taken => defineRopewalk src hdr b s taken⟩⟩
  · rw [exec_of_taken (c := .setShares src hdr b) rfl rfl taken]
    exact startCmd_of_done (setSharesBody_of_bad beyond other)

/-- Settles O33: the checks on an image and on its places, the two commands that read it, and the commands on contexts. -/
theorem imageAndContextCommands : Obligations.ImageAndContextCommands :=
  ⟨imageChecks, admissionChecks, imageCommands, contextCommands⟩

end Sys2Proof.Machine
end

section
/-! PROOFS. What a write through the home caches leaves alone (R84, R94 to R99): all but memory, its lines in error, and what
a read may change; so the Ledger's entries and the Dockets, which the answers of commands and the range checks leave too. And a
command that is taken, by its body and by what it reads of the state that accepted it. -/

namespace Sys2Proof.Machine

/-! ### Writes through the home caches -/

/-- From s to t nothing changes but what a write through the home caches may: memory, the lines in error, and what a read
may change (R94 to R100, R419, R420). -/
structure OnlyMemory (s t : State) : Prop where
  frame : t = { s with mem := t.mem, badLines := t.badLines, clusters := t.clusters, chans := t.chans, regs := t.regs,
                       wide := t.wide, free := t.free }

theorem OnlyMemory.refl (s : State) : OnlyMemory s s := ⟨rfl⟩

theorem OnlyMemory.trans {s t u : State} (a : OnlyMemory s t) (b : OnlyMemory t u) : OnlyMemory s u := by
  have frame := b.frame
  rw [a.frame] at frame
  exact ⟨frame⟩

theorem OnlyCaches.onlyMemory {s t : State} (h : OnlyCaches s t) : OnlyMemory s t := by
  rw [h.frame]
  exact ⟨rfl⟩

theorem onlyMemory_writeInLine (s : State) (p : Part) (h : Hint) (A : Nat) (bs : Bytes) :
    OnlyMemory s (s.writeInLine p h A bs).1 := by
  have woken := onlyCaches_wakeCluster s ((p.place A).1 / 8)
  rw [writeInLine_eq]
  dsimp only
  split
  · exact (woken.trans ((onlyCaches_exitRefresh _ _).trans (onlyCaches_logBad _ _))).onlyMemory
  · have put (u : State) : OnlyMemory u (u.putBytes p A bs) := ⟨rfl⟩
    exact (woken.onlyMemory.trans (put _)).trans (onlyCaches_settleLine _ _ _ _ _).onlyMemory

theorem onlyMemory_writePart (s : State) (p : Part) (h : Hint) (A : Nat) (bs : Bytes) :
    OnlyMemory s (s.writePart p h A bs).1 := by
  suffices lines : ∀ fuel (s : State) A bs, OnlyMemory s (s.writeLines p h fuel A bs).1 from lines _ s A bs
  intro fuel
  induction fuel with
  | zero => exact fun s _ _ => .refl s
  | succ fuel ih =>
    intro s A bs
    rw [State.writeLines]
    split
    · exact .refl s
    · exact (onlyMemory_writeInLine s p h A _).trans (ih _ _ _)

theorem onlyMemory_each {α : Type} {f : State → α → State} (step : ∀ s x, OnlyMemory s (f s x)) (l : List α) (s : State) :
    OnlyMemory s (s.each l f) :=
  each_of_step (P := OnlyMemory s) (fun t x h => h.trans (step t x)) l (.refl s)

theorem onlyMemory_writeAll (s : State) (p : Part) (h : Hint) (l : List (Nat × Bytes)) :
    OnlyMemory s (s.writeAll p h l).1 := by
  simp only [State.writeAll]
  split
  · exact onlyMemory_each (fun t x => onlyMemory_writePart t p h _ _) _ s
  · exact onlyMemory_each (fun t l => (onlyCaches_readLine t p h _).onlyMemory) _ s

theorem onlyMemory_writeWholly (s : State) (p : Part) (h : Hint) (A : Nat) (bs : Bytes) :
    OnlyMemory s (s.writeWholly p h A bs).1 := onlyMemory_writeAll s p h _

/-! ### The write-back of a history (R84, R85, R230) -/

theorem onlyMemory_writeWhole (s : State) (p : Part) (A : Nat) (bs : Bytes) : OnlyMemory s (s.writeWhole p A bs) :=
  (onlyMemory_each (fun t a => (onlyCaches_readLine t p .normal a).onlyMemory) _ s).trans (onlyMemory_writePart _ p .normal _ _)

theorem onlyMemory_writeBack (s : State) (n : Nat) (x : Slot) : OnlyMemory s (s.writeBack n x) := by
  unfold State.writeBack
  dsimp only
  split
  · exact .refl s
  · exact ((onlyCaches_readPart s _ .normal _ 4).onlyMemory.trans (onlyMemory_writeWhole _ _ _ _)).trans
      (onlyCaches_bump _ _ _ _ _).onlyMemory

theorem onlyMemory_flushSlot (s : State) (i : Nat) : OnlyMemory s (s.flushSlot i) := by
  refine onlyMemory_each (fun t n => ?_) _ s
  split
  · exact .refl t
  · exact (onlyMemory_writeBack t n _).trans (onlyCaches_modClu _ _ _).onlyMemory

/-! ### The Ledger's entries and the Dockets -/

/-- From s to t every entry of the Ledger and every Docket stays as it is. -/
structure SameLedger (s t : State) : Prop where
  entries : t.entries = s.entries
  dockets : t.dockets = s.dockets

theorem SameLedger.refl (s : State) : SameLedger s s := ⟨rfl, rfl⟩

theorem SameLedger.trans {s t u : State} (a : SameLedger s t) (b : SameLedger t u) : SameLedger s u :=
  ⟨b.entries.trans a.entries, b.dockets.trans a.dockets⟩

theorem SameLedger.entry {s t : State} (h : SameLedger s t) (i : Nat) : t.entry i = s.entry i := by
  rw [State.entry, h.entries, State.entry]

theorem SameLedger.carried {s t : State} (h : SameLedger s t) (i : Nat) : t.carried i = s.carried i := by
  rw [State.carried, h.dockets, State.carried]

theorem carried_setEntry (s : State) (i : Nat) (e : Entry) (k : Nat) : (s.setEntry i e).carried k = s.carried k := by
  rw [State.carried, dockets_setEntry, State.carried]

theorem OnlyMemory.sameLedger {s t : State} (h : OnlyMemory s t) : SameLedger s t := by
  rw [h.frame]
  exact ⟨rfl, rfl⟩

theorem OnlyAnswers.sameLedger {s t : State} (h : OnlyAnswers s t) : SameLedger s t := by
  rw [← h.frame]
  exact ⟨rfl, rfl⟩

theorem sameLedger_each {α : Type} {f : State → α → State} (step : ∀ s x, SameLedger s (f s x)) (l : List α) (s : State) :
    SameLedger s (s.each l f) :=
  each_of_step (P := SameLedger s) (fun t x h => h.trans (step t x)) l (.refl s)

theorem sameLedger_muteConv (s : State) (c : Nat) (m : Bool) : SameLedger s (s.muteConv c m) := by
  cases m <;> exact ⟨rfl, rfl⟩

theorem sameLedger_outCheck (s : State) (o : Nat) : SameLedger s (s.outCheck o) := by
  unfold State.outCheck
  dsimp only
  split
  · exact .refl s
  · refine .trans ?_ (.trans (sameLedger_muteConv _ _ _) (sameLedger_muteConv _ _ _))
    exact ⟨rfl, rfl⟩

theorem sameLedger_groupCheck (s : State) (g : Nat) : SameLedger s (s.groupCheck g) := by
  unfold State.groupCheck
  dsimp only
  split <;> exact ⟨rfl, rfl⟩

theorem sameLedger_boundCheck (s : State) (t : BitVec 16) : SameLedger s (s.boundCheck t) := by
  unfold State.boundCheck
  split
  · exact sameLedger_outCheck s _
  · exact sameLedger_groupCheck s _
  · exact .refl s

theorem sameLedger_freeGroup (s : State) (g : Nat) : SameLedger s (s.freeGroup g) := by
  unfold State.freeGroup
  dsimp only
  split <;> exact ⟨rfl, rfl⟩

/-! ### A command that is taken, by its body -/

section
variable {op : Nat} {src : Src} {hdr : Hdr} {p : Bytes} {c : Instr} {sp : CmdSpec} {body : State → Req → CmdRes}
  {s t : State} (instr : commandInstr op src hdr p [] = some c) (spec : specOf op = some sp) (is : sp.body = body)
  (taken : Taken s op sp src hdr p)
include instr spec is taken

theorem completes_of_taken {st : BitVec 16} {res : Bytes}
    (done : body (s.accepted src) (s.request op src hdr p) = .done t st res) : Completes op src hdr t st res (exec c s) := by
  rw [exec_of_taken instr spec taken]
  subst is
  exact startCmd_of_done (r := s.request op src hdr p) done

theorem waits_of_taken {w : Wait} (waits : body (s.accepted src) (s.request op src hdr p) = .wait t w) :
    Waits s op src hdr t w (exec c s) := by
  rw [exec_of_taken instr spec taken]
  subst is
  exact congrArg Host.Outcome.next (startCmd_of_wait (r := s.request op src hdr p) waits)

end

/-! ### What the stream commands read of the state that accepted them -/

theorem ledger_accepted (s : State) (src : Src) : (s.accepted src).mem = s.mem ∧ (∀ i, (s.accepted src).entry i = s.entry i) ∧
    (∀ p, (s.accepted src).part p = s.part p) ∧ (∀ p i, (s.accepted src).foreignStream p i = s.foreignStream p i) ∧
    ∀ e, (s.accepted src).chainUsable e = s.chainUsable e := by
  cases src <;> exact ⟨rfl, fun _ => rfl, fun _ => rfl, fun _ _ => rfl, fun _ => rfl⟩

end Sys2Proof.Machine
end

section
/-! PROOFS. OPEN_STREAM (R192, R200, R215, R363): its checks in their order, the copy of the INIT region, and from these the
statement OpenStreamCommand. -/

namespace Sys2Proof.Machine

/-! ### Whose context, whose chain (R264, R363) -/

/-- Context c is resident in another partition than p. -/
def State.alienCtx (s : State) (p c : Nat) : Prop := ∃ x, s.ctx c = some x ∧ x.resident = true ∧ x.part ≠ p

theorem foreignCtx_iff (s : State) (p c : Nat) : s.foreignCtx p c = true ↔ s.alienCtx p c := by
  unfold State.foreignCtx State.alienCtx
  split
  · next x ctx => simp [ctx]
  · next none_ => simp [none_]

theorem foreignRope_iff (s : State) (p r : Nat) :
    s.foreignRope p r = true ↔ ∃ y, s.rope r = some y ∧ s.alienCtx p y.ctx := by
  unfold State.foreignRope
  split
  · next y rope => simp [rope, foreignCtx_iff]
  · next none_ => simp [none_]

theorem foreignChain_iff (s : State) (p c : Nat) (chain : List Nat) : s.foreignChain p c chain = true ↔
    s.alienCtx p c ∨ ∃ r ∈ chain, ∃ y, s.rope r = some y ∧ s.alienCtx p y.ctx := by
  simp only [State.foreignChain, Bool.or_eq_true, foreignCtx_iff, List.any_eq_true, foreignRope_iff]

/-! ### The last link of a chain (R215, Table 18.7) -/

/-- The Ropewalk of the chain's last link, where it is defined, satisfies P. -/
def State.lastLink (s : State) (chain : List Nat) (P : Rope → Prop) : Prop :=
  ∀ r y, chain.getLast? = some r → s.rope r = some y → P y

theorem lastLink_of_some {s : State} {chain : List Nat} {P : Rope → Prop} {r : Nat} {y : Rope}
    (last : chain.getLast? = some r) (rope : s.rope r = some y) : s.lastLink chain P ↔ P y := by
  refine ⟨fun all => all r y last rope, fun holds r' y' last' rope' => ?_⟩
  cases last.symm.trans last'
  cases rope.symm.trans rope'
  exact holds

theorem lastLink_of_none {s : State} {chain : List Nat} {P : Rope → Prop}
    (undefined : ∀ r, chain.getLast? = some r → s.rope r = none) : s.lastLink chain P := by
  intro r y last rope
  cases (undefined r last).symm.trans rope

theorem chainSamples_le_iff (s : State) (chain : List Nat) (n : Nat) :
    2 * s.chainSamples chain ≤ n ↔ s.lastLink chain fun y => 2 * y.samples ≤ n := by
  unfold State.chainSamples
  split
  · next r last =>
    split
    · next y rope => exact (lastLink_of_some (P := fun y => 2 * y.samples ≤ n) last rope).symm
    · next none_ =>
      refine iff_of_true (Nat.zero_le n) (lastLink_of_none fun r' last' => ?_)
      cases last.symm.trans last'
      exact none_
  · next empty =>
    refine iff_of_true (Nat.zero_le n) (lastLink_of_none fun r' last' => ?_)
    cases empty.symm.trans last'

theorem openFields_iff (s : State) (a : OpenArgs) : s.openFields a = true ↔
    a.size % 64 = 0 ∧ 1 ≤ a.iqSlot ∧ 1 ≤ a.iqDepth ∧ a.iqDepth ≤ 1024 ∧ (a.chain.length = 1 → a.cqFrame = 0) ∧
      a.orFmt ≤ 4 ∧ s.lastLink a.chain (fun y => 2 * y.samples ≤ a.orSize) ∧ 8000 * 256 ≤ a.rate ∧ a.rate ≤ 198000 * 256 := by
  rw [← chainSamples_le_iff]
  simp only [State.openFields, Bool.and_eq_true, Bool.or_eq_true, decide_eq_true_eq, beq_iff_eq, bne_iff_ne, and_assoc,
    ← imp_iff_not_or, ne_eq]

/-! ### The chain and its context (R215, R363) -/

/-- Every link is a Ropewalk of context c. -/
def State.ownChain (s : State) (c : Nat) (chain : List Nat) : Prop := ∀ r ∈ chain, ∃ y, s.rope r = some y ∧ y.ctx = c

/-- A chain that names a Ropewalk, each of whose links is one of context c: what the context and the shape decide. -/
theorem chainCheck_of_own {s : State} {c size : Nat} {chain : List Nat} {x : Ctx} (own : s.ownChain c chain)
    (ctx : s.ctx c = some x) : s.chainCheck c chain size =
      if x.faulted then some stProgramFault
      else if x.retiring then some stWrongState
      else if !s.chainShape chain size then some stBadField
      else none := by
  unfold State.chainCheck
  rw [if_neg, ctx]
  rw [List.any_eq_true]
  rintro ⟨r, link, alien⟩
  obtain ⟨y, rope, same⟩ := own r link
  simp [rope, same] at alien

theorem chainCheck_of_alien {s : State} {c size : Nat} {chain : List Nat} (alien : ¬ s.ownChain c chain) :
    s.chainCheck c chain size = some stNoRopewalk := by
  unfold State.chainCheck
  refine if_pos (List.any_eq_true.2 ?_)
  by_contra none_
  refine alien fun r link => ?_
  by_contra other
  refine none_ ⟨r, link, ?_⟩
  split
  · next y rope => exact bne_iff_ne.2 fun same => other ⟨y, rope, same⟩
  · rfl

/-- A CHAIN word names at least one link. -/
theorem chainOf_eq_concat (w : Nat) : ∃ init r, chainOf w = init ++ [r] := by
  rw [chainOf, List.range_succ, List.map_append]
  exact ⟨_, _, rfl⟩

theorem chainShape_iff {s : State} {init : List Nat} {r size : Nat} {y : Rope} (rope : s.rope r = some y) :
    s.chainShape (init ++ [r]) size = true ↔
      (∀ r ∈ init, ∀ y, s.rope r = some y → y.steps = 1 ∧ y.samples = 0 ∧ y.fb = false) ∧
        0 < y.samples ∧ y.fbOff + y.fbLen ≤ size := by
  have ropes : (init ++ [r]).filterMap s.rope = init.filterMap s.rope ++ [y] := by
    rw [List.filterMap_append, List.filterMap_cons_some rope, List.filterMap_nil]
  simp only [State.chainShape, ropes, List.dropLast_concat, List.getLast?_concat, Bool.and_eq_true, List.all_eq_true,
    List.mem_filterMap, forall_exists_index, and_imp, beq_iff_eq, Bool.not_eq_true', decide_eq_true_eq, and_assoc]
  constructor
  · rintro ⟨inner, outer⟩
    exact ⟨fun r link y rope => inner y r link rope, outer⟩
  · rintro ⟨inner, outer⟩
    exact ⟨fun y r link rope => inner r link y rope, outer⟩

/-! ### Regions (R90, R363) -/

theorem openArgs_inside_iff (a : OpenArgs) (p : Part) : a.inside p = true ↔
    p.inside a.state a.size = true ∧ p.inside a.init a.size = true ∧
      p.inside a.iqBase (a.iqDepth * (64 * a.iqSlot)) = true ∧
      p.inside a.cqBase ((a.chain.length - 1) * 16 * (64 * a.cqFrame)) = true ∧
      p.inside a.orBase (a.orSize * audioBytes a.orFmt) = true := by
  simp only [OpenArgs.inside, Bool.and_eq_true, and_assoc]

/-! ### Items 1 to 6 of R363 in their order -/

section
variable {s : State} {p : Nat} {a : OpenArgs}

theorem openChecks_of_alien (alien : s.foreignChain p a.ctx a.chain = true) : s.openChecks p a = some stNotPermitted :=
  if_pos alien

theorem openChecks_of_fields (own : ¬ s.foreignChain p a.ctx a.chain = true) (bad : ¬ s.openFields a = true) :
    s.openChecks p a = some stBadField :=
  (if_neg own).trans (if_pos (by simpa using bad))

/-- A chain of the partition and fields of Table 18.7: the chain's own check, and then the regions. -/
theorem openChecks_of_chain (own : ¬ s.foreignChain p a.ctx a.chain = true) (good : s.openFields a = true) :
    s.openChecks p a = (s.chainCheck a.ctx a.chain a.size).or (if a.inside (s.part p) then none else some stOutOfBounds) := by
  rw [State.openChecks, if_neg own, if_neg (not_bnot good)]
  cases s.chainCheck a.ctx a.chain a.size <;> rfl

end

theorem openStreamChecks : Claims.OpenStreamChecks := by
  intro p b s a out foreign alien last fields own shape within regions
  have alienIff : s.foreignChain p a.ctx a.chain = true ↔ alien := foreignChain_iff s p a.ctx a.chain
  have fieldsIff : s.openFields a = true ↔ fields := openFields_iff s a
  have regionsIff : a.inside (s.part p) = true ↔ regions := openArgs_inside_iff a (s.part p)
  refine ⟨fun others => openChecks_of_alien (alienIff.2 others),
    fun ours bad => openChecks_of_fields (mt alienIff.1 ours) (mt fieldsIff.1 bad), fun ours good strange => ?_,
    fun ours good links x ctx => ?_⟩
  all_goals have checks : out = _ := openChecks_of_chain (mt alienIff.1 ours) (fieldsIff.2 good)
  · rw [checks, chainCheck_of_alien strange]
    rfl
  · obtain ⟨init, r, chain⟩ := chainOf_eq_concat (fieldAt b 4 4)
    obtain ⟨y, rope, -⟩ := links r (by rw [show a.chain = init ++ [r] from chain]; simp)
    have shapeIff : s.chainShape a.chain a.size = true ↔ shape := by
      have outer : last (fun y => 0 < y.samples ∧ y.fbOff + y.fbLen ≤ a.size) ↔ 0 < y.samples ∧ y.fbOff + y.fbLen ≤ a.size :=
        lastLink_of_some (P := fun y => 0 < y.samples ∧ y.fbOff + y.fbLen ≤ a.size)
          (by rw [show a.chain = init ++ [r] from chain, List.getLast?_concat]) rope
      rw [show shape ↔ _ from and_congr_right fun _ => outer, show a.chain = init ++ [r] from chain, List.dropLast_concat]
      exact chainShape_iff rope
    rw [chainCheck_of_own links ctx] at checks
    refine ⟨fun faulted => ?_, fun sound retiring => ?_, fun sound stays => ⟨fun bad => ?_, fun shaped outside => ?_,
      fun shaped inside => ?_⟩⟩
    · rw [checks, faulted]
      rfl
    · rw [checks, sound, retiring]
      rfl
    all_goals rw [sound, stays] at checks
    · rw [checks, Bool.eq_false_iff.2 (mt shapeIff.1 bad)]
      rfl
    · rw [checks, shapeIff.2 shaped, Bool.eq_false_iff.2 (mt regionsIff.1 outside)]
      rfl
    · rw [checks, shapeIff.2 shaped, regionsIff.2 inside]
      rfl

/-! ### What OPEN_STREAM reads of the state that accepted it -/

theorem opening_accepted (s : State) (src : Src) : (∀ p a, (s.accepted src).openChecks p a = s.openChecks p a) ∧
    (∀ chain, (s.accepted src).chainFeedback chain = s.chainFeedback chain) ∧
    (∀ p A n b, (s.accepted src).stateOverlap p A n b = s.stateOverlap p A n b) ∧
    (∀ p, (s.accepted src).freeEntry p = s.freeEntry p) ∧ (∀ x, (s.accepted src).srcId x = s.srcId x) ∧
    ∀ i pos, (s.accepted src).provStart i pos = s.provStart i pos := by
  cases src <;> exact ⟨fun _ _ => rfl, fun _ => rfl, fun _ _ _ _ => rfl, fun _ => rfl, fun x => by cases x <;> rfl, fun _ _ => rfl⟩

/-! ### The place of a stream (items 8 and 9 of R363) -/

section
variable {s : State} {p : Nat} {a : OpenArgs}

theorem openPlace_of_overlap (busy : s.stateOverlap p a.state a.size true = true) : s.openPlace p a = .inl stStateBusy :=
  if_pos busy

variable (apart : s.stateOverlap p a.state a.size true = false)
include apart

theorem openPlace_of_full (full : s.freeEntry p = none) : s.openPlace p a = .inl stNoStreamEntry := by
  rw [State.openPlace, apart, full]
  rfl

theorem openPlace_of_free {i : Nat} (free : s.freeEntry p = some i) : s.openPlace p a = .inr i := by
  rw [State.openPlace, apart, free]
  rfl

end

/-! ### OPEN_STREAM (R192, R200, R363) -/

theorem onlyCaches_layoutAt (s : State) (p A : Nat) : OnlyCaches s (s.layoutAt p A).1 :=
  (onlyCaches_readPart s _ _ _ _).trans (onlyCaches_readPart _ _ _ _ _)

/-- A read through the home caches changes nothing that the place of a stream or its first fields depend on. -/
theorem OnlyCaches.opening {s t : State} (only : OnlyCaches s t) : (∀ p a, t.openPlace p a = s.openPlace p a) ∧
    (∀ p, t.part p = s.part p) ∧ (∀ x, t.srcId x = s.srcId x) ∧ ∀ i pos, t.provStart i pos = s.provStart i pos := by
  rw [only.frame]
  exact ⟨fun _ _ => rfl, fun _ => rfl, fun x => by cases x <;> rfl, fun _ _ => rfl⟩

/-- The entry of a stream as OPEN_STREAM opens it, from the state in which the command starts (Table 18.7, R363). -/
def State.openedEntry (s : State) (r : Req) (a : OpenArgs) (i : Nat) : Entry :=
  { a.entry r.hdr.part.val with
    status := .opened, fresh := true, owner := s.srcId r.src, ownerSelf := deviceSource r.src, credits := a.iqDepth,
    prov := s.provStart i 0 }

/-- The read of the INIT region. -/
def State.readInit (s : State) (r : Req) (a : OpenArgs) : State × Bytes × List Nat :=
  s.readPart (s.part r.hdr.part.val) .normal a.init a.size

/-- The write of what was read to the state region. -/
def State.writeState (s : State) (r : Req) (a : OpenArgs) : State × Bool :=
  (s.readInit r a).1.writeWholly (s.part r.hdr.part.val) .normal a.state (s.readInit r a).2.1

section
variable {s : State} {r : Req} {a : OpenArgs} {i : Nat}

theorem openEntry_of_unread (unread : (s.readInit r a).2.2 ≠ []) :
    s.openEntry r a i = .done (s.readInit r a).1 stEccUncorrectable [] := by
  refine if_pos ?_
  rwa [Bool.not_eq_true', List.isEmpty_eq_false_iff]

theorem openEntry_of_read (read : (s.readInit r a).2.2 = []) : s.openEntry r a i =
    if (s.writeState r a).2 then .done (s.writeState r a).1 stEccUncorrectable []
    else .done ((s.writeState r a).1.setEntry i (s.openedEntry r a i)) stOk (leBytes 4 i) := by
  refine if_neg ?_
  rw [show (s.readPart (s.part r.hdr.part.val) .normal a.init a.size).2.2 = [] from read]
  decide

end

section
variable {s : State} {r : Req}

theorem openStreamBody_of_refused {st : BitVec 16} (refused : s.openChecks r.hdr.part.val (openArgs r.p) = some st) :
    openStreamBody s r = .done s st [] := by
  simp only [openStreamBody, refused]

/-- The INIT region begins with a state layout that holds the chain's feedback range (R229). -/
def State.initOk (s : State) (r : Req) : Bool :=
  let a := openArgs r.p
  let b := (s.layoutAt r.hdr.part.val a.init).2.1
  layoutOk b a.size && feedbackOk b (s.chainFeedback a.chain)

variable (passed : s.openChecks r.hdr.part.val (openArgs r.p) = none)
include passed

theorem openStreamBody_of_layout (bad : s.initOk r = false) :
    openStreamBody s r = .done (s.layoutAt r.hdr.part.val (openArgs r.p).init).1 stBadField [] := by
  simp only [openStreamBody, passed]
  refine if_pos ?_
  rw [Bool.not_eq_true']
  exact bad

variable (ok : s.initOk r = true)
include ok

theorem openStreamBody_of_unplaced {st : BitVec 16} (place : s.openPlace r.hdr.part.val (openArgs r.p) = .inl st) :
    openStreamBody s r = .done (s.layoutAt r.hdr.part.val (openArgs r.p).init).1 st [] := by
  simp only [openStreamBody, passed]
  refine (if_neg (not_bnot ok)).trans ?_
  rw [(onlyCaches_layoutAt s _ _).opening.1, place]

theorem openStreamBody_of_placed {i : Nat} (place : s.openPlace r.hdr.part.val (openArgs r.p) = .inr i) :
    openStreamBody s r = (s.layoutAt r.hdr.part.val (openArgs r.p).init).1.openEntry r (openArgs r.p) i := by
  simp only [openStreamBody, passed]
  refine (if_neg (not_bnot ok)).trans ?_
  rw [(onlyCaches_layoutAt s _ _).opening.1, place]

end

theorem openStreamEffect : Claims.OpenStreamEffect := by
  intro src hdr b s taken n p a out
  have ends {t st res} (body : openStreamBody n (s.request 0x30 src hdr b) = .done t st res) :
      Completes 0x30 src hdr t st res out := completes_of_taken (body := openStreamBody) rfl rfl rfl taken body
  obtain ⟨-, entry, part, -⟩ := ledger_accepted s src
  obtain ⟨checks, feedback, overlap, free, srcId, prov⟩ := opening_accepted s src
  rw [← checks, ← feedback, ← overlap, ← free]
  refine ⟨fun st refused => ends (openStreamBody_of_refused refused), fun passed =>
    ⟨fun (bad : n.initOk (s.request 0x30 src hdr b) = false) => ends (openStreamBody_of_layout passed bad),
      fun (good : n.initOk (s.request 0x30 src hdr b) = true) => ?_⟩⟩
  refine ⟨fun busy => ends (openStreamBody_of_unplaced passed good (openPlace_of_overlap busy)), fun apart =>
    ⟨fun full => ends (openStreamBody_of_unplaced passed good (openPlace_of_full apart full)), fun i room => ?_⟩⟩
  have body := openStreamBody_of_placed (r := s.request 0x30 src hdr b) passed good (openPlace_of_free apart room)
  obtain ⟨-, part', srcId', prov'⟩ := (onlyCaches_layoutAt n p a.init).opening
  rw [← part, ← part', ← srcId, ← srcId', ← prov, ← prov']
  let v := (n.layoutAt p a.init).1
  let r := s.request 0x30 src hdr b
  refine ⟨fun (unread : (v.readInit r a).2.2 ≠ []) => ends (body.trans (openEntry_of_unread unread)),
    fun (read : (v.readInit r a).2.2 = []) => ?_, fun (read : (v.readInit r a).2.2 = []) => ?_⟩
  all_goals have copied := body.trans (openEntry_of_read read)
  · exact fun (refused : (v.writeState r a).2 = true) => ends (copied.trans (if_pos refused))
  · intro (written : (v.writeState r a).2 = false)
    refine ⟨_, ends (copied.trans (if_neg (Bool.eq_false_iff.1 written))), rfl, fun k other => ?_, entry_setEntry_self _ _ _⟩
    rw [entry_setEntry_ne _ _ _ other, State.writeState, (onlyMemory_writeWholly _ _ _ _ _).sameLedger.entry, State.readInit,
      (onlyCaches_readPart _ _ _ _ _).entry, (onlyCaches_layoutAt _ _ _).entry, entry]

/-- Settles O35: the checks of R363 in their order, and what the command makes of a state that passes them. -/
theorem openStreamCommand : Obligations.OpenStreamCommand := ⟨openStreamChecks, openStreamEffect⟩

end Sys2Proof.Machine
end

section
/-! PROOFS. PARK_STREAM, UNPARK_STREAM and CLOSE_STREAM (R192, R200 to R204, R363): what a stream's leaving its output and its
entry makes of the Ledger, the three commands and the events that end their waits, and from these the statement StreamEndings. -/

namespace Sys2Proof.Machine

/-! ### A command on a stream (Table 9.6) -/

section
variable {s : State} {r : Req} {f : State → Nat → CmdRes}

theorem onStream_of_foreign (foreign : s.foreignStream r.hdr.part.val (fieldAt r.p 0 2) = true) :
    onStream r f s = .done s stNotPermitted [] := if_pos foreign

theorem onStream_of_own (own : s.foreignStream r.hdr.part.val (fieldAt r.p 0 2) = false) :
    onStream r f s = f s (fieldAt r.p 0 2) := if_neg (Bool.eq_false_iff.1 own)

end

/-! ### The end of a PARK_STREAM (R200) -/

theorem entry_endPark_self (s : State) (i : Nat) (st : BitVec 16) :
    (s.endPark i st).entry i = { s.entry i with parking := false } := by
  rw [State.endPark, (onlyAnswers_finishWhere _ _ _).sameLedger.entry, modEntry_eq, entry_setEntry_self]

theorem entry_endPark_ne (s : State) {i k : Nat} (other : k ≠ i) (st : BitVec 16) : (s.endPark i st).entry k = s.entry k := by
  rw [State.endPark, (onlyAnswers_finishWhere _ _ _).sameLedger.entry, modEntry_eq, entry_setEntry_ne _ _ _ other]

theorem endPark_ends {s : State} {i : Nat} {st : BitVec 16} {c : Cmd} (mem : c ∈ (s.endPark i st).cmds) : c.wait ≠ .park i :=
  beq_eq_false_iff_ne.1 (finishWhere_ends (f := fun c => c.wait == .park i) mem)

/-! ### PARK_STREAM and UNPARK_STREAM (R200, R201) -/

section
variable {s : State} {r : Req}

theorem parkBody_of_own (own : s.foreignStream r.hdr.part.val (fieldAt r.p 0 2) = false) : parkBody s r =
    let i := fieldAt r.p 0 2
    if (s.entry i).status.active then .wait (s.modEntry i fun e => { e with parking := true }) (.park i)
    else if (s.entry i).status = .parked then .done s stOk []
    else .done s stWrongState [] := onStream_of_own own

theorem unparkBody_of_own (own : s.foreignStream r.hdr.part.val (fieldAt r.p 0 2) = false) : unparkBody s r =
    let i := fieldAt r.p 0 2
    if (s.entry i).status ≠ .parked then .done s stWrongState []
    else if (s.entry i).moving then .done s stStateBusy []
    else if !s.chainUsable (s.entry i) then .done s stNoRopewalk []
    else .done (((s.modEntry i fun e => { e with status := if e.fresh then .opened else .waitingInput }).reval i).urgency i)
      stOk [] := onStream_of_own own

end

theorem parkStream (src : Src) (hdr : Hdr) (b : Bytes) (s : State) (taken : Taken s 0x31 parkStreamSpec src hdr b) :
    let n := s.accepted src
    let i := fieldAt b 0 2
    let e := s.entry i
    let out := exec (.parkStream src hdr b) s
    (s.foreignStream hdr.part.val i = true → Completes 0x31 src hdr n stNotPermitted [] out) ∧
    (s.foreignStream hdr.part.val i = false →
      (e.status.active = true → Waits s 0x31 src hdr (n.setEntry i { e with parking := true }) (.park i) out) ∧
      (e.status = .parked → Completes 0x31 src hdr n stOk [] out) ∧
      ((e.status = .closed ∨ e.status = .draining ∨ e.status = .faulted) →
        Completes 0x31 src hdr n stWrongState [] out)) := by
  intro n i e out
  have ends {t st res} (body : parkBody n (s.request 0x31 src hdr b) = .done t st res) :
      Completes 0x31 src hdr t st res out := completes_of_taken (body := parkBody) rfl rfl rfl taken body
  obtain ⟨-, entry, -, foreign, -⟩ := ledger_accepted s src
  rw [← foreign, show e = n.entry i from (entry i).symm]
  refine ⟨fun others => ends (onStream_of_foreign others), fun own => ?_⟩
  have body := parkBody_of_own (r := s.request 0x31 src hdr b) own
  refine ⟨fun active => waits_of_taken (body := parkBody) rfl rfl rfl taken (body.trans (if_pos active)), fun parked => ?_,
    fun ended => ?_⟩
  · have idle : ¬ (n.entry i).status.active = true := by rw [parked]; decide
    exact ends (body.trans ((if_neg idle).trans (if_pos parked)))
  · have idle : ¬ (n.entry i).status.active = true ∧ (n.entry i).status ≠ .parked := by
      rcases ended with h | h | h <;> rw [h] <;> decide
    exact ends (body.trans ((if_neg idle.1).trans (if_neg idle.2)))

theorem unparkStream (src : Src) (hdr : Hdr) (b : Bytes) (s : State) (taken : Taken s 0x32 unparkStreamSpec src hdr b) :
    let n := s.accepted src
    let i := fieldAt b 0 2
    let e := s.entry i
    let out := exec (.unparkStream src hdr b) s
    (s.foreignStream hdr.part.val i = true → Completes 0x32 src hdr n stNotPermitted [] out) ∧
    (s.foreignStream hdr.part.val i = false →
      (e.status ≠ .parked → Completes 0x32 src hdr n stWrongState [] out) ∧
      (e.status = .parked → e.moving = true → Completes 0x32 src hdr n stStateBusy [] out) ∧
      (e.status = .parked → e.moving = false → s.chainUsable e = false → Completes 0x32 src hdr n stNoRopewalk [] out) ∧
      (e.status = .parked → e.moving = false → s.chainUsable e = true →
        Completes 0x32 src hdr (((n.setEntry i { e with
          status := if e.fresh then .opened else .waitingInput }).reval i).urgency i) stOk [] out)) := by
  intro n i e out
  have ends {t st res} (body : unparkBody n (s.request 0x32 src hdr b) = .done t st res) :
      Completes 0x32 src hdr t st res out := completes_of_taken (body := unparkBody) rfl rfl rfl taken body
  obtain ⟨-, entry, -, foreign, usable⟩ := ledger_accepted s src
  rw [← foreign, ← usable, show e = n.entry i from (entry i).symm]
  refine ⟨fun others => ends (onStream_of_foreign others), fun own => ?_⟩
  have body := unparkBody_of_own (r := s.request 0x32 src hdr b) own
  refine ⟨fun other => ends (body.trans (if_pos other)), fun parked moving => ?_, fun parked stays unusable => ?_,
    fun parked stays usable => ?_⟩
  all_goals replace body := body.trans (if_neg (not_not.2 parked))
  · exact ends (body.trans (if_pos moving))
  all_goals replace body := body.trans (if_neg (Bool.eq_false_iff.1 stays))
  · exact ends (body.trans (if_pos ((Bool.not_eq_true' _).mpr unusable)))
  · exact ends (body.trans (if_neg (not_bnot usable)))

theorem exec_parkComplete (i : Fin 4096) (s : State) : exec (.parkComplete i) s =
    .next (s.when ((s.entry i.val).parking && !s.carried i.val) fun s =>
      ((s.flushSlot i.val).modEntry i.val fun e => { e with status := .parked, urgent := false }).endPark i.val stOk) := rfl

theorem parkingCommands : Claims.ParkingCommands := by
  refine ⟨fun src hdr b s => ⟨parkStream src hdr b s, unparkStream src hdr b s⟩, fun i s waits => ?_,
    fun i s parking free => ?_⟩
  · rw [exec_parkComplete, when_false]
    rcases waits with h | h <;> simp [h]
  · rw [exec_parkComplete, when_true (by rw [parking, free]; rfl)]
    have flushed := (onlyMemory_flushSlot s i.val).sameLedger.entry
    refine ⟨_, rfl, ?_, ?_, ?_, ?_, fun k other => ?_, fun c mem => endPark_ends mem⟩
    case refine_5 => rw [entry_endPark_ne _ other, modEntry_eq, entry_setEntry_ne _ _ _ other, flushed]
    all_goals rw [entry_endPark_self, modEntry_eq, entry_setEntry_self]
    · rw [flushed]
    · rw [flushed]

/-! ### A stream leaves its output and its entry (R192, R203, R289, R442) -/

/-- Beside the stream's binding, what it leaves and who takes its place are not in the Ledger. -/
theorem leaveOutput_eq (s : State) (i : Nat) : ∃ u, SameLedger s u ∧
    s.leaveOutput i = (u.modEntry i fun e => { e with bind := 0xFFFF }).boundCheck (u.entry i).bind := by
  refine ⟨_, ?_, rfl⟩
  generalize queue : State.each _ _ State.freeGroup = v
  have freed : SameLedger s v := by
    rw [← queue]
    refine .trans ?_ (sameLedger_each sameLedger_freeGroup _ _)
    exact ⟨rfl, rfl⟩
  refine freed.trans ?_
  split
  · dsimp only
    split
    · exact ⟨rfl, rfl⟩
    · split <;> exact ⟨rfl, rfl⟩
  · exact .trans (t := v.modGroup _ _) ⟨rfl, rfl⟩ (sameLedger_freeGroup _ _)
  · exact .refl v

theorem leaveOutput_facts (s : State) (i : Nat) :
    (s.leaveOutput i).entry i = { s.entry i with bind := 0xFFFF } ∧ (s.leaveOutput i).carried i = s.carried i := by
  obtain ⟨u, same, left⟩ := leaveOutput_eq s i
  have checked := sameLedger_boundCheck (u.modEntry i fun e => { e with bind := 0xFFFF }) (u.entry i).bind
  rw [left, checked.entry, checked.carried, modEntry_eq, entry_setEntry_self, same.entry]
  rw [carried_setEntry]
  exact ⟨rfl, same.carried i⟩

/-- What a closed stream keeps in its entry, and its partition while a Docket still carries it. -/
def Entry.closed (e : Entry) (carried : Bool) : Entry :=
  { e with pend := none, bind := 0xFFFF, status := .closed, held := carried, urgent := false, moving := false,
           parking := false, part := if carried then e.part else none }

theorem entry_closeEntry (s : State) (i : Nat) (st : BitVec 16) :
    (s.closeEntry i st).entry i = (s.entry i).closed (s.carried i) := by
  have flushed := (onlyMemory_flushSlot s i).sameLedger
  obtain ⟨left, carried⟩ := leaveOutput_facts ((s.flushSlot i).dropPend i) i
  rw [State.closeEntry, (onlyAnswers_finishWhere _ _ _).sameLedger.entry, (onlyAnswers_finishWhere _ _ _).sameLedger.entry,
    modEntry_eq, entry_setEntry_self, left, carried, State.dropPend, modEntry_eq, entry_setEntry_self, carried_setEntry,
    flushed.carried, flushed.entry]
  rfl

/-- No CLOSE_STREAM waits for a stream that has closed. -/
theorem closeEntry_ends {s : State} {i : Nat} {st : BitVec 16} {c : Cmd} (mem : c ∈ (s.closeEntry i st).cmds) :
    c.wait ≠ .closeDrain i :=
  beq_eq_false_iff_ne.1
    (finishWhere_ends (f := fun c => c.wait == .closeDrain i) ((onlyAnswers_finishWhere _ _ _).fewer mem))

theorem entry_closeUndrained (s : State) (i : Nat) :
    (s.closeUndrained i).entry i = (s.entry i).dropRing.closed (s.carried i) := by
  rw [State.closeUndrained, entry_closeEntry, modEntry_eq, entry_setEntry_self, carried_setEntry]

/-! ### CLOSE_STREAM (R203, R363) -/

/-- The state in which a CLOSE_STREAM in DRAIN form finds its stream DRAINING. -/
def State.toDrain (s : State) (i : Nat) : State := if (s.entry i).status = .draining then s else s.startDraining i

theorem closeDrain_eq (s : State) (i : Nat) : s.closeDrain i =
    if (s.toDrain i).drained i then .done ((s.toDrain i).closeUndrained i) stDrained []
    else .wait (s.toDrain i) (.closeDrain i) := rfl

theorem closeBody_of_own {s : State} {r : Req} (own : s.foreignStream r.hdr.part.val (fieldAt r.p 0 2) = false) :
    closeBody s r =
      let i := fieldAt r.p 0 2
      if (s.entry i).status = .closed then .done s stWrongState []
      else if r.hdr.form then .done (s.closeAbort i) stAborted []
      else s.closeDrain i := onStream_of_own own

theorem closeStream (src : Src) (hdr : Hdr) (b : Bytes) (s : State) (taken : Taken s 0x34 closeStreamSpec src hdr b) :
    let n := s.accepted src
    let i := fieldAt b 0 2
    let d := n.toDrain i
    let out := exec (.closeStream src hdr b) s
    (s.foreignStream hdr.part.val i = true → Completes 0x34 src hdr n stNotPermitted [] out) ∧
    (s.foreignStream hdr.part.val i = false →
      ((s.entry i).status = .closed → Completes 0x34 src hdr n stWrongState [] out) ∧
      ((s.entry i).status ≠ .closed → hdr.form = true → Completes 0x34 src hdr (n.closeAbort i) stAborted [] out) ∧
      ((s.entry i).status ≠ .closed → hdr.form = false → d.drained i = true →
        Completes 0x34 src hdr (d.closeUndrained i) stDrained [] out) ∧
      ((s.entry i).status ≠ .closed → hdr.form = false → d.drained i = false →
        Waits s 0x34 src hdr d (.closeDrain i) out)) := by
  intro n i d out
  have ends {t st res} (body : closeBody n (s.request 0x34 src hdr b) = .done t st res) :
      Completes 0x34 src hdr t st res out := completes_of_taken (body := closeBody) rfl rfl rfl taken body
  obtain ⟨-, entry, -, foreign, -⟩ := ledger_accepted s src
  rw [← foreign, ← entry]
  refine ⟨fun others => ends (onStream_of_foreign others), fun own => ?_⟩
  have body := closeBody_of_own (r := s.request 0x34 src hdr b) own
  refine ⟨fun closed => ends (body.trans (if_pos closed)), fun open_ abort => ?_, fun open_ drain drained => ?_,
    fun open_ drain waits => ?_⟩
  all_goals replace body := body.trans (if_neg open_)
  · exact ends (body.trans (if_pos abort))
  all_goals replace body := (body.trans (if_neg (Bool.eq_false_iff.1 drain))).trans (closeDrain_eq n i)
  · exact ends (body.trans (if_pos drained))
  · exact waits_of_taken (body := closeBody) rfl rfl rfl taken (body.trans (if_neg (Bool.eq_false_iff.1 waits)))

/-! ### The end of a drain (R203, R204, R345) -/

theorem exec_drainCloseComplete (i : Fin 4096) (s : State) : exec (.drainCloseComplete i) s =
    .next (s.when (s.drained i.val && s.cmds.any fun c => c.wait == .closeDrain i.val) fun s => s.closeUndrained i.val) := rfl

theorem exec_drainingClose (i : Fin 4096) (s : State) : exec (.drainingClose i) s =
    .next (s.when (s.drained i.val && !s.cmds.any fun c => c.wait == .closeDrain i.val) fun s => s.closeUndrained i.val) := rfl

/-- Whether a CLOSE_STREAM waits for the stream or not, its drained stream closes. -/
theorem exec_of_drained {i : Fin 4096} {s : State} {c : Instr} (drained : s.drained i.val = true)
    (event : c = .drainCloseComplete i ∧ (∃ k ∈ s.cmds, k.wait = .closeDrain i.val) ∨
      c = .drainingClose i ∧ ∀ k ∈ s.cmds, k.wait ≠ .closeDrain i.val) :
    exec c s = .next (s.closeUndrained i.val) := by
  obtain ⟨rfl, k, mem, waits⟩ | ⟨rfl, none_⟩ := event
  · have some_ : s.cmds.any (fun c => c.wait == .closeDrain i.val) = true :=
      List.any_eq_true.2 ⟨k, mem, beq_iff_eq.2 waits⟩
    rw [exec_drainCloseComplete, when_true (by rw [drained, some_]; rfl)]
  · have none_ : s.cmds.any (fun c => c.wait == .closeDrain i.val) = false :=
      List.any_eq_false.2 fun k mem => by simpa using none_ k mem
    rw [exec_drainingClose, when_true (by rw [drained, none_]; rfl)]

theorem closingCommands : Claims.ClosingCommands := by
  refine ⟨?close, fun i s c _ drained event => ?_, fun i s waits => ?_⟩
  case close =>
    intro src hdr b s taken n i
    have draining : n.toDrain i = if (s.entry i).status = .draining then n else n.startDraining i := by
      rw [State.toDrain, (ledger_accepted s src).2.1]
    rw [← draining]
    exact closeStream src hdr b s taken
  · refine ⟨_, exec_of_drained drained event, ?_, ?_, ?_, ?_, ?_, fun k mem => closeEntry_ends mem⟩
    all_goals
      rw [entry_closeUndrained]
      rfl
  · rw [exec_drainCloseComplete, exec_drainingClose, waits]
    exact ⟨rfl, rfl⟩

/-- Settles O36: the commands by their streams' states, and the events that end their waits. -/
theorem streamEndings : Obligations.StreamEndings := ⟨parkingCommands, closingCommands⟩

end Sys2Proof.Machine
end

section
/-! PROOFS. BIND_OUTPUT and SET_SLOT_MASK (R203, R287 to R290, R294, R313, R315, R366): which streams may be bound, what an
output that nothing holds, one with a successor's place and any other answer, the masks of groups, and from these the statement
OutputBinding. -/

namespace Sys2Proof.Machine

/-! ### What the output commands read of the state that accepted them -/

theorem outputs_accepted (s : State) (src : Src) : (s.accepted src).out = s.out ∧ (s.accepted src).group = s.group ∧
    (s.accepted src).groups = s.groups ∧ (s.accepted src).changes = s.changes := by
  cases src <;> exact ⟨rfl, rfl, rfl, rfl⟩

theorem bindings_accepted (s : State) (src : Src) : (∀ p t, (s.accepted src).foreignOutput p t = s.foreignOutput p t) ∧
    (∀ t b, (s.accepted src).groupFieldsOk t b = s.groupFieldsOk t b) ∧ (∀ i, (s.accepted src).willBind i = s.willBind i) ∧
    (∀ i, (s.accepted src).isBound i = s.isBound i) ∧ (∀ w, (s.accepted src).succeeds w = s.succeeds w) ∧
    (∀ i t b, (s.accepted src).outputCheck i t b = s.outputCheck i t b) ∧ (∀ w, (s.accepted src).holders w = s.holders w) ∧
    ∀ k, (s.accepted src).succeedable k = s.succeedable k := by
  cases src <;> exact ⟨fun _ _ => rfl, fun _ _ => rfl, fun _ => rfl, fun _ => rfl, fun _ => rfl, fun _ _ _ => rfl,
    fun _ => rfl, fun _ => rfl⟩

/-! ### Which streams may be bound (R289, R366) -/

section
variable {s : State} {i : Nat} {w : BitVec 16}

theorem bindStatus_of_closed (closed : (s.entry i).status = .closed) : s.bindStatus i w = some stWrongState := by
  rw [State.bindStatus, closed]

theorem bindStatus_of_bound (bound : s.isBound i = true) : s.bindStatus i w = some stWrongState := by
  rw [State.bindStatus, bound]
  cases (s.entry i).status <;> rfl

theorem bindStatus_of_alone (draining : (s.entry i).status = .draining) (alone : s.succeeds w = false) :
    s.bindStatus i w = some stWrongState := by
  rw [State.bindStatus, draining, alone]
  exact if_pos (Bool.or_true _)

section
variable (unbound : s.isBound i = false)
include unbound

theorem bindStatus_of_parked (parked : (s.entry i).status = .parked) : s.bindStatus i w = some stStreamParked := by
  rw [State.bindStatus, parked, unbound]
  rfl

theorem bindStatus_of_faulted (faulted : (s.entry i).status = .faulted) : s.bindStatus i w = some stStreamFaulted := by
  rw [State.bindStatus, faulted, unbound]
  rfl

theorem bindStatus_of_free
    (may : (s.entry i).status.active = true ∨ (s.entry i).status = .draining ∧ s.succeeds w = true) :
    s.bindStatus i w = none := by
  obtain active | ⟨draining, successor⟩ := may
  · rw [State.bindStatus, unbound]
    cases status : (s.entry i).status with
    | opened | ready | waitingInput | waitingRoom => rfl
    | closed | draining | parked | faulted =>
      rw [status] at active
      cases active
  · rw [State.bindStatus, draining, unbound, successor]
    rfl

end

/-! ### What an output answers to a stream that may be bound (R204, R289, R290, R313) -/

variable (r : Req)

theorem bindStream_of_status {st : BitVec 16} (status : s.bindStatus i w = some st) : s.bindStream r i w = .done s st [] := by
  simp only [State.bindStream, status]

variable (may : s.bindStatus i w = none)
include may

theorem bindStream_of_check {st : BitVec 16} (refused : s.outputCheck i (bindTo w) r.p = some st) :
    s.bindStream r i w = .done s st [] := by
  simp only [State.bindStream, may, refused]

variable (lets : s.outputCheck i (bindTo w) r.p = none)
include lets

theorem bindStream_of_unheld (unheld : s.holders w = []) : s.bindStream r i w =
    let u := s.openGroup r.hdr.part.val (bindTo w) r.p
    .done { u with changes := u.changes ++ [.bind i w] } stOk [] := by
  simp only [State.bindStream, may, lets, unheld]

theorem bindStream_of_held {k : Nat} (held : s.holders w = [k]) : s.bindStream r i w =
    if s.succeedable k then .done (s.attach i w) stOk [] else .done s stUnitBusy [] := by
  simp only [State.bindStream, may, lets, held]

end

/-- A group with the fields that the first slot bound in it gives (R313). -/
def openedGroup (p : Nat) (b : Bytes) : Group :=
  { active := true, part := p, clk := Fin.ofNat 8 (fieldAt b 8 1), fmt := Fin.ofNat 4 (fieldAt b 7 1), vc := fieldAt b 6 1,
    dest := BitVec.ofNat 12 (fieldAt b 4 2) }

/-- The binding opens the free group of its slot, and changes nothing else. -/
theorem openGroup_facts (s : State) (p : Nat) (t : BindTo) (b : Bytes) : let u := s.openGroup p t b
    { u with groups := s.groups } = s ∧ u.changes = s.changes ∧ ((∀ g k, t ≠ .slot g k) → u.groups = s.groups) ∧
      ∀ g k, t = .slot g k → (s.group g).active = false → u.group g = openedGroup p b := by
  cases t with
  | none => exact ⟨rfl, rfl, fun _ => rfl, nofun⟩
  | aes c => exact ⟨rfl, rfl, fun _ => rfl, nofun⟩
  | bad => exact ⟨rfl, rfl, fun _ => rfl, nofun⟩
  | slot g k =>
    dsimp only [State.openGroup]
    refine ⟨?_, ?_, fun other => absurd rfl (other g k), fun g' k' same free => ?_⟩
    · split <;> rfl
    · split <;> rfl
    · cases same
      rw [if_neg (Bool.eq_false_iff.1 free), group_setGroup_self]
      rfl

/-! ### BIND_OUTPUT (R289, R366) -/

section
variable {s : State} {r : Req}

theorem bindOutputBody_of_foreign (foreign : s.foreignStream r.hdr.part.val (fieldAt r.p 0 2) = true ∨
      s.foreignOutput r.hdr.part.val (bindTo (BitVec.ofNat 16 (fieldAt r.p 2 2))) = true) :
    bindOutputBody s r = .done s stNotPermitted [] := if_pos ((Bool.or_eq_true _ _).mpr foreign)

theorem bindOutputBody_of_own (stream : s.foreignStream r.hdr.part.val (fieldAt r.p 0 2) = false)
    (output : s.foreignOutput r.hdr.part.val (bindTo (BitVec.ofNat 16 (fieldAt r.p 2 2))) = false) :
    bindOutputBody s r =
      let i := fieldAt r.p 0 2
      let w := BitVec.ofNat 16 (fieldAt r.p 2 2)
      if !s.groupFieldsOk (bindTo w) r.p then .done s stBadField []
      else if w = 0xFFFF then
        if (s.entry i).status = .closed then .done s stWrongState [] else .done (s.unbindStream i) stOk []
      else s.bindStream r i w := by
  refine if_neg ?_
  rw [stream, output]
  decide

end

theorem bindOutputCommand : Claims.BindOutputCommand := by
  intro src hdr b s taken n p i w t out
  have ends {t st res} (body : bindOutputBody n (s.request 0x40 src hdr b) = .done t st res) :
      Completes 0x40 src hdr t st res out := completes_of_taken (body := bindOutputBody) rfl rfl rfl taken body
  obtain ⟨-, entry, -, foreign, -⟩ := ledger_accepted s src
  obtain ⟨-, group, groups, changes⟩ := outputs_accepted s src
  obtain ⟨foreignOutput, fields, willBind, isBound, succeeds, check, holders, succeedable⟩ := bindings_accepted s src
  rw [← foreign, ← foreignOutput, ← fields, ← willBind, ← isBound, ← succeeds, ← entry, ← holders, ← changes, ← groups, ← group]
  simp only [← check, ← succeedable]
  refine ⟨fun others => ends (bindOutputBody_of_foreign others), fun stream output => ?_⟩
  have body : bindOutputBody n (s.request 0x40 src hdr b) = _ := bindOutputBody_of_own stream output
  refine ⟨fun bad => ends (body.trans (if_pos ((Bool.not_eq_true' _).mpr bad))), fun good unbind => ?_, fun good bind => ?_⟩
  all_goals replace body := body.trans (if_neg (not_bnot good))
  · replace body := body.trans (if_pos unbind)
    exact ⟨fun closed => ends (body.trans (if_pos closed)), fun open_ => ends (body.trans (if_neg open_))⟩
  replace body := body.trans (if_neg bind)
  have refused {st} (status : n.bindStatus i w = some st) : Completes 0x40 src hdr n st [] out :=
    ends (body.trans (bindStream_of_status _ status))
  refine ⟨fun closed => refused (bindStatus_of_closed closed), fun bound => refused (bindStatus_of_bound bound),
    fun draining alone => refused (bindStatus_of_alone draining alone),
    fun parked unbound => refused (bindStatus_of_parked unbound parked),
    fun faulted unbound => refused (bindStatus_of_faulted unbound faulted), fun unbound free => ?_⟩
  have may := bindStatus_of_free unbound free
  let r := s.request 0x40 src hdr b
  refine ⟨fun st no => ends (body.trans (bindStream_of_check r may no)), fun lets => ⟨fun unheld => ?_, fun k held yes => ?_,
    fun k held no => ?_⟩⟩
  · obtain ⟨rest, queue, same, opens⟩ := openGroup_facts n p t b
    refine ⟨_, ends (body.trans (bindStream_of_unheld r may lets unheld)), ?_, ?_, same, opens⟩
    · exact congrArg (· ++ [Change.bind i w]) queue
    · exact congrArg (fun u : State => { u with changes := n.changes }) rest
  · exact ends (body.trans ((bindStream_of_held r may lets held).trans (if_pos yes)))
  · exact ends (body.trans ((bindStream_of_held r may lets held).trans (if_neg (Bool.eq_false_iff.1 no))))

/-! ### SET_SLOT_MASK (R290, R315) -/

theorem slotMaskBody_eq (s : State) (r : Req) : slotMaskBody s r =
    let p := r.hdr.part.val
    let g := fieldAt r.p 0 1
    let m := fieldAt r.p 4 8
    let queue (c : Change) : CmdRes := .done { s with changes := s.changes ++ [c] } stOk []
    if 15 < g then .done s stBadField []
    else if g = 0 then
      if m &&& channelsOf (fun o => !(s.out o).en) ≠ 0 then .done s stBadField []
      else if m &&& channelsOf (fun o => (s.out o).part != some p) ≠ 0 then .done s stNotPermitted []
      else queue (.mask 0 (BitVec.ofNat 64 (channelsOf fun o => (s.out o).part == some p)) (BitVec.ofNat 64 m))
    else if !(s.group g).active then
      if m = 0 then .done s stOk [] else .done s stBadField []
    else if (s.group g).part ≠ p then .done s stNotPermitted []
    else queue (.mask g (BitVec.allOnes 64) (BitVec.ofNat 64 m)) := rfl

theorem slotMaskCommand : Claims.SlotMaskCommand := by
  intro src hdr b s taken n p g m own out
  have ends {t st res} (body : slotMaskBody n (s.request 0x41 src hdr b) = .done t st res) :
      Completes 0x41 src hdr t st res out := completes_of_taken (body := slotMaskBody) rfl rfl rfl taken body
  have body := slotMaskBody_eq n (s.request 0x41 src hdr b)
  obtain ⟨outs, group, -, changes⟩ := outputs_accepted s src
  rw [outs, group, changes] at body
  refine ⟨fun beyond => ends (body.trans (if_pos beyond)), fun zero => ?_, fun some_ range => ?_⟩
  · have within : ¬ 15 < g := by omega
    replace body := (body.trans (if_neg within)).trans (if_pos zero)
    refine ⟨fun disabled => ends (body.trans (if_pos disabled)), fun enabled => ?_⟩
    replace body := body.trans (if_neg (not_not.2 enabled))
    exact ⟨fun others => ends (body.trans (if_pos others)), fun ours => ends (body.trans (if_neg (not_not.2 ours)))⟩
  · have other : g ≠ 0 := by omega
    replace body := (body.trans (if_neg (Nat.not_lt.2 range))).trans (if_neg other)
    refine ⟨fun free => ?_, fun active other => ?_, fun active ours => ?_⟩
    · replace body := body.trans (if_pos ((Bool.not_eq_true' _).mpr free))
      split
      · next empty => exact ends (body.trans (if_pos empty))
      · next bits => exact ends (body.trans (if_neg bits))
    all_goals replace body := body.trans (if_neg (not_bnot active))
    · exact ends (body.trans (if_pos other))
    · exact ends (body.trans (if_neg (not_not.2 ours)))

/-- Settles O37: the stream, the output and its holders choose what BIND_OUTPUT does, and the group what SET_SLOT_MASK does. -/
theorem outputBinding : Obligations.OutputBinding := ⟨bindOutputCommand, slotMaskCommand⟩

end Sys2Proof.Machine
end

section
/-! PROOFS. MOVE_STREAM and the Steward commands of a move (R201, R231, R345, R364, R365): the reservation, the opening and the
release at the destination, the checks and the three forms at the source, and from these the statement MoveCommands. -/

namespace Sys2Proof.Machine

/-! ### What the move commands read of the state that accepted them -/

theorem moves_accepted (s : State) (src : Src) : (s.accepted src).net = s.net ∧
    (∀ p x, (s.accepted src).admits p x = s.admits p x) ∧
    ∀ p i d, (s.accepted src).holdsReserve p i d = s.holdsReserve p i d := by
  cases src <;> exact ⟨rfl, fun _ x => by cases x <;> rfl, fun _ _ _ => rfl⟩

theorem freeReserved_accepted (s : State) (src : Src) (i : Nat) : (s.accepted src).freeReserved i =
    (s.accepted src).setEntry i { s.entry i with held := false, reserved := none, part := none } := by
  rw [State.freeReserved, modEntry_eq, (ledger_accepted s src).2.1]

/-! ### From a Steward that the partition admits (R365) -/

/-- The command comes from the Steward of device d, which the partition, if there is one, admits. -/
def State.steward (s : State) (src : Src) (hdr : Hdr) (d : BitVec 12) : Prop :=
  src = .dev d ∧ 0xF000 ≤ hdr.tag.toNat ∧ ((s.part hdr.part.val).exists_ = false ∨ (s.part hdr.part.val).sources = [] ∨
    d ∈ (s.part hdr.part.val).sources)

theorem admits_iff (s : State) (p : Nat) (d : BitVec 12) :
    s.admits p (.dev d) = true ↔ (s.part p).sources = [] ∨ d ∈ (s.part p).sources := by
  simp [State.admits]

theorem stewardSource_eq_some_iff (s : State) (r : Req) (d : BitVec 12) :
    s.stewardSource r = some d ↔ s.steward r.src r.hdr d := by
  unfold State.stewardSource State.steward
  split
  · next d' src =>
    rw [src]
    have admitted : (!(s.part r.hdr.part.val).exists_ || s.admits r.hdr.part.val (.dev d')) = true ↔
        (s.part r.hdr.part.val).exists_ = false ∨ (s.part r.hdr.part.val).sources = [] ∨
          d' ∈ (s.part r.hdr.part.val).sources := by
      rw [Bool.or_eq_true, Bool.not_eq_true', admits_iff]
    simp only [admitted, Option.ite_none_right_eq_some, Option.some.injEq, Src.dev.injEq]
    constructor
    · rintro ⟨⟨tag, admits⟩, rfl⟩
      exact ⟨rfl, tag, admits⟩
    · rintro ⟨rfl, tag, admits⟩
      exact ⟨⟨tag, admits⟩, rfl⟩
  · next other => exact ⟨nofun, fun from_ => absurd from_.1 (other d)⟩

section
variable {s : State} {r : Req} {f : State → BitVec 12 → CmdRes}

theorem onSteward_of_none (none_ : s.stewardSource r = none) : onSteward f s r = .done s stNotPermitted [] := by
  rw [onSteward, none_]

variable {d : BitVec 12} (from_ : s.stewardSource r = some d)
include from_

theorem onSteward_of_absent (absent : (s.part r.hdr.part.val).exists_ = false) : onSteward f s r = .done s stWrongState [] := by
  rw [onSteward, from_]
  exact if_neg (Bool.eq_false_iff.1 absent)

theorem onSteward_of_some (present : (s.part r.hdr.part.val).exists_ = true) : onSteward f s r = f s d := by
  rw [onSteward, from_]
  exact if_pos present

end

/-- Items 1 and 2 of R365: only from a Steward, and for a partition that exists. -/
def StewardOnly (s : State) (op : Nat) (src : Src) (hdr : Hdr) (out : Outcome) : Prop :=
  ((∀ d, ¬ s.steward src hdr d) → Completes op src hdr (s.accepted src) stNotPermitted [] out) ∧
    ((∃ d, s.steward src hdr d) → (s.part hdr.part.val).exists_ = false →
      Completes op src hdr (s.accepted src) stWrongState [] out)

section
variable {s : State} {op : Nat} {src : Src} {hdr : Hdr} {b : Bytes} {out : Outcome} {d : BitVec 12}

theorem steward_accepted (from_ : s.steward src hdr d) :
    (s.accepted src).stewardSource (s.request op src hdr b) = some d := by
  rw [stewardSource_eq_some_iff, State.steward, (ledger_accepted s src).2.2.1]
  exact from_

theorem stewardOnly {f : State → BitVec 12 → CmdRes} (ends : ∀ {t st res},
      onSteward f (s.accepted src) (s.request op src hdr b) = .done t st res → Completes op src hdr t st res out) :
    StewardOnly s op src hdr out := by
  refine ⟨fun none_ => ends (onSteward_of_none ?_), fun ⟨d, from_⟩ absent => ends (onSteward_of_absent (steward_accepted from_) ?_)⟩
  · cases source : (s.accepted src).stewardSource (s.request op src hdr b) with
    | none => rfl
    | some d =>
      rw [stewardSource_eq_some_iff, State.steward, (ledger_accepted s src).2.2.1] at source
      exact absurd source (none_ d)
  · rw [(ledger_accepted s src).2.2.1]
    exact absent

end

/-! ### MOVE_RESERVE (R345, R365) -/

section
variable {s : State} {p : Nat} {a : OpenArgs}

theorem reservePlace_of_refused {st : BitVec 16} (refused : s.openChecks p a = some st) : s.reservePlace p a = .inl st := by
  simp only [State.reservePlace, refused]

variable (passed : s.openChecks p a = none)
include passed

theorem reservePlace_of_unplaced {st : BitVec 16} (unplaced : s.openPlace p a = .inl st) : s.reservePlace p a = .inl st := by
  simp only [State.reservePlace, passed, unplaced]

theorem reservePlace_of_placed {k : Nat} (placed : s.openPlace p a = .inr k) :
    s.reservePlace p a = if a.init = a.state then .inr k else .inl stBadField := by
  simp only [State.reservePlace, passed, placed]

end

/-- Entry k held for the stream that a Steward's command describes. -/
def State.reserve (s : State) (r : Req) (d : BitVec 12) (k : Nat) : State :=
  s.setEntry k { (openArgs r.p).entry r.hdr.part.val with held := true, reserved := some { tag := r.hdr.tag, src := d } }

section
variable {s : State} {r : Req} {d : BitVec 12} (from_ : s.stewardSource r = some d)
  (present : (s.part r.hdr.part.val).exists_ = true)
include from_ present

theorem moveReserveBody_of_refused {st : BitVec 16} (refused : s.reservePlace r.hdr.part.val (openArgs r.p) = .inl st) :
    moveReserveBody s r = .done s st [] := by
  refine (onSteward_of_some from_ present).trans ?_
  simp only [refused]

theorem moveReserveBody_of_place {k : Nat} (place : s.reservePlace r.hdr.part.val (openArgs r.p) = .inr k) :
    moveReserveBody s r = .done (s.reserve r d k) stOk (leBytes 4 k) := by
  refine (onSteward_of_some from_ present).trans ?_
  simp only [place, State.reserve]

end

theorem moveReserve (src : Src) (hdr : Hdr) (b : Bytes) (s : State) (taken : Taken s 0xF0 moveReserveSpec src hdr b) :
    let n := s.accepted src
    let p := hdr.part.val
    let a := openArgs b
    let out := exec (.moveReserve src hdr b) s
    StewardOnly s 0xF0 src hdr out ∧ (∀ d, s.steward src hdr d → (s.part p).exists_ = true →
      (∀ st, n.openChecks p a = some st → Completes 0xF0 src hdr n st [] out) ∧
      (n.openChecks p a = none →
        (n.stateOverlap p a.state a.size true = true → Completes 0xF0 src hdr n stStateBusy [] out) ∧
        (n.stateOverlap p a.state a.size true = false →
          (n.freeEntry p = none → Completes 0xF0 src hdr n stNoStreamEntry [] out) ∧
          (∀ k, n.freeEntry p = some k →
            (a.init ≠ a.state → Completes 0xF0 src hdr n stBadField [] out) ∧
            (a.init = a.state → Completes 0xF0 src hdr (n.reserve (s.request 0xF0 src hdr b) d k) stOk (leBytes 4 k) out))))) := by
  intro n p a out
  have ends {t st res} (body : moveReserveBody n (s.request 0xF0 src hdr b) = .done t st res) :
      Completes 0xF0 src hdr t st res out := completes_of_taken (body := moveReserveBody) rfl rfl rfl taken body
  refine ⟨stewardOnly (b := b) ends, fun d from_ present => ?_⟩
  rw [← (ledger_accepted s src).2.2.1] at present
  have refused {st} (unplaced : n.reservePlace p a = .inl st) : Completes 0xF0 src hdr n st [] out :=
    ends (moveReserveBody_of_refused (steward_accepted from_) present unplaced)
  refine ⟨fun st bad => refused (reservePlace_of_refused bad), fun passed =>
    ⟨fun busy => refused (reservePlace_of_unplaced passed (openPlace_of_overlap busy)), fun apart =>
      ⟨fun full => refused (reservePlace_of_unplaced passed (openPlace_of_full apart full)), fun k free => ?_⟩⟩⟩
  have place := reservePlace_of_placed passed (openPlace_of_free apart free)
  exact ⟨fun other => refused (place.trans (if_neg other)), fun same =>
    ends (moveReserveBody_of_place (steward_accepted from_) present (place.trans (if_pos same)))⟩

/-! ### MOVE_OPEN (R345, R365) -/

theorem onlyCaches_freeMarks (n : Nat) (s : State) : OnlyCaches s (State.freeMarks n s).2 := by
  induction n generalizing s with
  | zero => exact .refl s
  | succ n ih => exact .trans ⟨rfl⟩ (ih s.draw.2)

/-- The mark of the chunk for POS lies in the input queue or in a chain queue; nothing else of the entry changes. -/
theorem setPosMark_frame (e : Entry) (m : Bool) :
    e.setPosMark m = { e with marks := (e.setPosMark m).marks, cq := (e.setPosMark m).cq } := by
  unfold Entry.setPosMark
  split <;> rfl

theorem onlyCaches_feedbackCheck (s : State) (p A : Nat) (chain : List Nat) : OnlyCaches s (s.feedbackCheck p A chain).1 := by
  unfold State.feedbackCheck
  split
  · exact .refl s
  · exact onlyCaches_layoutAt s p A

theorem feedbackCheck_status {s : State} {p A : Nat} {chain : List Nat} {st : BitVec 16}
    (refused : (s.feedbackCheck p A chain).2 = some st) : st = stEccUncorrectable ∨ st = stBadField := by
  unfold State.feedbackCheck at refused
  split at refused
  · cases refused
  · dsimp only at refused
    split at refused
    · exact .inl (Option.some.inj refused).symm
    · split at refused
      · cases refused
      · exact .inr (Option.some.inj refused).symm

/-- The fields that MOVE_OPEN sends do not fit the entry: too many chunks, or a chain queue with more than 16 frames. -/
def MoveFields.misfit (f : MoveFields) (e : Entry) : Bool :=
  e.iqDepth < f.fill || (List.range 3).any fun j => decide (16 < fld f.cq (9 * j) 5)

theorem misfit_iff (f : MoveFields) (e : Entry) :
    f.misfit e = true ↔ e.iqDepth < f.fill ∨ ∃ j, j < 3 ∧ 16 < fld f.cq (9 * j) 5 := by
  simp only [MoveFields.misfit, Bool.or_eq_true, decide_eq_true_eq, List.any_eq_true, List.mem_range]

section
variable {s : State} {r : Req} {d : BitVec 12} (from_ : s.stewardSource r = some d)
  (present : (s.part r.hdr.part.val).exists_ = true)
include from_ present

theorem moveOpenBody_of_unheld (unheld : s.holdsReserve r.hdr.part.val (fieldAt r.p 0 2) d = none) :
    moveOpenBody s r = .done s stWrongState [] := by
  refine (onSteward_of_some from_ present).trans ?_
  simp only [unheld]

section
variable {v : Reserve} (held : s.holdsReserve r.hdr.part.val (fieldAt r.p 0 2) d = some v)
include held

theorem moveOpenBody_of_misfit (misfit : (moveFieldsOf r.p).misfit (s.entry (fieldAt r.p 0 2)) = true) :
    moveOpenBody s r = .done (s.freeReserved (fieldAt r.p 0 2)) stBadField [] := by
  refine (onSteward_of_some from_ present).trans ?_
  simp only [held]
  exact if_pos misfit

variable (fits : (moveFieldsOf r.p).misfit (s.entry (fieldAt r.p 0 2)) = false)
include fits

theorem moveOpenBody_of_bad (bad : v.bad = true) :
    moveOpenBody s r = .done (s.freeReserved (fieldAt r.p 0 2)) stEccUncorrectable [] := by
  refine (onSteward_of_some from_ present).trans ?_
  simp only [held]
  exact (if_neg (Bool.eq_false_iff.1 fits)).trans (if_pos bad)

variable (sound : v.bad = false)
include sound

theorem moveOpenBody_of_partial (lacks : (s.entry (fieldAt r.p 0 2)).copied v (moveFieldsOf r.p) = false) :
    moveOpenBody s r = .done (s.freeReserved (fieldAt r.p 0 2)) stLinkCrc [] := by
  refine (onSteward_of_some from_ present).trans ?_
  simp only [held]
  exact (if_neg (Bool.eq_false_iff.1 fits)).trans ((if_neg (Bool.eq_false_iff.1 sound)).trans
    (if_pos ((Bool.not_eq_true' _).mpr lacks)))

variable (whole : (s.entry (fieldAt r.p 0 2)).copied v (moveFieldsOf r.p) = true) {t : State}
include whole

theorem moveOpenBody_of_refused {st : BitVec 16} (refused : s.movedCheck (fieldAt r.p 0 2) = (t, some st)) :
    moveOpenBody s r = .done (t.freeReserved (fieldAt r.p 0 2)) st [] := by
  refine (onSteward_of_some from_ present).trans ?_
  simp only [held]
  refine (if_neg (Bool.eq_false_iff.1 fits)).trans ((if_neg (Bool.eq_false_iff.1 sound)).trans
    ((if_neg (not_bnot whole)).trans ?_))
  rw [refused]

theorem moveOpenBody_of_passed (passed : s.movedCheck (fieldAt r.p 0 2) = (t, none)) :
    moveOpenBody s r = .done (t.openMoved (fieldAt r.p 0 2) (moveFieldsOf r.p)) stOk [] := by
  refine (onSteward_of_some from_ present).trans ?_
  simp only [held]
  refine (if_neg (Bool.eq_false_iff.1 fits)).trans ((if_neg (Bool.eq_false_iff.1 sound)).trans
    ((if_neg (not_bnot whole)).trans ?_))
  rw [passed]

end

end

/-- From s to u the move's stream opens PARKED in entry i with the fields sent; memory and the other entries stay. -/
structure OpensMoved (s : State) (i : Nat) (f : MoveFields) (u : State) : Prop where
  mem : u.mem = s.mem
  others : ∀ k, k ≠ i → u.entry k = s.entry k
  status : (u.entry i).status = .parked
  held : (u.entry i).held = false
  pos : (u.entry i).pos = f.pos
  step : (u.entry i).step = f.step
  iqCount : (u.entry i).iqCount = f.fill
  chunk : (u.entry i).chunk = BitVec.ofNat 32 f.chunk
  owner : (u.entry i).owner = f.owner
  resetPend : (u.entry i).resetPend = f.resetPend
  credits : (u.entry i).credits = (s.entry i).iqDepth - f.fill
  state : (u.entry i).state = (s.entry i).state

theorem opensMoved_openMoved {s t : State} (mem : t.mem = s.mem) (entry : ∀ k, t.entry k = s.entry k) (i : Nat)
    (f : MoveFields) : OpensMoved s i f (t.openMoved i f) := by
  have marked := onlyCaches_freeMarks (f.fill + ((List.range 3).map fun j => fld f.cq (9 * j) 5).sum) t
  unfold State.openMoved
  dsimp only
  generalize State.freeMarks (f.fill + ((List.range 3).map fun j => fld f.cq (9 * j) 5).sum) t = m at marked ⊢
  have same (k : Nat) : m.2.entry k = s.entry k := (marked.entry k).trans (entry k)
  have self := entry_setEntry_self m.2 i
  simp only [modEntry_eq, same]
  refine ⟨marked.mem.trans mem, fun k other => ?_, ?_, ?_, ?_, ?_, ?_, ?_, ?_, ?_, ?_, ?_⟩
  · rw [entry_setEntry_ne _ _ _ other, same]
  all_goals rw [self, setPosMark_frame]

theorem moveOpen (src : Src) (hdr : Hdr) (b : Bytes) (s : State) (taken : Taken s 0xF1 moveOpenSpec src hdr b) :
    let n := s.accepted src
    let p := hdr.part.val
    let i := fieldAt b 0 2
    let e := s.entry i
    let f := moveFieldsOf b
    let out := exec (.moveOpen src hdr b) s
    StewardOnly s 0xF1 src hdr out ∧ (∀ d, s.steward src hdr d → (s.part p).exists_ = true →
      (s.holdsReserve p i d = none → Completes 0xF1 src hdr n stWrongState [] out) ∧
      (∀ v, s.holdsReserve p i d = some v → f.misfit e = true → Completes 0xF1 src hdr (n.freeReserved i) stBadField [] out) ∧
      (∀ v, s.holdsReserve p i d = some v → f.misfit e = false →
        (v.bad = true → Completes 0xF1 src hdr (n.freeReserved i) stEccUncorrectable [] out) ∧
        (v.bad = false → e.copied v f = false → Completes 0xF1 src hdr (n.freeReserved i) stLinkCrc [] out) ∧
        (∀ st, v.bad = false → e.copied v f = true → (n.movedCheck i).2 = some st →
          Completes 0xF1 src hdr ((n.movedCheck i).1.freeReserved i) st [] out) ∧
        (v.bad = false → e.copied v f = true → (n.movedCheck i).2 = none →
          ∃ u, Completes 0xF1 src hdr u stOk [] out ∧ OpensMoved s i f u))) := by
  intro n p i e f out
  have ends {t st res} (body : moveOpenBody n (s.request 0xF1 src hdr b) = .done t st res) :
      Completes 0xF1 src hdr t st res out := completes_of_taken (body := moveOpenBody) rfl rfl rfl taken body
  refine ⟨stewardOnly (b := b) ends, fun d from_ present => ?_⟩
  obtain ⟨mem, entry, part, -⟩ := ledger_accepted s src
  obtain ⟨-, -, holds⟩ := moves_accepted s src
  rw [← part] at present
  rw [← holds, show e = n.entry i from (entry i).symm]
  replace from_ : n.stewardSource (s.request 0xF1 src hdr b) = some d := steward_accepted from_
  refine ⟨fun unheld => ends (moveOpenBody_of_unheld from_ present unheld),
    fun v held misfit => ends (moveOpenBody_of_misfit from_ present held misfit),
    fun v held fits => ⟨fun bad => ends (moveOpenBody_of_bad from_ present held fits bad),
      fun sound lacks => ends (moveOpenBody_of_partial from_ present held fits sound lacks),
      fun st sound whole refused => ?_, fun sound whole passed => ?_⟩⟩
  · exact ends (moveOpenBody_of_refused from_ present held fits sound whole (Prod.ext rfl refused))
  · refine ⟨_, ends (moveOpenBody_of_passed from_ present held fits sound whole (Prod.ext rfl passed)), ?_⟩
    have only : OnlyCaches n (n.movedCheck i).1 := onlyCaches_feedbackCheck _ _ _ _
    exact opensMoved_openMoved (only.mem.trans mem) (fun k => (only.entry k).trans (entry k)) i f

/-! ### MOVE_RELEASE, and a reservation that does not end (R345, R365) -/

section
variable {s : State} {r : Req} {d : BitVec 12} (from_ : s.stewardSource r = some d)
  (present : (s.part r.hdr.part.val).exists_ = true)
include from_ present

theorem moveReleaseBody_of_unheld (unheld : s.holdsReserve r.hdr.part.val (fieldAt r.p 0 2) d = none) :
    moveReleaseBody s r = .done s stWrongState [] := by
  refine (onSteward_of_some from_ present).trans ?_
  simp only [unheld]

theorem moveReleaseBody_of_held {v : Reserve} (held : s.holdsReserve r.hdr.part.val (fieldAt r.p 0 2) d = some v) :
    moveReleaseBody s r = .done (s.freeReserved (fieldAt r.p 0 2)) stOk [] := by
  refine (onSteward_of_some from_ present).trans ?_
  simp only [held]

end

theorem moveRelease (src : Src) (hdr : Hdr) (b : Bytes) (s : State) (taken : Taken s 0xF2 moveReleaseSpec src hdr b) :
    let n := s.accepted src
    let p := hdr.part.val
    let i := fieldAt b 0 2
    let out := exec (.moveRelease src hdr b) s
    StewardOnly s 0xF2 src hdr out ∧ (∀ d, s.steward src hdr d → (s.part p).exists_ = true →
      (s.holdsReserve p i d = none → Completes 0xF2 src hdr n stWrongState [] out) ∧
      (∀ v, s.holdsReserve p i d = some v → Completes 0xF2 src hdr (n.freeReserved i) stOk [] out)) := by
  intro n p i out
  have ends {t st res} (body : moveReleaseBody n (s.request 0xF2 src hdr b) = .done t st res) :
      Completes 0xF2 src hdr t st res out := completes_of_taken (body := moveReleaseBody) rfl rfl rfl taken body
  refine ⟨stewardOnly (b := b) ends, fun d from_ present => ?_⟩
  rw [← (ledger_accepted s src).2.2.1] at present
  rw [← (moves_accepted s src).2.2]
  exact ⟨fun unheld => ends (moveReleaseBody_of_unheld (steward_accepted from_) present unheld),
    fun v held => ends (moveReleaseBody_of_held (steward_accepted from_) present held)⟩

theorem exec_reservationTimeout (i : Fin 4096) (s : State) : exec (.reservationTimeout i) s =
    .next (s.when (s.entry i.val).reserved.isSome fun s => s.freeReserved i.val) := rfl

theorem moveStewardCommands : Claims.MoveStewardCommands := by
  refine ⟨?commands, fun i s => ⟨fun free => ?_, fun reserved => ?_⟩⟩
  case commands =>
    intro src hdr b s n p steward common i e freed
    have freedEq : n.freeReserved i = freed := freeReserved_accepted s src i
    refine ⟨fun taken => moveReserve src hdr b s taken, fun taken => ?_, fun taken => ?_⟩
    · obtain ⟨only, opens⟩ := moveOpen src hdr b s taken
      refine ⟨only, fun d from_ present => ?_⟩
      obtain ⟨unheld, misfit, fits⟩ := opens d from_ present
      rw [freeReserved_accepted] at misfit fits
      refine ⟨unheld, fun v held bad => misfit v held ((misfit_iff _ _).2 bad), fun v held few short => ?_⟩
      have fit : (moveFieldsOf b).misfit e = false := Bool.eq_false_iff.2 fun bad => by
        obtain many | ⟨j, low, long⟩ := (misfit_iff _ _).1 bad
        · exact absurd few (Nat.not_le.2 many)
        · exact absurd (short j low) (Nat.not_le.2 long)
      obtain ⟨bad, lacks, refused, passed⟩ := fits v held fit
      refine ⟨bad, lacks, fun st sound whole check => ?_, fun sound whole check => ?_⟩
      · have same : (n.movedCheck i).1.entry i = e :=
          ((onlyCaches_feedbackCheck _ _ _ _).entry i).trans ((ledger_accepted s src).2.1 i)
        have freed' : (n.movedCheck i).1.freeReserved i =
            (n.movedCheck i).1.setEntry i { e with held := false, reserved := none, part := none } := by
          rw [State.freeReserved, modEntry_eq, same]
        rw [← freed']
        exact refused st sound whole check
      · obtain ⟨u, ends, opened⟩ := passed sound whole check
        exact ⟨u, ends, opened.mem, opened.others, opened.status, opened.held, opened.pos, opened.step, opened.iqCount,
          opened.chunk, opened.owner, opened.resetPend, opened.credits, opened.state⟩
    · rw [← freedEq]
      exact moveRelease src hdr b s taken
  · rw [exec_reservationTimeout, when_false (by rw [free]; rfl)]
  · rw [exec_reservationTimeout, when_true (Option.isSome_iff_ne_none.2 reserved)]
    rfl

end Sys2Proof.Machine
end

section
/-! PROOFS. MOVE_STREAM (R231, R345, R364): the checks at the source, its three forms, and with the commands of the destination
the statement MoveCommands. -/

namespace Sys2Proof.Machine

/-! ### The checks at the source (items 1 to 5 of R364) -/

theorem inPlace_iff (s : State) (hdr : Hdr) (p : Bytes) :
    s.inPlace hdr p = true ↔ destDev p = s.net.id ∧ destPart p = hdr.part := by
  rw [State.inPlace, Bool.and_eq_true, beq_iff_eq, beq_iff_eq]

/-- A new chain of another length than the stream's, whose chain queues hold frames. -/
def Entry.misfitsChain (e : Entry) (p : Bytes) : Prop :=
  newChain p = true ∧ (chainOf (fieldAt p 8 4)).length ≠ e.links ∧ e.cqHolds = true

theorem misfitsChain_iff (e : Entry) (p : Bytes) :
    (newChain p && (moveChain e p).length != e.links && e.cqHolds) = true ↔ e.misfitsChain p := by
  cases new : newChain p <;> simp [moveChain, Entry.misfitsChain, new]

section
variable {s : State} {r : Req} {i : Nat}

theorem moveChecks_of_foreign (foreign : s.foreignStream r.hdr.part.val i = true) : s.moveChecks r i = some stNotPermitted :=
  if_pos foreign

variable (own : s.foreignStream r.hdr.part.val i = false)
include own

theorem moveChecks_of_active (active : (s.entry i).status ≠ .parked) : s.moveChecks r i = some stWrongState :=
  (if_neg (Bool.eq_false_iff.1 own)).trans (if_pos active)

variable (parked : (s.entry i).status = .parked)
include parked

theorem moveChecks_of_moving (moving : (s.entry i).moving = true) : s.moveChecks r i = some stStateBusy :=
  (if_neg (Bool.eq_false_iff.1 own)).trans ((if_neg (not_not.2 parked)).trans (if_pos moving))

variable (stays : (s.entry i).moving = false)
include stays

theorem moveChecks_of_stays : s.moveChecks r i =
    if destDev r.p = s.net.id ∧ !(s.part (destPart r.p).val).exists_ then some stWrongState
    else if newChain r.p && (moveChain (s.entry i) r.p).length != (s.entry i).links && (s.entry i).cqHolds then some stBadField
    else none :=
  (if_neg (Bool.eq_false_iff.1 own)).trans ((if_neg (not_not.2 parked)).trans (if_neg (Bool.eq_false_iff.1 stays)))

theorem moveChecks_of_absent (here : destDev r.p = s.net.id) (absent : (s.part (destPart r.p).val).exists_ = false) :
    s.moveChecks r i = some stWrongState :=
  (moveChecks_of_stays own parked stays).trans (if_pos ⟨here, (Bool.not_eq_true' _).mpr absent⟩)

variable (present : destDev r.p = s.net.id → (s.part (destPart r.p).val).exists_ = true)
include present

omit own parked stays in
theorem not_absent : ¬ (destDev r.p = s.net.id ∧ (!(s.part (destPart r.p).val).exists_) = true) :=
  fun ⟨here, absent⟩ => not_bnot (present here) absent

theorem moveChecks_of_misfit (misfits : (s.entry i).misfitsChain r.p) : s.moveChecks r i = some stBadField :=
  (moveChecks_of_stays own parked stays).trans ((if_neg (not_absent present)).trans
    (if_pos ((misfitsChain_iff _ _).2 misfits)))

theorem moveChecks_of_ok (fits : ¬ (s.entry i).misfitsChain r.p) : s.moveChecks r i = none :=
  (moveChecks_of_stays own parked stays).trans ((if_neg (not_absent present)).trans
    (if_neg (mt (misfitsChain_iff _ _).1 fits)))

end

section
variable {s : State} {r : Req}

theorem moveStreamBody_of_form (away : s.inPlace r.hdr r.p = false) (lacks : newChain r.p = false ∨ newState r.p = false) :
    moveStreamBody s r = .done s stBadField [] := by
  refine if_pos ?_
  rw [away]
  rcases lacks with h | h <;> simp [h]

variable (form : s.inPlace r.hdr r.p = false → newChain r.p = true ∧ newState r.p = true)
include form

theorem not_badForm : ¬ (!s.inPlace r.hdr r.p && !(newChain r.p && newState r.p)) = true := by
  cases place : s.inPlace r.hdr r.p with
  | true => exact Bool.false_ne_true
  | false =>
    obtain ⟨chain, state⟩ := form place
    rw [chain, state]
    decide

theorem moveStreamBody_of_refused {st : BitVec 16} (refused : s.moveChecks r (fieldAt r.p 0 2) = some st) :
    moveStreamBody s r = .done s st [] := by
  refine (if_neg (not_badForm form)).trans ?_
  rw [refused]

theorem moveStreamBody_of_passed (passed : s.moveChecks r (fieldAt r.p 0 2) = none) : moveStreamBody s r =
    if s.inPlace r.hdr r.p then s.moveInPlace r (fieldAt r.p 0 2)
    else if destDev r.p = s.net.id then s.moveLocal r (fieldAt r.p 0 2) (destPart r.p).val
    else s.moveRemote r (fieldAt r.p 0 2) := by
  refine (if_neg (not_badForm form)).trans ?_
  rw [passed]

end

/-! ### To another partition of the device (R345, R364) -/

theorem moveLocal_of_unadmitted {s : State} {r : Req} {i q : Nat} (stranger : s.admits q (.dev s.net.id) = false) :
    s.moveLocal r i q = .done s stNotPermitted [] := if_pos ((Bool.not_eq_true' _).mpr stranger)

section
variable {s : State} {r : Req} {i q : Nat} (admitted : s.admits q (.dev s.net.id) = true)
include admitted

theorem moveLocal_of_unplaced {st : BitVec 16} (unplaced : s.reservePlace q (moveArgs (s.entry i) r.p) = .inl st) :
    s.moveLocal r i q = .done s st [] := by
  refine (if_neg (not_bnot admitted)).trans ?_
  rw [unplaced]

/-- With a place at the destination the move completes: OK with the new entry's number, or a line or the copied state failed. -/
theorem moveLocal_of_placed {k : Nat} (placed : s.reservePlace q (moveArgs (s.entry i) r.p) = .inr k) :
    ∃ u st res, s.moveLocal r i q = .done u st res ∧ (st = stOk → res = leBytes 4 k) ∧
      (st ≠ stOk → st = stEccUncorrectable ∨ st = stBadField) := by
  unfold State.moveLocal
  dsimp only
  rw [if_neg (not_bnot admitted), placed]
  dsimp only
  split
  · exact ⟨_, _, _, rfl, nofun, fun _ => .inl rfl⟩
  · split
    · exact ⟨_, _, _, rfl, nofun, fun _ => .inl rfl⟩
    · split
      · next st check =>
        have status := feedbackCheck_status (congrArg Prod.snd check)
        refine ⟨_, _, _, rfl, fun ok => ?_, fun _ => status⟩
        rcases status with rfl | rfl <;> cases ok
      · exact ⟨_, _, _, rfl, fun _ => rfl, fun other => absurd rfl other⟩

end

/-! ### Within the partition (R231, R364) -/

theorem onlyCaches_inPlaceChecks (s : State) (r : Req) (i : Nat) : OnlyCaches s (s.inPlaceChecks r i).1 := by
  have read := onlyCaches_feedbackCheck s r.hdr.part.val (s.entry i).state.toNat (moveChain (s.entry i) r.p)
  unfold State.inPlaceChecks
  dsimp only
  split
  · exact .refl s
  · split
    · exact .refl s
    · split
      · next check => rwa [check] at read
      · next check =>
        rw [check] at read
        split
        · exact read
        · split <;> exact read

/-- The state region as the in-place form reads it. -/
def State.readMoved (t : State) (P : Part) (e : Entry) : State × Bytes × List Nat :=
  t.readPart P .normal e.state.toNat e.stateSize.toNat

/-- What was read, written to its new place A. -/
def State.writeMoved (t : State) (P : Part) (e : Entry) (A : Nat) : State × Bool :=
  (t.readMoved P e).1.writeWholly P .normal A (t.readMoved P e).2.1

/-- The entry with the context and the chain that the command gives. -/
def Entry.relinked (e : Entry) (p : Bytes) : Entry := { e with context := moveCtx e p, chain := moveChain e p }

section
variable {s t : State} {r : Req} {i : Nat}

theorem moveInPlace_of_refused {st : BitVec 16} (checks : s.inPlaceChecks r i = (t, some st)) :
    s.moveInPlace r i = .done t st [] := by
  simp only [State.moveInPlace, checks]

variable (checks : s.inPlaceChecks r i = (t, none))
include checks

theorem entry_of_checks : t.entry i = s.entry i := by
  have only := onlyCaches_inPlaceChecks s r i
  rw [checks] at only
  exact only.entry i

theorem moveInPlace_of_chain (keeps : newState r.p = false) :
    s.moveInPlace r i = .done (t.setEntry i ((s.entry i).relinked r.p)) stOk (leBytes 4 i) := by
  simp only [State.moveInPlace, checks, keeps, Bool.false_eq_true, if_false, List.isEmpty_nil, Bool.not_true, modEntry_eq,
    entry_of_checks checks, Entry.relinked]

variable (moves : newState r.p = true)
include moves

theorem moveInPlace_of_unread (unread : (t.readMoved (s.part r.hdr.part.val) (s.entry i)).2.2 ≠ []) :
    s.moveInPlace r i = .done (t.readMoved (s.part r.hdr.part.val) (s.entry i)).1 stEccUncorrectable [] := by
  simp only [State.moveInPlace, checks, moves, if_true]
  refine if_pos ?_
  rwa [Bool.not_eq_true', List.isEmpty_eq_false_iff]

theorem moveInPlace_of_read (read : (t.readMoved (s.part r.hdr.part.val) (s.entry i)).2.2 = []) :
    s.moveInPlace r i =
      let wr := t.writeMoved (s.part r.hdr.part.val) (s.entry i) (fieldAt r.p 16 5)
      if wr.2 then .done wr.1 stEccUncorrectable []
      else .done (wr.1.setEntry i { (s.entry i).relinked r.p with state := BitVec.ofNat 40 (fieldAt r.p 16 5) }) stOk
        (leBytes 4 i) := by
  have whole : ¬ (!(t.readMoved (s.part r.hdr.part.val) (s.entry i)).2.2.isEmpty) = true := by
    rw [read]
    decide
  have same : (t.writeMoved (s.part r.hdr.part.val) (s.entry i) (fieldAt r.p 16 5)).1.entry i = s.entry i :=
    ((onlyMemory_writeWholly _ _ _ _ _).sameLedger.entry i).trans
      (((onlyCaches_readPart _ _ _ _ _).entry i).trans (entry_of_checks checks))
  simp only [State.moveInPlace, checks, moves, if_true]
  refine (if_neg whole).trans ?_
  rw [State.writeMoved, State.readMoved] at same
  rw [modEntry_eq, same]
  rfl

end

/-- The bytes of the state are those that memory holds, and its copy leaves every byte but those of its new place. -/
theorem writeMoved_facts {s t : State} (mem : t.mem = s.mem) (P : Part) (e : Entry) (A : Nat) :
    (t.readMoved P e).2.1 = (List.range e.stateSize.toNat).map (fun k => s.byteAt (P.phys (e.state.toNat + k))) ∧
      ∀ a, (∀ k, k < e.stateSize.toNat → P.phys (A + k) ≠ a) → (t.writeMoved P e A).1.byteAt a = s.byteAt a := by
  have bytes : (t.readMoved P e).2.1 =
      (List.range e.stateSize.toNat).map fun k => s.byteAt (P.phys (e.state.toNat + k)) := by
    simp only [State.readMoved, State.readPart, State.partBytes, mem, State.byteAt]
  refine ⟨bytes, fun a out => ?_⟩
  have read : (t.readMoved P e).1.mem = s.mem := (onlyCaches_readPart _ _ _ _ _).mem.trans mem
  rw [State.writeMoved, (writeWholly_facts _ _ _ _ _).1 a, State.byteAt, read, State.byteAt]
  rwa [bytes, List.length_map, List.length_range]

/-! ### To another device (R345, R364) -/

theorem moveRemote_eq (s : State) (r : Req) (i : Nat) : s.moveRemote r i =
    .wait ((s.setEntry i { s.entry i with moving := true }).sendSteward r.hdr.part.val 0xF0 (some r.id) (moveTag r.id 0) r.p
      (moveArgs (s.entry i) r.p).toBytes) (.transfer i r.p 0 (moveTag r.id 0) 0 0) := rfl

theorem entry_sendSteward (s : State) (charge op : Nat) (cmd : Option Nat) (tag : BitVec 16) (move params : Bytes) (k : Nat) :
    (s.sendSteward charge op cmd tag move params).entry k = s.entry k := rfl

/-! ### MOVE_STREAM (R364) -/

theorem moveStreamCommand : Claims.MoveStreamCommand := by
  intro src hdr b s taken n p i e here inPlace r out
  have ends {t st res} (body : moveStreamBody n r = .done t st res) : Completes 0x33 src hdr t st res out :=
    completes_of_taken (body := moveStreamBody) rfl rfl rfl taken body
  obtain ⟨mem, entry, part, foreign, -⟩ := ledger_accepted s src
  obtain ⟨net, admits, -⟩ := moves_accepted s src
  have same : n.entry i = e := entry i
  have hereIff : destDev b = n.net.id ↔ here := by rw [show n.net = s.net from net]
  have placeIff : n.inPlace hdr b = true ↔ inPlace := (inPlace_iff n hdr b).trans (and_congr_left' hereIff)
  rw [← foreign, ← part p, ← part (destPart b).val, ← admits, ← net, ← same]
  refine ⟨fun away lacks => ends (moveStreamBody_of_form (Bool.eq_false_iff.2 (mt placeIff.1 away)) lacks), fun complete => ?_⟩
  have form (away : n.inPlace hdr b = false) : newChain b = true ∧ newState b = true :=
    complete (mt placeIff.2 (Bool.eq_false_iff.1 away))
  have refused {st} (checks : n.moveChecks r i = some st) : Completes 0x33 src hdr n st [] out :=
    ends (moveStreamBody_of_refused (r := r) form checks)
  refine ⟨fun others => refused (moveChecks_of_foreign others), fun own =>
    ⟨fun active => refused (moveChecks_of_active own active),
      fun parked moving => refused (moveChecks_of_moving own parked moving),
      fun parked stays near absent => refused (moveChecks_of_absent own parked stays (hereIff.2 near) absent),
      fun parked stays present => ?_⟩⟩
  have present' (near : destDev b = n.net.id) : (n.part (destPart b).val).exists_ = true :=
    present (hereIff.1 near)
  refine ⟨fun misfit => refused (moveChecks_of_misfit own parked stays present' misfit), fun fits => ?_⟩
  have body : moveStreamBody n r = _ := moveStreamBody_of_passed form (moveChecks_of_ok own parked stays present' fits)
  refine ⟨fun far => ?remote, fun near other stranger => ?_, fun near other admitted => ?_, fun place => ?inPlace⟩
  case remote =>
    replace body := ((body.trans (if_neg (mt placeIff.1 fun place => far place.1))).trans
      (if_neg (mt hereIff.1 far))).trans (moveRemote_eq n r i)
    refine ⟨_, waits_of_taken (body := moveStreamBody) rfl rfl rfl taken body, mem, fun k => ?_⟩
    rw [entry_sendSteward]
    by_cases own : k = i
    · rw [if_pos own, own, entry_setEntry_self]
    · rw [if_neg own, entry_setEntry_ne _ _ _ own, entry]
  case inPlace =>
    replace body := body.trans (if_pos (placeIff.2 place))
    let t := (n.inPlaceChecks r i).1
    let P := n.part p
    refine ⟨fun st checks => ends (body.trans (moveInPlace_of_refused (Prod.ext rfl checks))),
      fun checks keeps => ends (body.trans (moveInPlace_of_chain (Prod.ext rfl checks) keeps)), fun checks moves => ?_⟩
    replace checks : n.inPlaceChecks r i = (t, none) := Prod.ext rfl checks
    obtain ⟨bytes, others⟩ :=
      writeMoved_facts (t := t) ((onlyCaches_inPlaceChecks n r i).mem.trans mem) P (n.entry i) (fieldAt b 16 5)
    refine ⟨bytes, fun (unread : (t.readMoved P (n.entry i)).2.2 ≠ []) => ?_,
      fun (read : (t.readMoved P (n.entry i)).2.2 = []) => ?_, fun (read : (t.readMoved P (n.entry i)).2.2 = []) => ?_⟩
    · exact ends (body.trans (moveInPlace_of_unread checks moves unread))
    all_goals have copied := body.trans (moveInPlace_of_read checks moves read)
    · exact fun (refused : (t.writeMoved P (n.entry i) (fieldAt b 16 5)).2 = true) => ends (copied.trans (if_pos refused))
    · exact fun (written : (t.writeMoved P (n.entry i) (fieldAt b 16 5)).2 = false) =>
        ⟨others, ends (copied.trans (if_neg (Bool.eq_false_iff.1 written)))⟩
  all_goals replace body := (body.trans (if_neg (mt placeIff.1 other))).trans (if_pos (hereIff.2 near))
  · exact ends (body.trans (moveLocal_of_unadmitted stranger))
  · refine ⟨fun st unplaced => ends (body.trans (moveLocal_of_unplaced admitted unplaced)), fun k placed => ?_⟩
    obtain ⟨u, st, res, run, ok, failed⟩ := moveLocal_of_placed (r := r) admitted placed
    exact ⟨u, st, res, run, ends (body.trans run), ok, failed⟩

/-- Settles O43: the commands of the destination's Steward, and the three forms at the source. -/
theorem moveCommands : Obligations.MoveCommands := ⟨moveStewardCommands, moveStreamCommand⟩

end Sys2Proof.Machine
end

section
/-! PROOFS. Shares and generators in time (R253, R268, R271, R274, R276): what a reseed and a refill make of a core, what each
share takes at a window boundary, and when a starvation is marked and raised. -/

namespace Sys2Proof.Machine

/-! ### Reseeding (R253, R412) -/

/-- A core whose generator has taken in the buffer r. -/
def CoreSt.reseeded (c : CoreSt) (r : BitVec 128) : CoreSt :=
  { c with rng := Config.rngMix c.rng r, draws := 0, due := false, reseedBuf := none, overdue := false }

section
variable {g : Fin 2048} {s : State}

theorem exec_reseed_of_empty (empty : (s.core g.val).reseedBuf = none) : exec (.reseed g) s = .next s := by
  show execReseed g s = _
  simp only [execReseed, empty]

variable {r : BitVec 128} (filled : (s.core g.val).reseedBuf = some r)
include filled

theorem exec_reseed_of_not_due (early : (s.core g.val).due = false) : exec (.reseed g) s = .next s := by
  show execReseed g s = _
  simp only [execReseed, filled, when_false early]

/-- Beside the core, a reseed changes registers only: those that count it. -/
theorem exec_reseed_of_due (due : (s.core g.val).due = true) :
    ∃ R, exec (.reseed g) s = .next { s.setCore g.val ((s.core g.val).reseeded r) with regs := R } := by
  show ∃ R, execReseed g s = _
  simp only [execReseed, filled, when_true due]
  split
  all_goals exact ⟨_, rfl⟩

end

theorem exec_refill_of_refused {g : Fin 2048} {s : State} (refused : (s.core g.val).reseedBuf ≠ none ∨ s.entropyFail = true) :
    exec (.reseedBufferRefill g) s = .next s := by
  refine congrArg Host.Outcome.next (when_false ?_)
  rw [Bool.and_eq_false_iff, Option.isNone_eq_false_iff, Option.isSome_iff_ne_none, Bool.not_eq_false']
  exact refused

theorem exec_refill_of_empty {g : Fin 2048} {s : State} (empty : (s.core g.val).reseedBuf = none)
    (healthy : s.entropyFail = false) : exec (.reseedBufferRefill g) s =
      .next (s.draw.2.setCore g.val { s.core g.val with reseedBuf := some s.draw.1 }) :=
  congrArg Host.Outcome.next (when_true (by rw [empty, healthy]; rfl))

theorem generatorReseeds : Claims.GeneratorReseeds := by
  intro g s _
  refine ⟨fun r filled due => ?_, fun idle => ?_, fun empty healthy => ?_, exec_refill_of_refused⟩
  · obtain ⟨R, run⟩ := exec_reseed_of_due filled due
    exact ⟨_, run, core_setCore_self s _ _, fun k other => core_setCore_ne s _ _ _ other, rfl⟩
  · cases filled : (s.core g.val).reseedBuf with
    | none => exact exec_reseed_of_empty filled
    | some r => exact exec_reseed_of_not_due filled (idle.resolve_left (by rw [filled]; nofun))
  · exact ⟨_, exec_refill_of_empty empty healthy, core_setCore_self _ _ _, fun k other => core_setCore_ne _ _ _ _ other, rfl⟩

/-! ### Window boundaries (R268, R271, R274) -/

/-- What share j of core g adds to the sum of the weights that count. -/
def State.countedWeight (s : State) (g j : Nat) : Nat :=
  if (s.share g j).live = true ∧ (s.share g j).stopped = false ∧ (s.share g j).faulted = false then
    (s.setting (s.share g j)).weight
  else 0

/-- The sum of the weights that count on core g. -/
def State.weightSum (s : State) (g : Nat) : Nat :=
  s.countedWeight g 0 + s.countedWeight g 1 + s.countedWeight g 2 + s.countedWeight g 3

/-- Share j of core g in the window that begins, the weights that count making W. -/
def State.renewedShare (s : State) (g W j : Nat) : ShareSt :=
  if (s.share g j).live then (s.share g j).boundary (s.setting (s.share g j)) W else s.share g j

/-- Share j of core g enters the window. -/
def State.renew (s : State) (g W j : Nat) : State :=
  if (s.share g j).live then s.modShare g j fun h => h.boundary (s.setting h) W else s

theorem boundary_eq_each (s : State) (g : Nat) :
    s.boundary g = s.each (List.range 4) fun t j => t.renew g (s.weightSum g) j := by
  have counts (j : Nat) : (if (s.share g j).live && !(s.share g j).stopped && !(s.share g j).faulted then
      (s.setting (s.share g j)).weight else 0) = s.countedWeight g j :=
    if_congr (by simp only [Bool.and_eq_true, Bool.not_eq_true', and_assoc]) rfl rfl
  have sum : ((List.range 4).map (s.countedWeight g)).foldl (· + ·) 0 = s.weightSum g := by
    simp only [List.range, List.range.loop, List.map, List.foldl, Nat.zero_add, State.weightSum]
  simp only [State.boundary, counts, ← sum]
  rfl

/-- From s to t the shares of core g that l names entered the window; no other share, core or table changed. -/
structure Renewed (g W : Nat) (l : List Nat) (s t : State) : Prop where
  only : OnlyCores s t
  others : ∀ k, k ≠ g → t.core k = s.core k
  renewed : ∀ j ∈ l, t.share g j = s.renewedShare g W j
  stays : ∀ j, j ∉ l → t.share g j = s.share g j

theorem OnlyCores.setting {s t : State} (only : OnlyCores s t) (h : ShareSt) : t.setting h = s.setting h := by
  rw [← only]
  rfl

theorem renewed_renew (s : State) (g W j : Nat) : Renewed g W [j] s (s.renew g W j) := by
  unfold State.renew
  split
  case isTrue live =>
    refine ⟨onlyCores_modShare s g j _, fun k other => core_setCore_ne s _ _ _ other, fun i named => ?_, fun i out =>
      share_setShare_ne s _ _ _ _ _ fun same => out (List.mem_singleton.2 same.2)⟩
    obtain rfl := List.mem_singleton.1 named
    rw [modShare_eq, share_setShare_self, State.renewedShare, if_pos live]
  case isFalse gone =>
    refine ⟨rfl, fun _ _ => rfl, fun i named => ?_, fun _ _ => rfl⟩
    obtain rfl := List.mem_singleton.1 named
    rw [State.renewedShare, if_neg gone]

theorem renewed_each (g W : Nat) (l : List Nat) (once : l.Nodup) (s : State) :
    Renewed g W l s (s.each l fun t j => t.renew g W j) := by
  induction l generalizing s with
  | nil => exact ⟨rfl, fun _ _ => rfl, nofun, fun _ _ => rfl⟩
  | cons d l ih =>
    obtain ⟨first, rest⟩ := List.nodup_cons.1 once
    have head := renewed_renew s g W d
    have tail := ih rest (s.renew g W d)
    refine ⟨head.only.trans tail.only, fun k other => (tail.others k other).trans (head.others k other),
      List.forall_mem_cons.2 ⟨?_, fun j mem => ?_⟩, fun j out => ?_⟩
    · exact (tail.stays d first).trans (head.renewed d (List.mem_singleton_self d))
    · have untouched := head.stays j fun same => first (List.mem_singleton.1 same ▸ mem)
      refine (tail.renewed j mem).trans ?_
      rw [State.renewedShare, State.renewedShare, untouched, head.only.setting]
    · obtain ⟨ne, out⟩ := not_or.1 (mt List.mem_cons.2 out)
      exact (tail.stays j out).trans (head.stays j (mt List.mem_singleton.1 ne))

theorem renewed_boundary (s : State) (g : Nat) : Renewed g (s.weightSum g) (List.range 4) s (s.boundary g) := by
  rw [boundary_eq_each]
  exact renewed_each g _ _ List.nodup_range s

theorem setting_of_ctx {s : State} {h : ShareSt} {c : Nat} {x : Ctx} (holds : h.ctx = some c) (ctx : s.ctx c = some x) :
    s.setting h = { weight := x.weight, borrow := if x.weight = 0 then 0 else x.borrow, starve := x.starve } := by
  rw [State.setting, holds, Option.bind_some, ctx]

/-- The quota of a share of weight w, the weights that count making W (R268). -/
def ShareSt.quotaOf (h : ShareSt) (w W : Nat) : Nat :=
  if h.stopped = true ∨ h.faulted = true ∨ W = 0 then 0 else 16384 * w / W

theorem boundary_of_background (h : ShareSt) {x : Setting} (W : Nat) (background : x.weight = 0) :
    h.boundary x W = { h with weight := x.weight, borrow := x.borrow, starve := x.starve, cfgWeight := x.weight,
                              cfgBorrow := x.borrow, quota := 0, debt := 0, borrowed := 0 } :=
  if_pos background

theorem boundary_of_weighted (h : ShareSt) {x : Setting} (W : Nat) (weighted : x.weight ≠ 0) :
    let q := h.quotaOf x.weight W
    let r := min h.debt (q / 2)
    h.boundary x W = { h with weight := x.weight, borrow := x.borrow, starve := x.starve, cfgWeight := x.weight,
                              cfgBorrow := x.borrow, quota := q, debt := h.debt - r, borrowed := 0,
                              deficit := min (max h.deficit 0) (q : Int) + q - r } := by
  have quota : (if h.stopped || h.faulted || W == 0 then 0 else 16384 * x.weight / W) = h.quotaOf x.weight W :=
    if_congr (by simp only [Bool.or_eq_true, beq_iff_eq, or_assoc]) rfl rfl
  simp only [ShareSt.boundary, if_neg weighted, quota]

theorem windowBoundaries : Claims.WindowBoundaries := by
  intro g s
  refine ⟨fun stopped => congrArg Host.Outcome.next (when_false ?_), fun clocked powered => ?_⟩
  · rw [Bool.and_eq_false_iff, Bool.not_eq_false', beq_eq_false_iff_ne]
    exact stopped
  · have entered := renewed_boundary s g.val
    refine ⟨s.boundary g.val, congrArg Host.Outcome.next (when_true (by rw [clocked, powered]; rfl)), ?_, entered.others,
      fun j lt gone => ?_, fun j c x lt live holds ctx => ?_⟩
    · rw [← entered.only]
    · rw [entered.renewed j (List.mem_range.2 lt), State.renewedShare, if_neg (Bool.eq_false_iff.1 gone)]
    · have own : (s.boundary g.val).share g.val j = _ := entered.renewed j (List.mem_range.2 lt)
      rw [State.renewedShare, if_pos live, setting_of_ctx holds ctx] at own
      intro h u w q r
      by_cases background : x.weight = 0
      · have renewed : u = _ := own.trans (boundary_of_background h _ background)
        rw [renewed]
        exact ⟨rfl, rfl, rfl, rfl, rfl, rfl, rfl, rfl, rfl, fun _ => ⟨rfl, rfl, rfl⟩, fun weighted => absurd background weighted⟩
      · have renewed : u = _ := own.trans (boundary_of_weighted h _ background)
        rw [renewed]
        exact ⟨rfl, rfl, rfl, rfl, rfl, rfl, rfl, rfl, rfl, fun none_ => absurd none_ background, fun _ => ⟨rfl, rfl, rfl⟩⟩

/-! ### Starvation (R276) -/

/-- Share j of core g is not to be marked: it is no background share, is marked already, has nothing to dispatch, or has not
starved so long. -/
def State.Spared (s : State) (g j : Nat) : Prop :=
  (s.share g j).weight ≠ 0 ∨ (s.share g j).starving ∨ !s.dispatchable g j ∨ !s.starvedLong g j

/-- The last STARVED of the context lies less than one limit of ms milliseconds back. -/
def State.RecentlyStarved (s : State) (x : Ctx) (ms : Nat) : Prop :=
  ∃ t, x.lastStarved = some t ∧ (s.tb.count - t).toNat < s.starvePeriods ms

/-- The share is marked as starving. -/
def State.markStarving (s : State) (g j : Nat) : State := s.modShare g j fun h => { h with starving := true }

/-- A starvation of context c on core g is counted and raised. -/
def State.reportStarved (s : State) (c g : Nat) (x : Ctx) : State :=
  ((s.setCtx c (some { x with lastStarved := some s.tb.count, starvedEvents := satAdd32 x.starvedEvents 1 })).bump
    (cluBase (g / 64) + 0xD00) 0 32 1).raiseEvent evStarved (some x.part) stOk c g

section
variable {s : State} {g j : Nat}

theorem starvedLong_iff : s.starvedLong g j = true ↔ ∃ t, Tbl.get none (s.core g).starveFrom j = some t ∧
    s.starvePeriods (s.share g j).starve ≤ (s.tb.count - t).toNat := by
  unfold State.starvedLong
  split
  case h_1 never => simp [never]
  case h_2 t since => simp [since]

theorem spared_iff : s.Spared g j ↔ (s.share g j).weight ≠ 0 ∨ (s.share g j).starving = true ∨ s.dispatchable g j = false ∨
    ¬ ∃ t, Tbl.get none (s.core g).starveFrom j = some t ∧
      s.starvePeriods (s.share g j).starve ≤ (s.tb.count - t).toNat := by
  rw [State.Spared, Bool.not_eq_true', Bool.not_eq_true', ← Bool.not_eq_true (s.starvedLong g j), starvedLong_iff]

variable {c : Nat} {x : Ctx} (holds : (s.share g j).ctx = some c) (ctx : s.ctx c = some x)
include holds ctx

theorem starve_of_spared (spared : s.Spared g j) : s.starve g j = s := by
  simp only [State.starve, holds, ctx]
  exact if_pos spared

variable (starves : ¬ s.Spared g j)
include starves

theorem starve_of_recent (recent : s.RecentlyStarved x (s.share g j).starve) : s.starve g j = s.markStarving g j := by
  obtain ⟨t, last, near⟩ := recent
  simp only [State.starve, holds, ctx, last]
  exact (if_neg starves).trans (if_pos (decide_eq_true near))

theorem starve_of_not_recent (due : ¬ s.RecentlyStarved x (s.share g j).starve) :
    s.starve g j = (s.markStarving g j).reportStarved c g x := by
  simp only [State.starve, holds, ctx]
  refine (if_neg starves).trans ((if_neg ?_).trans ?_)
  · split
    case h_1 t last => exact fun near => due ⟨t, last, of_decide_eq_true near⟩
    case h_2 => exact Bool.false_ne_true
  · exact congrArg (fun t : State => (t.bump _ 0 32 1).raiseEvent _ _ _ _ _) (modCtx_of_some (s := s.markStarving g j) ctx _)

end

theorem starvation : Claims.Starvation := by
  intro site c x s h g holds ctx out long
  refine ⟨fun spared => congrArg Host.Outcome.next (starve_of_spared holds ctx (spared_iff.2 spared)),
    fun background unmarked waits starved => ?_⟩
  have starves : ¬ s.Spared g site.share.val := fun spared => by
    obtain weighted | marked | idle | short := spared_iff.1 spared
    · exact weighted background
    · exact Bool.eq_false_iff.1 unmarked marked
    · exact Bool.eq_false_iff.1 idle waits
    · exact short starved
  exact ⟨fun recent => congrArg Host.Outcome.next (starve_of_recent holds ctx starves recent),
    fun due => congrArg Host.Outcome.next (starve_of_not_recent holds ctx starves due)⟩

/-- Settles O51: a generator's reseed and refill, the window boundary share by share, and the starvation of one share. -/
theorem sharesInTime : Obligations.SharesInTime := ⟨generatorReseeds, windowBoundaries, starvation⟩

end Sys2Proof.Machine
end

section
/-! PROOFS. What a step does to the queue and to the invariant (chapter 18, log entry 1): the commands that drive or clear
the sample-time counter keep both as every other command does, and from this the statements StepRunsFrontCommand,
StepConsumesFrontOnly and StepKeepsCanonical. -/

namespace Sys2Proof.Machine

/-- From s to t the queue of waiting commands stays and the invariant is kept, whatever becomes of the counter. -/
structure Steady (s t : State) : Prop where
  pending : t.pending = s.pending
  inv : s.Inv → t.Inv

theorem Kept.steady {s t : State} (h : Kept s t) : Steady s t := ⟨h.pending, h.inv⟩

theorem Steady.refl (s : State) : Steady s s := ⟨rfl, id⟩

theorem Steady.kept {s t u : State} (a : Steady s t) (b : Kept t u) : Steady s u :=
  ⟨b.pending.trans a.pending, fun h => b.inv (a.inv h)⟩

section
variable {s t : State}

/-- The invariant does not concern the timebase. -/
theorem Steady.modTb (h : Steady s t) (f : Tb → Tb) : Steady s (t.modTb f) :=
  ⟨h.pending, fun w => let v := h.inv w
    ⟨v.mem, v.cores, v.clusters, v.chans, v.sync, v.entries, v.ropes, v.parts, v.images, v.ctxs, v.outs, v.ains, v.achans,
      v.groups, v.shares⟩⟩

theorem Steady.ite {c : Prop} [Decidable c] {a b : State} (ha : Steady s a) (hb : Steady s b) :
    Steady s (if c then a else b) := iteInduction (fun _ => ha) fun _ => hb

theorem steady_when {c : Bool} {f : State → State} (h : Steady s (f s)) : Steady s (s.when c f) := .ite h (.refl s)

end

/-! ### The timebase's events -/

theorem steady_measureEdge (s : State) (t : Nat) : Steady s (s.measureEdge t) := by
  have noted : Steady s (s.modTb fun x => x.noteEdge t) := (Steady.refl s).modTb _
  by_cases h : ∀ sum, acquired (s.tb.noteEdge t).periods = some sum → meanRate sum 256 = none
  · rwa [measureEdge_of_measuring h]
  · push Not at h
    obtain ⟨sum, periods, mean⟩ := h
    obtain ⟨⟨rate, ratio⟩, mean⟩ := Option.ne_none_iff_exists'.1 mean
    rw [measureEdge_of_acquired periods mean]
    exact ((noted.kept (kept_leaveHoldover (.refl _))).modTb _).kept (kept_acceptRate (.refl _))

theorem steady_countEdge (s : State) (t : Nat) : Steady s (s.countEdge t) := by
  by_cases h : s.tb.accepted = none ∧ s.tb.inWindow t = true
  · obtain ⟨first, inside⟩ := h
    rw [countEdge_of_accepted first inside]
    exact (Steady.refl s).modTb _
  · rw [not_and_or, Bool.not_eq_true] at h
    have rejected : Steady s s.rejectEdge :=
      ((Steady.refl s).modTb _).kept (kept_setBits (kept_bump (.refl _)))
    rw [countEdge_of_rejected h]
    exact .ite rejected (rejected.modTb _)

/-! ### Start-up, resets and rails -/

theorem steady_stageDone_zero (s : State) (r : StageEnd) : Steady s (s.stageDone 0 r) := by
  have reported : Steady s (s.stageReported 0 r) := (kept_stageReported (.refl s)).steady
  have begun : Steady s ((s.stageReported 0 r).beginStage 1 r.endUs) := reported.kept (kept_beginStage (.refl _))
  rw [stageDone_eq]
  exact .ite reported (begun.modTb fun t => { t with running := true, count := 0 })

theorem steady_endStage (s : State) (n : Nat) (r : StageEnd) : Steady s (s.endStage n r) := by
  by_cases zero : n = 0
  · subst zero
    exact endStage_cases (fun _ _ _ => (kept_endFailed (.refl s)).steady)
      (kept_stageFails (kept_stageWork (.refl s))).steady (steady_stageDone_zero s r)
  · exact (kept_endStage zero).steady

/-- Every table is empty once VDD_NET is lost, which is canonical. -/
theorem steady_netLost (s : State) : Steady s s.netLost :=
  ⟨rfl, fun _ => ⟨rfl, rfl, rfl, rfl, rfl, rfl, rfl, rfl, rfl, rfl, rfl, rfl, rfl, rfl, fun _ => rfl⟩⟩

theorem pending_oweRx (s : State) : ((s.each s.rx fun s c => match c.src with
      | .dev d => s.owe d false 0 (32 + c.bytes.length)
      | .spur => s.owe s.net.id true 0 (32 + c.bytes.length)
      | .i3c => s)).pending = s.pending := by
  refine (kept_each (.refl s) fun t c h => ?_).pending
  split
  · exact kept_owe h
  · exact kept_owe h
  · exact h

/-- A warm reset empties every table, which is canonical. -/
theorem steady_warmKept (s : State) (cause : Nat) : Steady s (s.warmKept cause) := by
  unfold State.warmKept
  split
  · exact steady_netLost s
  · exact ⟨pending_oweRx s, fun _ => ⟨rfl, rfl, rfl, rfl, rfl, rfl, rfl, rfl, rfl, rfl, rfl, rfl, rfl, rfl, fun _ => rfl⟩⟩

theorem steady_warmReset (s : State) (cause : Nat) : Steady s (s.warmReset cause) := by
  have hot : Steady s { s.warmKept cause with hotStart := s.hotSensor } :=
    (steady_warmKept s cause).kept (Kept.mk' (.refl _) rfl)
  unfold State.warmReset
  exact .ite (hot.kept (kept_stopAll (Kept.mk' (.refl _) rfl))) hot

theorem steady_loseRail (s : State) (rail : Fin 7) : Steady s (s.loseRail rail) := (Kept.mk' (.refl s) rfl).steady

/-! ### Every command -/

/-- What a command that answers a state leaves of the queue and the invariant. -/
def SteadyR (s : State) : Outcome → Prop
  | .next t => Steady s t
  | .fault _ => True
  | .refused _ => True

theorem SteadyR.next {s t : State} (h : Steady s t) : SteadyR s (.next t) := h

theorem KeptR.steadyR {s : State} {x : Outcome} (h : KeptR s x) : SteadyR s x := by
  cases x with
  | next t => exact Kept.steady h
  | fault r => trivial
  | refused r => trivial

/-- No command touches the queue, and each keeps the invariant. -/
theorem steady_exec (c : Instr) (s : State) : SteadyR s (exec c s) := by
  cases moves : Instr.movesCount c with
  | false => exact (kept_exec c moves (.refl s)).steadyR
  | true =>
    cases c with
    | referenceEdge src at_ =>
      rw [exec_referenceEdge]
      exact SteadyR.next (steady_when
        (Steady.kept (.ite (steady_countEdge s at_) (steady_measureEdge s at_)) (kept_mclkCheck (.refl _))))
    | predictedInstant =>
      rw [exec_predictedInstant]
      exact SteadyR.next (steady_when (((Steady.refl s).modTb _).kept (kept_mclkCheck (.refl _))))
    | windowClose =>
      have ended : Steady s (s.modTb Tb.endWindow) := (Steady.refl s).modTb _
      rw [exec_windowClose]
      exact SteadyR.next (steady_when (.ite ended (ended.kept (kept_enterHoldover (.refl _)))))
    | internalPeriod =>
      rw [exec_internalPeriod]
      exact SteadyR.next (steady_when (((Steady.refl s).modTb _).kept (kept_mclkCheck (.refl _))))
    | stageComplete n r =>
      rw [exec_stageComplete]
      exact SteadyR.next (steady_when (steady_endStage s n.val r))
    | resetNLow => exact SteadyR.next (steady_warmReset s 1)
    | pwrOkLow => exact SteadyR.next (steady_warmReset s 1)
    | wholeDeviceReset =>
      exact SteadyR.next (steady_when ((steady_warmReset s 2).kept (kept_powerOn (.refl _))))
    | rstact action =>
      refine SteadyR.next (steady_when ?_)
      refine .ite (kept_ccc (.refl s)).steady (.ite (kept_i3cReset (.refl s)).steady (.ite ?_ ?_))
      · exact (steady_warmReset s 3).kept (kept_powerOn (.refl _))
      · exact (kept_modI3c (.refl s)).steady
    | vddNetLoss => exact SteadyR.next (steady_netLost s)
    | railExcursion rail =>
      have lost : Steady s (s.loseRail rail) := steady_loseRail s rail
      have netLost := steady_netLost (s.loseRail rail)
      rw [exec_railExcursion]
      refine SteadyR.next (.ite lost (.ite ?_ (.ite (lost.kept (kept_modNet (.refl _))) lost)))
      exact ⟨netLost.pending.trans lost.pending, fun w => netLost.inv (lost.inv w)⟩
    | _ => cases moves

theorem steady_of_exec {c : Instr} {s t : State} (e : exec c s = .next t) : Steady s t := by
  have steady := steady_exec c s
  rwa [e] at steady

/-! ### A step -/

theorem step_of_empty {s : State} (empty : s.pending = []) : step s = .next s := by
  rw [step, empty]

theorem step_of_front {s : State} {c : Instr} {rest : List Instr} (front : s.pending = c :: rest) :
    step s = exec c { s with pending := rest } := by
  rw [step, front]

/-- Settles O1: a step evaluated on a queue with a front, and on an empty one. -/
theorem stepRunsFrontCommand : Obligations.StepRunsFrontCommand := ⟨fun _ _ => rfl, fun _ => step_of_empty⟩

/-- Settles O2: no command touches the queue (`steady_exec`), and the step removes the front before it runs it. -/
theorem stepConsumesFrontOnly : Obligations.StepConsumesFrontOnly := by
  refine ⟨fun c s t e => (steady_of_exec e).pending, fun c rest s t front e => ?_⟩
  rw [step_of_front front] at e
  exact (steady_of_exec e).pending

/-- Settles O5: every command keeps the invariant (`steady_exec`), which does not concern the queue. -/
theorem stepKeepsCanonical : Obligations.StepKeepsCanonical := by
  intro s t inv e
  cases front : s.pending with
  | nil =>
    rw [step_of_empty front] at e
    cases e
    exact inv
  | cons c rest =>
    rw [step_of_front front] at e
    exact (steady_of_exec e).inv ⟨inv.mem, inv.cores, inv.clusters, inv.chans, inv.sync, inv.entries, inv.ropes, inv.parts,
      inv.images, inv.ctxs, inv.outs, inv.ains, inv.achans, inv.groups, inv.shares⟩

end Sys2Proof.Machine
end

section
/-! PROOFS. Start-up, whole-device resets and rails (R376 to R378, R392, R422, R427): what a stage that ends leaves, what
a reset keeps of the state and of the network domain, and from these rules the statement StartUpAndResets. -/

namespace Sys2Proof.Machine

/-! ### What the work of a stage leaves alone -/

/-- From s to t the reports of the stages and the halt of the device stay. -/
structure SameStages (s t : State) : Prop where
  stages : t.stages = s.stages
  halted : t.halted = s.halted

theorem SameStages.refl (s : State) : SameStages s s := ⟨rfl, rfl⟩

theorem SameStages.trans {s t u : State} (a : SameStages s t) (b : SameStages t u) : SameStages s u :=
  ⟨b.stages.trans a.stages, b.halted.trans a.halted⟩

theorem sameStages_each {α : Type} {f : State → α → State} (step : ∀ t x, SameStages t (f t x)) (l : List α) (s : State) :
    SameStages s (s.each l f) :=
  each_of_step (P := SameStages s) (fun t x h => h.trans (step t x)) l (.refl s)

theorem sameStages_ite {c : Prop} [Decidable c] {s a b : State} (yes : SameStages s a) (no : SameStages s b) :
    SameStages s (if c then a else b) := iteInduction (fun _ => yes) fun _ => no

theorem sameStages_leaveRx (s : State) (o : OutPkt) : SameStages s (s.leaveRx o) := by
  unfold State.leaveRx
  split <;> exact ⟨rfl, rfl⟩

theorem sameStages_closeSpur (s : State) : SameStages s s.closeSpur :=
  (sameStages_each sameStages_leaveRx (s.net.out.filter (·.spur)) s).trans ⟨rfl, rfl⟩

theorem sameStages_startDiscovery (s : State) : SameStages s s.startDiscovery := sameStages_ite (.refl s) ⟨rfl, rfl⟩

theorem sameStages_hello (s : State) : SameStages s s.hello := sameStages_ite ⟨rfl, rfl⟩ ⟨rfl, rfl⟩

theorem sameStages_releaseHeld (s : State) : SameStages s s.releaseHeld := sameStages_ite ⟨rfl, rfl⟩ (.refl s)

/-- The port's own fields, its event bit, and for a transmit port its sequence spaces, as it comes UP. -/
theorem sameStages_portUp (s : State) (p : Nat) : SameStages s (s.portUp p) := by
  unfold State.portUp
  refine sameStages_ite (.refl s) ?_
  dsimp only
  have closed : SameStages s (if p = 5 ∧ !s.spurOpen then s.closeSpur else s) :=
    sameStages_ite (sameStages_closeSpur s) (.refl s)
  generalize (if p = 5 ∧ !s.spurOpen then s.closeSpur else s) = t at closed ⊢
  have up : SameStages s ((t.modPort p fun x => { x with state := 2, marked := false, fe := none, fs := none }).setBits
      (lnkReg p 0x2C) 2) := closed.trans ⟨rfl, rfl⟩
  generalize (t.modPort p fun x => { x with state := 2, marked := false, fe := none, fs := none }).setBits
      (lnkReg p 0x2C) 2 = u at up ⊢
  have reopened : SameStages s (if 3 ≤ p then u.modNet fun n => n.reopen p else u) :=
    sameStages_ite (up.trans ⟨rfl, rfl⟩) up
  generalize (if 3 ≤ p then u.modNet fun n => n.reopen p else u) = v at reopened ⊢
  exact sameStages_ite (reopened.trans (sameStages_startDiscovery v))
    (sameStages_ite (reopened.trans ((sameStages_hello v).trans (sameStages_releaseHeld v.hello))) reopened)

theorem sameStages_markFailed (s : State) (u : UnitId) : SameStages s (s.markFailed u) := by
  cases u <;> exact ⟨rfl, rfl⟩

theorem sameStages_resetRates (s : State) : SameStages s s.resetRates := by
  unfold State.resetRates
  refine sameStages_each (fun t p => ?_) _ s
  exact sameStages_ite (.refl t) ⟨rfl, rfl⟩

theorem sameStages_readFuses (s : State) : SameStages s s.readFuses := by
  unfold State.readFuses
  exact ⟨rfl, rfl⟩

theorem sameStages_seedCore (s : State) (g : Nat) : SameStages s (s.seedCore g) := ⟨rfl, rfl⟩

/-- A port waits without a peer. -/
theorem sameStages_portAlone (s : State) (p : Nat) : SameStages s (s.modPort p fun x => { x with state := 3 }) := ⟨rfl, rfl⟩

theorem sameStages_stageWork (s : State) (n : Nat) (r : StageEnd) : SameStages s (s.stageWork n r) := by
  unfold State.stageWork
  split
  · exact SameStages.trans (t := { s with phyMode := r.phyMode, i3cSa := r.i3cSa }) ⟨rfl, rfl⟩ (sameStages_resetRates _)
  · exact sameStages_readFuses s
  · exact ⟨rfl, rfl⟩
  · refine SameStages.trans (t := { s with mem := [], badLines := [] }) ⟨rfl, rfl⟩ (sameStages_each (fun t c => ?_) _ _)
    exact ⟨rfl, rfl⟩
  · exact (sameStages_each sameStages_markFailed _ s).trans (sameStages_each sameStages_seedCore _ _)
  · exact ⟨rfl, rfl⟩
  · refine sameStages_each (fun t p => ?_) _ s
    exact sameStages_ite (sameStages_portUp t p) (sameStages_ite (.refl t) (sameStages_portAlone t p))
  · exact SameStages.trans (t := { s with ready := !s.halted }.modNet Net.reopenAll) ⟨rfl, rfl⟩ (sameStages_startDiscovery _)

/-! ### The report of a stage, and the stages that follow -/

theorem stage_setStage_self (s : State) (n : Nat) (x : Stage) : (s.setStage n x).stage n = x := Tbl.get_set_self _ _ _ _

theorem stage_setStage_ne (s : State) {n k : Nat} (x : Stage) (ne : k ≠ n) : (s.setStage n x).stage k = s.stage k :=
  Tbl.get_set_ne _ _ _ ne

theorem stage_beginStage_ne (s : State) {n k : Nat} (us : Word) (ne : k ≠ n) : (s.beginStage n us).stage k = s.stage k :=
  stage_setStage_ne s _ ne

/-- Writing a report sets SYS.EVENTS.STAGE, and from stage 3 on raises IBI code 1; nothing else changes. -/
theorem stageWritten_facts (s : State) (n : Nat) : ((s.stageWritten n).reg 0x20).getLsbD 7 = true ∧
    (3 ≤ n → (s.stageWritten n).i3c.ibi.getLsbD 0 = true) ∧ (s.stageWritten n).i3c.live = s.i3c.live ∧
    { s.stageWritten n with regs := s.regs, i3c := s.i3c } = s := by
  have bit : ((s.setBits 0x20 0x80).reg 0x20).getLsbD 7 = true := getLsbD_reg_setBits_self s (by decide) (by decide)
  unfold State.stageWritten
  dsimp only
  split
  next late =>
    refine ⟨bit, fun _ => ?_, rfl, rfl⟩
    simp [State.raiseIbi, State.modI3c]
  next early => exact ⟨bit, fun late => absurd late early, rfl, rfl⟩

/-- The report of stage n, done, in the state that its work has left. -/
def State.doneReport (s w : State) (n : Nat) (r : StageEnd) : Stage :=
  { w.stage n with
    result := 2, endUs := r.endUs, time := if n = 0 then 0 else w.tb.count,
    marked := if n = 4 then (s.stageMarks r).length else 0, detail := w.stageDetail n }

theorem stageReported_eq (s : State) (n : Nat) (r : StageEnd) : s.stageReported n r =
    ((s.stageWork n r).setStage n (s.doneReport (s.stageWork n r) n r)).stageWritten n := rfl

/-- A report that is written is the one set. -/
theorem stage_stageWritten (s : State) (n : Nat) (x : Stage) : ((s.setStage n x).stageWritten n).stage n = x := by
  obtain ⟨_, _, _, frame⟩ := stageWritten_facts (s.setStage n x) n
  have kept := congrArg State.stages frame
  rw [State.stage, kept]
  exact stage_setStage_self s n x

/-- A stage that is done, its report written. -/
theorem stageReported_facts (s : State) (n : Nat) (r : StageEnd) :
    ((s.stageReported n r).stage n).result = 2 ∧ ((s.stageReported n r).stage n).endUs = r.endUs ∧
    ((s.stageReported n r).reg 0x20).getLsbD 7 = true ∧ (s.stageReported n r).halted = s.halted ∧
    (3 ≤ n → (s.stageReported n r).i3c.ibi.getLsbD 0 = true) ∧
    (s.stageReported n r).i3c.live = (s.stageWork n r).i3c.live ∧
    (s.stageReported n r).phyMode = (s.stageWork n r).phyMode ∧ (s.stageReported n r).i3cSa = (s.stageWork n r).i3cSa ∧
    (s.stageReported n r).mem = (s.stageWork n r).mem ∧ (s.stageReported n r).badLines = (s.stageWork n r).badLines ∧
    (s.stageReported n r).ready = (s.stageWork n r).ready := by
  have work := (sameStages_stageWork s n r).halted
  rw [stageReported_eq]
  generalize s.stageWork n r = w at work ⊢
  obtain ⟨bit, ibi, live, frame⟩ := stageWritten_facts (w.setStage n (s.doneReport w n r)) n
  have halted := congrArg State.halted frame
  have phyMode := congrArg State.phyMode frame
  have i3cSa := congrArg State.i3cSa frame
  have mem := congrArg State.mem frame
  have badLines := congrArg State.badLines frame
  have ready := congrArg State.ready frame
  rw [stage_stageWritten]
  exact ⟨rfl, rfl, bit, halted.trans work, ibi, live, phyMode, i3cSa, mem, badLines, ready⟩

/-- From s to t later stages begin: the report of stage n stays, and so does what the work of a stage leaves. -/
structure NextBegun (n : Nat) (s t : State) : Prop where
  stage : t.stage n = s.stage n
  regs : t.regs = s.regs
  i3c : t.i3c = s.i3c
  halted : t.halted = s.halted
  ready : t.ready = s.ready
  phyMode : t.phyMode = s.phyMode
  i3cSa : t.i3cSa = s.i3cSa
  mem : t.mem = s.mem
  badLines : t.badLines = s.badLines

theorem NextBegun.refl (n : Nat) (s : State) : NextBegun n s s := ⟨rfl, rfl, rfl, rfl, rfl, rfl, rfl, rfl, rfl⟩

theorem NextBegun.trans {n : Nat} {s t u : State} (a : NextBegun n s t) (b : NextBegun n t u) : NextBegun n s u where
  stage := b.stage.trans a.stage
  regs := b.regs.trans a.regs
  i3c := b.i3c.trans a.i3c
  halted := b.halted.trans a.halted
  ready := b.ready.trans a.ready
  phyMode := b.phyMode.trans a.phyMode
  i3cSa := b.i3cSa.trans a.i3cSa
  mem := b.mem.trans a.mem
  badLines := b.badLines.trans a.badLines

theorem nextBegun_beginStage {n k : Nat} (s : State) (us : Word) (ne : n ≠ k) : NextBegun n s (s.beginStage k us) :=
  ⟨stage_beginStage_ne s us ne, rfl, rfl, rfl, rfl, rfl, rfl, rfl, rfl⟩

theorem nextBegun_modPort (n : Nat) (s : State) (p : Nat) (f : Port → Port) : NextBegun n s (s.modPort p f) :=
  ⟨rfl, rfl, rfl, rfl, rfl, rfl, rfl, rfl, rfl⟩

theorem nextBegun_ite {c : Prop} [Decidable c] {n : Nat} {s a b : State} (yes : NextBegun n s a) (no : NextBegun n s b) :
    NextBegun n s (if c then a else b) := iteInduction (fun _ => yes) fun _ => no

theorem nextBegun_nextStages (n : Nat) (s : State) (us : Word) : NextBegun n s (s.nextStages n us) := by
  unfold State.nextStages
  split
  · exact (nextBegun_beginStage s us (by decide)).trans ⟨rfl, rfl, rfl, rfl, rfl, rfl, rfl, rfl, rfl⟩
  · exact ((nextBegun_beginStage s us (by decide)).trans (nextBegun_beginStage _ us (by decide))).trans
      (nextBegun_beginStage _ us (by decide))
  · exact nextBegun_ite (nextBegun_beginStage s us (by decide)) (.refl 3 s)
  · exact nextBegun_ite (nextBegun_beginStage s us (by decide)) (.refl 4 s)
  · refine each_of_step (P := NextBegun 5 s) (fun t p h => ?_) _ (nextBegun_beginStage s us (by decide))
    exact nextBegun_ite h (h.trans (nextBegun_modPort 5 t p _))
  · exact nextBegun_beginStage s us (by decide)
  · exact .refl n s

theorem nextBegun_stageDone (s : State) (n : Nat) (r : StageEnd) : NextBegun n (s.stageReported n r) (s.stageDone n r) := by
  rw [stageDone_eq]
  exact nextBegun_ite (.refl n _) (nextBegun_nextStages n _ r.endUs)

/-! ### A stage that ends -/

theorem exec_stageComplete_of_due {n : Fin 8} {r : StageEnd} {s : State} (due : (s.stage n.val).result = 1) :
    exec (.stageComplete n r) s = .next (s.endStage n.val r) := by
  rw [exec_stageComplete, when_true (by rw [due]; rfl)]

theorem endStage_of_ok {s : State} {n : Nat} {r : StageEnd} (must : s.mustFail n = none) (ne : n ≠ 5)
    (ok : r.failed = false ∨ 6 ≤ n) : s.endStage n r = s.stageDone n r := by
  obtain ok | late := ok
  · exact endStage_of_done must ne ok
  · rw [State.endStage, must]
    dsimp only
    rw [if_neg ne, decide_eq_false (Nat.not_lt.2 late), Bool.and_false]
    rfl

theorem endStage_of_failed {s : State} {n : Nat} {r : StageEnd} (must : s.mustFail n = none) (early : n < 5)
    (failed : r.failed = true) : s.endStage n r = s.endFailed n r r.cause r.kind r.unit := by
  rw [State.endStage, must]
  dsimp only
  rw [if_neg (Nat.ne_of_lt early), failed, decide_eq_true (Nat.lt_succ_of_lt early)]
  rfl

theorem endStage_of_must {s : State} {n : Nat} {r : StageEnd} {cause kind : Byte} {unit : BitVec 16}
    (must : s.mustFail n = some (cause, kind, unit)) : s.endStage n r = s.endFailed n r cause kind unit := by
  rw [State.endStage, must]

/-- The report of stage n, failed. -/
def State.failedReport (s : State) (n : Nat) (cause kind : Byte) (unit : BitVec 16) (us : Word) (marked : Nat) : Stage :=
  { s.stage n with
    result := 3, cause := cause, kind := kind, unit := unit, endUs := us,
    time := if n = 0 then 0 else s.tb.count, marked := marked, detail := s.stageDetail n }

/-- A stage that fails halts the device, and its report says why. -/
theorem stageFails_facts (s : State) (n : Nat) (cause kind : Byte) (unit : BitVec 16) (us : Word) (marked : Nat) :
    let t := s.stageFails n cause kind unit us marked
    t.halted = true ∧ t.ready = false ∧ (t.reg 0x20).getLsbD 7 = true ∧ t.mem = s.mem ∧ (t.stage n).result = 3 ∧
    (t.stage n).cause = cause ∧ (t.stage n).kind = kind ∧ (t.stage n).unit = unit := by
  let h : State := { s with halted := true, ready := false }
  let x := s.failedReport n cause kind unit us marked
  have fails : s.stageFails n cause kind unit us marked = (h.setStage n x).stageWritten n := rfl
  obtain ⟨bit, _, _, frame⟩ := stageWritten_facts (h.setStage n x) n
  have halted := congrArg State.halted frame
  have ready := congrArg State.ready frame
  have mem := congrArg State.mem frame
  intro t
  have report : t.stage n = x := stage_stageWritten h n x
  rw [report]
  exact ⟨halted, ready, bit, mem, rfl, rfl, rfl, rfl⟩

/-- The unit that a report names: the entropy source for cause 0x0A (R252). -/
theorem endFailed_facts (s : State) (n : Nat) (r : StageEnd) (cause kind : Byte) (unit : BitVec 16) :
    let t := s.endFailed n r cause kind unit
    t.halted = true ∧ t.ready = false ∧ (t.reg 0x20).getLsbD 7 = true ∧ (t.stage n).result = 3 ∧
    (t.stage n).cause = cause ∧ (t.stage n).kind = (if cause = 0x0A then 10 else kind) ∧
    (cause ≠ 0x0A → (t.stage n).unit = unit) := by
  intro t
  obtain ⟨halted, ready, bit, _, result, why, kind_, unit_⟩ := stageFails_facts
    (s.each (if n = 4 then s.stageMarks r else []) State.markFailed) n cause
    (if cause = 0x0A then ((10 : Byte), (0 : BitVec 16)) else (kind, unit)).1
    (if cause = 0x0A then ((10 : Byte), (0 : BitVec 16)) else (kind, unit)).2 r.endUs
    (if n = 4 then s.stageMarks r else []).length
  refine ⟨halted, ready, bit, result, why, kind_.trans ?_, fun other => unit_.trans ?_⟩
  · split <;> rfl
  · rw [if_neg other]

theorem badRail_of_lowest {s : State} {k : Fin 7} (out : k ∈ s.badRails) (lowest_ : ∀ q ∈ s.badRails, k ≤ q) :
    s.badRail = some k.val := by
  have listed (r : Nat) : (s.badRails.any fun x => x.val == r) = true ↔ ∃ x ∈ s.badRails, x.val = r := by simp
  refine List.find?_eq_some_iff_append.2 ⟨(listed k.val).2 ⟨k, out, rfl⟩, List.range k.val,
    (List.range (6 - k.val)).map (k.val + 1 + ·), ?_, fun r mem => ?_⟩
  · have split7 : 7 = k.val + (1 + (6 - k.val)) := by omega
    conv_lhs => rw [split7, List.range_add, List.range_add]
    simp [Nat.add_assoc]
  · have below := List.mem_range.1 mem
    rw [Bool.not_eq_true', Bool.eq_false_iff, Ne, listed]
    rintro ⟨x, found, rfl⟩
    exact Nat.not_lt.2 (lowest_ x found) below

/-! ### The claims of stages -/

theorem stageWork_zero_facts (s : State) (r : StageEnd) : (s.stageWork 0 r).phyMode = r.phyMode ∧
    (s.stageWork 0 r).i3cSa = r.i3cSa := by
  show (State.resetRates _).phyMode = _ ∧ (State.resetRates _).i3cSa = _
  unfold State.resetRates
  refine each_of_step (P := fun t => t.phyMode = r.phyMode ∧ t.i3cSa = r.i3cSa) (fun t p h => ?_) _ ⟨rfl, rfl⟩
  split <;> exact h

theorem stageWork_three_facts (s : State) (r : StageEnd) : (s.stageWork 3 r).mem = [] ∧ (s.stageWork 3 r).badLines = [] := by
  unfold State.stageWork
  refine each_of_step (P := fun t => t.mem = [] ∧ t.badLines = []) (fun t c h => ?_) _ ⟨rfl, rfl⟩
  exact h

theorem stageWork_seven_ready (s : State) (r : StageEnd) : (s.stageWork 7 r).ready = !s.halted := by
  show (State.startDiscovery _).ready = _
  unfold State.startDiscovery
  split <;> rfl

/-- What stage n leaves as it ends done. -/
theorem stageDone_facts (s : State) (n : Nat) (r : StageEnd) :
    let t := s.stageDone n r
    (t.stage n).result = 2 ∧ (t.stage n).endUs = r.endUs ∧ (t.reg 0x20).getLsbD 7 = true ∧ t.halted = s.halted ∧
    (3 ≤ n → t.i3c.ibi.getLsbD 0 = true) ∧
    (n = 0 → t.phyMode = r.phyMode ∧ t.i3cSa = r.i3cSa ∧ (s.halted = false → t.tb.count = 0 ∧ t.tb.running = true)) ∧
    (n = 2 → t.i3c.live = true) ∧ (n = 3 → t.mem = [] ∧ t.badLines = []) ∧ (n = 7 → t.ready = !s.halted) := by
  intro t
  obtain ⟨result, endUs, bit, halted, ibi, live, phyMode, i3cSa, mem, badLines, ready⟩ := stageReported_facts s n r
  have begun : NextBegun n (s.stageReported n r) t := nextBegun_stageDone s n r
  rw [begun.stage, begun.i3c, begun.halted, begun.phyMode, begun.i3cSa, begun.mem, begun.badLines, begun.ready, State.reg,
    begun.regs]
  refine ⟨result, endUs, bit, halted, ibi, ?zero, ?two, ?three, ?seven⟩
  case zero =>
    rintro rfl
    obtain ⟨phy, sa⟩ := stageWork_zero_facts s r
    refine ⟨phyMode.trans phy, i3cSa.trans sa, fun running => ?_⟩
    obtain ⟨count, runs, _⟩ := nextStages_zero (s.stageReported 0 r) r.endUs
    rw [← stageDone_zero running] at count runs
    exact ⟨count, runs⟩
  case two =>
    rintro rfl
    exact live
  case three =>
    rintro rfl
    obtain ⟨zeroed, whole⟩ := stageWork_three_facts s r
    exact ⟨mem.trans zeroed, badLines.trans whole⟩
  case seven =>
    rintro rfl
    exact ready.trans (stageWork_seven_ready s r)

theorem startUpStages : Claims.StartUpStages := by
  refine ⟨?t0, ?done, ?fails, ?hot, ?rail, ?entropy, ?overruns, ?never⟩
  case t0 =>
    intro s idle
    exact ⟨s.powerOn, congrArg Host.Outcome.next (when_true (by rw [idle]; rfl)), rfl,
      congrArg Stage.result (stage_setStage_self _ 0 _), rfl⟩
  case done =>
    intro n r s due ne ok must
    obtain ⟨result, endUs, bit, halted, ibi, zero, two, three, seven⟩ := stageDone_facts s n.val r
    refine ⟨s.stageDone n.val r, ?_, result, endUs, bit, halted, ibi, fun h => zero (congrArg Fin.val h),
      fun h => two (congrArg Fin.val h), fun h => three (congrArg Fin.val h), fun h => seven (congrArg Fin.val h)⟩
    rw [exec_stageComplete_of_due due, endStage_of_ok must ne ok]
  case fails =>
    intro n r s due early failed must
    obtain ⟨halted, ready, bit, result, cause, _⟩ := endFailed_facts s n.val r r.cause r.kind r.unit
    refine ⟨_, ?_, halted, result, cause, bit, ready⟩
    rw [exec_stageComplete_of_due due, endStage_of_failed must early failed]
  case hot =>
    intro r s u due hot
    have must : s.mustFail 0 = some (1, 12, u) := by simp only [State.mustFail, hot]
    obtain ⟨halted, _, _, result, cause, kind, unit⟩ := endFailed_facts s 0 r 1 12 u
    refine ⟨_, ?_, halted, result, cause, kind, unit (by decide)⟩
    rw [exec_stageComplete_of_due due, ← endStage_of_must must]
    rfl
  case rail =>
    intro r s k due cool out lowest_
    have must : s.mustFail 0 = some (1, 11, BitVec.ofNat 16 k.val) := by
      simp only [State.mustFail, cool, badRail_of_lowest out lowest_]
    obtain ⟨halted, _, _, result, cause, kind, unit⟩ := endFailed_facts s 0 r 1 11 (BitVec.ofNat 16 k.val)
    refine ⟨_, ?_, halted, result, cause, kind, unit (by decide)⟩
    rw [exec_stageComplete_of_due due, ← endStage_of_must must]
    rfl
  case entropy =>
    intro r s due silent
    have must : s.mustFail 4 = some (0x0A, 10, 0) := by simp only [State.mustFail, silent, if_true]
    obtain ⟨halted, _, _, result, cause, kind, _⟩ := endFailed_facts s 4 r 0x0A 10 0
    refine ⟨_, ?_, halted, result, cause, kind⟩
    rw [exec_stageComplete_of_due due, ← endStage_of_must must]
    rfl
  case overruns =>
    intro n k u us s due early
    obtain ⟨halted, ready, _, mem, result, cause, kind, unit⟩ := stageFails_facts s n.val 0x0C k u us 0
    refine ⟨_, congrArg Host.Outcome.next (when_true ?_), halted, result, cause, kind, unit, ready, mem⟩
    rw [due, decide_eq_true early]
    rfl
  case never =>
    intro n k u us s late
    refine congrArg Host.Outcome.next (when_false ?_)
    rw [decide_eq_false (Nat.not_lt.2 late), Bool.and_false]

/-! ### Whole-device resets (R392) -/

/-- From s to t only receive buffer space and what is owed to senders change. -/
structure OnlyOwed (s t : State) : Prop where
  rest : { t with net := s.net } = s
  id : t.net.id = s.net.id
  idValid : t.net.idValid = s.net.idValid
  relay : t.net.relay = s.net.relay
  ports : t.net.ports = s.net.ports
  thru : t.net.thru = s.net.thru
  turn : t.net.turn = s.net.turn
  expect : t.net.rcv.map (·.expect) = s.net.rcv.map (·.expect)

theorem OnlyOwed.refl (s : State) : OnlyOwed s s := ⟨rfl, rfl, rfl, rfl, rfl, rfl, rfl, rfl⟩

theorem OnlyOwed.owe {s t : State} (h : OnlyOwed s t) (src : BitVec 12) (spur : Bool) (vc size : Nat) :
    OnlyOwed s (t.owe src spur vc size) where
  rest := h.rest
  id := h.id
  idValid := h.idValid
  relay := h.relay
  ports := h.ports
  thru := h.thru
  turn := h.turn
  expect := by
    rw [← h.expect]
    simp only [State.owe, State.modNet, List.map_map]
    refine List.map_congr_left fun x _ => ?_
    rw [Function.comp_apply]
    split <;> rfl

/-- The receive buffers of the commands not yet taken are owed to their senders. -/
def State.oweCommands (s : State) : State :=
  s.each s.rx fun s c => match c.src with
    | .dev d => s.owe d false 0 (32 + c.bytes.length)
    | .spur => s.owe s.net.id true 0 (32 + c.bytes.length)
    | .i3c => s

theorem onlyOwed_oweCommands (s : State) : OnlyOwed s s.oweCommands := by
  refine each_of_step (P := OnlyOwed s) (fun t c h => ?_) s.rx (.refl s)
  split
  · exact h.owe _ _ _ _
  · exact h.owe _ _ _ _
  · exact h

/-- What a warm reset keeps of a state whose commands' buffers are owed. -/
def State.keptOf (s : State) (cause : Nat) : State :=
  { pending := s.pending, free := s.free, resets := satAdd32 s.resets 1, resetCause := cause, badRails := s.badRails,
    phyMode := s.phyMode,
    net := if s.badRails.contains railPhy then s.net.idKept else s.net.kept }

/-- A warm reset with VDD_NET in range keeps this and nothing else. -/
theorem warmKept_of_net {s : State} (cause : Nat) (net : railNet ∉ s.badRails) : s.warmKept cause =
    { pending := s.pending, free := s.free, resets := satAdd32 s.resets 1, resetCause := cause, badRails := s.badRails,
      phyMode := s.phyMode,
      net := if railPhy ∈ s.badRails then s.oweCommands.net.idKept else s.oweCommands.net.kept } := by
  have only := (onlyOwed_oweCommands s).rest
  have pending := congrArg State.pending only
  have free := congrArg State.free only
  have resets := congrArg State.resets only
  have badRails := congrArg State.badRails only
  have phyMode := congrArg State.phyMode only
  have held : s.badRails.contains railNet = false := by rwa [Bool.eq_false_iff, Ne, List.contains_iff_mem]
  have out : s.oweCommands.badRails.contains railPhy = true ↔ railPhy ∈ s.badRails := by
    rw [show s.oweCommands.badRails = _ from badRails, List.contains_iff_mem]
  rw [State.warmKept, if_neg (by rw [held]; exact Bool.false_ne_true)]
  change State.keptOf s.oweCommands cause = _
  rw [State.keptOf, if_congr out rfl rfl, ← pending, ← free, ← resets, ← badRails, ← phyMode]

theorem tripped_warmKept (s : State) (cause : Nat) : (s.warmKept cause).tripped = false := by
  unfold State.warmKept
  split <;> rfl

/-- From s to t only the clusters and the channels change. -/
def OnlyClocks (s t : State) : Prop := ∃ k h, t = { s with clusters := k, chans := h }

theorem onlyClocks_stopAll (s : State) : OnlyClocks s s.stopAll := by
  unfold State.stopAll
  have clusters : OnlyClocks s (s.each (List.range 32) fun s n => s.modClu n fun k => { k with power := 3 }) := by
    refine each_of_step (P := OnlyClocks s) ?_ _ ⟨s.clusters, s.chans, rfl⟩
    rintro t n ⟨k, h, rfl⟩
    exact ⟨_, h, rfl⟩
  refine each_of_step (P := OnlyClocks s) ?_ _ clusters
  rintro t c ⟨k, h, rfl⟩
  exact ⟨k, _, rfl⟩

/-- What a warm reset leaves beside the clusters' clocks and the channels: a thermal trip holds through one that begins
with a hot sensor. -/
theorem warmReset_eq (s : State) (cause : Nat) : OnlyClocks
    { s.warmKept cause with hotStart := s.hotSensor, tripped := s.tripped && s.hotSensor.isSome } (s.warmReset cause) := by
  have cold := tripped_warmKept s cause
  unfold State.warmReset
  generalize s.warmKept cause = w at cold ⊢
  cases trip : s.tripped && s.hotSensor.isSome with
  | false =>
    refine ⟨w.clusters, w.chans, ?_⟩
    rw [if_neg Bool.false_ne_true, ← cold]
  | true => exact onlyClocks_stopAll { w with hotStart := s.hotSensor, tripped := true }

/-- A warm reset with VDD_NET in range. -/
theorem warmReset_facts {s : State} (cause : Nat) (net : railNet ∉ s.badRails) :
    let t := s.warmReset cause
    t.mem = [] ∧ t.parts = [] ∧ t.entries = [] ∧ t.images = [] ∧ t.ctxs = [] ∧ t.ropes = [] ∧
    t.dockets = [] ∧ t.cmds = [] ∧ t.sync = [] ∧ t.tb.count = 0 ∧ t.ready = false ∧ t.resetCause = cause ∧
    t.resets = satAdd32 s.resets 1 ∧ t.tripped = (s.tripped && s.hotSensor.isSome) ∧ t.hotStart = s.hotSensor ∧
    t.net = if railPhy ∈ s.badRails then s.oweCommands.net.idKept else s.oweCommands.net.kept := by
  intro t
  obtain ⟨k, h, left⟩ := warmReset_eq s cause
  rw [warmKept_of_net cause net] at left
  rw [show t = _ from left]
  exact ⟨rfl, rfl, rfl, rfl, rfl, rfl, rfl, rfl, rfl, rfl, rfl, rfl, rfl, rfl, rfl, rfl⟩

theorem idKept_oweCommands (s : State) : s.oweCommands.net.idKept = s.net.idKept := by
  obtain ⟨_, id, idValid, relay, _⟩ := onlyOwed_oweCommands s
  rw [Net.idKept, id, idValid, relay]
  rfl

/-- A reset that start-up follows leaves what the reset leaves, but for the beginning of stage 0. -/
theorem wholeDeviceResets : Claims.WholeDeviceResets := by
  refine ⟨fun s net phy c cause which => ?warm, fun s net phy => ?idAlone, fun s => rfl⟩
  case warm =>
    obtain ⟨mem, parts, entries, images, ctxs, ropes, dockets, cmds, sync, count, ready, why, resets, tripped, hot, kept⟩ :=
      warmReset_facts cause net
    obtain ⟨_, id, idValid, _, ports, thru, turn, expect⟩ := onlyOwed_oweCommands s
    rw [if_neg phy] at kept
    obtain ⟨rfl, rfl⟩ | ⟨rfl, rfl⟩ | ⟨rfl, asked, rfl⟩ := which
    · refine ⟨s.warmReset 1, rfl, mem, parts, entries, images, ctxs, ropes, dockets, cmds, sync, count, ready, why, resets, ?_⟩
      rw [kept]
      exact ⟨id, idValid, ports, thru, turn, expect, tripped, hot⟩
    · refine ⟨s.warmReset 1, rfl, mem, parts, entries, images, ctxs, ropes, dockets, cmds, sync, count, ready, why, resets, ?_⟩
      rw [kept]
      exact ⟨id, idValid, ports, thru, turn, expect, tripped, hot⟩
    · refine ⟨(s.warmReset 2).powerOn, congrArg Host.Outcome.next (when_true asked), mem, parts, entries, images, ctxs, ropes,
        dockets, cmds, sync, count, ready, why, resets, ?_⟩
      rw [show (s.warmReset 2).powerOn.net = _ from kept]
      exact ⟨id, idValid, ports, thru, turn, expect, tripped, hot⟩
  case idAlone =>
    refine ⟨s.warmReset 1, rfl, ?_⟩
    obtain ⟨_, _, _, _, _, _, _, _, _, _, _, _, _, _, _, kept⟩ := warmReset_facts 1 net
    rw [kept, if_pos phy, idKept_oweCommands]
    rfl

/-! ### Rails (R427) -/

theorem mem_loseRail (s : State) (r q : Fin 7) : q ∈ (s.loseRail r).badRails ↔ q = r ∨ q ∈ s.badRails := by
  unfold State.loseRail
  dsimp only
  split
  next out =>
    have out := List.contains_iff_mem.1 out
    exact ⟨.inr, fun h => h.elim (fun e => e ▸ out) id⟩
  next => exact List.mem_cons

theorem railExcursions : Claims.RailExcursions := by
  intro r s
  let t : State := if s.started then s.loseRail r else if r = railNet then (s.loseRail r).netLost
    else if r = railPhy then (s.loseRail r).modNet Net.idKept else s.loseRail r
  have rails : t.badRails = (s.loseRail r).badRails := by
    simp only [t, apply_ite State.badRails, State.netLost, State.modNet, ite_self]
  refine ⟨t, _, exec_railExcursion r s, ?_, fun q ne => ?_, ?frame, ?netLost, ?phyLost, rfl, ?_, fun q ne => ?_, rfl⟩
  · rw [rails, mem_loseRail]
    exact .inl rfl
  · rw [rails, mem_loseRail]
    exact or_iff_right ne
  case frame =>
    rintro (started | ⟨net, phy⟩)
    · rw [show t = s.loseRail r from if_pos started]
      rfl
    · have only : t = s.loseRail r := by
        simp only [t, if_neg (show r ≠ railNet from net), if_neg (show r ≠ railPhy from phy), ite_self]
      rw [only]
      rfl
  case netLost =>
    rintro held rfl
    have lost : t = (s.loseRail 2).netLost := by simp only [t, held, Bool.false_eq_true, if_false]; rfl
    rw [lost]
    rfl
  case phyLost =>
    rintro held rfl
    have lost : t = (s.loseRail 5).modNet Net.idKept := by simp only [t, held, Bool.false_eq_true, if_false]; rfl
    rw [lost]
    rfl
  · simp
  · simp [ne]

/-- Settles O10: the end of a stage is its report, written over what its work leaves (`stageDone_facts`,
`endFailed_facts`); a warm reset leaves the default state but for what R392 keeps (`warmReset_facts`). -/
theorem startUpAndResets : Obligations.StartUpAndResets := ⟨startUpStages, wholeDeviceResets, railExcursions⟩

end Sys2Proof.Machine
end

section
/-! PROOFS. The I3C target (R320 to R325): common command codes, plain transfers, the command window, in-band
interrupts, Hot-Join and RSTACT, and from these rules the statements I3cCodes and I3cTransfers. -/

namespace Sys2Proof.Machine

/-! ### Common command codes (R322) -/

theorem ccc_of_live {s : State} (live : s.i3c.live = true) (f : I3c → I3c) :
    s.ccc f = s.modI3c fun x => f { x with nack := false } := if_pos live

theorem answers_of {x : I3c} (live : x.live = true) (da : x.daValid = true) : x.answers = true := by
  rw [I3c.answers, live, da]
  rfl

theorem directed_of_answers {s : State} (answers : s.i3c.answers = true) (f : I3c → I3c) :
    s.directed f = s.modI3c fun x => f { x with nack := false } := if_pos answers

theorem events_set (x : I3c) (bits : Byte) : x.events bits true =
    { x with enint := x.enint || bits.getLsbD 0, enhj := x.enhj || bits.getLsbD 3 } := by
  have set (b y : Bool) : (if b then true else y) = (y || b) := by cases b <;> cases y <;> rfl
  simp only [I3c.events, set]

theorem events_clear (x : I3c) (bits : Byte) : x.events bits false =
    { x with enint := x.enint && !bits.getLsbD 0, enhj := x.enhj && !bits.getLsbD 3 } := by
  have clear (b y : Bool) : (if b then false else y) = (y && !b) := by cases b <;> cases y <;> rfl
  simp only [I3c.events, clear]

theorem i3cBroadcastCodes : Claims.I3cBroadcastCodes := by
  refine ⟨?enec, ?disec, ?rstdaa, ?entdaa, ?setdasa, ?setnewda, ?setmwl, ?setmrl, ?enthdr0⟩
  case enec =>
    intro b s live
    refine congrArg Host.Outcome.next ((ccc_of_live live _).trans ?_)
    rw [State.modI3c, events_set]
  case disec =>
    intro b s live
    refine congrArg Host.Outcome.next ((ccc_of_live live _).trans ?_)
    rw [State.modI3c, events_clear]
  case rstdaa => exact fun s live => congrArg Host.Outcome.next (ccc_of_live live _)
  case entdaa =>
    intro da s live free
    refine congrArg Host.Outcome.next ((ccc_of_live live _).trans ?_)
    simp only [State.modI3c, free, Bool.not_false, Bool.and_self, if_true]
  case setdasa =>
    intro sa da s live mine
    refine congrArg Host.Outcome.next ((ccc_of_live live _).trans ?_)
    simp only [State.modI3c, mine, beq_self_eq_true, if_true]
  case setnewda =>
    exact fun da s live valid => congrArg Host.Outcome.next (directed_of_answers (answers_of live valid) _)
  case setmwl => exact fun n s live => congrArg Host.Outcome.next (ccc_of_live live _)
  case setmrl => exact fun n s live => congrArg Host.Outcome.next (ccc_of_live live _)
  case enthdr0 => exact fun s live => congrArg Host.Outcome.next (ccc_of_live live _)

theorem i3cGetCodes : Claims.I3cGetCodes := by
  intro s live valid
  have answer (f : I3c → I3c) : s.directed f = s.modI3c fun x => f { x with nack := false } :=
    directed_of_answers (answers_of live valid) f
  exact ⟨congrArg Host.Outcome.next (answer _), congrArg Host.Outcome.next (answer _),
    congrArg Host.Outcome.next (answer _), congrArg Host.Outcome.next (answer _), congrArg Host.Outcome.next (answer _),
    congrArg Host.Outcome.next (answer _), congrArg Host.Outcome.next (answer _)⟩

/-- Settles O8: a live target takes a broadcast code, and one that holds an address a directed code; what each sets is
read off its definition. -/
theorem i3cCodes : Obligations.I3cCodes := ⟨i3cBroadcastCodes, i3cGetCodes⟩

/-! ### Private transfers (R324, R325) -/

section
variable {s : State} (live : s.i3c.live = true) (valid : s.i3c.daValid = true)
include live valid

theorem exec_i3cPrivateWrite (d : I3cData) : exec (.i3cPrivateWrite d) s = .next (s.privateWrite d.bytes d.bad) :=
  congrArg Host.Outcome.next (when_true (answers_of live valid))

theorem exec_i3cPrivateRead (r : I3cRead) : exec (.i3cPrivateRead r) s = .next (s.privateRead r.count r.bad) :=
  congrArg Host.Outcome.next (when_true (answers_of live valid))

theorem exec_cmdWinWrite_zero (d : I3cData) : exec (.cmdWinWrite 0 d) s =
    .next (s.privateWrite (leBytes (if s.i3c.hdr then 4 else 3) cmdWin ++ d.bytes) d.bad) := by
  refine congrArg Host.Outcome.next (when_true ?_)
  rw [answers_of live valid]
  rfl

end

theorem leNat_lt (b : Bytes) : leNat b < 256 ^ b.length := by
  induction b with
  | nil => exact Nat.one_pos
  | cons x b ih =>
    have := x.isLt
    simp only [leNat, List.length_cons, Nat.pow_succ]
    omega

/-- A plain write of one word, outside I3C.CMD_WIN. -/
theorem i3cWrite_word (s : State) {a : Nat} {d : Bytes} (word : d.length = 4) (aligned : a % 4 = 0)
    (low : a < 2 ^ 24) (out : a < 0x041000 ∨ 0x042000 ≤ a) : s.i3cWrite a d =
      (s.modI3c fun x => { x with ptr := BitVec.ofNat 24 (a + 4) }).accessWrite .i3c a (BitVec.ofNat 32 (leNat d)) := by
  have window : ¬ (cmdWin ≤ a ∧ a < cmdWin + 0x1000) := by
    rw [show cmdWin = 0x041000 from rfl]
    omega
  simp only [State.i3cWrite, word, aligned, window, ne_eq, not_true_eq_false, if_false, if_true, Nat.reduceMod, Nat.reduceDiv,
    Nat.reduceMul, State.i3cWords, Nat.lt_irrefl, Nat.mod_eq_of_lt low, List.take_of_length_le (Nat.le_of_eq word)]

/-- A plain write that MWL does not cut short and whose check passed. -/
theorem privateWrite_of_good {s : State} {b : Bytes} (fits : b.length ≤ s.i3c.mwl)
    (framed : (if s.i3c.hdr then 4 else 3) ≤ b.length) (zero : s.i3c.hdr = true → fieldAt b 3 1 = 0) :
    s.privateWrite b false = (s.modI3c fun x => { x with hdr := false }).i3cWrite (fieldAt b 0 3)
      (b.drop (if s.i3c.hdr then 4 else 3)) := by
  have whole : b.take s.i3c.mwl = b := List.take_of_length_le fits
  cases hdr : s.i3c.hdr with
  | true =>
    rw [hdr] at framed
    have long : ¬ b.length < 4 := Nat.not_lt.2 framed
    simp [State.privateWrite, hdr, whole, zero hdr, long]
  | false =>
    rw [hdr] at framed
    have long : ¬ b.length < 3 := Nat.not_lt.2 framed
    have same : (s.modI3c fun x => { x with hdr := false }) = s := by rw [State.modI3c, ← hdr]
    simp [State.privateWrite, hdr, whole, long, same]

/-- A plain write into I3C.CMD_WIN from offset 0, of whole words, submits them as one command. -/
theorem i3cWrite_window (s : State) {b : Bytes} (some_ : b ≠ []) (words : b.length % 4 = 0) (short : b.length ≤ 4096) :
    s.i3cWrite cmdWin b =
      (s.modI3c fun x => { x with ptr := BitVec.ofNat 24 (cmdWin + b.length) }).submitI3c b := by
  have whole : b.length / 4 * 4 = b.length := Nat.div_mul_cancel (Nat.dvd_of_mod_eq_zero words)
  have empty : b.isEmpty = false := List.isEmpty_eq_false_iff.2 some_
  have aligned : cmdWin % 4 = 0 := by decide
  simp [State.i3cWrite, State.winWrite, aligned, whole, empty, List.take_of_length_le short]

/-- After a write of b into I3C.CMD_WIN from offset 0: the pointer has moved past it, and the mode is SDR again. -/
def State.afterWindow (s : State) (b : Bytes) : State :=
  { s with i3c := { s.i3c with ptr := BitVec.ofNat 24 (0x041000 + b.length), hdr := false } }

/-- A write into I3C.CMD_WIN from offset 0 that MWL does not cut short. -/
theorem exec_cmdWinWrite_whole {s : State} {b : Bytes} (live : s.i3c.live = true) (valid : s.i3c.daValid = true)
    (some_ : b ≠ []) (words : b.length % 4 = 0) (short : b.length ≤ 4096)
    (fits : (if s.i3c.hdr then 4 else 3) + b.length ≤ s.i3c.mwl) : exec (.cmdWinWrite 0 ⟨b, false⟩) s =
      .next ((s.afterWindow b).submitI3c b) := by
  have frame : (if s.i3c.hdr then 4 else 3) = 4 ∨ (if s.i3c.hdr then 4 else 3) = 3 := by split <;> simp
  have address : fieldAt (leBytes (if s.i3c.hdr then 4 else 3) cmdWin ++ b) 0 3 = cmdWin := by
    obtain frame | frame := frame <;> rw [frame] <;> rfl
  have data : (leBytes (if s.i3c.hdr then 4 else 3) cmdWin ++ b).drop (if s.i3c.hdr then 4 else 3) = b := by
    obtain frame | frame := frame <;> rw [frame] <;> rfl
  rw [exec_cmdWinWrite_zero live valid, privateWrite_of_good, address, data, i3cWrite_window _ some_ words short]
  · rfl
  · rwa [List.length_append, length_leBytes]
  · rw [List.length_append, length_leBytes]
    exact Nat.le_add_right _ _
  · intro hdr
    rw [hdr]
    rfl

theorem submitI3c_of_room {s : State} {b : Bytes} (live : s.i3c.live = true) (room : s.i3c.busy < 16) : s.submitI3c b =
    { s with rx := s.rx ++ [{ src := .i3c, part := none, bytes := b }],
             i3c := { s.i3c with outstanding := s.i3c.outstanding + 1 } } := by
  have arrives : s.arrives .i3c = some (s.arrived .i3c) := by
    simp only [State.arrives, live, Nat.not_le.2 room, if_false]
    rfl
  simp only [State.submitI3c, arrives, Nat.not_le.2 room, if_false]
  rfl

theorem submitI3c_of_full {s : State} {b : Bytes} (live : s.i3c.live = true) (full : 16 ≤ s.i3c.busy) :
    s.submitI3c b = s.setBits 0x040100 0x20 := by
  simp only [State.submitI3c, State.arrives, live, full, Bool.not_true, Bool.false_eq_true, if_false, if_true]
  rfl

/-! ### A write in error stays recorded (R327) -/

theorem i3c_leaveRx (s : State) (o : OutPkt) : (s.leaveRx o).i3c = s.i3c := by
  unfold State.leaveRx
  split <;> rfl

theorem i3c_closeSpur (s : State) : s.closeSpur.i3c = s.i3c :=
  each_of_step (P := fun t => t.i3c = s.i3c) (fun t o h => (i3c_leaveRx t o).trans h) _ rfl

theorem i3c_startDiscovery (s : State) : s.startDiscovery.i3c = s.i3c := by
  unfold State.startDiscovery
  split <;> rfl

theorem i3c_setWhole (s : State) (ring : Nat) (v : Bool) : (s.setWhole ring v).i3c = s.i3c := by
  unfold State.setWhole
  dsimp only
  split
  · rfl
  · split <;> rfl

theorem i3c_portLeaves (s : State) (p st : Nat) : (s.portLeaves p st).i3c = s.i3c := by
  have closed (c : Prop) [Decidable c] (t : State) : (if c then t.closeSpur else t).i3c = t.i3c := by
    split
    · exact i3c_closeSpur t
    · rfl
  unfold State.portLeaves
  dsimp only
  split
  · exact closed _ _
  · split
    · exact (i3c_startDiscovery _).trans ((i3c_setWhole _ _ _).trans (closed _ _))
    · exact closed _ _

theorem protoErr_writeTxRate (s : State) (p v : Nat) : (s.writeTxRate p v).i3c.protoErr = s.i3c.protoErr := by
  unfold State.writeTxRate
  dsimp only
  split
  · rfl
  · exact congrArg I3c.protoErr (i3c_portLeaves _ _ _)

theorem protoErr_writeReg (s : State) (acc a : Nat) (v : Word) : (s.writeReg acc a v).i3c.protoErr = s.i3c.protoErr := by
  let kept (t : State) : Prop := t.i3c.protoErr = s.i3c.protoErr
  unfold State.writeReg
  refine iteInduction (motive := kept) (fun _ => rfl) fun _ => ?_
  refine iteInduction (motive := kept) (fun _ => protoErr_writeTxRate _ _ _) fun _ => ?_
  refine iteInduction (motive := kept) (fun _ => iteInduction (motive := kept) (fun _ => rfl) fun _ => rfl) fun _ => ?_
  exact iteInduction (motive := kept) (fun _ => rfl) fun _ => rfl

/-- A word written over I3C leaves the protocol-error bit. -/
theorem protoErr_accessWrite (s : State) (a : Nat) (v : Word) : (s.accessWrite .i3c a v).i3c.protoErr = s.i3c.protoErr := by
  unfold State.accessWrite
  split
  · exact protoErr_writeReg _ _ _ _
  · rfl

theorem protoErr_i3cWords (n : Nat) : ∀ (s : State) (a : Nat) (b : Bytes),
    (s.i3cWords n a b).i3c.protoErr = s.i3c.protoErr := by
  induction n with
  | zero => exact fun _ _ _ => rfl
  | succ n ih =>
    intro s a b
    rw [State.i3cWords]
    split
    · rfl
    · exact (ih _ _ _).trans (protoErr_accessWrite _ _ _)

theorem protoErr_submitI3c (s : State) (b : Bytes) : (s.submitI3c b).i3c.protoErr = s.i3c.protoErr := by
  cases live : s.i3c.live with
  | false => simp [State.submitI3c, State.arrives, live]
  | true =>
    by_cases full : 16 ≤ s.i3c.busy
    · rw [submitI3c_of_full live full]
      rfl
    · rw [submitI3c_of_room live (Nat.not_le.1 full)]

theorem protoErr_winWrite (s : State) (off : Nat) (b : Bytes) : (s.winWrite off b).i3c.protoErr = s.i3c.protoErr := by
  have access (c : Prop) [Decidable c] : (if c then s.i3cAccess else s).i3c.protoErr = s.i3c.protoErr := by split <;> rfl
  unfold State.winWrite
  dsimp only
  split
  · exact (protoErr_submitI3c _ _).trans (access _)
  · exact access _

theorem protoErr_i3cWrite (s : State) (a : Nat) (b : Bytes) : (s.i3cWrite a b).i3c.protoErr = s.i3c.protoErr := by
  unfold State.i3cWrite
  dsimp only
  split
  · rfl
  · split
    · split
      · rfl
      · exact protoErr_winWrite _ _ _
    · refine (protoErr_i3cWords _ _ _ _).trans ?_
      split <;> rfl

theorem protoErr_privateWrite_bad (s : State) (b : Bytes) : (s.privateWrite b true).i3c.protoErr = true := by
  unfold State.privateWrite
  simp only [if_true]
  exact iteInduction (motive := fun t : State => t.i3c.protoErr = true) (fun _ => rfl)
    fun _ => (protoErr_i3cWrite _ _ _).trans rfl

/-- A plain read of one word at an aligned pointer. -/
theorem privateRead_word {s t : State} {v : Word} (room : 4 ≤ s.i3c.mrl) (aligned : s.i3c.ptr.toNat % 4 = 0)
    (read : s.readReg 16 s.i3c.ptr.toNat = some (v, t)) : s.privateRead 4 false =
      { t with i3c := { t.i3c with ptr := s.i3c.ptr + 4, hdr := false, answer := leBytes 4 v.toNat } } := by
  have low : s.i3c.ptr.toNat % 2 ^ 24 = s.i3c.ptr.toNat := Nat.mod_eq_of_lt s.i3c.ptr.isLt
  have next : BitVec.ofNat 24 (s.i3c.ptr.toNat + 4) = s.i3c.ptr + 4 := by
    rw [BitVec.ofNat_add, BitVec.ofNat_toNat, BitVec.setWidth_eq]
    rfl
  have all : (leBytes 4 v.toNat).take 4 = leBytes 4 v.toNat := List.take_of_length_le (length_leBytes _ _).le
  simp only [State.privateRead, Bool.false_eq_true, if_false, Nat.min_eq_left room, aligned, if_true,
    show ceilDiv 4 4 = 1 from rfl, State.i3cReadWords, low, read, List.append_nil, all, Nat.mul_one, next]
  rfl

theorem i3cPrivateTransfers : Claims.I3cPrivateTransfers := by
  refine ⟨?write, ?read, ?window, ?overrun, ?badWrite, ?badRead⟩
  case write =>
    intro a0 a1 a2 d0 d1 d2 d3 s live valid hdr fits aligned out
    have plain : (s.modI3c fun x => { x with hdr := false }) = s := by rw [State.modI3c, ← hdr]
    have address : fieldAt [a0, a1, a2, d0, d1, d2, d3] 0 3 = leNat [a0, a1, a2] := rfl
    have good := privateWrite_of_good (b := [a0, a1, a2, d0, d1, d2, d3]) fits (by rw [hdr]; exact Nat.le_of_ble_eq_true rfl)
      (by rw [hdr]; exact nofun)
    have low : leNat [a0, a1, a2] < 2 ^ 24 := (leNat_lt [a0, a1, a2]).trans_eq (by norm_num)
    rw [plain, hdr, address] at good
    rw [exec_i3cPrivateWrite live valid, good]
    exact congrArg Host.Outcome.next (i3cWrite_word s (d := [d0, d1, d2, d3]) rfl aligned low out)
  case read =>
    intro s t v live valid room aligned read
    rw [exec_i3cPrivateRead live valid, privateRead_word room aligned read]
  case window =>
    intro b s live valid some_ words short fits room
    rw [exec_cmdWinWrite_whole live valid some_ words short fits, submitI3c_of_room (s := s.afterWindow b) live room]
    rfl
  case overrun =>
    intro b s live valid some_ words short fits full
    rw [exec_cmdWinWrite_whole live valid some_ words short fits, submitI3c_of_full (s := s.afterWindow b) live full]
    rfl
  case badWrite =>
    intro b s live valid
    exact ⟨_, exec_i3cPrivateWrite live valid _, protoErr_privateWrite_bad s b⟩
  case badRead =>
    intro n s live valid
    exact exec_i3cPrivateRead live valid _

/-! ### In-band interrupts, Hot-Join and RSTACT (R322, R323) -/

theorem exec_rstact_of_live {s : State} (live : s.i3c.live = true) (action : Byte) : exec (.rstact action) s =
    .next (if action = 0 then s.ccc id else if action = 1 then s.i3cReset
      else if action = 2 then (s.warmReset 3).powerOn else s.modI3c fun x => { x with nack := true }) :=
  congrArg Host.Outcome.next (when_true live)

theorem i3cInterruptsAndReset : Claims.I3cInterruptsAndReset := by
  refine ⟨?ibi, ?retry, ?hotJoin, fun s live => ⟨?nothing, ?target, ?device⟩⟩
  case ibi =>
    intro c s live valid enabled pending sent
    have due : (s.i3c.answers && s.i3c.enint && s.i3c.ibi.getLsbD c.val && s.i3c.nacked.isNone) = true := by
      rw [answers_of live valid, enabled, pending, sent]
      rfl
    exact ⟨congrArg Host.Outcome.next (when_true due), congrArg Host.Outcome.next (when_true due)⟩
  case retry =>
    intro c s waits
    exact congrArg Host.Outcome.next (when_true (by rw [waits]; rfl))
  case hotJoin =>
    intro s live
    refine congrArg Host.Outcome.next ?_
    rw [State.when, live, Bool.true_and]
    rfl
  case nothing => exact (exec_rstact_of_live live 0).trans (congrArg Host.Outcome.next (ccc_of_live live id))
  case target =>
    have left : s.i3cReset.i3c = { live := s.i3c.live, da := s.i3c.da, daValid := s.i3c.daValid, retries := s.i3c.retries,
                                   hotJoins := s.i3c.hotJoins, outstanding := s.i3c.outstanding } := rfl
    exact ⟨s.i3cReset, exec_rstact_of_live live 1, by rw [left, live], rfl⟩
  case device =>
    intro whole
    have net : railNet ∉ s.badRails := whole ▸ List.not_mem_nil
    have phy : railPhy ∉ s.badRails := whole ▸ List.not_mem_nil
    obtain ⟨mem, parts, _, _, _, _, _, cmds, _, _, ready, why, resets, _, _, kept⟩ := warmReset_facts 3 net
    obtain ⟨_, id, idValid, _⟩ := onlyOwed_oweCommands s
    rw [if_neg phy] at kept
    refine ⟨(s.warmReset 3).powerOn, exec_rstact_of_live live 2, rfl, ready, why, resets, mem, parts, cmds, ?_⟩
    rw [show (s.warmReset 3).powerOn.net = _ from kept]
    exact ⟨id, idValid, congrArg Stage.result (stage_setStage_self _ 0 _)⟩

/-- Settles O9: a transfer that its check passes acts at its address; RSTACT 0x02 is a warm reset (`warmReset_facts`). -/
theorem i3cTransfers : Obligations.I3cTransfers := ⟨i3cPrivateTransfers, i3cInterruptsAndReset⟩

end Sys2Proof.Machine
end

section
/-! PROOFS. The receiver's side of a link (R303 to R308, R317, R318, R335): the comparison of a Frame Start, the checks of a
long packet, and the sequence check, and from these rules the statements FrameStartCompare and ReliableReceiver. -/

namespace Sys2Proof.Machine

/-! ### A received Frame Start (R305) -/

theorem exec_frameStartReceive_of_up {s : State} {p : Fin 3} (up : (s.port p.val).state = 2) (k : BitVec 16) :
    exec (.frameStartReceive p k) s =
      .next (if k - BitVec.ofNat 16 s.frameNo = 0 ∨ k - BitVec.ofNat 16 s.frameNo = 1 ∨
        k - BitVec.ofNat 16 s.frameNo = 0xFFFF then s else s.bump (lnkReg p.val 0x28) 0 16 1) :=
  congrArg Host.Outcome.next (when_true (by rw [up]; rfl))

/-- The counter in the low half of a register, and the other half. -/
theorem fld_bump_low (s : State) (a : Nat) : fld ((s.bump a 0 16 1).reg a).toNat 0 16 =
      min (fld (s.reg a).toNat 0 16 + 1) 0xFFFF ∧
    fld ((s.bump a 0 16 1).reg a).toNat 16 16 = fld (s.reg a).toNat 16 16 := by
  have bound := (s.reg a).isLt
  simp only [bump_eq, reg_setReg_self, BitVec.toNat_ofNat, fld]
  omega

theorem reg_bump_ne (s : State) {a b : Nat} (lo n m : Nat) (ne : b ≠ a) : (s.bump a lo n m).reg b = s.reg b := by
  rw [bump_eq, reg_setReg_ne s a _ ne]

theorem bump_frame (s : State) (a lo n m : Nat) : { s.bump a lo n m with regs := s.regs } = s := rfl

/-! ### The checks of a long packet (R303, R330, R336) -/

section
variable {s : State} {port : Nat} {x : RawPkt}

theorem receivePkt_of_checked (port : Nat) (header : x.hdrBad = false) (crc : x.crcBad = false)
    (type : typeOk x.dt x.vc = true) (checked : rawChecked x = true) : s.receivePkt port x =
      if port = 2 then (s.bumpWide (lnkReg port 0x0C) 1).fromSpur x (rawParse x)
      else (s.bumpWide (lnkReg port 0x0C) 1).fromRing port x (rawParse x) := by
  simp only [State.receivePkt, header, crc, type, checked, Bool.false_eq_true, Bool.not_true, if_false]

/-- A packet from a ring for this device's own id. -/
theorem fromRing_of_mine {p : Pkt} (single : p.dst ≠ 0xFFF) (mine : s.net.mine p = true) : s.fromRing port x p =
    if rawFieldsOk x p then s.checkDeliver port p else s.discardOn port := by
  rw [State.fromRing, if_neg (by rwa [beq_iff_eq]), if_pos mine]

end

theorem exec_longPacketReceive_of_up {s : State} {p : Fin 3} (up : (s.port p.val).state = 2) (x : RawPkt) :
    exec (.longPacketReceive p x) s = .next (s.receivePkt p.val x) :=
  congrArg Host.Outcome.next (when_true (by rw [up]; rfl))

theorem mine_iff {n : Net} {p : Pkt} : n.mine p = true ↔ n.idValid = true ∧ p.dst = n.id := by
  rw [Net.mine, Bool.and_eq_true, beq_iff_eq]

/-- Settles O57: the two arms of the comparison; it leaves the ports and the id, and so what a packet for this device
meets. -/
theorem frameStartCompare : Obligations.FrameStartCompare := by
  intro p k s
  refine ⟨fun up near => ?near, fun up far => ?far, ?packet⟩
  case near => rw [exec_frameStartReceive_of_up up, if_pos near]
  case far =>
    obtain ⟨counted, kept⟩ := fld_bump_low s (lnkReg p.val 0x28)
    rw [lnkReg, Nat.add_right_comm] at counted kept
    refine ⟨s.bump (0x030000 + 0x28 + 0x100 * p.val) 0 16 1, ?_, counted, kept, fun a ne => reg_bump_ne s 0 16 1 ne,
      bump_frame s _ 0 16 1⟩
    rw [exec_frameStartReceive_of_up up, if_neg far, lnkReg, Nat.add_right_comm]
  case packet =>
    intro x t receives up ring header crc type checked fields valid mine single
    rw [exec_frameStartReceive_of_up up] at receives
    have net : t.net = s.net := by
      cases receives
      rw [apply_ite State.net, net_bump, ite_self]
    have upNow : (t.port p.val).state = 2 := by rwa [State.port, net]
    have own : (t.bumpWide (lnkReg p.val 0x0C) 1).net.mine (rawParse x) = true := by
      rw [net_bumpWide, net, mine_iff]
      exact ⟨valid, mine⟩
    rw [exec_longPacketReceive_of_up upNow, receivePkt_of_checked p.val header crc type checked, if_neg ring,
      fromRing_of_mine (mine ▸ single) own, if_pos fields, lnkReg, Nat.add_right_comm]

/-! ### Receiver spaces (R317) -/

theorem keyed_rcvOf (s : State) (src : BitVec 12) (spur bcast : Bool) (vc : Nat) (rel : Bool) :
    (s.rcvOf src spur bcast vc rel).keyed src spur bcast vc rel = true := by
  unfold State.rcvOf
  split
  next x found => exact List.find?_some (p := fun x : Rcv => x.keyed src spur bcast vc rel) found
  next => simp [Rcv.keyed]

theorem keyed_iff {x : Rcv} {src : BitVec 12} {spur bcast : Bool} {vc : Nat} {rel : Bool} :
    x.keyed src spur bcast vc rel = true ↔
      x.src = src ∧ x.spur = spur ∧ x.bcast = bcast ∧ x.vc = vc ∧ x.rel = rel := by
  simp [Rcv.keyed, and_assoc]

/-- The space that a write leaves is the one written. -/
theorem rcvOf_setRcv (s : State) {x : Rcv} {src : BitVec 12} {spur bcast : Bool} {vc : Nat} {rel : Bool}
    (key : x.keyed src spur bcast vc rel = true) : (s.setRcv x).rcvOf src spur bcast vc rel = x := by
  obtain ⟨rfl, rfl, rfl, rfl, rfl⟩ := keyed_iff.1 key
  have gone : (s.net.rcv.filter fun y => !y.keyed x.src x.spur x.bcast x.vc x.rel).find?
      (fun y => y.keyed x.src x.spur x.bcast x.vc x.rel) = none := by
    simp [List.find?_eq_none]
  simp only [State.rcvOf, State.setRcv, State.modNet, List.find?_append, gone, Option.none_or, List.find?_singleton, key,
    if_true]

theorem rcvOf_congr {s t : State} (same : t.net.rcv = s.net.rcv) (src : BitVec 12) (spur bcast : Bool) (vc : Nat)
    (rel : Bool) : t.rcvOf src spur bcast vc rel = s.rcvOf src spur bcast vc rel := by
  rw [State.rcvOf, same, State.rcvOf]

theorem rcv_queueOwn (s : State) (p : Pkt) : (s.queueOwn p).net.rcv = s.net.rcv := by
  unfold State.queueOwn State.queuePkt
  split
  · split <;> rfl
  · split <;> rfl

/-- Queueing link control leaves the receiver's spaces. -/
theorem rcv_sendControl (s : State) (dst : BitVec 12) (spur : Bool) (records : List Bytes) :
    (s.sendControl dst spur records).net.rcv = s.net.rcv := by
  unfold State.sendControl
  dsimp only
  split
  · exact rcv_queueOwn _ _
  · split <;> rfl

/-- What was lost of a peer does not enter what is queued. -/
theorem heardFrom_sendControl (s : State) (x : Rcv) (dst : BitVec 12) (spur : Bool) (records : List Bytes) :
    (s.sendControl dst spur records).heardFrom x = (s.heardFrom x).sendControl dst spur records := by
  simp only [State.sendControl, State.queueOwn, State.queuePkt, apply_ite (State.heardFrom · x)]
  rfl

/-! ### The sequence check (R318, R335) -/

section
variable {s : State} {port : Nat} {k : Pkt} (rel : k.rel = true)

/-- The space of a reliable packet, as the packet finds it. -/
def State.spaceOf (s : State) (port : Nat) (k : Pkt) : Rcv :=
  let x := s.rcvOf k.src (port == 2) (k.dst == 0xFFF) k.vc true
  { x with expect := x.expected k }

theorem keyed_spaceOf (s : State) (port : Nat) (k : Pkt) :
    (s.spaceOf port k).keyed k.src (port == 2) (k.dst == 0xFFF) k.vc true = true := keyed_rcvOf s _ _ _ _ _

include rel

theorem seqCheck_of_rel (s : State) (port : Nat) : s.seqCheck port k =
    let x := s.spaceOf port k
    let d := (k.seq - x.expect).toNat
    if d = 0 then
      if k.dt ≠ 0x32 ∧ bufferBytes < s.net.rxFill + k.size then (s, false) else ((s.acceptRel x k).heardFrom x, true)
    else if d < 32768 then ((s.setRcv { x with gap := true }).sendNak x, false)
    else ((s.setRcv { x with since := 0 }).sendAck x, false) := by
  simp only [State.seqCheck, rel, Bool.not_true, Bool.false_eq_true, if_false]
  rfl

theorem seqCheck_of_expected (next : k.seq = (s.spaceOf port k).expect)
    (room : k.dt = 0x32 ∨ s.net.rxFill + k.size ≤ bufferBytes) :
    s.seqCheck port k = ((s.acceptRel (s.spaceOf port k) k).heardFrom (s.spaceOf port k), true) := by
  have fits : ¬ (k.dt ≠ 0x32 ∧ bufferBytes < s.net.rxFill + k.size) := fun ⟨other, full⟩ =>
    room.elim other (Nat.not_le.2 full)
  rw [seqCheck_of_rel rel]
  dsimp only
  rw [if_pos (by rw [next, BitVec.sub_self]; rfl), if_neg fits]

theorem seqCheck_of_ahead (gap : 0 < (k.seq - (s.spaceOf port k).expect).toNat)
    (near : (k.seq - (s.spaceOf port k).expect).toNat < 32768) :
    s.seqCheck port k = ((s.setRcv { s.spaceOf port k with gap := true }).sendNak (s.spaceOf port k), false) := by
  rw [seqCheck_of_rel rel]
  dsimp only
  rw [if_neg (Nat.ne_of_gt gap), if_pos near]

theorem seqCheck_of_behind (past : 32768 ≤ (k.seq - (s.spaceOf port k).expect).toNat) :
    s.seqCheck port k = ((s.setRcv { s.spaceOf port k with since := 0 }).sendAck (s.spaceOf port k), false) := by
  rw [seqCheck_of_rel rel]
  dsimp only
  rw [if_neg (by omega), if_neg (Nat.not_lt.2 past)]

/-- A retransmission of the packet that the space has accepted last lies behind. -/
theorem seqCheck_of_accepted (again : k.retx = true)
    (last : (s.rcvOf k.src (port == 2) (k.dst == 0xFFF) k.vc true).expect = k.seq + 1) : (s.seqCheck port k).2 = false := by
  have back : (k.seq + 1 - k.seq).toNat = 1 := by bv_omega
  have expects : (s.spaceOf port k).expect = k.seq + 1 := by
    simp only [State.spaceOf, Rcv.expected, last, back, again]
    simp
  have past : (k.seq - (s.spaceOf port k).expect).toNat = 65535 := by
    rw [expects]
    bv_omega
  rw [seqCheck_of_behind rel (by omega)]

end

/-- What an accepted packet makes of its space. -/
def Rcv.accepted (x : Rcv) (k : Pkt) : Rcv :=
  { x with expect := k.seq + 1, since := if 31 ≤ x.since then 0 else x.since + 1, gap := false }

/-- The bytes of an accepted packet enter the receive buffer; link control is of no account there (R335). -/
def State.fillRx (s : State) (k : Pkt) : State :=
  s.modNet fun n => { n with rxFill := if k.dt = 0x32 then n.rxFill else n.rxFill + k.size }

/-- An accepted packet: each 32nd is acknowledged at once. -/
theorem acceptRel_eq (s : State) (x : Rcv) (k : Pkt) : s.acceptRel x k =
    if 31 ≤ x.since then ((s.fillRx k).setRcv (x.accepted k)).sendControl x.src x.spur [ctlRecord 0 x.vc k.seq.toNat 0 0]
    else (s.fillRx k).setRcv (x.accepted k) := by
  have due : 32 ≤ x.since + 1 ↔ 31 ≤ x.since := Nat.succ_le_succ_iff
  unfold State.acceptRel
  dsimp only
  rw [if_congr due rfl rfl]
  split
  next full =>
    rw [Rcv.accepted, if_pos full, State.sendAck]
    simp only [BitVec.add_sub_cancel]
    rfl
  next more =>
    rw [Rcv.accepted, if_neg more]
    rfl

theorem rcv_acceptRel (s : State) (x : Rcv) (k : Pkt) :
    (s.acceptRel x k).net.rcv = ((s.fillRx k).setRcv (x.accepted k)).net.rcv := by
  rw [acceptRel_eq]
  split
  · exact rcv_sendControl _ _ _ _
  · rfl

theorem nakRepeat_facts (d : BitVec 12) (spur : Bool) (vc : Nat) (s : State) :
    let x := s.rcvOf d spur false vc true
    (x.gap = true → exec (.nakRepeat d spur vc) s = .next (s.sendControl x.src x.spur [ctlRecord 1 x.vc x.expect.toNat 0 0])) ∧
    (x.gap = false → exec (.nakRepeat d spur vc) s = .next s) :=
  ⟨fun gap => congrArg Host.Outcome.next (when_true gap), fun whole => congrArg Host.Outcome.next (when_false whole)⟩

theorem ackTimer_facts (d : BitVec 12) (spur : Bool) (vc : Nat) (s : State) :
    let x := s.rcvOf d spur false vc true
    (0 < x.since → exec (.ackTimer d spur vc) s = .next ((s.setRcv { x with since := 0 }).sendControl x.src x.spur
      [ctlRecord 0 x.vc (x.expect - 1).toNat 0 0])) ∧
    (x.since = 0 → exec (.ackTimer d spur vc) s = .next s) :=
  ⟨fun waits => congrArg Host.Outcome.next (when_true (decide_eq_true waits)),
    fun none => congrArg Host.Outcome.next (when_false (decide_eq_false (Nat.not_lt.2 none.le)))⟩

/-- Settles O59: the three arms of the sequence check; the space that an acceptance leaves expects the next SEQ, of which
the packet sent again lies one behind. -/
theorem reliableReceiver : Obligations.ReliableReceiver := by
  refine ⟨fun p k s rel room => ⟨fun next => ?accepted, fun gap near => ?ahead, fun past => ?behind⟩, fun d spur vc s => ?timers⟩
  case accepted =>
    let x := s.spaceOf p.val k
    have check : s.seqCheck p.val k = ((s.acceptRel x k).heardFrom x, true) := seqCheck_of_expected rel next room
    have space : (s.seqCheck p.val k).1.rcvOf k.src (p.val == 2) (k.dst == 0xFFF) k.vc true = x.accepted k := by
      have left : (s.seqCheck p.val k).1.net.rcv = ((s.fillRx k).setRcv (x.accepted k)).net.rcv := by
        rw [check]
        exact rcv_acceptRel s x k
      rw [rcvOf_congr left]
      exact rcvOf_setRcv _ (keyed_spaceOf s p.val k)
    refine ⟨by rw [check], ?_⟩
    rw [space]
    refine ⟨congrArg (· + 1) next, rfl, rfl,
      fun (full : 31 ≤ x.since) => ⟨((s.fillRx k).setRcv (x.accepted k)).heardFrom x, ?_, ?_⟩,
      fun (more : x.since < 31) => ?_, seqCheck_of_accepted rel rfl (congrArg Rcv.expect space)⟩
    · rw [check]
      exact (rcv_acceptRel s x k).symm
    · rw [check, acceptRel_eq, if_pos full, heardFrom_sendControl, next]
      rfl
    · rw [check, acceptRel_eq, if_neg (Nat.not_le.2 more)]
      rfl
  case ahead =>
    rw [seqCheck_of_ahead rel gap near]
    exact ⟨rfl, rfl⟩
  case behind =>
    rw [seqCheck_of_behind rel past]
    exact ⟨rfl, rfl⟩
  case timers =>
    obtain ⟨nak, whole⟩ := nakRepeat_facts d spur vc s
    obtain ⟨ack, none_⟩ := ackTimer_facts d spur vc s
    exact ⟨nak, whole, ack, none_⟩

end Sys2Proof.Machine
end

section
/-! PROOFS. Discovery (R339 to R342): what a roll, a call and the end of a lap bring about, and from these rules the
statement Discovery. -/

namespace Sys2Proof.Machine

/-! ### The next roll (R340) -/

theorem nextRoll_of_idle {s : State} (idle : s.net.disc ≠ 1) : s.nextRoll = s := if_pos idle

section
variable {s : State} (runs : s.net.disc = 1)
include runs

theorem nextRoll_of_first (open_ : (s.net.ring 0).done = false) :
    s.nextRoll = if (s.net.ring 0).mine || (s.net.ring 0).wait then s else s.rollRing 0 := by
  simp only [State.nextRoll, runs, open_, ne_eq, not_true_eq_false, if_false, Bool.not_false, if_true]

theorem nextRoll_of_second (done : (s.net.ring 0).done = true) :
    s.nextRoll = if (s.net.ring 1).mine || (s.net.ring 1).wait then s else s.rollRing 1 := by
  simp only [State.nextRoll, runs, done, ne_eq, not_true_eq_false, if_false, Bool.not_true, Bool.false_eq_true]

end

theorem rollRing_of_up {s : State} {r : Nat} (up : s.ringUp r = true) : s.rollRing r = s.startRoll r := if_pos up

theorem rollRing_of_alone {s : State} {r : Nat} (down : s.ringUp r = false) (alone : s.ringAlone r = true) :
    s.rollRing r = s.ringDone r [s.ownRecord] false := by
  rw [State.rollRing, down, alone]
  rfl

theorem rollRing_of_broken {s : State} {r : Nat} (down : s.ringUp r = false) (broken : s.ringAlone r = false) :
    s.rollRing r = s.ringDone r [] false := by
  rw [State.rollRing, down, broken]
  rfl

/-! ### Records (Table 17.3) -/

theorem any_serial_iff {b : Bytes} : ((rollRecords b).any fun x => rSerial x == Config.serial.toNat) = true ↔
    ∃ x ∈ rollRecords b, rSerial x = Config.serial.toNat := by
  simp

theorem joined_of_room {s : State} {r : Nat} {b : Bytes} (ok : rollOk r b = true) (room : rollCount b < 64)
    (new : ¬ ∃ x ∈ rollRecords b, rSerial x = Config.serial.toNat) :
    s.joined r b = rollPayload (rollOrigin b) r (rollRound b) (rollRecords b ++ [s.ownRecord]) := by
  have full : (rollCount b == 64) = false := beq_false_of_ne room.ne
  rw [← any_serial_iff, Bool.not_eq_true] at new
  rw [State.joined, ok, full, new]
  rfl

theorem joined_of_full {s : State} {r : Nat} {b : Bytes}
    (full : rollCount b = 64 ∨ ∃ x ∈ rollRecords b, rSerial x = Config.serial.toNat) : s.joined r b = b := by
  refine if_pos ?_
  rw [← any_serial_iff, ← beq_iff_eq] at full
  obtain full | mine := full
  · rw [full, Bool.or_true, Bool.true_or]
  · rw [mine, Bool.or_true]

/-! ### Rolls and calls that arrive -/

theorem discardOn_eq (s : State) (port : Nat) : s.discardOn port = s.bump (0x03001C + 0x100 * port) 0 32 1 := by
  rw [State.discardOn, lnkReg, Nat.add_right_comm]

section
variable {s : State} {r : Nat} {b : Bytes}

theorem rollArrives_of_ill (ill : rollOk r b = false) : s.rollArrives r b = s.discardOn r := by
  rw [State.rollArrives, ill]
  rfl

variable (ok : rollOk r b = true)
include ok

theorem rollArrives_of_held (held : s.ready = false) : s.rollArrives r b =
    if rollOrigin b = Config.serial.toNat then s else s.drover r 0 0xFFF (s.joined r b) := by
  simp only [State.rollArrives, ok, held, Bool.not_true, Bool.false_eq_true, if_false, Bool.not_false, if_true]

end

section
variable {s : State} (ready : s.ready = true) (runs : s.net.disc = 1)
include ready runs

theorem joinRound_of_same {k : Nat} (same : k = s.net.round) : s.joinRound k = some s := by
  simp only [State.joinRound, ready, runs, same, Bool.not_true, Bool.false_eq_true, if_false, ne_eq, not_true_eq_false,
    Nat.lt_irrefl]

theorem joinRound_of_older {k : Nat} (older : k < s.net.round) : s.joinRound k = none := by
  simp only [State.joinRound, ready, runs, older, Nat.not_lt.2 older.le, Bool.not_true, Bool.false_eq_true, if_false,
    ne_eq, not_true_eq_false, if_true]

variable {r : Nat} {b : Bytes} (ok : rollOk r b = true)
include ok

/-- Another device's roll goes on, unless the own one, of a lower serial, is under way. -/
theorem rollArrives_of_other (same : rollRound b = s.net.round) (other : rollOrigin b ≠ Config.serial.toNat)
    (lower : ¬ ((s.net.ring r).mine = true ∧ Config.serial.toNat < rollOrigin b)) (room : rollCount b < 64) :
    s.rollArrives r b =
      (s.drover r 0 0xFFF (s.joined r b)).modRing r fun x => { x with mine := false, wait := !x.done } := by
  have goes : ((s.net.ring r).mine && decide (Config.serial.toNat < rollOrigin b)) = false := by
    rwa [Bool.eq_false_iff, Ne, Bool.and_eq_true, decide_eq_true_iff]
  simp only [State.rollArrives, ok, ready, joinRound_of_same ready runs same, other, goes, room.ne, Bool.not_true,
    Bool.false_eq_true, if_false]

/-- The own roll that has come round is called. -/
theorem rollArrives_of_own (same : rollRound b = s.net.round) (own : rollOrigin b = Config.serial.toNat)
    (mine : (s.net.ring r).mine = true) : s.rollArrives r b = s.drover r 1 0xFFF b := by
  simp only [State.rollArrives, ok, ready, joinRound_of_same ready runs same, own, mine, Bool.not_true,
    Bool.false_eq_true, if_false, if_true]

/-- The own call that has come round completes the roll. -/
theorem callArrives_of_own (same : rollRound b = s.net.round) (own : rollOrigin b = Config.serial.toNat)
    (mine : (s.net.ring r).mine = true) :
    s.callArrives r b = (s.bump (fabBase + 0x38) 0 32 1).ringDone r (rollRecords b) true := by
  simp only [State.callArrives, ok, joinRound_of_same ready runs same, own, mine, Bool.not_true, Bool.false_eq_true,
    if_false, if_true]

/-- A call that comes late shows the ring whole. -/
theorem callArrives_of_late (older : rollRound b < s.net.round) : s.callArrives r b = s.setWhole r true := by
  simp only [State.callArrives, ok, ready, joinRound_of_older ready runs older, Bool.not_true, Bool.false_eq_true,
    if_false, if_true]

end

/-- The own call that returns goes no further. -/
theorem exec_call_of_own {b : Bytes} (own : rollOrigin b = Config.serial.toNat) (r : Fin 2) (s : State) :
    exec (.call r b) s = .next (s.callArrives r.val b) := by
  refine congrArg (fun t : State => Host.Outcome.next (t.callArrives r.val b)) ?_
  exact (if_pos rfl).trans (if_pos (.inr ⟨rfl, own⟩))

theorem exec_callTimeout (r : Fin 2) (s : State) : exec (.callTimeout r) s =
    .next (s.when (s.net.disc == 1 && ((s.net.ring r.val).mine || (s.net.ring r.val).wait))
      fun s => s.ringDone r.val [] false) := rfl

/-- Settles O55: each arm of the next roll, of a roll's and a call's arrival, and of the lap's timer, by its lemma above. -/
theorem discovery : Obligations.Discovery := by
  refine ⟨fun s idle => congrArg Host.Outcome.next (nextRoll_of_idle idle), fun s runs => ⟨?waits, ?first, ?second⟩,
    fun r b s ok => ⟨joined_of_room ok, joined_of_full⟩, fun r b s => ⟨?ill, ?now, ?late, ?held⟩, fun r s => ⟨?quiet, ?lapsed⟩⟩
  case waits =>
    intro open_ rolled
    refine congrArg Host.Outcome.next ((nextRoll_of_first runs open_).trans (if_pos ?_))
    rwa [Bool.or_eq_true]
  case first =>
    intro open_ mine wait
    have rolls : s.nextRoll = s.rollRing 0 := by
      rw [nextRoll_of_first runs open_, mine, wait]
      rfl
    exact ⟨fun up => congrArg Host.Outcome.next (rolls.trans (rollRing_of_up up)),
      fun down alone => congrArg Host.Outcome.next (rolls.trans (rollRing_of_alone down alone)),
      fun down broken => congrArg Host.Outcome.next (rolls.trans (rollRing_of_broken down broken))⟩
  case second =>
    intro done mine wait up
    refine congrArg Host.Outcome.next ((nextRoll_of_second runs done).trans ?_)
    rw [mine, wait]
    exact rollRing_of_up up
  case ill => exact fun ill => congrArg Host.Outcome.next ((rollArrives_of_ill ill).trans (discardOn_eq s r.val))
  case now =>
    intro ok ready runs same
    refine ⟨fun other lower room => congrArg Host.Outcome.next (rollArrives_of_other ready runs ok same other lower room),
      fun own mine => ⟨congrArg Host.Outcome.next (rollArrives_of_own ready runs ok same own mine), ?_⟩⟩
    exact (exec_call_of_own own r s).trans (congrArg Host.Outcome.next (callArrives_of_own ready runs ok same own mine))
  case late =>
    intro ok ready runs older own
    exact (exec_call_of_own own r s).trans (congrArg Host.Outcome.next (callArrives_of_late ready runs ok older))
  case held =>
    intro ok held
    exact ⟨fun own => congrArg Host.Outcome.next ((rollArrives_of_held ok held).trans (if_pos own)),
      fun other => congrArg Host.Outcome.next ((rollArrives_of_held ok held).trans (if_neg other))⟩
  case quiet =>
    intro idle
    rw [exec_callTimeout, when_false]
    obtain idle | ⟨mine, wait⟩ := idle
    · rw [beq_false_of_ne idle, Bool.false_and]
    · rw [mine, wait, Bool.or_false, Bool.and_false]
  case lapsed =>
    intro runs rolled
    rw [exec_callTimeout, when_true]
    rwa [runs, beq_self_eq_true, Bool.true_and, Bool.or_eq_true]

end Sys2Proof.Machine
end

section
/-! PROOFS. The checks of a command on receipt (R351, R352, R379): one rule per check, in their order, and from these rules
the statement CommandChecks. -/

namespace Sys2Proof.Machine

/-! ### The checks in order -/

/-- Check 2: the length, and the longest command of its path (R350). -/
def lengthPasses (sp : CmdSpec) (src : Src) (p : Bytes) : Prop :=
  sp.length p = true ∧ 16 + p.length ≤ if src = .i3c then 4096 else 65503

theorem pathLimit_eq (src : Src) : pathLimit src = if src = .i3c then 4096 else 65503 := by
  cases src <;> rfl

section
variable {s : State} {op : Nat} {sp : CmdSpec} {src : Src} {hdr : Hdr} {p : Bytes}

theorem receiptCheck_of_length (wrong : ¬ lengthPasses sp src p) :
    s.receiptCheck op sp src hdr p true true = some stBadLength := by
  refine if_pos ?_
  rw [lengthPasses, ← pathLimit_eq, not_and_or, Bool.not_eq_true, Nat.not_le] at wrong
  obtain wrong | long := wrong
  · rw [wrong]
    rfl
  · rw [decide_eq_true long, Bool.or_true]

variable (length : lengthPasses sp src p)
include length

theorem receiptCheck_of_fits : s.receiptCheck op sp src hdr p true true =
    if !s.fieldsOk sp src hdr p then some stBadField
    else if s.notReady op p then some stUnitResetting
    else match s.scopeCheck sp src hdr p with
      | some st => some st
      | none => if (sp.names hdr.part.val p).any fun q => (s.part q).resetting then some stUnitResetting else none := by
  obtain ⟨fits, short⟩ := length
  rw [← pathLimit_eq] at short
  refine if_neg ?_
  rw [fits, decide_eq_false (Nat.not_lt.2 short)]
  exact Bool.false_ne_true

theorem receiptCheck_of_fields (wrong : s.fieldsOk sp src hdr p = false) :
    s.receiptCheck op sp src hdr p true true = some stBadField := by
  rw [receiptCheck_of_fits length, wrong]
  rfl

variable (fields : s.fieldsOk sp src hdr p = true)
include fields

theorem receiptCheck_of_notReady (held : s.notReady op p = true) :
    s.receiptCheck op sp src hdr p true true = some stUnitResetting := by
  rw [receiptCheck_of_fits length, fields, held]
  rfl

theorem receiptCheck_of_scope {st : BitVec 16} (ready : s.notReady op p = false)
    (refused : s.scopeCheck sp src hdr p = some st) : s.receiptCheck op sp src hdr p true true = some st := by
  rw [receiptCheck_of_fits length, fields, ready, refused]
  rfl

theorem receiptCheck_of_resetting {q : Nat} (ready : s.notReady op p = false)
    (admitted : s.scopeCheck sp src hdr p = none) (named : q ∈ sp.names hdr.part.val p)
    (resets : (s.part q).resetting = true) : s.receiptCheck op sp src hdr p true true = some stUnitResetting := by
  have any : ((sp.names hdr.part.val p).any fun q => (s.part q).resetting) = true := List.any_eq_true.2 ⟨q, named, resets⟩
  rw [receiptCheck_of_fits length, fields, ready, admitted]
  exact if_pos any

end

theorem fieldsOk_iff {s : State} {sp : CmdSpec} {src : Src} {hdr : Hdr} {p : Bytes} : s.fieldsOk sp src hdr p = true ↔
    sp.reserved p = true ∧ sp.rsvdOn s hdr p = true ∧ (hdr.form = true → sp.forms p = true) ∧
      hdr.start.toNat ≤ s.now + 2 ^ 32 ∧ ¬ (src = .spur ∧ 0xF000 ≤ hdr.tag.toNat) := by
  have form : (!hdr.form || sp.forms p) = true ↔ (hdr.form = true → sp.forms p = true) := by
    cases hdr.form <;> simp
  have tag : (!(src == .spur && decide (0xF000 ≤ hdr.tag.toNat))) = true ↔ ¬ (src = .spur ∧ 0xF000 ≤ hdr.tag.toNat) := by
    rw [Bool.not_eq_true', Bool.eq_false_iff, Ne, Bool.and_eq_true, beq_iff_eq, decide_eq_true_iff]
  rw [State.fieldsOk, Bool.and_eq_true, Bool.and_eq_true, Bool.and_eq_true, Bool.and_eq_true, form, tag, decide_eq_true_iff,
    and_assoc, and_assoc, and_assoc]

theorem notReady_of_ready {s : State} (op : Nat) (p : Bytes) (ready : s.ready = true) (runs : s.halted = false)
    (cool : s.tripped = false) : s.notReady op p = false := by
  rw [State.notReady, ready, runs, cool]
  rfl

theorem notReady_of_held {s : State} {op : Nat} {p : Bytes} (held : s.ready = false ∨ s.halted = true)
    (other : ¬ (op = 0x12 ∧ fieldAt p 0 1 = 3)) : s.notReady op p = true := by
  have waits : (!s.ready || s.halted || s.tripped) = true := by
    obtain held | held := held <;> rw [held]
    · rfl
    · rw [Bool.or_true, Bool.true_or]
  have low : (op == 0x12 && fieldAt p 0 1 == 3) = false := by
    rwa [Bool.eq_false_iff, Ne, Bool.and_eq_true, beq_iff_eq, beq_iff_eq]
  rw [State.notReady, waits, low]
  rfl

/-! ### The scope of a command (R352) -/

section
variable {s : State} {sp : CmdSpec} {src : Src} {hdr : Hdr} {p : Bytes}

theorem scopeCheck_of_device (device : sp.scope p = .device) : s.scopeCheck sp src hdr p =
    if deviceSource src then none else some stNotPermitted := by
  rw [State.scopeCheck, device]

variable (partition : sp.scope p = .partition)
include partition

theorem scopeCheck_of_absent (absent : (s.part hdr.part.val).exists_ = false)
    (closed : (∃ d, src = .dev d) ∨ sp.inspects p = false) : s.scopeCheck sp src hdr p = some stWrongState := by
  have inspects : (sp.inspects p && deviceSource src) = false := by
    obtain ⟨d, rfl⟩ | none_ := closed
    · exact Bool.and_false _
    · rw [none_, Bool.false_and]
  rw [State.scopeCheck, partition, absent, inspects]
  rfl

variable (present : (s.part hdr.part.val).exists_ = true)
include present

theorem scopeCheck_of_unlisted (refused : s.admits hdr.part.val src = false) :
    s.scopeCheck sp src hdr p = some stNotPermitted := by
  rw [State.scopeCheck, partition, present, refused]
  rfl

theorem scopeCheck_of_admitted (admitted : s.admits hdr.part.val src = true)
    (stays : (s.part hdr.part.val).destroying = false) : s.scopeCheck sp src hdr p = none := by
  rw [State.scopeCheck, partition, present, admitted, stays]
  rfl

end

theorem admits_of_unlisted {s : State} {p : Nat} {d : BitVec 12} (some_ : (s.part p).sources ≠ [])
    (unlisted : d ∉ (s.part p).sources) : s.admits p (.dev d) = false := by
  rw [State.admits, List.isEmpty_eq_false_iff.2 some_, List.contains_eq_mem, decide_eq_false unlisted]
  rfl

/-- What the checks look at does not change as a command arrives. -/
theorem checked_accepted (s : State) (src : Src) : (s.accepted src).now = s.now ∧ (s.accepted src).ready = s.ready ∧
    (s.accepted src).halted = s.halted ∧ (s.accepted src).tripped = s.tripped := by
  cases src <;> exact ⟨rfl, rfl, rfl, rfl⟩

/-- A command that a check refuses completes with its status, and nothing else of it is done. -/
theorem completes_of_refused {op : Nat} {src : Src} {hdr : Hdr} {p : Bytes} {c : Instr} {sp : CmdSpec} {s : State}
    {st : BitVec 16} (instr : commandInstr op src hdr p [] = some c) (spec : specOf op = some sp) (can : s.canArrive src)
    (free : s.stewardFree = true) (refused : (s.accepted src).receiptCheck op sp src hdr p true true = some st) :
    Completes op src hdr (s.accepted src) st [] (exec c s) := by
  rw [exec_of_commandInstr instr spec, show s.lineEvents [] = s from rfl, ite_self]
  exact (command_taken can free).1 st refused

/-- Settles O29: each refusal is the first check that fails (`receiptCheck_of_fits` and the rules about it). -/
theorem commandChecks : Obligations.CommandChecks := by
  intro op src hdr p c sp s instr spec can free n lengthOk fieldsOk level3
  obtain ⟨now, ready, halted, tripped⟩ := checked_accepted s src
  obtain ⟨_, _, _, part, _⟩ := accepted_facts s src
  replace part (q : Nat) : n.part q = s.part q := part q
  have admits (q : Nat) (x : Src) : n.admits q x = s.admits q x := by
    cases x <;> simp only [State.admits, part]
  have refuses {st : BitVec 16} : n.receiptCheck op sp src hdr p true true = some st → Completes op src hdr n st [] (exec c s) :=
    completes_of_refused instr spec can free
  have fields : n.fieldsOk sp src hdr p = true ↔ fieldsOk := by rw [fieldsOk_iff, now]
  refine ⟨fun wrong => refuses (receiptCheck_of_length wrong), fun length wrong => ?fields, fun length ok held other => ?held,
    fun length ok up runs cool => ?open_⟩
  case fields =>
    rw [← fields, Bool.not_eq_true] at wrong
    exact refuses (receiptCheck_of_fields length wrong)
  case held =>
    rw [← ready, ← halted] at held
    exact refuses (receiptCheck_of_notReady length (fields.2 ok) (notReady_of_held held other))
  case open_ =>
    have ok := fields.2 ok
    have through : n.notReady op p = false :=
      notReady_of_ready op p (ready.trans up) (halted.trans runs) (tripped.trans cool)
    refine ⟨fun d from_ device => ?fabric, fun partition absent closed => ?absent,
      fun d from_ partition present some_ unlisted => ?unlisted,
      fun partition present admitted stays named resets => ?own, fun q device from_ named resets => ?named⟩
    case fabric =>
      refine refuses (receiptCheck_of_scope length ok through ?_)
      rw [scopeCheck_of_device device, from_]
      rfl
    case absent =>
      rw [← part] at absent
      exact refuses (receiptCheck_of_scope length ok through (scopeCheck_of_absent partition absent closed))
    case unlisted =>
      have refused : n.admits hdr.part.val src = false := by rw [admits, from_, admits_of_unlisted some_ unlisted]
      rw [← part] at present
      exact refuses (receiptCheck_of_scope length ok through (scopeCheck_of_unlisted partition present refused))
    case own =>
      rw [← admits] at admitted
      rw [← part] at present stays resets
      exact refuses (receiptCheck_of_resetting length ok through
        (scopeCheck_of_admitted partition present admitted stays) named resets)
    case named =>
      rw [← part] at resets
      refine refuses (receiptCheck_of_resetting length ok through ?_ named resets)
      rw [scopeCheck_of_device device, from_]
      rfl

end Sys2Proof.Machine
end

section
/-! PROOFS. Commands that report, read and write registers, read counters, and set up the fabric (R333, R340, R359, R370,
R377, R381), and from these rules the statement ReportCommands. -/

namespace Sys2Proof.Machine

/-! ### Results in windows (R350) -/

theorem window_of_last {s : State} {src : Src} {res : Bytes} {off : Nat} (inside : off < res.length)
    (fits : res.length ≤ off + resultLimit src) : s.window src res off = .done s stOk (res.drop off) := by
  have all : (res.drop off).take (resultLimit src) = res.drop off := List.take_of_length_le (by rw [List.length_drop]; omega)
  have end_ : ¬ off + (res.drop off).length < res.length := by
    rw [List.length_drop]
    omega
  rw [State.window, if_neg (Nat.not_le.2 inside)]
  dsimp only
  rw [all, if_neg end_]

theorem window_of_more {s : State} {src : Src} {res : Bytes} {off : Nat} (more : off + resultLimit src < res.length) :
    s.window src res off = .trunc s ((res.drop off).take (resultLimit src)) := by
  have goes : off + ((res.drop off).take (resultLimit src)).length < res.length := by
    rw [List.length_take, List.length_drop]
    omega
  rw [State.window, if_neg (by omega)]
  dsimp only
  rw [if_pos goes]

theorem window_of_beyond {s : State} {src : Src} {res : Bytes} {off : Nat} (beyond : res.length ≤ off) :
    s.window src res off = .done s stEmpty [] := if_pos beyond

theorem startCmd_of_trunc {s t : State} {sp : CmdSpec} {r : Req} {res : Bytes} (body : sp.body s r = .trunc t res) :
    s.startCmd sp r = (t.reply r.src r.op r.hdr.tag r.hdr.part.val stOk res true).settleFences := by
  rw [State.startCmd, body]
  rfl

/-! ### Stage reports and the floor plan (R377, R381) -/

/-- What the reports read is what it was as the command arrived. -/
theorem reports_accepted (s : State) (src : Src) : (s.accepted src).identity = s.identity ∧
    (s.accepted src).stageReport = s.stageReport ∧ (s.accepted src).latestStage = s.latestStage ∧
    (s.accepted src).floorRecord = s.floorRecord ∧ (s.accepted src).keptResult = s.keptResult := by
  cases src <;> exact ⟨rfl, rfl, rfl, rfl, rfl⟩

/-- The latest stage that has begun is the last of the eight with a result. -/
theorem latestStage_of_last {s : State} {k : Nat} (below : k < 8) (begun : (s.stage k).result ≠ 0)
    (last : ∀ m, k < m → m < 8 → (s.stage m).result = 0) : s.latestStage = k := by
  have found : ((List.range 8).reverse.find? fun n => (Tbl.get ({} : Stage) s.stages n).result != 0) = some k := by
    refine List.find?_eq_some_iff_append.2 ⟨bne_iff_ne.2 begun, ((List.range (7 - k)).map (k + 1 + ·)).reverse,
      (List.range k).reverse, ?_, fun m mem => ?_⟩
    · have split8 : 8 = k + (1 + (7 - k)) := by omega
      conv_lhs => rw [split8, List.range_add, List.range_add]
      simp [Nat.add_assoc]
    · simp only [List.mem_reverse, List.mem_map, List.mem_range] at mem
      obtain ⟨i, low, rfl⟩ := mem
      have none_ := last (k + 1 + i) (by omega) (by omega)
      rw [State.stage] at none_
      rw [none_]
      rfl
  simp only [State.latestStage, found]

theorem stageReportBody_of_latest {s : State} {r : Req} (latest : fieldAt r.p 0 1 = 255) :
    stageReportBody s r = .done s stOk (s.stageReport s.latestStage) := by
  simp only [stageReportBody, latest]

theorem stageReportBody_of_stage {s : State} {r : Req} (named : fieldAt r.p 0 1 ≠ 255) : stageReportBody s r =
    if fieldAt r.p 0 1 < 8 then .done s stOk (s.stageReport (fieldAt r.p 0 1)) else .done s stBadField [] := by
  unfold stageReportBody
  split
  next latest => exact absurd latest named
  next => rfl

theorem length_mapBytes (m : Tbl Nat) (n : Nat) : (mapBytes m n).length = n / 4 := by
  rw [mapBytes, List.length_map, List.length_range]

/-- The record has 640 bytes (Table 19.4). -/
theorem length_floorRecord (s : State) : s.floorRecord.length = 640 := by
  unfold State.floorRecord
  split
  · exact List.length_replicate
  · simp only [State.mapRecord, List.length_append, length_leBytes, length_mapBytes]

theorem floorPlanBody_of_first {s : State} {r : Req} (first : fieldAt r.p 0 4 = 0) :
    floorPlanBody s r = (s.keepResult r.src r.op s.floorRecord).window r.src s.floorRecord 0 := if_pos first

theorem floorPlanBody_of_later {s : State} {r : Req} (later : fieldAt r.p 0 4 ≠ 0) :
    floorPlanBody s r = s.window r.src (s.keptResult r.src r.op) (fieldAt r.p 0 4) := if_neg later

theorem resultLimit_of_packets {src : Src} (packets : src ≠ .i3c) : resultLimit src = 65487 := by
  cases src with
  | i3c => exact absurd rfl packets
  | spur => rfl
  | dev d => rfl

theorem informationCommands : Claims.InformationCommands := by
  intro src hdr p s n
  obtain ⟨identity, report, latest, record, kept⟩ := reports_accepted s src
  replace identity : n.identity = s.identity := identity
  replace report : n.stageReport = s.stageReport := report
  replace record : n.floorRecord = s.floorRecord := record
  replace kept : n.keptResult = s.keptResult := kept
  rw [← report, ← record, ← kept]
  refine ⟨fun taken => ?identify, fun taken => ⟨?stage, ?last, ?unknown⟩, fun taken => ⟨?whole, ?part_, ?later, ?beyond⟩⟩
  case identify =>
    have done : Completes 0x01 src hdr n stOk n.identity (exec (.identify src hdr p) s) :=
      completes_of_taken rfl rfl rfl taken rfl
    rwa [identity] at done
  case stage =>
    rintro k below rfl
    have named : fieldAt (s.request 0x02 src hdr p).p 0 1 ≠ 255 := by
      show fieldAt p 0 1 ≠ 255
      omega
    exact completes_of_taken rfl rfl rfl taken ((stageReportBody_of_stage named).trans (if_pos below))
  case last =>
    intro k below asked begun last
    rw [← latestStage_of_last below begun last, ← latest]
    exact completes_of_taken rfl rfl rfl taken (stageReportBody_of_latest asked)
  case unknown =>
    intro high low
    exact completes_of_taken rfl rfl rfl taken
      ((stageReportBody_of_stage (Nat.ne_of_lt low)).trans (if_neg (Nat.not_lt.2 high)))
  case whole =>
    intro first packets
    have some_ : 0 < n.floorRecord.length := by
      rw [length_floorRecord]
      decide
    have fits : n.floorRecord.length ≤ 0 + resultLimit src := by
      rw [length_floorRecord, resultLimit_of_packets packets]
      decide
    exact completes_of_taken rfl rfl rfl taken ((floorPlanBody_of_first first).trans (window_of_last some_ fits))
  case part_ =>
    rintro first rfl
    have more : 0 + resultLimit .i3c < n.floorRecord.length := by
      rw [length_floorRecord]
      decide
    have body : floorPlanSpec.body n (s.request 0x03 .i3c hdr p) =
        .trunc (n.keepResult .i3c 0x03 n.floorRecord) (n.floorRecord.take 240) :=
      (floorPlanBody_of_first first).trans (window_of_more more)
    exact (exec_of_taken rfl rfl taken).trans (congrArg Host.Outcome.next (startCmd_of_trunc body))
  case later =>
    intro later packets inside short
    have fits : (n.keptResult src 0x03).length ≤ fieldAt p 0 4 + resultLimit src := by
      rw [resultLimit_of_packets packets]
      exact short.trans (Nat.le_add_left _ _)
    exact completes_of_taken rfl rfl rfl taken ((floorPlanBody_of_later later).trans (window_of_last inside fits))
  case beyond =>
    intro later beyond
    exact completes_of_taken rfl rfl rfl taken ((floorPlanBody_of_later later).trans (window_of_beyond beyond))

/-! ### READ_REGISTER and WRITE_REGISTER (R370) -/

/-- The words of a register command with their places. -/
theorem zipIdx_regRange (p : Bytes) :
    (regRange p).zipIdx = (List.range (regCount p)).map fun i => (regAddr p + 4 * i, i) := by
  refine List.ext_getElem (by simp [regRange]) fun i _ _ => ?_
  simp [regRange]

section
variable {s : State} {part : Fin 16} {dev : Bool} {p : Bytes} {may : Nat → Nat → Bool}

/-- An address that a register command may name. -/
def State.assigned (s : State) (part : Fin 16) (a : Nat) : Prop := a < 2 ^ 24 ∧ (s.regValue part.val a).isSome = true

theorem unassigned_iff (s : State) (part : Fin 16) (dev : Bool) (a : Nat) :
    (decide (2 ^ 24 ≤ a) || (s.regValue (accOf (.cmd part dev)) a).isNone) = true ↔ ¬ s.assigned part a := by
  rw [State.assigned, Bool.or_eq_true, decide_eq_true_iff, not_and_or, Nat.not_lt, Bool.not_eq_true,
    Option.isSome_eq_false_iff]
  rfl

theorem regCheck_of_count (wrong : regCount p = 0 ∨ 60 < regCount p) : s.regCheck part dev p may = some stBadField :=
  if_pos wrong

variable (low : 1 ≤ regCount p) (high : regCount p ≤ 60)
include low high

theorem regCheck_of_counted : s.regCheck part dev p may =
    if regAddr p % 4 ≠ 0 then some stBadAlignment
    else if (regRange p).any fun a => decide (2 ^ 24 ≤ a) || (s.regValue (accOf (.cmd part dev)) a).isNone then some stBadField
    else if (regRange p).zipIdx.any fun x => !may x.1 x.2 then some stNotPermitted
    else none := if_neg (by omega)

theorem regCheck_of_misaligned (odd : regAddr p % 4 ≠ 0) : s.regCheck part dev p may = some stBadAlignment :=
  (regCheck_of_counted low high).trans (if_pos odd)

variable (aligned : regAddr p % 4 = 0)
include aligned

theorem regCheck_of_unassigned (wrong : ∃ a ∈ regRange p, ¬ s.assigned part a) :
    s.regCheck part dev p may = some stBadField := by
  rw [regCheck_of_counted low high, if_neg (not_not.2 aligned), if_pos]
  obtain ⟨a, mem, wrong⟩ := wrong
  exact List.any_eq_true.2 ⟨a, mem, (unassigned_iff s part dev a).2 wrong⟩

/-- The permission of each word, once every address is assigned. -/
theorem regCheck_of_assigned (all : ∀ a ∈ regRange p, s.assigned part a) : s.regCheck part dev p may =
    if (regRange p).zipIdx.any fun x => !may x.1 x.2 then some stNotPermitted else none := by
  rw [regCheck_of_counted low high, if_neg (not_not.2 aligned), if_neg]
  rw [List.any_eq_true]
  rintro ⟨a, mem, wrong⟩
  exact (unassigned_iff s part dev a).1 wrong (all a mem)

theorem regCheck_of_refused (all : ∀ a ∈ regRange p, s.assigned part a)
    (refused : ∃ i, i < regCount p ∧ may (regAddr p + 4 * i) i = false) :
    s.regCheck part dev p may = some stNotPermitted := by
  refine (regCheck_of_assigned low high aligned all).trans (if_pos ?_)
  simpa [zipIdx_regRange] using refused

theorem regCheck_of_passed (all : ∀ a ∈ regRange p, s.assigned part a)
    (passed : ∀ i, i < regCount p → may (regAddr p + 4 * i) i = true) : s.regCheck part dev p may = none := by
  refine (regCheck_of_assigned low high aligned all).trans (if_neg ?_)
  simpa [zipIdx_regRange] using passed

end

theorem readRegisterBody_of_refused {s : State} {r : Req} {st : BitVec 16}
    (refused : s.regCheck r.hdr.part (deviceSource r.src) r.p
      (fun a _ => s.mayRead (.cmd r.hdr.part (deviceSource r.src)) a) = some st) :
    readRegisterBody s r = .done s st [] := by
  simp only [readRegisterBody, refused]

theorem readRegisterBody_of_passed {s : State} {r : Req}
    (passed : s.regCheck r.hdr.part (deviceSource r.src) r.p
      (fun a _ => s.mayRead (.cmd r.hdr.part (deviceSource r.src)) a) = none) :
    readRegisterBody s r =
      .done (s.readRegs r.hdr.part.val (regRange r.p)).1 stOk (s.readRegs r.hdr.part.val (regRange r.p)).2 := by
  simp only [readRegisterBody, passed]
  rfl

theorem writeRegisterBody_of_refused {s : State} {r : Req} {st : BitVec 16}
    (refused : s.regCheck r.hdr.part (deviceSource r.src) r.p
      (fun a i => s.mayWrite (.cmd r.hdr.part (deviceSource r.src)) a (regWord r.p i)) = some st) :
    writeRegisterBody s r = .done s st [] := by
  simp only [writeRegisterBody, refused]

theorem writeRegisterBody_of_passed {s : State} {r : Req}
    (passed : s.regCheck r.hdr.part (deviceSource r.src) r.p
      (fun a i => s.mayWrite (.cmd r.hdr.part (deviceSource r.src)) a (regWord r.p i)) = none) :
    writeRegisterBody s r =
      .done ((List.range (regCount r.p)).foldl (fun t i => t.writeReg r.hdr.part.val (regAddr r.p + 4 * i) (regWord r.p i)) s)
        stOk [] := by
  simp only [writeRegisterBody, passed, zipIdx_regRange, State.each, List.foldl_map]
  rfl

theorem registerCommands : Claims.RegisterCommands := by
  intro src hdr p s n via assigned range
  refine ⟨fun taken => ⟨fun wrong => ?count, fun low high => ⟨fun odd => ?misaligned, fun aligned wrong => ?unassigned,
    fun aligned all refused => ?unreadable, fun aligned all may => ?read⟩⟩,
    fun taken low high aligned all => ⟨fun refused => ?unwritable, fun may => ?write⟩⟩
  case count =>
    exact completes_of_taken rfl rfl rfl taken (readRegisterBody_of_refused (regCheck_of_count wrong))
  case misaligned =>
    exact completes_of_taken rfl rfl rfl taken (readRegisterBody_of_refused (regCheck_of_misaligned low high odd))
  case unassigned =>
    exact completes_of_taken rfl rfl rfl taken (readRegisterBody_of_refused (regCheck_of_unassigned low high aligned wrong))
  case unreadable =>
    obtain ⟨a, mem, refused⟩ := refused
    obtain ⟨i, below, rfl⟩ := List.mem_map.1 mem
    exact completes_of_taken rfl rfl rfl taken (readRegisterBody_of_refused
      (regCheck_of_refused low high aligned all ⟨i, List.mem_range.1 below, refused⟩))
  case read =>
    exact completes_of_taken rfl rfl rfl taken (readRegisterBody_of_passed (regCheck_of_passed low high aligned all
      fun i below => may _ (List.mem_map.2 ⟨i, List.mem_range.2 below, rfl⟩)))
  case unwritable =>
    exact completes_of_taken rfl rfl rfl taken (writeRegisterBody_of_refused
      (regCheck_of_refused low high aligned all refused))
  case write =>
    exact completes_of_taken rfl rfl rfl taken (writeRegisterBody_of_passed
      (regCheck_of_passed low high aligned all may))

/-! ### GET_COUNTERS, DISCOVER and SET_FABRIC_QUOTA (R333, R340, R370) -/

theorem counters_accepted (s : State) (src : Src) (x : Ctx) : (s.accepted src).counters x = s.counters x := by
  cases src <;> rfl

section
variable {s : State} {r : Req} {x : Ctx}

theorem foreignCtx_of_some {p c : Nat} (ctx : s.ctx c = some x) : s.foreignCtx p c = (x.resident && x.part != p) := by
  rw [State.foreignCtx, ctx]

theorem getCountersBody_of_resident (ctx : s.ctx (fieldAt r.p 0 1) = some x) (own : x.part = r.hdr.part.val)
    (resident : x.resident = true) : getCountersBody s r = .done s stOk (s.counters x) := by
  simp only [getCountersBody, foreignCtx_of_some ctx, ctx, own, resident, bne_self_eq_false, Bool.and_false,
    Bool.false_eq_true, if_false, if_true]

theorem getCountersBody_of_none (none_ : s.ctx (fieldAt r.p 0 1) = none) :
    getCountersBody s r = .done s stWrongState [] := by
  simp only [getCountersBody, State.foreignCtx, none_, Bool.false_eq_true, if_false]

theorem getCountersBody_of_gone (ctx : s.ctx (fieldAt r.p 0 1) = some x) (gone : x.resident = false) :
    getCountersBody s r = .done s stWrongState [] := by
  simp only [getCountersBody, foreignCtx_of_some ctx, ctx, gone, Bool.false_and, Bool.false_eq_true, if_false]

theorem getCountersBody_of_foreign (ctx : s.ctx (fieldAt r.p 0 1) = some x) (resident : x.resident = true)
    (foreign : x.part ≠ r.hdr.part.val) : getCountersBody s r = .done s stNotPermitted [] := by
  simp only [getCountersBody, foreignCtx_of_some ctx, resident, bne_iff_ne.2 foreign, Bool.and_self, if_true]

/-- The quota that SET_FABRIC_QUOTA gives, or none to restore it. -/
def quotaOf (p : Bytes) : Option Nat := if fieldAt p 4 4 = 0 then none else some (fieldAt p 4 4)

theorem setFabricQuotaBody_of_fields (range : fieldAt r.p 4 4 = 0 ∨ 64 ≤ fieldAt r.p 4 4 ∧ fieldAt r.p 4 4 ≤ 16777216)
    (target : fieldAt r.p 0 1 ≤ 1) (part : fieldAt r.p 1 1 ≤ 15) : setFabricQuotaBody s r =
      if fieldAt r.p 0 1 = 0 then .done (s.modNet fun x => { x with quotaSet := quotaOf r.p }) stOk []
      else if (s.part (fieldAt r.p 1 1)).exists_ then
        .done (s.modPart (fieldAt r.p 1 1) fun x => { x with quotaSet := quotaOf r.p }) stOk []
      else .done s stWrongState [] := if_neg (by omega)

end

theorem counterAndFabricCommands : Claims.CounterAndFabricCommands := by
  intro src hdr p s n
  obtain ⟨ctx, _⟩ := contexts_accepted s src
  obtain ⟨_, _, _, part, _⟩ := accepted_facts s src
  refine ⟨fun taken => ⟨?counters, ?none_, ?gone, ?foreign⟩, fun taken => ?discover, fun taken => ?quota⟩
  case counters =>
    intro x found own resident
    have done : Completes 0x62 src hdr n stOk (n.counters x) (exec (.getCounters src hdr p) s) :=
      completes_of_taken rfl rfl rfl taken (getCountersBody_of_resident ((ctx _).trans found) own resident)
    rwa [counters_accepted] at done
  case none_ =>
    exact fun absent => completes_of_taken rfl rfl rfl taken (getCountersBody_of_none ((ctx _).trans absent))
  case gone =>
    exact fun x found gone => completes_of_taken rfl rfl rfl taken (getCountersBody_of_gone ((ctx _).trans found) gone)
  case foreign =>
    exact fun x found resident foreign => completes_of_taken rfl rfl rfl taken
      (getCountersBody_of_foreign ((ctx _).trans found) resident foreign)
  case discover =>
    have net : n.net = s.net := (moves_accepted s src).1
    rw [← net]
    exact waits_of_taken rfl rfl rfl taken rfl
  case quota =>
    intro b v range below
    refine ⟨fun device => ?_, fun one present => ?_⟩
    · exact completes_of_taken rfl rfl rfl taken
        ((setFabricQuotaBody_of_fields range (device.trans_le zero_le_one) below).trans (if_pos device))
    · have present : (n.part (fieldAt p 1 1)).exists_ = true := by rw [part, present]
      have other : ¬ fieldAt p 0 1 = 0 := by omega
      exact completes_of_taken rfl rfl rfl taken
        ((setFabricQuotaBody_of_fields range one.le below).trans ((if_neg other).trans (if_pos present)))

/-- Settles O30: a report reads what the command found; the register commands check their whole range first
(`regCheck_of_assigned`); each other arm is its command's body. -/
theorem reportCommands : Obligations.ReportCommands := ⟨informationCommands, registerCommands, counterAndFabricCommands⟩

end Sys2Proof.Machine
end

section
/-! PROOFS. The commands of the security engine at their start (R398 to R408, R411), and from their bodies the statement
SecurityCommands. -/

namespace Sys2Proof.Machine

theorem security_accepted (s : State) (src : Src) : (s.accepted src).partIds = s.partIds ∧
    (s.accepted src).images = s.images ∧ (s.accepted src).lane0 = s.lane0 ∧ (s.accepted src).lane1 = s.lane1 ∧
    (s.accepted src).challenge = s.challenge ∧ (s.accepted src).entropyFail = s.entropyFail ∧
    (s.accepted src).entry = s.entry ∧ (s.accepted src).foreignStream = s.foreignStream := by
  cases src <;> exact ⟨rfl, rfl, rfl, rfl, rfl, rfl, rfl, rfl⟩

/-! ### Windows and lanes -/

section
variable {op : Nat} {src : Src} {hdr : Hdr} {b : Bytes} {c : Instr} {sp : CmdSpec} {s : State}
  (instr : commandInstr op src hdr b [] = some c) (spec : specOf op = some sp) (taken : Taken s op sp src hdr b)
include instr spec taken

/-- A command whose body returns the window of a result from off. -/
theorem windowed_of_taken {res : Bytes} {off : Nat}
    (body : sp.body (s.accepted src) (s.request op src hdr b) = (s.accepted src).window src res off) :
    let w := (res.drop off).take (resultLimit src)
    (res.length ≤ off → Completes op src hdr (s.accepted src) stEmpty [] (exec c s)) ∧
    (off < res.length → exec c s = .next (((s.accepted src).reply src op hdr.tag hdr.part.val stOk w
      (decide (off + w.length < res.length))).settleFences)) := by
  intro w
  have length : w.length = min (resultLimit src) (res.length - off) := by rw [List.length_take, List.length_drop]
  refine ⟨fun beyond => completes_of_taken instr spec rfl taken (body.trans (window_of_beyond beyond)), fun inside => ?_⟩
  by_cases more : off + resultLimit src < res.length
  · have goes : off + w.length < res.length := by omega
    rw [decide_eq_true goes, exec_of_taken instr spec taken, startCmd_of_trunc (body.trans (window_of_more more))]
    rfl
  · have all : w = res.drop off := List.take_of_length_le (by rw [List.length_drop]; omega)
    have ends : ¬ off + w.length < res.length := by omega
    rw [decide_eq_false ends, all]
    exact completes_of_taken instr spec rfl taken (body.trans (window_of_last inside (Nat.not_lt.1 more)))

/-- A command whose body sends it to lane 0. -/
theorem lane_of_taken {carry : Bytes} {u : State} (other : op ≠ 0x74)
    (body : sp.body (s.accepted src) (s.request op src hdr b) = u.toLane (s.request op src hdr b) carry) :
    Waits s op src hdr { u with lane0 := u.lane0 ++ [s.nextCmd] } (.lane op (b ++ carry)) (exec c s) :=
  waits_of_taken instr spec rfl taken (body.trans (toLane_of_lane0 carry other))

end

/-! ### ATTEST (R403, R408) -/

section
variable {s : State} {r : Req}

theorem attestCmd_of_fabric (all : bitOf (fieldAt r.p 4 1) 0 = true) (fabric : deviceSource r.src = false) :
    attestCmd s r = .done s stNotPermitted [] := by
  refine if_pos ?_
  rw [all, fabric]
  rfl

theorem attestCmd_of_permitted (may : bitOf (fieldAt r.p 4 1) 0 = true → deviceSource r.src = true) : attestCmd s r =
    if fieldAt r.p 0 4 ≠ 0 then s.window r.src (s.keptResult r.src r.op) (fieldAt r.p 0 4)
    else s.toLane r (s.attestBody (if bitOf (fieldAt r.p 4 1) 0 then s.partIds else [r.hdr.part.val])
      (bitOf (fieldAt r.p 4 1) 0) (slice r.p 8 32)) := by
  refine if_neg ?_
  rw [Bool.and_eq_true, Bool.not_eq_true']
  rintro ⟨all, fabric⟩
  exact Bool.false_ne_true (fabric.symm.trans (may all))

/-! ### VERIFY_PACKAGE and INSTALL_PATCH (R406, R407) -/

theorem packageBody_of_field (high : 1 < fieldAt r.p 0 1) : packageBody s r = .done s stBadField [] := if_pos high

theorem packageBody_of_ok (low : fieldAt r.p 0 1 ≤ 1) : packageBody s r =
    if (s.part r.hdr.part.val).owner.isNone then .done s stWrongState []
    else s.toLane r (s.part r.hdr.part.val).ownerBytes := if_neg (Nat.not_lt.2 low)

theorem patchBody_of_length (wrong : fieldAt r.p 8 4 = 0 ∨ 2 ^ 20 < fieldAt r.p 8 4) :
    patchBody s r = .done s stBadField [] := if_pos wrong

theorem patchBody_of_ok (some_ : 0 < fieldAt r.p 8 4) (short : fieldAt r.p 8 4 ≤ 2 ^ 20) : patchBody s r =
    if !(s.part r.hdr.part.val).exists_ then .done s stWrongState [] else s.toLane r [] := if_neg (by omega)

/-! ### REGISTER_OWNER_KEY (R404) -/

/-- The fields of REGISTER_OWNER_KEY are good: the parameter set, the padding of the key, and an envelope exactly where a
key is registered. -/
def State.ownerFields (s : State) (r : Req) : Prop :=
  fieldAt r.p 1 1 ≤ 2 ∧ allZero ((r.p.drop 16).drop (keyBytes (fieldAt r.p 1 1))) = true ∧
    ((s.part r.hdr.part.val).owner = none ↔ fieldAt r.p 8 5 = 0)

/-- The partition has an image recorded. -/
def State.hasImage (s : State) (p : Nat) : Prop := ∃ i m, (i, some m) ∈ s.images ∧ m.part = p

theorem any_image_iff (s : State) (p : Nat) : (s.images.any fun i => match i.2 with
    | some m => m.part == p
    | none => false) = true ↔ s.hasImage p := by
  rw [List.any_eq_true]
  constructor
  · rintro ⟨⟨i, x⟩, mem, own⟩
    cases x with
    | none => exact absurd own Bool.false_ne_true
    | some m => exact ⟨i, m, mem, eq_of_beq own⟩
  · rintro ⟨i, m, mem, own⟩
    exact ⟨(i, some m), mem, beq_iff_eq.2 own⟩

theorem ownerFields_iff : s.ownerFields r ↔ ¬ (2 < fieldAt r.p 1 1 ∨
    (!allZero ((r.p.drop 16).drop (keyBytes (fieldAt r.p 1 1)))) = true ∨
    ((s.part r.hdr.part.val).owner.isNone = true ∧ fieldAt r.p 8 5 ≠ 0) ∨
    ((s.part r.hdr.part.val).owner.isSome = true ∧ fieldAt r.p 8 5 = 0)) := by
  rw [State.ownerFields]
  cases (s.part r.hdr.part.val).owner with
  | none => simp
  | some k => simp

theorem ownerKeyBody_of_fields (wrong : ¬ s.ownerFields r) : ownerKeyBody s r = .done s stBadField [] := by
  rw [ownerFields_iff, not_not] at wrong
  exact if_pos wrong

theorem ownerKeyBody_of_ok (ok : s.ownerFields r) : ownerKeyBody s r =
    if bitOf (fieldAt r.p 0 1) 0 && s.images.any (fun i => match i.2 with
      | some m => m.part == r.hdr.part.val
      | none => false) then .done s stWrongState []
    else s.toLane r (s.part r.hdr.part.val).ownerBytes := if_neg (ownerFields_iff.1 ok)

theorem ownerKeyBody_of_recorded (ok : s.ownerFields r) (only : bitOf (fieldAt r.p 0 1) 0 = true)
    (recorded : s.hasImage r.hdr.part.val) : ownerKeyBody s r = .done s stWrongState [] := by
  rw [ownerKeyBody_of_ok ok, if_pos]
  rw [only, (any_image_iff s _).2 recorded]
  rfl

theorem ownerKeyBody_of_passed (ok : s.ownerFields r)
    (free : bitOf (fieldAt r.p 0 1) 0 = false ∨ ¬ s.hasImage r.hdr.part.val) :
    ownerKeyBody s r = s.toLane r (s.part r.hdr.part.val).ownerBytes := by
  rw [ownerKeyBody_of_ok ok, if_neg]
  rw [Bool.and_eq_true, any_image_iff]
  rintro ⟨only, recorded⟩
  exact free.elim (fun any => Bool.false_ne_true (any.symm.trans only)) fun none_ => none_ recorded

/-! ### PROVENANCE (R409) -/

theorem provenanceCmd_of_later (later : fieldAt r.p 0 4 ≠ 0) :
    provenanceCmd s r = s.window r.src (s.keptResult r.src r.op) (fieldAt r.p 0 4) := if_pos later

theorem provenanceCmd_of_first (first : fieldAt r.p 0 4 = 0) : provenanceCmd s r =
    if s.foreignStream r.hdr.part.val (fieldAt r.p 4 2) then .done s stNotPermitted []
    else if (s.entry (fieldAt r.p 4 2)).status = .closed then .done s stWrongState []
    else s.toLane r (leBytes 4 ((s.entry (fieldAt r.p 4 2)).prov.frames + (s.entry (fieldAt r.p 4 2)).prov.waiting.length)) :=
  if_neg (not_not.2 first)

theorem toLane_of_lane1 {carry : Bytes} (is : r.op = 0x74) :
    s.toLane r carry = .wait { s with lane1 := s.lane1 ++ [r.id] } (.lane r.op (r.p ++ carry)) := if_pos is

/-! ### UNLOCK_DEBUG (R411) -/

/-- The partition exists and no other does. -/
def State.alone (s : State) (p : Nat) : Prop := (s.part p).exists_ = true ∧ ∀ q ∈ s.partIds, q = p

theorem not_alone_iff (s : State) (p : Nat) :
    ((!(s.part p).exists_) = true ∨ (s.partIds.any (· != p)) = true) ↔ ¬ s.alone p := by
  rw [State.alone, not_and_or, Bool.not_eq_true, Bool.not_eq_true', List.any_eq_true]
  simp only [bne_iff_ne, not_forall, exists_prop]

theorem unlockBody_of_field (high : 1 < fieldAt r.p 0 1) : unlockBody s r = .done s stBadField [] := by
  unfold unlockBody
  split
  next zero => omega
  next one => omega
  next => rfl

theorem unlockBody_of_draw (zero : fieldAt r.p 0 1 = 0) : unlockBody s r =
    if s.entropyFail then .done { s with challenge := none } stUnitFailed []
    else { s with challenge := none }.toLane r [] := by
  simp only [unlockBody, zero]

theorem unlockBody_of_refused (one : fieldAt r.p 0 1 = 1) (refused : s.challenge = none ∨ ¬ s.alone r.hdr.part.val) :
    unlockBody s r = .done { s with challenge := none } stWrongState [] := by
  rw [← not_alone_iff] at refused
  simp only [unlockBody, one]
  obtain none_ | crowded := refused
  · rw [none_]
    exact ite_self _
  · exact if_pos crowded

theorem unlockBody_of_passed {ch : Bytes} (one : fieldAt r.p 0 1 = 1) (drawn : s.challenge = some ch)
    (alone : s.alone r.hdr.part.val) : unlockBody s r = { s with challenge := none }.toLane r ch := by
  have single := mt (not_alone_iff s r.hdr.part.val).1 (not_not.2 alone)
  simp only [unlockBody, one, drawn]
  exact if_neg single

end

/-- Settles O41: each command by its body above, in the state that has accepted it. -/
theorem securityCommands : Obligations.SecurityCommands := by
  intro src hdr b s n x lane windowed
  obtain ⟨partIds, images, lane0, lane1, challenge, entropy, entry, foreign⟩ := security_accepted s src
  obtain ⟨_, _, _, _, kept⟩ := reports_accepted s src
  obtain ⟨_, _, _, part, _⟩ := accepted_facts s src
  replace kept : n.keptResult = s.keptResult := kept
  replace part : n.part hdr.part.val = x := part hdr.part.val
  have inLane {op : Nat} {c : Instr} {sp : CmdSpec} {carry : Bytes} (other : op ≠ 0x74)
      (instr : commandInstr op src hdr b [] = some c) (spec : specOf op = some sp) (taken : Taken s op sp src hdr b)
      (body : sp.body n (s.request op src hdr b) = n.toLane (s.request op src hdr b) carry) :
      lane op carry (exec c s) := by
    have waits := lane_of_taken instr spec taken other body
    rwa [lane0] at waits
  refine ⟨fun taken => ?attest, fun taken => ?package, fun taken => ?owner, fun taken => ?patch, fun taken => ?prov,
    fun taken => ?unlock⟩
  case attest =>
    refine ⟨fun all fabric => completes_of_taken rfl rfl rfl taken (attestCmd_of_fabric all fabric),
      fun may later => ?_, fun may first => ?_⟩
    · have body : attestCmd n (s.request 0x70 src hdr b) = n.window src (n.keptResult src 0x70) (fieldAt b 0 4) :=
        (attestCmd_of_permitted may).trans (if_pos later)
      rw [kept] at body
      exact windowed_of_taken rfl rfl taken body
    · rw [← partIds]
      exact inLane (by decide) rfl rfl taken ((attestCmd_of_permitted may).trans (if_neg (not_not.2 first)))
  case package =>
    have body (low : fieldAt b 0 1 ≤ 1) : packageBody n (s.request 0x71 src hdr b) =
        if x.owner.isNone then .done n stWrongState [] else n.toLane (s.request 0x71 src hdr b) x.ownerBytes := by
      rw [← part]
      exact packageBody_of_ok low
    refine ⟨fun high => completes_of_taken rfl rfl rfl taken (packageBody_of_field high), fun low none_ => ?_,
      fun low some_ => ?_⟩
    · exact completes_of_taken rfl rfl rfl taken ((body low).trans (if_pos (Option.isNone_iff_eq_none.2 none_)))
    · exact inLane (by decide) rfl rfl taken ((body low).trans (if_neg (mt Option.isNone_iff_eq_none.1 some_)))
  case owner =>
    have fields : n.ownerFields (s.request 0x72 src hdr b) ↔ fieldAt b 1 1 ≤ 2 ∧
        allZero ((b.drop 16).drop (keyBytes (fieldAt b 1 1))) = true ∧ (x.owner = none ↔ fieldAt b 8 5 = 0) := by
      rw [← part]
      rfl
    have recorded : n.hasImage hdr.part.val ↔ ∃ i m, (i, some m) ∈ s.images ∧ m.part = hdr.part.val := by
      rw [State.hasImage, show n.images = s.images from images]
    rw [← part]
    refine ⟨fun wrong => ?_, fun ok only image => ?_, fun ok free => ?_⟩
    · exact completes_of_taken rfl rfl rfl taken (ownerKeyBody_of_fields (mt fields.1 (by rwa [← part])))
    · exact completes_of_taken rfl rfl rfl taken
        (ownerKeyBody_of_recorded (fields.2 (by rwa [← part])) only (recorded.2 image))
    · exact inLane (by decide) rfl rfl taken
        (ownerKeyBody_of_passed (fields.2 (by rwa [← part])) (free.imp_right (mt recorded.1)))
  case patch =>
    have body (some_ : 0 < fieldAt b 8 4) (short : fieldAt b 8 4 ≤ 2 ^ 20) : patchBody n (s.request 0x73 src hdr b) =
        if !x.exists_ then .done n stWrongState [] else n.toLane (s.request 0x73 src hdr b) [] := by
      rw [← part]
      exact patchBody_of_ok some_ short
    refine ⟨fun wrong => completes_of_taken rfl rfl rfl taken (patchBody_of_length wrong), fun some_ short absent => ?_,
      fun some_ short present => ?_⟩
    · exact completes_of_taken rfl rfl rfl taken ((body some_ short).trans (if_pos (by rw [absent]; rfl)))
    · exact inLane (by decide) rfl rfl taken
        ((body some_ short).trans (if_neg (by rw [present]; exact Bool.false_ne_true)))
  case prov =>
    refine ⟨fun later => ?_, fun first other => ?_, fun first own => ⟨fun closed => ?_, fun live => ?_⟩⟩
    · have body : provenanceCmd n (s.request 0x74 src hdr b) = n.window src (n.keptResult src 0x74) (fieldAt b 0 4) :=
        provenanceCmd_of_later later
      rw [kept] at body
      exact windowed_of_taken rfl rfl taken body
    all_goals
      have body : provenanceCmd n (s.request 0x74 src hdr b) = _ := provenanceCmd_of_first first
      rw [show n.foreignStream = s.foreignStream from foreign, show n.entry = s.entry from entry] at body
    · exact completes_of_taken rfl rfl rfl taken (body.trans (if_pos other))
    · exact completes_of_taken rfl rfl rfl taken (body.trans ((if_neg (Bool.eq_false_iff.1 own)).trans (if_pos closed)))
    · have waits := waits_of_taken rfl rfl rfl taken
        (body.trans ((if_neg (Bool.eq_false_iff.1 own)).trans ((if_neg live).trans (toLane_of_lane1 rfl))))
      rwa [lane1] at waits
  case unlock =>
    intro out
    refine ⟨fun high => completes_of_taken rfl rfl rfl taken (unlockBody_of_field high), ?_⟩
    intro u alone unlocks
    have same : n.alone hdr.part.val ↔ alone := by rw [State.alone, part, show n.partIds = s.partIds from partIds]
    have carried {carry : Bytes} (body : unlockBody n (s.request 0x75 src hdr b) =
        u.toLane (s.request 0x75 src hdr b) carry) : unlocks carry := by
      have waits := lane_of_taken (c := .unlockDebug src hdr b) (sp := unlockSpec) rfl rfl taken (by decide) body
      rwa [show u.lane0 = s.lane0 from lane0] at waits
    refine ⟨fun zero => ⟨fun silent => ?_, fun drawn => ?_⟩, fun one refused => ?_, fun ch one drawn single => ?_⟩
    · rw [← entropy] at silent
      exact completes_of_taken rfl rfl rfl taken ((unlockBody_of_draw zero).trans (if_pos silent))
    · rw [← entropy] at drawn
      exact carried ((unlockBody_of_draw zero).trans (if_neg (Bool.eq_false_iff.1 drawn)))
    · rw [← challenge, ← same] at refused
      exact completes_of_taken rfl rfl rfl taken (unlockBody_of_refused one refused)
    · rw [← challenge] at drawn
      exact carried (unlockBody_of_passed one drawn (same.2 single))

end Sys2Proof.Machine
end


section
/-! PROOFS. The lanes of the SHAKE engine (R401 to R412): how a lane ends its first command, the check of an envelope, the
commands that verify signatures, signing, provenance, and the entropy source. -/

namespace Sys2Proof.Machine

/-! ### What a read leaves alone -/

theorem OnlyCaches.cmds {s t : State} (h : OnlyCaches s t) : t.cmds = s.cmds := by rw [h.frame]
theorem OnlyCaches.patchVersion {s t : State} (h : OnlyCaches s t) : t.patchVersion = s.patchVersion := by rw [h.frame]
theorem OnlyCaches.part {s t : State} (h : OnlyCaches s t) (p : Nat) : t.part p = s.part p := by
  rw [h.frame]
  rfl

theorem OnlyCaches.partBytes {s t : State} (h : OnlyCaches s t) (p : Part) (A n : Nat) :
    t.partBytes p A n = s.partBytes p A n := by
  rw [State.partBytes, h.mem, State.partBytes]

/-- The content of a range that may reach beyond the partition, of which nothing is read then. -/
def State.content (s : State) (p : Part) (A n : Nat) : State × Bytes × List Nat :=
  if p.inside A n then s.readPart p .normal A n else (s, [], [])

theorem onlyCaches_content (s : State) (p : Part) (A n : Nat) : OnlyCaches s (s.content p A n).1 := by
  unfold State.content
  split
  · exact onlyCaches_readPart s p .normal A n
  · exact .refl s

theorem content_eq (s : State) (p : Part) (A n : Nat) :
    (if (!p.inside A n) = true then (s, [], []) else s.readPart p .normal A n) = s.content p A n := by
  unfold State.content
  cases p.inside A n <;> rfl

theorem onlyCaches_readEnv (s : State) (p : Part) (A : Nat) : OnlyCaches s (s.readEnv p A).1 := by
  unfold State.readEnv
  split
  · exact .refl s
  · dsimp only
    split
    · exact onlyCaches_readPart s p .normal A 128
    · exact (onlyCaches_readPart s p .normal A 128).trans (onlyCaches_readPart _ p .normal _ _)

theorem onlyCaches_readChain (s : State) (p : Part) (A n : Nat) : OnlyCaches s (s.readChain p A n).1 := by
  unfold State.readChain
  split
  · exact .refl s
  · exact onlyCaches_readPart s p .normal A n

/-! ### How a lane ends its first command (R402) -/

section
variable {s : State} {lane : Bool} {c : Cmd}

/-- The first command of a lane is in progress. -/
theorem found_of_first (first : (s.laneCmds lane).head? = some c) : s.cmds.find? (·.id == c.id) = some c := by
  have mem : c ∈ s.laneCmds lane := List.mem_of_mem_head? first
  obtain ⟨id, _, found⟩ := List.mem_filterMap.1 mem
  have own : c.id = id := eq_of_beq (List.find?_some (p := fun x : Cmd => x.id == id) found)
  rwa [own]

/-- A lane whose first command has ended turns to those after it. -/
def State.turnedFrom (s : State) (lane : Bool) (t : State) : State := t.setLane lane ((s.laneCmds lane).tail.map (·.id))

theorem laneDone_of_first {op : Nat} {b : Bytes} {r : CmdRes} (first : (s.laneCmds lane).head? = some c)
    (waits : c.wait = .lane op b) (result : s.laneResult c b = some r) :
    s.laneDone lane = s.turnedFrom lane (laneEnds c r) := by
  obtain ⟨rest, lined⟩ : ∃ rest, s.laneCmds lane = c :: rest := by
    cases cmds : s.laneCmds lane with
    | nil => rw [cmds] at first; cases first
    | cons x rest => rw [cmds] at first; cases first; exact ⟨rest, rfl⟩
  simp only [State.laneDone, lined, waits, result, State.turnedFrom, List.tail_cons]

/-- A command whose result is final ends with it. -/
theorem laneEnds_of_done {u : State} (found : s.cmds.find? (·.id == c.id) = some c) (same : u.cmds = s.cmds) (st : BitVec 16)
    (res : Bytes) : laneEnds c (.done u st res) = u.ended c st res := finishCmd_of_found (by rwa [same]) st res

end

/-- The first command of lane 0 ends with its result. -/
theorem exec_shakeLaneDone_of_done {s u : State} {c : Cmd} {op : Nat} {b : Bytes} {st : BitVec 16} {res : Bytes}
    (first : (s.laneCmds false).head? = some c) (waits : c.wait = .lane op b) (same : u.cmds = s.cmds)
    (result : s.laneResult c b = some (.done u st res)) :
    exec .shakeLaneDone s = .next { u.ended c st res with lane0 := (s.laneCmds false).tail.map (·.id) } := by
  refine congrArg Host.Outcome.next ((laneDone_of_first first waits result).trans ?_)
  rw [laneEnds_of_done (found_of_first first) same]
  rfl

/-! ### The check of an envelope, and the commands that verify (R401, R404, R406, R407, R411)

The checker, comparing a body with what it unfolds to, would run the check of an envelope. So each body is taken from an
equation between functions, the reads and the checks that it makes are named, and all its arms are said at once. -/

theorem verify_arms {s : State} {p : Part} {A : Nat} {e : State × Bytes × Bytes} (env : s.readEnv p A = e) (c : Claim) :
    (∀ st, envCheck p A c e.2.1 e.2.2 = some st → s.verify p A c = (e.1.bump (secBase + 8) 0 32 1, some st)) ∧
    (envCheck p A c e.2.1 e.2.2 = none → s.verify p A c = (e.1, none)) := by
  generalize unfolded : @State.verify = body
  delta State.verify at unfolded
  subst unfolded
  dsimp only
  rw [env]
  generalize envCheck p A c e.2.1 e.2.2 = check
  exact ⟨fun st failed => by rw [failed], fun passed => by rw [passed]⟩

section
variable (s : State) (part : Nat) (b : Bytes)

/-- What the envelope of VERIFY_PACKAGE must say of the content that was read. -/
def packageClaim (p : Part) (b : Bytes) (rd : State × Bytes × List Nat) : Claim :=
  { kind := 2, len := fieldAt b 16 8, content := rd.2.1, outside := !p.inside (fieldAt b 8 5) (fieldAt b 16 8),
    bad := !rd.2.2.isEmpty, signer := carriedKey b 32 }

/-- A package is recorded when it is asked for and there is room. -/
def Part.keepsPackage (p : Part) (b : Bytes) : Bool := fieldAt b 0 1 == 0 && decide (p.packages.length < 64)

theorem packageDone_arms {rd : State × Bytes × List Nat}
    (read : s.content (s.part part) (fieldAt b 8 5) (fieldAt b 16 8) = rd) (u : State) :
    (∀ st, rd.1.verify (s.part part) (fieldAt b 24 5) (packageClaim (s.part part) b rd) = (u, some st) →
      s.packageDone part b = .done u st []) ∧
    (rd.1.verify (s.part part) (fieldAt b 24 5) (packageClaim (s.part part) b rd) = (u, none) →
      s.packageDone part b = .done (if (s.part part).keepsPackage b then
          u.modPart part fun x => { x with packages := x.packages ++ [digest rd.2.1] } else u) stOk
        (digest rd.2.1 ++ leBytes 1 (b2n ((s.part part).keepsPackage b)) ++ leBytes 3 0)) := by
  rw [← content_eq] at read
  generalize unfolded : @State.packageDone = body
  delta State.packageDone at unfolded
  obtain ⟨verify, named⟩ : ∃ f, @State.verify = f := exists_eq'
  rw [named] at unfolded ⊢
  subst unfolded
  dsimp only [packageClaim]
  rw [read]
  refine ⟨fun st refused => ?_, fun passed => ?_⟩
  · rw [refused]
  · rw [passed]
    rfl

/-- What the envelope over a new owner key must say. -/
def keyClaim (b : Bytes) (k : Signer) : Claim :=
  { kind := 1, len := 65, content := keyRecord (fieldAt b 1 1) (slice b 16 64), signer := some k }

/-- The key that REGISTER_OWNER_KEY names becomes the partition's. -/
def State.registerKey (s : State) (part : Nat) (b : Bytes) : State :=
  s.modPart part fun x =>
    { x with owner := some (fieldAt b 1 1, slice b 16 64), signedOnly := x.signedOnly || bitOf (fieldAt b 0 1) 0 }

theorem ownerKeyDone_arms :
    (carriedKey b 80 = none → s.ownerKeyDone part b = .done (s.registerKey part b) stOk []) ∧
    (∀ k, carriedKey b 80 = some k →
      (∀ u st, s.verify (s.part part) (fieldAt b 8 5) (keyClaim b k) = (u, some st) →
        s.ownerKeyDone part b = .done u st []) ∧
      (∀ u, s.verify (s.part part) (fieldAt b 8 5) (keyClaim b k) = (u, none) →
        s.ownerKeyDone part b = .done (u.registerKey part b) stOk [])) := by
  generalize unfolded : @State.ownerKeyDone = body
  delta State.ownerKeyDone at unfolded
  obtain ⟨verify, named⟩ : ∃ f, @State.verify = f := exists_eq'
  rw [named] at unfolded ⊢
  subst unfolded
  dsimp only [keyClaim]
  refine ⟨fun none_ => ?_, fun k key => ?_⟩
  · rw [none_]
    rfl
  · rw [key]
    dsimp only
    refine ⟨fun u st refused => ?_, fun u passed => ?_⟩
    · rw [refused]
    · rw [passed]
      rfl

/-- What the envelope over a patch must say of the content that was read. -/
def patchClaim (p : Part) (b : Bytes) (rd : State × Bytes × List Nat) (k : Signer) : Claim :=
  { kind := 0, len := fieldAt b 8 4, content := rd.2.1, outside := !p.inside (fieldAt b 0 5) (fieldAt b 8 4),
    bad := !rd.2.2.isEmpty, signer := some k }

/-- The version that the envelope of a patch names. -/
def State.patchNumber (s : State) (p : Part) (b : Bytes) : Word :=
  BitVec.ofNat 32 (leNat (s.partBytes p (fieldAt b 16 5 + 16) 4))

theorem patchDone_of_chain {u : State} {st : BitVec 16}
    (chain : s.readChain (s.part part) (fieldAt b 24 5) (fieldAt b 32 4) = (u, .inl st)) :
    s.patchDone part b = .done u st [] := by
  generalize unfolded : @State.patchDone = body
  delta State.patchDone at unfolded
  obtain ⟨verify, named⟩ : ∃ f, @State.verify = f := exists_eq'
  rw [named] at unfolded
  obtain ⟨readChain, named'⟩ : ∃ f, @State.readChain = f := exists_eq'
  rw [named'] at unfolded chain
  subst unfolded
  dsimp only
  rw [chain]

theorem patchDone_arms {t : State} {k : Signer}
    (chain : s.readChain (s.part part) (fieldAt b 24 5) (fieldAt b 32 4) = (t, .inr k)) {rd : State × Bytes × List Nat}
    (read : t.content (s.part part) (fieldAt b 0 5) (fieldAt b 8 4) = rd) (u : State) :
    (∀ st, rd.1.verify (s.part part) (fieldAt b 16 5) (patchClaim (s.part part) b rd k) = (u, some st) →
      s.patchDone part b = .done u st []) ∧
    (rd.1.verify (s.part part) (fieldAt b 16 5) (patchClaim (s.part part) b rd k) = (u, none) → s.patchDone part b =
      if u.patchNumber (s.part part) b ≤ u.patchVersion then .done u stNotPermitted []
      else .done { u with patchVersion := u.patchNumber (s.part part) b, patchDigest := digest rd.2.1 } stOk []) := by
  rw [← content_eq] at read
  generalize unfolded : @State.patchDone = body
  delta State.patchDone at unfolded
  obtain ⟨verify, named⟩ : ∃ f, @State.verify = f := exists_eq'
  rw [named] at unfolded ⊢
  obtain ⟨readChain, named'⟩ : ∃ f, @State.readChain = f := exists_eq'
  rw [named'] at unfolded chain
  subst unfolded
  dsimp only [patchClaim]
  rw [chain]
  dsimp only
  rw [read]
  refine ⟨fun st refused => ?_, fun passed => ?_⟩
  · rw [refused]
  · rw [passed]
    rfl

/-- What the envelope over a challenge must say. -/
def unlockClaim (b : Bytes) (k : Signer) : Claim :=
  { kind := 4, len := 0, content := [], signer := some k, nonce := some (b.drop 24) }

theorem unlock_of_chain {u : State} {st : BitVec 16}
    (chain : s.readChain (s.part part) (fieldAt b 12 5) (fieldAt b 20 4) = (u, .inl st)) :
    s.unlock part b = .done u st [] := by
  generalize unfolded : @State.unlock = body
  delta State.unlock at unfolded
  obtain ⟨verify, named⟩ : ∃ f, @State.verify = f := exists_eq'
  rw [named] at unfolded
  obtain ⟨readChain, named'⟩ : ∃ f, @State.readChain = f := exists_eq'
  rw [named'] at unfolded chain
  subst unfolded
  dsimp only
  rw [chain]

theorem unlock_arms {t : State} {k : Signer}
    (chain : s.readChain (s.part part) (fieldAt b 12 5) (fieldAt b 20 4) = (t, .inr k)) (u : State) :
    (∀ st, t.verify (s.part part) (fieldAt b 4 5) (unlockClaim b k) = (u, some st) → s.unlock part b = .done u st []) ∧
    (t.verify (s.part part) (fieldAt b 4 5) (unlockClaim b k) = (u, none) →
      s.unlock part b = .done { u with debug := true } stOk []) := by
  generalize unfolded : @State.unlock = body
  delta State.unlock at unfolded
  obtain ⟨verify, named⟩ : ∃ f, @State.verify = f := exists_eq'
  rw [named] at unfolded ⊢
  obtain ⟨readChain, named'⟩ : ∃ f, @State.readChain = f := exists_eq'
  rw [named'] at unfolded chain
  subst unfolded
  dsimp only [unlockClaim]
  rw [chain]
  dsimp only
  exact ⟨fun st refused => by rw [refused], fun passed => by rw [passed]⟩

theorem unlockDone_of_draw {b : Bytes} (zero : fieldAt b 0 1 = 0) : s.unlockDone part b = s.newChallenge := if_pos zero

theorem unlockDone_of_open {b : Bytes} (one : fieldAt b 0 1 ≠ 0) : s.unlockDone part b = s.unlock part b := if_neg one

end

/-! ### What a lane's end does, by opcode -/

section
variable {s : State} {c : Cmd} {b : Bytes}

theorem laneResult_of_load (op : c.opcode = 0x20) : s.laneResult c b = some (s.loadDone c.part b) := by
  rw [State.laneResult, op]
  rfl

theorem laneResult_of_admit (op : c.opcode = 0x21) : s.laneResult c b = some (s.admitDone c.part b) := by
  rw [State.laneResult, op]
  rfl

theorem laneResult_of_attest (op : c.opcode = 0x70) :
    s.laneResult c b = some (s.signDone c.src c.opcode (b.drop 40)) := by
  rw [State.laneResult, op]
  rfl

theorem laneResult_of_package (op : c.opcode = 0x71) : s.laneResult c b = some (s.packageDone c.part b) := by
  rw [State.laneResult, op]
  rfl

theorem laneResult_of_owner (op : c.opcode = 0x72) : s.laneResult c b = some (s.ownerKeyDone c.part b) := by
  rw [State.laneResult, op]
  rfl

theorem laneResult_of_patch (op : c.opcode = 0x73) : s.laneResult c b = some (s.patchDone c.part b) := by
  rw [State.laneResult, op]
  rfl

theorem laneResult_of_provenance (op : c.opcode = 0x74) (hashed : s.provReady b = true) : s.laneResult c b =
    some ((s.manifest (fieldAt b 4 2) (slice b 8 32)).2.signDone c.src c.opcode
      (s.manifest (fieldAt b 4 2) (slice b 8 32)).1) := by
  rw [State.laneResult, op]
  exact if_pos hashed

theorem laneResult_of_unlock (op : c.opcode = 0x75) : s.laneResult c b = some (s.unlockDone c.part b) := by
  rw [State.laneResult, op]
  rfl

end

/-! ### Lane 0 ends a command that verifies -/

section
variable {s : State} {c : Cmd} {b : Bytes} (first : (s.laneCmds false).head? = some c) (waits : c.wait = .lane c.opcode b)
include first waits

/-- From u on, nothing but what reads change having changed before, lane 0 ends the command with a status and results. -/
def LaneEnds (s : State) (c : Cmd) (u : State) (st : BitVec 16) (res : Bytes) : Prop :=
  exec .shakeLaneDone s = .next { u.ended c st res with lane0 := (s.laneCmds false).tail.map (·.id) }

theorem laneEnds_of_caches {u : State} {st : BitVec 16} {res : Bytes} (only : OnlyCaches s u)
    (result : s.laneResult c b = some (.done u st res)) : LaneEnds s c u st res :=
  exec_shakeLaneDone_of_done first waits only.cmds result

section
variable {p : Part} (is : s.part c.part = p)
include is

theorem packageEnds (op : c.opcode = 0x71) {rd : State × Bytes × List Nat}
    (read : s.content p (fieldAt b 8 5) (fieldAt b 16 8) = rd) {e : State × Bytes × Bytes}
    (env : rd.1.readEnv p (fieldAt b 24 5) = e) :
    (∀ st, envCheck p (fieldAt b 24 5) (packageClaim p b rd) e.2.1 e.2.2 = some st →
      LaneEnds s c (e.1.bump (secBase + 8) 0 32 1) st []) ∧
    (envCheck p (fieldAt b 24 5) (packageClaim p b rd) e.2.1 e.2.2 = none →
      (p.keepsPackage b = true → LaneEnds s c (e.1.modPart c.part fun x =>
        { x with packages := p.packages ++ [digest rd.2.1] }) stOk (digest rd.2.1 ++ leBytes 1 1 ++ leBytes 3 0)) ∧
      (p.keepsPackage b = false → LaneEnds s c e.1 stOk (digest rd.2.1 ++ leBytes 1 0 ++ leBytes 3 0))) := by
  subst is
  obtain ⟨bad, good⟩ := verify_arms env (packageClaim (s.part c.part) b rd)
  have only : OnlyCaches s e.1 := by
    rw [← env, ← read]
    exact (onlyCaches_content s _ _ _).trans (onlyCaches_readEnv _ _ _)
  refine ⟨fun st failed => ?_, fun ok => ?_⟩
  · exact laneEnds_of_caches first waits (only.trans (onlyCaches_bump _ _ _ _ _))
      ((laneResult_of_package op).trans (congrArg some ((packageDone_arms s c.part b read _).1 st (bad st failed))))
  · have result := (laneResult_of_package (s := s) (b := b) op).trans
      (congrArg some ((packageDone_arms s c.part b read _).2 (good ok)))
    have added : (e.1.modPart c.part fun x => { x with packages := (s.part c.part).packages ++ [digest rd.2.1] }) =
        e.1.modPart c.part fun x => { x with packages := x.packages ++ [digest rd.2.1] } := by
      rw [modPart_eq, modPart_eq, only.part]
    rw [added]
    refine ⟨fun room => ?_, fun full => ?_⟩
    · rw [room, if_pos rfl] at result
      exact exec_shakeLaneDone_of_done first waits only.cmds result
    · rw [full, if_neg Bool.false_ne_true] at result
      exact laneEnds_of_caches first waits only result

theorem ownerKeyEnds (op : c.opcode = 0x72) :
    (carriedKey b 80 = none → LaneEnds s c (s.registerKey c.part b) stOk []) ∧
    (∀ k, carriedKey b 80 = some k → ∀ {e : State × Bytes × Bytes}, s.readEnv p (fieldAt b 8 5) = e →
      (∀ st, envCheck p (fieldAt b 8 5) (keyClaim b k) e.2.1 e.2.2 = some st →
        LaneEnds s c (e.1.bump (secBase + 8) 0 32 1) st []) ∧
      (envCheck p (fieldAt b 8 5) (keyClaim b k) e.2.1 e.2.2 = none →
        LaneEnds s c (e.1.registerKey c.part b) stOk [])) := by
  subst is
  obtain ⟨unsigned, signed⟩ := ownerKeyDone_arms s c.part b
  refine ⟨fun none_ => ?_, fun k key e env => ?_⟩
  · exact exec_shakeLaneDone_of_done (u := s.registerKey c.part b) first waits rfl
      ((laneResult_of_owner op).trans (congrArg some (unsigned none_)))
  · obtain ⟨refused, passed⟩ := signed k key
    obtain ⟨bad, good⟩ := verify_arms env (keyClaim b k)
    have only : OnlyCaches s e.1 := env ▸ onlyCaches_readEnv _ _ _
    refine ⟨fun st failed => ?_, fun ok => ?_⟩
    · exact laneEnds_of_caches first waits (only.trans (onlyCaches_bump _ _ _ _ _))
        ((laneResult_of_owner op).trans (congrArg some (refused _ st (bad st failed))))
    · exact exec_shakeLaneDone_of_done (u := e.1.registerKey c.part b) first waits only.cmds
        ((laneResult_of_owner op).trans (congrArg some (passed _ (good ok))))

theorem patchEnds_of_chain (op : c.opcode = 0x73) {u : State} {st : BitVec 16}
    (chain : s.readChain p (fieldAt b 24 5) (fieldAt b 32 4) = (u, .inl st)) : LaneEnds s c u st [] := by
  subst is
  have only : OnlyCaches s u := by
    have read := onlyCaches_readChain s (s.part c.part) (fieldAt b 24 5) (fieldAt b 32 4)
    rwa [chain] at read
  exact laneEnds_of_caches first waits only
    ((laneResult_of_patch op).trans (congrArg some (patchDone_of_chain s c.part b chain)))

theorem patchEnds (op : c.opcode = 0x73) {t : State} {k : Signer}
    (chain : s.readChain p (fieldAt b 24 5) (fieldAt b 32 4) = (t, .inr k)) {rd : State × Bytes × List Nat}
    (read : t.content p (fieldAt b 0 5) (fieldAt b 8 4) = rd) {e : State × Bytes × Bytes}
    (env : rd.1.readEnv p (fieldAt b 16 5) = e) :
    (∀ st, envCheck p (fieldAt b 16 5) (patchClaim p b rd k) e.2.1 e.2.2 = some st →
      LaneEnds s c (e.1.bump (secBase + 8) 0 32 1) st []) ∧
    (envCheck p (fieldAt b 16 5) (patchClaim p b rd k) e.2.1 e.2.2 = none →
      (s.patchNumber p b ≤ s.patchVersion → LaneEnds s c e.1 stNotPermitted []) ∧
      (s.patchVersion < s.patchNumber p b →
        LaneEnds s c { e.1 with patchVersion := s.patchNumber p b, patchDigest := digest rd.2.1 } stOk [])) := by
  subst is
  obtain ⟨bad, good⟩ := verify_arms env (patchClaim (s.part c.part) b rd k)
  have only : OnlyCaches s e.1 := by
    have chained := onlyCaches_readChain s (s.part c.part) (fieldAt b 24 5) (fieldAt b 32 4)
    rw [chain] at chained
    rw [← env, ← read]
    exact (chained.trans (onlyCaches_content t _ _ _)).trans (onlyCaches_readEnv _ _ _)
  have arms := patchDone_arms s c.part b chain read
  refine ⟨fun st failed => ?_, fun ok => ?_⟩
  · exact laneEnds_of_caches first waits (only.trans (onlyCaches_bump _ _ _ _ _))
      ((laneResult_of_patch op).trans (congrArg some ((arms _).1 st (bad st failed))))
  · have result := (laneResult_of_patch (s := s) (b := b) op).trans (congrArg some ((arms _).2 (good ok)))
    have number : e.1.patchNumber (s.part c.part) b = s.patchNumber (s.part c.part) b := by
      rw [State.patchNumber, only.partBytes, State.patchNumber]
    rw [number, only.patchVersion] at result
    refine ⟨fun older => ?_, fun newer => ?_⟩
    · rw [if_pos older] at result
      exact laneEnds_of_caches first waits only result
    · rw [if_neg (BitVec.not_le.2 newer)] at result
      exact exec_shakeLaneDone_of_done first waits only.cmds result

theorem unlockEnds_of_chain (op : c.opcode = 0x75) (one : fieldAt b 0 1 ≠ 0) {u : State} {st : BitVec 16}
    (chain : s.readChain p (fieldAt b 12 5) (fieldAt b 20 4) = (u, .inl st)) : LaneEnds s c u st [] := by
  subst is
  have only : OnlyCaches s u := by
    have read := onlyCaches_readChain s (s.part c.part) (fieldAt b 12 5) (fieldAt b 20 4)
    rwa [chain] at read
  exact laneEnds_of_caches first waits only ((laneResult_of_unlock op).trans
    (congrArg some ((unlockDone_of_open s c.part one).trans (unlock_of_chain s c.part b chain))))

theorem unlockEnds (op : c.opcode = 0x75) (one : fieldAt b 0 1 ≠ 0) {t : State} {k : Signer}
    (chain : s.readChain p (fieldAt b 12 5) (fieldAt b 20 4) = (t, .inr k)) {e : State × Bytes × Bytes}
    (env : t.readEnv p (fieldAt b 4 5) = e) :
    (∀ st, envCheck p (fieldAt b 4 5) (unlockClaim b k) e.2.1 e.2.2 = some st →
      LaneEnds s c (e.1.bump (secBase + 8) 0 32 1) st []) ∧
    (envCheck p (fieldAt b 4 5) (unlockClaim b k) e.2.1 e.2.2 = none →
      LaneEnds s c { e.1 with debug := true } stOk []) := by
  subst is
  obtain ⟨bad, good⟩ := verify_arms env (unlockClaim b k)
  have only : OnlyCaches s e.1 := by
    have chained := onlyCaches_readChain s (s.part c.part) (fieldAt b 12 5) (fieldAt b 20 4)
    rw [chain] at chained
    rw [← env]
    exact chained.trans (onlyCaches_readEnv _ _ _)
  have arms := unlock_arms s c.part b chain
  have opens := (laneResult_of_unlock (s := s) (b := b) op).trans (congrArg some (unlockDone_of_open s c.part one))
  refine ⟨fun st failed => ?_, fun ok => ?_⟩
  · exact laneEnds_of_caches first waits (only.trans (onlyCaches_bump _ _ _ _ _))
      (opens.trans (congrArg some ((arms _).1 st (bad st failed))))
  · exact exec_shakeLaneDone_of_done first waits only.cmds (opens.trans (congrArg some ((arms _).2 (good ok))))

end

/-- OP 0 of UNLOCK_DEBUG (R411): two draws are the challenge. -/
theorem drawEnds (op : c.opcode = 0x75) (zero : fieldAt b 0 1 = 0) :
    (s.entropyFail = true → LaneEnds s c s stUnitFailed []) ∧
    (s.entropyFail = false →
      LaneEnds s c { s.draw.2.draw.2 with
          challenge := some (leBytes 16 s.draw.1.toNat ++ leBytes 16 s.draw.2.draw.1.toNat) } stOk
        (leBytes 16 s.draw.1.toNat ++ leBytes 16 s.draw.2.draw.1.toNat)) := by
  have draws := (laneResult_of_unlock (s := s) (b := b) op).trans (congrArg some (unlockDone_of_draw s c.part zero))
  refine ⟨fun fails => ?_, fun well => ?_⟩
  · exact laneEnds_of_caches first waits (.refl s) (draws.trans (congrArg some (if_pos fails)))
  · exact exec_shakeLaneDone_of_done (u := { s.draw.2.draw.2 with
      challenge := some (leBytes 16 s.draw.1.toNat ++ leBytes 16 s.draw.2.draw.1.toNat) }) first waits rfl
      (draws.trans (congrArg some (if_neg (Bool.not_eq_true _ ▸ well))))

end

theorem keepsPackage_iff {p : Part} {b : Bytes} :
    p.keepsPackage b = true ↔ fieldAt b 0 1 = 0 ∧ p.packages.length < 64 := by
  rw [Part.keepsPackage, Bool.and_eq_true, beq_iff_eq, decide_eq_true_iff]

/-- Lane 0 ends the commands that verify. -/
theorem shakeLane : Claims.ShakeLane := by
  intro c b s other first waits
  refine ⟨fun op => ?_, fun op => ?_, fun op => ?_, fun op => ⟨drawEnds first waits op, fun one => ⟨?_, ?_⟩⟩⟩
  · obtain ⟨failed, passed⟩ := packageEnds first waits rfl op rfl rfl
    refine ⟨failed, fun ok => ⟨fun keep => (passed ok).1 (keepsPackage_iff.2 keep), fun full => (passed ok).2 ?_⟩⟩
    exact Bool.eq_false_iff.2 (mt keepsPackage_iff.1 full)
  · obtain ⟨unsigned, signed⟩ := ownerKeyEnds first waits rfl op
    exact ⟨unsigned, fun k key => signed k key rfl⟩
  · exact ⟨fun st is => patchEnds_of_chain first waits rfl op (Prod.ext rfl is),
      fun k is => patchEnds first waits rfl op (Prod.ext rfl is) rfl rfl⟩
  · exact fun st is => unlockEnds_of_chain first waits rfl op one (Prod.ext rfl is)
  · exact fun k is => unlockEnds first waits rfl op one (Prod.ext rfl is) rfl

end Sys2Proof.Machine
end

section
/-! PROOFS. What the lanes of the SHAKE engine sign and hash (R402, R408 to R410), and the entropy source (R412). -/

namespace Sys2Proof.Machine

/-! ### Signing (R398, R402, R408) -/

/-- The state once a signature is counted and the signed result is kept for later windows. -/
def State.keepSigned (s : State) (src : Src) (op : Nat) (res : Bytes) : State :=
  (s.bump (secBase + 4) 0 32 1).keepResult src op res

section
variable {s : State} {src : Src} {op : Nat} {b res : Bytes} (signs : signed_ b = res)
include signs

theorem signDone_of_more (more : (res.take (resultLimit src)).length < res.length) :
    s.signDone src op b = .trunc (s.keepSigned src op res) (res.take (resultLimit src)) := by
  rw [List.length_take] at more
  rw [State.signDone, signs]
  exact window_of_more (off := 0) (by omega)

theorem signDone_of_whole (some_ : b ≠ []) (whole : (res.take (resultLimit src)).length = res.length) :
    s.signDone src op b = .done (s.keepSigned src op res) stOk (res.take (resultLimit src)) := by
  have inside : 0 < res.length := by
    rw [← signs, signed_, List.length_append]
    have := List.length_pos_iff.2 some_
    omega
  rw [List.length_take] at whole
  rw [State.signDone, signs, List.take_of_length_le (by omega)]
  exact window_of_last (off := 0) inside (by omega)

end

/-- A lane that has signed for its first command returns the result's first window. -/
theorem laneDone_of_signed {s u : State} {lane : Bool} {c : Cmd} {b report res : Bytes}
    (first : (s.laneCmds lane).head? = some c) (waits : c.wait = .lane c.opcode b) (same : u.cmds = s.cmds)
    (result : s.laneResult c b = some (u.signDone c.src c.opcode report)) (signs : signed_ report = res) :
    (report ≠ [] → (res.take (resultLimit c.src)).length < res.length →
      s.laneDone lane = s.turnedFrom lane (({ u.keepSigned c.src c.opcode res with
          cmds := (u.keepSigned c.src c.opcode res).cmds.filter (·.id != c.id) }.reply c.src c.opcode c.tag c.part stOk
        (res.take (resultLimit c.src)) true).settleFences)) ∧
    (report ≠ [] → (res.take (resultLimit c.src)).length = res.length →
      s.laneDone lane = s.turnedFrom lane
        ((u.keepSigned c.src c.opcode res).ended c stOk (res.take (resultLimit c.src)))) := by
  refine ⟨fun _ more => ?_, fun some_ whole => ?_⟩
  · rw [signDone_of_more signs more] at result
    exact laneDone_of_first first waits result
  · rw [signDone_of_whole signs some_ whole] at result
    rw [laneDone_of_first first waits result,
      laneEnds_of_done (u := u.keepSigned c.src c.opcode res) (found_of_first first) same]

theorem laneDone_of_none {s : State} (none_ : s.lane0 = []) : s.laneDone false = s := by
  have cmds : s.laneCmds false = [] := by
    show s.lane0.filterMap _ = []
    rw [none_]
    rfl
  rw [State.laneDone, cmds]
  show { s with lane0 := [] } = s
  rw [← none_]

/-! ### Provenance (R409, R410) -/

theorem cmds_freeBytes (n : Nat) (s : State) : (s.freeBytes n).2.cmds = s.cmds := by
  induction n generalizing s with
  | zero => rfl
  | succ n ih => exact ih s.draw.2

/-- The free bytes of a manifest are drawn; nothing else of the state changes. -/
theorem cmds_manifest (s : State) (i : Nat) (nonce : Bytes) : (s.manifest i nonce).2.cmds = s.cmds := by
  generalize unfolded : @State.manifest = body
  delta State.manifest at unfolded
  obtain ⟨free, named⟩ : ∃ f, @State.freeBytes = f := exists_eq'
  have keeps : ∀ n t, (free n t).2.cmds = t.cmds := named ▸ cmds_freeBytes
  rw [named] at unfolded
  subst unfolded
  have time : (if (s.entry i).prov.frames = 0 then free 6 s
      else (leBytes 6 (s.entry i).prov.endTime.toNat, s)).2.cmds = s.cmds := by
    split
    · exact keeps 6 s
    · rfl
  dsimp only
  split
  · split
    · exact time
    · exact (keeps _ _).trans time
  · exact (keeps _ _).trans time

theorem provReady_iff {s : State} {b : Bytes} {i : Nat} (of : fieldAt b 4 2 = i) : s.provReady b = true ↔
    (s.entry i).prov.waiting = [] ∨ fieldAt b 40 4 ≤ (s.entry i).prov.frames := by
  rw [State.provReady, of, Bool.or_eq_true, List.isEmpty_iff, decide_eq_true_iff]

theorem provDue_iff {s : State} {i : Nat} : s.provDue i = true ↔
    ∃ (c : Cmd) (op : Nat) (b : Bytes), (s.laneCmds true).head? = some c ∧ c.wait = .lane op b ∧ fieldAt b 4 2 = i ∧
      ((s.entry i).prov.waiting = [] ∨ fieldAt b 40 4 ≤ (s.entry i).prov.frames) := by
  constructor
  · intro due
    rw [State.provDue] at due
    split at due
    · rename_i c rest cmds
      split at due
      · rename_i op b waits
        obtain ⟨of, ready⟩ := Bool.and_eq_true_iff.1 due
        have of := eq_of_beq of
        exact ⟨c, op, b, by rw [cmds, List.head?_cons], waits, of, (provReady_iff of).1 ready⟩
      · cases due
    · cases due
  · rintro ⟨c, op, b, first, waits, of, ready⟩
    cases cmds : s.laneCmds true with
    | nil => rw [cmds] at first; cases first
    | cons x rest =>
      rw [cmds] at first
      cases first
      simp only [State.provDue, cmds, waits, of, beq_self_eq_true, Bool.true_and, (provReady_iff of).2 ready]

theorem exec_provenanceHash_of_due {s : State} {i : Fin 4096} (due : s.provDue i.val = true) :
    exec (.provenanceHash i) s = .next (s.laneDone true) := congrArg Host.Outcome.next (if_pos due)

theorem exec_provenanceHash_of_hash {s : State} {i : Fin 4096} (due : ¬ s.provDue i.val = true) :
    exec (.provenanceHash i) s = .next (s.hashFrame i.val) := congrArg Host.Outcome.next (if_neg due)

/-- A lane ends what it signs. -/
theorem signingLaneEnds : Claims.SigningLaneEnds := by
  intro c b s waits
  refine ⟨fun op first => ?attest, fun none_ => congrArg Host.Outcome.next (laneDone_of_none none_),
    fun op first i of ready => ?provenance⟩
  case attest =>
    obtain ⟨more, whole⟩ := laneDone_of_signed (lane := false) first waits rfl (laneResult_of_attest op) rfl
    exact ⟨fun some_ is => congrArg Host.Outcome.next (more some_ is),
      fun some_ is => congrArg Host.Outcome.next (whole some_ is)⟩
  case provenance =>
    have due := provDue_iff.2 ⟨c, c.opcode, b, first, waits, of, ready⟩
    have result := laneResult_of_provenance (c := c) op ((provReady_iff of).2 ready)
    rw [of] at result
    obtain ⟨more, whole⟩ := laneDone_of_signed (lane := true) first waits (cmds_manifest s i.val _) result rfl
    exact ⟨fun some_ is => (exec_provenanceHash_of_due due).trans (congrArg Host.Outcome.next (more some_ is)),
      fun some_ is => (exec_provenanceHash_of_due due).trans (congrArg Host.Outcome.next (whole some_ is))⟩

theorem hashFrame_of_none {s : State} {i : Nat} (none_ : (s.entry i).prov.waiting = []) : s.hashFrame i = s := by
  rw [State.hashFrame, none_]

theorem hashFrame_of_waiting {s : State} {i pos : Nat} {samples : Bytes} {time : Time} {rest : List (Nat × Bytes × Time)}
    (waiting : (s.entry i).prov.waiting = (pos, samples, time) :: rest) : s.hashFrame i =
      s.modEntry i fun e => { e with prov := { e.prov with
        chain := digest (e.prov.chain ++ leBytes 4 pos ++ samples), frames := e.prov.frames + 1, endTime := time,
        endPos := pos + 1, waiting := rest } } := by
  rw [State.hashFrame, waiting]

/-- Lane 1 turns to a waiting frame; the entropy source fails and is tested again. -/
theorem provenanceAndEntropy : Claims.ProvenanceAndEntropy := by
  refine ⟨fun i s => ⟨fun not_ none_ => ?_, fun pos samples time rest not_ waiting => ?_⟩, fun s => ?_, fun s => ⟨?_, ?_⟩⟩
  · rw [exec_provenanceHash_of_hash (mt provDue_iff.1 not_), hashFrame_of_none none_]
  · rw [exec_provenanceHash_of_hash (mt provDue_iff.1 not_), hashFrame_of_waiting waiting]
    rfl
  · exact ⟨_, rfl, rfl, (fld_bump_low { s with entropyFail := true } (secBase + 0xC)).1, rfl,
      fun a ne => reg_bump_ne { s with entropyFail := true } 0 16 1 ne⟩
  · refine congrArg Host.Outcome.next ?_
    cases fails : s.entropyFail
    · exact congrArg (fun v => { s with entropyFail := v }) fails
    · rfl
  · refine congrArg Host.Outcome.next (when_false ?_)
    rw [Bool.and_false]

end Sys2Proof.Machine
end

section
/-! PROOFS. Lane 0 ends LOAD_IMAGE and ADMIT_CONTEXT (R132, R158, R159, R266, R362, R405), and from all that the lanes end
the statement SecurityLanes. -/

namespace Sys2Proof.Machine

theorem lowest_eq_none {n : Nat} {p : Nat → Bool} (no : ∀ i, i < n → p i = false) : lowest n p = none :=
  Option.isNone_iff_eq_none.1 (isNone_lowest_eq_true no)

theorem lowest_eq_some {n i : Nat} {p : Nat → Bool} (below : i < n) (is : p i = true) (first : ∀ k, k < i → p k = false) :
    lowest n p = some i :=
  List.find?_range_eq_some.2 ⟨is, List.mem_range.2 below, fun k less => by rw [first k less, Bool.not_false]⟩

theorem OnlyCaches.image {s t : State} (h : OnlyCaches s t) (i : Nat) : t.image i = s.image i := by
  rw [h.frame]
  rfl

theorem OnlyCaches.core {s t : State} (h : OnlyCaches s t) (g : Nat) : t.core g = s.core g := by
  rw [h.frame]
  rfl

/-! ### LOAD_IMAGE -/

/-- A measured image is recorded under the lowest free id. -/
def State.recordImage (s : State) (part : Nat) (b d : Bytes) : CmdRes :=
  match lowest 256 fun i => (s.image (imageKey part i)).isNone with
  | none => .done s stPartitionFull []
  | some i =>
    .done (s.setImage (imageKey part i) (some { part := part, addr := fieldAt b 8 5, bytes := fieldAt b 16 8, digest := d }))
      stOk (leBytes 4 i ++ d)

/-- What the envelope behind an image must say of the content that was read. -/
def imageClaim (b : Bytes) (rd : State × Bytes × List Nat) : Claim :=
  { kind := 3, len := fieldAt b 16 8, content := rd.2.1, bad := !rd.2.2.isEmpty, signer := carriedKey b 24 }

section
variable (s : State) (part : Nat) (b : Bytes) {rd : State × Bytes × List Nat}
  (read : s.readPart (s.part part) .normal (fieldAt b 8 5) (fieldAt b 16 8) = rd)
include read

theorem loadDone_of_bad {st : BitVec 16} (bad : imageCheck rd.2.1 (fieldAt b 16 8) = some st) :
    s.loadDone part b = .done rd.1 st [] := by
  generalize unfolded : @State.loadDone = body
  delta State.loadDone at unfolded
  obtain ⟨verify, named⟩ : ∃ f, @State.verify = f := exists_eq'
  rw [named] at unfolded
  subst unfolded
  dsimp only
  rw [read, bad]

section
variable (good : imageCheck rd.2.1 (fieldAt b 16 8) = none)
include good

theorem loadDone_of_unsigned (unsigned : carriedSigned b 24 = false) :
    (rd.2.2 ≠ [] → s.loadDone part b = .done rd.1 stEccUncorrectable []) ∧
    (rd.2.2 = [] → s.loadDone part b = rd.1.recordImage part b (digest rd.2.1)) := by
  generalize unfolded : @State.loadDone = body
  delta State.loadDone at unfolded
  obtain ⟨verify, named⟩ : ∃ f, @State.verify = f := exists_eq'
  rw [named] at unfolded
  subst unfolded
  dsimp only
  rw [read, good]
  dsimp only
  rw [unsigned, if_neg Bool.false_ne_true]
  dsimp only
  refine ⟨fun some_ => ?_, fun none_ => ?_⟩
  · rw [if_neg (mt List.isEmpty_iff.1 some_)]
  · rw [none_, List.isEmpty_nil, if_pos rfl, State.recordImage]
    cases lowest 256 fun i => (rd.1.image (imageKey part i)).isNone <;> rfl

theorem loadDone_of_signed (signed : carriedSigned b 24 = true) (u : State) :
    (∀ st, rd.1.verify (s.part part) (imageEnv (fieldAt b 8 5) (fieldAt b 16 8)) (imageClaim b rd) = (u, some st) →
      s.loadDone part b = .done u st []) ∧
    (rd.1.verify (s.part part) (imageEnv (fieldAt b 8 5) (fieldAt b 16 8)) (imageClaim b rd) = (u, none) →
      s.loadDone part b = u.recordImage part b (digest rd.2.1)) := by
  generalize unfolded : @State.loadDone = body
  delta State.loadDone at unfolded
  obtain ⟨verify, named⟩ : ∃ f, @State.verify = f := exists_eq'
  rw [named] at unfolded ⊢
  subst unfolded
  dsimp only [imageClaim]
  rw [read, good]
  dsimp only
  rw [signed, if_pos rfl]
  refine ⟨fun st refused => ?_, fun passed => ?_⟩
  · rw [refused]
  · rw [passed, State.recordImage]
    dsimp only
    cases lowest 256 fun i => (u.image (imageKey part i)).isNone <;> rfl

end

end

section
variable {s : State} {c : Cmd} {b : Bytes} (first : (s.laneCmds false).head? = some c) (waits : c.wait = .lane c.opcode b)
include first waits

/-- A lane that records an image answers with its id, or that there is no room. -/
theorem recordEnds {u : State} (only : OnlyCaches s u) {d : Bytes}
    (result : s.laneResult c b = some (u.recordImage c.part b d)) :
    ((∀ i, i < 256 → s.image (256 * c.part + i) ≠ none) → LaneEnds s c u stPartitionFull []) ∧
    (∀ i, i < 256 → s.image (256 * c.part + i) = none → (∀ k, k < i → s.image (256 * c.part + k) ≠ none) →
      LaneEnds s c (u.setImage (256 * c.part + i)
        (some { part := c.part, addr := fieldAt b 8 5, bytes := fieldAt b 16 8, digest := d })) stOk (leBytes 4 i ++ d)) := by
  have taken (i : Nat) (some_ : s.image (256 * c.part + i) ≠ none) : (u.image (imageKey c.part i)).isNone = false := by
    rw [only.image]
    exact Bool.eq_false_iff.2 (mt Option.isNone_iff_eq_none.1 some_)
  rw [State.recordImage] at result
  refine ⟨fun full => ?_, fun i below none_ before => ?_⟩
  · rw [lowest_eq_none fun i below => taken i (full i below)] at result
    exact laneEnds_of_caches first waits only result
  · have free : (u.image (imageKey c.part i)).isNone = true := by
      rw [only.image]
      exact Option.isNone_iff_eq_none.2 none_
    rw [lowest_eq_some below free fun k less => taken k (before k less)] at result
    exact exec_shakeLaneDone_of_done first waits only.cmds result

theorem loadEnds {p : Part} (is : s.part c.part = p) (op : c.opcode = 0x20) {rd : State × Bytes × List Nat}
    (read : s.readPart p .normal (fieldAt b 8 5) (fieldAt b 16 8) = rd) {e : State × Bytes × Bytes}
    (env : rd.1.readEnv p (imageEnv (fieldAt b 8 5) (fieldAt b 16 8)) = e) :
    let A := fieldAt b 8 5
    let n := fieldAt b 16 8
    let records (u : State) : Prop :=
      ((∀ i, i < 256 → s.image (256 * c.part + i) ≠ none) → LaneEnds s c u stPartitionFull []) ∧
      (∀ i, i < 256 → s.image (256 * c.part + i) = none → (∀ k, k < i → s.image (256 * c.part + k) ≠ none) →
        LaneEnds s c (u.setImage (256 * c.part + i) (some { part := c.part, addr := A, bytes := n, digest := digest rd.2.1 }))
          stOk (leBytes 4 i ++ digest rd.2.1))
    (∀ st, imageCheck rd.2.1 n = some st → LaneEnds s c rd.1 st []) ∧
    (imageCheck rd.2.1 n = none → carriedSigned b 24 = false →
      (rd.2.2 ≠ [] → LaneEnds s c rd.1 stEccUncorrectable []) ∧ (rd.2.2 = [] → records rd.1)) ∧
    (imageCheck rd.2.1 n = none → carriedSigned b 24 = true →
      (∀ st, envCheck p (imageEnv A n) (imageClaim b rd) e.2.1 e.2.2 = some st →
        LaneEnds s c (e.1.bump (secBase + 8) 0 32 1) st []) ∧
      (envCheck p (imageEnv A n) (imageClaim b rd) e.2.1 e.2.2 = none → records e.1)) := by
  subst is
  have only : OnlyCaches s rd.1 := read ▸ onlyCaches_readPart s _ _ _ _
  have onlyEnv : OnlyCaches s e.1 := only.trans (env ▸ onlyCaches_readEnv _ _ _)
  have result {r : CmdRes} (is : s.loadDone c.part b = r) : s.laneResult c b = some r :=
    (laneResult_of_load op).trans (congrArg some is)
  obtain ⟨refused, passed⟩ := verify_arms env (imageClaim b rd)
  refine ⟨fun st bad => ?_, fun good unsigned => ⟨fun some_ => ?_, fun none_ => ?_⟩, fun good signed => ⟨fun st bad => ?_,
    fun ok => ?_⟩⟩
  · exact laneEnds_of_caches first waits only (result (loadDone_of_bad s c.part b read bad))
  · exact laneEnds_of_caches first waits only (result ((loadDone_of_unsigned s c.part b read good unsigned).1 some_))
  · exact recordEnds first waits only (result ((loadDone_of_unsigned s c.part b read good unsigned).2 none_))
  · exact laneEnds_of_caches first waits (onlyEnv.trans (onlyCaches_bump _ _ _ _ _))
      (result ((loadDone_of_signed s c.part b read good signed _).1 st (refused st bad)))
  · exact recordEnds first waits onlyEnv (result ((loadDone_of_signed s c.part b read good signed _).2 (passed ok)))

end

/-! ### What an admission leaves: the objects -/

theorem sync_wakeCluster (s : State) (n : Nat) : (s.wakeCluster n).sync = s.sync := by
  unfold State.wakeCluster
  split <;> rfl

theorem sync_satisfy (s : State) (v : Word) (w : Waiter) : (s.satisfy v w).sync = s.sync := by
  have woken : (s.each w.clusters fun s n => s.wakeCluster n).sync = s.sync :=
    each_of_step (P := fun t => t.sync = s.sync) (fun t n same => (sync_wakeCluster t n).trans same) _ rfl
  cases w with
  | word o target site blocks ticket st =>
    cases blocks <;> exact woken
  | steward o target cmd => exact (onlyAnswers_finishCmd _ cmd stOk _).sync.trans woken

theorem sync_testWaiters (s : State) (o : Nat) : (s.testWaiters o).sync = s.sync :=
  each_of_step (P := fun t => t.sync = s.sync) (fun t w same => (sync_satisfy t _ w).trans same) _ rfl

theorem syncVal_syncSet (s : State) (o a : Nat) (v : Word) : (s.syncSet o v).syncVal a = if a = o then v else s.syncVal a := by
  rw [State.syncVal, State.syncSet, sync_testWaiters]
  split
  · next same => rw [same]; exact Tbl.get_set_self _ _ _ _
  · next ne => exact Tbl.get_set_ne _ _ _ ne

/-- An object that is 0 stays 0 when an object is set to 0. -/
theorem syncVal_syncSet_zero {s : State} {a : Nat} (zero : s.syncVal a = 0) (o : Nat) : (s.syncSet o 0).syncVal a = 0 := by
  rw [syncVal_syncSet, zero, ite_self]

/-! ### What an admission leaves: the shares -/

/-- What a share holds of the context that it prepares for: the context, that dispatch has not begun, its logical core,
its first word, the program and the scratchpad (R132). -/
def ShareSt.start (h : ShareSt) : Option Nat × Bool × Nat × Nat × List W64 × List Host.Cell :=
  (h.ctx, h.live, h.logical, h.pc, h.program, h.scratch)

/-- From s to t what each share holds of its context stands. -/
def SameStarts (s t : State) : Prop := ∀ g j, (t.share g j).start = (s.share g j).start

theorem SameStarts.trans {s t u : State} (a : SameStarts s t) (b : SameStarts t u) : SameStarts s u :=
  fun g j => (b g j).trans (a g j)

theorem sameStarts_of_cores {s t : State} (same : t.cores = s.cores) : SameStarts s t := fun g j => by
  rw [State.share, State.core, same]
  rfl

theorem OnlyAnswers.cores {s t : State} (only : OnlyAnswers s t) : t.cores = s.cores := by rw [← only.frame]

theorem sameStarts_each {α : Type} {f : State → α → State} (step : ∀ s x, SameStarts s (f s x)) (l : List α) (s : State) :
    SameStarts s (s.each l f) :=
  each_of_step (P := SameStarts s) (fun t x same => same.trans (step t x)) l fun _ _ => rfl

theorem sameStarts_modShare (s : State) (g j : Nat) {f : ShareSt → ShareSt} (keeps : ∀ h, (f h).start = h.start) :
    SameStarts s (s.modShare g j f) := fun a b => by
  unfold State.modShare
  by_cases own : a = g ∧ b = j
  · obtain ⟨rfl, rfl⟩ := own
    rw [share_setShare_self, keeps]
  · rw [share_setShare_ne _ _ _ _ _ _ own]

theorem sameStarts_wakeCluster (s : State) (n : Nat) : SameStarts s (s.wakeCluster n) := by
  refine sameStarts_of_cores ?_
  unfold State.wakeCluster
  split <;> rfl

theorem start_setFused (h : ShareSt) (f : Fused) : (h.setFused f).start = h.start := by
  unfold ShareSt.setFused
  split
  · dsimp only
    split <;> rfl
  · rfl

theorem start_finishStage (h : ShareSt) (st : Option FuseTag) : (h.finishStage st).start = h.start := by
  unfold ShareSt.finishStage
  split
  · rfl
  · split
    · rfl
    · exact start_setFused _ _

theorem sameStarts_wordDone (s : State) (g j : Nat) (ticket : Option Nat) (st : Option FuseTag) :
    SameStarts s (s.wordDone g j ticket st) :=
  sameStarts_modShare s g j fun h => by
    rw [start_finishStage]
    cases ticket <;> rfl

theorem sameStarts_popped (s : State) (blocks : Bool) (g j : Nat) :
    SameStarts s (if blocks then s.modShare g j fun h => h.popQueue 3 else s) := by
  split
  · exact sameStarts_modShare _ _ _ fun _ => rfl
  · exact fun _ _ => rfl

theorem sameStarts_satisfy (s : State) (v : Word) (w : Waiter) : SameStarts s (s.satisfy v w) := by
  have woken := sameStarts_each sameStarts_wakeCluster w.clusters s
  cases w with
  | word o target site blocks ticket st =>
    exact (woken.trans (sameStarts_popped _ blocks _ _)).trans (sameStarts_wordDone _ _ _ ticket st)
  | steward o target cmd =>
    exact woken.trans (sameStarts_of_cores (onlyAnswers_finishCmd _ cmd stOk _).cores)

theorem sameStarts_syncSet (s : State) (o : Nat) (v : Word) : SameStarts s (s.syncSet o v) :=
  sameStarts_each (fun t w => sameStarts_satisfy t _ w) _ _

/-- What a share prepared for logical core l of context k holds. -/
def preparedStart (b : Bytes) (k l : Nat) (e : MapEntry) : Option Nat × Bool × Nat × Nat × List W64 × List Host.Cell :=
  (some k, false, l, 0, programWords b (imgHead b) e.prog,
    (dataSections b (imgHead b) e).foldl (fun z d => writeBytes z d.1 d.2) [])

theorem start_eq_iff {h : ShareSt} {b : Bytes} {k l : Nat} {e : MapEntry} : h.start = preparedStart b k l e ↔
    h.ctx = some k ∧ h.live = false ∧ h.logical = l ∧ h.pc = 0 ∧ h.program = programWords b (imgHead b) e.prog ∧
      h.scratch = (dataSections b (imgHead b) e).foldl (fun z d => writeBytes z d.1 d.2) [] := by
  simp only [ShareSt.start, preparedStart, Prod.mk.injEq]

theorem share_prepareShare_self (s : State) (b : Bytes) (k : Nat) (x : Setting) (l : Nat) (e : MapEntry) (j : Nat) :
    ((s.prepareShare b k x l e j).share e.core j).start = preparedStart b k l e :=
  congrArg ShareSt.start (share_setShare_self _ _ _ _)

theorem share_prepareShare_ne (s : State) (b : Bytes) (k : Nat) (x : Setting) (l : Nat) (e : MapEntry) (j : Nat) {g : Nat}
    (ne : g ≠ e.core) (i : Nat) : ((s.prepareShare b k x l e j).share g i).start = (s.share g i).start := by
  rw [State.prepareShare, share_setShare_ne _ _ _ _ _ _ fun same => ne same.1]
  exact sameStarts_wakeCluster s (e.core / 64) g i

/-- Cores that are mapped once each prepare their shares. -/
theorem each_prepareShare (b : Bytes) (k : Nat) (x : Setting) (l : List (MapEntry × Nat × Nat))
    (once : (l.map fun y => y.1.core).Nodup) (s : State) :
    let t := s.each l fun s y => s.prepareShare b k x y.2.1 y.1 y.2.2
    (∀ y ∈ l, (t.share y.1.core y.2.2).start = preparedStart b k y.2.1 y.1) ∧
    (∀ g i, (∀ y ∈ l, g ≠ y.1.core) → (t.share g i).start = (s.share g i).start) := by
  induction l generalizing s with
  | nil => exact ⟨nofun, fun _ _ _ => rfl⟩
  | cons z l ih =>
    obtain ⟨new, rest⟩ := List.nodup_cons.1 once
    obtain ⟨made, others⟩ := ih rest (s.prepareShare b k x z.2.1 z.1 z.2.2)
    refine ⟨List.forall_mem_cons.2 ⟨?_, made⟩, fun g i out => ?_⟩
    · refine (others _ _ fun y mem same => new ?_).trans (share_prepareShare_self _ _ _ _ _ _ _)
      exact List.mem_map.2 ⟨y, mem, same.symm⟩
    · obtain ⟨own, tail⟩ := List.forall_mem_cons.1 out
      exact (others g i tail).trans (share_prepareShare_ne _ _ _ _ _ _ _ own i)

/-! ### ADMIT_CONTEXT -/

/-- Where the logical cores of an image go: the mapped core, the logical core, and the lowest free share. -/
def State.places (s : State) (b : Bytes) : List (MapEntry × Nat × Nat) :=
  (imgMap b).zipIdx.map fun e => (e.1, e.2, (s.freeShare e.1.core).getD 0)

theorem map_places {α : Type} (s : State) (b : Bytes) (f : MapEntry → Nat → α) :
    ((s.places b).map fun y => f y.1 y.2.2) = (imgMap b).map fun e => f e ((s.freeShare e.core).getD 0) := by
  conv_rhs => rw [← List.zipIdx_map_fst 0 (imgMap b), List.map_map]
  rw [State.places, List.map_map]
  rfl

theorem freeShare_of_read {s t : State} (only : OnlyCaches s t) (standing : SameStanding s t) (g : Nat) :
    t.freeShare g = s.freeShare g := by
  have mode : (t.clu (g / 64)).mode = (s.clu (g / 64)).mode := congrArg Prod.fst (standing (g / 64))
  simp only [State.freeShare, State.share, only.core, mode]

/-- The state once the mapped cores have prepared their shares and the halo objects are 0, before the context is listed. -/
def State.admitting (s : State) (k : Nat) (set : Setting) (b : Bytes) : State :=
  (s.each (s.places b) fun s y => s.prepareShare b k set y.2.1 y.1 y.2.2).each (allHalos b) fun s h =>
    (s.syncSet h.2.data 0).syncSet h.2.free 0

theorem admitCtx_eq (s : State) (p i k : Nat) (x : Image) (b params : Bytes) : ∃ set, s.admitCtx p i k x b params =
    (s.admitting k set b).setCtx k (some
      { part := p, image := i, digest := x.digest, cores := (s.places b).map fun e => (e.1.core, e.2.2),
        weight := fieldAt params 2 1, borrow := (borrowField (fieldAt params 3 1)).getD 32,
        starve := starveField (fieldAt params 4 2) }) := ⟨_, rfl⟩

theorem getD_borrowField (n : Nat) : (borrowField n).getD 32 = if n = 255 ∨ 128 < n then 32 else n := by
  unfold borrowField
  by_cases all : n = 255
  · rw [if_pos all, if_pos (Or.inl all)]
    rfl
  · by_cases within : n ≤ 128
    · rw [if_neg all, if_pos within, if_neg (by omega)]
      rfl
    · rw [if_neg all, if_neg within, if_pos (by omega)]
      rfl

/-- The halo objects are 0, and each mapped core has prepared its share. -/
theorem admitting_facts (s : State) (k : Nat) (set : Setting) (b : Bytes) :
    (∀ y ∈ allHalos b, (s.admitting k set b).syncVal y.2.data = 0 ∧ (s.admitting k set b).syncVal y.2.free = 0) ∧
    (((imgMap b).map MapEntry.core).Nodup → ∀ e l, (e, l) ∈ (imgMap b).zipIdx →
      ((s.admitting k set b).share e.core ((s.freeShare e.core).getD 0)).start = preparedStart b k l e) := by
  refine ⟨fun y mem => ?_, fun once e l mem => ?_⟩
  · refine each_of_mem (P := fun t : State => t.syncVal y.2.data = 0 ∧ t.syncVal y.2.free = 0) (x := y) (fun t => ?_)
      (fun t z zero => ?_) mem _
    · refine ⟨syncVal_syncSet_zero ?_ _, ?_⟩
      · rw [syncVal_syncSet, if_pos rfl]
      · rw [syncVal_syncSet, if_pos rfl]
    · exact ⟨syncVal_syncSet_zero (syncVal_syncSet_zero zero.1 _) _, syncVal_syncSet_zero (syncVal_syncSet_zero zero.2 _) _⟩
  · have halos := sameStarts_each (fun (t : State) (h : Nat × HaloEntry) =>
      (sameStarts_syncSet t h.2.data 0).trans (sameStarts_syncSet _ h.2.free 0)) (allHalos b)
    have cores : (s.places b).map (fun y => y.1.core) = (imgMap b).map MapEntry.core := map_places s b fun e _ => e.core
    obtain ⟨made, -⟩ := each_prepareShare b k set (s.places b) (cores ▸ once) s
    exact (halos _ _ _).trans (made (e, l, (s.freeShare e.core).getD 0) (List.mem_map.2 ⟨(e, l), mem, rfl⟩))

/-- What an admission leaves: the context on the lowest free shares, its objects, and its shares. -/
theorem admitCtx_facts {s u : State} (free : ∀ g, u.freeShare g = s.freeShare g) (p i k : Nat) (x : Image) (b params : Bytes) :
    let a := u.admitCtx p i k x b params
    a.ctx k = some
      { part := p, image := i, digest := x.digest, cores := (imgMap b).map fun e => (e.core, (s.freeShare e.core).getD 0),
        weight := fieldAt params 2 1,
        borrow := if fieldAt params 3 1 = 255 ∨ 128 < fieldAt params 3 1 then 32 else fieldAt params 3 1,
        starve := if fieldAt params 4 2 = 0 then 100 else fieldAt params 4 2 } ∧
    (∀ y ∈ allHalos b, a.syncVal y.2.data = 0 ∧ a.syncVal y.2.free = 0) ∧
    (((imgMap b).map MapEntry.core).Nodup → ∀ e l, (e, l) ∈ (imgMap b).zipIdx →
      (a.share e.core ((s.freeShare e.core).getD 0)).start = preparedStart b k l e) := by
  obtain ⟨set, admitted⟩ := admitCtx_eq u p i k x b params
  obtain ⟨zero, prepared⟩ := admitting_facts u k set b
  simp only [free] at prepared
  dsimp only
  rw [admitted]
  refine ⟨?_, zero, prepared⟩
  rw [ctx_setCtx_self, map_places u b fun e j => (e.core, j), getD_borrowField]
  simp only [free]
  rfl

section
variable (s : State) (part : Nat) (b : Bytes)

theorem admitDone_of_missing (none_ : s.image (imageKey part (fieldAt b 0 2)) = none) :
    s.admitDone part b = .done s stBadField [] := by
  rw [State.admitDone]
  dsimp only
  rw [none_]

section
variable {x : Image} (image : s.image (imageKey part (fieldAt b 0 2)) = some x) {rd : State × Bytes × List Nat}
  (read : s.readPart (s.part x.part) .normal x.addr x.bytes = rd)
include image read

theorem admitDone_of_misplaced {st : BitVec 16} (bad : s.placeCheck part rd.2.1 = some st) :
    s.admitDone part b = .done rd.1 st [] := by
  have reads : s.readImage x = (rd.1, rd.2.1, !rd.2.2.isEmpty) := by rw [State.readImage, read]
  rw [State.admitDone]
  dsimp only
  rw [image]
  dsimp only
  rw [reads]
  dsimp only
  rw [bad]

theorem admitDone_of_placed (placed : s.placeCheck part rd.2.1 = none) : s.admitDone part b =
    if (!rd.2.2.isEmpty) = true then .done rd.1 stEccUncorrectable []
    else if digest rd.2.1 ≠ x.digest then .done rd.1 stSignatureInvalid []
    else (lowest 256 fun c => (s.ctx c).isNone).elim (.done rd.1 stPartitionFull [])
      fun k => .wait (rd.1.admitCtx part (fieldAt b 0 2) k x rd.2.1 b) (.admission k) := by
  have reads : s.readImage x = (rd.1, rd.2.1, !rd.2.2.isEmpty) := by rw [State.readImage, read]
  rw [State.admitDone]
  dsimp only
  rw [image]
  dsimp only
  rw [reads]
  dsimp only
  rw [placed]
  dsimp only
  cases lowest 256 fun c => (s.ctx c).isNone <;> rfl

end

end

/-- A lane whose first command goes on to wait for something else turns to the next. -/
theorem exec_shakeLaneDone_of_wait {s u : State} {c : Cmd} {b : Bytes} {w : Wait} (first : (s.laneCmds false).head? = some c)
    (waits : c.wait = .lane c.opcode b) (result : s.laneResult c b = some (.wait u w)) :
    exec .shakeLaneDone s = .next { u with
      cmds := u.cmds.map fun y => if y.id == c.id then { y with wait := w } else y
      lane0 := (s.laneCmds false).tail.map (·.id) } :=
  congrArg Host.Outcome.next (laneDone_of_first first waits result)

/-- Lane 0 ends what an image is measured for. -/
theorem imageLaneEnds : Claims.ImageLaneEnds := by
  intro c b s first waits
  refine ⟨fun op => loadEnds first waits rfl op rfl rfl, fun op => ?_⟩
  have result {r : CmdRes} (is : s.admitDone c.part b = r) : s.laneResult c b = some r :=
    (laneResult_of_admit op).trans (congrArg some is)
  refine ⟨fun none_ => ?missing, fun x image => ?_⟩
  case missing => exact laneEnds_of_caches first waits (.refl s) (result (admitDone_of_missing s c.part b none_))
  dsimp only
  obtain ⟨rd, read⟩ : ∃ rd, s.readPart (s.part x.part) .normal x.addr x.bytes = rd := exists_eq'
  have only : OnlyCaches s rd.1 := read ▸ onlyCaches_readPart s _ _ _ _
  have standing : SameStanding s rd.1 := read ▸ sameStanding_readPart s _ _ _ _
  rw [read]
  refine ⟨fun st bad => ?misplaced, fun placed => ?_⟩
  case misplaced => exact laneEnds_of_caches first waits only (result (admitDone_of_misplaced s c.part b image read bad))
  have arms := result (admitDone_of_placed s c.part b image read placed)
  refine ⟨fun some_ => ?unread, fun none_ other => ?changed, fun none_ same => ?measured⟩
  case unread =>
    rw [if_pos (by rw [Bool.not_eq_true', Bool.eq_false_iff]; exact mt List.isEmpty_iff.1 some_)] at arms
    exact laneEnds_of_caches first waits only arms
  all_goals rw [if_neg (by rw [none_]; decide)] at arms
  case changed =>
    rw [if_pos other] at arms
    exact laneEnds_of_caches first waits only arms
  case measured =>
    rw [if_neg (not_not.2 same)] at arms
    have taken (k : Nat) (some_ : s.ctx k ≠ none) : (s.ctx k).isNone = false :=
      Bool.eq_false_iff.2 (mt Option.isNone_iff_eq_none.1 some_)
    refine ⟨fun full => ?_, fun k below free before => ?_⟩
    · rw [lowest_eq_none fun k below => taken k (full k below)] at arms
      exact laneEnds_of_caches first waits only arms
    · rw [lowest_eq_some below (Option.isNone_iff_eq_none.2 free) fun l less => taken l (before l less)] at arms
      obtain ⟨ctx, zero, prepared⟩ := admitCtx_facts (freeShare_of_read only standing) c.part (fieldAt b 0 2) k x rd.2.1 b
      refine ⟨exec_shakeLaneDone_of_wait first waits arms, ctx, zero, fun once e l mem => ?_⟩
      exact start_eq_iff.1 (prepared once e l mem)

/-- Settles O42: each lane's end is that of its first command; nothing but the caches' directories, counters and draws
changes before the command ends. -/
theorem securityLanes : Obligations.SecurityLanes := ⟨shakeLane, imageLaneEnds, signingLaneEnds, provenanceAndEntropy⟩

end Sys2Proof.Machine
end

section
/-! PROOFS. What answers, reads and copies leave alone of the links: memory, the ports, the rings, and the event bits that
are set (R300, R345, R353). -/

namespace Sys2Proof.Machine

/-- From s to t memory, the ports, and whether the rings are whole stand, and every event bit of a port that is set stays
set (Table 16.10). -/
structure SameLinks (s t : State) : Prop where
  mem : t.mem = s.mem
  ports : t.net.ports = s.net.ports
  xWhole : t.net.xWhole = s.net.xWhole
  yWhole : t.net.yWhole = s.net.yWhole
  events : ∀ p i, p < 6 → (s.reg (lnkReg p 0x2C)).getLsbD i = true → (t.reg (lnkReg p 0x2C)).getLsbD i = true

namespace SameLinks

theorem refl (s : State) : SameLinks s s := ⟨rfl, rfl, rfl, rfl, fun _ _ _ h => h⟩

theorem trans {s t u : State} (a : SameLinks s t) (b : SameLinks t u) : SameLinks s u :=
  ⟨b.mem.trans a.mem, b.ports.trans a.ports, b.xWhole.trans a.xWhole, b.yWhole.trans a.yWhole,
    fun p i below set => b.events p i below (a.events p i below set)⟩

theorem port {s t : State} (h : SameLinks s t) (p : Nat) : t.port p = s.port p := by
  rw [State.port, h.ports]
  rfl

end SameLinks

/-- Nothing of the links is kept elsewhere. -/
theorem sameLinks_of_same {s t : State} (mem : t.mem = s.mem) (net : t.net = s.net) (regs : t.regs = s.regs) :
    SameLinks s t :=
  ⟨mem, by rw [net], by rw [net], by rw [net], fun p i _ set => by rwa [State.reg, regs]⟩

theorem sameLinks_modClu (s : State) (n : Nat) (f : CluSt → CluSt) : SameLinks s (s.modClu n f) :=
  sameLinks_of_same rfl rfl rfl

theorem sameLinks_modChan (s : State) (n : Nat) (f : ChanSt → ChanSt) : SameLinks s (s.modChan n f) :=
  sameLinks_of_same rfl rfl rfl

theorem sameLinks_wide (s : State) (w : Tbl W64) : SameLinks s { s with wide := w } := sameLinks_of_same rfl rfl rfl

theorem sameLinks_bumpWide (s : State) (a m : Nat) : SameLinks s (s.bumpWide a m) := sameLinks_of_same rfl rfl rfl

theorem sameLinks_each {α : Type} {f : State → α → State} (step : ∀ s x, SameLinks s (f s x)) (l : List α) (s : State) :
    SameLinks s (s.each l f) :=
  each_of_step (P := SameLinks s) (fun t x same => same.trans (step t x)) l (.refl s)

/-! ### Registers -/

theorem sameLinks_setReg (s : State) {a : Nat} (other : ∀ p, p < 6 → lnkReg p 0x2C ≠ a) (w : Word) :
    SameLinks s (s.setReg a w) :=
  ⟨rfl, rfl, rfl, rfl, fun p i below set => by rwa [reg_setReg_ne s a w (other p below)]⟩

theorem sameLinks_bump (s : State) {a : Nat} (other : ∀ p, p < 6 → lnkReg p 0x2C ≠ a) (lo n m : Nat) :
    SameLinks s (s.bump a lo n m) := sameLinks_setReg s other _

theorem sameLinks_setBits (s : State) (a m : Nat) : SameLinks s (s.setBits a m) :=
  ⟨rfl, rfl, rfl, rfl, fun _ _ _ set => getLsbD_reg_setBits set⟩

/-- The other registers of the ports. -/
theorem lnkEvents_ne_lnkReg {off : Nat} (differ : off % 0x100 ≠ 0x2C) (port p : Nat) : lnkReg p 0x2C ≠ lnkReg port off := by
  unfold lnkReg
  omega

/-- The registers beyond the ports'. -/
theorem lnkEvents_ne_of_above {a : Nat} (above : 0x030600 ≤ a) (p : Nat) (below : p < 6) : lnkReg p 0x2C ≠ a := by
  unfold lnkReg
  omega

theorem sameLinks_discardOn (s : State) (port : Nat) : SameLinks s (s.discardOn port) :=
  sameLinks_bump s (fun p _ => lnkEvents_ne_lnkReg (by decide) port p) _ _ _

/-! ### Reads through the home caches -/

/-- A channel's block lies in its cluster's. -/
theorem le_chanReg (ch off : Nat) : 0x030600 ≤ chanReg ch off := by
  unfold chanReg cluBase
  omega

theorem sameLinks_accrue (s : State) (n : Nat) : SameLinks s (s.accrue (cluGated n)) :=
  (sameLinks_setReg s (a := cluGated n) (lnkEvents_ne_of_above (by unfold cluGated; omega)) _).trans
    (sameLinks_of_same rfl rfl rfl)

theorem sameLinks_wakeCluster (s : State) (n : Nat) : SameLinks s (s.wakeCluster n) := by
  unfold State.wakeCluster
  split
  · exact ((sameLinks_accrue s n).trans (sameLinks_modClu _ n _)).trans
      (sameLinks_bump _ (lnkEvents_ne_of_above (by omega)) _ _ _)
  · exact .refl s

theorem sameLinks_exitRefresh (s : State) (ch : Nat) : SameLinks s (s.exitRefresh ch) := by
  unfold State.exitRefresh
  split
  · exact (sameLinks_modChan s ch _).trans (sameLinks_bump _ (lnkEvents_ne_of_above (by omega)) _ _ _)
  · exact .refl s

/-- The two counters of a transfer do not matter either. -/
theorem sameLinks_transfer (s : State) (ch a b : Nat) : SameLinks s (((s.exitRefresh ch).bumpWide a 1).bumpWide b 1) :=
  ((sameLinks_exitRefresh s ch).trans (sameLinks_bumpWide _ a 1)).trans (sameLinks_bumpWide _ b 1)

theorem sameLinks_logBad (s : State) (phys : Nat) : SameLinks s (s.logBad phys) := by
  simp only [State.logBad]
  refine (sameLinks_bump s (a := chanReg (phys / 2 ^ 31) 0x918) (lnkEvents_ne_of_above (le_chanReg _ _)) 16 8 1).trans ?_
  split
  · exact .refl _
  · exact (sameLinks_wide _ _).trans (sameLinks_setBits _ _ _)

theorem sameLinks_hitLine (s : State) (ch line : Nat) (write : Bool) : SameLinks s (s.hitLine ch line write) :=
  sameLinks_of_same rfl rfl rfl

theorem sameLinks_allocLine (s : State) (ch line : Nat) (dirty first : Bool) :
    SameLinks s (s.allocLine ch line dirty first) := by
  simp only [State.allocLine]
  split
  · exact .refl s
  · refine SameLinks.trans ?_ (sameLinks_modClu _ _ _)
    split
    · exact .refl s
    · next v _ =>
      refine (sameLinks_modClu s (ch / 8) fun c => { c with cache := c.cache.erase v }).trans ?_
      split
      · exact sameLinks_transfer _ _ _ _
      · exact .refl _

theorem sameLinks_readLine (s : State) (p : Part) (h : Hint) (A : Nat) : SameLinks s (s.readLine p h A).1 := by
  simp only [State.readLine]
  refine (sameLinks_wakeCluster s ((p.place A).1 / 8)).trans ?_
  split
  · exact sameLinks_hitLine _ _ _ _
  · refine (sameLinks_transfer _ (p.place A).1 (cluBase ((p.place A).1 / 8) + 0x820)
      (chanReg (p.place A).1 0x900)).trans ?_
    split
    · exact sameLinks_logBad _ _
    · cases h with
      | normal => exact sameLinks_allocLine _ _ _ _ _
      | evictFirst => exact sameLinks_allocLine _ _ _ _ _
      | noAllocate => exact .refl _

theorem sameLinks_readPart (s : State) (p : Part) (h : Hint) (A n : Nat) : SameLinks s (s.readPart p h A n).1 :=
  List.foldlRecOn (motive := fun acc : State × List Nat => SameLinks s acc.1) (linesOf A n) _ (.refl s)
    fun _ before _ _ => before.trans (sameLinks_readLine _ p h _)

theorem sameLinks_readRuns (s : State) (p : Part) (runs : List (Nat × Nat × Nat)) : SameLinks s (s.readRuns p runs).1 :=
  List.foldlRecOn (motive := fun acc : State × List (Nat × Bytes) × Bool => SameLinks s acc.1) runs _ (.refl s)
    fun _ before _ _ => before.trans (sameLinks_readPart _ p .normal _ _)

/-! ### Answers -/

theorem sameLinks_queuePkt (s : State) (p : Pkt) (cmd : Option Nat) (frame : Option (Nat × Nat)) :
    SameLinks s (s.queuePkt p cmd frame) := by
  unfold State.queuePkt
  split
  · exact sameLinks_discardOn s 5
  · exact ⟨rfl, rfl, rfl, rfl, fun _ _ _ h => h⟩

theorem sameLinks_sendCompletion (s : State) (src : Src) (part : Nat) (bs : Bytes) :
    SameLinks s (s.sendCompletion src part bs) := by
  have latched : SameLinks s { s with lastCpl := bs } := sameLinks_of_same rfl rfl rfl
  cases src with
  | i3c => exact sameLinks_of_same rfl rfl rfl
  | spur => exact latched.trans (sameLinks_queuePkt _ _ none none)
  | dev d => exact latched.trans (sameLinks_queuePkt _ _ none none)

theorem sameLinks_reply (s : State) (src : Src) (op : Nat) (tag : BitVec 16) (part : Nat) (st : BitVec 16) (res : Bytes)
    (trunc : Bool) : SameLinks s (s.reply src op tag part st res trunc) := sameLinks_sendCompletion s src part _

theorem sameLinks_endCmd (s : State) (id : Nat) (st : BitVec 16) (res : Bytes) : SameLinks s (s.endCmd id st res) := by
  unfold State.endCmd
  split
  · exact .refl s
  · next c _ =>
    have gone : SameLinks s { s with cmds := s.cmds.filter (·.id != id) } := sameLinks_of_same rfl rfl rfl
    exact gone.trans (sameLinks_reply _ _ _ _ _ _ _ _)

theorem sameLinks_settleFences (s : State) : SameLinks s s.settleFences := by
  suffices fueled : ∀ n s, SameLinks s (State.settleFences.go s n) from fueled _ s
  intro n
  induction n with
  | zero => exact fun s => .refl s
  | succ n ih =>
    intro s
    unfold State.settleFences.go
    split
    · exact .refl s
    · exact (sameLinks_endCmd s _ _ _).trans (ih _)

theorem sameLinks_finishCmd (s : State) (id : Nat) (st : BitVec 16) (res : Bytes) : SameLinks s (s.finishCmd id st res) :=
  (sameLinks_endCmd s id st res).trans (sameLinks_settleFences _)

/-! ### Copies of a move, and the commands whose packets have gone (R312, R345) -/

theorem sameLinks_releaseMove (s : State) (c : Cmd) : SameLinks s (s.releaseMove c) := by
  unfold State.releaseMove
  split
  · split
    · exact sameLinks_of_same rfl rfl rfl
    · exact ⟨rfl, rfl, rfl, rfl, fun _ _ _ h => h⟩
  · exact .refl s

theorem sameLinks_moveFails (s : State) (c : Cmd) (i : Nat) (st : BitVec 16) : SameLinks s (s.moveFails c i st) := by
  have settled : SameLinks s (s.modEntry i fun e => { e with moving := false }) := sameLinks_of_same rfl rfl rfl
  exact settled.trans (sameLinks_finishCmd _ c.id st [])

theorem sameLinks_sendCopy (c : Cmd) (move : Bytes) (tag : BitVec 16) (fuel off : Nat) (d : Bytes) (s : State) :
    SameLinks s (s.sendCopy c move tag fuel off d) := by
  induction fuel generalizing s off d with
  | zero => exact .refl s
  | succ fuel ih =>
    unfold State.sendCopy
    split
    · exact .refl s
    · exact (sameLinks_queuePkt s _ _ none).trans (ih _ _ _)

theorem sameLinks_moveCopy (s : State) (c : Cmd) (i : Nat) (params : Bytes) (remote n : Nat) :
    SameLinks s (s.moveCopy c i params remote n) := by
  unfold State.moveCopy
  dsimp only
  split
  · exact (sameLinks_releaseMove s c).trans (sameLinks_moveFails _ _ _ _)
  · split
    · exact ⟨rfl, rfl, rfl, rfl, fun _ _ _ h => h⟩
    · have read := sameLinks_readRuns s (s.part c.part) (copyRuns (s.entry i) (moveArgs (s.entry i) params) n)
      split
      · exact read.trans ((sameLinks_releaseMove _ c).trans (sameLinks_moveFails _ _ _ _))
      · have copied := sameLinks_each (fun (t : State) (x : Nat × Bytes) =>
          sameLinks_sendCopy c params (moveTag c.id 0) (x.2.length / dataMax + 1) x.1 x.2 t)
        exact (read.trans (copied _ _)).trans (sameLinks_of_same rfl rfl rfl)

theorem sameLinks_packetsDone (s : State) : SameLinks s s.packetsDone :=
  sameLinks_each (fun t c => by
    split
    · exact .refl t
    · split
      · exact sameLinks_finishCmd t c.id _ _
      · exact sameLinks_moveCopy t c _ _ _ _
      · exact .refl t) s.cmds s

theorem sameLinks_cmdLost (s : State) (id : Nat) (st : BitVec 16) : SameLinks s (s.cmdLost id st) := by
  unfold State.cmdLost
  split
  · exact .refl s
  · split
    · exact (sameLinks_releaseMove s _).trans (sameLinks_moveFails _ _ _ _)
    · exact .refl s

theorem sameLinks_packetLost (s : State) (o : OutPkt) (st : BitVec 16) : SameLinks s (s.packetLost o st) := by
  unfold State.packetLost
  split
  · split
    · exact sameLinks_reply s _ _ _ _ _ _ _
    · exact .refl s
  · split
    · exact sameLinks_cmdLost s _ _
    · exact .refl s

theorem sameLinks_leaveRx (s : State) (o : OutPkt) : SameLinks s (s.leaveRx o) := by
  unfold State.leaveRx
  split
  · exact ⟨rfl, rfl, rfl, rfl, fun _ _ _ h => h⟩
  · exact .refl s

theorem sameLinks_closeSpur (s : State) : SameLinks s s.closeSpur := by
  have left := sameLinks_each sameLinks_leaveRx (s.net.out.filter (·.spur)) s
  refine left.trans ?_
  have gone : SameLinks (s.each (s.net.out.filter (·.spur)) State.leaveRx)
      ((s.each (s.net.out.filter (·.spur)) State.leaveRx).modNet fun n =>
        { n with out := n.out.filter fun o => !o.spur, retx := n.retx.filter fun o => !o.spur
                 snd := n.snd.filter fun x => !x.spur, ctl := n.ctl.filter fun x => x.1 != some 2 }) :=
    ⟨rfl, rfl, rfl, rfl, fun _ _ _ h => h⟩
  exact gone.trans (sameLinks_bump _ (fun p _ => lnkEvents_ne_lnkReg (by decide) 5 p) _ _ _)

end Sys2Proof.Machine
end


section
/-! PROOFS. Port states (R300 to R302, R330), and the checks of a received packet in their order (R303, R330, R336): from
these rules the statement PortsAndChecks. -/

namespace Sys2Proof.Machine

/-! ### A port that comes UP or leaves UP -/

theorem lnkEvents_eq (p : Nat) : lnkReg p 0x2C = 0x03002C + 0x100 * p := by
  unfold lnkReg
  omega

theorem port_modPort_ne (s : State) (p : Nat) (f : Port → Port) {q : Nat} (ne : q ≠ p) : (s.modPort p f).port q = s.port q :=
  Tbl.get_set_ne _ _ _ ne

theorem sameLinks_startDiscovery (s : State) : SameLinks s s.startDiscovery := by
  unfold State.startDiscovery
  split
  · exact .refl s
  · exact ⟨rfl, rfl, rfl, rfl, fun _ _ _ h => h⟩

theorem sameLinks_hello (s : State) : SameLinks s s.hello := by
  unfold State.hello State.drover
  dsimp only
  split
  · exact sameLinks_discardOn s 5
  · exact ⟨rfl, rfl, rfl, rfl, fun _ _ _ h => h⟩

theorem sameLinks_releaseHeld (s : State) : SameLinks s s.releaseHeld := by
  unfold State.releaseHeld
  split
  · exact ⟨rfl, rfl, rfl, rfl, fun _ _ _ h => h⟩
  · exact .refl s

theorem sameLinks_reopen (s : State) (p : Nat) : SameLinks s (s.modNet fun n => n.reopen p) :=
  ⟨rfl, rfl, rfl, rfl, fun _ _ _ h => h⟩

/-- What follows once a port is UP leaves its state and its events. -/
theorem sameLinks_opened (s : State) (p : Nat) :
    SameLinks s (let t := if 3 ≤ p then s.modNet fun n => n.reopen p else s
      if ringPort p then t.startDiscovery else if p = 5 then t.hello.releaseHeld else t) := by
  have opened : SameLinks s (if 3 ≤ p then s.modNet fun n => n.reopen p else s) := by
    split
    · exact sameLinks_reopen s p
    · exact .refl s
  dsimp only
  split
  · exact opened.trans (sameLinks_startDiscovery _)
  · split
    · exact opened.trans ((sameLinks_hello _).trans (sameLinks_releaseHeld _))
    · exact opened

theorem sameLinks_spurClosed (s : State) (c : Prop) [Decidable c] : SameLinks s (if c then s.closeSpur else s) := by
  split
  · exact sameLinks_closeSpur s
  · exact .refl s

theorem portUp_facts {s : State} {p : Nat} (below : p < 6) (down : (s.port p).state ≠ 2) :
    (s.portUp p).mem = s.mem ∧ ((s.portUp p).port p).state = 2 ∧ (∀ q, q ≠ p → (s.portUp p).port q = s.port q) ∧
    ((s.portUp p).reg (lnkReg p 0x2C)).getLsbD 1 = true := by
  have closed := sameLinks_spurClosed s (p = 5 ∧ (!s.spurOpen) = true)
  unfold State.portUp
  rw [if_neg down]
  generalize (if p = 5 ∧ (!s.spurOpen) = true then s.closeSpur else s) = t at closed ⊢
  have opened := sameLinks_opened
    ((t.modPort p fun x => { x with state := 2, marked := false, fe := none, fs := none }).setBits (lnkReg p 0x2C) 2) p
  refine ⟨opened.mem.trans closed.mem, ?_, fun q ne => ?_, opened.events p 1 below ?_⟩
  · rw [opened.port, port_setBits, port_modPort_self]
  · rw [opened.port, port_setBits, port_modPort_ne _ _ _ ne, closed.port]
  · exact getLsbD_reg_setBits_self _ (by decide) (by decide)

theorem getLsbD_reg_setMaps {s : State} {x y : W64} {a i : Nat} (set : (s.reg a).getLsbD i = true) :
    ((s.setMaps x y).reg a).getLsbD i = true := getLsbD_reg_setBits set

/-- A ring that breaks: its own flag alone is cleared, and what a ring port recorded stays. -/
theorem setWhole_facts (s : State) (ring : Nat) : (s.setWhole ring false).mem = s.mem ∧
    (∀ q, (s.setWhole ring false).port q = s.port q) ∧ (ring = 0 → (s.setWhole ring false).net.xWhole = false) ∧
    (ring = 1 → (s.setWhole ring false).net.yWhole = false) ∧
    ∀ a i, (s.reg a).getLsbD i = true → ((s.setWhole ring false).reg a).getLsbD i = true := by
  refine ⟨?_, port_setWhole s ring false, fun is => ?_, fun is => ?_, ?_⟩
  · unfold State.setWhole
    dsimp only
    split
    · rfl
    · split <;> rfl
  · subst is
    unfold State.setWhole
    simp only [if_true]
    split <;> rfl
  · subst is
    unfold State.setWhole
    simp only [Nat.one_ne_zero, if_false]
    split <;> rfl
  · intro a i set
    unfold State.setWhole
    dsimp only
    split
    · exact set
    · split
      · exact getLsbD_reg_setMaps set
      · exact getLsbD_reg_setMaps set

/-- What remains of the state once port p has left UP, but for the event and the ring. -/
def State.leaving (s : State) (p st : Nat) : State :=
  let t := s.modPort p fun x => { x with state := st }
  if p = 5 ∧ !t.spurOpen then t.closeSpur else t

theorem leaving_facts (s : State) (p st : Nat) : (s.leaving p st).mem = s.mem ∧ ((s.leaving p st).port p).state = st ∧
    ∀ q, q ≠ p → (s.leaving p st).port q = s.port q := by
  have closed := sameLinks_spurClosed (s.modPort p fun x => { x with state := st })
    (p = 5 ∧ (!(s.modPort p fun x => { x with state := st }).spurOpen) = true)
  refine ⟨closed.mem, ?_, fun q ne => ?_⟩
  · exact (congrArg Port.state (closed.port p)).trans (congrArg Port.state (port_modPort_self s p _))
  · exact (closed.port q).trans (port_modPort_ne s p _ ne)

theorem portLeaves_of_down {s : State} {p st : Nat} (down : (s.port p).state ≠ 2) : s.portLeaves p st = s.leaving p st :=
  if_pos (by rw [beq_false_of_ne down]; rfl)

theorem portLeaves_of_up {s : State} {p st : Nat} (up : (s.port p).state = 2) : s.portLeaves p st =
    if ringPort p then (((s.leaving p st).setBits (lnkReg p 0x2C) 1).setWhole (p % 3) false).startDiscovery
    else (s.leaving p st).setBits (lnkReg p 0x2C) 1 := if_neg (by rw [up]; decide)

theorem portLeaves_facts {s : State} {p st : Nat} (below : p < 6) (up : (s.port p).state = 2) :
    (s.portLeaves p st).mem = s.mem ∧ ((s.portLeaves p st).port p).state = st ∧
    (∀ q, q ≠ p → (s.portLeaves p st).port q = s.port q) ∧ ((s.portLeaves p st).reg (lnkReg p 0x2C)).getLsbD 0 = true ∧
    (p = 0 ∨ p = 3 → (s.portLeaves p st).net.xWhole = false) ∧ (p = 1 ∨ p = 4 → (s.portLeaves p st).net.yWhole = false) := by
  obtain ⟨mem, own, others⟩ := leaving_facts s p st
  have event : (((s.leaving p st).setBits (lnkReg p 0x2C) 1).reg (lnkReg p 0x2C)).getLsbD 0 = true :=
    getLsbD_reg_setBits_self _ (by decide) (by decide)
  rw [portLeaves_of_up up]
  cases ring : ringPort p with
  | false =>
    have spur : p = 2 ∨ p = 5 := by
      simp only [ringPort, Bool.and_eq_false_iff, bne_eq_false_iff_eq] at ring
      exact ring
    exact ⟨mem, own, others, event, fun no => by omega, fun no => by omega⟩
  | true =>
    obtain ⟨sameMem, ports, x, y, bits⟩ := setWhole_facts ((s.leaving p st).setBits (lnkReg p 0x2C) 1) (p % 3)
    have found := sameLinks_startDiscovery (((s.leaving p st).setBits (lnkReg p 0x2C) 1).setWhole (p % 3) false)
    refine ⟨found.mem.trans (sameMem.trans mem), ?_, fun q ne => ?_, found.events p 0 below (bits _ _ event), fun is => ?_,
      fun is => ?_⟩
    · exact (congrArg Port.state ((found.port p).trans (ports p))).trans own
    · exact (found.port q).trans ((ports q).trans (others q ne))
    · exact found.xWhole.trans (x (by omega))
    · exact found.yWhole.trans (y (by omega))

/-! ### A spur that loses its host (R330, R343) -/

theorem leaveRx_frame (s : State) (o : OutPkt) : { s.leaveRx o with net := s.net } = s ∧
    { (s.leaveRx o).net with rcv := s.net.rcv, rxFill := s.net.rxFill } = s.net := by
  unfold State.leaveRx
  split <;> exact ⟨rfl, rfl⟩

/-- Packets that leave the receive buffer change nothing but what is owed to their senders. -/
theorem each_leaveRx_frame (s : State) (l : List OutPkt) : { s.each l State.leaveRx with net := s.net } = s ∧
    { (s.each l State.leaveRx).net with rcv := s.net.rcv, rxFill := s.net.rxFill } = s.net :=
  each_of_step (P := fun t : State => { t with net := s.net } = s ∧
      { t.net with rcv := s.net.rcv, rxFill := s.net.rxFill } = s.net)
    (fun t o same => by
      obtain ⟨state, net⟩ := leaveRx_frame t o
      rw [← state, ← net] at same
      exact same) l ⟨rfl, rfl⟩

/-- What closing the spur leaves queued, and what it counts. -/
theorem closeSpur_facts (s : State) : s.closeSpur.net.out = s.net.out.filter (fun o => !o.spur) ∧
    s.closeSpur.net.retx = s.net.retx.filter (fun o => !o.spur) ∧ s.closeSpur.net.snd = s.net.snd.filter (fun x => !x.spur) ∧
    s.closeSpur.net.ctl = s.net.ctl.filter (fun x => x.1 != some 2) ∧
    (s.closeSpur.reg (lnkReg 5 0x1C)).toNat = min ((s.reg (lnkReg 5 0x1C)).toNat +
      ((s.net.out.filter (·.spur)).length + ((s.net.snd.filter (·.spur)).map fun x => x.held.length).sum +
        (s.net.ctl.filter fun x => x.1 == some 2).length)) 0xFFFFFFFF := by
  obtain ⟨state, net⟩ := each_leaveRx_frame s (s.net.out.filter (·.spur))
  have out := congrArg Net.out net
  have retx := congrArg Net.retx net
  have snd := congrArg Net.snd net
  have ctl := congrArg Net.ctl net
  have regs := congrArg State.regs state
  refine ⟨congrArg _ out, congrArg _ retx, congrArg _ snd, congrArg _ ctl, ?_⟩
  unfold State.closeSpur
  dsimp only
  rw [reg_bump_word, toNat_satAdd32]
  exact congrArg (fun r : Tbl Word => min ((Tbl.get 0 r (lnkReg 5 0x1C)).toNat + _) 0xFFFFFFFF) regs

theorem spurOpen_of_off {s : State} (off : (s.port 5).state = 0) : s.spurOpen = false := by
  rw [State.spurOpen, off]
  rfl

/-- SOUT goes OFF: what was bound for it is gone and counted. -/
theorem portLeaves_of_spur {s : State} (up : (s.port 5).state = 2) : s.portLeaves 5 0 =
    (s.modPort 5 fun x => { x with state := 0 }).closeSpur.setBits (lnkReg 5 0x2C) 1 := by
  have off : ((s.modPort 5 fun x => { x with state := 0 }).port 5).state = 0 := by rw [port_modPort_self]
  have closes : s.leaving 5 0 = (s.modPort 5 fun x => { x with state := 0 }).closeSpur :=
    if_pos ⟨rfl, by rw [spurOpen_of_off off]; rfl⟩
  rw [portLeaves_of_up up, closes]
  rfl

/-! ### The meanings of the port instructions -/

theorem exec_portTraining_of_training {p : Fin 6} {up : Bool} {s : State} (trains : (Tbl.get {} s.stages 6).result ≠ 0)
    (down : (s.port p.val).state ≠ 2) : exec (.portTraining p up) s =
      .next (if up then (s.portUp p.val).packetsDone else (s.portLeaves p.val 3).packetsDone) :=
  congrArg Host.Outcome.next (when_true (by rw [Bool.and_eq_true, bne_iff_ne, bne_iff_ne]; exact ⟨trains, down⟩))

theorem exec_portTraining_of_none {p : Fin 6} {up : Bool} {s : State}
    (none_ : ¬ (Tbl.get {} s.stages 6).result ≠ 0 ∨ (s.port p.val).state = 2) : exec (.portTraining p up) s = .next s :=
  congrArg Host.Outcome.next (when_false (by
    rw [Bool.and_eq_false_iff, bne_eq_false_iff_eq, bne_eq_false_iff_eq]
    exact none_.imp not_not.1 id))

theorem exec_portDown_of_up {p : Fin 6} {s : State} (up : (s.port p.val).state = 2) :
    exec (.portDown p) s = .next (s.portLeaves p.val 0).packetsDone :=
  congrArg Host.Outcome.next (when_true (beq_iff_eq.2 up))

theorem exec_portDown_of_other {p : Fin 6} {s : State} (down : (s.port p.val).state ≠ 2) :
    exec (.portDown p) s = .next s := congrArg Host.Outcome.next (when_false (beq_false_of_ne down))

/-- Ports train, come UP and go down. -/
theorem portStates : Claims.PortStates := by
  refine ⟨fun p up s => ⟨exec_portTraining_of_none, fun trains down => ?trains⟩,
    fun p s => ⟨exec_portDown_of_other, fun up => ?down⟩, fun s _ up => ?spur⟩
  case trains =>
    refine ⟨_, exec_portTraining_of_training trains down, ?_⟩
    rw [← lnkEvents_eq]
    cases up with
    | false =>
      obtain ⟨mem, own, others⟩ := leaving_facts s p.val 3
      have same := sameLinks_packetsDone (s.portLeaves p.val 3)
      rw [portLeaves_of_down down] at same ⊢
      refine ⟨same.mem.trans mem, ?_, fun q ne => congrArg Port.state ((same.port q).trans (others q ne)), nofun⟩
      exact (congrArg Port.state (same.port p.val)).trans own
    | true =>
      obtain ⟨mem, own, others, event⟩ := portUp_facts p.isLt down
      have same := sameLinks_packetsDone (s.portUp p.val)
      refine ⟨same.mem.trans mem, ?_, fun q ne => congrArg Port.state ((same.port q).trans (others q ne)),
        fun _ => same.events p.val 1 p.isLt event⟩
      exact (congrArg Port.state (same.port p.val)).trans own
  case down =>
    refine ⟨_, exec_portDown_of_up up, ?_⟩
    rw [← lnkEvents_eq]
    obtain ⟨mem, own, others, event, x, y⟩ := portLeaves_facts (st := 0) p.isLt up
    have same := sameLinks_packetsDone (s.portLeaves p.val 0)
    exact ⟨same.mem.trans mem, fun q ne => congrArg Port.state ((same.port q).trans (others q ne)),
      same.events p.val 0 p.isLt event, fun _ => (congrArg Port.state (same.port p.val)).trans own,
      fun is => same.xWhole.trans (x is), fun is => same.yWhole.trans (y is)⟩
  case spur =>
    obtain ⟨out, retx, snd, ctl, counted⟩ := closeSpur_facts (s.modPort 5 fun x => { x with state := 0 })
    dsimp only
    refine ⟨exec_portDown_of_up (p := 5) up, ?_⟩
    rw [portLeaves_of_spur up]
    refine ⟨fun o mem => ?_, fun x mem => ?_, fun x mem => ?_, ?_⟩
    · have mem : o ∈ s.net.out.filter (fun o => !o.spur) ++ s.net.retx.filter (fun o => !o.spur) := out ▸ retx ▸ mem
      rw [← List.filter_append] at mem
      exact Bool.not_eq_true' _ ▸ (List.mem_filter.1 mem).2
    · have mem : x ∈ s.net.snd.filter (fun x => !x.spur) := snd ▸ mem
      exact Bool.not_eq_true' _ ▸ (List.mem_filter.1 mem).2
    · have mem : x ∈ s.net.ctl.filter (fun x => x.1 != some 2) := ctl ▸ mem
      exact bne_iff_ne.1 (List.mem_filter.1 mem).2
    · rw [show (0x03051C : Nat) = lnkReg 5 0x1C from rfl, reg_setBits_ne _ _ (by decide)]
      exact counted

/-! ### The checks of a received packet -/

section
variable {u : State} {port : Nat} {k : Pkt}

theorem checkDeliver_of_rejected (rejected : (u.seqCheck port k).2 = false) :
    u.checkDeliver port k = (u.seqCheck port k).1 := if_pos (by rw [rejected]; rfl)

section
variable (accepted : (u.seqCheck port k).2 = true)
include accepted

theorem checkDeliver_of_delivered (goes : u.ready = true ∨ k.rel = false ∨ k.dt = 0x30) :
    u.checkDeliver port k = (u.seqCheck port k).1.deliver port k := by
  have passes : (!u.ready && k.rel && k.dt != 0x30) = false := by
    obtain ready | unreliable | command := goes
    · rw [ready]; rfl
    · rw [unreliable, Bool.and_false]; rfl
    · rw [command, Bool.and_eq_false_iff]; exact Or.inr rfl
  rw [State.checkDeliver, accepted, passes]
  rfl

theorem checkDeliver_of_early (early : u.ready = false) (reliable : k.rel = true) (other : k.dt ≠ 0x30) :
    u.checkDeliver port k =
      (u.seqCheck port k).1.leaveRx { pkt := k, spur := false, rx := k.rxPlace (port == 2) } := by
  rw [State.checkDeliver, accepted, early, reliable, bne_iff_ne.2 other]
  rfl

end

end

/-- What is for this device passes the sequence check before it is delivered. -/
theorem checkDeliver_arms {s u : State} {port : Nat} {k : Pkt} {out : Outcome} (same : u.ready = s.ready)
    (is : out = .next (u.checkDeliver port k)) :
    ((u.seqCheck port k).2 = false → out = .next (u.seqCheck port k).1) ∧
    ((u.seqCheck port k).2 = true →
      ((s.ready = true ∨ k.rel = false ∨ k.dt = 0x30) → out = .next ((u.seqCheck port k).1.deliver port k)) ∧
      (s.ready = false → k.rel = true → k.dt ≠ 0x30 → out = .next ((u.seqCheck port k).1.leaveRx
        { pkt := k, spur := false, rx := k.rxPlace (port == 2) }))) := by
  rw [is, ← same]
  exact ⟨fun rejected => by rw [checkDeliver_of_rejected rejected],
    fun accepted => ⟨fun goes => by rw [checkDeliver_of_delivered accepted goes],
      fun early reliable other => by rw [checkDeliver_of_early accepted early reliable other]⟩⟩

theorem ready_through (s : State) (r : Nat) (p : Pkt) : (s.through r p).ready = s.ready := by
  unfold State.through
  split
  · rfl
  · split <;> rfl

theorem ready_passOn (s : State) (r : Nat) (p : Pkt) : (s.passOn r p).ready = s.ready := by
  unfold State.passOn
  split
  · split
    · rfl
    · exact ready_through s r _
  · split
    · rfl
    · exact ready_through s r p

section
variable {s : State} {port : Nat} {x : RawPkt} {p : Pkt}

theorem fromRing_of_other (single : p.dst ≠ 0xFFF) (other : ¬ (s.net.idValid = true ∧ p.dst = s.net.id)) :
    s.fromRing port x p = s.forward port p := by
  rw [State.fromRing, if_neg (by rwa [beq_iff_eq]), if_neg (mt mine_iff.1 other)]

section
variable (broadcast : p.dst = 0xFFF)
include broadcast

theorem fromRing_of_badBroadcast (bad : rawFieldsOk x p = false) : s.fromRing port x p = s.discardOn port := by
  rw [State.fromRing, if_pos (beq_iff_eq.2 broadcast), if_pos (by rw [bad]; rfl)]

theorem fromRing_of_broadcast (good : rawFieldsOk x p = true) : s.fromRing port x p =
    if p.dt = 0x36 ∧ s.net.idValid ∧ p.src = s.net.id then s else (s.passOn port p).checkDeliver port p := by
  rw [State.fromRing, if_pos (beq_iff_eq.2 broadcast), if_neg (by rw [good]; decide)]

end

theorem fromSpur_of_stranger (bad : s.net.idValid = false ∨ p.src ≠ s.net.id ∨ p.dst = 0xFFF) :
    s.fromSpur x p = s.discardOn 2 := by
  refine if_pos ?_
  obtain invalid | source | broadcast := bad
  · rw [invalid]; rfl
  · rw [bne_iff_ne.2 source, Bool.or_true, Bool.true_or]
  · rw [broadcast, beq_self_eq_true, Bool.or_true]

theorem fromSpur_of_host (valid : s.net.idValid = true) (source : p.src = s.net.id) (single : p.dst ≠ 0xFFF) :
    s.fromSpur x p =
      if !rawFieldsOk x p then s.discardOn 2
      else if p.dst == s.net.id then s.checkDeliver 2 p
      else if (s.seqCheck 2 p).2 then (s.seqCheck 2 p).1.relayOut p else (s.seqCheck 2 p).1 := by
  refine if_neg ?_
  rw [valid, source, beq_false_of_ne single]
  simp

/-- The failures of the header, the CRC, the type and the packet's own check, in this order. -/
theorem receivePkt_failures (s : State) (port : Nat) (x : RawPkt) :
    (x.hdrBad = true → s.receivePkt port x = s.linkError port 0x18) ∧
    (x.hdrBad = false → x.crcBad = true →
      s.receivePkt port x = (s.bumpWide (lnkReg port 0x0C) 1).linkError port 0x14) ∧
    (x.hdrBad = false → x.crcBad = false → typeOk x.dt x.vc = false →
      s.receivePkt port x = (s.bumpWide (lnkReg port 0x0C) 1).discardOn port) ∧
    (x.hdrBad = false → x.crcBad = false → typeOk x.dt x.vc = true → rawChecked x = false →
      s.receivePkt port x = (s.bumpWide (lnkReg port 0x0C) 1).linkError port 0x18) := by
  refine ⟨fun header => if_pos header, fun header crc => ?_, fun header crc type => ?_, fun header crc type check => ?_⟩
  · simp only [State.receivePkt, header, crc, Bool.false_eq_true, if_false, if_true]
  · simp only [State.receivePkt, header, crc, type, Bool.false_eq_true, if_false, Bool.not_false, if_true]
  · simp only [State.receivePkt, header, crc, type, check, Bool.false_eq_true, if_false, Bool.not_false, Bool.not_true,
      if_true]

end

/-- The checks of a long packet, in order. -/
theorem packetChecks : Claims.PacketChecks := by
  intro p x s
  refine ⟨fun down => congrArg Host.Outcome.next (when_false (beq_false_of_ne down)), fun up => ?_⟩
  rw [exec_longPacketReceive_of_up up]
  obtain ⟨header, crc, type, check⟩ := receivePkt_failures s p.val x
  refine ⟨fun a => congrArg Host.Outcome.next (header a), fun a b => congrArg Host.Outcome.next (crc a b),
    fun a b c => congrArg Host.Outcome.next (type a b c), fun a b c d => congrArg Host.Outcome.next (check a b c d),
    fun a b c d => ?_⟩
  rw [receivePkt_of_checked p.val a b c d, ← show lnkReg p.val 0x0C = 0x030000 + 0x100 * p.val + 0x0C from rfl]
  have net : (s.bumpWide (lnkReg p.val 0x0C) 1).net = s.net := rfl
  have ready : (s.bumpWide (lnkReg p.val 0x0C) 1).ready = s.ready := rfl
  generalize s.bumpWide (lnkReg p.val 0x0C) 1 = n at net ready ⊢
  rw [← net]
  refine ⟨fun ring single other => ?_, fun ring single own => ⟨fun bad => ?_, fun good => ?_⟩,
    fun ring broadcast => ⟨fun bad => ?_, fun good control valid source => ?_, fun good other => ?_⟩,
    fun spur stranger => ?_, fun spur valid source single => ⟨fun bad => ?_, fun good own => ?_, fun good other => ?_⟩⟩
  · rw [if_neg ring, fromRing_of_other single other]
  · rw [if_neg ring, fromRing_of_mine single (mine_iff.2 own), bad]
    rfl
  · refine checkDeliver_arms ready ?_
    rw [if_neg ring, fromRing_of_mine single (mine_iff.2 own), good]
    rfl
  · rw [if_neg ring, fromRing_of_badBroadcast broadcast bad]
    rfl
  · rw [if_neg ring, fromRing_of_broadcast broadcast good, if_pos ⟨control, valid, source⟩]
  · refine checkDeliver_arms ((ready_passOn n p.val _).trans ready) ?_
    rw [if_neg ring, fromRing_of_broadcast broadcast good, if_neg other]
  all_goals rw [if_pos spur]
  · rw [spur, fromSpur_of_stranger stranger]
    rfl
  · rw [spur, fromSpur_of_host valid source single, bad]
    rfl
  · rw [spur]
    refine checkDeliver_arms ready ?_
    rw [fromSpur_of_host valid source single, good, own.2, beq_self_eq_true]
    rfl
  · rw [fromSpur_of_host valid source single, good, beq_false_of_ne fun own => other ⟨valid, own⟩]
    rfl

/-- Settles O53: a port's own state and event stand through all that its change sets off; a packet's checks in their
order. -/
theorem portsAndChecks : Obligations.PortsAndChecks := ⟨portStates, packetChecks⟩

end Sys2Proof.Machine
end


section
/-! PROOFS. Reliable delivery (R316 to R319) and the order in which a port sends (R331, R333, R335): from these rules the
statement ReliableDelivery. -/

namespace Sys2Proof.Machine

/-! ### Acknowledgement (R316, R319, R335) -/

section
variable {s : State} {src : BitVec 12} {spur : Bool} {vc : Nat} (seq : BitVec 16)

theorem ackIn_of_none (none_ : s.net.snd.find? (fun x => x.keyed src spur vc true) = none) : s.ackIn src spur vc seq = s := by
  rw [State.ackIn, none_]

theorem nakIn_of_none (none_ : s.net.snd.find? (fun x => x.keyed src spur vc true) = none) : s.nakIn src spur vc seq = s := by
  rw [State.nakIn, none_]

theorem timeoutIn_of_none (none_ : s.net.snd.find? (fun x => x.keyed src spur vc true) = none) :
    s.timeoutIn src spur vc = s := by
  rw [State.timeoutIn, none_]

section
variable {x : Snd} (found : s.net.snd.find? (fun x => x.keyed src spur vc true) = some x)
include found

theorem ackIn_of_found : s.ackIn src spur vc seq =
    let kept := x.held.filter fun o => !seqLe o.pkt.seq seq
    let u := (s.setSnd { x with held := kept, timeouts := if kept.length < x.held.length then 0 else x.timeouts }).modNet
      fun n => { n with retx := n.retx.filter fun o => !(x.owns o && seqLe o.pkt.seq seq) }
    if kept.length < x.held.length then u.packetsDone else u := by
  rw [State.ackIn, found]
  simp only [decide_eq_true_eq]

theorem nakIn_of_found : s.nakIn src spur vc seq = s.resend x (x.held.filter fun o => seqLe seq o.pkt.seq) := by
  rw [State.nakIn, found]

theorem timeoutIn_of_found : s.timeoutIn src spur vc =
    if x.held.isEmpty then s
    else if 8 ≤ x.timeouts + 1 then s.abandon x
    else (s.setSnd { x with timeouts := x.timeouts + 1 }).resend x x.held := by
  rw [State.timeoutIn, found]

end

end

theorem nakCounter_eq (p : Nat) : lnkReg p 0x20 = 0x030020 + 0x100 * p := by
  unfold lnkReg
  omega

/-- Records of link control, and the timers of a space. -/
theorem acknowledgements : Claims.Acknowledgements := by
  refine ⟨fun p src vc seq s => ⟨fun none_ => ⟨?ackNone, ?nakNone⟩, fun x found => ⟨?ackFound, ?nakFound⟩, fun count => rfl⟩,
    fun d spur vc s => ?timers⟩
  case ackNone => exact congrArg Host.Outcome.next (ackIn_of_none seq none_)
  case ackFound => exact congrArg Host.Outcome.next (ackIn_of_found seq found)
  case nakNone =>
    rw [← nakCounter_eq]
    exact congrArg Host.Outcome.next (nakIn_of_none (s := s.bump (lnkReg p.val 0x20) 16 16 1) seq none_)
  case nakFound =>
    rw [← nakCounter_eq]
    exact congrArg Host.Outcome.next (nakIn_of_found (s := s.bump (lnkReg p.val 0x20) 16 16 1) seq found)
  case timers =>
    obtain ⟨nak, whole⟩ := nakRepeat_facts d spur vc s
    obtain ⟨ack, acked⟩ := ackTimer_facts d spur vc s
    refine ⟨acked, ack, whole, nak, fun none_ => congrArg Host.Outcome.next (timeoutIn_of_none none_),
      fun x found => ⟨fun empty => ?_, fun held few => ?_, fun held many => ?_⟩⟩
    all_goals refine congrArg Host.Outcome.next ((timeoutIn_of_found found).trans ?_)
    · exact if_pos (List.isEmpty_iff.2 empty)
    · rw [if_neg (mt List.isEmpty_iff.1 held), if_neg (by omega)]
    · rw [if_neg (mt List.isEmpty_iff.1 held), if_pos (by omega)]

/-! ### The sender's spaces (R317) -/

theorem keyed_sndOf (s : State) (dst : BitVec 12) (spur : Bool) (vc : Nat) (rel : Bool) :
    (s.sndOf dst spur vc rel).keyed dst spur vc rel = true := by
  unfold State.sndOf
  split
  next x found => exact List.find?_some (p := fun x : Snd => x.keyed dst spur vc rel) found
  next => simp [Snd.keyed]

theorem sndKeyed_iff {x : Snd} {dst : BitVec 12} {spur : Bool} {vc : Nat} {rel : Bool} :
    x.keyed dst spur vc rel = true ↔ x.dst = dst ∧ x.spur = spur ∧ x.vc = vc ∧ x.rel = rel := by
  simp [Snd.keyed, and_assoc]

/-- The space that a write leaves is the one written. -/
theorem sndOf_setSnd (s : State) {x : Snd} {dst : BitVec 12} {spur : Bool} {vc : Nat} {rel : Bool}
    (key : x.keyed dst spur vc rel = true) : (s.setSnd x).sndOf dst spur vc rel = x := by
  obtain ⟨rfl, rfl, rfl, rfl⟩ := sndKeyed_iff.1 key
  have gone : (s.net.snd.filter fun y => !y.keyed x.dst x.spur x.vc x.rel).find?
      (fun y => y.keyed x.dst x.spur x.vc x.rel) = none := by
    simp [List.find?_eq_none]
  simp only [State.sndOf, State.setSnd, State.modNet, List.find?_append, gone, Option.none_or, List.find?_singleton, key,
    if_true]

theorem last_emit (s : State) (port : Nat) (p : Pkt) : ((s.emit port p).port port).last = some p :=
  congrArg Port.last (port_modPort_self s port fun x => { x with last := some p })

/-- A space once it has sent a packet. -/
def Snd.afterSend (x : Snd) (o : OutPkt) : Snd :=
  let p := { o.pkt with seq := x.next, sync := x.fresh, retx := false }
  { x with next := x.next + 1, fresh := false, credits := (if x.fresh then 256 else x.credits) - p.credits
           held := if p.rel then x.held ++ [{ o with pkt := p, rx := none }] else x.held }

/-- A packet takes its space's next SEQ, and the space goes on. -/
theorem sendIn_facts (s : State) (port : Nat) (o : OutPkt) :
    let x := s.sndOf o.pkt.dst o.spur o.pkt.vc o.pkt.rel
    ((s.sendIn port o).port port).last = some { o.pkt with seq := x.next, sync := x.fresh, retx := false } ∧
    ((s.sendIn port o).sndOf o.pkt.dst o.spur o.pkt.vc o.pkt.rel).next = x.next + 1 := by
  refine ⟨last_emit _ port _, ?_⟩
  have key := sndKeyed_iff.1 (keyed_sndOf s o.pkt.dst o.spur o.pkt.vc o.pkt.rel)
  exact congrArg Snd.next (sndOf_setSnd s (x := (s.sndOf o.pkt.dst o.spur o.pkt.vc o.pkt.rel).afterSend o) (sndKeyed_iff.2 key))

theorem mem_emit (s : State) (port : Nat) (p : Pkt) : (s.emit port p).mem = s.mem := by
  rw [State.emit, mem_bump, mem_bumpWide]
  rfl

theorem mem_sendIn (s : State) (port : Nat) (o : OutPkt) : (s.sendIn port o).mem = s.mem := by
  rw [State.sendIn, mem_emit]
  rfl

theorem mem_fabDrop (s : State) (off : Nat) : (s.fabDrop off).mem = s.mem := mem_bump _ _ _ _ _

/-! ### The classes in their order (R331) -/

section
variable {s : State} {port : Nat}

theorem transmit_of_receiver (receives : port < 3) : s.transmit port = s := if_pos receives

section
variable (sends : 3 ≤ port)
include sends

theorem transmit_of_down (down : (s.port port).state ≠ 2) : s.transmit port =
    if port ≠ 5 then s.dropPassing port else if s.spurOpen then s else s.closeSpur.packetsDone := by
  rw [State.transmit, if_neg (Nat.not_lt.2 sends), if_pos down]

variable (up : (s.port port).state = 2)
include up

theorem transmit_of_passing {t : State} (passes : (if port = 5 then none else s.sendPassing port) = some t) :
    s.transmit port = t := by
  rw [State.transmit, if_neg (Nat.not_lt.2 sends), if_neg (not_not.2 up), passes]

variable (free : (if port = 5 then none else s.sendPassing port) = none)
include free

theorem transmit_of_control {t : State} (control : s.sendCtl port = some t) : s.transmit port = t := by
  rw [State.transmit, if_neg (Nat.not_lt.2 sends), if_neg (not_not.2 up), free]
  dsimp only
  rw [control]

theorem transmit_of_again {t : State} (quiet : s.sendCtl port = none) (again : s.sendRetx port = some t) :
    s.transmit port = t := by
  rw [State.transmit, if_neg (Nat.not_lt.2 sends), if_neg (not_not.2 up), free]
  dsimp only
  rw [quiet]
  dsimp only
  rw [again]

theorem transmit_of_own (quiet : s.sendCtl port = none) (fresh : s.sendRetx port = none) :
    s.transmit port = s.sendOwn port := by
  rw [State.transmit, if_neg (Nat.not_lt.2 sends), if_neg (not_not.2 up), free]
  dsimp only
  rw [quiet]
  dsimp only
  rw [fresh]

end

end

theorem spurOpen_of_retraining {s : State} (retrains : (s.port 5).state = 1) : s.spurOpen = true := by
  rw [State.spurOpen, retrains]
  rfl

theorem spurOpen_of_gone {s : State} (up : (s.port 5).state ≠ 2) (retrains : (s.port 5).state ≠ 1) : s.spurOpen = false := by
  rw [State.spurOpen, beq_false_of_ne up, beq_false_of_ne retrains]
  rfl

theorem sendPassing_of_thru {s : State} {q : Nat} {k : Pkt} (thru : Tbl.get none s.net.thru q = some k) :
    s.sendPassing (3 + q) = some ((s.modNet fun n => { n with thru := Tbl.set none n.thru q none }).emit (3 + q) k) := by
  rw [State.sendPassing, Nat.add_sub_cancel_left, thru]

/-! ### What sending leaves of memory -/

theorem mem_sendCtl {s t : State} {port : Nat} (sent : s.sendCtl port = some t) : t.mem = s.mem := by
  rw [State.sendCtl] at sent
  split at sent
  · cases sent
  · dsimp only at sent
    split at sent
    · rw [← Option.some.inj sent, mem_sendIn]
      rfl
    · rw [← Option.some.inj sent, mem_fabDrop]
      rfl

theorem mem_sendRetx {s t : State} {port : Nat} (sent : s.sendRetx port = some t) : t.mem = s.mem := by
  rw [State.sendRetx] at sent
  split at sent
  · cases sent
  · dsimp only at sent
    split at sent
    · rw [← Option.some.inj sent, mem_bump, mem_emit]
      rfl
    · rw [← Option.some.inj sent, mem_fabDrop]
      rfl

theorem mem_sendPassing {s t : State} {port : Nat} (sent : s.sendPassing port = some t) : t.mem = s.mem := by
  rw [State.sendPassing] at sent
  split at sent
  · rw [← Option.some.inj sent, mem_emit]
    rfl
  · split at sent
    · rw [← Option.some.inj sent, mem_emit]
      rfl
    · cases sent

theorem mem_dropPassing (s : State) (port : Nat) : (s.dropPassing port).mem = s.mem := by
  rw [State.dropPassing]
  exact mem_bump _ _ _ _ _

theorem mem_unrouted (s : State) (o : OutPkt) : (s.unrouted o).mem = s.mem := by
  unfold State.unrouted
  dsimp only
  refine (sameLinks_packetsDone _).mem.trans ((sameLinks_packetLost _ _ _).mem.trans ?_)
  split <;> rfl

theorem mem_chargeQuota (s : State) (port part n : Nat) : (s.chargeQuota port part n).mem = s.mem := by
  unfold State.chargeQuota
  split <;> rfl

/-- The state once packet k of the queue has left it for the port, charged to its partition. -/
def State.takeOut (s : State) (port k : Nat) (o : OutPkt) : State :=
  (s.modNet fun n => { n with out := n.out.eraseIdx k, lastPart := Tbl.set 15 n.lastPart port o.charge }).leaveRx o

/-- The partition whose turn is i-th at a port. -/
def State.turnOwn (s : State) (port i : Nat) : Nat := (Tbl.get 15 s.net.lastPart port + 1 + i) % 16

/-- What the partition whose turn is i-th can send: a place in the queue, and whether it goes. -/
def State.pickAt (s : State) (port i : Nat) : Option (Nat × Bool) :=
  if s.mayInsert port (s.turnOwn port i) then s.firstOf port (s.turnOwn port i) [] s.net.out.zipIdx else none

/-- What the port sends of its own: the first that a partition in turn can send. -/
def State.pickOwn (s : State) (port : Nat) : Option (Nat × Bool) := (List.range 16).findSome? (s.pickAt port)

theorem sendOwn_eq (s : State) (port : Nat) : s.sendOwn port = match s.pickOwn port with
    | none => s
    | some (k, go) => match s.net.out[k]? with
      | none => s
      | some o =>
        if !go then (s.takeOut port k o).unrouted o
        else match o.frame with
          | some (g, _) => (((s.takeOut port k o).sendIn port o).chargeQuota port o.charge o.pkt.size).bump
              (0x031000 + 0x20 * g + 0x18) 0 32 1
          | none => ((s.takeOut port k o).sendIn port o).chargeQuota port o.charge o.pkt.size := by
  rw [State.sendOwn]
  dsimp only
  rw [List.findSome?_map]
  rfl

section
variable {s : State} {port : Nat}

theorem sendOwn_of_pick {k : Nat} {go : Bool} (pick : s.pickOwn port = some (k, go)) {o : OutPkt}
    (at_ : s.net.out[k]? = some o) : s.sendOwn port =
      if !go then (s.takeOut port k o).unrouted o
      else match o.frame with
        | some (g, _) => (((s.takeOut port k o).sendIn port o).chargeQuota port o.charge o.pkt.size).bump
            (0x031000 + 0x20 * g + 0x18) 0 32 1
        | none => ((s.takeOut port k o).sendIn port o).chargeQuota port o.charge o.pkt.size := by
  rw [sendOwn_eq, pick]
  dsimp only
  rw [at_]

theorem sendOwn_of_none (none_ : s.pickOwn port = none) : s.sendOwn port = s := by
  rw [sendOwn_eq, none_]

end

/-- A packet that is picked stands in the queue, and its partition is charged. -/
theorem charge_of_firstOf {s : State} {port part k : Nat} {go : Bool} (waits : List (BitVec 12 × Bool × Nat))
    (l : List (OutPkt × Nat)) (first : s.firstOf port part waits l = some (k, go)) : ∃ o, (o, k) ∈ l ∧ o.charge = part := by
  induction l generalizing waits with
  | nil => cases first
  | cons y l ih =>
    obtain ⟨o, j⟩ := y
    have later {waits} (first : s.firstOf port part waits l = some (k, go)) :
        ∃ o', (o', k) ∈ (o, j) :: l ∧ o'.charge = part := by
      obtain ⟨o', mem, charged⟩ := ih waits first
      exact ⟨o', List.mem_cons_of_mem _ mem, charged⟩
    unfold State.firstOf at first
    by_cases own : o.charge = part
    · rw [if_neg (not_not.2 own)] at first
      split at first
      · exact later first
      · cases first
        exact ⟨o, List.mem_cons_self, own⟩
      · split at first
        · exact later first
        · split at first
          · cases first
            exact ⟨o, List.mem_cons_self, own⟩
          · exact later first
    · rw [if_pos own] at first
      exact later first

/-- What is picked is the first that a partition can send, and stands in the queue at the partition's charge. -/
theorem out_of_pickAt {s : State} {port i k : Nat} {go : Bool} (first : s.pickAt port i = some (k, go)) :
    ∃ o, s.net.out[k]? = some o ∧ o.charge = s.turnOwn port i := by
  rw [State.pickAt] at first
  split at first
  · obtain ⟨o, mem, charged⟩ := charge_of_firstOf _ _ first
    exact ⟨o, List.mem_zipIdx_iff_getElem?.1 mem, charged⟩
  · cases first

theorem mem_sendOwn (s : State) (port : Nat) : (s.sendOwn port).mem = s.mem := by
  cases pick : s.pickOwn port with
  | none => rw [sendOwn_of_none pick]
  | some y =>
    obtain ⟨k, go⟩ := y
    obtain ⟨i, _, first⟩ := List.exists_of_findSome?_eq_some pick
    obtain ⟨o, at_, _⟩ := out_of_pickAt first
    have taken : (s.takeOut port k o).mem = s.mem := by
      rw [State.takeOut, (sameLinks_leaveRx _ o).mem]
      rfl
    have sent : (((s.takeOut port k o).sendIn port o).chargeQuota port o.charge o.pkt.size).mem = s.mem := by
      rw [mem_chargeQuota, mem_sendIn, taken]
    rw [sendOwn_of_pick pick at_]
    split
    · exact (mem_unrouted _ o).trans taken
    · split
      · rw [mem_bump, sent]
      · exact sent

theorem mem_transmit (s : State) (port : Nat) : (s.transmit port).mem = s.mem := by
  unfold State.transmit
  split
  · rfl
  · split
    · split
      · exact mem_dropPassing s port
      · split
        · rfl
        · exact (sameLinks_packetsDone _).mem.trans (sameLinks_closeSpur s).mem
    · split
      · next t passes =>
        split at passes
        · cases passes
        · exact mem_sendPassing passes
      · split
        · next t control => exact mem_sendCtl control
        · split
          · next t again => exact mem_sendRetx again
          · exact mem_sendOwn s port

/-! ### Credits owed (R335) -/

theorem onlyAnswers_sendControl (s : State) (dst : BitVec 12) (spur : Bool) (records : List Bytes) :
    OnlyAnswers s (s.sendControl dst spur records) := by
  unfold State.sendControl
  dsimp only
  split
  · exact onlyAnswers_queueOwn s _
  · split
    · exact onlyAnswers_discardOn s 5
    · exact onlyAnswers_modNet s _

/-- Link control that goes out to one peer after another leaves the receive spaces. -/
theorem each_sendControl {α : Type} (dst : α → BitVec 12) (spur : α → Bool) (records : α → List Bytes) (l : List α)
    {s t : State} (same : OnlyAnswers s t ∧ t.net.rcv = s.net.rcv) :
    OnlyAnswers s (t.each l fun t x => t.sendControl (dst x) (spur x) (records x)) ∧
      (t.each l fun t x => t.sendControl (dst x) (spur x) (records x)).net.rcv = s.net.rcv :=
  each_of_step (P := fun t : State => OnlyAnswers s t ∧ t.net.rcv = s.net.rcv)
    (fun t _ same => ⟨same.1.trans (onlyAnswers_sendControl t _ _ _), (rcv_sendControl t _ _ _).trans same.2⟩) l same

/-- The credits owed go out, and are owed no more. -/
theorem returnCredits_facts (s : State) : s.returnCredits.mem = s.mem ∧ s.returnCredits.entries = s.entries ∧
    s.returnCredits.net.rcv = s.net.rcv.map fun x => { x with owed := x.owed - 0xFFFF } := by
  unfold State.returnCredits
  dsimp only
  generalize h : s.each _ _ = t
  have same : OnlyAnswers s t ∧ t.net.rcv = s.net.rcv := by
    rw [← h]
    exact each_of_step (P := fun t : State => OnlyAnswers s t ∧ t.net.rcv = s.net.rcv)
      (fun t d same => each_sendControl (fun _ => d.1) (fun _ => d.2) _ _ same) _ ⟨.refl s, rfl⟩
  refine ⟨same.1.mem, (congrArg State.entries same.1.frame).symm, ?_⟩
  rw [← same.2]
  rfl

/-- A port sends in the order of the classes, its own packets in rotation. -/
theorem transmission : Claims.Transmission := by
  refine ⟨fun p s => ?classes, fun q k s up thru => ?through, fun port m k o s => ?own, fun port o s => sendIn_facts s port o,
    fun s => ⟨_, rfl, returnCredits_facts s⟩⟩
  case classes =>
    refine ⟨fun receives => congrArg Host.Outcome.next (transmit_of_receiver receives), fun spur retrains => ?_,
      fun spur up retrains => ?_, fun sends ring down => ?_,
      fun sends up => ⟨fun t passes => congrArg Host.Outcome.next (transmit_of_passing sends up passes),
        fun t free control => congrArg Host.Outcome.next (transmit_of_control sends up free control),
        fun t free quiet again => congrArg Host.Outcome.next (transmit_of_again sends up free quiet again),
        fun free quiet fresh => congrArg Host.Outcome.next (transmit_of_own sends up free quiet fresh)⟩, ?_⟩
    · refine congrArg Host.Outcome.next ?_
      rw [spur, transmit_of_down (by omega) (by rw [retrains]; decide), if_neg (not_not.2 rfl),
        if_pos (spurOpen_of_retraining retrains)]
    · refine congrArg Host.Outcome.next ?_
      rw [spur, transmit_of_down (by omega) up, if_neg (not_not.2 rfl), spurOpen_of_gone up retrains]
      rfl
    · refine congrArg Host.Outcome.next ?_
      rw [transmit_of_down sends down, if_pos ring]
    · rintro t is
      cases is
      exact mem_transmit s p.val
  case through =>
    have passes : (if 3 + q.val = 5 then none else s.sendPassing (3 + q.val)) = some _ :=
      (if_neg (by omega)).trans (sendPassing_of_thru thru)
    exact ⟨_, congrArg Host.Outcome.next (transmit_of_passing (Nat.le_add_right 3 _) up passes), last_emit _ _ k⟩
  case own =>
    refine ⟨fun none_ => sendOwn_of_none ?_, fun below first before at_ => ?_⟩
    · exact List.findSome?_eq_none_iff.2 fun i mem => none_ i (List.mem_range.1 mem)
    · have sent := sendOwn_of_pick (findSome?_range_of_first (f := s.pickAt port) below before first) at_
      refine ⟨?_, fun none_ => ?_, fun g f frame => ?_⟩
      · obtain ⟨o', stands, charged⟩ := out_of_pickAt (i := m) first
        rw [at_] at stands
        cases stands
        exact charged
      · rw [sent, none_]
        rfl
      · rw [sent, frame]
        dsimp only
        rw [if_neg (by decide), show 0x031000 + 0x20 * g + 0x18 = 0x031018 + 0x20 * g by omega]
        rfl

/-- Settles O54: each record's and each class's effect, by the cases of the model's own order. -/
theorem reliableDelivery : Obligations.ReliableDelivery := ⟨acknowledgements, transmission⟩

end Sys2Proof.Machine
end

section
/-! PROOFS. RESET_UNIT and SELF_TEST at their start, and a reset that ends (R361, R388 to R391). -/

namespace Sys2Proof.Machine

/-- Taking a command changes nothing that the checks of a unit ask for. -/
theorem units_accepted (s : State) (src : Src) : (∀ g, (s.accepted src).core g = s.core g) ∧
    (∀ n, (s.accepted src).clu n = s.clu n) ∧ (∀ u, (s.accepted src).unitStatus u = s.unitStatus u) ∧
    (∀ p u, (s.accepted src).resetCoreCheck p u = s.resetCoreCheck p u) ∧
    (∀ p n, (s.accepted src).resetClusterCheck p n = s.resetClusterCheck p n) ∧
    (∀ kind u, (s.accepted src).underWork kind u = s.underWork kind u) ∧
    (∀ kind u, (s.accepted src).testBusy kind u = s.testBusy kind u) ∧ (s.accepted src).mem = s.mem := by
  cases src <;>
    exact ⟨fun _ => rfl, fun _ => rfl, fun _ => rfl, fun _ _ => rfl, fun _ _ => rfl, fun _ _ => rfl, fun _ _ => rfl, rfl⟩

/-- The status that a state of the floor plan's maps gives (R361). -/
def planStatus (state : Nat) : Option (BitVec 16) :=
  match state with
  | 0 => none
  | 1 => some stUnitAbsent
  | _ => some stUnitFailed

/-! ### The checks of a reset (R361, R389, R390) -/

section
variable {s : State} {p u : Nat}

theorem resetCoreCheck_of_beyond (beyond : 2048 ≤ u) : s.resetCoreCheck p u = some stBadField := if_pos beyond

section
variable (below : u < 2048)
include below

theorem resetCoreCheck_of_foreign (foreign : (s.part p).owns (u / 64) = false) :
    s.resetCoreCheck p u = some stNotPermitted := by
  rw [State.resetCoreCheck, if_neg (Nat.not_le.2 below), foreign]
  rfl

/-- The state of core u as the floor plan's map has it. -/
theorem unitStatus_core : s.unitStatus (.core (Fin.ofNat 2048 u)) = planStatus (Tbl.get 0 s.coreMap u) := by
  rw [State.unitStatus, State.unitState]
  dsimp only [Fin.ofNat]
  rw [Nat.mod_eq_of_lt below]
  rfl

variable (own : (s.part p).owns (u / 64) = true)
include own

theorem resetCoreCheck_of_down {st : BitVec 16} (down : s.unitStatus (.core (Fin.ofNat 2048 u)) = some st) :
    s.resetCoreCheck p u = some st := by
  rw [State.resetCoreCheck, if_neg (Nat.not_le.2 below), own, down]
  rfl

theorem resetCoreCheck_of_present (present : s.unitStatus (.core (Fin.ofNat 2048 u)) = none) : s.resetCoreCheck p u =
    if (s.core u).resetting || (s.clu (u / 64)).resetting then some stUnitResetting
    else if (s.core u).testing || (s.clu (u / 64)).testing || s.coreBusy u then some stUnitBusy
    else none := by
  rw [State.resetCoreCheck, if_neg (Nat.not_le.2 below), own, present]
  rfl

end

theorem resetClusterCheck_of_free {n : Nat} (below : n < 32) (own : (s.part p).owns n = true)
    (up : (s.clu n).resetting = false) (whole : s.clusterTesting n = false) (units : s.unitTesting n = false)
    (idle : s.clusterBusy n = false) : s.resetClusterCheck p n = none := by
  rw [State.resetClusterCheck, if_neg (Nat.not_le.2 below), own, up, whole, units, idle]
  rfl

end

/-! ### What RESET_UNIT does -/

section
variable {s : State} {r : Req}

theorem resetUnitBody_of_core (level : fieldAt r.p 0 1 = 0) : resetUnitBody s r =
    (s.resetCoreCheck r.hdr.part.val (fieldAt r.p 2 2)).elim
      (.wait (((s.wakeCluster (fieldAt r.p 2 2 / 64)).modCore (fieldAt r.p 2 2) fun c => { c with resetting := true }).resetCore
        (fieldAt r.p 2 2)) (.reset 0 (fieldAt r.p 2 2))) fun st => .done s st [] := by
  rw [resetUnitBody, level]
  cases s.resetCoreCheck r.hdr.part.val (fieldAt r.p 2 2) <;> rfl

theorem resetUnitBody_of_cluster (level : fieldAt r.p 0 1 = 1)
    (free : s.resetClusterCheck r.hdr.part.val (fieldAt r.p 2 2) = none) : resetUnitBody s r =
      .wait (((s.wakeCluster (fieldAt r.p 2 2)).modClu (fieldAt r.p 2 2) fun k => { k with resetting := true }).resetCluster
        (fieldAt r.p 2 2)) (.reset 1 (fieldAt r.p 2 2)) := by
  rw [resetUnitBody, level, free]
  rfl

theorem resetUnitBody_of_partition (level : fieldAt r.p 0 1 = 2) :
    resetUnitBody s r = .wait (s.resetPartition r.hdr.part.val) (.reset 2 r.hdr.part.val) := by
  rw [resetUnitBody, level]
  rfl

theorem resetUnitBody_of_device (level : fieldAt r.p 0 1 = 3) :
    resetUnitBody s r = .done { s with resetReq := true } stOk [] := by
  rw [resetUnitBody, level]
  rfl

end

theorem cores_wakeCluster (s : State) (n : Nat) : (s.wakeCluster n).cores = s.cores ∧ (s.wakeCluster n).mem = s.mem := by
  unfold State.wakeCluster
  split <;> exact ⟨rfl, rfl⟩

/-- A core under reset: it holds nothing, and its generator is drawn anew; the other cores and memory stand. -/
theorem resetCore_facts (s : State) {u : Nat} (idle : (s.core u).testing = false) :
    let t := (s.modCore u fun c => { c with resetting := true }).resetCore u
    (∀ g, g ≠ u → t.core g = s.core g) ∧ t.mem = s.mem ∧ t.core u = { resetting := true, rng := s.draw.1 } := by
  refine ⟨fun g ne => ?_, rfl, ?_⟩
  · exact (core_setCore_ne _ u g _ ne).trans ((core_setCore_ne _ u g _ ne).trans (core_setCore_ne _ u g _ ne))
  · have marked : (s.modCore u fun c => { c with resetting := true }).core u = { s.core u with resetting := true } :=
      core_setCore_self _ u _
    have cleared (t : State) (x : CoreSt) : ((t.setCore u x).seedCore u).core u =
        { x with rng := t.draw.1, draws := 0, due := false, overdue := false } :=
      (core_setCore_self _ u _).trans (congrArg (fun c : CoreSt =>
        { c with rng := t.draw.1, draws := 0, due := false, overdue := false }) (core_setCore_self t u x))
    refine (cleared _ _).trans ?_
    rw [marked, idle]
    rfl

/-! ### A reset ends (R389 to R391) -/

section
variable {s : State} {c : Cmd} (found : s.cmds.find? (·.id == c.id) = some c)
include found

theorem exec_unitResetDone_of_core {u : Nat} (waits : c.wait = .reset 0 u) : exec (.unitResetDone c.id) s =
    .next ((s.modCore u fun x => { x with resetting := false }).ended c stOk []) := by
  refine congrArg Host.Outcome.next (Eq.trans ?_
    (finishCmd_of_found (s := s.modCore u fun x => { x with resetting := false }) found stOk []))
  simp only [State.resetDone, found, waits]
  rfl

theorem exec_unitResetDone_of_cluster {u : Nat} (waits : c.wait = .reset 1 u) : exec (.unitResetDone c.id) s =
    .next ((s.modClu u fun k => { k with resetting := false }).ended c stOk []) := by
  refine congrArg Host.Outcome.next (Eq.trans ?_
    (finishCmd_of_found (s := s.modClu u fun k => { k with resetting := false }) found stOk []))
  simp only [State.resetDone, found, waits]
  rfl

theorem exec_unitResetDone_of_partition {p : Nat} (waits : c.wait = .reset 2 p) : exec (.unitResetDone c.id) s =
    .next (if (s.part p).clusters.any fun n => s.clusterTesting n || s.unitTesting n then s
      else ((s.resetPartitionDone p).modPart p fun x => { x with resetting := false }).finishCmd c.id stOk) := by
  refine congrArg Host.Outcome.next ?_
  simp only [State.resetDone, found, waits]
  rfl

end

/-- Resets of units, of the partition and of the device. -/
theorem resetUnitCommand : Claims.ResetUnitCommand := by
  refine ⟨fun src hdr b s taken => ?starts, fun c s found => ⟨fun u => exec_unitResetDone_of_core found,
    fun u => exec_unitResetDone_of_cluster found, fun p waits => ⟨fun tested => ?_, fun free => ?_⟩⟩⟩
  case starts =>
    obtain ⟨core, clu, status, coreCheck, clusterCheck, -, -, mem⟩ := units_accepted s src
    have refused {st : BitVec 16} (level : fieldAt b 0 1 = 0)
        (check : s.resetCoreCheck hdr.part.val (fieldAt b 2 2) = some st) :
        Completes 0x12 src hdr (s.accepted src) st [] (exec (.resetUnit src hdr b) s) :=
      completes_of_taken rfl rfl rfl taken ((resetUnitBody_of_core level).trans
        (congrArg (Option.elim · _ _) ((coreCheck _ _).trans check)))
    refine ⟨fun level => ⟨fun beyond => refused level (resetCoreCheck_of_beyond beyond),
      fun below foreign => refused level (resetCoreCheck_of_foreign below foreign),
      fun below own => ⟨fun absent => ?_, fun failed => ?_, fun present resets => ?_, fun present up down => ?_⟩⟩,
      fun level below own up whole units idle => ?_, fun level => ?_, fun level => ?_⟩
    · exact refused level (resetCoreCheck_of_down below own ((unitStatus_core below).trans (congrArg planStatus absent)))
    · exact refused level (resetCoreCheck_of_down below own ((unitStatus_core below).trans (congrArg planStatus failed)))
    · have check := resetCoreCheck_of_present below own ((unitStatus_core below).trans (congrArg planStatus present))
      exact refused level (check.trans (if_pos (Bool.or_eq_true_iff.2 resets)))
    · have check := resetCoreCheck_of_present below own ((unitStatus_core below).trans (congrArg planStatus present))
      rw [up, down, if_neg (by decide)] at check
      refine ⟨fun busy => refused level (check.trans (if_pos ?_)), fun idle whole free => ?_⟩
      · rw [Bool.or_eq_true, Bool.or_eq_true, or_assoc]
        exact busy
      · rw [idle, whole, free, if_neg (by decide)] at check
        have body := (resetUnitBody_of_core (s := s.accepted src) (r := s.request 0x12 src hdr b) level).trans
          (congrArg (Option.elim · _ _) ((coreCheck _ _).trans check))
        obtain ⟨cores, stays⟩ := cores_wakeCluster (s.accepted src) (fieldAt b 2 2 / 64)
        have same (g : Nat) : ((s.accepted src).wakeCluster (fieldAt b 2 2 / 64)).core g = s.core g := by
          rw [← core, State.core, cores, State.core]
        obtain ⟨others, kept, reset⟩ := resetCore_facts ((s.accepted src).wakeCluster (fieldAt b 2 2 / 64))
          (u := fieldAt b 2 2) ((congrArg CoreSt.testing (same _)).trans idle)
        exact ⟨_, waits_of_taken rfl rfl rfl taken body, fun g ne => (others g ne).trans (same g),
          kept.trans (stays.trans mem), reset⟩
    · exact waits_of_taken rfl rfl rfl taken (resetUnitBody_of_cluster level
        ((clusterCheck _ _).trans (resetClusterCheck_of_free below own up whole units idle)))
    · exact waits_of_taken rfl rfl rfl taken (resetUnitBody_of_partition level)
    · exact completes_of_taken rfl rfl rfl taken (resetUnitBody_of_device level)
  · rw [exec_unitResetDone_of_partition found waits, if_pos]
    simpa using tested
  · rw [exec_unitResetDone_of_partition found waits, if_neg]
    simpa using free

/-! ### SELF_TEST at its start (R387, R388) -/

/-- The floor plan's state of the unit that a test of a kind covers. -/
theorem testStatus_eq {s : State} {kind u : Nat} (below : u < testCount kind) : (testUnit kind u).bind s.unitStatus =
    planStatus (if kind = 0 then Tbl.get 0 s.coreMap u else if kind = 1 then Tbl.get 0 s.millMap u else 0) := by
  match kind, below with
  | 0, below => exact unitStatus_core (s := s) below
  | 1, below =>
    rw [if_neg (by decide), if_pos rfl]
    show s.unitStatus (.mill (Fin.ofNat 256 u)) = _
    rw [State.unitStatus, State.unitState]
    dsimp only [Fin.ofNat]
    rw [Nat.mod_eq_of_lt (show u < 256 from below)]
    rfl
  | kind + 2, _ =>
    rw [if_neg (by omega), if_neg (by omega)]
    rfl

section
variable {s : State} {r : Req}

theorem selfTestBody_of_beyond (beyond : testCount (fieldAt r.p 0 1) ≤ fieldAt r.p 2 2) :
    selfTestBody s r = .done s stBadField [] := if_pos beyond

theorem selfTestBody_of_below (below : fieldAt r.p 2 2 < testCount (fieldAt r.p 0 1)) : selfTestBody s r =
    ((testUnit (fieldAt r.p 0 1) (fieldAt r.p 2 2)).bind s.unitStatus).elim
      (if s.underWork (fieldAt r.p 0 1) (fieldAt r.p 2 2) || s.testBusy (fieldAt r.p 0 1) (fieldAt r.p 2 2) then
        .done s stUnitBusy []
      else .wait (s.markTest (fieldAt r.p 0 1) (fieldAt r.p 2 2)) (.test (fieldAt r.p 0 1) (fieldAt r.p 2 2)))
      fun st => .done s st [] := by
  rw [selfTestBody, if_neg (Nat.not_le.2 below)]
  cases (testUnit (fieldAt r.p 0 1) (fieldAt r.p 2 2)).bind s.unitStatus <;> rfl

end

theorem selfTestStarts (src : Src) (hdr : Hdr) (b : Bytes) (s : State) (taken : Taken s 0x13 selfTestSpec src hdr b) :
    let n := s.accepted src
    let kind := fieldAt b 0 1
    let u := fieldAt b 2 2
    let out := exec (.selfTest src hdr b) s
    let state := if kind = 0 then Tbl.get 0 s.coreMap u else if kind = 1 then Tbl.get 0 s.millMap u else 0
    (testCount kind ≤ u → Completes 0x13 src hdr n stBadField [] out) ∧
    (u < testCount kind →
      (state = 1 → Completes 0x13 src hdr n stUnitAbsent [] out) ∧
      (state = 2 → Completes 0x13 src hdr n stUnitFailed [] out) ∧
      (state = 0 → (s.underWork kind u = true ∨ s.testBusy kind u = true) → Completes 0x13 src hdr n stUnitBusy [] out) ∧
      (state = 0 → s.underWork kind u = false → s.testBusy kind u = false →
        Waits s 0x13 src hdr (n.markTest kind u) (.test kind u) out)) := by
  obtain ⟨-, -, status, -, -, work, busy, -⟩ := units_accepted s src
  have body (below : fieldAt b 2 2 < testCount (fieldAt b 0 1)) {o : Option (BitVec 16)}
      (is : (testUnit (fieldAt b 0 1) (fieldAt b 2 2)).bind s.unitStatus = o) :=
    (selfTestBody_of_below (s := s.accepted src) (r := s.request 0x13 src hdr b) below).trans
      (congrArg (Option.elim · _ _) ((congrArg _ (funext status)).trans is))
  refine ⟨fun beyond => completes_of_taken rfl rfl rfl taken (selfTestBody_of_beyond beyond),
    fun below => ⟨fun absent => ?_, fun failed => ?_, fun present used => ?_, fun present idle free => ?_⟩⟩
  · exact completes_of_taken rfl rfl rfl taken (body below ((testStatus_eq below).trans (congrArg planStatus absent)))
  · exact completes_of_taken rfl rfl rfl taken (body below ((testStatus_eq below).trans (congrArg planStatus failed)))
  · refine completes_of_taken rfl rfl rfl taken
      ((body below ((testStatus_eq below).trans (congrArg planStatus present))).trans (if_pos ?_))
    rw [work, busy, Bool.or_eq_true]
    exact used
  · refine waits_of_taken rfl rfl rfl taken
      ((body below ((testStatus_eq below).trans (congrArg planStatus present))).trans (if_neg ?_))
    rw [work, busy]
    exact Bool.eq_false_iff.1 (Bool.or_eq_false_iff.2 ⟨idle, free⟩)

end Sys2Proof.Machine
end

section
/-! PROOFS. A SELF_TEST that ends (R386, R387): what a unit's failure sets off ends no command but with the status that its
cause gives, and a test that covers the unit with UNIT_FAILED; from these rules the statement UnitCommands. -/

namespace Sys2Proof.Machine

/-! ### What starts or ends no command -/

/-- The commands in progress, the sample-time counter, and the completions that wait for the I3C host. -/
def State.progress (s : State) : List Cmd × Time × List Bytes := (s.cmds, s.tb.count, s.i3c.cpl)

/-- From s to t no command starts or ends. -/
structure SameProgress (s t : State) : Prop where
  same : t.progress = s.progress

theorem SameProgress.refl (s : State) : SameProgress s s := ⟨rfl⟩

theorem SameProgress.trans {s t u : State} (a : SameProgress s t) (b : SameProgress t u) : SameProgress s u :=
  ⟨b.same.trans a.same⟩

theorem OnlyMemory.sameProgress {s t : State} (only : OnlyMemory s t) : SameProgress s t := by
  rw [only.frame]
  exact ⟨rfl⟩

section
variable {s0 s : State}

theorem sameProgress_ite {c : Prop} [Decidable c] {t : State} (yes : SameProgress s0 s) (no : SameProgress s0 t) :
    SameProgress s0 (if c then s else t) := by
  split
  · exact yes
  · exact no

theorem sameProgress_each {α : Type} {l : List α} {f : State → α → State} (h : SameProgress s0 s)
    (step : ∀ s x, SameProgress s0 s → SameProgress s0 (f s x)) : SameProgress s0 (s.each l f) := each_of_step step l h

variable (h : SameProgress s0 s)
include h

theorem sameProgress_modShare {g j : Nat} {f : ShareSt → ShareSt} : SameProgress s0 (s.modShare g j f) := ⟨h.same⟩
theorem sameProgress_modClu {n : Nat} {f : CluSt → CluSt} : SameProgress s0 (s.modClu n f) := ⟨h.same⟩
theorem sameProgress_modEntry {i : Nat} {f : Entry → Entry} : SameProgress s0 (s.modEntry i f) := ⟨h.same⟩
theorem sameProgress_setEntry {i : Nat} {e : Entry} : SameProgress s0 (s.setEntry i e) := ⟨h.same⟩
theorem sameProgress_modCtx {c : Nat} {f : Ctx → Ctx} : SameProgress s0 (s.modCtx c f) := ⟨h.same⟩
theorem sameProgress_setCtx {c : Nat} {x : Option Ctx} : SameProgress s0 (s.setCtx c x) := ⟨h.same⟩
theorem sameProgress_setRope {r : Nat} {x : Option Rope} : SameProgress s0 (s.setRope r x) := ⟨h.same⟩
theorem sameProgress_bump {a lo n m : Nat} : SameProgress s0 (s.bump a lo n m) := ⟨h.same⟩

theorem sameProgress_reval {i : Nat} : SameProgress s0 (s.reval i) := by
  unfold State.reval
  dsimp only
  split <;> exact ⟨h.same⟩

theorem sameProgress_released {i : Nat} : SameProgress s0 (s.released i) :=
  sameProgress_ite (sameProgress_ite (sameProgress_setEntry h) h) (sameProgress_reval h)

theorem sameProgress_retireDocket {r : Nat} {seq : Word} : SameProgress s0 (s.retireDocket r seq) := by
  unfold State.retireDocket
  split
  · exact h
  · exact sameProgress_each ⟨h.same⟩ fun _ _ h => sameProgress_released h

theorem sameProgress_dropDockets {r : Nat} : SameProgress s0 (s.dropDockets r) :=
  sameProgress_each h fun _ _ h =>
    sameProgress_retireDocket (sameProgress_each h fun _ _ h => sameProgress_ite (sameProgress_modEntry h) h)

theorem sameProgress_cancelTransfers {c : Nat} : SameProgress s0 (s.cancelTransfers c) :=
  sameProgress_each h fun _ _ h => sameProgress_ite h (sameProgress_bump (sameProgress_modClu h))

theorem sameProgress_cancelMill {c : Nat} : SameProgress s0 (s.cancelMill c) :=
  sameProgress_each h fun _ _ h => sameProgress_ite h (sameProgress_bump (sameProgress_modClu h))

theorem sameProgress_dropContext {c : Nat} : SameProgress s0 (s.dropContext c) :=
  sameProgress_each h fun _ _ h => sameProgress_dropDockets h

theorem sameProgress_freeContext {c : Nat} : SameProgress s0 (s.freeContext c) := by
  unfold State.freeContext
  split
  · exact h
  · exact sameProgress_setCtx (sameProgress_each (sameProgress_each h fun _ _ h => sameProgress_modShare h)
      fun _ _ h => sameProgress_ite (sameProgress_modClu h) h)

theorem sameProgress_dropWaiters {c : Nat} : SameProgress s0 (s.dropWaiters c) := by
  unfold State.dropWaiters
  split <;> exact ⟨h.same⟩

theorem sameProgress_flushSlot {i : Nat} : SameProgress s0 (s.flushSlot i) := h.trans (onlyMemory_flushSlot s i).sameProgress

theorem sameProgress_clearWork {w : Wait} : SameProgress s0 (s.clearWork w) := by
  unfold State.clearWork
  split <;> exact ⟨h.same⟩

theorem sameProgress_queuePkt {p : Pkt} : SameProgress s0 (s.queuePkt p) := by
  unfold State.queuePkt
  split <;> exact ⟨h.same⟩

theorem sameProgress_queueOwn {p : Pkt} : SameProgress s0 (s.queueOwn p) := by
  unfold State.queueOwn
  split
  · exact sameProgress_queuePkt h
  · split <;> exact ⟨h.same⟩

theorem sameProgress_raiseEvent {code : Nat} {part : Option Nat} {st : BitVec 16} {subject detail : Nat}
    {owner : Option (BitVec 12)} : SameProgress s0 (s.raiseEvent code part st subject detail owner) := by
  refine sameProgress_each ⟨?_⟩ fun _ _ h => sameProgress_queuePkt h
  exact (sameProgress_queueOwn (.refl _)).same.trans h.same

theorem sameProgress_testedCore {g : Nat} : SameProgress s0 (s.testedCore g) :=
  ⟨(sameProgress_each (l := List.range 4) (f := fun s j => s.modShare g j fun h => { h with scratch := [] }) h
    fun _ _ h => sameProgress_modShare h).same⟩

theorem sameProgress_zeroChannel {c : Nat} : SameProgress s0 (s.zeroChannel c) :=
  ⟨(h.trans ((onlyCaches_wakeCluster s (c / 8)).trans (onlyCaches_exitRefresh _ c)).onlyMemory.sameProgress).same⟩

theorem sameProgress_testLeaves {kind u : Nat} : SameProgress s0 (s.testLeaves kind u) := by
  unfold State.testLeaves
  split
  · exact sameProgress_testedCore h
  · exact h
  · have tested := sameProgress_modClu (n := u) (f := fun k => { k with slots := [] })
      (sameProgress_each (l := s.presentCores u) (f := State.testedCore) h fun _ _ h => sameProgress_testedCore h)
    exact sameProgress_ite tested (sameProgress_modClu tested)
  · exact sameProgress_zeroChannel h

end

/-! ### A command that ends -/

/-- An answer in a packet queues nothing for the I3C host. -/
theorem sameProgress_sendCompletion (s : State) {src : Src} (packet : src ≠ .i3c) (part : Nat) (bs : Bytes) :
    SameProgress s (s.sendCompletion src part bs) := by
  have latched : SameProgress s { s with lastCpl := bs } := ⟨rfl⟩
  cases src with
  | i3c => exact absurd rfl packet
  | spur => exact sameProgress_queuePkt latched
  | dev d => exact sameProgress_queuePkt latched

/-- An answer leaves the commands and the counter, and every completion that waits; the I3C host's is added. -/
theorem reply_progress (s : State) (src : Src) (op : Nat) (tag : BitVec 16) (part : Nat) (st : BitVec 16) (res : Bytes) :
    (s.reply src op tag part st res).cmds = s.cmds ∧ (s.reply src op tag part st res).tb.count = s.tb.count ∧
    (∀ x ∈ s.i3c.cpl, x ∈ (s.reply src op tag part st res).i3c.cpl) ∧
    (src = .i3c → completionBytes op 0 tag part st s.tb.count res ∈ (s.reply src op tag part st res).i3c.cpl) := by
  by_cases host : src = .i3c
  · subst host
    exact ⟨rfl, rfl, fun x mem => List.mem_append_left _ mem, fun _ => List.mem_append_right _ (List.mem_singleton.2 rfl)⟩
  · have same : (s.reply src op tag part st res).progress = s.progress := (sameProgress_sendCompletion s host part _).same
    have cpl : (s.reply src op tag part st res).i3c.cpl = s.i3c.cpl := congrArg (·.2.2) same
    exact ⟨congrArg Prod.fst same, congrArg (·.2.1) same, fun x mem => by rwa [cpl], fun is => absurd is host⟩

/-- Command c, the only one of its number, is in progress at instant n, or has ended with UNIT_FAILED. -/
structure Failing (c : Cmd) (n : Time) (s : State) : Prop where
  now : s.tb.count = n
  state : s.cmds.filter (·.id == c.id) = [c] ∨ (∀ k ∈ s.cmds, k.id ≠ c.id) ∧
    (c.src = .i3c → completionBytes c.opcode 0 c.tag c.part stUnitFailed n [] ∈ s.i3c.cpl)

section
variable {c : Cmd} {n : Time} {s : State}

theorem Failing.of_same {t : State} (h : Failing c n s) (q : SameProgress s t) : Failing c n t := by
  have cmds : t.cmds = s.cmds := congrArg Prod.fst q.same
  have count : t.tb.count = s.tb.count := congrArg (·.2.1) q.same
  have cpl : t.i3c.cpl = s.i3c.cpl := congrArg (·.2.2) q.same
  refine ⟨count.trans h.now, ?_⟩
  rw [cmds, cpl]
  exact h.state

/-- No other command in progress has c's number. -/
theorem Failing.id_ne (h : Failing c n s) {k : Cmd} (mem : k ∈ s.cmds) (other : k ≠ c) : k.id ≠ c.id := by
  obtain waits | ⟨gone, -⟩ := h.state
  · intro same
    have found : k ∈ s.cmds.filter (·.id == c.id) := List.mem_filter.2 ⟨mem, beq_iff_eq.2 same⟩
    rw [waits] at found
    exact other (List.mem_singleton.1 found)
  · exact gone k mem

/-- Another command ends. -/
theorem failing_endCmd_of_other (h : Failing c n s) {id : Nat} (other : id ≠ c.id) (st : BitVec 16) (res : Bytes) :
    Failing c n (s.endCmd id st res) := by
  unfold State.endCmd
  split
  · exact h
  · next k _ =>
    obtain ⟨cmds, count, cpl, -⟩ :=
      reply_progress { s with cmds := s.cmds.filter (·.id != id) } k.src k.opcode k.tag k.part st res
    refine ⟨count.trans h.now, ?_⟩
    rw [cmds]
    obtain waits | ⟨gone, queued⟩ := h.state
    · refine Or.inl ?_
      rw [← waits, List.filter_filter]
      refine List.filter_congr fun x _ => ?_
      by_cases own : x.id = c.id
      · rw [own, beq_self_eq_true, Bool.true_and, bne_iff_ne.2 other.symm]
      · rw [beq_false_of_ne own, Bool.false_and]
    · exact Or.inr ⟨fun x mem => gone x (List.mem_filter.1 mem).1, fun host => cpl _ (queued host)⟩

/-- The command itself ends with UNIT_FAILED. -/
theorem failing_endCmd_of_own (h : Failing c n s) : Failing c n (s.endCmd c.id stUnitFailed []) := by
  unfold State.endCmd
  split
  · exact h
  · next k found =>
    obtain ⟨cmds, count, -, host⟩ :=
      reply_progress { s with cmds := s.cmds.filter (·.id != c.id) } k.src k.opcode k.tag k.part stUnitFailed []
    have mem := List.mem_of_find?_eq_some found
    have own : k.id = c.id := eq_of_beq (List.find?_some (p := fun x : Cmd => x.id == c.id) found)
    have is : k = c := by_contra fun other => h.id_ne mem other own
    subst is
    refine ⟨count.trans h.now, Or.inr ⟨fun x mem => ?_, fun src => h.now ▸ host src⟩⟩
    rw [cmds] at mem
    exact bne_iff_ne.1 (List.mem_filter.1 mem).2

theorem failing_each {α : Type} {l : List α} {f : State → α → State} (h : Failing c n s)
    (step : ∀ s x, Failing c n s → Failing c n (f s x)) : Failing c n (s.each l f) := each_of_step step l h

theorem failing_modCtx (h : Failing c n s) {x : Nat} {f : Ctx → Ctx} : Failing c n (s.modCtx x f) :=
  h.of_same (sameProgress_modCtx (.refl s))

section
variable {kind u : Nat} (tests : c.wait = .test kind u)
include tests

theorem failing_settleFences (h : Failing c n s) : Failing c n s.settleFences := by
  suffices fueled : ∀ m s, Failing c n s → Failing c n (State.settleFences.go s m) from fueled _ s h
  intro m
  induction m with
  | zero => exact fun _ h => h
  | succ m ih =>
    intro s h
    unfold State.settleFences.go
    split
    · exact h
    · next k found =>
      have other : k ≠ c := by
        rintro rfl
        have ready := List.find?_some found
        rw [State.fenceReady, tests] at ready
        cases ready
      exact ih _ (failing_endCmd_of_other h (h.id_ne (List.mem_of_find?_eq_some found) other) _ _)

theorem failing_finishCmd_of_other (h : Failing c n s) {id : Nat} (other : id ≠ c.id) (st : BitVec 16) (res : Bytes) :
    Failing c n (s.finishCmd id st res) := failing_settleFences tests (failing_endCmd_of_other h other st res)

theorem failing_finishCmd (h : Failing c n s) (id : Nat) : Failing c n (s.finishCmd id stUnitFailed) := by
  by_cases own : id = c.id
  · subst own
    exact failing_settleFences tests (failing_endCmd_of_own h)
  · exact failing_finishCmd_of_other tests h own _ _

/-- Commands that end for a reason that is not c's. -/
theorem failing_finishWhere (h : Failing c n s) {f : Cmd → Bool} (spares : f c = false) (st : BitVec 16) :
    Failing c n (s.finishWhere f st) :=
  List.foldlRecOn (motive := Failing c n) _ _ h fun t ht k mem => by
    obtain ⟨among, is⟩ := List.mem_filter.1 mem
    have other : k ≠ c := by
      rintro rfl
      rw [spares] at is
      cases is
    exact failing_finishCmd_of_other tests ht (h.id_ne among other) _ _

theorem failing_endPark (h : Failing c n s) (i : Nat) (st : BitVec 16) : Failing c n (s.endPark i st) := by
  refine failing_finishWhere tests (h.of_same (sameProgress_modEntry (.refl s))) ?_ st
  rw [tests]
  exact beq_false_of_ne nofun

theorem failing_faultStream (h : Failing c n s) (i : Nat) (st : BitVec 16) : Failing c n (s.faultStream i st) := by
  unfold State.faultStream
  dsimp only
  split
  · exact h
  · exact failing_endPark tests (h.of_same (sameProgress_setEntry (.refl s))) _ _

theorem failing_stopContext (h : Failing c n s) (x : Nat) (spread : Bool) (st : BitVec 16) :
    Failing c n (s.stopContext x spread st) := by
  unfold State.stopContext
  split
  · exact h
  · split
    · exact h
    · exact failing_modCtx (failing_each (h.of_same (sameProgress_dropContext (sameProgress_cancelMill
        (sameProgress_cancelTransfers (sameProgress_each (.refl s) fun _ _ h => sameProgress_modShare h)))))
        fun _ i h => failing_faultStream tests h i st)

theorem failing_parkRetired (h : Failing c n s) (i : Nat) : Failing c n (s.parkRetired i) := by
  unfold State.parkRetired
  dsimp only
  split
  · exact failing_endPark tests (h.of_same (sameProgress_modEntry (sameProgress_flushSlot (.refl s)))) _ _
  · exact h

theorem failing_completeRetire (h : Failing c n s) (x : Nat) (st : BitVec 16) : Failing c n (s.completeRetire x st) := by
  have parked := failing_each (l := s.streamsOf x) h fun _ i h => failing_parkRetired tests h i
  refine failing_finishWhere tests (parked.of_same (sameProgress_freeContext (sameProgress_dropWaiters
    (sameProgress_each (.refl _) fun _ _ h => sameProgress_setRope h)))) ?_ st
  rw [tests]

theorem failing_unitStops (h : Failing c n s) (x : Nat) : Failing c n (s.unitStops x) := by
  unfold State.unitStops
  split
  · exact h
  · split
    · refine failing_finishWhere tests (h.of_same (sameProgress_freeContext (.refl s))) ?_ _
      rw [tests]
      exact beq_false_of_ne nofun
    · dsimp only
      split
      · exact failing_completeRetire tests (failing_stopContext tests h _ _ _) _ _
      · exact failing_stopContext tests h _ _ _

theorem failing_failTests (h : Failing c n s) (x : UnitId) : Failing c n (s.failTests x) :=
  failing_each h fun t k h => failing_finishCmd tests (h.of_same (sameProgress_clearWork (.refl t))) k.id

/-- A unit fails: nothing that follows ends the test with another status. -/
theorem failing_unitFailure (h : Failing c n s) (x : UnitId) : Failing c n (s.unitFailure x) := by
  by_cases present : s.unitState x = 0
  · have marked : SameProgress s (s.markPlan x) := by
      have failed : SameProgress s (s.markFailed x) := by cases x <;> exact ⟨rfl⟩
      exact sameProgress_ite ⟨failed.same⟩ failed
    have stopped := failing_each (l := s.usersOf x) (h.of_same marked) fun _ y h => failing_unitStops tests h y
    have events {t : State} (h : Failing c n t) : Failing c n (if t.ready then
        (t.raiseEvent evUnitFailed none stUnitFailed (unitKind x) (unitIndex x)).raiseEvent evFloorPlan none stOk 0
          t.generation.toNat
        else t) := h.of_same (sameProgress_ite (sameProgress_raiseEvent (sameProgress_raiseEvent (.refl t))) (.refl t))
    rw [unitFailure_of_present present]
    refine events ?_
    cases x with
    | core g => exact failing_finishWhere tests (failing_failTests tests stopped _) (by rw [Cmd.maps, tests]) _
    | mill g => exact failing_failTests tests stopped _
    | narrow g => exact failing_failTests tests (stopped.of_same (sameProgress_modClu (.refl _))) _
  · rw [unitFailure_of_down present]
    exact h

end

end

/-! ### The units that fail -/

theorem unitState_markFailed_ne (s : State) {x y : UnitId} (ne : y ≠ x) : (s.markFailed x).unitState y = s.unitState y := by
  cases x with
  | core g => cases y with
    | core k => exact Tbl.get_set_ne 0 2 s.coreMap fun same => ne (congrArg UnitId.core (Fin.ext same))
    | mill k => rfl
    | narrow k => rfl
  | mill g => cases y with
    | core k => rfl
    | mill k => exact Tbl.get_set_ne 0 2 s.millMap fun same => ne (congrArg UnitId.mill (Fin.ext same))
    | narrow k => rfl
  | narrow g => cases y with
    | core k => rfl
    | mill k => rfl
    | narrow k => exact Tbl.get_set_ne 0 2 s.narrowMap fun same => ne (congrArg UnitId.narrow (Fin.ext same))

/-- A unit's failure leaves the state of every other, and of one that is down. -/
theorem unitState_unitFailure_of_other (s : State) {x y : UnitId} (other : y ≠ x ∨ s.unitState x ≠ 0) :
    (s.unitFailure x).unitState y = s.unitState y := by
  by_cases present : s.unitState x = 0
  · have planned : SameUnits (s.markFailed x) (s.markPlan x) := sameUnits_ite ⟨rfl⟩ ⟨rfl⟩
    rw [unitFailure_of_present present, (planned.trans (sameUnits_failed _ x _)).unitState,
      unitState_markFailed_ne s (other.resolve_right (not_not.2 present))]
  · rw [unitFailure_of_down present]

/-- A unit that is marked failed is not present any more, and was marked only if it was. -/
theorem unitState_each_unitFailure (s : State) (l : List UnitId) {x : UnitId} (mem : x ∈ l) :
    (s.each l State.unitFailure).unitState x ≠ 0 ∧
    (s.unitState x = 0 → (s.each l State.unitFailure).unitState x = 2) := by
  have down : (s.each l State.unitFailure).unitState x ≠ 0 := by
    refine each_of_mem (P := fun t : State => t.unitState x ≠ 0) (x := x) (fun t => ?_) (fun t y down => ?_) mem s
    · by_cases present : t.unitState x = 0
      · rw [unitState_unitFailure present]
        decide
      · rwa [unitState_unitFailure_of_other t (Or.inr present)]
    · by_cases own : x = y
      · subst own
        rwa [unitState_unitFailure_of_other t (Or.inr down)]
      · rwa [unitState_unitFailure_of_other t (Or.inl own)]
  have moves : (s.each l State.unitFailure).unitState x = s.unitState x ∨ (s.each l State.unitFailure).unitState x = 2 :=
    each_of_step (P := fun t : State => t.unitState x = s.unitState x ∨ t.unitState x = 2) (fun t y h => by
      by_cases own : x = y ∧ t.unitState y = 0
      · obtain ⟨rfl, present⟩ := own
        exact Or.inr (unitState_unitFailure present)
      · rwa [unitState_unitFailure_of_other t (not_and_or.1 own)]) l (Or.inl rfl)
  exact ⟨down, fun present => moves.resolve_left fun same => down (same.trans present)⟩

theorem sameUnits_testLeaves (s : State) (kind u : Nat) : SameUnits s (s.testLeaves kind u) := by
  have tested {s0 s : State} (h : SameUnits s0 s) (g : Nat) : SameUnits s0 (s.testedCore g) :=
    ⟨(sameUnits_each (l := List.range 4) (f := fun s j => s.modShare g j fun h => { h with scratch := [] }) h
      fun _ _ h => sameUnits_modShare h).maps⟩
  unfold State.testLeaves
  split
  · exact tested (.refl s) u
  · exact .refl s
  · have cores := sameUnits_modClu (n := u) (f := fun k => { k with slots := [] })
      (sameUnits_each (l := s.presentCores u) (f := State.testedCore) (.refl s) fun _ g h => tested h g)
    exact sameUnits_ite cores (sameUnits_modClu cores)
  · exact ⟨((onlyCaches_wakeCluster s (u / 8)).trans (onlyCaches_exitRefresh _ u)).sameUnits.maps⟩

/-! ### A test ends (R387) -/

section
variable {s : State} {c : Cmd} {kind u : Nat} {failed : List UnitId} {other : Bool}

/-- The state of the units once the test has ended. -/
def State.tested (s : State) (kind u : Nat) (failed : List UnitId) : State :=
  (s.testLeaves kind u).each ((testedUnits kind u).filter failed.contains) State.unitFailure

theorem exec_testComplete_of_test (found : s.cmds.find? (·.id == c.id) = some c) (waits : c.wait = .test kind u) :
    exec (.testComplete c.id ⟨failed, other⟩) s = .next (
      if (s.tested kind u failed).cmds.any (·.id == c.id) then
        ((s.tested kind u failed).clearWork (.test kind u)).finishCmd c.id
          (if ((testedUnits kind u).filter failed.contains).isEmpty && !(other && testsOther kind) then stOk else stUnitFailed)
      else s.tested kind u failed) := by
  refine congrArg Host.Outcome.next ?_
  simp only [State.testDone, found, waits]
  rfl

theorem filter_contains_eq_nil (good : ∀ x ∈ testedUnits kind u, x ∉ failed) :
    (testedUnits kind u).filter failed.contains = [] :=
  List.filter_eq_nil_iff.2 fun x mem => by rw [List.contains_iff_mem]; exact good x mem

theorem exec_testComplete_of_good (found : s.cmds.find? (·.id == c.id) = some c) (waits : c.wait = .test kind u)
    (good : ∀ x ∈ testedUnits kind u, x ∉ failed) :
    exec (.testComplete c.id ⟨failed, other⟩) s = .next (((s.testLeaves kind u).clearWork (.test kind u)).ended c
      (if other = true ∧ 2 ≤ kind then stUnitFailed else stOk) []) := by
  have none_ := filter_contains_eq_nil good
  have leaves : s.tested kind u failed = s.testLeaves kind u := by
    rw [State.tested, none_]
    rfl
  have cmds : (s.testLeaves kind u).cmds = s.cmds := congrArg Prod.fst (sameProgress_testLeaves (.refl s)).same
  have cleared : ((s.testLeaves kind u).clearWork (.test kind u)).cmds = s.cmds :=
    congrArg Prod.fst (sameProgress_clearWork (sameProgress_testLeaves (.refl s))).same
  have stands : s.cmds.any (·.id == c.id) = true :=
    List.any_eq_true.2 ⟨c, List.mem_of_find?_eq_some found, beq_self_eq_true _⟩
  have status : (if ([] : List UnitId).isEmpty && !(other && testsOther kind) then stOk else stUnitFailed) =
      if other = true ∧ 2 ≤ kind then stUnitFailed else stOk := by
    cases other
    · rfl
    · by_cases large : 2 ≤ kind
      · simp [testsOther, large]
      · simp [testsOther, large]
  rw [exec_testComplete_of_test found waits, leaves, cmds, if_pos stands, none_, status]
  exact congrArg Host.Outcome.next (finishCmd_of_found (by rwa [cleared]) _ [])

theorem id_ne_of_mem_finishCmd {id : Nat} {st : BitVec 16} {res : Bytes} {k : Cmd} (mem : k ∈ (s.finishCmd id st res).cmds) :
    k.id ≠ id := id_ne_of_mem_endCmd ((onlyAnswers_settleFences _).fewer mem)

/-- A test that finds a failure: the units are marked, and the command ends with UNIT_FAILED. -/
theorem exec_testComplete_of_bad (alone : s.cmds.filter (·.id == c.id) = [c]) (waits : c.wait = .test kind u)
    (bad : ∃ x ∈ testedUnits kind u, x ∈ failed) : ∃ t, exec (.testComplete c.id ⟨failed, other⟩) s = .next t ∧
      (∀ x ∈ testedUnits kind u, x ∈ failed → t.unitState x ≠ 0 ∧ (s.unitState x = 0 → t.unitState x = 2)) ∧
      (∀ k ∈ t.cmds, k.id ≠ c.id) ∧
      (c.src = .i3c → completionBytes c.opcode 0 c.tag c.part stUnitFailed s.tb.count [] ∈ t.i3c.cpl) := by
  have found : s.cmds.find? (·.id == c.id) = some c := by
    rw [← List.head?_filter, alone]
    rfl
  have some_ : ((testedUnits kind u).filter failed.contains).isEmpty = false := by
    obtain ⟨x, among, is⟩ := bad
    exact List.isEmpty_eq_false_iff_exists_mem.2 ⟨x, List.mem_filter.2 ⟨among, List.contains_iff_mem.2 is⟩⟩
  have running : Failing c s.tb.count (s.tested kind u failed) :=
    failing_each ((Failing.mk rfl (Or.inl alone)).of_same (sameProgress_testLeaves (.refl s)))
      fun _ x h => failing_unitFailure waits h x
  have marked (x : UnitId) (among : x ∈ testedUnits kind u) (is : x ∈ failed) :
      (s.tested kind u failed).unitState x ≠ 0 ∧ (s.unitState x = 0 → (s.tested kind u failed).unitState x = 2) := by
    have := unitState_each_unitFailure (s.testLeaves kind u) ((testedUnits kind u).filter failed.contains)
      (List.mem_filter.2 ⟨among, List.contains_iff_mem.2 is⟩)
    rwa [(sameUnits_testLeaves s kind u).unitState] at this
  refine ⟨_, exec_testComplete_of_test found waits, ?_⟩
  rw [some_, Bool.false_and, if_neg Bool.false_ne_true]
  have concluded {t : State} (h : Failing c s.tb.count t) (gone : ∀ k ∈ t.cmds, k.id ≠ c.id) :
      c.src = .i3c → completionBytes c.opcode 0 c.tag c.part stUnitFailed s.tb.count [] ∈ t.i3c.cpl := by
    obtain stands | ⟨-, queued⟩ := h.state
    · have mem : c ∈ t.cmds.filter (·.id == c.id) := stands ▸ List.mem_singleton.2 rfl
      exact absurd rfl (gone c (List.mem_filter.1 mem).1)
    · exact queued
  split
  next =>
    have same := sameUnits_finishCmd (id := c.id) (st := stUnitFailed)
      (sameUnits_clearWork (w := .test kind u) (.refl (s.tested kind u failed)))
    refine ⟨fun x among is => ?_, fun k mem => id_ne_of_mem_finishCmd mem, concluded (failing_finishCmd waits
      (running.of_same (sameProgress_clearWork (.refl _))) c.id) fun k mem => id_ne_of_mem_finishCmd mem⟩
    rw [same.unitState]
    exact marked x among is
  next gone =>
    have none_ : ∀ k ∈ (s.tested kind u failed).cmds, k.id ≠ c.id := fun k mem own =>
      gone (List.any_eq_true.2 ⟨k, mem, beq_iff_eq.2 own⟩)
    exact ⟨marked, none_, concluded running none_⟩

end

theorem exec_testComplete_of_none {s : State} {id : Nat} {failed : List UnitId} {other : Bool}
    (none_ : ∀ c ∈ s.cmds, c.id ≠ id) : exec (.testComplete id ⟨failed, other⟩) s = .next s := by
  have found : s.cmds.find? (·.id == id) = none := List.find?_eq_none.2 fun c mem own => none_ c mem (beq_iff_eq.1 own)
  refine congrArg Host.Outcome.next ?_
  rw [State.testDone, found]

/-- SELF_TEST at its start and at its end. -/
theorem selfTestCommand : Claims.SelfTestCommand :=
  ⟨selfTestStarts, fun _ _ _ _ _ _ found waits good => exec_testComplete_of_good found waits good,
    fun _ _ _ _ _ _ alone waits _ bad => exec_testComplete_of_bad alone waits bad,
    fun _ _ _ _ none_ => exec_testComplete_of_none none_⟩

/-- Settles O32: the checks in their order; a test that finds a failure stays in progress, or ends with UNIT_FAILED, through
all that each unit's failure sets off. -/
theorem unitCommands : Obligations.UnitCommands := ⟨resetUnitCommand, selfTestCommand⟩

end Sys2Proof.Machine
end
